-- ==== Sys2Proof/Word.lean ====
section
/-! DEFINITION. The word types and the index types that name the units of the module (R5, R14, R15, R18, R180). -/

namespace Sys2Proof

/-- A register or stride-program word (R5, R72). -/
abbrev Word := BitVec 64

/-- A byte of memory (R9). -/
abbrev Byte := BitVec 8

/-- A physical block, y × 40 + x (R14). -/
abbrev PBlk := Fin 1280

/-- A logical block L0 to L1199 (R18). -/
abbrev LBlk := Fin 1200

/-- A region (R15). -/
abbrev Rgn := Fin 16

/-- A source or destination of packets: a physical block or an endpoint number (R180). -/
abbrev MUnit := Fin 1401

/-- A groom thread, 4 × groom + thread (R119, R146). -/
abbrev Thr := Fin 8

/-- A general register number of a groom (R121). -/
abbrev GReg := Fin 32

/-- A handle of a block (R136). -/
abbrev Hdl := Fin 64

/-- An HBM4 stack (R234). -/
abbrev Stk := Fin 8

/-- A channel, or the manger engine beside it, of one stack (R235, R243). -/
abbrev Chn := Fin 32

/-- A DDR5 channel (R240). -/
abbrev DCh := Fin 12

/-- A Trace port (R402). -/
abbrev TPort := Fin 8

/-- Ports 0 to 7 are Trace ports, 8 and 9 the yoke ports (CAD_SYNC_CTL.port). -/
abbrev FPort := Fin 10

/-- A command ring (R388). -/
abbrev Ring := Fin 4

end Sys2Proof
end

