-- ==== Sys2Proof/Syntax.lean ====
section
/-! DEFINITION. The commands of the block: one constructor per row of the opcode table, with what the sender supplies.
What a step reads from the block's own state (a program word, a packet, a descriptor) is not an operand; what only the
silicon or the outside world decides (a fault of the hardware, a reading, a received frame) is. -/

namespace Sys2Proof

/-- What the hardware does to one stride-program operation (R87): nothing; a corrected single-bit error; a residue
mismatch of row `row` whose repeat matches; or a stop with `code` after `done` rows or lines were committed. -/
inductive EngineHw where
  | none
  | ecc (column : Fin 64)
  | retry (row : Nat) (column : Fin 64)
  | stop (code : Nat) (column : Fin 64) (done : Nat)
deriving DecidableEq, Repr

/-- What the hardware does to one groom instruction (R128): codes 0x24, 0x25, 0x26 (an uncorrectable scratchpad word that the groom
reads, or that the width gatherer of a bank reads to merge) and 0x27 (whether the repeat matches). -/
inductive GroomHw where
  | none
  | corrected
  | double
  | spad (merge : Option (Fin 8))
  | residue (repeatOk : Bool)
deriving DecidableEq, Repr

/-- What the hardware does to a store that the graph reads (R170): nothing, a corrected single-bit error (0x45), or a double-bit
error (0x46). -/
inductive StoreHw where
  | none
  | corrected
  | double
deriving DecidableEq, Repr

/-- What a memory controller finds in a line that a request reads (R238, R257, R260): nothing; an error that its code corrects; an
uncorrectable one. -/
inductive DramHw where
  | none
  | corrected
  | uncorrectable
deriving DecidableEq, Repr

/-- What the hardware does to a step of a manger call (R254): nothing; code 0x81; a residue mismatch whose repeat matches (0x82); or a
lasting fault (0x83). -/
inductive LaneHw where
  | none
  | corrected
  | retry
  | lasting
deriving DecidableEq, Repr

/-- A second operand of an integer instruction. -/
inductive GSrc where
  | reg (r : GReg)
  | imm (v : Word)
deriving DecidableEq, Repr

/-- Integer operations (R122). -/
inductive IntOp where
  | add | sub | and | or | xor | shl | shr | sar | eq | ne | lt | ltu | mul | div | divu | rem | remu
deriving DecidableEq, Repr

/-- Branch conditions. -/
inductive Cond where
  | eq | ne | lt | ge | ltu | geu
deriving DecidableEq, Repr

/-- Lane-wise binary32 operations of two operands (R122). -/
inductive F32Op where
  | add | mul | min | max | cmpEq | cmpLt | cmpLe
deriving DecidableEq, Repr

/-- Lane-wise integer operations (R122). -/
inductive VIntOp where
  | add | addSat | mul | mulSat | dot | dotAcc
deriving DecidableEq, Repr

/-- Formats by the code of R73. -/
abbrev FmtCode := Fin 12

/-- Instructions of the integer, branch, vector, conversion and block-register classes (R122). -/
inductive GroomOp where
  | int (op : IntOp) (rd ra : GReg) (b : GSrc)
  | branch (c : Cond) (ra rb : GReg) (target : Fin 4096)
  | jump (target : Fin 4096)
  | jumpReg (ra : GReg)
  | jumpLink (rd : GReg) (target : Fin 4096)
  | vf32 (op : F32Op) (vd va vb : GReg)
  | vfma (vd va vb vc : GReg)
  | vreduce (vd va : GReg)
  | vint (op : VIntOp) (wide : Bool) (vd va vb : GReg)
  | toF32 (f : FmtCode) (vd va : GReg)
  | fromF32 (f : FmtCode) (clip : Bool) (vd va : GReg)
  | regRead (rd : GReg) (off : Fin 65536)
  | regWrite (off : Fin 65536) (ra : GReg)
  | unused
deriving DecidableEq, Repr

/-- Access sizes of groom loads and stores (R122): 1, 2, 4 or 8 bytes to a g register, 16 to a v register. -/
inductive GSize where
  | b1 | b2 | b4 | b8 | b16
deriving DecidableEq, Repr

/-- Bytes of an access. -/
def GSize.bytes : GSize → Nat
  | .b1 => 1 | .b2 => 2 | .b4 => 4 | .b8 => 8 | .b16 => 16

/-- What became of a bring-up step (R290 to R296): the unit failures found, by kind. -/
structure StepReport where
  ok : Bool
  slotsOk : Fin 4
  fuseOk : Bool
  badStacks : List (Fin 8)
  badChannels : List (Fin 12)
  badPorts : List FPort
  badLinks : List (PBlk × Fin 4)
  failedOnce : List PBlk
  failedTwice : List PBlk
  badEngines : List (Fin 256)
  selfRefreshOk : Bool
  badRouters : List PBlk := []
deriving DecidableEq, Repr

/-- A fault that starts a recovery (R343); a memory error starts its own with UNCORRECTABLE_ERROR (R260). -/
inductive Fault1 where
  | block (p : PBlk)
  | router (p : PBlk)
  | tether (p : PBlk)
  | shadow (p : PBlk)
  | mismatch
deriving DecidableEq, Repr

/-- A HELLO message's content (R366). -/
structure HelloMsg where
  identity : Word
  variantId : Fin 3
  sequence : Word
  digest : Nat
  twin : List Byte
  rolePref : Fin 4
  ready : Bool
deriving DecidableEq, Repr

/-- What a STATE message says (R366). -/
inductive YokeSay where
  | recovering | c0 (stride : Word) | detach | down | unpair | resumed
deriving DecidableEq, Repr

/-- An instruction of the test access port (R428): the four that it always offers, and any other. -/
inductive TapInstr where
  | bypass | idcode | samplePreload | extest
  | other (code : Nat)
deriving DecidableEq, Repr

/-- A configuration value that SET_CONFIG writes (R411). -/
inductive ConfigItem where
  | riderGib (v : Nat)
  | mgmtAddr (bytes : List Byte)
  | mgmtCapW (v : Nat)
  | thermalTripC (v : Nat)
deriving DecidableEq, Repr

/-- Commands. -/
inductive Instr where
  -- power and bring-up
  | inputInRange
  | inputOutOfRange
  | moduleEnRise
  | moduleEnFall
  | resetNAssert (lowNs : Nat)
  | resetNRelease
  | bringupStepComplete (r : StepReport)
  -- Cadence
  | beatIssue
  | beatArrive (p : PBlk) (carried : BitVec 16) (parityOk : Bool)
  | strideAck (p : PBlk)
  | regionAck (r : Rgn)
  | tetherTimeout (p : PBlk)
  | rejoinFailed
  | syncExchange (t1 t2 t3 t4 : Nat)
  | syncAnswer (port : FPort) (peer : BitVec 16) (t2 t3 : Nat)
  | portStateChange (port : FPort) (up : Bool)
  | cadPeriodWrite (at_ : Bool) (v : Word)
  -- stride program
  | nop (p : PBlk) (hw : EngineHw)
  | loadw (p : PBlk) (hw : EngineHw)
  | stream (p : PBlk) (hw : EngineHw)
  | drain (p : PBlk) (hw : EngineHw)
  | anchor (p : PBlk) (hw : EngineHw)
  | convert (p : PBlk) (hw : EngineHw)
  | strideSend (p : PBlk) (hw : EngineHw)
  | combine (p : PBlk) (hw : EngineHw)
  | strideTally (p : PBlk) (hw : EngineHw)
  | waittag (p : PBlk) (hw : EngineHw)
  | splice (p : PBlk) (hw : EngineHw)
  -- grooms
  | groomInstruction (p : PBlk) (t : Thr) (op : GroomOp) (hw : GroomHw)
  | groomLoad (p : PBlk) (t : Thr) (size : GSize) (signed : Bool) (rd ra : GReg) (off : Word) (hw : GroomHw)
  | groomStore (p : PBlk) (t : Thr) (size : GSize) (rs ra : GReg) (off : Word) (hw : GroomHw)
  | handleAccess (p : PBlk) (t : Thr) (write : Bool) (size : GSize) (r ref ra : GReg) (off : Word) (hw : GroomHw := .none)
  | rand (p : PBlk) (t : Thr) (rd ra : GReg) (seed3 : Bool) (hw : GroomHw := .none)
  | groomSend (p : PBlk) (t : Thr) (a b c : GReg) (imm : BitVec 7) (hw : GroomHw := .none)
  | recv (p : PBlk) (t : Thr) (a b c : GReg) (imm : BitVec 7) (hw : GroomHw := .none)
  | poll (p : PBlk) (t : Thr) (a b : GReg) (imm : BitVec 7) (hw : GroomHw := .none)
  | handleRead (p : PBlk) (t : Thr) (a b : GReg) (hw : GroomHw := .none)
  | handleRef (p : PBlk) (t : Thr) (a b : GReg) (hw : GroomHw := .none)
  | handleOpen (p : PBlk) (t : Thr) (a b : GReg) (hw : GroomHw := .none)
  | handleClose (p : PBlk) (t : Thr) (a b : GReg) (hw : GroomHw := .none)
  | handleRebind (p : PBlk) (t : Thr) (a b c : GReg) (hw : GroomHw := .none)
  | handleBump (p : PBlk) (t : Thr) (a b : GReg) (hw : GroomHw := .none)
  | groomTally (p : PBlk) (t : Thr) (b c : GReg) (hw : GroomHw := .none)
  | balkchkQuery (p : PBlk) (t : Thr) (a b : GReg) (hw : GroomHw := .none)
  | balkchkRetry (p : PBlk) (t : Thr) (a b : GReg) (hw : GroomHw := .none)
  | balkchkDiscard (p : PBlk) (t : Thr) (a b : GReg) (hw : GroomHw := .none)
  | yieldTurn (p : PBlk) (t : Thr) (hw : GroomHw := .none)
  | yieldEnd (p : PBlk) (t : Thr) (hw : GroomHw := .none)
  | fencewait (p : PBlk) (t : Thr) (imm : BitVec 7) (hw : GroomHw := .none)
  | hdlWrite (p : PBlk) (h : Hdl) (which : Fin 5) (v : Word)
  | pkhHeadWrite (p : PBlk) (thread : Option Thr) (v : Word)
  | descriptorStart (p : PBlk) (ring : Bool) (hw : Fin 3)
  | descriptorComplete (p : PBlk) (ring : Bool)
  -- dataflow
  | tokenArrive (p : PBlk) (hw : StoreHw := .none)
  | fireListEntryStart (p : PBlk) (hw : StoreHw := .none)
  | freeNodeFire (p : PBlk) (hw : StoreHw := .none)
  | reinSelection (p : PBlk) (hw : StoreHw := .none) (bad : Bool := false)
  | cqContribute (p : PBlk) (bad : Bool := false)
  | cqForward (p : PBlk) (cq : Fin 16) (bad : Bool := false)
  | scanOut (p : PBlk) (bySteward : Bool)
  | scanIn (p : PBlk) (bySteward : Bool)
  | scanDone (p : PBlk)
  -- mesh
  | packetInject (u : MUnit) (bad : Bool := false)
  | flitReceive (p : PBlk) (port : Fin 6) (vc : Fin 2) (hw : Fin 5)
  | packetHeaderArrive (p : PBlk) (port : Fin 6) (vc : Fin 2) (crcOk : Bool)
  | mergeEntryLeave (p : PBlk) (i : Fin 8)
  | gaitEntryServe (p : PBlk) (crcOk : Bool := true)
  | multicastBranchSend (p : PBlk) (vc : Fin 2) (port : Fin 6)
  | packetAccept (u : MUnit)
  | ackSend (u : MUnit) (peer : MUnit) (vc : Fin 2)
  | ackReceive (u : MUnit)
  | echoReceive (p : PBlk)
  | resendTimeout (u : MUnit) (dest : MUnit) (vc : Fin 2)
  | credit (p : PBlk)
  | epochFlipStart (r : Rgn)
  | epochFlipRequest
  | flipDrained
  | flipDrainTimeout
  -- messages and windows
  | messageArrive (p : PBlk)
  | windowWriteArrive (p : PBlk)
  | reoffer (p : PBlk) (t : Thr) (slot : Fin 4)
  | queueClose (p : PBlk) (q : Fin 256)
  | queueReopen (p : PBlk) (q : Fin 256)
  | windowCloseComplete (p : PBlk) (h : Hdl)
  | windowCloseTimeout (p : PBlk) (h : Hdl)
  -- memory and manger engines
  | memRead (u : MUnit) (hw : DramHw)
  | memWrite (u : MUnit) (hw : DramHw)
  | memReply (u : MUnit)
  | mgrCall (u : MUnit)
  | gemv (k : Stk) (c : Chn) (hw : LaneHw)
  | decodeAttend (k : Stk) (c : Chn) (hw : LaneHw)
  | gather (k : Stk) (c : Chn) (hw : LaneHw)
  | mgrCallComplete (k : Stk) (c : Chn)
  | mgrResult (p : PBlk)
  | refresh (unit : Fin 20) (temp : BitVec 8)
  | scrubBurst (k : Option Stk) (c : Chn) (bad : Option Nat)
  | sigRangeEnable (k : Stk) (j : Fin 16)
  | sigRangeDisable (k : Stk) (j : Fin 16)
  | rowsigComplete (k : Stk) (j : Fin 16)
  | uncorrectableError (ddr : Bool) (addr : Nat) (sigMiss : Bool) (load : Option (PBlk × Hdl))
  | ddr5Retraining (c : DCh)
  -- image
  | imageLoad
  | imageCommit (loadFault : Option (LBlk × Hdl))
  | imageStage
  | stageComplete
  | stageCancel
  | imageWithdraw
  | swapQuietWait
  | swapQuiet
  | swapQuietTimeout
  -- screening
  | bistSliceStart (p : PBlk)
  | bistSliceEnd (p : PBlk) (pass : Bool) (place : Word)
  | diagnosticRunEnd (p : PBlk)
  | mangerSlice (k : Stk) (c : Chn) (slice : Fin 4) (ok1 ok2 : Bool)
  | testLapsed (u : Fin 1536)
  | plannedSwap (p : PBlk)
  | preemptInPlace (p : PBlk) (pass : Bool)
  | shadowVerdict (p : PBlk) (u : Option Word)
  | chipSweepRecord
  | saddlebagComplete (p : PBlk)
  | saddlebagInvalid
  -- recovery and leases
  | recoveryStart (cause : Fault1)
  | blockRestore (p : PBlk)
  | regionRecovery (r : Rgn) (tackLost : Bool)
  | leaseAcquire (code : Fin 16) (res : Nat) (nowait : Bool)
  | leaseGrant
  | leaseRelease (code : Fin 16) (res : Nat)
  | leaseStarved
  -- twins
  | twinPair
  | pairingTimeout
  | twinUnpair
  | twinRejoin
  | twnPartnerDown
  | detachSelf
  | hello (m : HelloMsg)
  | yokeAttest (nonce : Bool) (bytes : List Byte) (valid : Bool)
  | yokeTally (stride tally done : Word) (flags : BitVec 8)
  | yokeAdmit (ident stride : Word) (length : Nat) (crc : Word)
  | yokeInput (ident : Word) (payload : List Byte)
  | yokeWrite (ddr : Bool) (addr : Nat) (lines : List Byte)
  | save (l : LBlk) (c : Word) (bytes : List Byte)
  | btally (words : List Word)
  | yokeState (what : YokeSay) (done : Word)
  | quiet (stride : Word)
  | comparisonTimeout
  | yokePortLost (j : Fin 2)
  | twinDetChange (j : Fin 2) (powered : Bool)
  -- Dispatch and ports
  | commandFetch
  | cmdNop
  | launch
  | admitJob
  | admitDeliver
  | endCmd
  | waitCmd
  | jobEnd
  | completionPost
  | commandQuery (v : Word)
  | stepGrant (r : Ring)
  | ringEnable (ring : Fin 6) (v : Word)
  | heartbeat (v : Word)
  | riderSilent
  | traceCtlWrite (p : TPort) (v : Word)
  | templateReload (p : TPort) (v : Word)
  | frameReceive (p : TPort) (bytes : List Byte) (fcsOk : Bool)
  | frameTransmit (p : TPort)
  | outputFrame (p : TPort)
  | fabricFrameReceive (port : FPort) (bytes : List Byte) (fcsOk : Bool)
  | fabricRetransmit (port : FPort) (peer : BitVec 16)
  | remoteRequest (port : FPort)
  | peerReset
  -- Farrier
  | farrierRestart
  | eventRecordIntake
  | logFlush
  | sensorRead (index : BitVec 8) (value : BitVec 32)
  | sessionOpen (chainsToAnchor : Bool)
  | getState (sess : Fin 4) (n : BitVec 32)
  | subscribe (sess : Fin 4) (n : BitVec 32) (start : Word)
  | logRead (sess : Fin 4) (n : BitVec 32) (seq : Word)
  | sensors (sess : Fin 4) (n : BitVec 32)
  | studRead (sess : Fin 4) (n : BitVec 32) (index : Nat)
  | setConfig (sess : Fin 4) (n : BitVec 32) (item : ConfigItem)
  | outOfService (sess : Fin 4) (n : BitVec 32)
  | clear (sess : Fin 4) (n : BitVec 32)
  | partnerDown (sess : Fin 4) (n : BitVec 32)
  | packPush (sess : Fin 4) (n : BitVec 32) (bytes : List Byte)
  | fwStage (sess : Fin 4) (n : BitVec 32) (bytes : List Byte)
  | fwActivate (sess : Fin 4) (n : BitVec 32) (component : Fin 6) (at_ : Word)
  | fwCommit (sess : Fin 4) (n : BitVec 32) (component : Fin 6)
  | installAnchor (sess : Fin 4) (n : BitVec 32) (cert : List Byte)
  | installKey (sess : Fin 4) (n : BitVec 32) (key : List Byte)
  | removeKey (sess : Fin 4) (n : BitVec 32) (ident : List Byte)
  | attest (sess : Fin 4) (n : BitVec 32) (nonce : List Byte)
  | scanUnlock (sess : Fin 4) (n : BitVec 32) (scrub : Bool)
  | mbxLogRead
  | mbxStudRead
  | mbxLease
  | mbxPartnerDown
  -- hangs, resets, observation
  | watchdogProbeMissed (who : Fin 1297)
  | blockResetRequest (p : PBlk)
  | regionResetRequest (r : Rgn)
  | chipResetRequest
  | traceRecord (p : PBlk) (kind unit : Nat) (source tag idx start dur : Nat)
  | traceStore (p : PBlk)
  -- address space
  | riderWindowAccess (core : Fin 16) (addr size : Nat) (data : Option (List Byte))
  | unmappedAccess (addr : Nat) (write : Bool)
  | narrowRegisterAccess (addr size : Nat) (write : Bool)
  | registerWrite (addr : Nat) (v : Word)
  | railsOff
  | riderBootStart
  | farrierRestartDone
  | tapInstruction (i : TapInstr)
deriving DecidableEq, Repr

end Sys2Proof
end

