-- ==== Sys2Proof/Decode.lean ====
section
/-! DEFINITION. The command that a word of the opcode table spells. The table gives no row any bits: a command comes from
outside with its operands, so no word spells one. The encodings that the spec does give (stride-program words, groom
instructions, descriptors, headers, records) are read in Machine/Operands.lean. -/

namespace Sys2Proof

/-- The command whose bits, as the table numbers them, are `w`: none, for no row has bits. -/
def decodeTableWord (_nbits _w : Nat) : Option Instr := none

end Sys2Proof
end

