-- ==== Sys2Proof/Machine/Sparse.lean ====
section
/-! DEFINITION. Sparse tables keyed by numbers, in one canonical form: keys strictly rising and no entry equal to
what an unlisted key reads as. Memories, register files and tables of units are held so. -/

namespace Sys2Proof.Machine

/-- A sparse table. -/
abbrev Cells (α : Type) := List (Nat × α)

/-- The entry of key `k`; `d k` where none is listed. -/
def mget {α : Type} (d : Nat → α) : Cells α → Nat → α
  | [], k => d k
  | (a, v) :: m, k => if a = k then v else mget d m k

/-- List `v` under `k`, in its place by key. -/
def mins {α : Type} (k : Nat) (v : α) : Cells α → Cells α
  | [] => [(k, v)]
  | (a, w) :: m =>
    if k < a then (k, v) :: (a, w) :: m
    else if k = a then (k, v) :: m
    else (a, w) :: mins k v m

/-- Remove every entry of `k`. -/
def mdel {α : Type} (k : Nat) (m : Cells α) : Cells α := m.filter (fun e => e.1 ≠ k)

/-- Write `v` under `k`: a value equal to the default removes the entry. -/
def mset {α : Type} [DecidableEq α] (d : Nat → α) (m : Cells α) (k : Nat) (v : α) : Cells α :=
  if v = d k then mdel k m else mins k v m

/-- Every key at or above `lo` and below `hi` reads as its default. -/
def mclear {α : Type} (lo hi : Nat) (m : Cells α) : Cells α :=
  m.filter (fun e => e.1 < lo || hi ≤ e.1)

/-- The canonical form, checked against the least key allowed. -/
def mwfFrom {α : Type} [DecidableEq α] (d : Nat → α) : Nat → Cells α → Bool
  | _, [] => true
  | lo, (a, v) :: m => decide (lo ≤ a) && decide (v ≠ d a) && mwfFrom d (a + 1) m

/-- The canonical form: keys strictly rising, no entry equal to its default. -/
def mwf {α : Type} [DecidableEq α] (d : Nat → α) (m : Cells α) : Bool := mwfFrom d 0 m

/-- A byte memory: what is not listed reads zero (R297: every line is zero after a cold or warm full path). -/
abbrev Memory := Cells Byte

/-- What an unlisted byte reads as. -/
def byteZero : Nat → Byte := fun _ => 0

/-- One byte of a memory. -/
def Memory.byte (m : Memory) (a : Nat) : Byte := mget byteZero m a

/-- Write one byte. -/
def Memory.put (m : Memory) (a : Nat) (b : Byte) : Memory := mset byteZero m a b

/-- `n` bytes from `a` up. -/
def Memory.bytes (m : Memory) (a : Nat) : Nat → List Byte
  | 0 => []
  | n + 1 => Memory.byte m a :: Memory.bytes m (a + 1) n

/-- Write bytes from `a` up. -/
def Memory.puts (m : Memory) (a : Nat) : List Byte → Memory
  | [] => m
  | b :: bs => Memory.puts (Memory.put m a b) (a + 1) bs

/-- Write those bytes whose mask bit is set (a byte-masked line, R181). -/
def Memory.putsMasked (m : Memory) (a : Nat) : List (Byte × Bool) → Memory
  | [] => m
  | (b, true) :: bs => Memory.putsMasked (Memory.put m a b) (a + 1) bs
  | (_, false) :: bs => Memory.putsMasked m (a + 1) bs

/-- The canonical form of a byte memory. -/
def Memory.wf (m : Memory) : Bool := mwf byteZero m

end Sys2Proof.Machine
end

