-- ==== Sys2Proof/Machine/Bits.lean ====
section
/-! DEFINITION. Bit fields of words, little-endian byte strings (R9), the CRC-64 of R267 and the header CRC of R183. -/

namespace Sys2Proof.Machine

/-- Bits [hi:lo] of a word, as a number. -/
def bitsOf (w : Word) (hi lo : Nat) : Nat := (w.toNat >>> lo) % 2 ^ (hi + 1 - lo)

/-- The word with bits [hi:lo] ones and every other bit zero. -/
def maskOf (hi lo : Nat) : Word := BitVec.ofNat 64 ((2 ^ (hi + 1 - lo) - 1) <<< lo)

/-- The word with bits [hi:lo] replaced by the low bits of `v`. -/
def putBits (w : Word) (hi lo v : Nat) : Word :=
  (w &&& ~~~ maskOf hi lo) ||| (BitVec.ofNat 64 (v <<< lo) &&& maskOf hi lo)

/-- A named field of a register: the register's place and the field's bits (R5, R6). -/
structure Fld where
  off : Nat
  hi : Nat
  lo : Nat
deriving DecidableEq, Repr

/-- The width of a field in bits. -/
def Fld.width (f : Fld) : Nat := f.hi + 1 - f.lo

/-- The largest value a field holds. -/
def Fld.top (f : Fld) : Nat := 2 ^ f.width - 1

/-- A register file: words by place; an unlisted register holds its reset value. -/
abbrev Regs := Cells Word

/-- The value of bits of a number. -/
def nbits (n hi lo : Nat) : Nat := (n >>> lo) % 2 ^ (hi + 1 - lo)

/-- Bit `i` of a number. -/
def nbit (n i : Nat) : Bool := n.testBit i

/-- A truth value as a bit. -/
def b2n (b : Bool) : Nat := if b then 1 else 0

/-- A bit as a truth value. -/
def n2b (n : Nat) : Bool := n % 2 == 1

/-- The two's complement reading of the low `w` bits. -/
def signed (w n : Nat) : Int := (BitVec.ofNat w n).toInt

/-- The low `w` bits of an integer in two's complement. -/
def unsigned (w : Nat) (i : Int) : Nat := (BitVec.ofInt w i).toNat

/-- Little-endian value of bytes (R9). -/
def leNat : List Byte → Nat
  | [] => 0
  | b :: bs => b.toNat + 256 * leNat bs

/-- `n` little-endian bytes of a number. -/
def leBytes : Nat → Nat → List Byte
  | 0, _ => []
  | n + 1, v => BitVec.ofNat 8 v :: leBytes n (v / 256)

/-- Big-endian value of bytes (LMS and SHA-256 strings). -/
def beNat (bs : List Byte) : Nat := bs.foldl (fun a b => a * 256 + b.toNat) 0

/-- `n` big-endian bytes of a number. -/
def beBytes (n v : Nat) : List Byte := (leBytes n v).reverse

/-- `n` bytes from index `a`, zero beyond the end. -/
def sliceZ (bs : List Byte) (a n : Nat) : List Byte :=
  let s := (bs.drop a).take n
  s ++ List.replicate (n - s.length) 0

/-- The little-endian number in bytes `a` to `a + n - 1`. -/
def leAt (bs : List Byte) (a n : Nat) : Nat := leNat (sliceZ bs a n)

/-- Whether bytes `a` to `a + n - 1` are all zero. -/
def zeroAt (bs : List Byte) (a n : Nat) : Bool := (sliceZ bs a n).all (· == 0)

/-- ⌈a / b⌉. -/
def ceilDiv (a b : Nat) : Nat := (a + b - 1) / b

/-- Cut a byte string into pieces of `n` bytes (the last may be shorter); `fuel` bounds the number of pieces. -/
def chunks (n : Nat) : Nat → List Byte → List (List Byte)
  | 0, _ => []
  | _ + 1, [] => []
  | k + 1, bs => bs.take n :: chunks n k (bs.drop n)

/-- Pad with zero bytes to a multiple of `n`. -/
def padTo (n : Nat) (bs : List Byte) : List Byte :=
  bs ++ List.replicate ((n - bs.length % n) % n) 0

/-- The reflected polynomial of R267. -/
def crc64Poly : Word := 0xC96C5795D7870F42#64

/-- Eight reflected shift steps of the CRC-64 register. -/
def crc64Shift : Nat → Word → Word
  | 0, c => c
  | n + 1, c => crc64Shift n (if c.getLsbD 0 then (c >>> 1) ^^^ crc64Poly else c >>> 1)

/-- One byte into the CRC-64 register. -/
def crc64Step (c : Word) (b : Byte) : Word := crc64Shift 8 (c ^^^ b.setWidth 64)

/-- The CRC-64 of the manual (R267). -/
def crc64 (bs : List Byte) : Word := ~~~ (bs.foldl crc64Step (BitVec.allOnes 64))

/-- Shift steps of the 16-bit CRC x^16 + x^12 + x^5 + 1, most significant bit first. -/
def crc16Shift : Nat → BitVec 16 → BitVec 16
  | 0, c => c
  | n + 1, c => crc16Shift n (if c.getLsbD 15 then (c <<< 1) ^^^ 0x1021#16 else c <<< 1)

/-- One byte into the header CRC register. -/
def crc16Step (c : BitVec 16) (b : Byte) : BitVec 16 := crc16Shift 8 (c ^^^ (b.setWidth 16 <<< 8))

/-- The header CRC (R183): initial value 0xFFFF, most significant bit of each byte first. -/
def crc16 (bs : List Byte) : BitVec 16 := bs.foldl crc16Step 0xFFFF#16

end Sys2Proof.Machine
end

