-- ==== Sys2Proof/Machine/Numbers.lean ====
section
/-! DEFINITION. Exact numbers, element formats (R73, R90 to R93), MX packing (R91, R92) and the one rounding of a
number to a grid (R96, R105). -/

namespace Sys2Proof.Machine

/-- The number m × 2^e. -/
structure Dy where
  m : Int
  e : Int
deriving DecidableEq, Repr

/-- The whole number m × 2^n. -/
def shlInt (m : Int) (n : Nat) : Int := m * 2 ^ n

/-- Zero. -/
def Dy.zero : Dy := ⟨0, 0⟩

/-- One. -/
def Dy.one : Dy := ⟨1, 0⟩

/-- The product. -/
def Dy.mul (x y : Dy) : Dy := ⟨x.m * y.m, x.e + y.e⟩

/-- The mantissa of `x` at exponent `e`, for `e` not above x.e. -/
def Dy.at (x : Dy) (e : Int) : Int := shlInt x.m (x.e - e).toNat

/-- The exact sum. -/
def Dy.add (x y : Dy) : Dy :=
  if x.m = 0 then y else if y.m = 0 then x else
  let e := min x.e y.e
  ⟨x.at e + y.at e, e⟩

/-- The negation. -/
def Dy.neg (x : Dy) : Dy := ⟨-x.m, x.e⟩

/-- The magnitude. -/
def Dy.abs (x : Dy) : Dy := ⟨x.m.natAbs, x.e⟩

/-- Whether `x` is below `y`. -/
def Dy.lt (x y : Dy) : Bool :=
  let e := min x.e y.e
  decide (x.at e < y.at e)

/-- Whether the two numbers are equal. -/
def Dy.eqv (x y : Dy) : Bool :=
  let e := min x.e y.e
  decide (x.at e = y.at e)

/-- ⌊log2 |x|⌋ of a number other than zero. -/
def Dy.log2 (x : Dy) : Int := (x.m.natAbs.log2 : Int) + x.e

/-- A value an element, a scale or a pipeline stage holds. -/
inductive Val where
  | fin (d : Dy)
  | inf (neg : Bool)
  | nan
deriving DecidableEq, Repr

/-- Whether a value is a finite zero. -/
def Val.isZero : Val → Bool
  | .fin d => d.m == 0
  | _ => false

/-- Whether a value is below zero; an infinity by its sign. -/
def Val.isNeg : Val → Bool
  | .fin d => decide (d.m < 0)
  | .inf n => n
  | .nan => false

/-- The product under the special rules of R93 and R103. -/
def Val.mul (x y : Val) : Val :=
  match x, y with
  | .nan, _ => .nan
  | _, .nan => .nan
  | .fin a, .fin b => .fin (a.mul b)
  | x, y => if x.isZero || y.isZero then .nan else .inf (x.isNeg != y.isNeg)

/-- The sum under the special rules of R103. -/
def Val.add (x y : Val) : Val :=
  match x, y with
  | .nan, _ => .nan
  | _, .nan => .nan
  | .fin a, .fin b => .fin (a.add b)
  | .inf a, .inf b => if a = b then .inf a else .nan
  | .inf a, _ => .inf a
  | _, .inf b => .inf b

/-- Whether `x` is below `y`; a NaN is below nothing. -/
def Val.lt (x y : Val) : Bool :=
  match x, y with
  | .fin a, .fin b => a.lt b
  | .inf true, .inf true => false
  | .inf true, .fin _ => true
  | .inf true, .inf false => true
  | .fin _, .inf false => true
  | _, _ => false

/-- The formats of the table titled Format codes (R73). -/
inductive Fmt where
  | e4m3 | e5m2 | mx8e4m3 | mx8e5m2 | mx6e2m3 | mx6e3m2 | mx4 | int8 | int4 | bf16 | f16 | f32
deriving DecidableEq, Repr

/-- The format of a code; codes 12 to 15 are not used (R73). -/
def Fmt.ofCode : Nat → Option Fmt
  | 0 => some .e4m3 | 1 => some .e5m2 | 2 => some .mx8e4m3 | 3 => some .mx8e5m2 | 4 => some .mx6e2m3
  | 5 => some .mx6e3m2 | 6 => some .mx4 | 7 => some .int8 | 8 => some .int4 | 9 => some .bf16
  | 10 => some .f16 | 11 => some .f32 | _ => none

/-- The code of a format (R73). -/
def Fmt.code : Fmt → Nat
  | .e4m3 => 0 | .e5m2 => 1 | .mx8e4m3 => 2 | .mx8e5m2 => 3 | .mx6e2m3 => 4 | .mx6e3m2 => 5
  | .mx4 => 6 | .int8 => 7 | .int4 => 8 | .bf16 => 9 | .f16 => 10 | .f32 => 11

/-- Whether the format carries E8M0 scales (R91). -/
def Fmt.isMx : Fmt → Bool
  | .mx8e4m3 | .mx8e5m2 | .mx6e2m3 | .mx6e3m2 | .mx4 => true
  | _ => false

/-- Bits of one element. -/
def Fmt.bits : Fmt → Nat
  | .e4m3 | .e5m2 | .mx8e4m3 | .mx8e5m2 | .int8 => 8
  | .mx6e2m3 | .mx6e3m2 => 6
  | .mx4 | .int4 => 4
  | .bf16 | .f16 => 16
  | .f32 => 32

/-- How a floating-point element type is laid out (R90). -/
structure FpSpec where
  ebits : Nat
  fbits : Nat
  bias : Nat
  /-- Largest finite exponent of two and fraction, as an exact value. -/
  big : Dy
  /-- Whether subnormal results are produced (R105, R109). -/
  sub : Bool
  /-- Largest exponent of an MX element type, emax of R110. -/
  emax : Nat
deriving DecidableEq, Repr

/-- The layout of a format's elements; none for the integer formats. -/
def Fmt.fp : Fmt → Option FpSpec
  | .e4m3 | .mx8e4m3 => some ⟨4, 3, 7, ⟨7, 6⟩, true, 8⟩
  | .e5m2 | .mx8e5m2 => some ⟨5, 2, 15, ⟨7, 13⟩, true, 15⟩
  | .mx6e2m3 => some ⟨2, 3, 1, ⟨15, -1⟩, true, 2⟩
  | .mx6e3m2 => some ⟨3, 2, 3, ⟨7, 2⟩, true, 4⟩
  | .mx4 => some ⟨2, 1, 1, ⟨3, 1⟩, true, 2⟩
  | .bf16 => some ⟨8, 7, 127, ⟨255, 120⟩, false, 127⟩
  | .f16 => some ⟨5, 10, 15, ⟨2047, 5⟩, false, 15⟩
  | .f32 => some ⟨8, 23, 127, ⟨16777215, 104⟩, false, 127⟩
  | .int8 | .int4 => none

/-- The exponent of the smallest normal value. -/
def FpSpec.emin (s : FpSpec) : Int := 1 - (s.bias : Int)

/-- Sign, exponent and fraction fields as an exact value; a subnormal where the exponent field is zero. -/
def FpSpec.value (s : FpSpec) (sg e f : Nat) : Dy :=
  let m : Nat := if e = 0 then f else f + 2 ^ s.fbits
  let x : Int := (if e = 0 then 1 else (e : Int)) - s.bias - s.fbits
  ⟨if sg = 1 then -(m : Int) else m, x⟩

/-- The value of an element's bits (R90, R93): BF16 and binary16 subnormals read as zero. -/
def Fmt.decode (f : Fmt) (n : Nat) : Val :=
  match f.fp with
  | none => .fin ⟨signed f.bits n, 0⟩
  | some s =>
    let fr := n % 2 ^ s.fbits
    let e := (n / 2 ^ s.fbits) % 2 ^ s.ebits
    let sg := (n / 2 ^ (s.fbits + s.ebits)) % 2
    let top := e == 2 ^ s.ebits - 1
    match f with
    | .e4m3 => if top && fr == 7 then .nan else .fin (s.value sg e fr)
    | .mx8e4m3 => if top && fr == 7 then .nan else .fin (s.value sg e fr)
    | .mx6e2m3 | .mx6e3m2 | .mx4 => .fin (s.value sg e fr)
    | .bf16 | .f16 =>
      if top then (if fr = 0 then .inf (sg == 1) else .nan)
      else if e = 0 then .fin Dy.zero else .fin (s.value sg e fr)
    | _ => if top then (if fr = 0 then .inf (sg == 1) else .nan) else .fin (s.value sg e fr)

/-- The value of an E8M0 scale (R91). -/
def e8m0 (b : Byte) : Val := if b = 0xFF#8 then .nan else .fin ⟨1, (b.toNat : Int) - 127⟩

/-- Element `i` of a row whose elements of `w` bits are packed as a bit string (R92). -/
def packedAt (row : List Byte) (w i : Nat) : Nat :=
  let b := w * i
  (leAt row (b / 8) 5 >>> (b % 8)) % 2 ^ w

/-- Pack elements of `w` bits into `n` bytes, low bits first (R92). -/
def packBits (w n : Nat) (xs : List Nat) : List Byte :=
  leBytes n ((xs.zipIdx).foldl (fun a (x, i) => a + (x % 2 ^ w) * 2 ^ (w * i)) 0)

/-- The nearest whole multiple of 2^a, ties to the even multiple, and whether it is exact (R96). -/
def Dy.units (x : Dy) (a : Int) : Int × Bool :=
  if a ≤ x.e then (x.at a, true)
  else
    let p : Int := 2 ^ (a - x.e).toNat
    let q := x.m / p
    let r := x.m % p
    let up := decide (p < 2 * r) || (decide (2 * r = p) && decide (q % 2 = 1))
    (if up then q + 1 else q, decide (r = 0))

/-- How a value is rounded to its target (R105); the random word is bits [31:0] of the generator output. -/
inductive Mode where
  | nearest
  | stochastic (r : Nat)
deriving DecidableEq, Repr

/-- The magnitude rounded to a whole number of 2^u units. -/
def roundMag (md : Mode) (x : Dy) (u : Int) : Nat :=
  match md with
  | .nearest => (x.abs.units u).1.toNat
  | .stochastic r =>
    if u ≤ x.e then (x.abs.at u).toNat
    else
      let p : Nat := 2 ^ (u - x.e).toNat
      let q := x.m.natAbs / p
      let d := (x.m.natAbs % p) * 2 ^ 32 / p
      if r < d then q + 1 else q

/-- Stage 5 on the grid of R105: the rounded magnitude as an exact value. -/
def FpSpec.round (s : FpSpec) (md : Mode) (x : Dy) : Dy :=
  if x.m = 0 then Dy.zero
  else
    let ex := x.log2
    let u := (if s.sub then max ex s.emin else ex) - s.fbits
    ⟨roundMag md x u, u⟩

/-- The bits of a finite magnitude already on the target's grid. -/
def FpSpec.encode (s : FpSpec) (sg : Bool) (x : Dy) : Nat :=
  let sb := b2n sg * 2 ^ (s.ebits + s.fbits)
  if x.m = 0 then sb
  else
    let ex := x.log2
    if ex < s.emin then sb + (x.at (min x.e (s.emin - s.fbits)) / 2 ^ ((s.emin - s.fbits) - x.e).toNat).toNat
    else
      let u := ex - s.fbits
      let m := (x.at (min x.e u) / 2 ^ (u - x.e).toNat).toNat
      sb + (ex + s.bias).toNat * 2 ^ s.fbits + (m - 2 ^ s.fbits)

end Sys2Proof.Machine
end

