-- ==== Sys2Proof/Machine/Ap160.lean ====
section
/-! DEFINITION. The anchored partial AP160 (R94, R95), rounded products (R96, R97) and anchored addition (R98, R99). -/

namespace Sys2Proof.Machine

/-- An AP160 (R94): V, the anchor exponent, and the flags of R95 in their bit places. -/
structure Ap where
  v : BitVec 160
  anchor : BitVec 16
  flags : BitVec 8
deriving DecidableEq, Repr

/-- An empty slot: nothing contributed. -/
def Ap.zero : Ap := ⟨0, 0, 0⟩

/-- Flag bits of R95. -/
def Ap.fClash : BitVec 8 := 0x80
def Ap.fNan : BitVec 8 := 0x40
def Ap.fPinf : BitVec 8 := 0x20
def Ap.fNinf : BitVec 8 := 0x10
def Ap.fSatHi : BitVec 8 := 0x08
def Ap.fRounded : BitVec 8 := 0x04
def Ap.fVanished : BitVec 8 := 0x02
def Ap.fLive : BitVec 8 := 0x01

/-- The live flag (bit 0). -/
def Ap.live (x : Ap) : Bool := x.flags.getLsbD 0

/-- The clash flag (bit 7). -/
def Ap.clash (x : Ap) : Bool := x.flags.getLsbD 7

/-- The anchor exponent A. -/
def Ap.a (x : Ap) : Int := x.anchor.toInt

/-- The infinity flag of a sign: pinf for a positive value, ninf for a negative one. -/
def Ap.infFlag (neg : Bool) : BitVec 8 := if neg then Ap.fNinf else Ap.fPinf

/-- The smaller of two anchors. -/
def Ap.minAnchor (a b : BitVec 16) : BitVec 16 := if a.toInt ≤ b.toInt then a else b

/-- Whether an exact sum lies in the window (R94). -/
def Ap.inWindow (s : Int) : Bool := decide (-(2 ^ 159 : Int) ≤ s) && decide (s < (2 ^ 159 : Int))

/-- The flags that an exact sum outside the window sets (R99). -/
def Ap.windowFlags (s : Int) : BitVec 8 :=
  if Ap.inWindow s then 0 else Ap.fSatHi ||| Ap.infFlag (decide (s < 0))

/-- Addition of two AP160 values (R98, R99). -/
def Ap.add (x y : Ap) : Ap :=
  if !y.live then x
  else if !x.live then y
  else if x.anchor ≠ y.anchor ∨ x.clash ∨ y.clash then
    ⟨0, Ap.minAnchor x.anchor y.anchor, x.flags ||| y.flags ||| Ap.fClash⟩
  else
    ⟨x.v + y.v, x.anchor, x.flags ||| y.flags ||| Ap.windowFlags (x.v.toInt + y.v.toInt)⟩

/-- The sum of a list of partials, from an empty slot. -/
def Ap.sum (l : List Ap) : Ap := l.foldl Ap.add Ap.zero

/-- The product limit in units (R97). -/
def Ap.limit : Int := 2 ^ 127

/-- A product's contribution to an output of anchor `a` (R96, R97), as a live addend. -/
def Ap.ofProduct (a : BitVec 16) (p : Val) : Ap :=
  match p with
  | .nan => ⟨0, a, Ap.fNan ||| Ap.fLive⟩
  | .inf n => ⟨0, a, Ap.infFlag n ||| Ap.fLive⟩
  | .fin d =>
    let (u, exact) := d.units a.toInt
    let fr := if exact then 0 else Ap.fRounded
    let fv := if u = 0 ∧ d.m ≠ 0 then Ap.fVanished else 0
    if Ap.limit ≤ u.natAbs then ⟨0, a, Ap.fSatHi ||| Ap.fLive ||| Ap.infFlag (decide (u < 0)) ||| fr⟩
    else ⟨BitVec.ofInt 160 u, a, Ap.fLive ||| fr ||| fv⟩

/-- Whether a product is tall (R58): its rounded magnitude is 2^40 units or more. -/
def isTall (a : BitVec 16) (p : Val) : Bool :=
  match p with
  | .fin d => decide (2 ^ 40 ≤ (d.units a.toInt).1.natAbs)
  | _ => false

/-- The 24 bytes of an AP160 (R94). -/
def Ap.bytes (x : Ap) : List Byte :=
  leBytes 20 x.v.toNat ++ leBytes 2 x.anchor.toNat ++ [x.flags, 0]

/-- The AP160 that 24 bytes hold; the reserved byte is ignored. -/
def Ap.ofBytes (bs : List Byte) : Ap :=
  ⟨BitVec.ofNat 160 (leAt bs 0 20), BitVec.ofNat 16 (leAt bs 20 2), BitVec.ofNat 8 (leAt bs 22 1)⟩

/-- The AP160 entries of a row of bytes. -/
def Ap.rowOfBytes (n : Nat) (bs : List Byte) : List Ap :=
  (List.range n).map fun i => Ap.ofBytes (sliceZ bs (24 * i) 24)

/-- The bytes of a row of entries. -/
def Ap.rowBytes (xs : List Ap) : List Byte := xs.flatMap Ap.bytes

/-- Two rows added entry by entry; a missing entry counts as empty. -/
def Ap.addRow : List Ap → List Ap → List Ap
  | [], ys => ys
  | xs, [] => xs
  | x :: xs, y :: ys => x.add y :: Ap.addRow xs ys

/-- Stage 1 of the output pipeline (R102). -/
def Ap.value (x : Ap) : Val :=
  if !x.live then .fin Dy.zero
  else if x.clash || x.flags.getLsbD 6 then .nan
  else if x.flags.getLsbD 5 && x.flags.getLsbD 4 then .nan
  else if x.flags.getLsbD 5 then .inf false
  else if x.flags.getLsbD 4 then .inf true
  else .fin ⟨x.v.toInt, x.a⟩

end Sys2Proof.Machine
end

