-- ==== Sys2Proof/Machine/Pipeline.lean ====
section
/-! DEFINITION. The generator behind stochastic rounding, dropout and sampling (R50, R106), and the output pipeline
from an exact value to a packed element (R101 to R112). -/

namespace Sys2Proof.Machine

/-- The mixing function of R106. -/
def mix (z : Word) : Word :=
  let z := z ^^^ (z >>> 30)
  let z := z * 0xBF58476D1CE4E5B9#64
  let z := z ^^^ (z >>> 27)
  let z := z * 0x94D049BB133111EB#64
  z ^^^ (z >>> 31)

/-- The random word of R106 from the five inputs of R50. -/
def randWord (seed stride : Word) (lblock unit element : Nat) : Word :=
  let key : Word := (BitVec.ofNat 64 lblock <<< 52) ||| (BitVec.ofNat 64 unit <<< 40) ||| BitVec.ofNat 64 element
  mix (mix (seed ^^^ mix stride) ^^^ key)

/-- The larger of two values; a NaN bound leaves its side unclipped (R104). -/
def Val.clipLo (x lo : Val) : Val := if x.lt lo then lo else x

/-- The smaller of two values; a NaN bound leaves its side unclipped (R104). -/
def Val.clipHi (x hi : Val) : Val := if hi.lt x then hi else x

/-- What the stages 2 to 4 apply to one column: scale, bias and clip bounds; none where its bit is clear. -/
structure ColParam where
  scale : Option Val
  bias : Option Val
  clip : Option (Val × Val)
deriving DecidableEq, Repr

/-- No scale, no bias, no clip. -/
def ColParam.none : ColParam := ⟨.none, .none, .none⟩

/-- Stages 2 to 4 (R103, R104). -/
def ColParam.apply (p : ColParam) (x : Val) : Val :=
  let x := match p.scale with | some s => x.mul s | .none => x
  let x := match p.bias with | some b => x.add b | .none => x
  match p.clip with | some (lo, hi) => (x.clipLo lo).clipHi hi | .none => x

/-- The canonical NaN of a format (R112); the integer formats have none, and NaN becomes 0. -/
def Fmt.nanBits : Fmt → Nat
  | .e4m3 => 0x7F | .e5m2 => 0x7E | .bf16 => 0x7FC0 | .f16 => 0x7E00 | .f32 => 0x7FC00000 | _ => 0

/-- The bits of an infinity of a floating-point format; E4M3 has none and writes its NaN (R107). -/
def Fmt.infBits (f : Fmt) (neg : Bool) : Nat :=
  match f with
  | .e4m3 => 0x7F
  | .e5m2 => 0x7C + b2n neg * 0x80
  | .bf16 => 0x7F80 + b2n neg * 0x8000
  | .f16 => 0x7C00 + b2n neg * 0x8000
  | .f32 => 0x7F800000 + b2n neg * 0x80000000
  | _ => 0

/-- Saturate an integer to `w` bits (R109). -/
def saturate (w : Nat) (i : Int) : Int :=
  if 2 ^ (w - 1) - 1 < i then 2 ^ (w - 1) - 1 else if i < -(2 ^ (w - 1)) then -(2 ^ (w - 1)) else i

/-- What an overflow or an infinity at stage 5 writes (R107). -/
def overflowBits (f : Fmt) (s : FpSpec) (clip neg : Bool) : Nat :=
  if clip then s.encode neg s.big else f.infBits neg

/-- Stages 5 and 6 for a target that is no MX format (R105, R107 to R109, R112). DEDUCED, log entry 20: exactly 464 to E4M3 under nearest
even ties to the even 448 (R105) and so does not overflow, although R107 says that overflow begins at 464. -/
def roundTo (f : Fmt) (md : Mode) (clip : Bool) (x : Val) : Nat :=
  match f.fp with
  | none =>
    match x with
    | .nan => 0
    | .inf n => unsigned f.bits (if n then -(2 ^ (f.bits - 1)) else 2 ^ (f.bits - 1) - 1)
    | .fin d =>
      let m : Int := roundMag md d 0
      unsigned f.bits (saturate f.bits (if d.m < 0 then -m else m))
  | some s =>
    match x with
    | .nan => f.nanBits
    | .inf n => overflowBits f s clip n
    | .fin d =>
      let r := s.round md d
      let neg := decide (d.m < 0)
      if s.big.lt r then overflowBits f s clip neg
      else if r.m = 0 then 0
      else if !s.sub && decide (r.log2 < s.emin) then 0
      else s.encode neg r

/-- The largest magnitude of a list of values; zero of none. -/
def maxMag : List Val → Dy
  | [] => Dy.zero
  | .fin d :: xs => let m := maxMag xs; if m.lt d.abs then d.abs else m
  | _ :: xs => maxMag xs

/-- One element of an MX block at a chosen scale exponent (R110 step 4). -/
def mxElement (f : Fmt) (md : Mode) (scale : Int) (x : Val) : Nat :=
  match f.fp, x with
  | some s, .fin d =>
    let y : Dy := ⟨d.m, d.e - scale⟩
    let r := s.round md y
    if r.m = 0 then 0
    else if s.big.lt r then s.encode (decide (d.m < 0)) s.big
    else s.encode (decide (d.m < 0)) r
  | _, _ => 0

/-- Whether a value is finite. -/
def Val.isFin : Val → Bool
  | .fin _ => true
  | _ => false

/-- One MX block: the E8M0 scale and the element bits (R110). -/
def mxBlock (f : Fmt) (clip : Bool) (mds : List Mode) (xs : List Val) : Nat × List Nat :=
  let nanBlock := (0xFF, xs.map fun _ => 0)
  if !xs.all Val.isFin then nanBlock
  else
    let m := maxMag xs
    if m.m = 0 then (0, xs.map fun _ => 0)
    else
      let emax : Int := match f.fp with | some s => s.emax | none => 0
      let e := m.log2 - emax
      let e := if e < -127 then -127 else e
      if 127 < e ∧ !clip then nanBlock
      else
        let e := if 127 < e then 127 else e
        ((e + 127).toNat, (xs.zip mds).map fun (x, md) => mxElement f md e x)

/-- Lines of one packed output row (R79). -/
def Fmt.rowLines (f : Fmt) : Nat := if f.bits = 32 then 4 else if f.bits = 16 then 2 else 1

/-- A slot row of 64 values as packed data bytes and, for an MX format, its two scale bytes (R101, R110, R111). -/
def packRow (f : Fmt) (clip : Bool) (mds : List Mode) (xs : List Val) : List Byte × List Byte :=
  if f.isMx then
    let a := mxBlock f clip (mds.take 32) (xs.take 32)
    let b := mxBlock f clip (mds.drop 32) (xs.drop 32)
    (packBits f.bits 64 (a.2 ++ b.2), [BitVec.ofNat 8 a.1, BitVec.ofNat 8 b.1])
  else
    (packBits f.bits (64 * f.rowLines) ((xs.zip mds).map fun (x, md) => roundTo f md clip x), [])

end Sys2Proof.Machine
end

