-- ==== Sys2Proof/Machine/RegTable.lean ====
section
/-! DEFINITION. The registers of the spec: for every register table its fields with their bits, access codes (R6) and
reset values, and for every register map the places of its registers. `<REGISTER>.<field>` names a field; its place is
the offset in the block or region window, the address of the first instance for a stack or channel register, and the
Rider physical address otherwise. -/

namespace Sys2Proof.Machine

/-- Access codes (R6). -/
inductive Acc where | ro | rw | w1c | wo | rwl | cnt
deriving DecidableEq, Repr

/-- What the Reset column says beside a value: nothing, "keep" (R8), or "image" (R146). -/
inductive Keep where | no | keep | image
deriving DecidableEq, Repr

/-- One row of a register table. -/
structure FieldRow where
  name : String
  hi : Nat
  lo : Nat
  acc : Acc
  rst : Nat
  keep : Keep
deriving DecidableEq, Repr

/-- One register (or a run of `count` registers `step` bytes apart) with its fields, highest bits first. -/
structure RegRow where
  name : String
  off : Nat
  step : Nat
  count : Nat
  fields : List FieldRow
deriving DecidableEq, Repr

/-- CAD_CTL (R56). -/
def CAD_CTL.off : Nat := 0x100020010000
def CAD_CTL.phase : Fld := ⟨CAD_CTL.off, 5, 4⟩
def CAD_CTL.run : Fld := ⟨CAD_CTL.off, 3, 3⟩
def CAD_CTL.gait_next : Fld := ⟨CAD_CTL.off, 1, 1⟩
def CAD_CTL.gait : Fld := ⟨CAD_CTL.off, 0, 0⟩

/-- CAD_PERIOD (R56). -/
def CAD_PERIOD.off : Nat := 0x100020010008
def CAD_PERIOD.next_refused : Fld := ⟨CAD_PERIOD.off, 61, 61⟩
def CAD_PERIOD.required_min : Fld := ⟨CAD_PERIOD.off, 60, 41⟩
def CAD_PERIOD.period_next : Fld := ⟨CAD_PERIOD.off, 40, 21⟩
def CAD_PERIOD.current : Fld := ⟨CAD_PERIOD.off, 19, 0⟩

/-- CAD_STRIDE (R56). -/
def CAD_STRIDE.off : Nat := 0x100020010010
def CAD_STRIDE.stride : Fld := ⟨CAD_STRIDE.off, 63, 0⟩

/-- CAD_STUMBLE (R56). -/
def CAD_STUMBLE.off : Nat := 0x100020010018
def CAD_STUMBLE.count : Fld := ⟨CAD_STUMBLE.off, 63, 0⟩

/-- CAD_STUMBLE_LAST (R56). -/
def CAD_STUMBLE_LAST.off : Nat := 0x100020010020
def CAD_STUMBLE_LAST.late_ns : Fld := ⟨CAD_STUMBLE_LAST.off, 63, 48⟩
def CAD_STUMBLE_LAST.region : Fld := ⟨CAD_STUMBLE_LAST.off, 47, 44⟩
def CAD_STUMBLE_LAST.block : Fld := ⟨CAD_STUMBLE_LAST.off, 43, 33⟩
def CAD_STUMBLE_LAST.stride_lo : Fld := ⟨CAD_STUMBLE_LAST.off, 31, 0⟩

/-- CAD_LOOSE_COUNT (R56). -/
def CAD_LOOSE_COUNT.off : Nat := 0x100020010028
def CAD_LOOSE_COUNT.count : Fld := ⟨CAD_LOOSE_COUNT.off, 63, 0⟩

/-- CAD_PERIOD_AT (R56). -/
def CAD_PERIOD_AT.off : Nat := 0x100020010030
def CAD_PERIOD_AT.stride : Fld := ⟨CAD_PERIOD_AT.off, 63, 0⟩

/-- CAD_SEED (R56). -/
def CAD_SEED.off (i : Nat) : Nat := 0x100020010040 + 8 * i
def CAD_SEED.seed (i : Nat) : Fld := ⟨CAD_SEED.off i, 63, 0⟩

/-- CAD_SYNC_CTL (R56). -/
def CAD_SYNC_CTL.off : Nat := 0x100020010060
def CAD_SYNC_CTL.asym : Fld := ⟨CAD_SYNC_CTL.off, 31, 16⟩
def CAD_SYNC_CTL.port : Fld := ⟨CAD_SYNC_CTL.off, 5, 2⟩
def CAD_SYNC_CTL.role : Fld := ⟨CAD_SYNC_CTL.off, 1, 1⟩
def CAD_SYNC_CTL.enable : Fld := ⟨CAD_SYNC_CTL.off, 0, 0⟩

/-- CAD_SYNC_STATUS (R56). -/
def CAD_SYNC_STATUS.off : Nat := 0x100020010068
def CAD_SYNC_STATUS.offset : Fld := ⟨CAD_SYNC_STATUS.off, 63, 32⟩
def CAD_SYNC_STATUS.delay : Fld := ⟨CAD_SYNC_STATUS.off, 31, 16⟩
def CAD_SYNC_STATUS.noport : Fld := ⟨CAD_SYNC_STATUS.off, 2, 2⟩
def CAD_SYNC_STATUS.locked : Fld := ⟨CAD_SYNC_STATUS.off, 1, 1⟩
def CAD_SYNC_STATUS.lost : Fld := ⟨CAD_SYNC_STATUS.off, 0, 0⟩

/-- CAD_RGN_STUMBLE (R56). -/
def CAD_RGN_STUMBLE.off (i : Nat) : Nat := 0x100020010080 + 8 * i
def CAD_RGN_STUMBLE.count (i : Nat) : Fld := ⟨CAD_RGN_STUMBLE.off i, 63, 0⟩

/-- BLK_DRG_STATUS (R89). -/
def BLK_DRG_STATUS.off : Nat := 0x3000
def BLK_DRG_STATUS.pred : Fld := ⟨BLK_DRG_STATUS.off, 44, 41⟩
def BLK_DRG_STATUS.pc : Fld := ⟨BLK_DRG_STATUS.off, 40, 29⟩
def BLK_DRG_STATUS.length : Fld := ⟨BLK_DRG_STATUS.off, 28, 16⟩
def BLK_DRG_STATUS.fault : Fld := ⟨BLK_DRG_STATUS.off, 15, 8⟩
def BLK_DRG_STATUS.state : Fld := ⟨BLK_DRG_STATUS.off, 2, 0⟩

/-- BLK_DRG_FAULT (R89). -/
def BLK_DRG_FAULT.off : Nat := 0x3008
def BLK_DRG_FAULT.word : Fld := ⟨BLK_DRG_FAULT.off, 63, 52⟩
def BLK_DRG_FAULT.code : Fld := ⟨BLK_DRG_FAULT.off, 51, 44⟩
def BLK_DRG_FAULT.column : Fld := ⟨BLK_DRG_FAULT.off, 43, 38⟩
def BLK_DRG_FAULT.attempt : Fld := ⟨BLK_DRG_FAULT.off, 37, 36⟩
def BLK_DRG_FAULT.lasting : Fld := ⟨BLK_DRG_FAULT.off, 35, 35⟩
def BLK_DRG_FAULT.stride_lo : Fld := ⟨BLK_DRG_FAULT.off, 31, 0⟩

/-- BLK_DRG_WAVES (R89). -/
def BLK_DRG_WAVES.off : Nat := 0x3010
def BLK_DRG_WAVES.count : Fld := ⟨BLK_DRG_WAVES.off, 63, 0⟩

/-- BLK_DRG_TALL (R89). -/
def BLK_DRG_TALL.off : Nat := 0x3018
def BLK_DRG_TALL.count : Fld := ⟨BLK_DRG_TALL.off, 63, 0⟩

/-- BLK_DRG_RETRY (R89). -/
def BLK_DRG_RETRY.off : Nat := 0x3020
def BLK_DRG_RETRY.count : Fld := ⟨BLK_DRG_RETRY.off, 63, 0⟩

/-- BLK_DRG_ECC (R89). -/
def BLK_DRG_ECC.off : Nat := 0x3028
def BLK_DRG_ECC.count : Fld := ⟨BLK_DRG_ECC.off, 63, 0⟩

/-- HDL_CTL (R146). -/
def HDL_CTL.off (i : Nat) : Nat := 0x1000 + 64 * i
def HDL_CTL.valid (i : Nat) : Fld := ⟨HDL_CTL.off i, 63, 63⟩
def HDL_CTL.tier (i : Nat) : Fld := ⟨HDL_CTL.off i, 62, 61⟩
def HDL_CTL.resident (i : Nat) : Fld := ⟨HDL_CTL.off i, 60, 60⟩
def HDL_CTL.window (i : Nat) : Fld := ⟨HDL_CTL.off i, 59, 59⟩
def HDL_CTL.closing (i : Nat) : Fld := ⟨HDL_CTL.off i, 58, 58⟩
def HDL_CTL.rd (i : Nat) : Fld := ⟨HDL_CTL.off i, 57, 57⟩
def HDL_CTL.wr (i : Nat) : Fld := ⟨HDL_CTL.off i, 56, 56⟩
def HDL_CTL.mg (i : Nat) : Fld := ⟨HDL_CTL.off i, 55, 55⟩
def HDL_CTL.node (i : Nat) : Fld := ⟨HDL_CTL.off i, 47, 32⟩
def HDL_CTL.gen (i : Nat) : Fld := ⟨HDL_CTL.off i, 7, 0⟩

/-- HDL_BASE (R146). -/
def HDL_BASE.off (i : Nat) : Nat := 0x1008 + 64 * i
def HDL_BASE.addr (i : Nat) : Fld := ⟨HDL_BASE.off i, 47, 0⟩

/-- HDL_LEN (R146). -/
def HDL_LEN.off (i : Nat) : Nat := 0x1010 + 64 * i
def HDL_LEN.length (i : Nat) : Fld := ⟨HDL_LEN.off i, 39, 0⟩

/-- HDL_SHAPE (R146). -/
def HDL_SHAPE.off (i : Nat) : Nat := 0x1018 + 64 * i
def HDL_SHAPE.stride (i : Nat) : Fld := ⟨HDL_SHAPE.off i, 63, 32⟩
def HDL_SHAPE.row (i : Nat) : Fld := ⟨HDL_SHAPE.off i, 31, 0⟩

/-- HDL_COPY (R146). -/
def HDL_COPY.off (i : Nat) : Nat := 0x1020 + 64 * i
def HDL_COPY.addr (i : Nat) : Fld := ⟨HDL_COPY.off i, 47, 0⟩

/-- PKH_RING (R146). -/
def PKH_RING.off : Nat := 0x2000
def PKH_RING.enable : Fld := ⟨PKH_RING.off, 63, 63⟩
def PKH_RING.lg_size : Fld := ⟨PKH_RING.off, 27, 24⟩
def PKH_RING.base : Fld := ⟨PKH_RING.off, 18, 0⟩

/-- PKH_HEAD (R146). -/
def PKH_HEAD.off : Nat := 0x2008
def PKH_HEAD.index : Fld := ⟨PKH_HEAD.off, 7, 0⟩

/-- PKH_TAIL (R146). -/
def PKH_TAIL.off : Nat := 0x2010
def PKH_TAIL.index : Fld := ⟨PKH_TAIL.off, 7, 0⟩

/-- PKH_STATUS (R146). -/
def PKH_STATUS.off : Nat := 0x2018
def PKH_STATUS.last_err : Fld := ⟨PKH_STATUS.off, 15, 8⟩
def PKH_STATUS.active : Fld := ⟨PKH_STATUS.off, 2, 0⟩

/-- PKH_BYTES (R146). -/
def PKH_BYTES.off : Nat := 0x2020
def PKH_BYTES.count : Fld := ⟨PKH_BYTES.off, 63, 0⟩

/-- BLK_GRM_STATE (R146). -/
def BLK_GRM_STATE.off (i : Nat) : Nat := 0x2800 + 8 * i
def BLK_GRM_STATE.pc (i : Nat) : Fld := ⟨BLK_GRM_STATE.off i, 43, 32⟩
def BLK_GRM_STATE.task (i : Nat) : Fld := ⟨BLK_GRM_STATE.off i, 31, 22⟩
def BLK_GRM_STATE.fault (i : Nat) : Fld := ⟨BLK_GRM_STATE.off i, 15, 8⟩
def BLK_GRM_STATE.state (i : Nat) : Fld := ⟨BLK_GRM_STATE.off i, 2, 0⟩

/-- BLK_GRM_PATIENCE (R146). -/
def BLK_GRM_PATIENCE.off (i : Nat) : Nat := 0x2840 + 8 * i
def BLK_GRM_PATIENCE.limit (i : Nat) : Fld := ⟨BLK_GRM_PATIENCE.off i, 19, 0⟩

/-- BLK_SPD_ECC (R146). -/
def BLK_SPD_ECC.off : Nat := 0x2880
def BLK_SPD_ECC.count : Fld := ⟨BLK_SPD_ECC.off, 63, 0⟩

/-- BLK_Q_CFG (R176). -/
def BLK_Q_CFG.off (i : Nat) : Nat := 0x800 + 8 * i
def BLK_Q_CFG.kind (i : Nat) : Fld := ⟨BLK_Q_CFG.off i, 63, 62⟩
def BLK_Q_CFG.join (i : Nat) : Fld := ⟨BLK_Q_CFG.off i, 61, 61⟩
def BLK_Q_CFG.ctl (i : Nat) : Fld := ⟨BLK_Q_CFG.off i, 60, 60⟩
def BLK_Q_CFG.node (i : Nat) : Fld := ⟨BLK_Q_CFG.off i, 59, 49⟩
def BLK_Q_CFG.input (i : Nat) : Fld := ⟨BLK_Q_CFG.off i, 48, 46⟩
def BLK_Q_CFG.depth (i : Nat) : Fld := ⟨BLK_Q_CFG.off i, 45, 38⟩
def BLK_Q_CFG.lines (i : Nat) : Fld := ⟨BLK_Q_CFG.off i, 37, 33⟩
def BLK_Q_CFG.incarn (i : Nat) : Fld := ⟨BLK_Q_CFG.off i, 27, 20⟩
def BLK_Q_CFG.closed (i : Nat) : Fld := ⟨BLK_Q_CFG.off i, 19, 19⟩
def BLK_Q_CFG.mask (i : Nat) : Fld := ⟨BLK_Q_CFG.off i, 17, 10⟩
def BLK_Q_CFG.line (i : Nat) : Fld := ⟨BLK_Q_CFG.off i, 9, 0⟩

/-- BLK_DF_STATUS (R176). -/
def BLK_DF_STATUS.off : Nat := 0x3800
def BLK_DF_STATUS.fl_index : Fld := ⟨BLK_DF_STATUS.off, 63, 52⟩
def BLK_DF_STATUS.ctx_used : Fld := ⟨BLK_DF_STATUS.off, 51, 39⟩
def BLK_DF_STATUS.match_used : Fld := ⟨BLK_DF_STATUS.off, 38, 30⟩
def BLK_DF_STATUS.qent_used : Fld := ⟨BLK_DF_STATUS.off, 29, 18⟩
def BLK_DF_STATUS.state : Fld := ⟨BLK_DF_STATUS.off, 2, 0⟩

/-- BLK_DF_FIRES (R176). -/
def BLK_DF_FIRES.off : Nat := 0x3808
def BLK_DF_FIRES.count : Fld := ⟨BLK_DF_FIRES.off, 63, 0⟩

/-- BLK_DF_DISCARD (R176). -/
def BLK_DF_DISCARD.off : Nat := 0x3810
def BLK_DF_DISCARD.count : Fld := ⟨BLK_DF_DISCARD.off, 63, 0⟩

/-- BLK_DF_SLACK (R176). -/
def BLK_DF_SLACK.off : Nat := 0x3818
def BLK_DF_SLACK.count : Fld := ⟨BLK_DF_SLACK.off, 63, 0⟩

/-- BLK_DF_CREDITWAIT (R176). -/
def BLK_DF_CREDITWAIT.off : Nat := 0x3820
def BLK_DF_CREDITWAIT.count : Fld := ⟨BLK_DF_CREDITWAIT.off, 63, 0⟩

/-- BLK_DF_UNMATCHED (R176). -/
def BLK_DF_UNMATCHED.off : Nat := 0x3828
def BLK_DF_UNMATCHED.count : Fld := ⟨BLK_DF_UNMATCHED.off, 63, 0⟩

/-- BLK_DF_FAULT (R176). -/
def BLK_DF_FAULT.off : Nat := 0x3830
def BLK_DF_FAULT.code : Fld := ⟨BLK_DF_FAULT.off, 63, 56⟩
def BLK_DF_FAULT.node : Fld := ⟨BLK_DF_FAULT.off, 55, 45⟩
def BLK_DF_FAULT.queue : Fld := ⟨BLK_DF_FAULT.off, 44, 37⟩
def BLK_DF_FAULT.tag : Fld := ⟨BLK_DF_FAULT.off, 31, 8⟩

/-- BLK_CQ_CFG (R176). -/
def BLK_CQ_CFG.off (i : Nat) : Nat := 0x3900 + 32 * i
def BLK_CQ_CFG.enable (i : Nat) : Fld := ⟨BLK_CQ_CFG.off i, 63, 63⟩
def BLK_CQ_CFG.mode (i : Nat) : Fld := ⟨BLK_CQ_CFG.off i, 62, 62⟩
def BLK_CQ_CFG.tally (i : Nat) : Fld := ⟨BLK_CQ_CFG.off i, 61, 61⟩
def BLK_CQ_CFG.convert (i : Nat) : Fld := ⟨BLK_CQ_CFG.off i, 60, 60⟩
def BLK_CQ_CFG.ofmt (i : Nat) : Fld := ⟨BLK_CQ_CFG.off i, 59, 56⟩
def BLK_CQ_CFG.sr (i : Nat) : Fld := ⟨BLK_CQ_CFG.off i, 55, 55⟩
def BLK_CQ_CFG.clip (i : Nat) : Fld := ⟨BLK_CQ_CFG.off i, 54, 54⟩
def BLK_CQ_CFG.scale (i : Nat) : Fld := ⟨BLK_CQ_CFG.off i, 53, 53⟩
def BLK_CQ_CFG.bias (i : Nat) : Fld := ⟨BLK_CQ_CFG.off i, 52, 52⟩
def BLK_CQ_CFG.pbank (i : Nat) : Fld := ⟨BLK_CQ_CFG.off i, 51, 49⟩
def BLK_CQ_CFG.pline (i : Nat) : Fld := ⟨BLK_CQ_CFG.off i, 48, 39⟩
def BLK_CQ_CFG.slots (i : Nat) : Fld := ⟨BLK_CQ_CFG.off i, 38, 31⟩
def BLK_CQ_CFG.mask (i : Nat) : Fld := ⟨BLK_CQ_CFG.off i, 17, 10⟩
def BLK_CQ_CFG.line (i : Nat) : Fld := ⟨BLK_CQ_CFG.off i, 9, 0⟩

/-- BLK_CQ_FWD (R176). -/
def BLK_CQ_FWD.off (i : Nat) : Nat := 0x3908 + 32 * i
def BLK_CQ_FWD.count (i : Nat) : Fld := ⟨BLK_CQ_FWD.off i, 63, 48⟩
def BLK_CQ_FWD.mcast (i : Nat) : Fld := ⟨BLK_CQ_FWD.off i, 47, 47⟩
def BLK_CQ_FWD.dest (i : Nat) : Fld := ⟨BLK_CQ_FWD.off i, 46, 36⟩
def BLK_CQ_FWD.queue (i : Nat) : Fld := ⟨BLK_CQ_FWD.off i, 35, 28⟩
def BLK_CQ_FWD.vc (i : Nat) : Fld := ⟨BLK_CQ_FWD.off i, 27, 27⟩
def BLK_CQ_FWD.key_base (i : Nat) : Fld := ⟨BLK_CQ_FWD.off i, 26, 11⟩

/-- BLK_CQ_STATE (R176). -/
def BLK_CQ_STATE.off (i : Nat) : Nat := 0x3910 + 32 * i
def BLK_CQ_STATE.done (i : Nat) : Fld := ⟨BLK_CQ_STATE.off i, 63, 32⟩
def BLK_CQ_STATE.peak (i : Nat) : Fld := ⟨BLK_CQ_STATE.off i, 24, 16⟩
def BLK_CQ_STATE.openS (i : Nat) : Fld := ⟨BLK_CQ_STATE.off i, 8, 0⟩

/-- BLK_SCAN_CTL (R176). -/
def BLK_SCAN_CTL.off : Nat := 0x3B00
def BLK_SCAN_CTL.go : Fld := ⟨BLK_SCAN_CTL.off, 63, 63⟩
def BLK_SCAN_CTL.op : Fld := ⟨BLK_SCAN_CTL.off, 62, 61⟩
def BLK_SCAN_CTL.reason : Fld := ⟨BLK_SCAN_CTL.off, 60, 59⟩

/-- BLK_SCAN_ADDR (R176). -/
def BLK_SCAN_ADDR.off : Nat := 0x3B08
def BLK_SCAN_ADDR.addr : Fld := ⟨BLK_SCAN_ADDR.off, 47, 0⟩

/-- BLK_SCAN_STATUS (R176). -/
def BLK_SCAN_STATUS.off : Nat := 0x3B10
def BLK_SCAN_STATUS.length : Fld := ⟨BLK_SCAN_STATUS.off, 63, 32⟩
def BLK_SCAN_STATUS.result : Fld := ⟨BLK_SCAN_STATUS.off, 7, 4⟩
def BLK_SCAN_STATUS.busy : Fld := ⟨BLK_SCAN_STATUS.off, 0, 0⟩

/-- MSH_CTL (R209). -/
def MSH_CTL.off : Nat := 0x400
def MSH_CTL.mode : Fld := ⟨MSH_CTL.off, 7, 6⟩
def MSH_CTL.pending : Fld := ⟨MSH_CTL.off, 1, 1⟩
def MSH_CTL.epoch : Fld := ⟨MSH_CTL.off, 0, 0⟩

/-- MSH_THRESH (R209). -/
def MSH_THRESH.off : Nat := 0x408
def MSH_THRESH.timeout : Fld := ⟨MSH_THRESH.off, 27, 16⟩
def MSH_THRESH.mark_pct : Fld := ⟨MSH_THRESH.off, 6, 0⟩

/-- MSH_RATE (R209). -/
def MSH_RATE.off : Nat := 0x410
def MSH_RATE.halved : Fld := ⟨MSH_RATE.off, 8, 8⟩
def MSH_RATE.rate : Fld := ⟨MSH_RATE.off, 6, 0⟩

/-- MSH_RT_ADDR (R209). -/
def MSH_RT_ADDR.off : Nat := 0x418
def MSH_RT_ADDR.word : Fld := ⟨MSH_RT_ADDR.off, 20, 16⟩
def MSH_RT_ADDR.table : Fld := ⟨MSH_RT_ADDR.off, 12, 12⟩
def MSH_RT_ADDR.epoch : Fld := ⟨MSH_RT_ADDR.off, 11, 11⟩
def MSH_RT_ADDR.index : Fld := ⟨MSH_RT_ADDR.off, 10, 0⟩

/-- MSH_RT_DATA (R209). -/
def MSH_RT_DATA.off : Nat := 0x420
def MSH_RT_DATA.data : Fld := ⟨MSH_RT_DATA.off, 63, 0⟩

/-- MSH_DRAIN (R209). -/
def MSH_DRAIN.off : Nat := 0x428
def MSH_DRAIN.count : Fld := ⟨MSH_DRAIN.off, 15, 0⟩

/-- MSH_RESEND (R209). -/
def MSH_RESEND.off : Nat := 0x430
def MSH_RESEND.mc_open : Fld := ⟨MSH_RESEND.off, 39, 32⟩
def MSH_RESEND.lines : Fld := ⟨MSH_RESEND.off, 25, 16⟩
def MSH_RESEND.packets : Fld := ⟨MSH_RESEND.off, 7, 0⟩

/-- MSH_FAULT (R209). -/
def MSH_FAULT.off : Nat := 0x438
def MSH_FAULT.code : Fld := ⟨MSH_FAULT.off, 63, 56⟩
def MSH_FAULT.port : Fld := ⟨MSH_FAULT.off, 55, 53⟩
def MSH_FAULT.vc : Fld := ⟨MSH_FAULT.off, 52, 52⟩
def MSH_FAULT.src : Fld := ⟨MSH_FAULT.off, 51, 41⟩
def MSH_FAULT.dest : Fld := ⟨MSH_FAULT.off, 40, 30⟩
def MSH_FAULT.tag : Fld := ⟨MSH_FAULT.off, 23, 0⟩

/-- MSH_FLITS (R209). -/
def MSH_FLITS.off : Nat := 0x440
def MSH_FLITS.count : Fld := ⟨MSH_FLITS.off, 63, 0⟩

/-- MSH_MARKS (R209). -/
def MSH_MARKS.off : Nat := 0x448
def MSH_MARKS.count : Fld := ⟨MSH_MARKS.off, 63, 0⟩

/-- MSH_ECHOES (R209). -/
def MSH_ECHOES.off : Nat := 0x450
def MSH_ECHOES.count : Fld := ⟨MSH_ECHOES.off, 63, 0⟩

/-- MSH_MERGES (R209). -/
def MSH_MERGES.off : Nat := 0x458
def MSH_MERGES.count : Fld := ⟨MSH_MERGES.off, 63, 0⟩

/-- MSH_DISCARD (R209). -/
def MSH_DISCARD.off : Nat := 0x460
def MSH_DISCARD.count : Fld := ⟨MSH_DISCARD.off, 63, 0⟩

/-- MSH_LINK_RETRY (R209). -/
def MSH_LINK_RETRY.off : Nat := 0x468
def MSH_LINK_RETRY.count : Fld := ⟨MSH_LINK_RETRY.off, 63, 0⟩

/-- MSH_RESENDS (R209). -/
def MSH_RESENDS.off : Nat := 0x470
def MSH_RESENDS.count : Fld := ⟨MSH_RESENDS.off, 63, 0⟩

/-- MSH_REPLWAIT (R209). -/
def MSH_REPLWAIT.off : Nat := 0x478
def MSH_REPLWAIT.count : Fld := ⟨MSH_REPLWAIT.off, 63, 0⟩

/-- RGN_EPOCH (R210). -/
def RGN_EPOCH.off : Nat := 0x100
def RGN_EPOCH.drain : Fld := ⟨RGN_EPOCH.off, 63, 32⟩
def RGN_EPOCH.flips : Fld := ⟨RGN_EPOCH.off, 31, 16⟩
def RGN_EPOCH.lease : Fld := ⟨RGN_EPOCH.off, 3, 3⟩
def RGN_EPOCH.drained : Fld := ⟨RGN_EPOCH.off, 2, 2⟩
def RGN_EPOCH.pending : Fld := ⟨RGN_EPOCH.off, 1, 1⟩
def RGN_EPOCH.epoch : Fld := ⟨RGN_EPOCH.off, 0, 0⟩

/-- RGN_EPOCH_AT (R210). -/
def RGN_EPOCH_AT.off : Nat := 0x108
def RGN_EPOCH_AT.stride : Fld := ⟨RGN_EPOCH_AT.off, 63, 0⟩

/-- BLK_GRM_QCTL (R233). -/
def BLK_GRM_QCTL.off : Nat := 0x2900
def BLK_GRM_QCTL.go : Fld := ⟨BLK_GRM_QCTL.off, 63, 63⟩
def BLK_GRM_QCTL.op : Fld := ⟨BLK_GRM_QCTL.off, 62, 61⟩
def BLK_GRM_QCTL.result : Fld := ⟨BLK_GRM_QCTL.off, 15, 8⟩
def BLK_GRM_QCTL.queue : Fld := ⟨BLK_GRM_QCTL.off, 7, 0⟩

/-- BLK_GRM_MQFULL (R233). -/
def BLK_GRM_MQFULL.off : Nat := 0x2908
def BLK_GRM_MQFULL.count : Fld := ⟨BLK_GRM_MQFULL.off, 63, 0⟩

/-- BLK_GRM_MQSTALE (R233). -/
def BLK_GRM_MQSTALE.off : Nat := 0x2910
def BLK_GRM_MQSTALE.count : Fld := ⟨BLK_GRM_MQSTALE.off, 63, 0⟩

/-- BLK_GRM_MQCLOSED (R233). -/
def BLK_GRM_MQCLOSED.off : Nat := 0x2918
def BLK_GRM_MQCLOSED.count : Fld := ⟨BLK_GRM_MQCLOSED.off, 63, 0⟩

/-- BLK_GRM_MQBAD (R233). -/
def BLK_GRM_MQBAD.off : Nat := 0x2920
def BLK_GRM_MQBAD.count : Fld := ⟨BLK_GRM_MQBAD.off, 63, 0⟩

/-- BLK_GRM_WINREF (R233). -/
def BLK_GRM_WINREF.off : Nat := 0x2928
def BLK_GRM_WINREF.count : Fld := ⟨BLK_GRM_WINREF.off, 63, 0⟩

/-- BLK_GRM_REOFFER (R233). -/
def BLK_GRM_REOFFER.off : Nat := 0x2930
def BLK_GRM_REOFFER.count : Fld := ⟨BLK_GRM_REOFFER.off, 63, 0⟩

/-- BLK_GRM_BALKS (R233). -/
def BLK_GRM_BALKS.off : Nat := 0x2938
def BLK_GRM_BALKS.count : Fld := ⟨BLK_GRM_BALKS.off, 63, 0⟩

/-- BLK_GRM_MUTUAL (R233). -/
def BLK_GRM_MUTUAL.off : Nat := 0x2940
def BLK_GRM_MUTUAL.count : Fld := ⟨BLK_GRM_MUTUAL.off, 63, 0⟩

/-- MGR_CTL (R261). -/
def MGR_CTL.off (k : Nat) : Nat := 0x100020100000 + 0x10000 * k
def MGR_CTL.scrub_period (k : Nat) : Fld := ⟨MGR_CTL.off k, 47, 32⟩
def MGR_CTL.scrub_en (k : Nat) : Fld := ⟨MGR_CTL.off k, 0, 0⟩

/-- MGR_STATUS (R261). -/
def MGR_STATUS.off (k : Nat) : Nat := 0x100020100008 + 0x10000 * k
def MGR_STATUS.fenced (k : Nat) : Fld := ⟨MGR_STATUS.off k, 63, 32⟩
def MGR_STATUS.temp (k : Nat) : Fld := ⟨MGR_STATUS.off k, 31, 24⟩
def MGR_STATUS.refresh (k : Nat) : Fld := ⟨MGR_STATUS.off k, 17, 16⟩
def MGR_STATUS.passes (k : Nat) : Fld := ⟨MGR_STATUS.off k, 15, 0⟩

/-- MGR_ERR_ADDR (R261). -/
def MGR_ERR_ADDR.off (k : Nat) : Nat := 0x100020100010 + 0x10000 * k
def MGR_ERR_ADDR.valid (k : Nat) : Fld := ⟨MGR_ERR_ADDR.off k, 63, 63⟩
def MGR_ERR_ADDR.kind (k : Nat) : Fld := ⟨MGR_ERR_ADDR.off k, 62, 61⟩
def MGR_ERR_ADDR.addr (k : Nat) : Fld := ⟨MGR_ERR_ADDR.off k, 47, 0⟩

/-- MGR_ECC_CE (R261). -/
def MGR_ECC_CE.off (k : Nat) : Nat := 0x100020100018 + 0x10000 * k
def MGR_ECC_CE.count (k : Nat) : Fld := ⟨MGR_ECC_CE.off k, 63, 0⟩

/-- MGR_ECC_UE (R261). -/
def MGR_ECC_UE.off (k : Nat) : Nat := 0x100020100020 + 0x10000 * k
def MGR_ECC_UE.count (k : Nat) : Fld := ⟨MGR_ECC_UE.off k, 63, 0⟩

/-- MGR_SIGMISS (R261). -/
def MGR_SIGMISS.off (k : Nat) : Nat := 0x100020100028 + 0x10000 * k
def MGR_SIGMISS.count (k : Nat) : Fld := ⟨MGR_SIGMISS.off k, 63, 0⟩

/-- MGR_CALLS (R261). -/
def MGR_CALLS.off (k : Nat) : Nat := 0x100020100030 + 0x10000 * k
def MGR_CALLS.count (k : Nat) : Fld := ⟨MGR_CALLS.off k, 63, 0⟩

/-- MGR_STEPS (R261). -/
def MGR_STEPS.off (k : Nat) : Nat := 0x100020100038 + 0x10000 * k
def MGR_STEPS.count (k : Nat) : Fld := ⟨MGR_STEPS.off k, 63, 0⟩

/-- MGR_SIG_RANGE (R261). -/
def MGR_SIG_RANGE.off (k : Nat) (i : Nat) : Nat := 0x100020100100 + 16 * i + 0x10000 * k
def MGR_SIG_RANGE.enable (k : Nat) (i : Nat) : Fld := ⟨MGR_SIG_RANGE.off k i, 63, 63⟩
def MGR_SIG_RANGE.signed (k : Nat) (i : Nat) : Fld := ⟨MGR_SIG_RANGE.off k i, 62, 62⟩
def MGR_SIG_RANGE.units (k : Nat) (i : Nat) : Fld := ⟨MGR_SIG_RANGE.off k i, 61, 36⟩
def MGR_SIG_RANGE.base (k : Nat) (i : Nat) : Fld := ⟨MGR_SIG_RANGE.off k i, 35, 10⟩

/-- MGR_SIG_TABLE (R261). -/
def MGR_SIG_TABLE.off (k : Nat) (i : Nat) : Nat := 0x100020100108 + 16 * i + 0x10000 * k
def MGR_SIG_TABLE.addr (k : Nat) (i : Nat) : Fld := ⟨MGR_SIG_TABLE.off k i, 35, 0⟩

/-- DDR_STATUS (R262). -/
def DDR_STATUS.off (c : Nat) : Nat := 0x100020200000 + 0x100 * c
def DDR_STATUS.capacity (c : Nat) : Fld := ⟨DDR_STATUS.off c, 63, 48⟩
def DDR_STATUS.temp (c : Nat) : Fld := ⟨DDR_STATUS.off c, 47, 40⟩
def DDR_STATUS.refresh (c : Nat) : Fld := ⟨DDR_STATUS.off c, 3, 2⟩
def DDR_STATUS.trained (c : Nat) : Fld := ⟨DDR_STATUS.off c, 1, 1⟩
def DDR_STATUS.present (c : Nat) : Fld := ⟨DDR_STATUS.off c, 0, 0⟩

/-- DDR_ERR_ADDR (R262). -/
def DDR_ERR_ADDR.off (c : Nat) : Nat := 0x100020200008 + 0x100 * c
def DDR_ERR_ADDR.valid (c : Nat) : Fld := ⟨DDR_ERR_ADDR.off c, 63, 63⟩
def DDR_ERR_ADDR.kind (c : Nat) : Fld := ⟨DDR_ERR_ADDR.off c, 62, 61⟩
def DDR_ERR_ADDR.addr (c : Nat) : Fld := ⟨DDR_ERR_ADDR.off c, 47, 0⟩

/-- DDR_ECC_CE (R262). -/
def DDR_ECC_CE.off (c : Nat) : Nat := 0x100020200010 + 0x100 * c
def DDR_ECC_CE.count (c : Nat) : Fld := ⟨DDR_ECC_CE.off c, 63, 0⟩

/-- DDR_ECC_UE (R262). -/
def DDR_ECC_UE.off (c : Nat) : Nat := 0x100020200018 + 0x100 * c
def DDR_ECC_UE.count (c : Nat) : Fld := ⟨DDR_ECC_UE.off c, 63, 0⟩

/-- CHP_IMG_CTL (R288). -/
def CHP_IMG_CTL.off : Nat := 0x100020020000
def CHP_IMG_CTL.go : Fld := ⟨CHP_IMG_CTL.off, 63, 63⟩
def CHP_IMG_CTL.op : Fld := ⟨CHP_IMG_CTL.off, 62, 60⟩

/-- CHP_IMG_ADDR (R288). -/
def CHP_IMG_ADDR.off : Nat := 0x100020020008
def CHP_IMG_ADDR.addr : Fld := ⟨CHP_IMG_ADDR.off, 42, 0⟩

/-- CHP_IMG_STATUS (R288). -/
def CHP_IMG_STATUS.off : Nat := 0x100020020010
def CHP_IMG_STATUS.op_result : Fld := ⟨CHP_IMG_STATUS.off, 39, 32⟩
def CHP_IMG_STATUS.stage : Fld := ⟨CHP_IMG_STATUS.off, 6, 4⟩
def CHP_IMG_STATUS.load : Fld := ⟨CHP_IMG_STATUS.off, 2, 0⟩

/-- CHP_HOLD_REASON (R288). -/
def CHP_HOLD_REASON.off : Nat := 0x100020020018
def CHP_HOLD_REASON.code : Fld := ⟨CHP_HOLD_REASON.off, 63, 56⟩
def CHP_HOLD_REASON.sub : Fld := ⟨CHP_HOLD_REASON.off, 55, 48⟩
def CHP_HOLD_REASON.section : Fld := ⟨CHP_HOLD_REASON.off, 47, 40⟩
def CHP_HOLD_REASON.lblock : Fld := ⟨CHP_HOLD_REASON.off, 39, 28⟩
def CHP_HOLD_REASON.index : Fld := ⟨CHP_HOLD_REASON.off, 27, 12⟩

/-- CHP_IMG_SEQ (R288). -/
def CHP_IMG_SEQ.off : Nat := 0x100020020020
def CHP_IMG_SEQ.sequence : Fld := ⟨CHP_IMG_SEQ.off, 63, 0⟩

/-- CHP_SWAP_AT (R288). -/
def CHP_SWAP_AT.off : Nat := 0x100020020028
def CHP_SWAP_AT.stride : Fld := ⟨CHP_SWAP_AT.off, 63, 0⟩

/-- CHP_SWAP_STATUS (R288). -/
def CHP_SWAP_STATUS.off : Nat := 0x100020020030
def CHP_SWAP_STATUS.load_us : Fld := ⟨CHP_SWAP_STATUS.off, 63, 48⟩
def CHP_SWAP_STATUS.deferrals : Fld := ⟨CHP_SWAP_STATUS.off, 47, 40⟩
def CHP_SWAP_STATUS.result : Fld := ⟨CHP_SWAP_STATUS.off, 39, 32⟩
def CHP_SWAP_STATUS.seq_lo : Fld := ⟨CHP_SWAP_STATUS.off, 31, 0⟩

/-- CHP_STATE (R301). -/
def CHP_STATE.off : Nat := 0x100020000000
def CHP_STATE.oos_cause : Fld := ⟨CHP_STATE.off, 63, 56⟩
def CHP_STATE.warm_resets : Fld := ⟨CHP_STATE.off, 47, 32⟩
def CHP_STATE.prev : Fld := ⟨CHP_STATE.off, 7, 5⟩
def CHP_STATE.state : Fld := ⟨CHP_STATE.off, 2, 0⟩

/-- CHP_BRINGUP (R301). -/
def CHP_BRINGUP.off : Nat := 0x100020000008
def CHP_BRINGUP.step : Fld := ⟨CHP_BRINGUP.off, 63, 59⟩
def CHP_BRINGUP.path : Fld := ⟨CHP_BRINGUP.off, 58, 57⟩
def CHP_BRINGUP.fast_deny : Fld := ⟨CHP_BRINGUP.off, 55, 48⟩
def CHP_BRINGUP.elapsed_ms : Fld := ⟨CHP_BRINGUP.off, 31, 0⟩

/-- CHP_READY (R301). -/
def CHP_READY.off : Nat := 0x100020000010
def CHP_READY.hbm : Fld := ⟨CHP_READY.off, 39, 32⟩
def CHP_READY.ddr : Fld := ⟨CHP_READY.off, 31, 20⟩
def CHP_READY.trace : Fld := ⟨CHP_READY.off, 19, 12⟩
def CHP_READY.yoke : Fld := ⟨CHP_READY.off, 11, 10⟩
def CHP_READY.mesh : Fld := ⟨CHP_READY.off, 9, 9⟩
def CHP_READY.bist : Fld := ⟨CHP_READY.off, 8, 8⟩
def CHP_READY.kar : Fld := ⟨CHP_READY.off, 7, 7⟩
def CHP_READY.rider : Fld := ⟨CHP_READY.off, 6, 6⟩
def CHP_READY.dram_kept : Fld := ⟨CHP_READY.off, 5, 5⟩

/-- CHP_FUSE (R301). -/
def CHP_FUSE.off : Nat := 0x100020000018
def CHP_FUSE.sig_fuse : Fld := ⟨CHP_FUSE.off, 63, 63⟩
def CHP_FUSE.variant : Fld := ⟨CHP_FUSE.off, 61, 60⟩
def CHP_FUSE.cap_w : Fld := ⟨CHP_FUSE.off, 47, 32⟩
def CHP_FUSE.vmax_mv : Fld := ⟨CHP_FUSE.off, 31, 16⟩

/-- CHP_SWEEP (R301). -/
def CHP_SWEEP.off : Nat := 0x100020000020
def CHP_SWEEP.age_s : Fld := ⟨CHP_SWEEP.off, 63, 32⟩
def CHP_SWEEP.quarantined : Fld := ⟨CHP_SWEEP.off, 31, 21⟩
def CHP_SWEEP.retired : Fld := ⟨CHP_SWEEP.off, 20, 10⟩

/-- TST_BLK_STATE (R334). -/
def TST_BLK_STATE.off : Nat := 0x3C00
def TST_BLK_STATE.clean_runs : Fld := ⟨TST_BLK_STATE.off, 63, 56⟩
def TST_BLK_STATE.repairs : Fld := ⟨TST_BLK_STATE.off, 55, 48⟩
def TST_BLK_STATE.health : Fld := ⟨TST_BLK_STATE.off, 41, 40⟩
def TST_BLK_STATE.slice : Fld := ⟨TST_BLK_STATE.off, 39, 35⟩
def TST_BLK_STATE.stage : Fld := ⟨TST_BLK_STATE.off, 34, 32⟩
def TST_BLK_STATE.age_ms : Fld := ⟨TST_BLK_STATE.off, 31, 0⟩

/-- TST_BLK_RESULT (R334). -/
def TST_BLK_RESULT.off : Nat := 0x3C08
def TST_BLK_RESULT.slice : Fld := ⟨TST_BLK_RESULT.off, 63, 59⟩
def TST_BLK_RESULT.result : Fld := ⟨TST_BLK_RESULT.off, 58, 57⟩
def TST_BLK_RESULT.attempt : Fld := ⟨TST_BLK_RESULT.off, 56, 56⟩
def TST_BLK_RESULT.structF : Fld := ⟨TST_BLK_RESULT.off, 55, 52⟩
def TST_BLK_RESULT.addr : Fld := ⟨TST_BLK_RESULT.off, 51, 32⟩
def TST_BLK_RESULT.bit : Fld := ⟨TST_BLK_RESULT.off, 31, 22⟩

/-- TST_BLK_TALLY (R334). -/
def TST_BLK_TALLY.off : Nat := 0x3C10
def TST_BLK_TALLY.tally : Fld := ⟨TST_BLK_TALLY.off, 63, 0⟩

/-- TST_BLK_FREE (R334). -/
def TST_BLK_FREE.off : Nat := 0x3C18
def TST_BLK_FREE.tally : Fld := ⟨TST_BLK_FREE.off, 63, 0⟩

/-- TST_RGN_CFG (R335). -/
def TST_RGN_CFG.off : Nat := 0x200
def TST_RGN_CFG.deadline_s : Fld := ⟨TST_RGN_CFG.off, 63, 48⟩
def TST_RGN_CFG.shadow_every : Fld := ⟨TST_RGN_CFG.off, 47, 32⟩
def TST_RGN_CFG.shadow_en : Fld := ⟨TST_RGN_CFG.off, 1, 1⟩
def TST_RGN_CFG.bist_en : Fld := ⟨TST_RGN_CFG.off, 0, 0⟩

/-- TST_RGN_STATUS (R335). -/
def TST_RGN_STATUS.off : Nat := 0x208
def TST_RGN_STATUS.spares : Fld := ⟨TST_RGN_STATUS.off, 63, 56⟩
def TST_RGN_STATUS.due : Fld := ⟨TST_RGN_STATUS.off, 55, 48⟩
def TST_RGN_STATUS.overdue : Fld := ⟨TST_RGN_STATUS.off, 47, 40⟩
def TST_RGN_STATUS.lapsed : Fld := ⟨TST_RGN_STATUS.off, 39, 32⟩
def TST_RGN_STATUS.quarantined : Fld := ⟨TST_RGN_STATUS.off, 31, 24⟩

/-- TST_RGN_TALLY (R335). -/
def TST_RGN_TALLY.off : Nat := 0x210
def TST_RGN_TALLY.tally : Fld := ⟨TST_RGN_TALLY.off, 63, 0⟩

/-- TST_RGN_SHADOWS (R335). -/
def TST_RGN_SHADOWS.off : Nat := 0x218
def TST_RGN_SHADOWS.count : Fld := ⟨TST_RGN_SHADOWS.off, 63, 0⟩

/-- TST_RGN_SKIPPED (R335). -/
def TST_RGN_SKIPPED.off : Nat := 0x220
def TST_RGN_SKIPPED.count : Fld := ⟨TST_RGN_SKIPPED.off, 63, 0⟩

/-- TST_RGN_SWAPS (R335). -/
def TST_RGN_SWAPS.off : Nat := 0x228
def TST_RGN_SWAPS.count : Fld := ⟨TST_RGN_SWAPS.off, 63, 0⟩

/-- TST_RGN_PREEMPTS (R335). -/
def TST_RGN_PREEMPTS.off : Nat := 0x230
def TST_RGN_PREEMPTS.count : Fld := ⟨TST_RGN_PREEMPTS.off, 63, 0⟩

/-- TST_RGN_DISCARDED (R335). -/
def TST_RGN_DISCARDED.off : Nat := 0x238
def TST_RGN_DISCARDED.count : Fld := ⟨TST_RGN_DISCARDED.off, 63, 0⟩

/-- TST_CHP_TALLY (R336). -/
def TST_CHP_TALLY.off : Nat := 0x100020030000
def TST_CHP_TALLY.value : Fld := ⟨TST_CHP_TALLY.off, 63, 0⟩

/-- TST_CHP_TALLY_AT (R336). -/
def TST_CHP_TALLY_AT.off : Nat := 0x100020030008
def TST_CHP_TALLY_AT.value : Fld := ⟨TST_CHP_TALLY_AT.off, 63, 0⟩

/-- TST_CHP_SWEEP (R336). -/
def TST_CHP_SWEEP.off : Nat := 0x100020030010
def TST_CHP_SWEEP.coverage_bp : Fld := ⟨TST_CHP_SWEEP.off, 63, 48⟩
def TST_CHP_SWEEP.duration_ms : Fld := ⟨TST_CHP_SWEEP.off, 47, 16⟩

/-- TST_CHP_PACK (R336). -/
def TST_CHP_PACK.off : Nat := 0x100020030018
def TST_CHP_PACK.pack_version : Fld := ⟨TST_CHP_PACK.off, 63, 0⟩

/-- TST_CHP_PACK_STATUS (R336). -/
def TST_CHP_PACK_STATUS.off : Nat := 0x100020030020
def TST_CHP_PACK_STATUS.last_result : Fld := ⟨TST_CHP_PACK_STATUS.off, 7, 0⟩

/-- TST_CHP_PREEMPT_AT (R336). -/
def TST_CHP_PREEMPT_AT.off : Nat := 0x100020030028
def TST_CHP_PREEMPT_AT.stride : Fld := ⟨TST_CHP_PREEMPT_AT.off, 63, 0⟩

/-- TST_CHP_SUSPECT (R336). -/
def TST_CHP_SUSPECT.off : Nat := 0x100020030030
def TST_CHP_SUSPECT.valid : Fld := ⟨TST_CHP_SUSPECT.off, 63, 63⟩
def TST_CHP_SUSPECT.lasting : Fld := ⟨TST_CHP_SUSPECT.off, 62, 62⟩
def TST_CHP_SUSPECT.unit : Fld := ⟨TST_CHP_SUSPECT.off, 61, 59⟩
def TST_CHP_SUSPECT.lblock : Fld := ⟨TST_CHP_SUSPECT.off, 58, 48⟩
def TST_CHP_SUSPECT.pblock : Fld := ⟨TST_CHP_SUSPECT.off, 47, 37⟩

/-- TST_CHP_SUSPECT_FROM (R336). -/
def TST_CHP_SUSPECT_FROM.off : Nat := 0x100020030038
def TST_CHP_SUSPECT_FROM.stride : Fld := ⟨TST_CHP_SUSPECT_FROM.off, 63, 0⟩

/-- TST_CHP_SUSPECT_TO (R336). -/
def TST_CHP_SUSPECT_TO.off : Nat := 0x100020030040
def TST_CHP_SUSPECT_TO.stride : Fld := ⟨TST_CHP_SUSPECT_TO.off, 63, 0⟩

/-- TST_CHP_TRANSIENT (R336). -/
def TST_CHP_TRANSIENT.off : Nat := 0x100020030048
def TST_CHP_TRANSIENT.count : Fld := ⟨TST_CHP_TRANSIENT.off, 63, 0⟩

/-- TST_CHP_LASTING (R336). -/
def TST_CHP_LASTING.off : Nat := 0x100020030050
def TST_CHP_LASTING.count : Fld := ⟨TST_CHP_LASTING.off, 63, 0⟩

/-- RGN_RCV (R361). -/
def RGN_RCV.off : Nat := 0x180
def RGN_RCV.down : Fld := ⟨RGN_RCV.off, 63, 63⟩
def RGN_RCV.foreign_in : Fld := ⟨RGN_RCV.off, 47, 40⟩
def RGN_RCV.foreign_out : Fld := ⟨RGN_RCV.off, 39, 32⟩

/-- RGN_REMOUNTS (R361). -/
def RGN_REMOUNTS.off : Nat := 0x188
def RGN_REMOUNTS.count : Fld := ⟨RGN_REMOUNTS.off, 63, 0⟩

/-- RGN_LSE (R361). -/
def RGN_LSE.off : Nat := 0x190
def RGN_LSE.held : Fld := ⟨RGN_LSE.off, 63, 52⟩
def RGN_LSE.waiting : Fld := ⟨RGN_LSE.off, 51, 40⟩

/-- RGN_RMT (R361). -/
def RGN_RMT.off (i : Nat) : Nat := 0x400 + 8 * i
def RGN_RMT.state (i : Nat) : Fld := ⟨RGN_RMT.off i, 63, 61⟩
def RGN_RMT.foreign (i : Nat) : Fld := ⟨RGN_RMT.off i, 60, 60⟩
def RGN_RMT.pending (i : Nat) : Fld := ⟨RGN_RMT.off i, 59, 59⟩
def RGN_RMT.lblock (i : Nat) : Fld := ⟨RGN_RMT.off i, 58, 48⟩
def RGN_RMT.next_lblock (i : Nat) : Fld := ⟨RGN_RMT.off i, 47, 37⟩
def RGN_RMT.pblock (i : Nat) : Fld := ⟨RGN_RMT.off i, 10, 0⟩

/-- RGN_SB (R361). -/
def RGN_SB.off (i : Nat) : Nat := 0x700 + 8 * i
def RGN_SB.st1 (i : Nat) : Fld := ⟨RGN_SB.off i, 63, 62⟩
def RGN_SB.ck1 (i : Nat) : Fld := ⟨RGN_SB.off i, 61, 32⟩
def RGN_SB.st0 (i : Nat) : Fld := ⟨RGN_SB.off i, 31, 30⟩
def RGN_SB.ck0 (i : Nat) : Fld := ⟨RGN_SB.off i, 29, 0⟩

/-- CHP_RCV_STATUS (R362). -/
def CHP_RCV_STATUS.off : Nat := 0x100020040000
def CHP_RCV_STATUS.step : Fld := ⟨CHP_RCV_STATUS.off, 63, 60⟩
def CHP_RCV_STATUS.kind : Fld := ⟨CHP_RCV_STATUS.off, 59, 56⟩
def CHP_RCV_STATUS.restarts : Fld := ⟨CHP_RCV_STATUS.off, 55, 48⟩
def CHP_RCV_STATUS.last_us : Fld := ⟨CHP_RCV_STATUS.off, 47, 32⟩
def CHP_RCV_STATUS.fenced : Fld := ⟨CHP_RCV_STATUS.off, 31, 16⟩

/-- CHP_RCV_FAULT (R362). -/
def CHP_RCV_FAULT.off : Nat := 0x100020040008
def CHP_RCV_FAULT.stride : Fld := ⟨CHP_RCV_FAULT.off, 63, 0⟩

/-- CHP_RCV_FROM (R362). -/
def CHP_RCV_FROM.off : Nat := 0x100020040010
def CHP_RCV_FROM.stride : Fld := ⟨CHP_RCV_FROM.off, 63, 0⟩

/-- CHP_RCV_FLOOR (R362). -/
def CHP_RCV_FLOOR.off : Nat := 0x100020040018
def CHP_RCV_FLOOR.stride : Fld := ⟨CHP_RCV_FLOOR.off, 63, 0⟩

/-- CHP_RCV_RELEASED (R362). -/
def CHP_RCV_RELEASED.off : Nat := 0x100020040020
def CHP_RCV_RELEASED.stride : Fld := ⟨CHP_RCV_RELEASED.off, 63, 0⟩

/-- CHP_RCV_COUNT (R362). -/
def CHP_RCV_COUNT.off : Nat := 0x100020040028
def CHP_RCV_COUNT.count : Fld := ⟨CHP_RCV_COUNT.off, 63, 0⟩

/-- CHP_SB_BASE (R362). -/
def CHP_SB_BASE.off : Nat := 0x100020040030
def CHP_SB_BASE.addr : Fld := ⟨CHP_SB_BASE.off, 47, 0⟩

/-- LSE_REQ (R363). -/
def LSE_REQ.off : Nat := 0x100020050000
def LSE_REQ.go : Fld := ⟨LSE_REQ.off, 63, 63⟩
def LSE_REQ.op : Fld := ⟨LSE_REQ.off, 62, 61⟩
def LSE_REQ.nowait : Fld := ⟨LSE_REQ.off, 60, 60⟩
def LSE_REQ.activity : Fld := ⟨LSE_REQ.off, 59, 56⟩
def LSE_REQ.resource : Fld := ⟨LSE_REQ.off, 15, 0⟩

/-- LSE_STATUS (R363). -/
def LSE_STATUS.off : Nat := 0x100020050008
def LSE_STATUS.state : Fld := ⟨LSE_STATUS.off, 63, 62⟩
def LSE_STATUS.result : Fld := ⟨LSE_STATUS.off, 7, 0⟩

/-- LSE_HELD (R363). -/
def LSE_HELD.off : Nat := 0x100020050010
def LSE_HELD.codes : Fld := ⟨LSE_HELD.off, 63, 52⟩

/-- LSE_WAITING (R363). -/
def LSE_WAITING.off : Nat := 0x100020050018
def LSE_WAITING.codes : Fld := ⟨LSE_WAITING.off, 63, 52⟩

/-- LSE_BUSY (R363). -/
def LSE_BUSY.off : Nat := 0x100020050020
def LSE_BUSY.count : Fld := ⟨LSE_BUSY.off, 63, 0⟩

/-- LSE_ABANDONED (R363). -/
def LSE_ABANDONED.off : Nat := 0x100020050028
def LSE_ABANDONED.count : Fld := ⟨LSE_ABANDONED.off, 63, 0⟩

/-- TWN_CTL (R384). -/
def TWN_CTL.off : Nat := 0x100020060000
def TWN_CTL.go : Fld := ⟨TWN_CTL.off, 63, 63⟩
def TWN_CTL.op : Fld := ⟨TWN_CTL.off, 62, 60⟩
def TWN_CTL.role_pref : Fld := ⟨TWN_CTL.off, 57, 56⟩
def TWN_CTL.stamp_off : Fld := ⟨TWN_CTL.off, 15, 0⟩

/-- TWN_CFG (R384). -/
def TWN_CFG.off : Nat := 0x100020060008
def TWN_CFG.wait_ms : Fld := ⟨TWN_CFG.off, 63, 48⟩
def TWN_CFG.lead : Fld := ⟨TWN_CFG.off, 47, 40⟩
def TWN_CFG.copy_pct : Fld := ⟨TWN_CFG.off, 39, 32⟩

/-- TWN_STATUS (R384). -/
def TWN_STATUS.off : Nat := 0x100020060010
def TWN_STATUS.detach_cause : Fld := ⟨TWN_STATUS.off, 31, 24⟩
def TWN_STATUS.result : Fld := ⟨TWN_STATUS.off, 23, 16⟩
def TWN_STATUS.checked : Fld := ⟨TWN_STATUS.off, 10, 10⟩
def TWN_STATUS.mode : Fld := ⟨TWN_STATUS.off, 9, 8⟩
def TWN_STATUS.role : Fld := ⟨TWN_STATUS.off, 4, 3⟩
def TWN_STATUS.state : Fld := ⟨TWN_STATUS.off, 2, 0⟩

/-- TWN_PEER (R384). -/
def TWN_PEER.off : Nat := 0x100020060018
def TWN_PEER.value : Fld := ⟨TWN_PEER.off, 63, 0⟩

/-- TWN_CMP (R384). -/
def TWN_CMP.off : Nat := 0x100020060020
def TWN_CMP.value : Fld := ⟨TWN_CMP.off, 63, 0⟩

/-- TWN_DONE (R384). -/
def TWN_DONE.off : Nat := 0x100020060028
def TWN_DONE.value : Fld := ⟨TWN_DONE.off, 63, 0⟩

/-- TWN_YOKE (R384). -/
def TWN_YOKE.off : Nat := 0x100020060030
def TWN_YOKE.delay_ns : Fld := ⟨TWN_YOKE.off, 31, 16⟩
def TWN_YOKE.det : Fld := ⟨TWN_YOKE.off, 5, 4⟩
def TWN_YOKE.lost : Fld := ⟨TWN_YOKE.off, 3, 2⟩
def TWN_YOKE.up : Fld := ⟨TWN_YOKE.off, 1, 0⟩

/-- TWN_MISMATCH (R384). -/
def TWN_MISMATCH.off : Nat := 0x100020060038
def TWN_MISMATCH.count : Fld := ⟨TWN_MISMATCH.off, 63, 0⟩

/-- TWN_FAILOVERS (R384). -/
def TWN_FAILOVERS.off : Nat := 0x100020060040
def TWN_FAILOVERS.count : Fld := ⟨TWN_FAILOVERS.off, 63, 0⟩

/-- TWN_DETACHES (R384). -/
def TWN_DETACHES.off : Nat := 0x100020060048
def TWN_DETACHES.count : Fld := ⟨TWN_DETACHES.off, 63, 0⟩

/-- CMD_RING_CTL (R408). -/
def CMD_RING_CTL.off (i : Nat) : Nat := 0x100020070000 + 64 * i
def CMD_RING_CTL.enable (i : Nat) : Fld := ⟨CMD_RING_CTL.off i, 63, 63⟩
def CMD_RING_CTL.step (i : Nat) : Fld := ⟨CMD_RING_CTL.off i, 62, 62⟩
def CMD_RING_CTL.gap (i : Nat) : Fld := ⟨CMD_RING_CTL.off i, 61, 61⟩
def CMD_RING_CTL.dups (i : Nat) : Fld := ⟨CMD_RING_CTL.off i, 58, 56⟩
def CMD_RING_CTL.lg_size (i : Nat) : Fld := ⟨CMD_RING_CTL.off i, 55, 52⟩
def CMD_RING_CTL.base (i : Nat) : Fld := ⟨CMD_RING_CTL.off i, 42, 0⟩

/-- CMD_RING_HEAD (R408). -/
def CMD_RING_HEAD.off (i : Nat) : Nat := 0x100020070008 + 64 * i
def CMD_RING_HEAD.index (i : Nat) : Fld := ⟨CMD_RING_HEAD.off i, 15, 0⟩

/-- CMD_RING_TAIL (R408). -/
def CMD_RING_TAIL.off (i : Nat) : Nat := 0x100020070010 + 64 * i
def CMD_RING_TAIL.index (i : Nat) : Fld := ⟨CMD_RING_TAIL.off i, 15, 0⟩

/-- CMD_LAST_ACCEPTED (R408). -/
def CMD_LAST_ACCEPTED.off (i : Nat) : Nat := 0x100020070018 + 64 * i
def CMD_LAST_ACCEPTED.seq (i : Nat) : Fld := ⟨CMD_LAST_ACCEPTED.off i, 31, 0⟩

/-- CMD_LAST_DONE (R408). -/
def CMD_LAST_DONE.off (i : Nat) : Nat := 0x100020070020 + 64 * i
def CMD_LAST_DONE.seq (i : Nat) : Fld := ⟨CMD_LAST_DONE.off i, 31, 0⟩

/-- CMD_STEP (R408). -/
def CMD_STEP.off (i : Nat) : Nat := 0x100020070028 + 64 * i
def CMD_STEP.go (i : Nat) : Fld := ⟨CMD_STEP.off i, 63, 63⟩

/-- CMD_CPL_CTL (R408). -/
def CMD_CPL_CTL.off : Nat := 0x100020070100
def CMD_CPL_CTL.enable : Fld := ⟨CMD_CPL_CTL.off, 63, 63⟩
def CMD_CPL_CTL.lg_size : Fld := ⟨CMD_CPL_CTL.off, 55, 52⟩
def CMD_CPL_CTL.base : Fld := ⟨CMD_CPL_CTL.off, 42, 0⟩

/-- CMD_CPL_HEAD (R408). -/
def CMD_CPL_HEAD.off : Nat := 0x100020070108
def CMD_CPL_HEAD.index : Fld := ⟨CMD_CPL_HEAD.off, 15, 0⟩

/-- CMD_CPL_TAIL (R408). -/
def CMD_CPL_TAIL.off : Nat := 0x100020070110
def CMD_CPL_TAIL.index : Fld := ⟨CMD_CPL_TAIL.off, 15, 0⟩

/-- CMD_CPL_SEQ (R408). -/
def CMD_CPL_SEQ.off : Nat := 0x100020070118
def CMD_CPL_SEQ.seq : Fld := ⟨CMD_CPL_SEQ.off, 63, 0⟩

/-- CMD_EVT_CTL (R408). -/
def CMD_EVT_CTL.off : Nat := 0x100020070140
def CMD_EVT_CTL.enable : Fld := ⟨CMD_EVT_CTL.off, 63, 63⟩
def CMD_EVT_CTL.lg_size : Fld := ⟨CMD_EVT_CTL.off, 55, 52⟩
def CMD_EVT_CTL.base : Fld := ⟨CMD_EVT_CTL.off, 42, 0⟩

/-- CMD_EVT_HEAD (R408). -/
def CMD_EVT_HEAD.off : Nat := 0x100020070148
def CMD_EVT_HEAD.index : Fld := ⟨CMD_EVT_HEAD.off, 15, 0⟩

/-- CMD_EVT_TAIL (R408). -/
def CMD_EVT_TAIL.off : Nat := 0x100020070150
def CMD_EVT_TAIL.index : Fld := ⟨CMD_EVT_TAIL.off, 15, 0⟩

/-- CMD_EVT_SEQ (R408). -/
def CMD_EVT_SEQ.off : Nat := 0x100020070158
def CMD_EVT_SEQ.seq : Fld := ⟨CMD_EVT_SEQ.off, 63, 0⟩

/-- CMD_EVT_DROPPED (R408). -/
def CMD_EVT_DROPPED.off : Nat := 0x100020070160
def CMD_EVT_DROPPED.count : Fld := ⟨CMD_EVT_DROPPED.off, 63, 0⟩

/-- CMD_QUERY (R408). -/
def CMD_QUERY.off : Nat := 0x100020070180
def CMD_QUERY.go : Fld := ⟨CMD_QUERY.off, 63, 63⟩
def CMD_QUERY.ring : Fld := ⟨CMD_QUERY.off, 33, 32⟩
def CMD_QUERY.seq : Fld := ⟨CMD_QUERY.off, 31, 0⟩

/-- CMD_QUERY_RESULT (R408). -/
def CMD_QUERY_RESULT.off : Nat := 0x100020070188
def CMD_QUERY_RESULT.state : Fld := ⟨CMD_QUERY_RESULT.off, 63, 62⟩
def CMD_QUERY_RESULT.status : Fld := ⟨CMD_QUERY_RESULT.off, 55, 48⟩
def CMD_QUERY_RESULT.cpl_seq : Fld := ⟨CMD_QUERY_RESULT.off, 47, 0⟩

/-- CMD_JOB (R408). -/
def CMD_JOB.off : Nat := 0x1000200701C0
def CMD_JOB.state : Fld := ⟨CMD_JOB.off, 63, 62⟩
def CMD_JOB.ring : Fld := ⟨CMD_JOB.off, 33, 32⟩
def CMD_JOB.seq : Fld := ⟨CMD_JOB.off, 31, 0⟩

/-- CMD_HEARTBEAT (R408). -/
def CMD_HEARTBEAT.off : Nat := 0x1000200701C8
def CMD_HEARTBEAT.beat : Fld := ⟨CMD_HEARTBEAT.off, 63, 0⟩

/-- CMD_NODE (R408). -/
def CMD_NODE.off : Nat := 0x1000200701D0
def CMD_NODE.node : Fld := ⟨CMD_NODE.off, 15, 0⟩

/-- CMD_TRACE_CTL (R408). -/
def CMD_TRACE_CTL.off (i : Nat) : Nat := 0x100020070400 + 64 * i
def CMD_TRACE_CTL.enable (i : Nat) : Fld := ⟨CMD_TRACE_CTL.off i, 63, 63⟩
def CMD_TRACE_CTL.mode (i : Nat) : Fld := ⟨CMD_TRACE_CTL.off i, 62, 62⟩
def CMD_TRACE_CTL.mode_refused (i : Nat) : Fld := ⟨CMD_TRACE_CTL.off i, 61, 61⟩
def CMD_TRACE_CTL.lg_size (i : Nat) : Fld := ⟨CMD_TRACE_CTL.off i, 55, 52⟩
def CMD_TRACE_CTL.rx_base (i : Nat) : Fld := ⟨CMD_TRACE_CTL.off i, 42, 0⟩

/-- CMD_TRACE_RXHEAD (R408). -/
def CMD_TRACE_RXHEAD.off (i : Nat) : Nat := 0x100020070408 + 64 * i
def CMD_TRACE_RXHEAD.index (i : Nat) : Fld := ⟨CMD_TRACE_RXHEAD.off i, 15, 0⟩

/-- CMD_TRACE_RXTAIL (R408). -/
def CMD_TRACE_RXTAIL.off (i : Nat) : Nat := 0x100020070410 + 64 * i
def CMD_TRACE_RXTAIL.index (i : Nat) : Fld := ⟨CMD_TRACE_RXTAIL.off i, 15, 0⟩

/-- CMD_TRACE_TX (R408). -/
def CMD_TRACE_TX.off (i : Nat) : Nat := 0x100020070418 + 64 * i
def CMD_TRACE_TX.enable (i : Nat) : Fld := ⟨CMD_TRACE_TX.off i, 63, 63⟩
def CMD_TRACE_TX.lg_size (i : Nat) : Fld := ⟨CMD_TRACE_TX.off i, 55, 52⟩
def CMD_TRACE_TX.base (i : Nat) : Fld := ⟨CMD_TRACE_TX.off i, 42, 0⟩

/-- CMD_TRACE_TXHEAD (R408). -/
def CMD_TRACE_TXHEAD.off (i : Nat) : Nat := 0x100020070420 + 64 * i
def CMD_TRACE_TXHEAD.index (i : Nat) : Fld := ⟨CMD_TRACE_TXHEAD.off i, 15, 0⟩

/-- CMD_TRACE_TXTAIL (R408). -/
def CMD_TRACE_TXTAIL.off (i : Nat) : Nat := 0x100020070428 + 64 * i
def CMD_TRACE_TXTAIL.index (i : Nat) : Fld := ⟨CMD_TRACE_TXTAIL.off i, 15, 0⟩

/-- CMD_TRACE_TPL (R408). -/
def CMD_TRACE_TPL.off (i : Nat) : Nat := 0x100020070430 + 64 * i
def CMD_TRACE_TPL.addr (i : Nat) : Fld := ⟨CMD_TRACE_TPL.off i, 42, 0⟩

/-- CMD_TRACE_DROP (R408). -/
def CMD_TRACE_DROP.off (i : Nat) : Nat := 0x100020070438 + 64 * i
def CMD_TRACE_DROP.count (i : Nat) : Fld := ⟨CMD_TRACE_DROP.off i, 63, 0⟩

/-- FAR_MBX_CMD (R431). -/
def FAR_MBX_CMD.off : Nat := 0x100030000000
def FAR_MBX_CMD.go : Fld := ⟨FAR_MBX_CMD.off, 63, 63⟩
def FAR_MBX_CMD.op : Fld := ⟨FAR_MBX_CMD.off, 62, 59⟩

/-- FAR_MBX_ARG (R431). -/
def FAR_MBX_ARG.off : Nat := 0x100030000008
def FAR_MBX_ARG.arg : Fld := ⟨FAR_MBX_ARG.off, 63, 0⟩

/-- FAR_MBX_STATUS (R431). -/
def FAR_MBX_STATUS.off : Nat := 0x100030000010
def FAR_MBX_STATUS.busy : Fld := ⟨FAR_MBX_STATUS.off, 8, 8⟩
def FAR_MBX_STATUS.result : Fld := ⟨FAR_MBX_STATUS.off, 7, 0⟩

/-- FAR_LOG_NEWEST (R431). -/
def FAR_LOG_NEWEST.off : Nat := 0x100030000018
def FAR_LOG_NEWEST.seq : Fld := ⟨FAR_LOG_NEWEST.off, 63, 0⟩

/-- FAR_LOG_OLDEST (R431). -/
def FAR_LOG_OLDEST.off : Nat := 0x100030000020
def FAR_LOG_OLDEST.seq : Fld := ⟨FAR_LOG_OLDEST.off, 63, 0⟩

/-- FAR_PWR (R431). -/
def FAR_PWR.off : Nat := 0x100030000028
def FAR_PWR.input_w : Fld := ⟨FAR_PWR.off, 63, 48⟩
def FAR_PWR.mean_w : Fld := ⟨FAR_PWR.off, 47, 32⟩
def FAR_PWR.cap_w : Fld := ⟨FAR_PWR.off, 31, 16⟩
def FAR_PWR.up_count : Fld := ⟨FAR_PWR.off, 3, 1⟩
def FAR_PWR.unmet : Fld := ⟨FAR_PWR.off, 0, 0⟩

/-- FAR_PWR_CFG (R431). -/
def FAR_PWR_CFG.off : Nat := 0x100030000030
def FAR_PWR_CFG.rider_cap_w : Fld := ⟨FAR_PWR_CFG.off, 63, 48⟩
def FAR_PWR_CFG.vmin_mv : Fld := ⟨FAR_PWR_CFG.off, 31, 16⟩

/-- FAR_SENS_SEL (R431). -/
def FAR_SENS_SEL.off : Nat := 0x100030000038
def FAR_SENS_SEL.index : Fld := ⟨FAR_SENS_SEL.off, 7, 0⟩

/-- FAR_SENS_DATA (R431). -/
def FAR_SENS_DATA.off : Nat := 0x100030000040
def FAR_SENS_DATA.valid : Fld := ⟨FAR_SENS_DATA.off, 63, 63⟩
def FAR_SENS_DATA.age_us : Fld := ⟨FAR_SENS_DATA.off, 62, 32⟩
def FAR_SENS_DATA.value : Fld := ⟨FAR_SENS_DATA.off, 31, 0⟩

/-- FAR_LMS (R431). -/
def FAR_LMS.off : Nat := 0x100030000048
def FAR_LMS.q : Fld := ⟨FAR_LMS.off, 63, 33⟩
def FAR_LMS.left : Fld := ⟨FAR_LMS.off, 32, 20⟩
def FAR_LMS.fuses : Fld := ⟨FAR_LMS.off, 19, 9⟩
def FAR_LMS.exhausted : Fld := ⟨FAR_LMS.off, 0, 0⟩

/-- FAR_SCAN (R431). -/
def FAR_SCAN.off : Nat := 0x100030000050
def FAR_SCAN.scrubbed : Fld := ⟨FAR_SCAN.off, 1, 1⟩
def FAR_SCAN.openS : Fld := ⟨FAR_SCAN.off, 0, 0⟩

/-- FAR_MBX_BUF (R431). -/
def FAR_MBX_BUF.off (i : Nat) : Nat := 0x100030000100 + 8 * i
def FAR_MBX_BUF.data (i : Nat) : Fld := ⟨FAR_MBX_BUF.off i, 63, 0⟩

/-- BLK_CNT (R452). -/
def BLK_CNT.off (i : Nat) : Nat := 0x3D00 + 8 * i
def BLK_CNT.count (i : Nat) : Fld := ⟨BLK_CNT.off i, 63, 0⟩

/-- BLK_TETHER (R452). -/
def BLK_TETHER.off : Nat := 0x3F00
def BLK_TETHER.idle_us : Fld := ⟨BLK_TETHER.off, 47, 32⟩
def BLK_TETHER.missed : Fld := ⟨BLK_TETHER.off, 23, 16⟩
def BLK_TETHER.state : Fld := ⟨BLK_TETHER.off, 1, 0⟩

/-- BLK_TRC_CTL (R452). -/
def BLK_TRC_CTL.off : Nat := 0x3F08
def BLK_TRC_CTL.enable : Fld := ⟨BLK_TRC_CTL.off, 63, 63⟩
def BLK_TRC_CTL.handle : Fld := ⟨BLK_TRC_CTL.off, 37, 32⟩
def BLK_TRC_CTL.min_ns : Fld := ⟨BLK_TRC_CTL.off, 31, 16⟩
def BLK_TRC_CTL.kinds : Fld := ⟨BLK_TRC_CTL.off, 11, 0⟩

/-- BLK_TRC_PTR (R452). -/
def BLK_TRC_PTR.off : Nat := 0x3F10
def BLK_TRC_PTR.wraps : Fld := ⟨BLK_TRC_PTR.off, 63, 32⟩
def BLK_TRC_PTR.next : Fld := ⟨BLK_TRC_PTR.off, 31, 0⟩

/-- CHP_RST (R453). -/
def CHP_RST.off : Nat := 0x100020080000
def CHP_RST.go : Fld := ⟨CHP_RST.off, 63, 63⟩
def CHP_RST.op : Fld := ⟨CHP_RST.off, 62, 60⟩
def CHP_RST.result : Fld := ⟨CHP_RST.off, 59, 56⟩
def CHP_RST.target : Fld := ⟨CHP_RST.off, 10, 0⟩

/-- CHP_ESC (R453). -/
def CHP_ESC.off : Nat := 0x100020080008
def CHP_ESC.blk_window_s : Fld := ⟨CHP_ESC.off, 63, 48⟩
def CHP_ESC.rgn_window_s : Fld := ⟨CHP_ESC.off, 47, 32⟩
def CHP_ESC.chip_window_s : Fld := ⟨CHP_ESC.off, 31, 16⟩
def CHP_ESC.blk_count : Fld := ⟨CHP_ESC.off, 15, 11⟩
def CHP_ESC.rgn_count : Fld := ⟨CHP_ESC.off, 10, 6⟩
def CHP_ESC.chip_count : Fld := ⟨CHP_ESC.off, 5, 1⟩

/-- CHP_ESC_STATUS (R453). -/
def CHP_ESC_STATUS.off : Nat := 0x100020080010
def CHP_ESC_STATUS.last : Fld := ⟨CHP_ESC_STATUS.off, 63, 56⟩
def CHP_ESC_STATUS.place : Fld := ⟨CHP_ESC_STATUS.off, 55, 45⟩
def CHP_ESC_STATUS.chip_resets : Fld := ⟨CHP_ESC_STATUS.off, 39, 32⟩

/-- CHP_COLLECT (R453). -/
def CHP_COLLECT.off : Nat := 0x100020080018
def CHP_COLLECT.enable : Fld := ⟨CHP_COLLECT.off, 63, 63⟩
def CHP_COLLECT.max_blocks : Fld := ⟨CHP_COLLECT.off, 55, 48⟩
def CHP_COLLECT.handle : Fld := ⟨CHP_COLLECT.off, 37, 32⟩
def CHP_COLLECT.offset_64k : Fld := ⟨CHP_COLLECT.off, 31, 16⟩
def CHP_COLLECT.last_blocks : Fld := ⟨CHP_COLLECT.off, 7, 0⟩

/-- FAR_SMP_SEL (R454). -/
def FAR_SMP_SEL.off : Nat := 0x100030000200
def FAR_SMP_SEL.coll : Fld := ⟨FAR_SMP_SEL.off, 9, 8⟩
def FAR_SMP_SEL.index : Fld := ⟨FAR_SMP_SEL.off, 5, 0⟩

/-- FAR_SMP_INFO (R454). -/
def FAR_SMP_INFO.off : Nat := 0x100030000208
def FAR_SMP_INFO.valid : Fld := ⟨FAR_SMP_INFO.off, 63, 63⟩
def FAR_SMP_INFO.missing : Fld := ⟨FAR_SMP_INFO.off, 62, 62⟩
def FAR_SMP_INFO.pblock : Fld := ⟨FAR_SMP_INFO.off, 61, 51⟩
def FAR_SMP_INFO.lblock : Fld := ⟨FAR_SMP_INFO.off, 50, 40⟩
def FAR_SMP_INFO.kind : Fld := ⟨FAR_SMP_INFO.off, 39, 36⟩
def FAR_SMP_INFO.bytes : Fld := ⟨FAR_SMP_INFO.off, 16, 0⟩

/-- Rows of the blk register maps, part 0. -/
def blkRows0 : List RegRow := [
  ⟨"BLK_DRG_STATUS", 0x3000, 8, 1, [⟨"pred", 44, 41, .ro, 0, .no⟩, ⟨"pc", 40, 29, .ro, 0, .no⟩, ⟨"length", 28, 16, .ro, 0, .keep⟩, ⟨"fault", 15, 8, .ro, 0, .no⟩, ⟨"state", 2, 0, .ro, 0, .no⟩]⟩,
  ⟨"BLK_DRG_FAULT", 0x3008, 8, 1, [⟨"word", 63, 52, .ro, 0, .keep⟩, ⟨"code", 51, 44, .ro, 0, .keep⟩, ⟨"column", 43, 38, .ro, 0, .keep⟩, ⟨"attempt", 37, 36, .ro, 0, .keep⟩, ⟨"lasting", 35, 35, .ro, 0, .keep⟩, ⟨"stride_lo", 31, 0, .ro, 0, .keep⟩]⟩,
  ⟨"BLK_DRG_WAVES", 0x3010, 8, 1, [⟨"count", 63, 0, .cnt, 0, .no⟩]⟩,
  ⟨"BLK_DRG_TALL", 0x3018, 8, 1, [⟨"count", 63, 0, .cnt, 0, .no⟩]⟩,
  ⟨"BLK_DRG_RETRY", 0x3020, 8, 1, [⟨"count", 63, 0, .cnt, 0, .no⟩]⟩,
  ⟨"BLK_DRG_ECC", 0x3028, 8, 1, [⟨"count", 63, 0, .cnt, 0, .no⟩]⟩,
  ⟨"HDL_CTL", 0x1000, 64, 64, [⟨"valid", 63, 63, .rw, 0, .image⟩, ⟨"tier", 62, 61, .rw, 0, .image⟩, ⟨"resident", 60, 60, .rw, 0, .image⟩, ⟨"window", 59, 59, .ro, 0, .image⟩, ⟨"closing", 58, 58, .ro, 0, .no⟩, ⟨"rd", 57, 57, .rw, 0, .image⟩, ⟨"wr", 56, 56, .rw, 0, .image⟩, ⟨"mg", 55, 55, .rw, 0, .image⟩, ⟨"node", 47, 32, .rw, 0, .image⟩, ⟨"gen", 7, 0, .ro, 0, .image⟩]⟩,
  ⟨"HDL_BASE", 0x1008, 64, 64, [⟨"addr", 47, 0, .rw, 0, .image⟩]⟩,
  ⟨"HDL_LEN", 0x1010, 64, 64, [⟨"length", 39, 0, .rw, 0, .image⟩]⟩,
  ⟨"HDL_SHAPE", 0x1018, 64, 64, [⟨"stride", 63, 32, .rw, 0, .image⟩, ⟨"row", 31, 0, .rw, 0, .image⟩]⟩,
  ⟨"HDL_COPY", 0x1020, 64, 64, [⟨"addr", 47, 0, .rw, 0, .image⟩]⟩,
  ⟨"PKH_RING", 0x2000, 8, 1, [⟨"enable", 63, 63, .rw, 0, .no⟩, ⟨"lg_size", 27, 24, .rw, 0, .no⟩, ⟨"base", 18, 0, .rw, 0, .no⟩]⟩]

/-- Rows of the blk register maps, part 1. -/
def blkRows1 : List RegRow := [
  ⟨"PKH_HEAD", 0x2008, 8, 1, [⟨"index", 7, 0, .rw, 0, .no⟩]⟩,
  ⟨"PKH_TAIL", 0x2010, 8, 1, [⟨"index", 7, 0, .ro, 0, .no⟩]⟩,
  ⟨"PKH_STATUS", 0x2018, 8, 1, [⟨"last_err", 15, 8, .ro, 0, .no⟩, ⟨"active", 2, 0, .ro, 0, .no⟩]⟩,
  ⟨"PKH_BYTES", 0x2020, 8, 1, [⟨"count", 63, 0, .cnt, 0, .no⟩]⟩,
  ⟨"BLK_GRM_STATE", 0x2800, 8, 8, [⟨"pc", 43, 32, .ro, 0, .no⟩, ⟨"task", 31, 22, .ro, 0, .no⟩, ⟨"fault", 15, 8, .ro, 0, .no⟩, ⟨"state", 2, 0, .ro, 0, .no⟩]⟩,
  ⟨"BLK_GRM_PATIENCE", 0x2840, 8, 8, [⟨"limit", 19, 0, .rw, 1000, .no⟩]⟩,
  ⟨"BLK_SPD_ECC", 0x2880, 8, 1, [⟨"count", 63, 0, .cnt, 0, .no⟩]⟩,
  ⟨"BLK_Q_CFG", 0x800, 8, 256, [⟨"kind", 63, 62, .ro, 0, .image⟩, ⟨"join", 61, 61, .ro, 0, .image⟩, ⟨"ctl", 60, 60, .ro, 0, .image⟩, ⟨"node", 59, 49, .ro, 0, .image⟩, ⟨"input", 48, 46, .ro, 0, .image⟩, ⟨"depth", 45, 38, .ro, 0, .image⟩, ⟨"lines", 37, 33, .ro, 0, .image⟩, ⟨"incarn", 27, 20, .ro, 0, .no⟩, ⟨"closed", 19, 19, .ro, 0, .no⟩, ⟨"mask", 17, 10, .ro, 0, .image⟩, ⟨"line", 9, 0, .ro, 0, .image⟩]⟩,
  ⟨"BLK_DF_STATUS", 0x3800, 8, 1, [⟨"fl_index", 63, 52, .ro, 0, .no⟩, ⟨"ctx_used", 51, 39, .ro, 0, .no⟩, ⟨"match_used", 38, 30, .ro, 0, .no⟩, ⟨"qent_used", 29, 18, .ro, 0, .no⟩, ⟨"state", 2, 0, .ro, 0, .no⟩]⟩,
  ⟨"BLK_DF_FIRES", 0x3808, 8, 1, [⟨"count", 63, 0, .cnt, 0, .no⟩]⟩,
  ⟨"BLK_DF_DISCARD", 0x3810, 8, 1, [⟨"count", 63, 0, .cnt, 0, .no⟩]⟩,
  ⟨"BLK_DF_SLACK", 0x3818, 8, 1, [⟨"count", 63, 0, .cnt, 0, .no⟩]⟩]

/-- Rows of the blk register maps, part 2. -/
def blkRows2 : List RegRow := [
  ⟨"BLK_DF_CREDITWAIT", 0x3820, 8, 1, [⟨"count", 63, 0, .cnt, 0, .no⟩]⟩,
  ⟨"BLK_DF_UNMATCHED", 0x3828, 8, 1, [⟨"count", 63, 0, .cnt, 0, .no⟩]⟩,
  ⟨"BLK_DF_FAULT", 0x3830, 8, 1, [⟨"code", 63, 56, .ro, 0, .keep⟩, ⟨"node", 55, 45, .ro, 0, .keep⟩, ⟨"queue", 44, 37, .ro, 0, .keep⟩, ⟨"tag", 31, 8, .ro, 0, .keep⟩]⟩,
  ⟨"BLK_CQ_CFG", 0x3900, 32, 16, [⟨"enable", 63, 63, .ro, 0, .image⟩, ⟨"mode", 62, 62, .ro, 0, .image⟩, ⟨"tally", 61, 61, .ro, 0, .image⟩, ⟨"convert", 60, 60, .ro, 0, .image⟩, ⟨"ofmt", 59, 56, .ro, 0, .image⟩, ⟨"sr", 55, 55, .ro, 0, .image⟩, ⟨"clip", 54, 54, .ro, 0, .image⟩, ⟨"scale", 53, 53, .ro, 0, .image⟩, ⟨"bias", 52, 52, .ro, 0, .image⟩, ⟨"pbank", 51, 49, .ro, 0, .image⟩, ⟨"pline", 48, 39, .ro, 0, .image⟩, ⟨"slots", 38, 31, .ro, 0, .image⟩, ⟨"mask", 17, 10, .ro, 0, .image⟩, ⟨"line", 9, 0, .ro, 0, .image⟩]⟩,
  ⟨"BLK_CQ_FWD", 0x3908, 32, 16, [⟨"count", 63, 48, .ro, 0, .image⟩, ⟨"mcast", 47, 47, .ro, 0, .image⟩, ⟨"dest", 46, 36, .ro, 0, .image⟩, ⟨"queue", 35, 28, .ro, 0, .image⟩, ⟨"vc", 27, 27, .ro, 0, .image⟩, ⟨"key_base", 26, 11, .ro, 0, .image⟩]⟩,
  ⟨"BLK_CQ_STATE", 0x3910, 32, 16, [⟨"done", 63, 32, .cnt, 0, .no⟩, ⟨"peak", 24, 16, .ro, 0, .no⟩, ⟨"open", 8, 0, .ro, 0, .no⟩]⟩,
  ⟨"BLK_SCAN_CTL", 0x3B00, 8, 1, [⟨"go", 63, 63, .wo, 0, .no⟩, ⟨"op", 62, 61, .rw, 0, .no⟩, ⟨"reason", 60, 59, .rw, 0, .no⟩]⟩,
  ⟨"BLK_SCAN_ADDR", 0x3B08, 8, 1, [⟨"addr", 47, 0, .rw, 0, .no⟩]⟩,
  ⟨"BLK_SCAN_STATUS", 0x3B10, 8, 1, [⟨"length", 63, 32, .ro, 0, .no⟩, ⟨"result", 7, 4, .ro, 0, .no⟩, ⟨"busy", 0, 0, .ro, 0, .no⟩]⟩,
  ⟨"MSH_CTL", 0x400, 8, 1, [⟨"mode", 7, 6, .ro, 0, .no⟩, ⟨"pending", 1, 1, .ro, 0, .no⟩, ⟨"epoch", 0, 0, .ro, 0, .image⟩]⟩,
  ⟨"MSH_THRESH", 0x408, 8, 1, [⟨"timeout", 27, 16, .rw, 8, .no⟩, ⟨"mark_pct", 6, 0, .rw, 75, .no⟩]⟩,
  ⟨"MSH_RATE", 0x410, 8, 1, [⟨"halved", 8, 8, .ro, 0, .no⟩, ⟨"rate", 6, 0, .ro, 64, .no⟩]⟩]

/-- Rows of the blk register maps, part 3. -/
def blkRows3 : List RegRow := [
  ⟨"MSH_RT_ADDR", 0x418, 8, 1, [⟨"word", 20, 16, .rw, 0, .no⟩, ⟨"table", 12, 12, .rw, 0, .no⟩, ⟨"epoch", 11, 11, .rw, 0, .no⟩, ⟨"index", 10, 0, .rw, 0, .no⟩]⟩,
  ⟨"MSH_RT_DATA", 0x420, 8, 1, [⟨"data", 63, 0, .ro, 0, .image⟩]⟩,
  ⟨"MSH_DRAIN", 0x428, 8, 1, [⟨"count", 15, 0, .ro, 0, .no⟩]⟩,
  ⟨"MSH_RESEND", 0x430, 8, 1, [⟨"mc_open", 39, 32, .ro, 0, .no⟩, ⟨"lines", 25, 16, .ro, 0, .no⟩, ⟨"packets", 7, 0, .ro, 0, .no⟩]⟩,
  ⟨"MSH_FAULT", 0x438, 8, 1, [⟨"code", 63, 56, .ro, 0, .keep⟩, ⟨"port", 55, 53, .ro, 0, .keep⟩, ⟨"vc", 52, 52, .ro, 0, .keep⟩, ⟨"src", 51, 41, .ro, 0, .keep⟩, ⟨"dest", 40, 30, .ro, 0, .keep⟩, ⟨"tag", 23, 0, .ro, 0, .keep⟩]⟩,
  ⟨"MSH_FLITS", 0x440, 8, 1, [⟨"count", 63, 0, .cnt, 0, .no⟩]⟩,
  ⟨"MSH_MARKS", 0x448, 8, 1, [⟨"count", 63, 0, .cnt, 0, .no⟩]⟩,
  ⟨"MSH_ECHOES", 0x450, 8, 1, [⟨"count", 63, 0, .cnt, 0, .no⟩]⟩,
  ⟨"MSH_MERGES", 0x458, 8, 1, [⟨"count", 63, 0, .cnt, 0, .no⟩]⟩,
  ⟨"MSH_DISCARD", 0x460, 8, 1, [⟨"count", 63, 0, .cnt, 0, .no⟩]⟩,
  ⟨"MSH_LINK_RETRY", 0x468, 8, 1, [⟨"count", 63, 0, .cnt, 0, .no⟩]⟩,
  ⟨"MSH_RESENDS", 0x470, 8, 1, [⟨"count", 63, 0, .cnt, 0, .no⟩]⟩]

/-- Rows of the blk register maps, part 4. -/
def blkRows4 : List RegRow := [
  ⟨"MSH_REPLWAIT", 0x478, 8, 1, [⟨"count", 63, 0, .cnt, 0, .no⟩]⟩,
  ⟨"BLK_GRM_QCTL", 0x2900, 8, 1, [⟨"go", 63, 63, .wo, 0, .no⟩, ⟨"op", 62, 61, .rw, 0, .no⟩, ⟨"result", 15, 8, .ro, 0, .no⟩, ⟨"queue", 7, 0, .rw, 0, .no⟩]⟩,
  ⟨"BLK_GRM_MQFULL", 0x2908, 8, 1, [⟨"count", 63, 0, .cnt, 0, .no⟩]⟩,
  ⟨"BLK_GRM_MQSTALE", 0x2910, 8, 1, [⟨"count", 63, 0, .cnt, 0, .no⟩]⟩,
  ⟨"BLK_GRM_MQCLOSED", 0x2918, 8, 1, [⟨"count", 63, 0, .cnt, 0, .no⟩]⟩,
  ⟨"BLK_GRM_MQBAD", 0x2920, 8, 1, [⟨"count", 63, 0, .cnt, 0, .no⟩]⟩,
  ⟨"BLK_GRM_WINREF", 0x2928, 8, 1, [⟨"count", 63, 0, .cnt, 0, .no⟩]⟩,
  ⟨"BLK_GRM_REOFFER", 0x2930, 8, 1, [⟨"count", 63, 0, .cnt, 0, .no⟩]⟩,
  ⟨"BLK_GRM_BALKS", 0x2938, 8, 1, [⟨"count", 63, 0, .cnt, 0, .no⟩]⟩,
  ⟨"BLK_GRM_MUTUAL", 0x2940, 8, 1, [⟨"count", 63, 0, .cnt, 0, .no⟩]⟩,
  ⟨"TST_BLK_STATE", 0x3C00, 8, 1, [⟨"clean_runs", 63, 56, .ro, 0, .keep⟩, ⟨"repairs", 55, 48, .ro, 0, .keep⟩, ⟨"health", 41, 40, .ro, 0, .keep⟩, ⟨"slice", 39, 35, .ro, 31, .no⟩, ⟨"stage", 34, 32, .ro, 0, .keep⟩, ⟨"age_ms", 31, 0, .ro, 0, .keep⟩]⟩,
  ⟨"TST_BLK_RESULT", 0x3C08, 8, 1, [⟨"slice", 63, 59, .ro, 0, .keep⟩, ⟨"result", 58, 57, .ro, 0, .keep⟩, ⟨"attempt", 56, 56, .ro, 0, .keep⟩, ⟨"struct", 55, 52, .ro, 0, .keep⟩, ⟨"addr", 51, 32, .ro, 0, .keep⟩, ⟨"bit", 31, 22, .ro, 0, .keep⟩]⟩]

/-- Rows of the blk register maps, part 5. -/
def blkRows5 : List RegRow := [
  ⟨"TST_BLK_TALLY", 0x3C10, 8, 1, [⟨"tally", 63, 0, .ro, 0, .no⟩]⟩,
  ⟨"TST_BLK_FREE", 0x3C18, 8, 1, [⟨"tally", 63, 0, .ro, 0, .no⟩]⟩,
  ⟨"BLK_CNT", 0x3D00, 8, 64, [⟨"count", 63, 0, .cnt, 0, .no⟩]⟩,
  ⟨"BLK_TETHER", 0x3F00, 8, 1, [⟨"idle_us", 47, 32, .ro, 0, .no⟩, ⟨"missed", 23, 16, .ro, 0, .no⟩, ⟨"state", 1, 0, .ro, 0, .no⟩]⟩,
  ⟨"BLK_TRC_CTL", 0x3F08, 8, 1, [⟨"enable", 63, 63, .rw, 0, .no⟩, ⟨"handle", 37, 32, .rw, 0, .no⟩, ⟨"min_ns", 31, 16, .rw, 1000, .no⟩, ⟨"kinds", 11, 0, .rw, 4095, .no⟩]⟩,
  ⟨"BLK_TRC_PTR", 0x3F10, 8, 1, [⟨"wraps", 63, 32, .cnt, 0, .no⟩, ⟨"next", 31, 0, .ro, 0, .no⟩]⟩]

/-- Every register of the blk windows. -/
def blkRows : List RegRow := blkRows0 ++ blkRows1 ++ blkRows2 ++ blkRows3 ++ blkRows4 ++ blkRows5

/-- Rows of the rgn register maps, part 0. -/
def rgnRows0 : List RegRow := [
  ⟨"RGN_EPOCH", 0x100, 8, 1, [⟨"drain", 63, 32, .ro, 0, .no⟩, ⟨"flips", 31, 16, .cnt, 0, .no⟩, ⟨"lease", 3, 3, .ro, 0, .no⟩, ⟨"drained", 2, 2, .ro, 1, .no⟩, ⟨"pending", 1, 1, .ro, 0, .no⟩, ⟨"epoch", 0, 0, .ro, 0, .no⟩]⟩,
  ⟨"RGN_EPOCH_AT", 0x108, 8, 1, [⟨"stride", 63, 0, .ro, 0, .no⟩]⟩,
  ⟨"TST_RGN_CFG", 0x200, 8, 1, [⟨"deadline_s", 63, 48, .rw, 60, .no⟩, ⟨"shadow_every", 47, 32, .rw, 100, .no⟩, ⟨"shadow_en", 1, 1, .rw, 1, .no⟩, ⟨"bist_en", 0, 0, .rw, 1, .no⟩]⟩,
  ⟨"TST_RGN_STATUS", 0x208, 8, 1, [⟨"spares", 63, 56, .ro, 0, .no⟩, ⟨"due", 55, 48, .ro, 0, .no⟩, ⟨"overdue", 47, 40, .ro, 0, .no⟩, ⟨"lapsed", 39, 32, .ro, 0, .no⟩, ⟨"quarantined", 31, 24, .ro, 0, .no⟩]⟩,
  ⟨"TST_RGN_TALLY", 0x210, 8, 1, [⟨"tally", 63, 0, .ro, 0, .no⟩]⟩,
  ⟨"TST_RGN_SHADOWS", 0x218, 8, 1, [⟨"count", 63, 0, .cnt, 0, .no⟩]⟩,
  ⟨"TST_RGN_SKIPPED", 0x220, 8, 1, [⟨"count", 63, 0, .cnt, 0, .no⟩]⟩,
  ⟨"TST_RGN_SWAPS", 0x228, 8, 1, [⟨"count", 63, 0, .cnt, 0, .no⟩]⟩,
  ⟨"TST_RGN_PREEMPTS", 0x230, 8, 1, [⟨"count", 63, 0, .cnt, 0, .no⟩]⟩,
  ⟨"TST_RGN_DISCARDED", 0x238, 8, 1, [⟨"count", 63, 0, .cnt, 0, .no⟩]⟩,
  ⟨"RGN_RCV", 0x180, 8, 1, [⟨"down", 63, 63, .ro, 0, .no⟩, ⟨"foreign_in", 47, 40, .ro, 0, .no⟩, ⟨"foreign_out", 39, 32, .ro, 0, .no⟩]⟩,
  ⟨"RGN_REMOUNTS", 0x188, 8, 1, [⟨"count", 63, 0, .cnt, 0, .no⟩]⟩]

/-- Rows of the rgn register maps, part 1. -/
def rgnRows1 : List RegRow := [
  ⟨"RGN_LSE", 0x190, 8, 1, [⟨"held", 63, 52, .ro, 0, .no⟩, ⟨"waiting", 51, 40, .ro, 0, .no⟩]⟩,
  ⟨"RGN_RMT", 0x400, 8, 80, [⟨"state", 63, 61, .ro, 1, .no⟩, ⟨"foreign", 60, 60, .ro, 0, .no⟩, ⟨"pending", 59, 59, .ro, 0, .no⟩, ⟨"lblock", 58, 48, .ro, 2047, .no⟩, ⟨"next_lblock", 47, 37, .ro, 2047, .no⟩, ⟨"pblock", 10, 0, .ro, 0, .keep⟩]⟩,
  ⟨"RGN_SB", 0x700, 8, 75, [⟨"st1", 63, 62, .ro, 0, .no⟩, ⟨"ck1", 61, 32, .ro, 0, .no⟩, ⟨"st0", 31, 30, .ro, 0, .no⟩, ⟨"ck0", 29, 0, .ro, 0, .no⟩]⟩]

/-- Every register of the rgn windows. -/
def rgnRows : List RegRow := rgnRows0 ++ rgnRows1

/-- Rows of the chip register maps, part 0. -/
def chipRows0 : List RegRow := [
  ⟨"CAD_CTL", 0x100020010000, 8, 1, [⟨"phase", 5, 4, .ro, 0, .no⟩, ⟨"run", 3, 3, .ro, 0, .no⟩, ⟨"gait_next", 1, 1, .rw, 0, .no⟩, ⟨"gait", 0, 0, .ro, 0, .no⟩]⟩,
  ⟨"CAD_PERIOD", 0x100020010008, 8, 1, [⟨"next_refused", 61, 61, .w1c, 0, .no⟩, ⟨"required_min", 60, 41, .ro, 0, .no⟩, ⟨"period_next", 40, 21, .rw, 0, .no⟩, ⟨"current", 19, 0, .ro, 4000, .no⟩]⟩,
  ⟨"CAD_STRIDE", 0x100020010010, 8, 1, [⟨"stride", 63, 0, .ro, 0, .no⟩]⟩,
  ⟨"CAD_STUMBLE", 0x100020010018, 8, 1, [⟨"count", 63, 0, .cnt, 0, .no⟩]⟩,
  ⟨"CAD_STUMBLE_LAST", 0x100020010020, 8, 1, [⟨"late_ns", 63, 48, .ro, 0, .no⟩, ⟨"region", 47, 44, .ro, 0, .no⟩, ⟨"block", 43, 33, .ro, 0, .no⟩, ⟨"stride_lo", 31, 0, .ro, 0, .no⟩]⟩,
  ⟨"CAD_LOOSE_COUNT", 0x100020010028, 8, 1, [⟨"count", 63, 0, .cnt, 0, .no⟩]⟩,
  ⟨"CAD_PERIOD_AT", 0x100020010030, 8, 1, [⟨"stride", 63, 0, .rw, 0, .no⟩]⟩,
  ⟨"CAD_SEED", 0x100020010040, 8, 4, [⟨"seed", 63, 0, .rwl, 0, .no⟩]⟩,
  ⟨"CAD_SYNC_CTL", 0x100020010060, 8, 1, [⟨"asym", 31, 16, .rw, 0, .no⟩, ⟨"port", 5, 2, .rw, 0, .no⟩, ⟨"role", 1, 1, .rw, 0, .no⟩, ⟨"enable", 0, 0, .rw, 0, .no⟩]⟩,
  ⟨"CAD_SYNC_STATUS", 0x100020010068, 8, 1, [⟨"offset", 63, 32, .ro, 0, .no⟩, ⟨"delay", 31, 16, .ro, 0, .no⟩, ⟨"noport", 2, 2, .ro, 0, .no⟩, ⟨"locked", 1, 1, .ro, 0, .no⟩, ⟨"lost", 0, 0, .w1c, 0, .no⟩]⟩,
  ⟨"CAD_RGN_STUMBLE", 0x100020010080, 8, 16, [⟨"count", 63, 0, .cnt, 0, .no⟩]⟩,
  ⟨"CHP_IMG_CTL", 0x100020020000, 8, 1, [⟨"go", 63, 63, .wo, 0, .no⟩, ⟨"op", 62, 60, .rw, 0, .no⟩]⟩]

/-- Rows of the chip register maps, part 1. -/
def chipRows1 : List RegRow := [
  ⟨"CHP_IMG_ADDR", 0x100020020008, 8, 1, [⟨"addr", 42, 0, .rw, 0, .no⟩]⟩,
  ⟨"CHP_IMG_STATUS", 0x100020020010, 8, 1, [⟨"op_result", 39, 32, .ro, 0, .no⟩, ⟨"stage", 6, 4, .ro, 0, .no⟩, ⟨"load", 2, 0, .ro, 0, .no⟩]⟩,
  ⟨"CHP_HOLD_REASON", 0x100020020018, 8, 1, [⟨"code", 63, 56, .ro, 0, .no⟩, ⟨"sub", 55, 48, .ro, 0, .no⟩, ⟨"section", 47, 40, .ro, 0, .no⟩, ⟨"lblock", 39, 28, .ro, 0, .no⟩, ⟨"index", 27, 12, .ro, 0, .no⟩]⟩,
  ⟨"CHP_IMG_SEQ", 0x100020020020, 8, 1, [⟨"sequence", 63, 0, .ro, 0, .no⟩]⟩,
  ⟨"CHP_SWAP_AT", 0x100020020028, 8, 1, [⟨"stride", 63, 0, .rw, 0, .no⟩]⟩,
  ⟨"CHP_SWAP_STATUS", 0x100020020030, 8, 1, [⟨"load_us", 63, 48, .ro, 0, .no⟩, ⟨"deferrals", 47, 40, .ro, 0, .no⟩, ⟨"result", 39, 32, .ro, 0, .no⟩, ⟨"seq_lo", 31, 0, .ro, 0, .no⟩]⟩,
  ⟨"CHP_STATE", 0x100020000000, 8, 1, [⟨"oos_cause", 63, 56, .ro, 0, .keep⟩, ⟨"warm_resets", 47, 32, .cnt, 0, .keep⟩, ⟨"prev", 7, 5, .ro, 0, .keep⟩, ⟨"state", 2, 0, .ro, 1, .no⟩]⟩,
  ⟨"CHP_BRINGUP", 0x100020000008, 8, 1, [⟨"step", 63, 59, .ro, 4, .no⟩, ⟨"path", 58, 57, .ro, 1, .no⟩, ⟨"fast_deny", 55, 48, .ro, 0, .no⟩, ⟨"elapsed_ms", 31, 0, .ro, 0, .no⟩]⟩,
  ⟨"CHP_READY", 0x100020000010, 8, 1, [⟨"hbm", 39, 32, .ro, 0, .no⟩, ⟨"ddr", 31, 20, .ro, 0, .no⟩, ⟨"trace", 19, 12, .ro, 0, .no⟩, ⟨"yoke", 11, 10, .ro, 0, .no⟩, ⟨"mesh", 9, 9, .ro, 0, .no⟩, ⟨"bist", 8, 8, .ro, 0, .no⟩, ⟨"kar", 7, 7, .ro, 0, .no⟩, ⟨"rider", 6, 6, .ro, 0, .no⟩, ⟨"dram_kept", 5, 5, .ro, 0, .no⟩]⟩,
  ⟨"CHP_FUSE", 0x100020000018, 8, 1, [⟨"sig_fuse", 63, 63, .ro, 0, .keep⟩, ⟨"variant", 61, 60, .ro, 0, .keep⟩, ⟨"cap_w", 47, 32, .ro, 0, .keep⟩, ⟨"vmax_mv", 31, 16, .ro, 0, .keep⟩]⟩,
  ⟨"CHP_SWEEP", 0x100020000020, 8, 1, [⟨"age_s", 63, 32, .ro, 4294967295, .no⟩, ⟨"quarantined", 31, 21, .ro, 0, .no⟩, ⟨"retired", 20, 10, .ro, 0, .no⟩]⟩,
  ⟨"TST_CHP_TALLY", 0x100020030000, 8, 1, [⟨"value", 63, 0, .ro, 0, .no⟩]⟩]

/-- Rows of the chip register maps, part 2. -/
def chipRows2 : List RegRow := [
  ⟨"TST_CHP_TALLY_AT", 0x100020030008, 8, 1, [⟨"value", 63, 0, .ro, 0, .no⟩]⟩,
  ⟨"TST_CHP_SWEEP", 0x100020030010, 8, 1, [⟨"coverage_bp", 63, 48, .ro, 0, .no⟩, ⟨"duration_ms", 47, 16, .ro, 0, .no⟩]⟩,
  ⟨"TST_CHP_PACK", 0x100020030018, 8, 1, [⟨"pack_version", 63, 0, .ro, 0, .keep⟩]⟩,
  ⟨"TST_CHP_PACK_STATUS", 0x100020030020, 8, 1, [⟨"last_result", 7, 0, .ro, 0, .no⟩]⟩,
  ⟨"TST_CHP_PREEMPT_AT", 0x100020030028, 8, 1, [⟨"stride", 63, 0, .rw, 0, .no⟩]⟩,
  ⟨"TST_CHP_SUSPECT", 0x100020030030, 8, 1, [⟨"valid", 63, 63, .w1c, 0, .keep⟩, ⟨"lasting", 62, 62, .ro, 0, .keep⟩, ⟨"unit", 61, 59, .ro, 0, .keep⟩, ⟨"lblock", 58, 48, .ro, 0, .keep⟩, ⟨"pblock", 47, 37, .ro, 0, .keep⟩]⟩,
  ⟨"TST_CHP_SUSPECT_FROM", 0x100020030038, 8, 1, [⟨"stride", 63, 0, .ro, 0, .keep⟩]⟩,
  ⟨"TST_CHP_SUSPECT_TO", 0x100020030040, 8, 1, [⟨"stride", 63, 0, .ro, 0, .keep⟩]⟩,
  ⟨"TST_CHP_TRANSIENT", 0x100020030048, 8, 1, [⟨"count", 63, 0, .cnt, 0, .keep⟩]⟩,
  ⟨"TST_CHP_LASTING", 0x100020030050, 8, 1, [⟨"count", 63, 0, .cnt, 0, .keep⟩]⟩,
  ⟨"CHP_RCV_STATUS", 0x100020040000, 8, 1, [⟨"step", 63, 60, .ro, 0, .no⟩, ⟨"kind", 59, 56, .ro, 0, .no⟩, ⟨"restarts", 55, 48, .ro, 0, .no⟩, ⟨"last_us", 47, 32, .ro, 0, .no⟩, ⟨"fenced", 31, 16, .ro, 0, .no⟩]⟩,
  ⟨"CHP_RCV_FAULT", 0x100020040008, 8, 1, [⟨"stride", 63, 0, .ro, 0, .no⟩]⟩]

/-- Rows of the chip register maps, part 3. -/
def chipRows3 : List RegRow := [
  ⟨"CHP_RCV_FROM", 0x100020040010, 8, 1, [⟨"stride", 63, 0, .ro, 0, .no⟩]⟩,
  ⟨"CHP_RCV_FLOOR", 0x100020040018, 8, 1, [⟨"stride", 63, 0, .ro, 0, .no⟩]⟩,
  ⟨"CHP_RCV_RELEASED", 0x100020040020, 8, 1, [⟨"stride", 63, 0, .ro, 0, .no⟩]⟩,
  ⟨"CHP_RCV_COUNT", 0x100020040028, 8, 1, [⟨"count", 63, 0, .cnt, 0, .no⟩]⟩,
  ⟨"CHP_SB_BASE", 0x100020040030, 8, 1, [⟨"addr", 47, 0, .ro, 0, .no⟩]⟩,
  ⟨"LSE_REQ", 0x100020050000, 8, 1, [⟨"go", 63, 63, .wo, 0, .no⟩, ⟨"op", 62, 61, .rw, 0, .no⟩, ⟨"nowait", 60, 60, .rw, 0, .no⟩, ⟨"activity", 59, 56, .rw, 0, .no⟩, ⟨"resource", 15, 0, .rw, 0, .no⟩]⟩,
  ⟨"LSE_STATUS", 0x100020050008, 8, 1, [⟨"state", 63, 62, .ro, 0, .no⟩, ⟨"result", 7, 0, .ro, 0, .no⟩]⟩,
  ⟨"LSE_HELD", 0x100020050010, 8, 1, [⟨"codes", 63, 52, .ro, 0, .no⟩]⟩,
  ⟨"LSE_WAITING", 0x100020050018, 8, 1, [⟨"codes", 63, 52, .ro, 0, .no⟩]⟩,
  ⟨"LSE_BUSY", 0x100020050020, 8, 1, [⟨"count", 63, 0, .cnt, 0, .no⟩]⟩,
  ⟨"LSE_ABANDONED", 0x100020050028, 8, 1, [⟨"count", 63, 0, .cnt, 0, .no⟩]⟩,
  ⟨"TWN_CTL", 0x100020060000, 8, 1, [⟨"go", 63, 63, .wo, 0, .no⟩, ⟨"op", 62, 60, .rw, 0, .no⟩, ⟨"role_pref", 57, 56, .rw, 0, .no⟩, ⟨"stamp_off", 15, 0, .rw, 0, .no⟩]⟩]

/-- Rows of the chip register maps, part 4. -/
def chipRows4 : List RegRow := [
  ⟨"TWN_CFG", 0x100020060008, 8, 1, [⟨"wait_ms", 63, 48, .rw, 10, .no⟩, ⟨"lead", 47, 40, .rw, 8, .no⟩, ⟨"copy_pct", 39, 32, .rw, 75, .no⟩]⟩,
  ⟨"TWN_STATUS", 0x100020060010, 8, 1, [⟨"detach_cause", 31, 24, .ro, 0, .no⟩, ⟨"result", 23, 16, .ro, 0, .no⟩, ⟨"checked", 10, 10, .ro, 0, .no⟩, ⟨"mode", 9, 8, .ro, 0, .no⟩, ⟨"role", 4, 3, .ro, 0, .no⟩, ⟨"state", 2, 0, .ro, 0, .no⟩]⟩,
  ⟨"TWN_PEER", 0x100020060018, 8, 1, [⟨"value", 63, 0, .ro, 0, .no⟩]⟩,
  ⟨"TWN_CMP", 0x100020060020, 8, 1, [⟨"value", 63, 0, .ro, 0, .no⟩]⟩,
  ⟨"TWN_DONE", 0x100020060028, 8, 1, [⟨"value", 63, 0, .ro, 0, .no⟩]⟩,
  ⟨"TWN_YOKE", 0x100020060030, 8, 1, [⟨"delay_ns", 31, 16, .ro, 0, .no⟩, ⟨"det", 5, 4, .ro, 0, .no⟩, ⟨"lost", 3, 2, .w1c, 0, .no⟩, ⟨"up", 1, 0, .ro, 0, .no⟩]⟩,
  ⟨"TWN_MISMATCH", 0x100020060038, 8, 1, [⟨"count", 63, 0, .cnt, 0, .no⟩]⟩,
  ⟨"TWN_FAILOVERS", 0x100020060040, 8, 1, [⟨"count", 63, 0, .cnt, 0, .no⟩]⟩,
  ⟨"TWN_DETACHES", 0x100020060048, 8, 1, [⟨"count", 63, 0, .cnt, 0, .no⟩]⟩,
  ⟨"CMD_RING_CTL", 0x100020070000, 64, 4, [⟨"enable", 63, 63, .rw, 0, .no⟩, ⟨"step", 62, 62, .rw, 0, .no⟩, ⟨"gap", 61, 61, .ro, 0, .no⟩, ⟨"dups", 58, 56, .cnt, 0, .no⟩, ⟨"lg_size", 55, 52, .rw, 0, .no⟩, ⟨"base", 42, 0, .rw, 0, .no⟩]⟩,
  ⟨"CMD_RING_HEAD", 0x100020070008, 64, 4, [⟨"index", 15, 0, .rw, 0, .no⟩]⟩,
  ⟨"CMD_RING_TAIL", 0x100020070010, 64, 4, [⟨"index", 15, 0, .ro, 0, .no⟩]⟩]

/-- Rows of the chip register maps, part 5. -/
def chipRows5 : List RegRow := [
  ⟨"CMD_LAST_ACCEPTED", 0x100020070018, 64, 4, [⟨"seq", 31, 0, .ro, 0, .no⟩]⟩,
  ⟨"CMD_LAST_DONE", 0x100020070020, 64, 4, [⟨"seq", 31, 0, .ro, 0, .no⟩]⟩,
  ⟨"CMD_STEP", 0x100020070028, 64, 4, [⟨"go", 63, 63, .wo, 0, .no⟩]⟩,
  ⟨"CMD_CPL_CTL", 0x100020070100, 8, 1, [⟨"enable", 63, 63, .rw, 0, .no⟩, ⟨"lg_size", 55, 52, .rw, 0, .no⟩, ⟨"base", 42, 0, .rw, 0, .no⟩]⟩,
  ⟨"CMD_CPL_HEAD", 0x100020070108, 8, 1, [⟨"index", 15, 0, .ro, 0, .no⟩]⟩,
  ⟨"CMD_CPL_TAIL", 0x100020070110, 8, 1, [⟨"index", 15, 0, .rw, 0, .no⟩]⟩,
  ⟨"CMD_CPL_SEQ", 0x100020070118, 8, 1, [⟨"seq", 63, 0, .ro, 0, .no⟩]⟩,
  ⟨"CMD_EVT_CTL", 0x100020070140, 8, 1, [⟨"enable", 63, 63, .rw, 0, .no⟩, ⟨"lg_size", 55, 52, .rw, 0, .no⟩, ⟨"base", 42, 0, .rw, 0, .no⟩]⟩,
  ⟨"CMD_EVT_HEAD", 0x100020070148, 8, 1, [⟨"index", 15, 0, .ro, 0, .no⟩]⟩,
  ⟨"CMD_EVT_TAIL", 0x100020070150, 8, 1, [⟨"index", 15, 0, .rw, 0, .no⟩]⟩,
  ⟨"CMD_EVT_SEQ", 0x100020070158, 8, 1, [⟨"seq", 63, 0, .ro, 0, .no⟩]⟩,
  ⟨"CMD_EVT_DROPPED", 0x100020070160, 8, 1, [⟨"count", 63, 0, .cnt, 0, .no⟩]⟩]

/-- Rows of the chip register maps, part 6. -/
def chipRows6 : List RegRow := [
  ⟨"CMD_QUERY", 0x100020070180, 8, 1, [⟨"go", 63, 63, .wo, 0, .no⟩, ⟨"ring", 33, 32, .rw, 0, .no⟩, ⟨"seq", 31, 0, .rw, 0, .no⟩]⟩,
  ⟨"CMD_QUERY_RESULT", 0x100020070188, 8, 1, [⟨"state", 63, 62, .ro, 0, .no⟩, ⟨"status", 55, 48, .ro, 0, .no⟩, ⟨"cpl_seq", 47, 0, .ro, 0, .no⟩]⟩,
  ⟨"CMD_JOB", 0x1000200701C0, 8, 1, [⟨"state", 63, 62, .ro, 0, .no⟩, ⟨"ring", 33, 32, .ro, 0, .no⟩, ⟨"seq", 31, 0, .ro, 0, .no⟩]⟩,
  ⟨"CMD_HEARTBEAT", 0x1000200701C8, 8, 1, [⟨"beat", 63, 0, .rw, 0, .no⟩]⟩,
  ⟨"CMD_NODE", 0x1000200701D0, 8, 1, [⟨"node", 15, 0, .rwl, 0, .no⟩]⟩,
  ⟨"CMD_TRACE_CTL", 0x100020070400, 64, 8, [⟨"enable", 63, 63, .rw, 0, .no⟩, ⟨"mode", 62, 62, .rw, 0, .no⟩, ⟨"mode_refused", 61, 61, .w1c, 0, .no⟩, ⟨"lg_size", 55, 52, .rw, 0, .no⟩, ⟨"rx_base", 42, 0, .rw, 0, .no⟩]⟩,
  ⟨"CMD_TRACE_RXHEAD", 0x100020070408, 64, 8, [⟨"index", 15, 0, .ro, 0, .no⟩]⟩,
  ⟨"CMD_TRACE_RXTAIL", 0x100020070410, 64, 8, [⟨"index", 15, 0, .rw, 0, .no⟩]⟩,
  ⟨"CMD_TRACE_TX", 0x100020070418, 64, 8, [⟨"enable", 63, 63, .rw, 0, .no⟩, ⟨"lg_size", 55, 52, .rw, 0, .no⟩, ⟨"base", 42, 0, .rw, 0, .no⟩]⟩,
  ⟨"CMD_TRACE_TXHEAD", 0x100020070420, 64, 8, [⟨"index", 15, 0, .rw, 0, .no⟩]⟩,
  ⟨"CMD_TRACE_TXTAIL", 0x100020070428, 64, 8, [⟨"index", 15, 0, .ro, 0, .no⟩]⟩,
  ⟨"CMD_TRACE_TPL", 0x100020070430, 64, 8, [⟨"addr", 42, 0, .rw, 0, .no⟩]⟩]

/-- Rows of the chip register maps, part 7. -/
def chipRows7 : List RegRow := [
  ⟨"CMD_TRACE_DROP", 0x100020070438, 64, 8, [⟨"count", 63, 0, .cnt, 0, .no⟩]⟩,
  ⟨"FAR_MBX_CMD", 0x100030000000, 8, 1, [⟨"go", 63, 63, .wo, 0, .no⟩, ⟨"op", 62, 59, .rw, 0, .no⟩]⟩,
  ⟨"FAR_MBX_ARG", 0x100030000008, 8, 1, [⟨"arg", 63, 0, .rw, 0, .no⟩]⟩,
  ⟨"FAR_MBX_STATUS", 0x100030000010, 8, 1, [⟨"busy", 8, 8, .ro, 0, .no⟩, ⟨"result", 7, 0, .ro, 0, .no⟩]⟩,
  ⟨"FAR_LOG_NEWEST", 0x100030000018, 8, 1, [⟨"seq", 63, 0, .ro, 0, .keep⟩]⟩,
  ⟨"FAR_LOG_OLDEST", 0x100030000020, 8, 1, [⟨"seq", 63, 0, .ro, 0, .keep⟩]⟩,
  ⟨"FAR_PWR", 0x100030000028, 8, 1, [⟨"input_w", 63, 48, .ro, 0, .no⟩, ⟨"mean_w", 47, 32, .ro, 0, .no⟩, ⟨"cap_w", 31, 16, .ro, 0, .keep⟩, ⟨"up_count", 3, 1, .ro, 0, .no⟩, ⟨"unmet", 0, 0, .ro, 0, .no⟩]⟩,
  ⟨"FAR_PWR_CFG", 0x100030000030, 8, 1, [⟨"rider_cap_w", 63, 48, .rw, 0, .no⟩, ⟨"vmin_mv", 31, 16, .rw, 680, .no⟩]⟩,
  ⟨"FAR_SENS_SEL", 0x100030000038, 8, 1, [⟨"index", 7, 0, .rw, 0, .no⟩]⟩,
  ⟨"FAR_SENS_DATA", 0x100030000040, 8, 1, [⟨"valid", 63, 63, .ro, 0, .no⟩, ⟨"age_us", 62, 32, .ro, 0, .no⟩, ⟨"value", 31, 0, .ro, 0, .no⟩]⟩,
  ⟨"FAR_LMS", 0x100030000048, 8, 1, [⟨"q", 63, 33, .ro, 0, .keep⟩, ⟨"left", 32, 20, .ro, 0, .keep⟩, ⟨"fuses", 19, 9, .ro, 0, .keep⟩, ⟨"exhausted", 0, 0, .ro, 0, .keep⟩]⟩,
  ⟨"FAR_SCAN", 0x100030000050, 8, 1, [⟨"scrubbed", 1, 1, .ro, 0, .keep⟩, ⟨"open", 0, 0, .ro, 0, .keep⟩]⟩]

/-- Rows of the chip register maps, part 8. -/
def chipRows8 : List RegRow := [
  ⟨"FAR_MBX_BUF", 0x100030000100, 8, 8, [⟨"data", 63, 0, .ro, 0, .no⟩]⟩,
  ⟨"CHP_RST", 0x100020080000, 8, 1, [⟨"go", 63, 63, .wo, 0, .no⟩, ⟨"op", 62, 60, .rw, 0, .no⟩, ⟨"result", 59, 56, .ro, 0, .no⟩, ⟨"target", 10, 0, .rw, 0, .no⟩]⟩,
  ⟨"CHP_ESC", 0x100020080008, 8, 1, [⟨"blk_window_s", 63, 48, .rw, 60, .keep⟩, ⟨"rgn_window_s", 47, 32, .rw, 600, .keep⟩, ⟨"chip_window_s", 31, 16, .rw, 600, .keep⟩, ⟨"blk_count", 15, 11, .rw, 8, .keep⟩, ⟨"rgn_count", 10, 6, .rw, 3, .keep⟩, ⟨"chip_count", 5, 1, .rw, 2, .keep⟩]⟩,
  ⟨"CHP_ESC_STATUS", 0x100020080010, 8, 1, [⟨"last", 63, 56, .ro, 0, .keep⟩, ⟨"place", 55, 45, .ro, 0, .keep⟩, ⟨"chip_resets", 39, 32, .ro, 0, .keep⟩]⟩,
  ⟨"CHP_COLLECT", 0x100020080018, 8, 1, [⟨"enable", 63, 63, .rw, 1, .no⟩, ⟨"max_blocks", 55, 48, .rw, 64, .no⟩, ⟨"handle", 37, 32, .rw, 0, .no⟩, ⟨"offset_64k", 31, 16, .rw, 0, .no⟩, ⟨"last_blocks", 7, 0, .ro, 0, .no⟩]⟩,
  ⟨"FAR_SMP_SEL", 0x100030000200, 8, 1, [⟨"coll", 9, 8, .rw, 0, .no⟩, ⟨"index", 5, 0, .rw, 0, .no⟩]⟩,
  ⟨"FAR_SMP_INFO", 0x100030000208, 8, 1, [⟨"valid", 63, 63, .ro, 0, .no⟩, ⟨"missing", 62, 62, .ro, 0, .no⟩, ⟨"pblock", 61, 51, .ro, 0, .no⟩, ⟨"lblock", 50, 40, .ro, 0, .no⟩, ⟨"kind", 39, 36, .ro, 0, .no⟩, ⟨"bytes", 16, 0, .ro, 0, .no⟩]⟩]

/-- Every register of the chip windows. -/
def chipRows : List RegRow := chipRows0 ++ chipRows1 ++ chipRows2 ++ chipRows3 ++ chipRows4 ++ chipRows5 ++ chipRows6 ++ chipRows7 ++ chipRows8

/-- Rows of the mgr register maps, part 0. -/
def mgrRows0 : List RegRow := [
  ⟨"MGR_CTL", 0x100020100000, 8, 1, [⟨"scrub_period", 47, 32, .rw, 3600, .no⟩, ⟨"scrub_en", 0, 0, .rw, 1, .no⟩]⟩,
  ⟨"MGR_STATUS", 0x100020100008, 8, 1, [⟨"fenced", 63, 32, .ro, 0, .no⟩, ⟨"temp", 31, 24, .ro, 0, .no⟩, ⟨"refresh", 17, 16, .ro, 0, .no⟩, ⟨"passes", 15, 0, .cnt, 0, .no⟩]⟩,
  ⟨"MGR_ERR_ADDR", 0x100020100010, 8, 1, [⟨"valid", 63, 63, .w1c, 0, .no⟩, ⟨"kind", 62, 61, .ro, 0, .no⟩, ⟨"addr", 47, 0, .ro, 0, .no⟩]⟩,
  ⟨"MGR_ECC_CE", 0x100020100018, 8, 1, [⟨"count", 63, 0, .cnt, 0, .no⟩]⟩,
  ⟨"MGR_ECC_UE", 0x100020100020, 8, 1, [⟨"count", 63, 0, .cnt, 0, .no⟩]⟩,
  ⟨"MGR_SIGMISS", 0x100020100028, 8, 1, [⟨"count", 63, 0, .cnt, 0, .no⟩]⟩,
  ⟨"MGR_CALLS", 0x100020100030, 8, 1, [⟨"count", 63, 0, .cnt, 0, .no⟩]⟩,
  ⟨"MGR_STEPS", 0x100020100038, 8, 1, [⟨"count", 63, 0, .cnt, 0, .no⟩]⟩,
  ⟨"MGR_SIG_RANGE", 0x100020100100, 16, 16, [⟨"enable", 63, 63, .rw, 0, .no⟩, ⟨"signed", 62, 62, .ro, 0, .no⟩, ⟨"units", 61, 36, .rw, 0, .no⟩, ⟨"base", 35, 10, .rw, 0, .no⟩]⟩,
  ⟨"MGR_SIG_TABLE", 0x100020100108, 16, 16, [⟨"addr", 35, 0, .rw, 0, .no⟩]⟩]

/-- Every register of the mgr windows. -/
def mgrRows : List RegRow := mgrRows0

/-- Rows of the ddr register maps, part 0. -/
def ddrRows0 : List RegRow := [
  ⟨"DDR_STATUS", 0x100020200000, 8, 1, [⟨"capacity", 63, 48, .ro, 0, .no⟩, ⟨"temp", 47, 40, .ro, 0, .no⟩, ⟨"refresh", 3, 2, .ro, 0, .no⟩, ⟨"trained", 1, 1, .ro, 0, .no⟩, ⟨"present", 0, 0, .ro, 0, .no⟩]⟩,
  ⟨"DDR_ERR_ADDR", 0x100020200008, 8, 1, [⟨"valid", 63, 63, .w1c, 0, .no⟩, ⟨"kind", 62, 61, .ro, 0, .no⟩, ⟨"addr", 47, 0, .ro, 0, .no⟩]⟩,
  ⟨"DDR_ECC_CE", 0x100020200010, 8, 1, [⟨"count", 63, 0, .cnt, 0, .no⟩]⟩,
  ⟨"DDR_ECC_UE", 0x100020200018, 8, 1, [⟨"count", 63, 0, .cnt, 0, .no⟩]⟩]

/-- Every register of the ddr windows. -/
def ddrRows : List RegRow := ddrRows0

/-- Whether a register row holds place `a`. -/
def RegRow.holds (r : RegRow) (a : Nat) : Bool :=
  decide (r.off ≤ a) && (a - r.off) % r.step == 0 && decide ((a - r.off) / r.step < r.count)

/-- The row of place `a`, where one lists it. -/
def findRow (rows : List RegRow) (a : Nat) : Option RegRow := rows.find? (·.holds a)

/-- The word of the Reset column. -/
def RegRow.reset (r : RegRow) : Word := r.fields.foldl (fun w f => putBits w f.hi f.lo f.rst) 0

/-- The mask of the fields that a reset keeps. -/
def RegRow.keepMask (r : RegRow) : Word :=
  r.fields.foldl (fun w f => if f.keep = .keep then w ||| maskOf f.hi f.lo else w) 0

/-- The mask of the fields that come from the image. -/
def RegRow.imageMask (r : RegRow) : Word :=
  r.fields.foldl (fun w f => if f.keep = .image then w ||| maskOf f.hi f.lo else w) 0

/-- The reset word of a place among rows; a place of no row holds zero. -/
def rowReset (rows : List RegRow) (a : Nat) : Word :=
  match findRow rows a with
  | some r => r.reset
  | none => 0

/-- The reset word of a place in a block window. -/
def blkReset (a : Nat) : Word := rowReset blkRows a

/-- The reset word of a place in a region window; RGN_RMT entries come from the remount table, not from here. -/
def rgnReset (a : Nat) : Word := rowReset rgnRows a

/-- The row of a Rider physical address in chip steward space or the Farrier mailbox. A stack's or channel's register
is found at the first instance's address. -/
def chipRow (a : Nat) : Option RegRow :=
  if 0x100020100000 ≤ a ∧ a < 0x100020180000 then findRow mgrRows (0x100020100000 + a % 0x10000)
  else if 0x100020200000 ≤ a ∧ a < 0x100020200C00 then findRow ddrRows (0x100020200000 + a % 0x100)
  else findRow chipRows a

/-- The reset word of an address in chip steward space or the Farrier mailbox. -/
def chipReset (a : Nat) : Word :=
  match chipRow a with
  | some r => r.reset
  | none => 0

/-- A write under the access codes of R6 and R7; `lock` says that the lock of rwl fields is engaged. -/
def FieldRow.write (lock : Bool) (old new : Word) (w : Word) (f : FieldRow) : Word :=
  match f.acc with
  | .ro => w
  | .wo => putBits w f.hi f.lo 0
  | .rw => putBits w f.hi f.lo (bitsOf new f.hi f.lo)
  | .w1c => putBits w f.hi f.lo (bitsOf (old &&& ~~~ new) f.hi f.lo)
  | .rwl => if lock then w else putBits w f.hi f.lo (bitsOf new f.hi f.lo)
  | .cnt => if bitsOf new f.hi f.lo = 0 then putBits w f.hi f.lo 0 else w

/-- The word a register holds after a write of `new` over `old`. -/
def RegRow.write (r : RegRow) (lock : Bool) (old new : Word) : Word :=
  r.fields.foldl (FieldRow.write lock old new) old

/-- A reset of a register file that spares the fields `mask` names and sets every other field to the Reset column. -/
def Regs.resetKeeping (d : Nat → Word) (mask : Nat → Word) : Regs → Regs
  | [] => []
  | (a, v) :: m =>
    let w := (v &&& mask a) ||| (d a &&& ~~~ mask a)
    if w = d a then Regs.resetKeeping d mask m else (a, w) :: Regs.resetKeeping d mask m

/-- The value of a field. -/
def Regs.get (d : Nat → Word) (m : Regs) (f : Fld) : Nat := bitsOf (mget d m f.off) f.hi f.lo

/-- Set a field. -/
def Regs.set (d : Nat → Word) (m : Regs) (f : Fld) (v : Nat) : Regs :=
  mset d m f.off (putBits (mget d m f.off) f.hi f.lo v)

end Sys2Proof.Machine
end

