-- ==== Sys2Proof/Machine/Block.lean ====
section
/-! DEFINITION. The parts of a block, its mesh attachment and its router, as plain data (R10, R65, R121, R147 to R169,
R181 to R207, R432). -/

namespace Sys2Proof.Machine

/-- An event record as its sender fills it (R432, R433). -/
structure Ev where
  level : Nat := 0
  place : Nat := 0
  cell : Nat := 0
  code : Nat
  op : Nat := 0
  tag : Nat := 0
  attempt : Nat := 0
  outcome : Nat := 4
  lblock : Nat := 0x7FF
  detail : Nat := 0
  detail2 : Nat := 0
  stride : Nat := 0
  beatNs : Nat := 0
  subNs : Nat := 0
  temp : Nat := 0
  mv : Nat := 0
deriving DecidableEq, Repr

/-- A packet (R181, R182). `targets` is the set of physical blocks that the extension flits name, bit 80r + b for
block b of region r (R184); `member` says that a unicast packet is a group member's copy (R197, R223; DESIGN CHOICE, log entry 21). -/
structure Pkt where
  kind : Nat
  rop : Nat := 0
  cmark : Bool := false
  mcast : Bool := false
  vc : Nat := 0
  epoch : Nat := 0
  isData : Bool := false
  path : Nat := 0
  seq : Nat := 0
  tag : Nat := 0
  src : Nat := 0
  dest : Nat := 0
  srcidx : Nat := 0
  parts : Nat := 0
  rmask : Nat := 0
  incarn : Nat := 0
  qid : Nat := 0
  length : Nat := 0
  addr : Nat := 0
  targets : Nat := 0
  member : Bool := false
  payload : List Byte := []
deriving DecidableEq, Repr

/-- Packet kinds (R181). -/
def kTOKEN : Nat := 0
def kMESSAGE : Nat := 1
def kWINDOW_WRITE : Nat := 2
def kREDUCE : Nat := 3
def kMEM_READ : Nat := 4
def kMEM_WRITE : Nat := 5
def kMGR_CALL : Nat := 6
def kCREDIT : Nat := 7
def kACK : Nat := 8
def kMEM_REPLY : Nat := 9
def kMGR_RESULT : Nat := 10

/-- Whether packets of a kind are sequenced (R181). -/
def kindSequenced (k : Nat) : Bool := k ≤ 6 && k != 3

/-- Who waits for the answer to a packet: nobody, an outbox slot, a memory request, or an ADMIT of Dispatch. -/
inductive Owner where
  | none
  | outbox (thread slot : Nat)
  | mem (id : Nat)
  | admission (ring seq : Nat)
deriving DecidableEq, Repr

/-- What the router's acceptance of a packet lets go of its sender (R65, R161, R169): nothing; the stride program, which completes after
it; the queue entries of a steer point's firing, which the fire list may name; or a combining-queue slot. -/
inductive Origin where
  | other
  | engine
  | entries (held : List (Nat × Nat)) (listed : Bool)
  | cqSlot (cq slot : Nat)
deriving DecidableEq, Repr

/-- A packet a source holds: waiting to be injected, or in its resend store (R192). `idx` is the route index, or the group of a
multicast packet; `id` its number in the store, 0 before it is there; `tries` its timeouts; `done` the members of a multicast that have
acknowledged; `part` the multicast that a member's unicast copy belongs to (R205). -/
structure Held where
  pkt : Pkt
  idx : Nat
  owner : Owner := .none
  origin : Origin := .other
  id : Nat := 0
  sentAt : Nat := 0
  tries : Nat := 0
  waitFlip : Bool := false
  failed : Bool := false
  injected : Bool := false
  done : Nat := 0
  part : Nat := 0
deriving DecidableEq, Repr

/-- An acknowledgement a receiver owes (R191, R215), in the order of acceptance; `ready` once the packet has been answered: nothing that
covers it leaves before. -/
structure AckOwed where
  peer : Nat
  peerIdx : Nat
  vc : Nat
  seq : Nat
  ready : Bool := true
  status : Nat := 0
  nack : Bool := false
  mcast : Bool := false
  moved : Bool := false
  byte2 : Nat := 0
  since : Nat := 0
deriving DecidableEq, Repr

/-- A sender and receiver of packets: a block's local port or an edge endpoint. `ackNext` is one more than the last sequence number
acknowledged on a stream, `refusals` what a stream's packets were refused with, and `echoes` the senders, with their route indices, whose
congestion marks are still to be echoed (R201). -/
structure MeshUnit where
  sendq : List Held := []
  resend : List Held := []
  nextId : Nat := 1
  txSeq : Cells Nat := []
  rxSeq : Cells Nat := []
  rxMulti : Cells (List Nat) := []
  mcSeq : Nat := 0
  arrived : List Pkt := []
  inbox : List Pkt := []
  acks : List AckOwed := []
  ackNext : Cells Nat := []
  refusals : List (Nat × Nat × Nat × Nat) := []
  echoes : List (Nat × Nat) := []
  acksIn : List Pkt := []
  allowance : Nat := 1216
  allowAt : Nat := 0
  echoSeen : Bool := false
deriving DecidableEq, Repr

/-- A packet in a router's input buffer; `got` of its flits have been received, and a scheduled multicast copy has left on `gone`. -/
structure InBuf where
  port : Nat
  vc : Nat
  pkt : Pkt
  got : Nat := 0
  refused : Bool := false
  gone : List Nat := []
deriving DecidableEq, Repr

/-- A merge-buffer entry (R206, R207): the first packet, the output it leaves on, and how many packets met; a scheduled
entry leaves at `want` packets. -/
structure MergeEntry where
  pkt : Pkt
  out : Nat
  have_ : Nat := 1
  want : Nat := 0
deriving DecidableEq, Repr

/-- A stored multicast copy with the outputs it has still to leave on (R204). -/
structure ReplEntry where
  pkt : Pkt
  outs : List Nat
deriving DecidableEq, Repr

/-- A gait-table entry (R277). -/
structure GaitEntry where
  tag : Nat
  count : Nat
  inp : Nat
  out : Nat
  merge : Bool
  vc : Nat
deriving DecidableEq, Repr

/-- A block's router. `gaitPos` is the entry being served and `gaitGot` its flits served; `retry` the last 4 flits sent on each
output (R178); `turn` the port whose turn it is for unscheduled traffic;
`failEpoch` the epoch at the failure of a router in straight bypass, 2 once no packet routed before it can remain (R197). -/
structure Router where
  buf : List InBuf := []
  merge : List MergeEntry := []
  repl : List ReplEntry := []
  gait : List GaitEntry := []
  gaitPos : Nat := 0
  gaitGot : Nat := 0
  retry : Cells (List (List Byte)) := []
  turn : Nat := 0
  failEpoch : Nat := 2
  deadLinks : List Nat := []
  fault66 : List (Nat × Nat × Nat × Nat × Nat) := []
deriving DecidableEq, Repr

/-- A weight tile as loaded (R61 to R63): its tile bytes and its metadata bytes. -/
structure Tile where
  fmt : Fmt
  sparse : Bool
  trans : Bool
  data : List Byte
  metadata : List Byte
deriving DecidableEq, Repr

/-- The waves at which the engine's resources become free (R66), counted from the start of the stride program; `flush` is when the
lattice is flushed, 2 waves after the last STREAM ended. -/
structure Sched where
  next : Nat := 0
  load : Nat := 0
  lattice : Nat := 0
  flush : Nat := 0
  edge : Nat := 0
  send : Nat := 0
  tally : Nat := 0
  copy : Nat := 0
  shadow : Nat := 0
  stop : Nat := 0
deriving DecidableEq, Repr

/-- The draught engine (R57 to R67): `next` is the word to start next, slot s of accumulator n is entry 64s + n. -/
structure Engine where
  next : Nat := 0
  active : Option Tile := none
  shadow : Option Tile := none
  slots : Cells Ap := []
  anchors : Cells (BitVec 16) := []
  preds : BitVec 4 := 0
  sched : Sched := {}
deriving DecidableEq, Repr

/-- An empty slot for every key. -/
def apZero : Nat → Ap := fun _ => Ap.zero

/-- Anchor 0 for every column (R65). -/
def anchorZero : Nat → BitVec 16 := fun _ => 0

/-- A slot of an outbox (R125, R214, R222): state 0 free, 1 offered, 2 waiting to offer again, 3 balked; `patience` in ns is that of
the offer cycle's first offer. -/
structure OutSlot where
  st : Nat := 0
  status : Nat := 0
  dst : Word := 0
  srcw : Word := 0
  imm : Nat := 0
  rd : Nat := 0
  start : Nat := 0
  offers : Nat := 0
  due : Nat := 0
  peer : Nat := 0
  refused : Nat := 0
  mutualBalk : Bool := false
  patience : Nat := 0
deriving DecidableEq, Repr

/-- What a waiting thread waits for; a handle load for the answers to its line requests, with the bytes that have come. -/
inductive Wait where
  | none
  | recv (queue tag : Nat) (matchTag : Bool) (dst rd : Nat)
  | send (slot : Nat)
  | credit (arc : Nat)
  | handle (ids : List Nat) (rd : Nat) (size : GSize) (got : List Byte)
  | fence (imm : Nat)
  | ending
deriving DecidableEq, Repr

/-- A groom thread (R121). `free` names the free values that unwritten registers hold; `state` is coded as in
BLK_GRM_STATE. -/
structure Thread where
  state : Nat := 0
  pc : Nat := 0
  task : Nat := 0
  node : Nat := 0
  tag : Nat := 0
  stride : Word := 0
  listed : Bool := true
  g : Cells Word := []
  v : Cells (BitVec 128) := []
  free : Nat := 0
  fcsr : BitVec 8 := 0
  outbox : Cells OutSlot := []
  wait : Wait := .none
  tallies : Nat := 0
  held : List (Nat × Nat) := []
  stores : List Nat := []
  posted : List Nat := []
deriving DecidableEq, Repr

/-- An idle thread. -/
def threadIdle : Nat → Thread := fun _ => {}

/-- A free outbox slot. -/
def slotFree : Nat → OutSlot := fun _ => {}

/-- A gatherer entry (R129, R173): bank, line, data, byte mask, thread mask. Entries stand oldest first. -/
structure GEntry where
  bank : Nat
  line : Nat
  data : List Byte
  mask : List Bool
  threads : Nat
deriving DecidableEq, Repr

/-- A task record (R272). -/
structure TaskRec where
  valid : Bool
  entry : Nat
  groom : Nat
  vals : List Word
deriving DecidableEq, Repr

/-- A node record (R272). -/
structure NodeRec where
  kind : Nat
  inputs : Nat
  quota : Nat
  ref : Nat
  mode : Nat
  srcIndex : Nat
  dstIndex : Nat
deriving DecidableEq, Repr

/-- An arc record (R274); `members` are the logical blocks of a multicast arc's group. -/
structure ArcRec where
  outbound : Bool
  vc : Nat
  mcast : Bool
  manger : Bool
  producer : Nat
  dest : Nat
  queue : Nat
  output : Nat
  share : Nat
  match_ : Nat
  members : List Nat := []
deriving DecidableEq, Repr

/-- An occupied queue entry (R149, R174). `arc` is the inbound arc record its credit returns through; `matched` says that a context
holds it, `taken` that a firing that has started does. -/
structure QEntry where
  q : Nat
  e : Nat
  tag : Nat
  isData : Bool
  lines : Nat
  src : Nat
  bytes : List Byte
  arc : Option Nat
  matched : Bool
  taken : Bool := false
deriving DecidableEq, Repr

/-- A tag context or match entry (R150, R160): which inputs of `node` hold a token of `tag`. -/
structure Ctx where
  index : Nat
  node : Nat
  tag : Nat
  inputs : Nat
  steer : Bool
  reserved : Bool
deriving DecidableEq, Repr

/-- An open combining-queue slot (R167, R174); `sent` once its sum waits for the router (R169). -/
structure CqSlot where
  cq : Nat
  slot : Nat
  key : Nat
  count : Nat
  sent : Bool := false
deriving DecidableEq, Repr

/-- A Packhorse descriptor (R141). -/
structure Desc where
  ctl : Nat
  src : Nat
  dst : Nat
  rows : Nat
  srcOff : Nat
  dstOff : Nat
  rowBytes : Nat
  srcStep : Nat
  dstStep : Nat
  cq : Nat
  tag : Nat
  pattern : Nat
  reservedZero : Bool
deriving DecidableEq, Repr

/-- A Packhorse descriptor waiting or in progress (R140, R144): from a ring index or from a firing. `rowsLeft` counts the
calls of a call descriptor that are still to be sent (R248); `row` is the next call's as it comes from a remote source, and `rowIds`
the reads that are still out. -/
structure PJob where
  fromRing : Bool
  index : Nat
  desc : Desc
  node : Nat := 0
  tag : Nat := 0
  stride : Nat := 0
  held : List (Nat × Nat) := []
  started : Bool := false
  stopped : Bool := false
  status : Nat := 0
  done : Nat := 0
  bytes : Nat := 0
  rowsLeft : Nat := 0
  pendingIds : List Nat := []
  row : List Byte := []
  rowIds : List Nat := []
  asked : Bool := false
deriving DecidableEq, Repr

/-- What a memory request of a block is for: the bytes from `pos` of a groom load, `len` bytes from `off` of a line; a groom store;
a line of an accepted window write; bytes that a descriptor reads from or writes to a remote node, or that a call's row is made of; or
a manger call. -/
inductive ReqUse where
  | load (thread pos off len : Nat)
  | store (thread : Nat)
  | window (handle src vc seq : Nat)
  | copyRead (index : Nat) (ring : Bool) (dstHandle dstOff skip len : Nat)
  | copyWrite (index : Nat) (ring : Bool)
  | callRead (index : Nat) (ring : Bool) (pos skip len : Nat)
  | call (index : Nat) (ring : Bool)
deriving DecidableEq, Repr

/-- A memory request awaiting its MEM_REPLY. -/
structure MemReq where
  id : Nat
  use : ReqUse
deriving DecidableEq, Repr

/-- A steer point's firing that has started and waits for its output credit (R156, R161): its node and tag, the input that it writes
out, the entries that it holds, how many tokens it discards, and whether the fire list named it. -/
structure ReinJob where
  node : Nat
  tag : Nat
  sel : QEntry
  held : List (Nat × Nat)
  disc : Nat
  listed : Bool
deriving DecidableEq, Repr

/-- A block (R10) with its router and its steward. -/
structure Block where
  regs : Regs := []
  spad : Memory := []
  -- steward (R33, R35, R435)
  lblock : Nat := 0x7FF
  stride : Word := 0
  beatAt : Nat := 0
  working : Bool := false
  waitQuiet : Bool := false
  extended : Bool := false
  fenced : Bool := false
  fenceCode : Nat := 0
  progressAt : Nat := 0
  tally : Word := 0
  freeTally : Word := 0
  tallies : Cells Word := []
  ev : List Ev := []
  coalesced : Cells Nat := []
  firstSlack : Bool := false
  -- draught engine
  program : List Word := []
  eng : Engine := {}
  -- grooms, gatherers, Packhorse
  code : List (BitVec 32) := []
  tasks : List TaskRec := []
  threads : Cells Thread := []
  turns : Cells Nat := []
  gather : List GEntry := []
  jobs : List PJob := []
  posted : Nat := 0
  reqs : List MemReq := []
  nextReq : Nat := 0
  -- dataflow
  nodes : List NodeRec := []
  fireList : List (Nat × Nat) := []
  flPos : Nat := 0
  flDone : List Nat := []
  arcs : List ArcRec := []
  templates : List Desc := []
  queue : List QEntry := []
  ctxs : List Ctx := []
  cqs : List CqSlot := []
  spent : Cells Nat := []
  returned : Cells Nat := []
  bases : Cells Nat := []
  totals : Cells Nat := []
  waits : List (Nat × Nat) := []
  closeAt : Cells Nat := []
  reinJob : Option ReinJob := none
  jobFault : Option (Nat × Nat) := none
  portSchedule : List Byte := []
  -- mesh
  mesh : MeshUnit := {}
  router : Router := {}
  -- screening, scan, traces
  passTimes : Cells Nat := []
  slice : Option (Nat × Nat × Bool) := none
  diag : List (Nat × Bool × Word) := []
  trace : List (Nat × Nat) := []
  resets : List Nat := []
  scan : Option (Nat × Nat) := none
  saddle : Option (Nat × List Byte) := none
  owes : Bool := false
  replayIdle : Bool := false
  recordBad : Option Nat := none
  sliceSpoilt : Bool := false
deriving DecidableEq, Repr

/-- A block that nothing has touched since reset. -/
def blockInit : Nat → Block := fun _ => {}

/-- What a block's steps read of the rest of the module; `mv` is its region's voltage, and `join` says of an arc whether its destination queue feeds a join (R165). -/
structure Env where
  p : Nat := 0
  now : Nat := 0
  seeds : Word × Word × Word × Word := (0, 0, 0, 0)
  holding : Bool := false
  free : Nat := 0
  mv : Nat := 800
  join : ArcRec → Bool := fun _ => false

/-- The register word at an offset of the block window. -/
def Block.word (b : Block) (off : Nat) : Word := mget blkReset b.regs off

/-- A register field. -/
def Block.get (b : Block) (f : Fld) : Nat := b.regs.get blkReset f

/-- Set a register field. -/
def Block.set (b : Block) (f : Fld) (v : Nat) : Block := { b with regs := b.regs.set blkReset f v }

/-- Add to a counter field, which stops at its maximum (R6). -/
def Block.count (b : Block) (f : Fld) (n : Nat) : Block := b.set f (min f.top (b.get f + n))

/-- The next value of a field that counts round: a generation or an incarnation (R137, R219). -/
def Block.bump (b : Block) (f : Fld) : Block := b.set f (b.get f + 1)

/-- The block counter `i` (R446), where it has no other register. -/
def Block.cnt (b : Block) (i n : Nat) : Block := b.count (BLK_CNT.count i) n

/-- Whether an event's outcome is corrected. -/
def Ev.corrected (e : Ev) : Bool := e.outcome == 0

/-- Whether the block steward must withhold its acknowledgement: every reserved entry is full (R412). -/
def Block.halterFull (b : Block) : Bool := decide (16 ≤ b.ev.length)

/-- The block steward records an event (R412, R432): it fills place, stride, logical block and the time since the beat.
A corrected record that finds only the reserved entries free is counted instead. -/
def Block.note (b : Block) (env : Env) (e : Ev) : Block :=
  let e := { e with level := 0, place := env.p, lblock := b.lblock, stride := b.stride.toNat, beatNs := b.beatAt,
                    subNs := min (env.now - b.beatAt) 0xFFFFFFFF }
  if e.corrected && decide (12 ≤ b.ev.length) then
    let k := e.cell * 256 + e.code
    (({ b with coalesced := mset (fun _ => 0) b.coalesced k (mget (fun _ => 0) b.coalesced k + 1) } : Block)).cnt 46 1
  else ({ b with ev := b.ev ++ [e] } : Block).cnt 45 1

/-- The block fences itself (R87, R128, R170, R208): recovery takes it from here. The engine stops at its wave, what the router has
not accepted is not sent (R88), and a sound router enters bypass (R196). -/
def Block.fence (b : Block) (code : Nat) : Block :=
  if b.fenced then b
  else
    let b := if b.working then b.set BLK_DRG_STATUS.state 5 else b
    let b := if b.get MSH_CTL.mode = 0 then b.set MSH_CTL.mode 1 else b
    { b with fenced := true, fenceCode := code, gather := [], working := false, mesh := { b.mesh with sendq := [] } }

/-- Whether the block's units stand still: it is fenced, or a recovery has stopped it and it has still to be restored (R88, R344). -/
def Block.halted (b : Block) : Bool := b.fenced || b.owes

/-- Thread `t`. -/
def Block.thread (b : Block) (t : Nat) : Thread := mget threadIdle b.threads t

/-- Replace thread `t` (its registers in BLK_GRM_STATE follow). -/
def Block.setThread (b : Block) (t : Nat) (th : Thread) : Block :=
  let b : Block := { b with threads := mset threadIdle b.threads t th }
  ((b.set (BLK_GRM_STATE.pc t) th.pc).set (BLK_GRM_STATE.task t) th.task).set (BLK_GRM_STATE.state t) th.state

/-- The unit makes progress in the sense of R435. -/
def Block.progress (b : Block) (env : Env) : Block := { b with progressAt := env.now }

/-- Whether a packet of some origin still waits for the router's acceptance (R65, R161, R169). -/
def MeshUnit.unsent (m : MeshUnit) (f : Origin → Bool) : Bool :=
  (m.sendq.any fun h => f h.origin) || m.resend.any fun h => !h.injected && f h.origin

/-- Whether a packet is of a firing that the fire list names. -/
def Origin.isListed : Origin → Bool
  | .entries _ listed => listed
  | _ => false

/-- A line address of a bank (R129). -/
def spadAddr (bank line : Nat) : Nat := bank % 8 * 65536 + line % 1024 * 64

/-- The banks of a mask in ascending order (R73). -/
def maskBanks (mask : Nat) : List Nat := (List.range 8).filter fun i => nbit mask i

/-- The scratch address of line `j` of lines spread round-robin over a mask (R73). -/
def maskLine (mask line j : Nat) : Nat :=
  let bs := maskBanks mask
  let nb := bs.length
  spadAddr (bs.getD (j % nb) 0) (line + j / nb)

/-- Write a gatherer entry back to its bank. -/
def GEntry.writeback (e : GEntry) (m : Memory) : Memory :=
  m.putsMasked (spadAddr e.bank e.line) (e.data.zip e.mask)

/-- The gatherer entry of a line is written back and freed before another unit touches the line (R131, R133). -/
def Block.flushLine (b : Block) (addr : Nat) : Block :=
  match b.gather.find? fun e => spadAddr e.bank e.line == addr / 64 * 64 with
  | some e => { b with spad := e.writeback b.spad, gather := b.gather.erase e }
  | none => b

/-- Flush a run of line addresses. -/
def Block.flushLines (b : Block) : List Nat → Block
  | [] => b
  | a :: as => (b.flushLine a).flushLines as

/-- The bytes of lines read by a unit other than a groom. -/
def Block.readLines (b : Block) (addrs : List Nat) : Block × List Byte :=
  let b := b.flushLines addrs
  (b, addrs.flatMap fun a => b.spad.bytes a 64)

/-- Lines written by a unit other than a groom, in order. -/
def Block.writeLines (b : Block) : List (Nat × List Byte) → Block
  | [] => b
  | (a, bs) :: ws =>
    let b := b.flushLine a
    ({ b with spad := b.spad.puts a (sliceZ bs 0 64) } : Block).writeLines ws

/-- Cut bytes into lines at given addresses. -/
def lineWrites (addrs : List Nat) (bs : List Byte) : List (Nat × List Byte) :=
  addrs.zipIdx.map fun (a, i) => (a, sliceZ bs (64 * i) 64)

/-- A packet handed to the block's local port for injection (R187). -/
def Block.send (b : Block) (h : Held) : Block := { b with mesh := { b.mesh with sendq := b.mesh.sendq ++ [h] } }

/-- The CRC-64 term of a TALLY (R302). -/
def tallyTerm (source index tag ordinal : Nat) (lines : List Byte) : Word :=
  let pre := source % 16 * 2 ^ 60 + index % 4096 * 2 ^ 48 + tag % 2 ^ 24 * 2 ^ 24 + ordinal % 2 ^ 24
  crc64 (leBytes 8 pre ++ lines)

end Sys2Proof.Machine
end

