-- ==== Sys2Proof/Machine/Operands.lean ====
section
/-! DEFINITION. The encodings the spec gives: stride-program words (R72 to R84), the device-specific groom
instructions and their operand words (R123), Packhorse descriptors (R141), packet headers (R182 to R184), event
records (R432) and sync trace records (R448). -/

namespace Sys2Proof.Machine

/-- A stride-program operation with its fields as encoded (R74 to R84). -/
inductive SOp where
  | nop (n : Nat)
  | loadw (wfmt : Fmt) (trans sparse : Bool) (mask line metaBank metaLine : Nat)
  | stream (afmt : Fmt) (swap clear os : Bool) (bank line count slot sbank sline wfmt : Nat)
  | drain (slot rows mask line : Nat) (keep : Bool)
  | anchor (src : Bool) (bank line value : Nat)
  | convert (ofmt : Fmt) (sr clip scale bias : Bool) (slot rows pbank pline mask line : Nat)
  | send (vc : Nat) (mcast : Bool) (dest queue lines bank line tag : Nat)
  | combine (src : Bool) (dest cq slot rows bank line tag : Nat) (keep : Bool)
  | tally (bank line lines : Nat)
  | waittag (queue tag : Nat) (setp : Bool) (pred : Nat)
  | splice (pred dbank dline abank aline bbank bline lines : Nat)
deriving DecidableEq, Repr

/-- The opcode in bits [63:60] (R72). -/
def SOp.opcode : SOp → Nat
  | .nop .. => 0 | .loadw .. => 1 | .stream .. => 2 | .drain .. => 3 | .anchor .. => 4 | .convert .. => 5
  | .send .. => 6 | .combine .. => 7 | .tally .. => 8 | .waittag .. => 9 | .splice .. => 10

/-- A one-bit field. -/
def flagAt (w i : Nat) : Bool := (w / 2 ^ i) % 2 == 1

/-- Bits [lo + n − 1 : lo] of a number. -/
def fieldAt (w lo n : Nat) : Nat := (w / 2 ^ lo) % 2 ^ n

/-- Read a word as the operation it encodes (R72 to R84); none for an opcode or format code not defined or a reserved
bit that is not zero. -/
def SOp.decode (wd : Word) : Option SOp :=
  let w := wd.toNat
  let z := fun lo n => fieldAt w lo n == 0
  match fieldAt w 60 4 with
  | 0 => if z 0 48 then some (.nop (fieldAt w 48 12)) else none
  | 1 =>
    match Fmt.ofCode (fieldAt w 56 4) with
    | some f =>
      if z 0 23 && f != .f32 then
        some (.loadw f (flagAt w 55) (flagAt w 54) (fieldAt w 46 8) (fieldAt w 36 10) (fieldAt w 33 3) (fieldAt w 23 10))
      else none
    | none => none
  | 2 =>
    match Fmt.ofCode (fieldAt w 56 4), Fmt.ofCode (fieldAt w 7 4) with
    | some f, some g =>
      if z 0 7 && f != .f32 && g != .f32 && (flagAt w 53 || z 7 4) then
        some (.stream f (flagAt w 55) (flagAt w 54) (flagAt w 53) (fieldAt w 50 3) (fieldAt w 40 10) (fieldAt w 30 10)
          (fieldAt w 24 6) (fieldAt w 21 3) (fieldAt w 11 10) (fieldAt w 7 4))
      else none
    | _, _ => none
  | 3 =>
    if z 0 28 then some (.drain (fieldAt w 54 6) (fieldAt w 47 7) (fieldAt w 39 8) (fieldAt w 29 10) (flagAt w 28))
    else none
  | 4 =>
    if z 0 30 then some (.anchor (flagAt w 59) (fieldAt w 56 3) (fieldAt w 46 10) (fieldAt w 30 16)) else none
  | 5 =>
    match Fmt.ofCode (fieldAt w 56 4) with
    | some f =>
      if z 0 8 then
        some (.convert f (flagAt w 55) (flagAt w 54) (flagAt w 53) (flagAt w 52) (fieldAt w 46 6) (fieldAt w 39 7)
          (fieldAt w 36 3) (fieldAt w 26 10) (fieldAt w 18 8) (fieldAt w 8 10))
      else none
    | none => none
  | 6 =>
    if z 0 5 then
      some (.send (fieldAt w 59 1) (flagAt w 58) (fieldAt w 47 11) (fieldAt w 39 8) (fieldAt w 34 5) (fieldAt w 31 3)
        (fieldAt w 21 10) (fieldAt w 5 16))
    else none
  | 7 =>
    if z 0 1 then
      some (.combine (flagAt w 59) (fieldAt w 48 11) (fieldAt w 44 4) (fieldAt w 38 6) (fieldAt w 31 7) (fieldAt w 28 3)
        (fieldAt w 18 10) (fieldAt w 2 16) (flagAt w 1))
    else none
  | 8 => if z 0 36 then some (.tally (fieldAt w 57 3) (fieldAt w 47 10) (fieldAt w 36 11)) else none
  | 9 =>
    if z 0 33 then some (.waittag (fieldAt w 52 8) (fieldAt w 36 16) (flagAt w 35) (fieldAt w 33 2)) else none
  | 10 =>
    if z 0 9 then
      some (.splice (fieldAt w 58 2) (fieldAt w 55 3) (fieldAt w 45 10) (fieldAt w 42 3) (fieldAt w 32 10)
        (fieldAt w 29 3) (fieldAt w 19 10) (fieldAt w 9 10))
    else none
  | _ => none

/-- The number whose bits a word holds. -/
def SOp.bits : SOp → Nat
  | .nop n => n * 2 ^ 48
  | .loadw f t s m l mb ml =>
    2 ^ 60 + f.code * 2 ^ 56 + b2n t * 2 ^ 55 + b2n s * 2 ^ 54 + m * 2 ^ 46 + l * 2 ^ 36 + mb * 2 ^ 33 + ml * 2 ^ 23
  | .stream f sw c o b l n s sb sl wf =>
    2 * 2 ^ 60 + f.code * 2 ^ 56 + b2n sw * 2 ^ 55 + b2n c * 2 ^ 54 + b2n o * 2 ^ 53 + b * 2 ^ 50 + l * 2 ^ 40 +
      n * 2 ^ 30 + s * 2 ^ 24 + sb * 2 ^ 21 + sl * 2 ^ 11 + wf * 2 ^ 7
  | .drain s r m l k => 3 * 2 ^ 60 + s * 2 ^ 54 + r * 2 ^ 47 + m * 2 ^ 39 + l * 2 ^ 29 + b2n k * 2 ^ 28
  | .anchor s b l v => 4 * 2 ^ 60 + b2n s * 2 ^ 59 + b * 2 ^ 56 + l * 2 ^ 46 + v * 2 ^ 30
  | .convert f sr c sc bi s r pb pl m l =>
    5 * 2 ^ 60 + f.code * 2 ^ 56 + b2n sr * 2 ^ 55 + b2n c * 2 ^ 54 + b2n sc * 2 ^ 53 + b2n bi * 2 ^ 52 + s * 2 ^ 46 +
      r * 2 ^ 39 + pb * 2 ^ 36 + pl * 2 ^ 26 + m * 2 ^ 18 + l * 2 ^ 8
  | .send vc m d q n b l t =>
    6 * 2 ^ 60 + vc * 2 ^ 59 + b2n m * 2 ^ 58 + d * 2 ^ 47 + q * 2 ^ 39 + n * 2 ^ 34 + b * 2 ^ 31 + l * 2 ^ 21 + t * 2 ^ 5
  | .combine s d q sl r b l t k =>
    7 * 2 ^ 60 + b2n s * 2 ^ 59 + d * 2 ^ 48 + q * 2 ^ 44 + sl * 2 ^ 38 + r * 2 ^ 31 + b * 2 ^ 28 + l * 2 ^ 18 +
      t * 2 ^ 2 + b2n k * 2
  | .tally b l n => 8 * 2 ^ 60 + b * 2 ^ 57 + l * 2 ^ 47 + n * 2 ^ 36
  | .waittag q t s p => 9 * 2 ^ 60 + q * 2 ^ 52 + t * 2 ^ 36 + b2n s * 2 ^ 35 + p * 2 ^ 33
  | .splice p db dl ab al bb bl n =>
    10 * 2 ^ 60 + p * 2 ^ 58 + db * 2 ^ 55 + dl * 2 ^ 45 + ab * 2 ^ 42 + al * 2 ^ 32 + bb * 2 ^ 29 + bl * 2 ^ 19 + n * 2 ^ 9

/-- The word of an operation. -/
def SOp.encode (i : SOp) : Word := BitVec.ofNat 64 i.bits

/-- Whether every field of an operation fits its place in the encoding. -/
def SOp.wf : SOp → Bool
  | .nop n => decide (n < 4096)
  | .loadw f _ _ m l mb ml =>
    f != .f32 && decide (m < 256) && decide (l < 1024) && decide (mb < 8) && decide (ml < 1024)
  | .stream f _ _ o b l n s sb sl wf =>
    f != .f32 && decide (b < 8) && decide (l < 1024) && decide (n < 1024) && decide (s < 64) && decide (sb < 8) &&
      decide (sl < 1024) && decide (wf < 11) && (o || wf == 0)
  | .drain s r m l _ => decide (s < 64) && decide (r < 128) && decide (m < 256) && decide (l < 1024)
  | .anchor _ b l v => decide (b < 8) && decide (l < 1024) && decide (v < 65536)
  | .convert _ _ _ _ _ s r pb pl m l =>
    decide (s < 64) && decide (r < 128) && decide (pb < 8) && decide (pl < 1024) && decide (m < 256) && decide (l < 1024)
  | .send vc _ d q n b l t =>
    decide (vc < 2) && decide (d < 2048) && decide (q < 256) && decide (n < 32) && decide (b < 8) &&
      decide (l < 1024) && decide (t < 65536)
  | .combine _ d q sl r b l t _ =>
    decide (d < 2048) && decide (q < 16) && decide (sl < 64) && decide (r < 128) && decide (b < 8) &&
      decide (l < 1024) && decide (t < 65536)
  | .tally b l n => decide (b < 8) && decide (l < 1024) && decide (n < 2048)
  | .waittag q t _ p => decide (q < 256) && decide (t < 65536) && decide (p < 4)
  | .splice p db dl ab al bb bl n =>
    decide (p < 4) && decide (db < 8) && decide (dl < 1024) && decide (ab < 8) && decide (al < 1024) &&
      decide (bb < 8) && decide (bl < 1024) && decide (n < 1024)

/-- A count field in which 0 stands for the largest value (R64, R80, R84). -/
def zeroMeans (n top : Nat) : Nat := if n = 0 then top else n

/-- The formed tag of an operation of a stride (R70). -/
def formTag (stride : Word) (field : Nat) : Nat := stride.toNat % 256 * 65536 + field % 65536

/-- A device-specific groom instruction (R123): func, a, b, c, imm. -/
structure GrmSpecial where
  func : Nat
  a : Nat
  b : Nat
  c : Nat
  imm : Nat
deriving DecidableEq, Repr

/-- The device-specific instruction that a word of the groom code store encodes; none where its major opcode is not
0x3E (R123). -/
def GrmSpecial.decode (w : BitVec 32) : Option GrmSpecial :=
  let n := w.toNat
  if fieldAt n 26 6 = 0x3E then
    some ⟨fieldAt n 22 4, fieldAt n 17 5, fieldAt n 12 5, fieldAt n 7 5, fieldAt n 0 7⟩
  else none

/-- The word of a device-specific instruction (R123). -/
def GrmSpecial.encode (i : GrmSpecial) : BitVec 32 :=
  BitVec.ofNat 32 (0x3E * 2 ^ 26 + i.func * 2 ^ 22 + i.a * 2 ^ 17 + i.b * 2 ^ 12 + i.c * 2 ^ 7 + i.imm)

/-- Whether the fields fit their places. -/
def GrmSpecial.wf (i : GrmSpecial) : Bool :=
  decide (i.func < 16) && decide (i.a < 32) && decide (i.b < 32) && decide (i.c < 32) && decide (i.imm < 128)

/-- The destination word of SEND (R123). -/
structure SendDest where
  tag : Nat
  incarn : Nat
  queue : Nat
  dest : Nat
deriving DecidableEq, Repr

/-- Read a destination word. -/
def SendDest.ofWord (w : Word) : SendDest := ⟨bitsOf w 55 32, bitsOf w 31 24, bitsOf w 23 16, bitsOf w 10 0⟩

/-- The source word of SEND (R123). -/
structure SendSrc where
  woff : Nat
  lines : Nat
  src : Nat
deriving DecidableEq, Repr

/-- Read a source word; `lines` counts from 1. -/
def SendSrc.ofWord (w : Word) : SendSrc := ⟨bitsOf w 63 32, bitsOf w 23 19 + 1, bitsOf w 18 0⟩

/-- The 64 bytes of a Packhorse descriptor as its fields (R141). -/
def Desc.ofBytes (bs : List Byte) : Desc :=
  let ctl := leAt bs 0 2
  { ctl := ctl, src := leAt bs 2 2, dst := leAt bs 4 2, rows := leAt bs 6 2, srcOff := leAt bs 8 8,
    dstOff := leAt bs 16 8, rowBytes := leAt bs 24 4, srcStep := leAt bs 28 4, dstStep := leAt bs 32 4,
    cq := leAt bs 36 1, tag := leAt bs 40 2, pattern := leAt bs 44 4,
    reservedZero := nbits ctl 15 7 == 0 && zeroAt bs 37 3 && zeroAt bs 42 2 && zeroAt bs 48 8 && zeroAt bs 57 1 }

/-- The operation of a descriptor: 0 COPY, 1 FILL, 2 RELOAD. -/
def Desc.op (d : Desc) : Nat := nbits d.ctl 3 0

/-- The token bit. -/
def Desc.token (d : Desc) : Bool := nbit d.ctl 4

/-- The fence bit. -/
def Desc.fence (d : Desc) : Bool := nbit d.ctl 5

/-- The stamp bit. -/
def Desc.stamp (d : Desc) : Bool := nbit d.ctl 6

/-- Lines of a packet: length + 1 for a data packet, 0 for a control packet (R182). -/
def Pkt.lines (k : Pkt) : Nat := if k.isData then k.length + 1 else 0

/-- The regions that a region mask names. -/
def maskRegions (rmask : Nat) : List Nat := (List.range 16).filter fun r => nbit rmask r

/-- Extension flits of a multicast packet (R184). -/
def Pkt.extFlits (k : Pkt) : Nat :=
  if k.mcast then (if 12 < (maskRegions k.rmask).length then 2 else 1) else 0

/-- Flits of a packet (R181). -/
def Pkt.flits (k : Pkt) : Nat := if k.isData then 1 + k.extFlits + ceilDiv k.lines 2 else 1 + k.extFlits

/-- The four words of a packet header, with the CRC field zero (R182). -/
def Pkt.headerWords (k : Pkt) : List Nat :=
  [ k.path % 2 ^ 48 * 2 ^ 12 + k.kind % 16 * 2 ^ 8 + k.rop % 8 * 2 ^ 5 + b2n k.cmark * 16 + b2n k.mcast * 8 +
      k.vc % 2 * 4 + k.epoch % 2 * 2 + b2n k.isData,
    k.seq % 65536 * 2 ^ 46 + k.tag % 2 ^ 24 * 2 ^ 22 + k.src % 2048 * 2 ^ 11 + k.dest % 2048,
    k.srcidx % 2048 * 2 ^ 53 + k.parts % 65536 * 2 ^ 37 + k.rmask % 65536 * 2 ^ 21 + k.incarn % 256 * 2 ^ 13 +
      k.qid % 256 * 2 ^ 5 + k.length % 32,
    k.addr % 2 ^ 48 ]

/-- The 32 header bytes with the header CRC in bytes 30 and 31 (R182, R183). -/
def Pkt.headerBytes (k : Pkt) : List Byte :=
  let bs := k.headerWords.flatMap (leBytes 8)
  bs.take 30 ++ leBytes 2 (crc16 (bs.take 30)).toNat

/-- The extension flits of a multicast packet (R184): 12 masks of 80 bits in ascending region order, a CRC in bytes 120 and 121. -/
def Pkt.extBytes (k : Pkt) : List (List Byte) :=
  let masks := (maskRegions k.rmask).map fun r => k.targets / 2 ^ (80 * r) % 2 ^ 80
  (List.range k.extFlits).map fun j =>
    let body := sliceZ (((masks.drop (12 * j)).take 12).flatMap (leBytes 10)) 0 120
    body ++ leBytes 2 (crc16 body).toNat ++ List.replicate 6 0

/-- The payload flits of a data packet (R181): flit j holds lines 2j and 2j + 1, and zero where there is no such line. -/
def Pkt.payloadFlits (k : Pkt) : List (List Byte) :=
  let lines := sliceZ k.payload 0 (64 * k.lines)
  (List.range (ceilDiv k.lines 2)).map fun j => sliceZ lines (128 * j) 128

/-- The flits of a packet (R181): the header with 96 bytes of payload or of zeros, the extension flits, the payload flits. -/
def Pkt.flitBytes (k : Pkt) : List (List Byte) :=
  (k.headerBytes ++ sliceZ (if k.isData then [] else k.payload) 0 96) :: (k.extBytes ++ k.payloadFlits)

/-- The header a header flit's bytes hold; none where its CRC is wrong (R183). -/
def Pkt.ofHeader (bs : List Byte) : Option Pkt :=
  if crc16 (sliceZ bs 0 30) = BitVec.ofNat 16 (leAt bs 30 2) then
    let w0 := leAt bs 0 8
    let w1 := leAt bs 8 8
    let w2 := leAt bs 16 8
    let w3 := leAt bs 24 8
    some { path := fieldAt w0 12 48, kind := fieldAt w0 8 4, rop := fieldAt w0 5 3, cmark := flagAt w0 4,
           mcast := flagAt w0 3, vc := fieldAt w0 2 1, epoch := fieldAt w0 1 1, isData := flagAt w0 0,
           seq := fieldAt w1 46 16, tag := fieldAt w1 22 24, src := fieldAt w1 11 11, dest := fieldAt w1 0 11,
           srcidx := fieldAt w2 53 11, parts := fieldAt w2 37 16, rmask := fieldAt w2 21 16,
           incarn := fieldAt w2 13 8, qid := fieldAt w2 5 8, length := fieldAt w2 0 5, addr := fieldAt w3 0 48 }
  else none

/-- Whether a header's fields fit their places. -/
def Pkt.headerWf (k : Pkt) : Bool :=
  decide (k.path < 2 ^ 48) && decide (k.kind < 16) && decide (k.rop < 8) && decide (k.vc < 2) && decide (k.epoch < 2) &&
  decide (k.seq < 65536) && decide (k.tag < 2 ^ 24) && decide (k.src < 2048) && decide (k.dest < 2048) &&
  decide (k.srcidx < 2048) && decide (k.parts < 65536) && decide (k.rmask < 65536) && decide (k.incarn < 256) &&
  decide (k.qid < 256) && decide (k.length < 32) && decide (k.addr < 2 ^ 48)

/-- The physical block of bit `b` of region `r`'s mask (R184). -/
def blockOfBit (r b : Nat) : Nat := (8 * (r / 4) + b / 10) * 40 + (10 * (r % 4) + b % 10)

/-- The bit of a physical block in a 1,280-bit target set. -/
def targetBit (p : Nat) : Nat :=
  let x := p % 40
  let y := p / 40
  80 * (4 * (y / 8) + x / 10) + (y % 8) * 10 + x % 10

/-- Whether a set of targets names physical block `p`. -/
def hasTarget (set p : Nat) : Bool := nbit set (targetBit p)

/-- The physical blocks of a set of targets. -/
def targetList (set : Nat) : List Nat := (List.range 1280).filter fun p => hasTarget set p

/-- The 64 bytes of an event record (R432). -/
def Ev.bytes (e : Ev) (seq : Nat) : List Byte :=
  let body := leBytes 8 e.stride ++ leBytes 8 e.beatNs ++ leBytes 4 e.subNs ++
    leBytes 2 (e.level % 8 * 8192 + e.place % 2048) ++ leBytes 1 e.cell ++ leBytes 1 e.code ++ leBytes 4 e.op ++
    leBytes 3 e.tag ++ leBytes 1 (e.attempt % 16 * 16 + e.outcome % 16) ++ leBytes 2 e.temp ++ leBytes 2 e.mv ++
    leBytes 2 e.lblock ++ leBytes 2 0 ++ leBytes 8 e.detail ++ leBytes 4 e.detail2 ++ leBytes 2 0
  leBytes 8 seq ++ body ++ leBytes 2 (crc16 body).toNat

/-- A sync trace record's two words (R448). -/
def traceWords (tag src kind dur unit idx start stride : Nat) : Nat × Nat :=
  (tag % 2 ^ 24 * 2 ^ 40 + src % 2048 * 2 ^ 29 + kind % 32 * 2 ^ 24 + min dur 0xFFFFFF,
   unit % 256 * 2 ^ 56 + idx % 4096 * 2 ^ 44 + min start 0xFFFFF * 2 ^ 24 + stride % 2 ^ 24)

end Sys2Proof.Machine
end

