-- ==== Sys2Proof/Machine/Flow.lean ====
section
/-! DEFINITION. Credits, queue entries, tag contexts and dataflow faults of a block: the operations that the stride
program, the grooms, the Packhorse, the Rein and the combining queues share (R148 to R152, R160, R162, R163, R170). -/

namespace Sys2Proof.Machine

/-- Zero for every key. -/
def natZero : Nat → Nat := fun _ => 0

/-- The fields of a queue id's configuration. -/
def Block.qKind (b : Block) (q : Nat) : Nat := b.get (BLK_Q_CFG.kind q)
def Block.qDepth (b : Block) (q : Nat) : Nat := b.get (BLK_Q_CFG.depth q) + 1
def Block.qLines (b : Block) (q : Nat) : Nat := b.get (BLK_Q_CFG.lines q) + 1
def Block.qCtl (b : Block) (q : Nat) : Bool := b.get (BLK_Q_CFG.ctl q) == 1
def Block.qNode (b : Block) (q : Nat) : Nat := b.get (BLK_Q_CFG.node q)
def Block.qInput (b : Block) (q : Nat) : Nat := b.get (BLK_Q_CFG.input q)

/-- Node record `n`. -/
def Block.node? (b : Block) (n : Nat) : Option NodeRec := b.nodes[n]?

/-- The scratch addresses of the first `lines` lines of entry `e` of queue `q` (R149). -/
def Block.entryAddrs (b : Block) (q e lines : Nat) : List Nat :=
  (List.range lines).map fun k => maskLine (b.get (BLK_Q_CFG.mask q)) (b.get (BLK_Q_CFG.line q)) (e * b.qLines q + k)

/-- The first entry of a queue that is not occupied. -/
def Block.freeEntryOf (b : Block) (q : Nat) : Option Nat :=
  (List.range (b.qDepth q)).find? fun e => !b.queue.any fun x => x.q == q && x.e == e

/-- The outbound arc of a producer to a block or group and a queue (R211, R274): a block has at most one to any pair. -/
def Block.outArc (b : Block) (producer : Nat) (mcast : Bool) (dest queue : Nat) : Option Nat :=
  b.arcs.findIdx? fun a => a.outbound && a.producer == producer && a.mcast == mcast && a.dest == dest && a.queue == queue

/-- The outbound arc of output `o` of a node, or of combining queue `o` (R274). -/
def Block.outputArc (b : Block) (producer o : Nat) : Option Nat :=
  b.arcs.findIdx? fun a => a.outbound && a.producer == producer && a.output == o

/-- Where the credits that consumer `l` of outbound arc `i` has returned are counted: apart for each member of a multicast arc. -/
def returnKey (a : ArcRec) (i l : Nat) : Nat := if a.mcast then 131072 + i * 2048 + l else i

/-- Credits held on outbound arc `i` (R162, R194): the share less what is spent and not yet returned, by the slowest member of a
multicast arc. -/
def Block.creditsHeld (b : Block) (i : Nat) : Nat :=
  match b.arcs[i]? with
  | some a =>
    let held := fun l => a.share - (mget natZero b.spent i + 65536 - mget natZero b.returned (returnKey a i l)) % 65536
    if a.mcast then (a.members.map held).foldl min a.share else held 0
  | none => 0

/-- Spend one credit of arc `i` (R162). -/
def Block.spendCredit (b : Block) (i : Nat) : Block :=
  { b with spent := mset natZero b.spent i ((mget natZero b.spent i + 1) % 65536) }

/-- Whether an arc goes to a combining queue, which takes no credits (R167). -/
def Block.arcFree (b : Block) (i : Nat) : Bool := (b.arcs[i]?).any fun a => decide (240 ≤ a.queue)

/-- Whether a producer may send on arc `i` (R162). -/
def Block.mayEmit (b : Block) (i : Nat) : Bool := b.arcFree i || b.creditsHeld i != 0

/-- Producers that can wait for a credit (R163): a thread, a combining queue, the Rein, a firing's descriptor. -/
def waitThread (t : Nat) : Nat := t
def waitCq (c : Nat) : Nat := 8 + c
def waitRein : Nat := 24
def waitJob (index : Nat) : Nat := 25 + index

/-- Producer `who` waits for a credit on arc `i` (R163, R166): counted once for each wait. -/
def Block.creditWait (b : Block) (env : Env) (who i : Nat) : Block :=
  if b.waits.contains (who, i) then b
  else
    let b := ({ b with waits := b.waits ++ [(who, i)] } : Block).count BLK_DF_CREDITWAIT.count 1
    if (b.arcs[i]?).any env.join then
      let b := b.count BLK_DF_SLACK.count 1
      if b.firstSlack then ({ b with firstSlack := false } : Block).note env { cell := 16, code := 0xA4, detail := i }
      else b
    else b

/-- A producer's wait for a credit on arc `i` has ended, and it spends the credit (R162). -/
def Block.takeCredit (b : Block) (who i : Nat) : Block :=
  let b : Block := { b with waits := b.waits.filter (· != (who, i)) }
  if b.arcFree i then b else b.spendCredit i

/-- A CREDIT packet with an arc's running total (R194); it carries an echo owed to the producer (R201) in bit 1 of payload byte 2 (DESIGN
CHOICE, log entry 22). -/
def Block.sendCredit (b : Block) (a : ArcRec) (total : Nat) : Block :=
  let echo := b.mesh.echoes.any fun e => e.2 == a.dest
  let b : Block := { b with mesh := { b.mesh with echoes := b.mesh.echoes.filter fun e => e.2 != a.dest } }
  b.send { pkt := { kind := kCREDIT, vc := 1, seq := total, payload := leBytes 2 a.match_ ++ leBytes 1 (2 * b2n echo) }, idx := a.dest }

/-- Return the credit of a freed entry (R162, R194): at once to a producer in this block, by a CREDIT packet to another. -/
def Block.returnCredit (b : Block) (inbound : Nat) : Block :=
  match b.arcs[inbound]? with
  | none => b
  | some a =>
    if a.outbound then b
    else if a.manger then
      let k := 65536 + inbound
      { b with returned := mset natZero b.returned k ((mget natZero b.returned k + 1) % 65536) }
    else if a.dest = b.lblock then
      let k := match b.arcs[a.match_]? with | some o => returnKey o a.match_ b.lblock | none => a.match_
      { b with returned := mset natZero b.returned k ((mget natZero b.returned k + 1) % 65536) }
    else
      let tot := (mget natZero b.totals inbound + 1) % 65536
      ({ b with totals := mset natZero b.totals inbound tot } : Block).sendCredit a tot

/-- Context cells of one store: tag contexts, or match entries of the Rein (R150). -/
def ctxCap (steer : Bool) : Nat := if steer then 256 else 4096

/-- The sum of the quotas of the nodes that use a store. -/
def Block.quotaSum (b : Block) (steer : Bool) : Nat :=
  (b.nodes.filter fun n => n.kind != 0 && (n.kind == 3) == steer).foldl (fun a n => a + n.quota) 0

/-- A free context for `node`: whether from its quota, and the index; none where neither has one free (R150). -/
def Block.freeCtx (b : Block) (node : Nat) (n : NodeRec) : Option (Bool × Nat) :=
  let steer := n.kind == 3
  let cs := b.ctxs.filter fun c => c.steer == steer
  let idx := (List.range (cs.length + 1)).find? fun i => !cs.any fun c => c.index == i
  let mine := (cs.filter fun c => c.node == node && c.reserved).length
  let loose := (cs.filter fun c => !c.reserved).length
  if mine < n.quota then idx.map fun i => (true, i)
  else if loose < ctxCap steer - b.quotaSum steer then idx.map fun i => (false, i)
  else none

/-- Try to match the token of queue `q` and `tag`: join the context of its node and tag, or allocate one (R150, R160). -/
def Block.matchToken (b : Block) (q tag : Nat) : Option Block :=
  let node := b.qNode q
  let bit := 2 ^ b.qInput q
  let mark := fun (b : Block) => { b with queue := b.queue.map fun x =>
    if x.q == q && x.tag == tag && !x.taken then { x with matched := true } else x }
  if b.ctxs.any fun c => c.node == node && c.tag == tag then
    some (mark { b with ctxs := b.ctxs.map fun c =>
      if c.node == node && c.tag == tag then { c with inputs := c.inputs ||| bit } else c })
  else
    match b.node? node with
    | none => none
    | some n =>
      (b.freeCtx node n).map fun (res, i) =>
        mark { b with ctxs := b.ctxs ++ [⟨i, node, tag, bit, n.kind == 3, res⟩] }

/-- Waiting tokens take freed contexts oldest first (R150). -/
def Block.rematchList (b : Block) : List QEntry → Block
  | [] => b
  | x :: xs =>
    if x.matched then b.rematchList xs
    else (match b.matchToken x.q x.tag with | some b' => b'.rematchList xs | none => b.rematchList xs)

/-- Match every waiting token that can be matched. -/
def Block.rematch (b : Block) : Block :=
  b.rematchList (b.queue.filter fun x => b.qKind x.q == 1)

/-- A dataflow program fault (R170): recorded, the firing scheduler stops, and Dispatch ends the job. -/
def Block.dataflowFault (b : Block) (env : Env) (code node queue tag : Nat) : Block :=
  let b := (((b.set BLK_DF_FAULT.code code).set BLK_DF_FAULT.node node).set BLK_DF_FAULT.queue queue).set
    BLK_DF_FAULT.tag tag
  let b := b.set BLK_DF_STATUS.state 5
  let b := b.note env { cell := 16, code := code, tag := tag, outcome := 3, detail := queue }
  { b with jobFault := b.jobFault <|> some (11, code) }

/-- Whether a token breaks a rule of fault 0x41 (R151, R170): a duplicate is one of the node, input and tag of a token that waits. -/
def Block.tokenBad (b : Block) (q tag lines : Nat) (isData : Bool) : Bool :=
  decide (240 ≤ q) || b.qKind q != 1 || b.qCtl q == isData || (isData && decide (b.qLines q < lines)) ||
    b.queue.any (fun x => !x.taken && x.tag == tag && b.qKind x.q == 1 && b.qNode x.q == b.qNode q && b.qInput x.q == b.qInput q)

/-- A token enters an arc queue (R148 to R150). `none`: no entry is free, and the token waits where it is. -/
def Block.enterToken (b : Block) (env : Env) (q tag : Nat) (isData : Bool) (src : Nat) (arc : Option Nat)
    (payload : List Byte) : Option Block :=
  let lines := if isData then ceilDiv payload.length 64 else 0
  if b.tokenBad q tag lines isData then
    some (b.dataflowFault env 0x41 (if q < 240 then b.qNode q else 0) q tag)
  else
    match b.freeEntryOf q with
    | none => none
    | some e =>
      let b := if isData then b.writeLines (lineWrites (b.entryAddrs q e lines) payload) else b
      let ent : QEntry := { q := q, e := e, tag := tag, isData := isData, lines := lines, src := src,
                            bytes := if isData then [] else sliceZ payload 0 8, arc := arc, matched := false }
      let b : Block := { b with queue := b.queue ++ [ent] }
      match b.matchToken q tag with
      | some b => some b
      | none => some (b.count BLK_DF_UNMATCHED.count 1)

/-- Whether the context of a node and tag holds a token on every input (R152). -/
def Block.complete (b : Block) (node tag : Nat) : Bool :=
  match b.node? node with
  | some n => b.ctxs.any fun c => c.node == node && c.tag == tag && c.inputs == 2 ^ n.inputs - 1
  | none => false

/-- The queue entry that feeds an input of a node with a tag. -/
def Block.inputEntry (b : Block) (node input tag : Nat) : Option QEntry :=
  b.queue.find? fun x => x.tag == tag && b.qKind x.q == 1 && b.qNode x.q == node && b.qInput x.q == input && x.matched && !x.taken

/-- Release the context of a node and tag when its firing starts (R152): the firing holds its input entries from now on. -/
def Block.releaseCtx (b : Block) (node tag : Nat) : Block :=
  let mine := fun (x : QEntry) => x.tag == tag && b.qKind x.q == 1 && b.qNode x.q == node && x.matched
  ({ b with ctxs := b.ctxs.filter fun c => !(c.node == node && c.tag == tag),
            queue := b.queue.map fun x => if mine x then { x with taken := true } else x } : Block).rematch

/-- The bytes of a token's payload. -/
def Block.entryBytes (b : Block) (x : QEntry) : Block × List Byte :=
  if x.isData then b.readLines (b.entryAddrs x.q x.e x.lines) else (b, x.bytes)

/-- Free a queue entry and return its credit (R162). -/
def Block.freeEntry (b : Block) (q e : Nat) : Block :=
  match b.queue.find? fun x => x.q == q && x.e == e with
  | none => b
  | some x =>
    let b : Block := { b with queue := b.queue.filter fun y => !(y.q == q && y.e == e) }
    match x.arc with
    | some i => b.returnCredit i
    | none => b

/-- Free several entries in order. -/
def Block.freeEntries (b : Block) : List (Nat × Nat) → Block
  | [] => b
  | (q, e) :: es => (b.freeEntry q e).freeEntries es

/-- The inbound arc record of a queue whose producer is logical block `l` and arc `i` of it; a multicast producer's
packets match by the block alone. -/
def Block.inboundArc (b : Block) (q l : Nat) : Option Nat :=
  b.arcs.findIdx? fun a => !a.outbound && !a.manger && a.queue == q && a.dest == l

/-- What the sender lets go of once its token has been taken (R161, R169): the input entries of a steer point's firing, or a slot of
a combining queue. -/
def Block.letGo (b : Block) : Origin → Block
  | .entries held _ => b.freeEntries held
  | .cqSlot c slot =>
    let b : Block := { b with cqs := b.cqs.filter fun x => !(x.cq == c && x.slot == slot) }
    (b.set (BLK_CQ_STATE.openS c) ((b.cqs.filter fun x => x.cq == c).length)).count (BLK_CQ_STATE.done c) 1
  | _ => b

/-- The packet of a token on an outbound arc. -/
def arcPkt (a : ArcRec) (tag : Nat) (isData : Bool) (payload : List Byte) : Pkt :=
  { kind := kTOKEN, vc := a.vc, isData := isData, tag := tag, qid := a.queue, mcast := a.mcast,
    length := if isData then ceilDiv payload.length 64 - 1 else 0, payload := payload }

/-- A token handed to an outbound arc whose credit is already spent (R158, R161, R169): into a local queue at once, to a combining
queue of this block as its next contribution (R168), to another block as one packet; its sender lets go once it has been taken. -/
def Block.emitToken (b : Block) (env : Env) (arc : Nat) (tag : Nat) (isData : Bool) (payload : List Byte) (origin : Origin) : Block :=
  match b.arcs[arc]? with
  | none => b
  | some a =>
    let k := arcPkt a tag isData payload
    if a.dest = b.lblock ∧ ¬ a.mcast then
      if 240 ≤ a.queue then
        ({ b with mesh := { b.mesh with inbox := b.mesh.inbox ++ [{ k with src := env.p, srcidx := b.lblock }] } } : Block).letGo origin
      else ((b.enterToken env a.queue tag isData env.p (b.inboundArc a.queue b.lblock) payload).getD b).letGo origin
    else b.send { pkt := k, idx := a.dest, origin := origin }

end Sys2Proof.Machine
end

