-- ==== Sys2Proof/Machine/Engine.lean ====
section
/-! DEFINITION. The draught engine: tiles and format pairs (R57 to R64), the sequencer and its wave schedule (R65 to
R70, R85), every stride-program operation (R74 to R84) and the engine's faults (R87, R88). -/

namespace Sys2Proof.Machine

/-- A floating-point class of MX formats that pair with each other (R61). -/
def Fmt.mx86 : Fmt → Bool
  | .mx8e4m3 | .mx8e5m2 | .mx6e2m3 | .mx6e3m2 => true
  | _ => false

/-- A plain 8-bit floating-point format. -/
def Fmt.fp8 : Fmt → Bool
  | .e4m3 | .e5m2 => true
  | _ => false

/-- Whether a weight and an activation format pair (R61). -/
def pairOk (w a : Fmt) : Bool :=
  (w.fp8 && a.fp8) || (w.mx86 && a.mx86) || (w == .mx4 && a == .mx4) || (w == .int8 && a == .int8) ||
    (w == .int4 && a == .int8) || (w == .bf16 && a == .bf16) || (w == .f16 && a == .f16)

/-- Whether an output-stationary pair is allowed (R64). -/
def osPairOk (w a : Fmt) : Bool := (w.fp8 && a.fp8) || (w == .int8 && a == .int8)

/-- Whether a weight format may be 2:4 sparse (R62). -/
def sparseOk (w : Fmt) : Bool := w.fp8 || w == .mx8e4m3 || w == .mx8e5m2 || w == .mx4

/-- Stored weights per column of a tile (R61). -/
def storedK (w : Fmt) : Nat := if w = .mx4 then 128 else 64

/-- K that a tile covers (R61, R62). -/
def coveredK (w : Fmt) (sparse : Bool) : Nat := if sparse then 2 * storedK w else storedK w

/-- Tile lines (R61). -/
def tileLines (w : Fmt) : Nat := storedK w * w.bits / 8

/-- Scale lines of a tile (R61, R62). -/
def scaleLines (w : Fmt) (sparse : Bool) : Nat := if w.isMx then coveredK w sparse / 32 else 0

/-- Index metadata lines of a tile (R62). -/
def indexLines (w : Fmt) (sparse : Bool) : Nat := if sparse then storedK w / 4 else 0

/-- Waves per activation row (R61). -/
def wavesPerRow (w : Fmt) : Nat := if w = .bf16 ∨ w = .f16 then 4 else 1

/-- An element times its E8M0 scale (R91). -/
def scaled (f : Fmt) (v : Val) (s : Byte) : Val := if f.isMx then v.mul (e8m0 s) else v

/-- The bytes of a tile as an array of tile elements, row-major, or column-major where the load was transposed (R63,
R92). DESIGN CHOICE, log entry 18: rows and columns that are no whole 64-byte line are packed end to end, one bit string for the tile; the
line counts of R61 leave no room for any other packing, and no rule states it. -/
def Tile.weight (t : Tile) (s n : Nat) : Val :=
  let kd := storedK t.fmt
  t.fmt.decode (packedAt t.data t.fmt.bits (if t.trans then n * kd + s else s * 64 + n))

/-- The position along K of stored weight `s` of column `n` (R62). DESIGN CHOICE, log entry 17: the index lines hold the 2-bit indices in the
order of the tile's rows, index 64 s + n, the lowest bits of a byte first; R62 gives only how many lines they take. -/
def Tile.position (t : Tile) (s n : Nat) : Nat :=
  if t.sparse then
    let p := s * 64 + n
    let b := leAt t.metadata (64 * scaleLines t.fmt t.sparse + p / 4) 1
    4 * (s / 2) + (b >>> (2 * (p % 4))) % 4
  else s

/-- The scaled weights of column `n` with their positions along K. DESIGN CHOICE, log entry 19: scale line k / 32 holds column n's scale at
byte n; R75 gives only how many lines there are. -/
def Tile.column (t : Tile) (n : Nat) : List (Nat × Val) :=
  (List.range (storedK t.fmt)).map fun s =>
    let k := t.position s n
    (k, scaled t.fmt (t.weight s n) (BitVec.ofNat 8 (leAt t.metadata (64 * (k / 32) + n) 1)))

/-- One column's products with an activation row: the sum at its anchor and the number of tall products (R57, R58). -/
def columnSum (anchor : BitVec 16) (col : List (Nat × Val)) (act : Nat → Val) : Ap × Nat :=
  col.foldl (fun (s : Ap × Nat) (kw : Nat × Val) =>
    let p := kw.2.mul (act kw.1)
    (s.1.add (Ap.ofProduct anchor p), s.2 + b2n (isTall anchor p))) (Ap.zero, 0)

/-- The current anchor of a column. -/
def Engine.anchor (e : Engine) (n : Nat) : BitVec 16 := mget anchorZero e.anchors n

/-- Slot s of accumulator n. -/
def Engine.slot (e : Engine) (s n : Nat) : Ap := mget apZero e.slots (64 * s + n)

/-- Replace a slot entry. -/
def Engine.setSlot (e : Engine) (s n : Nat) (x : Ap) : Engine := { e with slots := mset apZero e.slots (64 * s + n) x }

/-- The 64 entries of a slot row. -/
def Engine.slotRow (e : Engine) (s : Nat) : List Ap := (List.range 64).map fun n => e.slot s n

/-- Empty slot rows `s` to `s + rows − 1`. -/
def Engine.emptySlots (e : Engine) (s rows : Nat) : Engine := { e with slots := mclear (64 * s) (64 * (s + rows)) e.slots }

/-- A contribution to a slot (R60, R76): replaces the content where `clear` is set, adds otherwise. -/
def Engine.contribute (e : Engine) (clear : Bool) (s n : Nat) (x : Ap) : Engine :=
  e.setSlot s n (if clear then x else (e.slot s n).add x)

/-- Contributions of one row to a slot row. -/
def Engine.contributeRow (e : Engine) (clear : Bool) (s : Nat) (xs : List Ap) : Engine :=
  xs.zipIdx.foldl (fun e (x, n) => e.contribute clear s n x) e

/-- Which resources an operation holds (R66). -/
inductive Holds where
  | sequencer | load | lattice (swap : Bool) | edge | edgeSend | send | tally | copy
deriving DecidableEq, Repr

/-- Start an operation in the first wave that its resources and its own wait condition allow, and hold them `cost` waves
(R66, R67, R85). -/
def Sched.run (s : Sched) (h : Holds) (cost : Nat) : Sched :=
  let go := fun (start : Nat) (f : Sched → Nat → Sched) =>
    let s := f s (start + cost)
    { s with next := max s.next (start + 1), stop := max s.stop (start + cost) }
  let flushed := max s.next (max s.edge s.flush)
  match h with
  | .sequencer => go s.next fun s e => { s with next := e }
  | .load => go (max s.next s.load) fun s e => { s with load := e, shadow := e }
  | .lattice swap => go (max s.next (max (max s.lattice s.edge) (if swap then s.shadow else 0))) fun s e =>
      { s with lattice := e, edge := e, flush := e + 2 }
  | .edge => go flushed fun s e => { s with edge := e }
  | .edgeSend => go (max flushed s.send) fun s e => { s with edge := e, send := e }
  | .send => go (max s.next s.send) fun s e => { s with send := e }
  | .tally => go (max s.next s.tally) fun s e => { s with tally := e }
  | .copy => go (max s.next s.copy) fun s e => { s with copy := e }

/-- What an operation does: it waits, it holds a field value that is not defined (fault 0x06), or it runs. -/
inductive EngOut where
  | wait
  | bad
  | ran (b : Block) (h : Holds) (cost : Nat)

/-- Record a fault in BLK_DRG_FAULT and the status register (R89). -/
def Block.drgFault (b : Block) (code column attempt : Nat) (lasting : Bool) : Block :=
  let b := (b.set BLK_DRG_FAULT.word b.eng.next).set BLK_DRG_FAULT.code code
  let b := (b.set BLK_DRG_FAULT.column column).set BLK_DRG_FAULT.attempt attempt
  let b := (b.set BLK_DRG_FAULT.lasting (b2n lasting)).set BLK_DRG_FAULT.stride_lo b.stride.toNat
  b.set BLK_DRG_STATUS.fault code

/-- The sequencer stops under R87 and the block fences itself (R88). -/
def Block.engineStop (b : Block) (env : Env) (code column attempt : Nat) : Block :=
  let b := b.drgFault code column attempt true
  let b := (b.set BLK_DRG_STATUS.pc b.eng.next).set BLK_DRG_STATUS.state 5
  let b := b.note env { cell := 1, code := code, op := b.eng.next, attempt := attempt, outcome := 2, detail := column }
  b.fence code

/-- The word the sequencer starts next: the block works on a stride, is not fenced, and the program has a word left. -/
def Block.nextWord (b : Block) : Option Word :=
  if b.working && !b.fenced && b.get BLK_DRG_STATUS.state != 5 then b.program[b.eng.next]? else none

/-- BLK_DRG_STATUS.state once an operation has started (R89): until the next one starts it shows that this one repeated a row or stalled;
then running, or idle after the last word. DESIGN CHOICE, log entry 12: an operation is one command, so no register read falls within. -/
def Block.engState (was b : Block) : Nat :=
  if was.get BLK_DRG_RETRY.count < b.get BLK_DRG_RETRY.count then 4
  else if was.get BLK_DRG_TALL.count < b.get BLK_DRG_TALL.count then 3
  else if b.eng.next + 1 < b.program.length then 1
  else 0

/-- An operation has started: the schedule, the pc and the progress of R435 follow. -/
def Block.advance (b : Block) (env : Env) (st : Nat) (h : Holds) (cost : Nat) : Block :=
  let b := (b.set BLK_DRG_STATUS.pc b.eng.next).set BLK_DRG_STATUS.state st
  ({ b with eng := { b.eng with next := b.eng.next + 1, sched := b.eng.sched.run h cost } } : Block).progress env

/-- A corrected single-bit error (R87, code 0x01). -/
def Block.engineEcc (b : Block) (env : Env) (column : Nat) : Block :=
  let b := (b.drgFault 0x01 column 1 false).count BLK_DRG_ECC.count 1
  b.note env { cell := 1, code := 0x01, op := b.eng.next, outcome := 0, detail := column }

/-- Run one operation of the stride program: the word at the sequencer's place, where it is of the kind `isOp` names. An operation that
waits has streamed no row and read no line, so a residue mismatch or a bad line cannot stop it (R87). -/
def Block.engine (b : Block) (env : Env) (hw : EngineHw) (isOp : SOp → Bool) (run : Block → SOp → Nat → EngOut) : Block :=
  match b.nextWord with
  | none => b
  | some w =>
    match SOp.decode w with
    | none => b.engineStop env 0x06 0 1
    | some op =>
      if !isOp op then b
      else
        match hw with
        | .stop code col done =>
          match run b op done with
          | .ran b' _ _ => b'.engineStop env code col.val (if code = 0x02 then 2 else 1)
          | .bad => b.engineStop env (if code = 0x05 then 0x05 else 0x06) col.val 1
          | .wait => if code = 0x02 ∨ code = 0x07 then b else b.engineStop env code col.val 1
        | _ =>
          let b := match hw with | .ecc col => b.engineEcc env col.val | _ => b
          match run b op 1000000 with
          | .ran b' h c => b'.advance env (b.engState b') h c
          | .bad => b.engineStop env 0x06 0 1
          | .wait => if op.opcode = 9 then b.set BLK_DRG_STATUS.state 2 else b

/-- Lines `line` to `line + n − 1` of one bank. -/
def bankLines (bank line n : Nat) : List Nat := (List.range n).map fun j => spadAddr bank (line + j)

/-- Lines of an operation spread over a mask (R73). -/
def spreadLines (mask line n : Nat) : List Nat := (List.range n).map fun j => maskLine mask line j

/-- Whether `n` lines over a mask stay within line 1,023. -/
def spreadOk (mask line n : Nat) : Bool :=
  let nb := (maskBanks mask).length
  nb != 0 && decide (line + ceilDiv n nb ≤ 1024)

/-- NOP (R74). -/
def runNop (b : Block) (op : SOp) (_ : Nat) : EngOut :=
  match op with
  | .nop n => .ran b .sequencer (n + 1)
  | _ => .bad

/-- LOADW (R75, R67, R85). -/
def runLoadw (b : Block) (op : SOp) (done : Nat) : EngOut :=
  match op with
  | .loadw f tr sparse mask line mb ml =>
    let t := tileLines f
    let mt := scaleLines f sparse + indexLines f sparse
    if b.eng.shadow.isSome then .wait
    else if (sparse && !sparseOk f) || !spreadOk mask line t || decide (1024 < ml + mt) then .bad
    else
      let (b, data) := b.readLines (spreadLines mask line t)
      let (b, metaBytes) := b.readLines (bankLines mb ml mt)
      let nb := (maskBanks mask).length
      let cost := if nbit mask mb then ceilDiv t nb + mt else max (ceilDiv t nb) mt
      if done = 0 then .ran b .load cost
      else .ran { b with eng := { b.eng with shadow := some ⟨f, sparse, tr, data, metaBytes⟩ } } .load cost
  | _ => .bad

/-- The activation row r of a weight-stationary STREAM: its line addresses (R62, R76). -/
def actLines (t : Tile) (bank line r : Nat) : List Nat :=
  if t.sparse then [spadAddr bank (line + r), spadAddr (bank + 1) (line + r)]
  else if t.fmt = .bf16 ∨ t.fmt = .f16 then [spadAddr bank (line + 2 * r), spadAddr bank (line + 2 * r + 1)]
  else [spadAddr bank (line + r)]

/-- The scaled activations of a row (R91, R92). -/
def actRow (a : Fmt) (bytes scales : List Byte) (k : Nat) : Val :=
  scaled a (a.decode (packedAt bytes a.bits k)) (BitVec.ofNat 8 (leAt scales (k / 32) 1))

/-- One weight-stationary row: contributions to slot row `slot` and the waves it stalls (R59). -/
def streamRow (e : Engine) (cols : List (List (Nat × Val))) (clear : Bool) (slot : Nat) (act : Nat → Val) :
    Engine × Nat :=
  let sums := cols.zipIdx.map fun (col, n) => columnSum (e.anchor n) col act
  let tall := sums.foldl (fun m s => max m s.2) 0
  (e.contributeRow clear slot (sums.map Prod.fst), tall - 1)

/-- The rows of a weight-stationary STREAM, from row `r`; `retry` names the row repeated under R87. -/
def streamRows (env : Env) (t : Tile) (a : Fmt) (cols : List (List (Nat × Val))) (clear : Bool) (bank line slot : Nat)
    (scales : List Byte) (retry : Option (Nat × Nat)) : Nat → Nat → Block → Nat → Block × Nat
  | 0, _, b, extra => (b, extra)
  | n + 1, r, b, extra =>
    let (b, bytes) := b.readLines (actLines t bank line r)
    let sb := coveredK t.fmt t.sparse / 32
    let act := actRow a bytes (sliceZ scales (r * sb) sb)
    let (e, stall) := streamRow b.eng cols clear (slot + r) act
    let b : Block := { b with eng := e }
    let b := (b.count BLK_DRG_WAVES.count (wavesPerRow t.fmt)).count BLK_DRG_TALL.count stall
    match retry with
    | some (rr, col) =>
      if rr = r then
        let b := ((b.count BLK_DRG_RETRY.count 1).count BLK_DRG_TALL.count stall).drgFault 0x02 col 2 false
        let b := b.note env { cell := 1, code := 0x02, op := b.eng.next, attempt := 2, outcome := 1, detail := col }
        streamRows env t a cols clear bank line slot scales retry n (r + 1) b (extra + 2 * stall + 1)
      else streamRows env t a cols clear bank line slot scales retry n (r + 1) b (extra + stall)
    | none => streamRows env t a cols clear bank line slot scales retry n (r + 1) b (extra + stall)

/-- Fold the local sums of an output-stationary STREAM into the slots (R64). -/
def osFold (e : Engine) (clear : Bool) (sums : List (List Ap)) : Engine :=
  sums.zipIdx.foldl (fun e (row, m) => e.contributeRow clear m row) e

/-- No local sums. -/
def osZero : List (List Ap) := List.replicate 64 (List.replicate 64 Ap.zero)

/-- One wave of an output-stationary STREAM: the new local sums and the largest number of tall products in a column. -/
def osWave (e : Engine) (a w : Fmt) (arow wrow : List Byte) (sums : List (List Ap)) : List (List Ap) × Nat :=
  let ws := (List.range 64).map fun n => w.decode (packedAt wrow w.bits n)
  let as := (List.range 64).map fun m => a.decode (packedAt arow a.bits m)
  let out := (sums.zip as).map fun (row, am) =>
    (row.zip (ws.zipIdx)).map fun (x, (wn, n)) => x.add (Ap.ofProduct (e.anchor n) (wn.mul am))
  let tall := ws.zipIdx.foldl (fun m (wn, n) =>
    max m (as.foldl (fun c am => c + b2n (isTall (e.anchor n) (wn.mul am))) 0)) 0
  (out, tall - 1)

/-- The waves of an output-stationary STREAM (R64): the local sums fold after every 128 waves and at the end; only the
first fold replaces under `clear`. -/
def osWaves (env : Env) (a w : Fmt) (bank line sbank sline : Nat) (retry : Option (Nat × Nat)) :
    Nat → Nat → Bool → List (List Ap) → Block → Nat → Block × Nat
  | 0, k, clear, sums, b, extra =>
    (if k % 128 = 0 then b else { b with eng := osFold b.eng clear sums }, extra)
  | n + 1, k, clear, sums, b, extra =>
    let (b, arow) := b.readLines [spadAddr bank (line + k)]
    let (b, wrow) := b.readLines [spadAddr sbank (sline + k)]
    let (sums, stall) := osWave b.eng a w arow wrow sums
    let b := (b.count BLK_DRG_WAVES.count 1).count BLK_DRG_TALL.count stall
    let again := match retry with | some (rr, _) => rr == k | none => false
    let col := match retry with | some (_, c) => c | none => 0
    let b := if again then
        (((b.count BLK_DRG_RETRY.count 1).count BLK_DRG_TALL.count stall).drgFault 0x02 col 2 false).note env
          { cell := 1, code := 0x02, op := b.eng.next, attempt := 2, outcome := 1, detail := col }
      else b
    let extra := extra + stall + (if again then stall + 1 else 0)
    if (k + 1) % 128 = 0 then
      osWaves env a w bank line sbank sline retry n (k + 1) false osZero { b with eng := osFold b.eng clear sums } extra
    else osWaves env a w bank line sbank sline retry n (k + 1) clear sums b extra

/-- The row an EngineHw repeats. -/
def retryRowOf : EngineHw → Option (Nat × Nat)
  | .retry r c => some (r, c.val)
  | _ => none

/-- Whether a STREAM stops at a residue mismatch (R87). -/
def residueStopOf : EngineHw → Bool
  | .stop c _ _ => c == 0x02
  | _ => false

/-- A row that is not committed because its repeat mismatches again (R87): it streamed, was repeated once, and stalled in each attempt. -/
def Block.rowLost (b : Block) (waves stall : Nat) : Block :=
  ((b.count BLK_DRG_WAVES.count waves).count BLK_DRG_RETRY.count 1).count BLK_DRG_TALL.count (2 * stall)

/-- STREAM (R76, R57 to R64, R85). -/
def runStream (env : Env) (hw : EngineHw) (b : Block) (op : SOp) (done : Nat) : EngOut :=
  match op with
  | .stream a swap clear os bank line count slot sbank sline wf =>
    if os then
      let n := zeroMeans count 1024
      match Fmt.ofCode wf with
      | none => .bad
      | some w =>
        if !osPairOk w a || slot != 0 || decide (1024 < line + n) || decide (1024 < sline + n) then .bad
        else
          let b : Block := if swap then { b with eng := { b.eng with active := b.eng.shadow, shadow := none } } else b
          let (b, extra) := osWaves env a w bank line sbank sline (retryRowOf hw) (min n done) 0 clear osZero b 0
          let b := if residueStopOf hw && decide (done < n) then
              let row := fun bk ln => (b.readLines [spadAddr bk (ln + done)]).2
              b.rowLost 1 (osWave b.eng a w (row bank line) (row sbank sline) osZero).2
            else b
          .ran b (.lattice swap) ((if bank = sbank then 2 * n else n) + extra)
    else
      match (if swap then b.eng.shadow else b.eng.active) with
      | none => .bad
      | some t =>
        let span := if t.fmt = .bf16 ∨ t.fmt = .f16 then 2 * count else count
        let sb := if a.isMx then coveredK t.fmt t.sparse / 32 else 0
        let sl := ceilDiv (count * sb) 64
        if !pairOk t.fmt a || count == 0 || decide (64 < count) || decide (64 < slot + count) ||
            decide (1024 < line + span) || decide (1024 < sline + sl) || (t.sparse && bank % 2 == 1) ||
            (span != count && line % 2 == 1) then .bad
        else
          let b : Block := if swap then { b with eng := { b.eng with active := some t, shadow := none } } else b
          let (b, scales) := b.readLines (bankLines sbank sline sl)
          let cols := (List.range 64).map t.column
          let (b, extra) :=
            streamRows env t a cols clear bank line slot scales (retryRowOf hw) (min count done) 0 b 0
          let b := if residueStopOf hw && decide (done < count) then
              let bytes := (b.readLines (actLines t bank line done)).2
              let k := coveredK t.fmt t.sparse / 32
              let act := actRow a bytes (sliceZ scales (done * k) k)
              b.rowLost (wavesPerRow t.fmt) (streamRow b.eng cols clear (slot + done) act).2
            else b
          let used := sbank == bank || (t.sparse && sbank == bank + 1)
          .ran b (.lattice swap) (count * wavesPerRow t.fmt + (if used then sl else 0) + extra)
  | _ => .bad

/-- Whether a slot range lies in the edge store. -/
def slotsOk (slot rows : Nat) : Bool := rows != 0 && decide (rows ≤ 64) && decide (slot + rows ≤ 64)

/-- The raw AP160 bytes of slot rows (R77). -/
def Engine.rawRows (e : Engine) (slot rows : Nat) : List Byte :=
  (List.range rows).flatMap fun i => Ap.rowBytes (e.slotRow (slot + i))

/-- DRAIN (R77). -/
def runDrain (b : Block) (op : SOp) (done : Nat) : EngOut :=
  match op with
  | .drain slot rows mask line keep =>
    if !slotsOk slot rows || !spreadOk mask line (24 * rows) then .bad
    else
      let ws := lineWrites (spreadLines mask line (24 * rows)) (b.eng.rawRows slot rows)
      let b := b.writeLines (ws.take done)
      let b : Block := if keep ∨ done < ws.length then b else { b with eng := b.eng.emptySlots slot rows }
      .ran b .edge (rows * ceilDiv 24 (maskBanks mask).length)
  | _ => .bad

/-- ANCHOR (R78). -/
def runAnchor (b : Block) (op : SOp) (done : Nat) : EngOut :=
  match op with
  | .anchor src bank line v =>
    if src && decide (1024 < line + 2) then .bad
    else
      let (b, bytes) := if src then b.readLines (bankLines bank line 2) else (b, [])
      let a := fun n => if src then BitVec.ofNat 16 (leAt bytes (2 * n) 2) else BitVec.ofNat 16 v
      let m := (List.range 64).foldl (fun m n => mset anchorZero m n (a n)) b.eng.anchors
      let b : Block := if done = 0 then b else { b with eng := { b.eng with anchors := m } }
      .ran b .edge (if src then 2 else 1)
  | _ => .bad

/-- The column parameters of a 9-line parameter block (R79). -/
def colParam (clip scale bias : Bool) (params : List Byte) (n : Nat) : ColParam :=
  let f := fun a => Fmt.f32.decode (leAt params a 4)
  ⟨if scale then some (f (4 * n)) else none, if bias then some (f (256 + 4 * n)) else none,
   if clip then some (f 512, f 516) else none⟩

/-- The rounding mode of a column (R105, R106). -/
def roundMode (sr : Bool) (seed stride : Word) (lblock unit element : Nat) : Mode :=
  if sr then .stochastic ((randWord seed stride lblock unit element).toNat % 2 ^ 32) else .nearest

/-- A row of 64 AP160 entries through the output pipeline (R101): data bytes and scale bytes. -/
def pipelineRow (f : Fmt) (clip : Bool) (param : Nat → ColParam) (mode : Nat → Mode) (xs : List Ap) :
    List Byte × List Byte :=
  packRow f clip ((List.range 64).map mode) (xs.zipIdx.map fun (x, n) => (param n).apply x.value)

/-- CONVERT (R79, R101). -/
def runConvert (env : Env) (b : Block) (op : SOp) (done : Nat) : EngOut :=
  match op with
  | .convert f sr clip scale bias slot rows pbank pline mask line =>
    let anyP := clip || scale || bias
    let lines := rows * f.rowLines + (if f.isMx then ceilDiv rows 32 else 0)
    if !slotsOk slot rows || !spreadOk mask line lines || (anyP && decide (1024 < pline + 9)) then .bad
    else
      let (b, params) := if anyP then b.readLines (bankLines pbank pline 9) else (b, [])
      let row := fun i => pipelineRow f clip (colParam clip scale bias params)
        (fun n => roundMode sr env.seeds.1 b.stride b.lblock 0 (4096 * b.eng.next + 64 * (slot + i) + n))
        (b.eng.slotRow (slot + i))
      let out := (List.range rows).map row
      let bytes := out.flatMap Prod.fst ++ out.flatMap Prod.snd
      let ws := lineWrites (spreadLines mask line lines) bytes
      let b := b.writeLines (ws.take done)
      let b : Block := if done < ws.length then b else { b with eng := b.eng.emptySlots slot rows }
      .ran b .edge ((if anyP then 9 else 0) + max rows (ceilDiv lines (maskBanks mask).length))
  | _ => .bad

/-- Waves for which `flits` flits hold the send port (R85). -/
def sendWaves (flits : Nat) : Nat := ceilDiv (21 * flits) 32

/-- SEND (R80, R163): a token where an arc of the stride program names the destination and queue, else a message. -/
def runSend (b : Block) (op : SOp) (done : Nat) : EngOut :=
  match op with
  | .send vc mcast dest queue lines bank line tag =>
    let n := zeroMeans lines 32
    if decide (1024 < line + n) || (mcast && decide (64 ≤ dest)) || (!mcast && decide (1200 ≤ dest)) then .bad
    else
      let (b, bytes) := b.readLines (bankLines bank line n)
      let arc := b.outArc 0x8000 mcast dest queue
      let b := match arc with | some i => if b.arcFree i then b else b.spendCredit i | none => b
      let pk : Pkt := { kind := if arc.isSome then kTOKEN else kMESSAGE, vc := vc, mcast := mcast, isData := true,
                        tag := formTag b.stride tag, qid := queue, length := n - 1, payload := bytes }
      let b := if done = 0 then b else b.send { pkt := pk, idx := dest, origin := .engine }
      .ran b .send (sendWaves (1 + ceilDiv n 2))
  | _ => .bad

/-- One reduce packet of a COMBINE (R81). -/
def reducePkt (stride : Word) (cq tag i : Nat) (bytes : List Byte) : Pkt :=
  { kind := kREDUCE, rop := 1, isData := true, parts := 1, tag := formTag stride (tag + i), qid := 0xF0 + cq,
    length := 23, payload := bytes }

/-- COMBINE (R81). -/
def runCombine (b : Block) (op : SOp) (done : Nat) : EngOut :=
  match op with
  | .combine src dest cq slot rows bank line tag keep =>
    if decide (1200 ≤ dest) || rows == 0 || decide (64 < rows) || (!src && !slotsOk slot rows) ||
        (src && decide (1024 < line + 24 * rows)) then .bad
    else
      let (b, raw) := if src then b.readLines (bankLines bank line (24 * rows)) else (b, b.eng.rawRows slot rows)
      let b := (List.range (min rows done)).foldl (fun b i =>
        b.send { pkt := reducePkt b.stride cq tag i (sliceZ raw (1536 * i) 1536), idx := dest, origin := .engine }) b
      let b : Block := if src ∨ keep ∨ done < rows then b else { b with eng := b.eng.emptySlots slot rows }
      if src then .ran b .send (24 * rows) else .ran b .edgeSend (ceilDiv (273 * rows) 32)
  | _ => .bad

/-- TALLY of the stride program (R82, R302). -/
def runTally (b : Block) (op : SOp) (done : Nat) : EngOut :=
  match op with
  | .tally bank line lines =>
    if lines == 0 || decide (1024 < lines) || decide (1024 < line + lines) then .bad
    else
      let (b, bytes) := b.readLines (bankLines bank line lines)
      let b : Block := if done = 0 then b else { b with tally := b.tally + tallyTerm 1 b.eng.next 0 0 bytes }
      .ran b .tally lines
  | _ => .bad

/-- WAITTAG (R83, R70): it waits for a complete token, consumes it, and may set a predicate. Its consumption is the firing of
the sequencer input node (R147). -/
def runWaittag (b : Block) (op : SOp) (_ : Nat) : EngOut :=
  match op with
  | .waittag q field setp pred =>
    let tag := formTag b.stride field
    let node := b.qNode q
    if decide (240 ≤ q) || b.qKind q != 1 || (match b.node? node with | some n => n.kind != 4 | none => true) then .bad
    else if !b.complete node tag then .wait
    else
      match b.inputEntry node 0 tag with
      | none => .wait
      | some x =>
        let (b, bytes) := b.entryBytes x
        let bit := (leAt bytes 0 1) % 2
        let b : Block := if setp then
            { b with eng := { b.eng with preds := BitVec.ofNat 4 (putBits (b.eng.preds.setWidth 64) pred pred bit).toNat } }
          else b
        let b := b.set BLK_DRG_STATUS.pred b.eng.preds.toNat
        let b := ((b.releaseCtx node tag).freeEntry x.q x.e).count BLK_DF_FIRES.count 1
        .ran b .sequencer 1
  | _ => .bad

/-- SPLICE (R84). -/
def runSplice (b : Block) (op : SOp) (done : Nat) : EngOut :=
  match op with
  | .splice pred dbank dline abank aline bbank bline lines =>
    let n := zeroMeans lines 1024
    if decide (1024 < dline + n) || decide (1024 < aline + n) || decide (1024 < bline + n) then .bad
    else
      let a := b.eng.preds.getLsbD pred
      let sbank := if a then abank else bbank
      let (b, bytes) := b.readLines (bankLines sbank (if a then aline else bline) n)
      let b := b.writeLines ((lineWrites (bankLines dbank dline n) bytes).take done)
      .ran b .copy (if sbank = dbank then 2 * n else n)
  | _ => .bad

/-- The operations, one entry for each row of the table. -/
def Block.opNop (b : Block) (env : Env) (hw : EngineHw) : Block := b.engine env hw (fun o => o.opcode == 0) runNop
def Block.opLoadw (b : Block) (env : Env) (hw : EngineHw) : Block := b.engine env hw (fun o => o.opcode == 1) runLoadw
def Block.opStream (b : Block) (env : Env) (hw : EngineHw) : Block :=
  b.engine env hw (fun o => o.opcode == 2) (runStream env hw)
def Block.opDrain (b : Block) (env : Env) (hw : EngineHw) : Block := b.engine env hw (fun o => o.opcode == 3) runDrain
def Block.opAnchor (b : Block) (env : Env) (hw : EngineHw) : Block := b.engine env hw (fun o => o.opcode == 4) runAnchor
def Block.opConvert (b : Block) (env : Env) (hw : EngineHw) : Block :=
  b.engine env hw (fun o => o.opcode == 5) (runConvert env)
def Block.opSend (b : Block) (env : Env) (hw : EngineHw) : Block := b.engine env hw (fun o => o.opcode == 6) runSend
def Block.opCombine (b : Block) (env : Env) (hw : EngineHw) : Block :=
  b.engine env hw (fun o => o.opcode == 7) runCombine
def Block.opTally (b : Block) (env : Env) (hw : EngineHw) : Block := b.engine env hw (fun o => o.opcode == 8) runTally
def Block.opWaittag (b : Block) (env : Env) (hw : EngineHw) : Block :=
  b.engine env hw (fun o => o.opcode == 9) runWaittag
def Block.opSplice (b : Block) (env : Env) (hw : EngineHw) : Block :=
  b.engine env hw (fun o => o.opcode == 10) runSplice

/-- The engine at the start of a stride (R65): predicates 0, no tile, every slot empty, every anchor 0. -/
def Block.engineBegin (b : Block) : Block :=
  let b : Block := { b with eng := {} }
  let b := (b.set BLK_DRG_STATUS.fault 0).set BLK_DRG_STATUS.pred 0
  b.set BLK_DRG_STATUS.state (if b.program.isEmpty then 0 else 1)

/-- Whether the stride program has completed (R65): every word has run and the local router has taken what it sent. -/
def Block.programDone (b : Block) : Bool :=
  decide (b.program.length ≤ b.eng.next) && !b.mesh.unsent fun o => o == .engine

end Sys2Proof.Machine
end

