-- ==== Sys2Proof/Config.lean ====
section
/-! DEFINITION. The free values: results that the spec leaves open while the machine goes on. None has a body, so a
statement about one holds for every value. `k` counts the steps that draw one (State.freeCtr). -/

namespace Sys2Proof.Config

/-- g1 to g31 of a thread at the start of a task (R121). -/
opaque freeG : Nat → Nat → BitVec 64

/-- v0 to v31 of a thread at the start of a task (R121). -/
opaque freeV : Nat → Nat → BitVec 128

/-- The result of an integer shift by 64 or more: R122 names the shift and states no result there. -/
opaque shiftWide : BitVec 64 → BitVec 64 → BitVec 64

/-- The quotient of the most negative integer by −1: R122 states no result there. -/
opaque divOverflow : BitVec 64

/-- The remainder of the most negative integer by −1. -/
opaque remOverflow : BitVec 64

/-- Lanes 1 to 3 after a reduce-add: R122 gives the sum and no more. -/
opaque reduceRest : Nat → BitVec 96

/-- Vector bits above the converted elements: R122 gives the elements and no more. -/
opaque convertRest : Nat → BitVec 128

/-- The element bits of a NaN converted to an MX element format that has none (R122). -/
opaque mxNan : Nat → Nat

/-- Whether a RESET_N pulse of 1 µs to 10 µs resets the module (R462). -/
opaque resetPulse : Nat → Bool

/-- The bytes of a signature that the attestation key makes at an index over a message (R424); the key is a secret of the
fuses. -/
opaque signature : Nat → Nat → List (BitVec 8) → List (BitVec 8)

/-- The nonce that pairing step 3 sends (R367): the spec gives no source of it. -/
opaque nonce : Nat → List (BitVec 8)

/-- The attestation identity of this module (R367, R368): a secret of its fuses names it. -/
opaque identity : BitVec 64

/-- The opening of an encrypted firmware payload under the device's firmware key (R425): none where it fails. -/
opaque decrypt : List (BitVec 8) → Option (List (BitVec 8))

/-- The gait table that a steward computes for a router (R280): R280 says when, and not which order of service. -/
opaque gaitTable : Nat → Nat → List (BitVec 32)

/-- The µs that the load of a swap takes (R286). -/
opaque swapLoadUs : Nat → Nat

/-- The destination and source addresses of an Ethernet frame between two nodes (R405): the spec names none. -/
opaque macs : Nat → Nat → BitVec 96

/-- The node that an output frame on a fabric port goes to (R405): the spec names none. -/
opaque outputPeer : Nat → Nat

/-- The stride count of the time source at a lock (R53): the exchange of R52 carries four times and no count. -/
opaque sourceStride : Nat → Nat

/-- The time of the source's beat at a lock (R53), for the same reason. -/
opaque sourceTick : Nat → Nat

/-- The node that a sync port's source is (R451): the exchange names none. -/
opaque syncPeer : Nat → Nat

/-- The rate in ppm that an exchange of a follower corrects its timebase to (R52): no rule forms it from the offsets. -/
opaque rateOf : Nat → Int

/-- The least beat period in ns that the tables recomputed for a remount need (R45 step 3): no rule forms it. -/
opaque tablesNeed : Nat → Nat

/-- The code of the event that a swap or an activation with three deferrals raises (R285): R434 lists none. -/
opaque notQuietCode : Nat

/-- The node number of the twin's partner (R405): a HELLO carries none. -/
opaque yokePeer : Nat

/-- How many buffered log records reach flash on the input stage's hold-up (R299: those not yet in flash may be lost). -/
opaque holdUp : Nat → Nat

/-- The code of the event that names a unit whose outputs are in doubt (R333): R434 lists none. -/
opaque suspectCode : Nat

/-- Whether a new microcode or manger firmware passes its known-answer records (R427): the image's contents decide. -/
opaque karPasses : Nat → Bool

/-- The keys that a vendor key set's payload holds (R423, R425): firmware keys and pattern-pack keys; no rule lays it out. -/
opaque keySet : List (BitVec 8) → List (List (BitVec 8)) × List (List (BitVec 8))

/-- Whether a reading in mV lies outside the limits of a region rail set to a voltage (R295, R353): no rule states them. -/
opaque railBad : Nat → Nat → Bool

/-- The pack record that a failing known-answer run names (R434): a step report gives the unit and no record. -/
opaque karRecord : Nat → Nat

/-- Seconds from 1970-01-01 UTC to the module's time zero (R430): the spec gives the module no source of it. -/
opaque utcBase : Nat

/-- Whether neither flash copy of the Farrier's counters is valid at a start (R410, R424): no command of the table damages flash. -/
opaque countersLost : Nat → Bool

/-- Whether the twin has staged the same sequence for the same stride (R283, code 0x57): no message of R366 says so. -/
opaque twinStaged : Nat → Bool

/-- The tally of a record with an item of kind 3 or 4 (R321): nothing says how its code is encoded or its records are counted. -/
opaque recordTally : Nat → Nat → BitVec 64

end Sys2Proof.Config
end

