-- ==== Sys2Proof/Machine/Flags.lean ====
section
/-! DEFINITION. IEEE 754 arithmetic of the grooms with its rounding attribute and sticky flags (R118, R121, R122), the
binary32 sums formed in arrival order (R115), and the integer and vector operations (R122). -/

namespace Sys2Proof.Machine

/-- The sticky flags of an operation (R121): bits [7:3] of the fcsr, invalid highest and inexact lowest. -/
structure FpFlags where
  invalid : Bool := false
  divZero : Bool := false
  overflow : Bool := false
  underflow : Bool := false
  inexact : Bool := false
deriving DecidableEq, Repr

/-- The flags as fcsr bits. -/
def FpFlags.bits (f : FpFlags) : BitVec 8 :=
  BitVec.ofNat 8 (b2n f.invalid * 128 + b2n f.divZero * 64 + b2n f.overflow * 32 + b2n f.underflow * 16 + b2n f.inexact * 8)

/-- Either operation's flags. -/
def FpFlags.or (a b : FpFlags) : FpFlags :=
  ⟨a.invalid || b.invalid, a.divZero || b.divZero, a.overflow || b.overflow, a.underflow || b.underflow,
   a.inexact || b.inexact⟩

/-- The rounding-direction attributes (R118). DESIGN CHOICE, log entry 13: fcsr[2:0] holds them (R121) and no rule gives their codes; the
model takes 0 to nearest even, 1 toward zero, 2 down, 3 up, 4 to nearest away, and 5 to 7 as 0. -/
def roundUp (rm : Nat) (neg : Bool) (odd : Bool) (r p : Nat) : Bool :=
  match rm with
  | 1 => false
  | 2 => neg && r != 0
  | 3 => !neg && r != 0
  | 4 => decide (p ≤ 2 * r)
  | _ => decide (p < 2 * r) || (decide (p = 2 * r) && odd)

/-- Round an exact value other than zero to a binary format with subnormals, `eb` exponent and `fb` fraction bits (R118). DESIGN CHOICE, log
entry 15: IEEE 754 lets tininess be detected before or after rounding, and R118 does not choose; the model detects it before. -/
def roundFp (eb fb rm : Nat) (x : Dy) : Nat × FpFlags :=
  let bias : Int := 2 ^ (eb - 1) - 1
  let emin : Int := 1 - bias
  let neg := decide (x.m < 0)
  let sg := b2n neg * 2 ^ (eb + fb)
  let u := max x.log2 emin - fb
  let p : Nat := if u ≤ x.e then 1 else 2 ^ (u - x.e).toNat
  let m := if u ≤ x.e then (x.abs.at u).toNat else x.m.natAbs
  let q := m / p
  let r := m % p
  let q := if roundUp rm neg (q % 2 == 1) r p then q + 1 else q
  let ix := r != 0
  let uf := ix && decide (x.log2 < emin)
  let y : Dy := ⟨q, u⟩
  if q = 0 then (sg, { inexact := ix, underflow := uf })
  else if bias < y.log2 then
    let toMax := rm == 1 || (rm == 2 && !neg) || (rm == 3 && neg)
    (sg + (if toMax then (2 ^ eb - 1) * 2 ^ fb - 1 else (2 ^ eb - 1) * 2 ^ fb), { overflow := true, inexact := true })
  else (({ ebits := eb, fbits := fb, bias := bias.toNat, big := Dy.zero, sub := true, emax := 0 } : FpSpec).encode neg y,
        { inexact := ix, underflow := uf })

/-- The canonical binary32 NaN (R112). -/
def nan32 : Nat := 0x7FC00000

/-- Whether binary32 bits are a NaN. -/
def isNan32 (n : Nat) : Bool := decide (0x7F800000 < n % 2 ^ 31)

/-- Whether binary32 bits are a signalling NaN. -/
def isSNan32 (n : Nat) : Bool := isNan32 n && !nbit n 22

/-- The sign bit of binary32 bits. -/
def sign32 (n : Nat) : Bool := nbit n 31

/-- A zero of a sign. -/
def zero32 (neg : Bool) : Nat := b2n neg * 2 ^ 31

/-- An exact result as binary32 bits; `zs` is the sign of an exact zero. -/
def finish32 (rm : Nat) (zs : Bool) (v : Val) : Nat × FpFlags :=
  match v with
  | .nan => (nan32, { invalid := true })
  | .inf n => (0x7F800000 + zero32 n, {})
  | .fin d => if d.m = 0 then (zero32 zs, {}) else roundFp 8 23 rm d

/-- binary32 addition. -/
def addF32 (rm a b : Nat) : Nat × FpFlags :=
  if isNan32 a || isNan32 b then (nan32, { invalid := isSNan32 a || isSNan32 b })
  else
    let zs := if sign32 a == sign32 b then sign32 a else rm == 2
    finish32 rm zs ((Fmt.f32.decode a).add (Fmt.f32.decode b))

/-- binary32 multiplication. -/
def mulF32 (rm a b : Nat) : Nat × FpFlags :=
  if isNan32 a || isNan32 b then (nan32, { invalid := isSNan32 a || isSNan32 b })
  else finish32 rm (sign32 a != sign32 b) ((Fmt.f32.decode a).mul (Fmt.f32.decode b))

/-- binary32 fused multiply-add, a × b + c with one rounding (R118). DESIGN CHOICE, log entry 16: zero times infinity plus a quiet NaN raises
invalid, which IEEE 754 leaves open. -/
def fmaF32 (rm a b c : Nat) : Nat × FpFlags :=
  let p := (Fmt.f32.decode a).mul (Fmt.f32.decode b)
  let bad := !isNan32 a && !isNan32 b && p == .nan
  if isNan32 a || isNan32 b || isNan32 c then
    (nan32, { invalid := bad || isSNan32 a || isSNan32 b || isSNan32 c })
  else
    let ps := sign32 a != sign32 b
    let zs := if ps == sign32 c then ps else rm == 2
    finish32 rm zs (p.add (Fmt.f32.decode c))

/-- binary32 minimum and maximum: −0 counts below +0, and a NaN operand gives the canonical NaN (R115). -/
def minMaxF32 (max : Bool) (a b : Nat) : Nat × FpFlags :=
  if isNan32 a || isNan32 b then (nan32, { invalid := isSNan32 a || isSNan32 b })
  else
    let x := Fmt.f32.decode a
    let y := Fmt.f32.decode b
    let less := x.lt y || (x == y && sign32 a && !sign32 b) || (x.isZero && y.isZero && sign32 a && !sign32 b)
    (if less == max then b else a, {})

/-- Comparison of binary32 bits: a lane of ones where it holds, of zeros where it does not. -/
def cmpF32 (k : Nat) (a b : Nat) : Nat × FpFlags :=
  let nan := isNan32 a || isNan32 b
  let x := Fmt.f32.decode a
  let y := Fmt.f32.decode b
  let eq := !nan && !x.lt y && !y.lt x
  let r := match k with | 0 => eq | 1 => !nan && x.lt y | _ => !nan && !y.lt x
  (if r then 0xFFFFFFFF else 0, { invalid := if k = 0 then isSNan32 a || isSNan32 b else nan })

/-- The addition of loose combining and of rop 2 merges (R168, R207): nearest even, any NaN canonical (R115). -/
def looseAdd (a b : Nat) : Nat := (addF32 0 a b).1

/-- One lane of a binary32 operation. -/
def laneF32 (op : F32Op) (rm a b : Nat) : Nat × FpFlags :=
  match op with
  | .add => addF32 rm a b
  | .mul => mulF32 rm a b
  | .min => minMaxF32 false a b
  | .max => minMaxF32 true a b
  | .cmpEq => cmpF32 0 a b
  | .cmpLt => cmpF32 1 a b
  | .cmpLe => cmpF32 2 a b

/-- Lane `i` of `w` bits of a vector. -/
def lane (w : Nat) (v : BitVec 128) (i : Nat) : Nat := (v.toNat / 2 ^ (w * i)) % 2 ^ w

/-- A vector from lanes of `w` bits. -/
def ofLanes (w : Nat) (xs : List Nat) : BitVec 128 :=
  BitVec.ofNat 128 ((xs.zipIdx).foldl (fun a (x, i) => a + x % 2 ^ w * 2 ^ (w * i)) 0)

/-- A lane-wise binary32 operation. -/
def vecF32 (rm : Nat) (f : Nat → Nat × FpFlags) : BitVec 128 × FpFlags :=
  let _ := rm
  let rs := (List.range 4).map f
  (ofLanes 32 (rs.map Prod.fst), rs.foldl (fun a r => a.or r.2) {})

/-- The sum of the four lanes in lane order. -/
def reduceF32 (rm : Nat) (v : BitVec 128) : Nat × FpFlags :=
  (List.range 3).foldl (fun (a : Nat × FpFlags) i =>
    let r := addF32 rm a.1 (lane 32 v (i + 1))
    (r.1, a.2.or r.2)) (lane 32 v 0, {})

/-- Lane-wise integer operations on 8-bit or 16-bit lanes, two's complement (R122). -/
def vecInt (op : VIntOp) (wide : Bool) (d a b : BitVec 128) : BitVec 128 :=
  let w := if wide then 16 else 8
  let n := 128 / w
  let each := fun (f : Int → Int → Int) =>
    ofLanes w ((List.range n).map fun i => unsigned w (f (signed w (lane w a i)) (signed w (lane w b i))))
  let dot := fun (i : Nat) => (List.range (32 / w)).foldl (fun (s : Int) j =>
    s + signed w (lane w a (i * (32 / w) + j)) * signed w (lane w b (i * (32 / w) + j))) 0
  match op with
  | .add => each fun x y => x + y
  | .addSat => each fun x y => saturate w (x + y)
  | .mul => each fun x y => x * y
  | .mulSat => each fun x y => saturate w (x * y)
  | .dot => ofLanes 32 ((List.range 4).map fun i => unsigned 32 (dot i))
  | .dotAcc => ofLanes 32 ((List.range 4).map fun i => unsigned 32 (signed 32 (lane 32 d i) + dot i))

/-- Integer operations on 64-bit words (R122): division by zero returns all ones. -/
def intOp (op : IntOp) (wide : Word → Word → Word) (divOv remOv : Word) (a b : Word) : Word :=
  let shift := fun (f : Nat → Word) => if b.toNat < 64 then f b.toNat else wide a b
  let flag := fun (c : Bool) => if c then 1#64 else 0#64
  let ov := a == BitVec.intMin 64 && b == BitVec.allOnes 64
  match op with
  | .add => a + b
  | .sub => a - b
  | .and => a &&& b
  | .or => a ||| b
  | .xor => a ^^^ b
  | .shl => shift fun n => a <<< n
  | .shr => shift fun n => a >>> n
  | .sar => shift fun n => a.sshiftRight n
  | .eq => flag (a == b)
  | .ne => flag (a != b)
  | .lt => flag (a.slt b)
  | .ltu => flag (a.ult b)
  | .mul => a * b
  | .div => if b = 0 then BitVec.allOnes 64 else if ov then divOv else a.sdiv b
  | .divu => if b = 0 then BitVec.allOnes 64 else a.udiv b
  | .rem => if b = 0 then BitVec.allOnes 64 else if ov then remOv else a.srem b
  | .remu => if b = 0 then BitVec.allOnes 64 else a.umod b

/-- Branch conditions. -/
def condHolds (c : Cond) (a b : Word) : Bool :=
  match c with
  | .eq => a == b
  | .ne => a != b
  | .lt => a.slt b
  | .ge => !a.slt b
  | .ltu => a.ult b
  | .geu => !a.ult b

/-- binary32 bits as binary32: a NaN becomes the canonical one (R115), a signalling one raises invalid. -/
def canonF32 (n : Nat) : Nat × FpFlags := if isNan32 n then (nan32, { invalid := isSNan32 n }) else (n, {})

/-- An element of a format as binary32 bits: binary16 and BF16 subnormals are honoured, integers are exact (R122). -/
def elemToF32 (f : Fmt) (n : Nat) : Nat × FpFlags :=
  match f with
  | .f32 => canonF32 n
  | .bf16 => if isNan32 (n * 65536) then (nan32, { invalid := !nbit n 6 }) else (n * 65536, {})
  | .f16 =>
    let e := nbits n 14 10
    let fr := nbits n 9 0
    let s := nbit n 15
    if e = 31 then (if fr = 0 then (0x7F800000 + zero32 s, {}) else (nan32, { invalid := !nbit n 9 }))
    else
      let m : Nat := if e = 0 then fr else fr + 1024
      let d : Dy := ⟨if s then -(m : Int) else m, (if e = 0 then 1 else (e : Int)) - 25⟩
      finish32 0 s (.fin d)
  | _ =>
    let neg := nbit n (f.bits - 1)
    match f.decode n with
    | .nan => (nan32, {})
    | v => finish32 0 (neg && f.fp.isSome) v

/-- binary32 bits as an element of a format (R122): IEEE 754 with the rounding attribute for binary16 and BF16, R105 to
R109 to nearest even for the others; an MX element saturates (R110). -/
def f32ToElem (f : Fmt) (clip : Bool) (rm : Nat) (mxNan : Nat → Nat) (n : Nat) : Nat × FpFlags :=
  let v := Fmt.f32.decode n
  let ieee := fun (eb fb canon : Nat) =>
    match v with
    | .nan => (canon, ({ invalid := isSNan32 n } : FpFlags))
    | .inf s => (b2n s * 2 ^ (eb + fb) + (2 ^ eb - 1) * 2 ^ fb, {})
    | .fin d => if d.m = 0 then (b2n (sign32 n) * 2 ^ (eb + fb), {}) else roundFp eb fb rm d
  match f with
  | .f32 => canonF32 n
  | .f16 => ieee 5 10 0x7E00
  | .bf16 => ieee 8 7 0x7FC0
  | _ =>
    if f.isMx then
      match v with
      | .nan => (mxNan n, {})
      | .inf s => ((match f.fp with | some sp => sp.encode s sp.big | none => 0), {})
      | v => (mxElement f .nearest 0 v, {})
    else (roundTo f .nearest clip v, {})

end Sys2Proof.Machine
end

