-- ==== Sys2Proof/Machine/Groom.lean ====
section
/-! DEFINITION. Groom threads: registers, the width gatherer, handles, every groom instruction, the outbox and its
patience, and the firing and ending of a task (R119 to R137, R157, R211 to R227). -/

namespace Sys2Proof.Machine

/-- Read g register `r`; g0 reads zero (R121). -/
def Thread.rd (th : Thread) (r : Nat) : Word := if r = 0 then 0 else mget (Config.freeG th.free) th.g r

/-- Write g register `r`; g0 ignores writes (R121). -/
def Thread.wr (th : Thread) (r : Nat) (v : Word) : Thread := if r = 0 then th else { th with g := mins r v th.g }

/-- Read v register `r`. -/
def Thread.rdV (th : Thread) (r : Nat) : BitVec 128 := mget (Config.freeV th.free) th.v r

/-- Write v register `r`. -/
def Thread.wrV (th : Thread) (r : Nat) (v : BitVec 128) : Thread := { th with v := mins r v th.v }

/-- The rounding attribute. -/
def Thread.rm (th : Thread) : Nat := nbits th.fcsr.toNat 2 0

/-- Gather sticky flags. -/
def Thread.sticky (th : Thread) (f : FpFlags) : Thread := { th with fcsr := th.fcsr ||| f.bits }

/-- The next instruction. -/
def Thread.step (th : Thread) : Thread := { th with pc := (th.pc + 1) % 4096 }

/-- The thread of the same pair (R119): threads 0 and 1 of a groom, and 2 and 3. -/
def pairMate (t : Nat) : Nat := t / 2 * 2 + (1 - t % 2)

/-- Whether thread `t` can issue (R119): its block is not halted, it is ready, and round-robin in its pair gives it the turn: the other
thread is not ready, or issued last. -/
def Block.canIssue (b : Block) (t : Nat) : Bool :=
  !b.halted && (b.thread t).state == 1 && ((b.thread (pairMate t)).state != 1 || mget natZero b.turns (t / 2) != t + 1)

/-- Thread `t` takes its pair's turn; the threads of its groom that wait in states 2 to 4 count the issue step (R446; DESIGN CHOICE, log
entry 29: every instruction issued is one issue step of its groom). -/
def Block.issued (b : Block) (t : Nat) : Block :=
  let waits := (List.range 8).filter fun u => u / 4 == t / 4 && decide (2 ≤ (b.thread u).state ∧ (b.thread u).state ≤ 4)
  waits.foldl (fun b u => b.cnt (35 + u) 1) { b with turns := mset natZero b.turns (t / 2) (t + 1) }

/-- An instruction of thread `t` retires with the thread's new state. -/
def Block.retire (b : Block) (t : Nat) (th : Thread) : Block :=
  (b.setThread t { th.step with state := 1, wait := .none }).cnt (27 + t) 1

/-- A groom program fault (R128): the thread stops, and Dispatch ends the job. -/
def Block.programFault (b : Block) (env : Env) (t code : Nat) : Block :=
  let th := b.thread t
  let b := (b.setThread t { th with state := 5 }).set (BLK_GRM_STATE.fault t) code
  let b := b.note env { cell := 2 + t / 4, code := code, op := th.pc, tag := th.tag, outcome := 3 }
  { b with jobFault := b.jobFault <|> some (10, code) }

/-- A lasting fault of a unit (R128): recorded under the cell of that unit, and the block fences itself. -/
def Block.lastingFault (b : Block) (env : Env) (cell code op attempt : Nat) : Block :=
  (b.note env { cell := cell, code := code, op := op, attempt := attempt, outcome := 2 }).fence code

/-- The unit of `cell` reads an uncorrectable scratchpad word (R128, code 0x26): it stops, and the block fences itself. -/
def Block.badWord (b : Block) (env : Env) (cell op : Nat) : Block := b.lastingFault env cell 0x26 op 0

/-- A lasting groom fault: the groom's four threads stop and the block fences itself (R128). -/
def Block.groomStop (b : Block) (env : Env) (t code attempt : Nat) : Block :=
  let g := t / 4
  let b := (List.range 4).foldl (fun b i =>
    let th := b.thread (4 * g + i)
    if th.state = 0 then b else b.setThread (4 * g + i) { th with state := 5 }) b
  (b.set (BLK_GRM_STATE.fault t) code).lastingFault env (2 + g) code (b.thread t).pc attempt

/-- What the hardware does to an instruction (R128), then the instruction. The word that a gatherer reads to merge is recorded under its
bank's cell. -/
def Block.withGroomHw (b : Block) (env : Env) (t : Nat) (hw : GroomHw) (run : Block → Block) : Block :=
  match hw with
  | .none => run b
  | .corrected =>
    run ((b.count BLK_SPD_ECC.count 1).note env { cell := 2 + t / 4, code := 0x24, op := (b.thread t).pc, outcome := 0 })
  | .double => b.groomStop env t 0x25 0
  | .spad none => b.groomStop env t 0x26 0
  | .spad (some bank) => b.badWord env (4 + bank) (b.thread t).pc
  | .residue true =>
    run (b.note env { cell := 2 + t / 4, code := 0x27, op := (b.thread t).pc, attempt := 2, outcome := 1 })
  | .residue false => b.groomStop env t 0x27 2

/-- Thread `t` issues an instruction, if it can (R119). -/
def Block.issue (b : Block) (env : Env) (t : Nat) (hw : GroomHw) (run : Block → Block) : Block :=
  if b.canIssue t then (b.issued t).withGroomHw env t hw run else b

/-- Whether a block register is one a groom may write (R122): the PKH_ and BLK_GRM_ registers. -/
def groomWritable (off : Nat) : Bool :=
  (decide (0x2000 ≤ off) && decide (off < 0x2028)) || (decide (0x2800 ≤ off) && decide (off < 0x2880)) ||
    (decide (0x2900 ≤ off) && decide (off < 0x2948))

/-- An integer, branch, vector, conversion or block-register instruction of thread `th` (R122); `regs` reads a register
of the block's own window. A register write is handed back to the caller. -/
def groomOp (k : Nat) (regs : Nat → Word) (th : Thread) (op : GroomOp) : Thread × Option (Nat × Word) :=
  let go := fun (th : Thread) => (th.step, none)
  match op with
  | .int o rd ra b =>
    let y := match b with | .reg r => th.rd r | .imm v => v
    go (th.wr rd (intOp o Config.shiftWide Config.divOverflow Config.remOverflow (th.rd ra) y))
  | .branch c ra rb t =>
    if condHolds c (th.rd ra) (th.rd rb) then ({ th with pc := t }, none) else go th
  | .jump t => ({ th with pc := t }, none)
  | .jumpReg ra => ({ th with pc := (th.rd ra).toNat % 4096 }, none)
  | .jumpLink rd t => ({ th.wr rd (BitVec.ofNat 64 ((th.pc + 1) % 4096)) with pc := t }, none)
  | .vf32 o vd va vb =>
    let r := vecF32 th.rm fun i => laneF32 o th.rm (lane 32 (th.rdV va) i) (lane 32 (th.rdV vb) i)
    go ((th.wrV vd r.1).sticky r.2)
  | .vfma vd va vb vc =>
    let r := vecF32 th.rm fun i => fmaF32 th.rm (lane 32 (th.rdV va) i) (lane 32 (th.rdV vb) i) (lane 32 (th.rdV vc) i)
    go ((th.wrV vd r.1).sticky r.2)
  | .vreduce vd va =>
    let r := reduceF32 th.rm (th.rdV va)
    go ((th.wrV vd (BitVec.ofNat 128 (r.1 + (Config.reduceRest k).toNat * 2 ^ 32))).sticky r.2)
  | .vint o wide vd va vb => go (th.wrV vd (vecInt o wide (th.rdV vd) (th.rdV va) (th.rdV vb)))
  | .toF32 f vd va =>
    match Fmt.ofCode f with
    | none => go th
    | some fm =>
      let rs := (List.range 4).map fun i => elemToF32 fm (lane fm.bits (th.rdV va) i)
      go ((th.wrV vd (ofLanes 32 (rs.map Prod.fst))).sticky (rs.foldl (fun a r => a.or r.2) {}))
  | .fromF32 f clip vd va =>
    match Fmt.ofCode f with
    | none => go th
    | some fm =>
      let rs := (List.range 4).map fun i => f32ToElem fm clip th.rm Config.mxNan (lane 32 (th.rdV va) i)
      let low := (ofLanes fm.bits (rs.map Prod.fst)).toNat
      let n := 4 * fm.bits
      let v := BitVec.ofNat 128 (low + (Config.convertRest k).toNat / 2 ^ n * 2 ^ n)
      go ((th.wrV vd v).sticky (rs.foldl (fun a r => a.or r.2) {}))
  | .regRead rd off => go (th.wr rd (regs off))
  | .regWrite off ra => (th.step, some (off.val, th.rd ra))
  | .unused => (th, none)

/-- Whether an instruction is program fault 0x21 (R128): an unused opcode, or a register write outside the groom's own registers; a
register read at offset 0x4000 or higher, which no instruction of R122 makes, is counted with them. -/
def groomOpBad : GroomOp → Bool
  | .unused => true
  | .regWrite off _ => !groomWritable off
  | .regRead _ off => decide (0x4000 ≤ off.val)
  | _ => false

/-- The offset of an unaligned block-register access (R5). -/
def GroomOp.skewed : GroomOp → Option Nat
  | .regWrite off _ => if off.val % 8 = 0 then none else some off
  | .regRead _ off => if off.val % 8 = 0 then none else some off
  | _ => none

/-- Whether an instruction has a residue check (R128): an integer multiply or a vector FMA. -/
def GroomOp.checked : GroomOp → Bool
  | .int .mul .. => true
  | .vfma .. => true
  | _ => false

/-- What the hardware can do to an instruction: a residue mismatch only to one that has the check. -/
def GroomHw.on (hw : GroomHw) (checked : Bool) : GroomHw :=
  match hw with
  | .residue ok => if checked then .residue ok else .none
  | h => h

/-- Whether the instruction is not carried out (R128). -/
def GroomHw.stops : GroomHw → Bool
  | .double => true
  | .spad _ => true
  | .residue ok => !ok
  | _ => false

/-- Bytes that a groom load sees: gathered bytes where present, the bank otherwise (R132). -/
def Block.groomByte (b : Block) (a : Nat) : Byte :=
  match b.gather.find? fun e => spadAddr e.bank e.line == a / 64 * 64 with
  | some e => if e.mask.getD (a % 64) false then e.data.getD (a % 64) 0 else b.spad.byte a
  | none => b.spad.byte a

/-- `n` bytes that a groom load sees. -/
def Block.groomBytes (b : Block) (a n : Nat) : List Byte := (List.range n).map fun i => b.groomByte (a + i)

/-- Write a gatherer entry back and free it. -/
def Block.writeback (b : Block) (e : GEntry) : Block :=
  { b with spad := e.writeback b.spad, gather := b.gather.erase e }

/-- The gatherer entry of an address, allocated if there is none; with 16 entries in use the bank's oldest is written
back first (R130). -/
def Block.gatherFor (b : Block) (a : Nat) : Block :=
  let bank := a / 65536 % 8
  if b.gather.any fun e => spadAddr e.bank e.line == a / 64 * 64 then b
  else
    let mine := b.gather.filter fun e => e.bank == bank
    let b := if 16 ≤ mine.length then (match mine with | e :: _ => b.writeback e | [] => b) else b
    { b with gather := b.gather ++ [⟨bank, a / 64 % 1024, List.replicate 64 0, List.replicate 64 false, 0⟩] }

/-- Put bytes into an entry from byte `i` up. -/
def gatherPut (e : GEntry) (i : Nat) : List Byte → GEntry
  | [] => e
  | v :: vs => gatherPut { e with data := e.data.set i v, mask := e.mask.set i true } (i + 1) vs

/-- A groom store (R130): merged into the entry of its line, which is written back when full (R131). -/
def Block.groomPut (b : Block) (t a : Nat) (bytes : List Byte) : Block :=
  let b := b.gatherFor a
  let isHere := fun e : GEntry => spadAddr e.bank e.line == a / 64 * 64
  let put := fun e : GEntry =>
    if isHere e then { gatherPut e (a % 64) bytes with threads := e.threads ||| 2 ^ t } else e
  let b : Block := { b with gather := b.gather.map put }
  match b.gather.find? fun e => isHere e && e.mask.all id with
  | some e => b.writeback e
  | none => b

/-- A release by thread `t` (R131): every entry it stored into is written back. -/
def Block.release (b : Block) (t : Nat) : Block :=
  (b.gather.filter fun e => nbit e.threads t).foldl (fun b e => b.writeback e) b

/-- Whether a scratchpad access is fault 0x22 (R128). -/
def badScratch (a n : Nat) : Bool := a % n != 0 || decide (0x80000 ≤ a)

/-- Extend a loaded value to 64 bits. -/
def extend (sgn : Bool) (n v : Nat) : Word :=
  if sgn then BitVec.ofInt 64 (signed (8 * n) v) else BitVec.ofNat 64 v

/-- Put a loaded value into its register. -/
def Thread.load (th : Thread) (size : GSize) (sgn : Bool) (rd : Nat) (bytes : List Byte) : Thread :=
  match size with
  | .b16 => th.wrV rd (BitVec.ofNat 128 (leNat bytes))
  | _ => th.wr rd (extend sgn size.bytes (leNat bytes))

/-- The bytes that a store writes. -/
def Thread.stored (th : Thread) (size : GSize) (r : Nat) : List Byte :=
  match size with
  | .b16 => leBytes 16 (th.rdV r).toNat
  | s => leBytes s.bytes (th.rd r).toNat

/-- GROOM_LOAD (R132). -/
def Block.doLoad (b : Block) (env : Env) (t : Nat) (size : GSize) (sgn : Bool) (rd ra : Nat) (off : Word) : Block :=
  let th := b.thread t
  let a := (th.rd ra + off).toNat
  if badScratch a size.bytes then b.programFault env t 0x22
  else b.retire t (th.load size sgn rd (b.groomBytes a size.bytes))

/-- GROOM_STORE (R130). -/
def Block.doStore (b : Block) (env : Env) (t : Nat) (size : GSize) (rs ra : Nat) (off : Word) : Block :=
  let th := b.thread t
  let a := (th.rd ra + off).toNat
  if badScratch a size.bytes then b.programFault env t 0x22
  else (b.groomPut t a (th.stored size rs)).retire t th

/-- Where a logical offset of a handle lies (R136). -/
def Block.hdlMap (b : Block) (h o : Nat) : Nat :=
  let row := b.get (HDL_SHAPE.row h)
  if row = 0 then o else o / row * b.get (HDL_SHAPE.stride h) + o % row

/-- The scratch address of tier offset `q` of a scratch handle (R136). -/
def Block.hdlScratch (b : Block) (h q : Nat) : Nat :=
  let base := b.get (HDL_BASE.addr h)
  maskLine (nbits base 7 0) (nbits base 17 8) (q / 64) + q % 64

/-- Where tier offset `q` of a handle lies: a scratch address, or an address of its tier (R136). -/
def Block.tierAddr (b : Block) (h q : Nat) : Nat :=
  if b.get (HDL_CTL.tier h) = 0 then b.hdlScratch h q else b.get (HDL_BASE.addr h) + q

/-- Consecutive addresses of one line together: first address and length. -/
def joinRuns : List Nat → List (Nat × Nat)
  | [] => []
  | a :: as =>
    match joinRuns as with
    | (c, n) :: rs => if c = a + 1 ∧ c % 64 ≠ 0 then (a, n + 1) :: rs else (a, 1) :: (c, n) :: rs
    | [] => [(a, 1)]

/-- The bytes that each run takes. -/
def splitRuns : List (Nat × Nat) → List Byte → List (Nat × List Byte)
  | [], _ => []
  | (a, n) :: rs, bs => (a, sliceZ bs 0 n) :: splitRuns rs (bs.drop n)

/-- Where `n` bytes from a logical offset of a handle lie, each byte mapped by itself (R136), as runs within one line (R238). -/
def Block.handleRuns (b : Block) (h o n : Nat) : List (Nat × Nat) :=
  joinRuns ((List.range n).map fun i => b.tierAddr h (b.hdlMap h (o + i)))

/-- Bytes of the scratchpad that a unit other than a groom reads (R131, R133). -/
def Block.readRuns (b : Block) (runs : List (Nat × Nat)) : Block × List Byte :=
  let b := b.flushLines (runs.map Prod.fst)
  (b, runs.flatMap fun (a, n) => b.spad.bytes a n)

/-- Bytes of the scratchpad that a unit other than a groom writes (R131, R133). -/
def Block.writeRuns (b : Block) : List (Nat × List Byte) → Block
  | [] => b
  | (a, bs) :: ws =>
    let b := b.flushLine a
    ({ b with spad := b.spad.puts a bs } : Block).writeRuns ws

/-- Why a reference is refused (R137, R143): 5 stale, 6 denied, 7 out of range; 0 where it is not. -/
def Block.hdlCheck (b : Block) (h gen o size : Nat) (write : Bool) : Nat :=
  if b.get (HDL_CTL.valid h) = 0 ∨ b.get (HDL_CTL.gen h) ≠ gen % 256 then 5
  else if (if write then b.get (HDL_CTL.wr h) else b.get (HDL_CTL.rd h)) = 0 then 6
  else if b.get (HDL_LEN.length h) < o + size then 7
  else 0

/-- The endpoint number that serves a tier address for a sender in column `x` (R236, R237, R240). -/
def memEndpoint (tier x addr : Nat) : Nat :=
  if tier = 1 then 1280 + 10 * nbits addr 38 36 + x % 10
  else if nbit addr 42 then 1360 + nbits addr 41 0 / 4096 % 12 else 1360 + nbits addr 41 38

/-- A request to a memory tier (R238): the packet goes to the endpoint of its address, with the request's number as tag. -/
def Block.memRequest (b : Block) (env : Env) (tier addr : Nat) (use : ReqUse) (k : Pkt) : Block :=
  let id := b.nextReq % 2 ^ 24
  let b : Block := { b with nextReq := b.nextReq + 1, reqs := b.reqs ++ [⟨id, use⟩] }
  b.send { pkt := { k with tag := id, addr := addr }, idx := memEndpoint tier (env.p % 40) addr, owner := .mem id }

/-- A read of one line. -/
def readPkt : Pkt := { kind := kMEM_READ, payload := [0] }

/-- A byte-masked write of one line (R181). -/
def maskedPkt (line : List Byte) (mask : Nat) : Pkt := { kind := kMEM_WRITE, payload := sliceZ line 0 64 ++ leBytes 8 mask }

/-- A write of whole lines. -/
def linesPkt (bytes : List Byte) : Pkt :=
  { kind := kMEM_WRITE, isData := true, length := ceilDiv bytes.length 64 - 1, payload := bytes }

/-- A request for one line of a handle's tier, or of its node through fabric port `remote` (R238, R242), with its number. -/
def Block.lineRequest (b : Block) (env : Env) (remote h a : Nat) (use : ReqUse) (k : Pkt) : Block × Nat :=
  let id := b.nextReq % 2 ^ 24
  if b.get (HDL_CTL.tier h) = 3 then
    let b : Block := { b with nextReq := b.nextReq + 1, reqs := b.reqs ++ [⟨id, use⟩] }
    (b.send { pkt := { k with tag := id, addr := a, parts := b.get (HDL_CTL.node h) }, idx := 1376 + remote, owner := .mem id }, id)
  else (b.memRequest env (b.get (HDL_CTL.tier h)) a use k, id)

/-- A write of bytes of one line: of the whole line, or under a mask (R181). -/
def bytesPkt (a : Nat) (bs : List Byte) : Pkt :=
  if bs.length = 64 then linesPkt bs
  else maskedPkt (List.replicate (a % 64) 0 ++ bs) ((2 ^ bs.length - 1) * 2 ^ (a % 64))

/-- A groom's store leaves as byte-masked line writes (R145). -/
def Block.handleStores (b : Block) (env : Env) (remote t h : Nat) : List (Nat × List Byte) → Block × List Nat
  | [] => (b, [])
  | (a, bs) :: ws =>
    let (b, id) := b.lineRequest env remote h (a / 64 * 64) (.store t)
      (maskedPkt (List.replicate (a % 64) 0 ++ bs) ((2 ^ bs.length - 1) * 2 ^ (a % 64)))
    let (b, ids) := b.handleStores env remote t h ws
    (b, id :: ids)

/-- A groom's load asks for the lines that it takes bytes of (R145); `pos` is the place of the first byte in its value. -/
def Block.handleLoads (b : Block) (env : Env) (remote t h pos : Nat) : List (Nat × Nat) → Block × List Nat
  | [] => (b, [])
  | (a, n) :: rs =>
    let (b, id) := b.lineRequest env remote h (a / 64 * 64) (.load t pos (a % 64) n) readPkt
    let (b, ids) := b.handleLoads env remote t h (pos + n) rs
    (b, id :: ids)

/-- HANDLE_ACCESS (R137, R145): checked first; a scratch handle is reached at once, another tier by line requests, for whose answers a
load waits; a remote tier goes to the fabric port `remote`. -/
def Block.doHandle (b : Block) (env : Env) (remote : Option Nat) (t : Nat) (write : Bool) (size : GSize)
    (r ref ra : Nat) (off : Word) : Block :=
  let th := b.thread t
  let rf := (th.rd ref).toNat
  let h := nbits rf 5 0
  let o := (th.rd ra + off).toNat
  let n := size.bytes
  if b.hdlCheck h (nbits rf 15 8) o n write ≠ 0 then b.programFault env t 0x23
  else if o % n ≠ 0 then b.programFault env t 0x22
  else
    let q := b.hdlMap h o
    let runs := joinRuns ((List.range n).map fun i => b.tierAddr h (q + i))
    if b.get (HDL_CTL.tier h) = 0 then
      if write then ((splitRuns runs (th.stored size r)).foldl (fun b x => b.groomPut t x.1 x.2) b).retire t th
      else b.retire t (th.load size false r (runs.flatMap fun x => b.groomBytes x.1 x.2))
    else if write then
      let (b, ids) := b.handleStores env (remote.getD 0) t h (splitRuns runs (th.stored size r))
      b.retire t { th with stores := th.stores ++ ids }
    else
      let (b, ids) := b.handleLoads env (remote.getD 0) t h 0 runs
      b.setThread t { th with state := 3, wait := .handle ids r size (List.replicate n 0) }

/-- Put bytes into a list from position `i`. -/
def putAt (got : List Byte) (i : Nat) (bs : List Byte) : List Byte := got.take i ++ bs ++ got.drop (i + bs.length)

/-- A groom's load or store is answered (R238): refused statuses are program faults; an uncorrectable one keeps the
thread waiting. -/
def Block.handleReply (b : Block) (env : Env) (use : ReqUse) (id status : Nat) (bytes : List Byte) : Block :=
  match use with
  | .load t pos off n =>
    let th := b.thread t
    match th.wait with
    | .handle ids rd size got =>
      if status = 3 ∨ !ids.contains id then b
      else if status ≠ 0 then b.programFault env t 0x23
      else
        let got := putAt got pos (sliceZ bytes off n)
        let ids := ids.filter (· != id)
        if ids.isEmpty then b.retire t (th.load size false rd got)
        else b.setThread t { th with wait := .handle ids rd size got }
    | _ => b
  | .store t =>
    let th := b.thread t
    if status = 0 then b.setThread t { th with stores := th.stores.filter (· != id) }
    else if status = 3 then b
    else (b.setThread t { th with stores := th.stores.filter (· != id) }).programFault env t 0x23
  | _ => b

/-- RAND (R120, R106). -/
def Block.doRand (b : Block) (env : Env) (t rd ra : Nat) (seed3 : Bool) : Block :=
  let th := b.thread t
  let seed := if seed3 then env.seeds.2.2.2 else env.seeds.2.2.1
  b.retire t (th.wr rd (randWord seed th.stride b.lblock (0x400 + th.task) ((th.rd ra).toNat % 2 ^ 40)))

/-- The slots of an outbox that are free, lowest first. -/
def Thread.freeSlot (th : Thread) : Option Nat := (List.range 4).find? fun i => (mget slotFree th.outbox i).st == 0

/-- Slot `i`. -/
def Thread.slot (th : Thread) (i : Nat) : OutSlot := mget slotFree th.outbox i

/-- Replace slot `i`. -/
def Thread.setSlot (th : Thread) (i : Nat) (s : OutSlot) : Thread := { th with outbox := mset slotFree th.outbox i s }

/-- The SEND result word (R214). -/
def sendResult (refused gen slot status : Nat) : Word :=
  BitVec.ofNat 64 (refused % 65536 * 2 ^ 32 + gen % 256 * 2 ^ 16 + slot % 4 * 2 ^ 8 + status % 256)

/-- The packet of an outbox slot: a MESSAGE or a WINDOW_WRITE (R213). -/
def Block.slotPkt (b : Block) (s : OutSlot) : Block × Pkt × Nat :=
  let d := SendDest.ofWord s.dst
  let w := SendSrc.ofWord s.srcw
  let (b, bytes) := b.readLines ((List.range w.lines).map fun i => (w.src + 64 * i) % 0x80000)
  let win := nbit s.imm 2
  let data := win || decide (1 < w.lines)
  (b, { kind := if win then kWINDOW_WRITE else kMESSAGE, isData := data, vc := if win then 0 else s.imm % 2,
        mcast := !win && nbit s.imm 1, tag := d.tag, qid := d.queue, incarn := d.incarn,
        length := if data then w.lines - 1 else 0, addr := if win then w.woff else 0, payload := bytes }, d.dest)

/-- Offer the message of a slot (R222). -/
def Block.offer (b : Block) (t i : Nat) : Block :=
  let s := (b.thread t).slot i
  let (b, k, dest) := b.slotPkt s
  let th := b.thread t
  let b := b.setThread t { th.setSlot i { s with st := 1, refused := 0 } with state := 2, wait := .send i }
  b.send { pkt := k, idx := dest, owner := .outbox t i }

/-- The arc of the running task that a SEND's pair names (R211). -/
def Block.taskArc (b : Block) (th : Thread) (mcast : Bool) (d : SendDest) : Option Nat := b.outArc th.node mcast d.dest d.queue

/-- The patience of thread `t` in ns as it stands (R222); no wait makes it zero (R125). -/
def Block.patienceNs (b : Block) (t : Nat) (noWait : Bool) : Nat :=
  if noWait then 0 else 1000 * b.get (BLK_GRM_PATIENCE.limit t)

/-- SEND (R211 to R214, R125, R163). `ctl` says that the destination queue holds control tokens; `groupOk` that a
multicast names a valid group. -/
def Block.doSend (b : Block) (env : Env) (ctl groupOk : Bool) (t a rb rc : Nat) (imm : Nat) : Block :=
  let th := b.thread t
  let dw := th.rd rb
  let sw := th.rd rc
  let d := SendDest.ofWord dw
  let w := SendSrc.ofWord sw
  let mc := nbit imm 1
  let win := nbit imm 2
  let fail := fun (b : Block) (st : Nat) => b.retire t ((b.thread t).wr a (sendResult 0 0 0 st))
  let b := b.release t
  match th.freeSlot with
  | none => fail b 9
  | some i =>
    if w.src % 64 ≠ 0 ∨ (win ∧ w.woff % 64 ≠ 0) then fail b 10
    else if (!mc && decide (1200 ≤ d.dest)) || (mc && (decide (64 ≤ d.dest) || !groupOk)) || (mc && win) then fail b 7
    else
      let s : OutSlot := { st := 1, dst := dw, srcw := sw, imm := imm, rd := a, start := env.now,
                           patience := b.patienceNs t (nbit imm 3) }
      match (if win then none else b.taskArc th mc d) with
      | some arc =>
        if !b.mayEmit arc then (b.creditWait env (waitThread t) arc).setThread t { th with state := 2, wait := .credit arc }
        else
          let (b, bytes) := (b.takeCredit (waitThread t) arc).readLines ((List.range w.lines).map fun j => (w.src + 64 * j) % 0x80000)
          let k : Pkt := { kind := kTOKEN, vc := imm % 2, mcast := mc, isData := !ctl, tag := d.tag, qid := d.queue,
                           length := if ctl then 0 else w.lines - 1, payload := if ctl then sliceZ bytes 0 8 else bytes }
          let b := b.setThread t { th.setSlot i s with state := 2, wait := .send i }
          b.send { pkt := k, idx := d.dest, owner := .outbox t i }
      | none => (b.setThread t (th.setSlot i s)).offer t i

/-- A SEND or retry returns its result word; the thread goes on where it waits for this slot (R214). -/
def Block.sendDone (b : Block) (t i : Nat) (s : OutSlot) (gen status : Nat) : Block :=
  let th := (b.thread t).setSlot i s
  if th.wait = .send i then b.retire t (th.wr s.rd (sendResult s.refused gen i status)) else b.setThread t th

/-- A SEND balks (R222, R225): the message stays in its slot. -/
def Block.balk (b : Block) (t i : Nat) (s : OutSlot) : Block :=
  let b := b.count BLK_GRM_BALKS.count 1
  let b := if s.mutualBalk then b.count BLK_GRM_MUTUAL.count 1 else b
  b.sendDone t i { s with st := 3, status := 1 } 0 1

/-- The answer to the offer of a slot (R214, R222). -/
def Block.answer (b : Block) (env : Env) (t i status gen : Nat) : Block :=
  let s := (b.thread t).slot i
  if s.st ≠ 1 then b
  else if nbit s.imm 1 then b.sendDone t i { s with st := 0, status := 0 } 0 0
  else if status ≠ 1 then
    b.sendDone t i { s with st := 0, status := status } (if status = 2 ∨ status = 4 then gen else 0) status
  else
    let k := s.offers + 1
    let delay := 1000 * min (2 ^ (k - 1)) 64
    let s := { s with offers := k, status := 1 }
    if s.start + s.patience < env.now + delay then b.balk t i s
    else b.setThread t ((b.thread t).setSlot i { s with st := 2, due := env.now + delay })

/-- A token of slot `i` has left the block (R125): the router has accepted it. -/
def Block.tokenLeft (b : Block) (t i : Nat) : Block :=
  let s := (b.thread t).slot i
  if s.st = 1 then b.sendDone t i { s with st := 0, status := 0 } 0 0 else b

/-- REOFFER (R222): the delay has ended. -/
def Block.doReoffer (b : Block) (env : Env) (t i : Nat) : Block :=
  let s := (b.thread t).slot i
  if s.st = 2 ∧ s.due ≤ env.now then (b.count BLK_GRM_REOFFER.count 1).offer t i else b

/-- The messages of a queue, oldest first, that a RECV or POLL matches (R218). -/
def Block.messages (b : Block) (q tag : Nat) (matchTag : Bool) : List QEntry :=
  b.queue.filter fun x => x.q == q && (!matchTag || x.tag == tag)

/-- Whether a queue id is an open message queue. -/
def Block.mqOpen (b : Block) (q : Nat) : Bool :=
  decide (q < 240) && b.qKind q == 2 && b.get (BLK_Q_CFG.closed q) == 0

/-- A RECV returns a status with no message. -/
def Block.recvDone (b : Block) (t a status : Nat) : Block :=
  b.retire t ((b.thread t).wr a (BitVec.ofNat 64 status))

/-- RECV (R125, R218, R220). -/
def Block.doRecv (b : Block) (env : Env) (t a rb rc imm : Nat) : Block :=
  let th := b.thread t
  let q := bitsOf (th.rd rb) 7 0
  let tag := bitsOf (th.rd rb) 31 8
  let dst := (th.rd rc).toNat
  if badScratch dst 64 then b.programFault env t 0x22
  else if !b.mqOpen q then b.recvDone t a 3
  else
    match b.messages q tag (nbit imm 0) with
    | [] =>
      if nbit imm 1 then b.recvDone t a 8
      else b.setThread t { th with state := 2, wait := .recv q tag (nbit imm 0) dst a }
    | x :: _ =>
      let (b, bytes) := b.readLines (b.entryAddrs x.q x.e x.lines)
      let b := b.writeLines (lineWrites ((List.range x.lines).map fun i => (dst + 64 * i) % 0x80000) bytes)
      let b : Block := { b with queue := b.queue.erase x }
      b.retire t ((b.thread t).wr a
        (BitVec.ofNat 64 ((x.lines - 1) * 2 ^ 8 + x.src % 2048 * 2 ^ 13 + x.tag % 2 ^ 24 * 2 ^ 24)))

/-- POLL (R123, R220). -/
def Block.doPoll (b : Block) (t a rb imm : Nat) : Block :=
  let th := b.thread t
  let q := bitsOf (th.rd rb) 7 0
  let n := if b.mqOpen q then (b.messages q (bitsOf (th.rd rb) 31 8) (nbit imm 0)).length else 0
  b.retire t (th.wr a (BitVec.ofNat 64 n))

/-- The handle that an operand register names (R126). -/
def Block.hdlOf (b : Block) (t rb : Nat) : Nat := bitsOf ((b.thread t).rd rb) 5 0

/-- Increment a handle's generation, modulo 256 (R137). -/
def Block.bumpGen (b : Block) (h : Nat) : Block := b.bump (HDL_CTL.gen h)

/-- A HANDLE operation returns a status. -/
def Block.hdlDone (b : Block) (t a status : Nat) : Block := b.retire t ((b.thread t).wr a (BitVec.ofNat 64 status))

/-- HANDLE READ. -/
def Block.doHdlRead (b : Block) (t a rb : Nat) : Block :=
  b.retire t ((b.thread t).wr a (b.word (HDL_CTL.off (b.hdlOf t rb))))

/-- HANDLE REF. -/
def Block.doHdlRef (b : Block) (t a rb : Nat) : Block :=
  let h := b.hdlOf t rb
  b.retire t ((b.thread t).wr a (BitVec.ofNat 64 (h + b.get (HDL_CTL.gen h) * 256)))

/-- Whether a handle is exposed or closing. -/
def Block.exposed (b : Block) (h : Nat) : Bool := b.get (HDL_CTL.window h) == 1 || b.get (HDL_CTL.closing h) == 1

/-- HANDLE OPEN (R126, R227). -/
def Block.doHdlOpen (b : Block) (t a rb : Nat) : Block :=
  let h := b.hdlOf t rb
  if b.get (HDL_CTL.mg h) = 0 ∨ b.get (HDL_CTL.wr h) = 0 ∨ b.get (HDL_CTL.tier h) = 3 ∨
      b.get (HDL_CTL.closing h) = 1 then b.hdlDone t a 6
  else (b.set (HDL_CTL.window h) 1).hdlDone t a 0

/-- HANDLE CLOSE (R126, R230): the first phase. -/
def Block.doHdlClose (b : Block) (env : Env) (t a rb : Nat) : Block :=
  let h := b.hdlOf t rb
  if b.get (HDL_CTL.mg h) = 0 then b.hdlDone t a 6
  else if b.get (HDL_CTL.closing h) = 1 then b.hdlDone t a 0
  else if b.get (HDL_CTL.window h) = 0 then b.hdlDone t a 6
  else
    let b : Block := { b with closeAt := mset natZero b.closeAt h env.now }
    ((b.set (HDL_CTL.closing h) 1).bumpGen h).hdlDone t a 0

/-- HANDLE REBIND (R126, R231). -/
def Block.doHdlRebind (b : Block) (t a rb rc : Nat) : Block :=
  let h := b.hdlOf t rb
  if b.get (HDL_CTL.mg h) = 0 ∨ b.exposed h then b.hdlDone t a 6
  else ((b.set (HDL_BASE.addr h) ((b.thread t).rd rc).toNat).bumpGen h).hdlDone t a 0

/-- HANDLE BUMP (R126, R231). -/
def Block.doHdlBump (b : Block) (t a rb : Nat) : Block :=
  let h := b.hdlOf t rb
  if b.get (HDL_CTL.mg h) = 0 ∨ b.exposed h then b.hdlDone t a 6 else (b.bumpGen h).hdlDone t a 0

/-- TALLY of a groom (R127, R302, R303). -/
def Block.doTally (b : Block) (env : Env) (t rb rc : Nat) : Block :=
  let th := b.thread t
  let a := (th.rd rb).toNat
  let n := (th.rd rc).toNat
  if badScratch a 64 || decide (0x80000 < a + 64 * n) then b.programFault env t 0x22
  else
    let (b, bytes) := b.readLines ((List.range n).map fun i => a + 64 * i)
    let term := tallyTerm 2 th.task th.tag th.tallies bytes
    let b : Block := if th.listed then { b with tally := b.tally + term } else { b with freeTally := b.freeTally + term }
    b.retire t { b.thread t with tallies := th.tallies + 1 }

/-- BALKCHK query (R127). -/
def Block.doBalkQuery (b : Block) (t a rb : Nat) : Block :=
  let th := b.thread t
  let s := th.slot (bitsOf (th.rd rb) 1 0)
  b.retire t (th.wr a (BitVec.ofNat 64 (s.status + (if s.st = 0 then 0 else 256))))

/-- BALKCHK retry (R224): the offer cycle starts anew with the current patience. -/
def Block.doBalkRetry (b : Block) (env : Env) (t a rb : Nat) : Block :=
  let th := b.thread t
  let i := bitsOf (th.rd rb) 1 0
  let s := th.slot i
  if s.st ≠ 3 then b.hdlDone t a 8
  else (b.setThread t (th.setSlot i { s with offers := 0, start := env.now, rd := a, mutualBalk := false,
                                             patience := b.patienceNs t false })).offer t i

/-- BALKCHK discard (R224). -/
def Block.doBalkDiscard (b : Block) (t a rb : Nat) : Block :=
  let th := b.thread t
  let i := bitsOf (th.rd rb) 1 0
  if (th.slot i).st ≠ 3 then b.hdlDone t a 8
  else (b.setThread t (th.setSlot i {})).hdlDone t a 0

/-- YIELD without the end bit (R123). -/
def Block.doYield (b : Block) (t : Nat) : Block := b.retire t (b.thread t)

/-- Whether the conditions of a FENCEWAIT hold (R127); bit 0 holds once the release has written the entries back. -/
def Block.fenceHolds (b : Block) (t imm : Nat) : Bool :=
  let th := b.thread t
  let all := imm % 16 == 0
  let sent := b.mesh.sendq.any fun h => match h.owner with | .outbox u _ => u == t | _ => false
  (!(all || nbit imm 1) || th.stores.isEmpty) && (!(all || nbit imm 2) || !sent) &&
    (!(all || nbit imm 3) || th.posted.isEmpty)

/-- FENCEWAIT (R127). -/
def Block.doFence (b : Block) (t imm : Nat) : Block :=
  let b := if imm % 16 = 0 ∨ nbit imm 0 then b.release t else b
  if b.fenceHolds t imm then b.retire t (b.thread t)
  else b.setThread t { b.thread t with state := 4, wait := .fence imm }

/-- YIELD with the end bit (R127): it waits as FENCEWAIT with all conditions, then the task ends and its firing
completes (R120, R162). -/
def Block.doYieldEnd (b : Block) (env : Env) (t : Nat) : Block :=
  let b := b.release t
  let th := b.thread t
  if b.fenceHolds t 0 then
    let b := (b.setThread t {}).cnt (27 + t) 1
    (b.freeEntries th.held).progress env
  else b.setThread t { th with state := 4, wait := .ending }

/-- The lowest idle thread of a groom (R120). -/
def Block.idleThread (b : Block) (groom : Nat) : Option Nat :=
  (List.range 4).map (4 * groom + ·) |>.find? fun t => (b.thread t).state == 0

/-- The entry value of an input (R157). -/
def Block.entryValue (b : Block) (x : QEntry) : Word :=
  if x.isData then
    BitVec.ofNat 64 ((b.entryAddrs x.q x.e 1).getD 0 0 + (x.lines - 1) * 2 ^ 19 + x.q * 2 ^ 24)
  else BitVec.ofNat 64 (leNat x.bytes)

/-- A task starts on a thread with its entry values (R120, R121, R157, R272). -/
def Block.startTask (b : Block) (env : Env) (t node task : Nat) (tr : TaskRec) (tag : Nat) (stride : Word)
    (listed : Bool) (ins : List (Option QEntry)) : Block :=
  let base : Thread := { state := 1, pc := tr.entry, task := task, node := node, tag := tag, stride := stride,
                         listed := listed, free := env.free }
  let vals := (List.range 8).map fun i =>
    match ins.getD i none with | some x => b.entryValue x | none => 0
  let th := vals.zipIdx.foldl (fun (th : Thread) (v, i) => th.wr (i + 1) v) base
  let th := (th.wr 9 (BitVec.ofNat 64 tag)).wr 10 stride
  let th := tr.vals.zipIdx.foldl (fun (th : Thread) (v, i) => th.wr (11 + i) v) th
  let held := ins.filterMap fun x => x.map fun x => (x.q, x.e)
  b.setThread t { th with held := held }

end Sys2Proof.Machine
end

