-- ==== Sys2Proof/Machine/Dataflow.lean ====
section
/-! DEFINITION. Firings, the Rein and the combining queues (R147 to R170). -/

namespace Sys2Proof.Machine

/-- The queue entries of a complete context, by input. -/
def Block.inputs (b : Block) (node tag : Nat) (n : Nat) : List (Option QEntry) :=
  (List.range n).map fun i => b.inputEntry node i tag

/-- Descriptors in progress. -/
def Block.activeJobs (b : Block) : Nat := (b.jobs.filter fun j => j.started || !j.fromRing).length

/-- The descriptor of a move firing: the template with tag-scaled offsets (R158). -/
def moveDesc (d : Desc) (n : NodeRec) (tag : Nat) : Desc :=
  let t := tag % 65536
  { d with srcOff := (d.srcOff + t * n.srcIndex) % 2 ^ 64, dstOff := (d.dstOff + t * n.dstIndex) % 2 ^ 64 }

/-- Which payload a steer point writes out, and how many tokens it discards (R159): none where GATE discards. -/
def steerChoice (gate : Bool) (pred : Bool) : Option Nat × Nat :=
  if gate then (if pred then (some 1, 0) else (none, 1)) else (some (if pred then 1 else 2), 1)

/-- What a steer point's firing leaves when it completes (R161): its discarded tokens count. -/
def Block.steered (b : Block) (env : Env) (disc : Nat) : Block := (b.count BLK_DF_DISCARD.count disc).progress env

/-- The started firing of a steer point completes once it holds an output credit (R161): the token goes out, and the inputs are freed
with it. -/
def Block.reinGo (b : Block) (env : Env) : Block :=
  match b.reinJob with
  | none => b
  | some j =>
    match b.outputArc j.node 0 with
    | none => b
    | some arc =>
      if !b.mayEmit arc then b.creditWait env waitRein arc
      else
        let (b, bytes) := b.entryBytes j.sel
        let b := ({ b with reinJob := none } : Block).takeCredit waitRein arc
        (b.emitToken env arc j.tag j.sel.isData bytes (.entries j.held j.listed)).steered env j.disc

/-- A complete steer point fires (R152, R159, R161): `none` where the output stage is taken. A firing that writes nothing out is over at
once; any other starts, and waits for its credit after that (R156). -/
def Block.steer (b : Block) (env : Env) (node tag : Nat) (n : NodeRec) (listed : Bool) : Option Block :=
  let ins := b.inputs node tag n.inputs
  let held := ins.filterMap fun x => x.map fun x => (x.q, x.e)
  if b.reinJob.isSome then none
  else
    match ins.getD 0 none with
    | none => none
    | some c =>
      let (b, cb) := b.entryBytes c
      let (sel, disc) := steerChoice (n.mode == 1) (leAt cb 0 1 % 2 == 1)
      let b := (b.releaseCtx node tag).count BLK_DF_FIRES.count 1
      match sel with
      | none => some ((b.freeEntries held).steered env disc)
      | some i =>
        match ins.getD i none with
        | none => none
        | some x => some (({ b with reinJob := some { node := node, tag := tag, sel := x, held := held, disc := disc, listed := listed } } : Block).reinGo env)

/-- Fire a complete node for a tag (R152): `none` where its resource is not free. -/
def Block.fire (b : Block) (env : Env) (node tag : Nat) (stride : Word) (listed : Bool) : Option Block :=
  match b.node? node with
  | none => none
  | some n =>
    if !b.complete node tag then none
    else
      let ins := b.inputs node tag n.inputs
      let held := ins.filterMap fun x => x.map fun x => (x.q, x.e)
      match n.kind with
      | 1 =>
        match b.tasks[n.ref]? with
        | none => none
        | some tr =>
          match b.idleThread tr.groom with
          | none => none
          | some t =>
            let b := b.startTask env t node n.ref tr tag stride listed ins
            some (((b.releaseCtx node tag).count BLK_DF_FIRES.count 1).progress env)
      | 2 =>
        match b.templates[n.ref]? with
        | none => none
        | some d =>
          if 4 ≤ b.activeJobs then none
          else
            let j : PJob := { fromRing := false, index := b.posted, desc := moveDesc d n tag, node := node, tag := tag,
                              stride := stride.toNat, held := held }
            let b : Block := { b with jobs := b.jobs ++ [j], posted := b.posted + 1 }
            some (((b.releaseCtx node tag).count BLK_DF_FIRES.count 1).progress env)
      | 3 => b.steer env node tag n listed
      | _ => none

/-- The scheduler's entry `i` starts (R153, R154). -/
def Block.startEntry (b : Block) (env : Env) (i : Nat) : Option Block :=
  match b.fireList[i]? with
  | none => none
  | some (node, field) =>
    (b.fire env node (formTag b.stride field) b.stride true).map fun b =>
      let done := i :: b.flDone
      let pos := (List.range (b.fireList.length + 1)).find? fun k => !done.contains k
      let b : Block := { b with flDone := done, flPos := pos.getD b.fireList.length }
      (b.set BLK_DF_STATUS.fl_index b.flPos).set BLK_DF_STATUS.state
        (if b.flPos < b.fireList.length then 2 else 3)

/-- Whether the firing scheduler runs. -/
def Block.schedulerRuns (b : Block) : Bool :=
  !b.halted && b.get BLK_DF_STATUS.state != 5 && b.get BLK_DF_STATUS.state != 4

/-- FIRE_LIST_ENTRY_START (R153, R154): in Collected gait only the next entry; in Extended gait the first entry that can
start. -/
def Block.doFireEntry (b : Block) (env : Env) : Block :=
  if !b.schedulerRuns || !b.working then b
  else
    let cand := if b.extended then (List.range b.fireList.length).filter fun i => !b.flDone.contains i else [b.flPos]
    (cand.findSome? fun i => b.startEntry env i).getD b

/-- Whether a fire-list entry names a node. -/
def Block.isListed (b : Block) (node : Nat) : Bool := b.fireList.any fun e => e.1 == node

/-- Whether free nodes may fire (R155). -/
def Block.freeTime (b : Block) : Bool := b.extended || decide (b.fireList.length ≤ b.flPos)

/-- The complete firings of some free nodes, in their order. -/
def Block.freeFirings (b : Block) (nodes : List Nat) : List (Nat × Nat) :=
  nodes.flatMap fun n =>
    if b.isListed n then [] else (b.ctxs.filter fun c => c.node == n && b.complete n c.tag).map fun c => (n, c.tag)

/-- The first firing of a list that can start, and the block after it. -/
def Block.fireFirst (b : Block) (env : Env) (cand : List (Nat × Nat)) : Option ((Nat × Nat) × Block) :=
  cand.findSome? fun x => (b.fire env x.1 x.2 b.stride false).map fun b => (x, b)

/-- FREE_NODE_FIRE (R155): complete free nodes in ascending node number. -/
def Block.doFreeFire (b : Block) (env : Env) : Block :=
  if !b.schedulerRuns || !b.freeTime then b
  else match b.fireFirst env (b.freeFirings (List.range b.nodes.length)) with
    | some (_, b) => b
    | none => b

/-- Whether node `n` is a steer point. -/
def Block.isSteer (b : Block) (n : Nat) : Bool := (b.node? n).any fun r => r.kind == 3

/-- Nodes that are steer points, in steer-point order (R161). -/
def Block.steerOrder (b : Block) : List Nat :=
  (List.range 64).flatMap fun s => (List.range b.nodes.length).filter fun n => (b.node? n).any fun r => r.kind == 3 && r.ref == s

/-- Whether the Rein works: the block is not halted, and not stopped for a scan. -/
def Block.reinRuns (b : Block) : Bool := !b.halted && b.get BLK_DF_STATUS.state != 4

/-- REIN_SELECTION (R155, R161): the started firing goes on; else a complete free steer point fires: in Extended gait in steer-point
order, in Collected gait once the fire list is exhausted, where it stands first among the free nodes that can start. -/
def Block.doRein (b : Block) (env : Env) : Block :=
  if !b.reinRuns then b
  else if b.reinJob.isSome then b.reinGo env
  else if b.extended then
    match b.fireFirst env (b.freeFirings b.steerOrder) with
    | some (_, b) => b
    | none => b
  else if !b.freeTime then b
  else
    match b.fireFirst env (b.freeFirings (List.range b.nodes.length)) with
    | some (x, b') => if b.isSteer x.1 then b' else b
    | none => b

/-- A step of the Rein (R161); `bad` is an uncorrectable word of the token that it moves (R128). -/
def Block.reinStep (b : Block) (env : Env) (bad : Bool) : Block :=
  let b' := b.doRein env
  if bad && b' != b then b.badWord env 15 0 else b'

/-- Slots of a combining queue; 0 means 256. -/
def Block.cqSlots (b : Block) (c : Nat) : Nat := zeroMeans (b.get (BLK_CQ_CFG.slots c)) 256

/-- Lines of a combining-queue slot (R167). -/
def Block.cqLines (b : Block) (c : Nat) : Nat := if b.get (BLK_CQ_CFG.mode c) = 0 then 24 else 4

/-- The line addresses of a slot (R167, R149). -/
def Block.cqAddrs (b : Block) (c slot : Nat) : List Nat :=
  (List.range (b.cqLines c)).map fun k =>
    maskLine (b.get (BLK_CQ_CFG.mask c)) (b.get (BLK_CQ_CFG.line c)) (slot * b.cqLines c + k)

/-- The slot of a key (R167). -/
def Block.cqSlotOf (b : Block) (c key : Nat) : Nat :=
  (key % 65536 + 65536 - b.get (BLK_CQ_FWD.key_base c)) % 65536 % b.cqSlots c

/-- 64 binary32 values added in arrival order (R168). -/
def looseRow (old new : List Byte) : List Byte :=
  (List.range 64).flatMap fun i => leBytes 4 (looseAdd (leAt old (4 * i) 4) (leAt new (4 * i) 4))

/-- A contribution of `parts` to queue `c` (R167, R168); the second result is the number of timing-dependent sums it
made (R49). `bad`: the sum so far holds an uncorrectable word, which the combine unit reads (R128). -/
def Block.contribute (b : Block) (env : Env) (c key parts : Nat) (bytes : List Byte) (bad : Bool) : Block × Nat :=
  let q := 0xF0 + c
  let anchored := b.get (BLK_CQ_CFG.mode c) == 0
  let slot := b.cqSlotOf c key
  let old := b.cqs.find? fun s => s.cq == c && s.slot == slot
  let count := match old with | some s => s.count | none => 0
  if b.get (BLK_CQ_CFG.enable c) = 0 ∨ ceilDiv bytes.length 64 ≠ b.cqLines c then (b.dataflowFault env 0x44 0 q key, 0)
  else if (match old with | some s => s.key != key | none => false) then (b.dataflowFault env 0x42 0 q key, 0)
  else if b.get (BLK_CQ_FWD.count c) < count + parts then (b.dataflowFault env 0x43 0 q key, 0)
  else if bad && old.isSome then (b.badWord env 13 c, 0)
  else
    let addrs := b.cqAddrs c slot
    let (b, cur) := b.readLines addrs
    let out :=
      if old.isNone then bytes
      else if anchored then Ap.rowBytes (Ap.addRow (Ap.rowOfBytes 64 cur) (Ap.rowOfBytes 64 bytes))
      else looseRow cur bytes
    let out := if old.isNone && anchored then Ap.rowBytes (Ap.rowOfBytes 64 bytes) else out
    let b := b.writeLines (lineWrites addrs out)
    let rest := b.cqs.filter fun s => !(s.cq == c && s.slot == slot)
    let b : Block := { b with cqs := rest ++ [{ cq := c, slot := slot, key := key, count := count + parts }] }
    let opened := (b.cqs.filter fun s => s.cq == c).length
    let b := b.set (BLK_CQ_STATE.openS c) opened
    let b := if b.get (BLK_CQ_STATE.peak c) < opened then b.set (BLK_CQ_STATE.peak c) opened else b
    (b, if old.isSome && !anchored then 1 else 0)

/-- The full stride count whose low 8 bits a key names, within −128 to +127 of the present one (R169). -/
def keyStride (now : Word) (key : Nat) : Word :=
  let d := (key / 65536 % 256 + 256 - now.toNat % 256) % 256
  if d < 128 then now + BitVec.ofNat 64 d else now - BitVec.ofNat 64 (256 - d)

/-- The bytes that queue `c` forwards for a slot (R169). -/
def Block.cqOutput (b : Block) (env : Env) (c : Nat) (s : CqSlot) : Block × List Byte :=
  let (b, raw) := b.readLines (b.cqAddrs c s.slot)
  if b.get (BLK_CQ_CFG.mode c) = 1 ∨ b.get (BLK_CQ_CFG.convert c) = 0 then (b, raw)
  else
    match Fmt.ofCode (b.get (BLK_CQ_CFG.ofmt c)) with
    | none => (b, raw)
    | some f =>
      let bit := fun fl => b.get fl == 1
      let clip := bit (BLK_CQ_CFG.clip c)
      let scale := bit (BLK_CQ_CFG.scale c)
      let bias := bit (BLK_CQ_CFG.bias c)
      let (b, params) := if clip || scale || bias then
          b.readLines (bankLines (b.get (BLK_CQ_CFG.pbank c)) (b.get (BLK_CQ_CFG.pline c)) 9) else (b, [])
      let out := pipelineRow f clip (colParam clip scale bias params)
        (fun n => roundMode (b.get (BLK_CQ_CFG.sr c) == 1) env.seeds.1 (keyStride b.stride s.key) b.lblock (0x800 + c)
          (64 * s.key + n)) (Ap.rowOfBytes 64 raw)
      (b, out.1 ++ padTo 64 out.2)

/-- CQ_FORWARD (R169): the slot stays occupied until its token has been taken; `bad` is an uncorrectable word of it (R128). -/
def Block.doForward (b : Block) (env : Env) (c : Nat) (bad : Bool) : Block :=
  match b.cqs.find? fun s => s.cq == c && s.count == b.get (BLK_CQ_FWD.count c) && !s.sent with
  | none => b
  | some s =>
    match b.outputArc 0x8001 c with
    | none => b
    | some arc =>
      if b.halted then b
      else if !b.mayEmit arc then b.creditWait env (waitCq c) arc
      else if bad then b.badWord env 13 c
      else
        let (b, bytes) := b.cqOutput env c s
        let b : Block := if b.get (BLK_CQ_CFG.tally c) = 1 then
            { b with tally := b.tally + tallyTerm 3 c s.key 0 bytes } else b
        let b : Block := { b with cqs := b.cqs.map fun x => if x == s then { x with sent := true } else x }
        (b.takeCredit (waitCq c) arc).emitToken env arc s.key true bytes (.cqSlot c s.slot)

/-- The first packet of the inbox that meets a condition, and the rest. -/
def takeFirst {α : Type} (f : α → Bool) : List α → Option (α × List α)
  | [] => none
  | x :: xs => if f x then some (x, xs) else (takeFirst f xs).map fun (y, ys) => (y, x :: ys)

/-- TOKEN_ARRIVE (R148, R150): the oldest token delivered to the block enters its queue. -/
def Block.doTokenArrive (b : Block) (env : Env) : Block :=
  match takeFirst (fun k : Pkt => k.kind == kTOKEN && decide (k.qid < 240)) b.mesh.inbox with
  | none => b
  | some (k, rest) =>
    match b.enterToken env k.qid k.tag k.isData k.src (b.inboundArc k.qid k.srcidx) k.payload with
    | some b => { b with mesh := { b.mesh with inbox := rest } }
    | none => b

/-- Whether a delivered packet is a contribution to a combining queue (R168). -/
def isContribution (k : Pkt) : Bool := (k.kind == kREDUCE || k.kind == kTOKEN) && decide (240 ≤ k.qid)

/-- CQ_CONTRIBUTE (R168). -/
def Block.doContribute (b : Block) (env : Env) (bad : Bool) : Block × Nat :=
  match takeFirst isContribution b.mesh.inbox with
  | none => (b, 0)
  | some (k, rest) =>
    let b : Block := { b with mesh := { b.mesh with inbox := rest } }
    b.contribute env (k.qid - 240) k.tag (if k.kind = kREDUCE then k.parts else 1) k.payload bad

/-- A credit return (R194): the running total, on top of the totals before its consumer's last restart, on the arc that its payload
names. -/
def Block.takeTotal (b : Block) (k : Pkt) : Block :=
  let i := leAt k.payload 0 2
  let key := match b.arcs[i]? with | some a => returnKey a i k.srcidx | none => i
  { b with returned := mset natZero b.returned key ((mget natZero b.bases key + k.seq) % 65536) }

/-- The injection allowance in 1/64 flit: it has grown since it was last settled, by rate / 64 flit in a flit time of the local link, up
to 19 flits (R202). A link moves 1.6 flits in a ns at 0.80 V, and scales with the region's wave rate (R30, R178). -/
def Block.allowance (b : Block) (env : Env) : Nat :=
  min (19 * 64) (b.mesh.allowance + (env.now - b.mesh.allowAt) * b.get MSH_RATE.rate * 8 * (3240 + 17 * (env.mv - 620)) / 31500)

/-- The allowance is settled, before the rate or the voltage changes. -/
def Block.settle (b : Block) (env : Env) : Block :=
  { b with mesh := { b.mesh with allowance := b.allowance env, allowAt := env.now } }

/-- An echo halves the injection rate once in a stride (R202). -/
def Block.echo (b : Block) (env : Env) : Block :=
  let b := (b.settle env).count MSH_ECHOES.count 1
  let b : Block := { b with mesh := { b.mesh with echoSeen := true } }
  if b.get MSH_RATE.halved = 1 then b
  else (b.set MSH_RATE.rate (max 1 (b.get MSH_RATE.rate / 2))).set MSH_RATE.halved 1

/-- The rate at a beat (R202). -/
def Block.rateBeat (b : Block) (env : Env) : Block :=
  let b := b.settle env
  let b := if b.mesh.echoSeen then b else b.set MSH_RATE.rate (min 64 (b.get MSH_RATE.rate + 4))
  ({ b with mesh := { b.mesh with echoSeen := false } } : Block).set MSH_RATE.halved 0

/-- CREDIT (R162, R194, R201): the oldest credit return delivered to the block, and the echo that it may carry. -/
def Block.doCredit (b : Block) (env : Env) : Block :=
  match takeFirst (fun k : Pkt => k.kind == kCREDIT) b.mesh.inbox with
  | none => b
  | some (k, rest) =>
    let b := ({ b with mesh := { b.mesh with inbox := rest } } : Block).takeTotal k
    if nbit (leAt k.payload 2 1) 1 then b.echo env else b

/-- What the hardware does to a store of the graph (R170), then the step. -/
def Block.withStoreHw (b : Block) (env : Env) (hw : StoreHw) (run : Block → Block) : Block :=
  if b.halted then b
  else match hw with
  | .none => run b
  | .corrected => run (b.note env { cell := 16, code := 0x45, outcome := 0 })
  | .double => ((b.set BLK_DF_STATUS.state 5).set BLK_DF_FAULT.code 0x46).lastingFault env 16 0x46 0 0

/-- The message acceptance of R217: the answer's status and the block after it. -/
def Block.acceptMessage (b : Block) (k : Pkt) : Block × Nat :=
  let q := k.qid
  let lines := if k.isData then k.length + 1 else 1
  if !b.mqOpen q then (b.count BLK_GRM_MQCLOSED.count 1, 3)
  else if !k.mcast && k.incarn != b.get (BLK_Q_CFG.incarn q) then (b.count BLK_GRM_MQSTALE.count 1, 2)
  else if b.qLines q < lines then (b.count BLK_GRM_MQBAD.count 1, 7)
  else
    match b.freeEntryOf q with
    | none => (b.count BLK_GRM_MQFULL.count 1, 1)
    | some e =>
      let b := b.writeLines (lineWrites (b.entryAddrs q e lines) k.payload)
      ({ b with queue := b.queue ++ [{ q := q, e := e, tag := k.tag, isData := true, lines := lines, src := k.src, bytes := [],
                                       arc := none, matched := true }] }, 0)

/-- Threads waiting in a RECV on a queue return QUEUE_CLOSED (R220). -/
def Block.wakeClosed (b : Block) (q : Nat) : Block :=
  (List.range 8).foldl (fun b t =>
    match (b.thread t).wait with
    | .recv q' _ _ _ a => if q' = q ∧ (b.thread t).state = 2 then b.recvDone t a 3 else b
    | _ => b) b

/-- Close of a message queue (R220). -/
def Block.closeQueue (b : Block) (q : Nat) : Block :=
  if 240 ≤ q ∨ b.qKind q ≠ 2 then b.set BLK_GRM_QCTL.result 7
  else if b.get (BLK_Q_CFG.closed q) = 1 then b.set BLK_GRM_QCTL.result 0
  else
    let n := (b.queue.filter fun x => x.q == q).length
    let b := (b.set (BLK_Q_CFG.closed q) 1).count BLK_GRM_MQCLOSED.count n
    (({ b with queue := b.queue.filter fun x => x.q != q } : Block).wakeClosed q).set BLK_GRM_QCTL.result 0

/-- Reopening of a message queue (R220). -/
def Block.reopenQueue (b : Block) (q : Nat) : Block :=
  if 240 ≤ q ∨ b.qKind q ≠ 2 then b.set BLK_GRM_QCTL.result 7
  else if b.get (BLK_Q_CFG.closed q) = 0 then b.set BLK_GRM_QCTL.result 0
  else ((b.set (BLK_Q_CFG.closed q) 0).bump (BLK_Q_CFG.incarn q)).set BLK_GRM_QCTL.result 0

/-- The checks of an arriving window write (R228). -/
def Block.windowCheck (b : Block) (k : Pkt) : Nat :=
  let h := k.qid
  if 64 ≤ h then 4
  else if b.get (HDL_CTL.valid h) = 0 ∨ b.get (HDL_CTL.window h) = 0 ∨ b.get (HDL_CTL.closing h) = 1 ∨
      k.incarn ≠ b.get (HDL_CTL.gen h) then 4
  else if b.get (HDL_CTL.wr h) = 0 then 6
  else if b.get (HDL_LEN.length h) < k.addr + 64 * (k.length + 1) then 7
  else 0

/-- An accepted window write is applied line by line, each byte where R136 maps it: a scratch window as wide writes (R133), a DRAM
window as requests within a line (R238), whose completion the acknowledgement awaits (R229). -/
def Block.applyWindow (b : Block) (env : Env) (k : Pkt) : Block :=
  let h := k.qid
  (List.range (k.length + 1)).foldl (fun b i =>
    let ws := splitRuns (b.handleRuns h (k.addr + 64 * i) 64) (sliceZ k.payload (64 * i) 64)
    if b.get (HDL_CTL.tier h) = 0 then b.writeRuns ws
    else ws.foldl (fun b w => (b.lineRequest env 0 h (w.1 / 64 * 64) (.window h k.src k.vc k.seq) (bytesPkt w.1 w.2)).1) b) b

/-- Whether a window write accepted before a close is still on its way to its tier (R229, R230). -/
def Block.windowPending (b : Block) (h : Nat) : Bool :=
  b.reqs.any fun r => match r.use with | .window h' _ _ _ => h' == h | _ => false

/-- The second phase of a close (R230). -/
def Block.doCloseComplete (b : Block) (h : Nat) : Block :=
  if b.get (HDL_CTL.closing h) = 1 ∧ ¬ b.windowPending h then
    (b.set (HDL_CTL.window h) 0).set (HDL_CTL.closing h) 0
  else b

/-- The second phase has not completed after 1 ms (R230): an event, and the block keeps waiting. -/
def Block.doCloseTimeout (b : Block) (env : Env) (h : Nat) : Block :=
  if b.get (HDL_CTL.closing h) = 1 ∧ b.windowPending h ∧
      mget natZero b.closeAt h + 1000000 ≤ env.now then
    b.note env { cell := 0, code := 0xB4, detail := h }
  else b

end Sys2Proof.Machine
end

