-- ==== Sys2Proof/Machine/Memory.lean ====
section
/-! DEFINITION. The memory tiers: tier addresses and views (R236, R240), the checks of a request (R238), signed ranges
and row signatures (R259), and the manger engines' calls and arithmetic (R244 to R251). -/

namespace Sys2Proof.Machine

/-- The DRAM tiers as a step sees them: their bytes, the capacity of each DDR5 channel in bytes (0 where it has failed
or is absent), the enabled signed ranges and tables as (first byte, length) of the HBM4 space, and the lines that the step
has written, as (tier, address). -/
structure Tiers where
  hbm : Memory
  ddr : Memory
  caps : List Nat
  protected_ : List (Nat × Nat)
  wrote : List (Nat × Nat) := []
deriving DecidableEq, Repr

/-- The place of an HBM4 tier address in the linear order: stack, channel, byte (R236). -/
def hbmKey (a : Nat) : Nat :=
  let place :=
    if nbit a 39 then nbits a 12 8 * 2 ^ 31 + (nbits a 35 13 * 256 + nbits a 7 0) else nbits a 35 0
  nbits a 38 36 * 2 ^ 36 + place

/-- The linear HBM4 tier address of a key. -/
def hbmLinear (k : Nat) : Nat := k

/-- The channel of a DDR5 tier address and the byte within it (R240). -/
def ddrPlace (a : Nat) : Nat × Nat :=
  if nbit a 42 then
    let s := nbits a 41 0
    (s / 4096 % 12, s / 49152 * 4096 + s % 4096)
  else (nbits a 41 38, nbits a 37 0)

/-- The place of a DDR5 tier address in the order of channels and bytes. -/
def ddrKey (a : Nat) : Nat := (ddrPlace a).1 * 2 ^ 38 + (ddrPlace a).2

/-- The smallest capacity of the DDR5 channels (R240). -/
def Tiers.minCap (t : Tiers) : Nat := t.caps.foldl min (t.caps.headD 0)

/-- Whether a DDR5 address is in range (R240). -/
def Tiers.ddrOk (t : Tiers) (a : Nat) : Bool :=
  a / 2 ^ 43 == 0 &&
    (if nbit a 42 then decide (nbits a 41 0 < 12 * t.minCap)
     else decide ((ddrPlace a).1 < 12) && decide ((ddrPlace a).2 < t.caps.getD (ddrPlace a).1 0))

/-- Whether an HBM4 address has no reserved bit set and lies outside call space (R236, R238). -/
def hbmOk (a : Nat) : Bool := a / 2 ^ 40 == 0

/-- Whether an address of a tier is in range. -/
def Tiers.inRange (t : Tiers) (tier a : Nat) : Bool := if tier = 1 then hbmOk a else t.ddrOk a

/-- Whether a line overlaps an enabled signed range or its table (R259). -/
def Tiers.isSigned (t : Tiers) (key : Nat) : Bool :=
  t.protected_.any fun (lo, n) => decide (lo < key + 64) && decide (key < lo + n)

/-- The memory status of a request of `lines` lines (R238): alignment is judged before range. -/
def Tiers.status (t : Tiers) (tier a lines : Nat) (write : Bool) : Nat :=
  if a % 64 ≠ 0 ∨ 4096 < a % 4096 + 64 * lines then 2
  else if !t.inRange tier a || !t.inRange tier (a + 64 * lines - 1) then 1
  else if write && tier == 1 && (List.range lines).any fun i => t.isSigned (hbmKey (a + 64 * i)) then 4
  else 0

/-- Read one line of a tier. -/
def Tiers.line (t : Tiers) (tier a : Nat) : List Byte :=
  if tier = 1 then t.hbm.bytes (hbmKey a) 64 else t.ddr.bytes (ddrKey a) 64

/-- Read lines from an address up, each at its own place. -/
def Tiers.lines (t : Tiers) (tier a n : Nat) : List Byte := (List.range n).flatMap fun i => t.line tier (a + 64 * i)

/-- Write one line of a tier under a byte mask. -/
def Tiers.putMasked (t : Tiers) (tier a : Nat) (bytes : List Byte) (mask : Nat) : Tiers :=
  let ms := (sliceZ bytes 0 64).zipIdx.map fun (b, i) => (b, nbit mask i)
  let t : Tiers := { t with wrote := t.wrote ++ [(tier, a)] }
  if tier = 1 then { t with hbm := t.hbm.putsMasked (hbmKey a) ms } else { t with ddr := t.ddr.putsMasked (ddrKey a) ms }

/-- Write one line of a tier. -/
def Tiers.putLine (t : Tiers) (tier a : Nat) (bytes : List Byte) : Tiers :=
  let t : Tiers := { t with wrote := t.wrote ++ [(tier, a)] }
  if tier = 1 then { t with hbm := t.hbm.puts (hbmKey a) (sliceZ bytes 0 64) }
  else { t with ddr := t.ddr.puts (ddrKey a) (sliceZ bytes 0 64) }

/-- Write lines from an address up. -/
def Tiers.putLines (t : Tiers) (tier a : Nat) (bytes : List Byte) : Tiers :=
  (List.range (ceilDiv bytes.length 64)).foldl (fun t i => t.putLine tier (a + 64 * i) (sliceZ bytes (64 * i) 64)) t

/-- Bytes from any address of a tier. -/
def Tiers.bytesAt (t : Tiers) (tier a n : Nat) : List Byte :=
  if n = 0 then []
  else sliceZ (t.lines tier (a / 64 * 64) ((a % 64 + n + 63) / 64)) (a % 64) n

/-- The row signatures of a range (R259): unit i's CRC-64 at the table address + 8i. -/
def signUnits (m : Memory) (base table : Nat) : Nat → Memory
  | 0 => m
  | n + 1 =>
    let m := signUnits m base table n
    m.puts (table + 8 * n) (leBytes 8 (crc64 (m.bytes (base + 1024 * n) 1024)).toNat)

/-- A manger program record (R245). -/
structure MgrRec where
  op : Nat
  wfmt : Nat
  afmt : Nat
  mode : Nat
  k : Nat
  n : Nat
  base : Nat
  rowStep : Nat
  scaleOff : Nat
  anchor : Nat
deriving DecidableEq, Repr

/-- The record that 64 bytes hold. -/
def MgrRec.ofBytes (bs : List Byte) : MgrRec :=
  ⟨leAt bs 0 1, leAt bs 1 1, leAt bs 2 1, leAt bs 3 1, leAt bs 4 2, leAt bs 6 2, leAt bs 8 8, leAt bs 16 4, leAt bs 20 4,
   leAt bs 24 2⟩

/-- A call line (R246). -/
structure CallLine where
  prog : Nat
  flags : Nat
  rq : Nat
  g : Nat
  tag : Nat
  off : Nat
  off2 : Nat
  count : Nat
  shift : Nat
  sigma : Nat
  a1 : Nat
  a2 : Nat
  a3 : Nat
  vaddr : Nat
  reservedZero : Bool
deriving DecidableEq, Repr

/-- The call line that 64 bytes hold. -/
def CallLine.ofBytes (bs : List Byte) : CallLine :=
  ⟨leAt bs 0 1, leAt bs 1 1, leAt bs 2 1, leAt bs 3 1, leAt bs 4 3, leAt bs 8 8, leAt bs 16 8, leAt bs 24 4, leAt bs 28 4,
   leAt bs 32 4, leAt bs 36 2, leAt bs 38 2, leAt bs 40 2, leAt bs 48 8,
   zeroAt bs 7 1 && zeroAt bs 42 6 && zeroAt bs 56 8 && nbits (leAt bs 1 1) 7 2 == 0⟩

/-- A call in an engine's queue (R247): its record and line, its vector store, who called, and its rows once computed. -/
structure Call where
  record : MgrRec
  chan : Nat
  line : CallLine
  vec : List Byte
  srcidx : Nat
  port : Nat
  rows : Option (List (List Byte)) := none
  steps : Nat := 0
deriving DecidableEq, Repr

/-- Whether the weight and activation formats of a record are a manger pair (R244). -/
def mangerPair (w a : Nat) : Bool :=
  match Fmt.ofCode w, Fmt.ofCode a with
  | some w, some a =>
    ((w.fp8 || w == .mx8e4m3 || w == .mx8e5m2 || w == .mx4) && (a.fp8 || a == .mx8e4m3 || a == .mx8e5m2)) ||
      (w == .int8 && a == .int8)
  | _, _ => false

/-- Whether a record's places are multiples of 64 within the channel (R245). -/
def MgrRec.aligned (r : MgrRec) : Bool := r.base % 64 == 0 && r.rowStep % 64 == 0 && decide (r.base < 2 ^ 31)

/-- Whether a record keeps the limits of R245. -/
def MgrRec.ok (r : MgrRec) : Bool :=
  r.aligned &&
  match r.op with
  | 1 => mangerPair r.wfmt r.afmt && r.k % 32 == 0 && decide (32 ≤ r.k) && decide (r.k ≤ 32768) && decide (1 ≤ r.n) &&
      decide (r.n ≤ 1024) && r.mode == 0
  | 2 => mangerPair r.wfmt r.afmt && r.k % 64 == 0 && decide (64 ≤ r.k) && decide (r.k ≤ 256) && r.mode == 0
  | 3 => decide (1 ≤ r.n) && decide (r.n ≤ 32) && decide (r.mode ≤ 1)
  | _ => false

/-- The format of a code; E4M3 stands for one that is not used, which no accepted record holds. -/
def fmtOr (c : Nat) : Fmt := (Fmt.ofCode c).getD .e4m3

/-- Bytes of one vector of `k` elements with its MX scales (R249). -/
def vecBytes (f : Fmt) (k : Nat) : Nat := k * f.bits / 8 + (if f.isMx then k / 32 else 0)

/-- Bytes of the vector area of a call. -/
def callVecBytes (r : MgrRec) (l : CallLine) : Nat :=
  match r.op with
  | 1 => l.g * vecBytes (fmtOr r.afmt) r.k
  | 2 => l.g * vecBytes (fmtOr r.afmt) r.k
  | _ => 4 * l.count

/-- Result rows of a call (R249 to R251). -/
def callRows (r : MgrRec) (l : CallLine) : Nat :=
  match r.op with
  | 1 => l.g * ceilDiv r.n 64
  | 2 => l.g * (r.k / 64) + 1
  | 3 => if r.mode = 0 then l.count else 0
  | _ => 0

/-- Element `i` of vector `b` of a vector area, scaled (R249). -/
def vecElem (f : Fmt) (k : Nat) (vec : List Byte) (b i : Nat) : Val :=
  let v := sliceZ vec (b * vecBytes f k) (vecBytes f k)
  scaled f (f.decode (packedAt v f.bits i)) (BitVec.ofNat 8 (leAt v (k * f.bits / 8 + i / 32) 1))

/-- Whether bytes of a channel lie within its linear view. -/
def chanOk (lo n : Nat) : Bool := decide (lo + n ≤ 2 ^ 31)

/-- Bytes from the first to the last of `rows` rows of `n` elements. -/
def rowsSpan (r : MgrRec) (rows n : Nat) : Nat := (rows - 1) * r.rowStep + ceilDiv (n * (fmtOr r.wfmt).bits) 8

/-- The acceptance check of a call (R247, R249 to R251), its vector store filled. `signed` lists the protected bytes of
the stack's linear view. -/
def callOk (r : MgrRec) (l : CallLine) (vec : List Byte) (inline : Nat) (prot : List (Nat × Nat)) : Bool :=
  let mem := nbit l.flags 0
  let need := callVecBytes r l
  let lo := r.base + l.off
  r.ok && l.reservedZero && decide (l.prog < 64) && (mem || decide (need ≤ inline)) && decide (need ≤ 32768) &&
  match r.op with
  | 1 => decide (1 ≤ l.g) && decide (l.g ≤ 8) && decide (l.g * (r.k * (fmtOr r.afmt).bits / 8) ≤ 32768) &&
      decide (l.g * r.n ≤ 1024) && chanOk lo (max (r.k * r.rowStep) (rowsSpan r r.k r.n)) &&
      (!(fmtOr r.wfmt).isMx || chanOk (lo + r.scaleOff) (r.k / 32 * r.n))
  | 2 => decide (1 ≤ l.g) && decide (l.g ≤ 8) && decide (1 ≤ l.count) && decide (l.count ≤ 65536) &&
      [lo, r.base + l.off2].all fun a => chanOk a (rowsSpan r l.count r.k) &&
        (!(fmtOr r.wfmt).isMx || chanOk (a + r.scaleOff) (l.count * (r.k / 32)))
  | 3 => l.g == 0 && decide (1 ≤ l.count) && decide (l.count ≤ 8192) &&
      ((List.range l.count).all fun i => chanOk (lo + leAt vec (4 * i) 4 * r.rowStep) (64 * r.n)) &&
      (r.mode == 0 || (decide (l.off2 % 64 = 0) && decide (l.off2 + l.count * 64 * r.n ≤ 2 ^ 36) &&
        !prot.any fun (a, n) => decide (a < l.off2 + l.count * 64 * r.n) && decide (l.off2 < a + n)))
  | _ => false

/-- The anchors of a call: the record's, or the call's own (R246). -/
def callAnchor (r : MgrRec) (l : CallLine) (own : Nat) : BitVec 16 :=
  BitVec.ofNat 16 (if nbit l.flags 1 then own else r.anchor)

/-- One weight of a GEMV (R249): row `k`, output `n`, of channel bytes from key `ch`. -/
def gemvWeight (m : Memory) (ch : Nat) (r : MgrRec) (l : CallLine) (k n : Nat) : Val :=
  let f := fmtOr r.wfmt
  let at_ := ch + r.base + l.off
  let row := at_ + k * r.rowStep
  let bit := f.bits * n
  let e := (leNat (m.bytes (row + bit / 8) 2) >>> (bit % 8)) % 2 ^ f.bits
  scaled f (f.decode e) (m.byte (at_ + r.scaleOff + k / 32 * r.n + n))

/-- The rows of a GEMV (R249). -/
def gemvRows (m : Memory) (ch : Nat) (r : MgrRec) (l : CallLine) (vec : List Byte) : List (List Byte) :=
  let a := callAnchor r l l.a1
  (List.range l.g).flatMap fun b =>
    (List.range (ceilDiv r.n 64)).map fun j =>
      Ap.rowBytes ((List.range 64).map fun i =>
        let n := 64 * j + i
        if r.n ≤ n then Ap.zero
        else (List.range r.k).foldl (fun s k =>
          s.add (Ap.ofProduct a ((vecElem (fmtOr r.afmt) r.k vec b k).mul (gemvWeight m ch r l k n)))) Ap.zero)

/-- ln 2 as a multiple of 2^−320. -/
def ln2Fix : Nat := 0xb17217f7d1cf79abc9e3b39803f2f6af40f343267298b62d8a0d175b8baafa2be7b876206debac98

/-- The Taylor sum of e^r for r in units of 2^−320, from term `n` down to 0 (Horner's order). -/
def expTaylor (r : Nat) : Nat → Nat → Nat
  | 0, acc => acc
  | n + 1, acc => expTaylor r n (2 ^ 320 + acc * r / ((n + 1) * 2 ^ 320))

/-- The correctly rounded binary32 exponential (R250), subnormals honoured: 320 fraction bits decide every binary32
argument. -/
def expF32 (u : Nat) : Nat :=
  match Fmt.f32.decode u with
  | .nan => nan32
  | .inf true => 0
  | .inf false => 0x7F800000
  | .fin d =>
    if d.m = 0 then 0x3F800000
    else if decide (8 ≤ d.log2) then (if d.m < 0 then 0 else 0x7F800000)
    else
      let x : Int := d.at (-320)
      let k : Int := x / ln2Fix
      let r : Nat := (x - k * ln2Fix).toNat
      (roundFp 8 23 0 ⟨expTaylor r 90 (2 ^ 320), k - 320⟩).1

/-- A key or value element of position `t` (R250). -/
def kvElem (m : Memory) (ch : Nat) (r : MgrRec) (off t i : Nat) : Val :=
  let f := fmtOr r.wfmt
  let at_ := ch + r.base + off
  let bit := f.bits * i
  let e := (leNat (m.bytes (at_ + t * r.rowStep + bit / 8) 2) >>> (bit % 8)) % 2 ^ f.bits
  scaled f (f.decode e) (m.byte (at_ + r.scaleOff + t * (r.k / 32) + i / 32))

/-- The score weight p of query `i` at position `t` (R250). -/
def attendP (m : Memory) (ch : Nat) (r : MgrRec) (l : CallLine) (vec : List Byte) (i t : Nat) : Val :=
  let a2 := callAnchor r l l.a2
  let s := (List.range r.k).foldl (fun s j =>
    s.add (Ap.ofProduct a2 ((vecElem (fmtOr r.afmt) r.k vec i j).mul (kvElem m ch r l.off t j)))) Ap.zero
  let sb := roundTo .f32 .nearest false s.value
  let negShift := if isNan32 l.shift then nan32 else (l.shift + 2 ^ 31) % 2 ^ 32
  Fmt.f32.decode (expF32 (fmaF32 0 l.sigma sb negShift).1)

/-- The rows of a DECODE_ATTEND (R250). -/
def attendRows (m : Memory) (ch : Nat) (r : MgrRec) (l : CallLine) (vec : List Byte) : List (List Byte) :=
  let a1 := callAnchor r l l.a1
  let a3 := callAnchor r l l.a3
  let ps := (List.range l.g).map fun i => (List.range l.count).map fun t => attendP m ch r l vec i t
  let num := ps.flatMap fun p =>
    (List.range (r.k / 64)).map fun j =>
      Ap.rowBytes ((List.range 64).map fun n =>
        p.zipIdx.foldl (fun s (x, t) => s.add (Ap.ofProduct a1 (x.mul (kvElem m ch r l.off2 t (64 * j + n))))) Ap.zero)
  let den := (List.range 64).map fun i =>
    (ps.getD i []).foldl (fun s x => s.add (Ap.ofProduct a3 x)) Ap.zero
  num ++ [Ap.rowBytes den]

/-- The gathered rows (R251). -/
def gatherRows (m : Memory) (ch : Nat) (r : MgrRec) (l : CallLine) (vec : List Byte) : List (List Byte) :=
  (List.range l.count).map fun i => m.bytes (ch + r.base + l.off + leAt vec (4 * i) 4 * r.rowStep) (64 * r.n)

/-- Lane steps of a call (R249, R250). -/
def callSteps (r : MgrRec) (l : CallLine) : Nat :=
  match r.op with
  | 1 => l.g * r.k * ceilDiv r.n 128
  | 2 => l.g * l.count * (r.k / 64) + ceilDiv (l.g * l.count) 16
  | _ => 0

end Sys2Proof.Machine
end

