-- ==== Sys2Proof/Machine/Sha.lean ====
section
/-! DEFINITION. SHA-256 (FIPS 180-4) and the verification of a single-level LMS signature (RFC 8554) with
LMS_SHA256_M32_H20 and LMOTS_SHA256_N32_W4, which R268, R269, R320 and R422 name. -/

namespace Sys2Proof.Machine

/-- The digits, from bit `n` - 1 down, of the largest number whose `k`-th power is at most `x`; `r` holds those above. -/
def rootFrom (k x : Nat) : Nat → Nat → Nat
  | 0, r => r
  | n + 1, r => rootFrom k x n (if (r + 2 ^ n) ^ k ≤ x then r + 2 ^ n else r)

/-- The first 32 bits of the fraction of the `k`-th root of `p`: how FIPS 180-4 forms its constants. -/
def rootFraction (k p : Nat) : BitVec 32 := BitVec.ofNat 32 (rootFrom k (p * 2 ^ (32 * k)) 37 0)

/-- The 64 primes below 312. -/
def shaPrimes : List Nat := (List.range 312).filter fun p => decide (2 ≤ p) && (List.range 18).all fun d => d < 2 || p ≤ d || p % d != 0

/-- The round constants: from the cube roots of the primes. -/
def shaK : List (BitVec 32) := shaPrimes.map (rootFraction 3)

/-- A starting word: from the square root of the `i`-th prime. -/
def shaStart (i : Nat) : BitVec 32 := rootFraction 2 (shaPrimes.getD i 0)

/-- The eight working words of SHA-256. -/
structure Sha where
  a : BitVec 32 := shaStart 0
  b : BitVec 32 := shaStart 1
  c : BitVec 32 := shaStart 2
  d : BitVec 32 := shaStart 3
  e : BitVec 32 := shaStart 4
  f : BitVec 32 := shaStart 5
  g : BitVec 32 := shaStart 6
  h : BitVec 32 := shaStart 7
deriving DecidableEq, Repr

/-- One round. -/
def Sha.round (s : Sha) (kw : BitVec 32) : Sha :=
  let s1 := s.e.rotateRight 6 ^^^ s.e.rotateRight 11 ^^^ s.e.rotateRight 25
  let ch := (s.e &&& s.f) ^^^ (~~~ s.e &&& s.g)
  let t1 := s.h + s1 + ch + kw
  let s0 := s.a.rotateRight 2 ^^^ s.a.rotateRight 13 ^^^ s.a.rotateRight 22
  let maj := (s.a &&& s.b) ^^^ (s.a &&& s.c) ^^^ (s.b &&& s.c)
  { a := t1 + (s0 + maj), b := s.a, c := s.b, d := s.c, e := s.d + t1, f := s.e, g := s.f, h := s.g }

/-- `n` further words of the message schedule, newest first. -/
def shaExtend : Nat → List (BitVec 32) → List (BitVec 32)
  | 0, ws => ws
  | n + 1, ws =>
    let w := fun i => ws.getD i 0
    let s0 := (w 14).rotateRight 7 ^^^ (w 14).rotateRight 18 ^^^ (w 14 >>> 3)
    let s1 := (w 1).rotateRight 17 ^^^ (w 1).rotateRight 19 ^^^ (w 1 >>> 10)
    shaExtend n ((w 15 + s0 + w 6 + s1) :: ws)

/-- The compression of one 64-byte piece. -/
def Sha.piece (s : Sha) (bs : List Byte) : Sha :=
  let ws := (List.range 16).map fun i => BitVec.ofNat 32 (beNat (sliceZ bs (4 * i) 4))
  let all := (shaExtend 48 ws.reverse).reverse
  let r := (shaK.zip all).foldl (fun s kw => s.round (kw.1 + kw.2)) s
  { a := s.a + r.a, b := s.b + r.b, c := s.c + r.c, d := s.d + r.d, e := s.e + r.e, f := s.f + r.f, g := s.g + r.g,
    h := s.h + r.h }

/-- The padded message. -/
def shaPad (bs : List Byte) : List Byte :=
  bs ++ 0x80#8 :: List.replicate ((119 - bs.length % 64) % 64) 0 ++ beBytes 8 (8 * bs.length)

/-- SHA-256: 32 bytes. -/
def sha256 (bs : List Byte) : List Byte :=
  let m := shaPad bs
  let s := (chunks 64 (m.length / 64) m).foldl Sha.piece {}
  [s.a, s.b, s.c, s.d, s.e, s.f, s.g, s.h].flatMap fun w => beBytes 4 w.toNat

/-- A Winternitz chain from step `j` on, `n` steps (RFC 8554, algorithm 4b). -/
def otsChain (pre : List Byte) (i : Nat) : Nat → Nat → List Byte → List Byte
  | 0, _, x => x
  | n + 1, j, x => otsChain pre i n (j + 1) (sha256 (pre ++ beBytes 2 i ++ beBytes 1 j ++ x))

/-- The 4-bit digits of a byte string, high digit first. -/
def hexDigits (bs : List Byte) : List Nat := bs.flatMap fun b => [b.toNat / 16, b.toNat % 16]

/-- The candidate one-time public key of an LMOTS_SHA256_N32_W4 signature (RFC 8554, algorithm 4b). -/
def otsKey (ident : List Byte) (q : Nat) (ots msg : List Byte) : List Byte :=
  let pre := ident ++ beBytes 4 q
  let dig := sha256 (pre ++ beBytes 2 0x8181 ++ sliceZ ots 4 32 ++ msg)
  let sum := (hexDigits dig).foldl (fun a d => a + (15 - d)) 0
  let ds := hexDigits (dig ++ beBytes 2 (sum * 16 % 65536))
  let z := (ds.take 67).zipIdx.flatMap fun (a, i) => otsChain pre i (15 - a) a (sliceZ ots (36 + 32 * i) 32)
  sha256 (pre ++ beBytes 2 0x8080 ++ z)

/-- The walk from a leaf to the root of an LMS tree (RFC 8554, algorithm 6a). -/
def lmsRoot (ident : List Byte) : List (List Byte) → Nat → List Byte → List Byte
  | [], _, x => x
  | p :: ps, node, x =>
    let pair := if node % 2 = 1 then p ++ x else x ++ p
    lmsRoot ident ps (node / 2) (sha256 (ident ++ beBytes 4 (node / 2) ++ beBytes 2 0x8383 ++ pair))

/-- Whether a 2,828-byte signature over a message verifies against a 56-byte public key (R269, R422). -/
def lmsVerify (key sig msg : List Byte) : Bool :=
  let ident := sliceZ key 8 16
  let q := beNat (sliceZ sig 0 4)
  let ots := sliceZ sig 4 2180
  let leaf := sha256 (ident ++ beBytes 4 (2 ^ 20 + q) ++ beBytes 2 0x8282 ++ otsKey ident q ots msg)
  let path := (List.range 20).map fun i => sliceZ sig (2188 + 32 * i) 32
  key.length == 56 && sig.length == 2828 && beNat (sliceZ key 0 4) == 8 && beNat (sliceZ key 4 4) == 3 &&
    beNat (sliceZ ots 0 4) == 3 && beNat (sliceZ sig 2184 4) == 8 && decide (q < 2 ^ 20) &&
    lmsRoot ident path (2 ^ 20 + q) leaf == sliceZ key 24 32

/-- The verdict on a SIGNATURE section over a digest (R269): its layout, its key, its signature. -/
def signatureOk (keys : List (List Byte)) (sec digest : List Byte) : Bool :=
  let ident := sliceZ sec 0 16
  sec.length == 2944 && leAt sec 16 4 == 2828 && zeroAt sec 20 44 && zeroAt sec 2892 52 &&
    (keys.any fun k => sliceZ k 8 16 == ident && lmsVerify k (sliceZ sec 64 2828) digest)

end Sys2Proof.Machine
end

