-- ==== Sys2Proof/Machine/Image.lean ====
section
/-! DEFINITION. The harness image: its layout (R263 to R277), the checks of its form that come first (R278 step 1,
codes 0x10 to 0x19 of R279), and what a block loads from it. -/

namespace Sys2Proof.Machine

/-- A hold reason with its detail fields (R279); a field that the table does not set is 0. -/
structure Hold where
  code : Nat
  sub : Nat := 0
  dirIdx : Nat := 0
  lblock : Nat := 0
  index : Nat := 0
deriving DecidableEq, Repr

/-- A part of a section (R266). -/
structure Part where
  scope : Nat
  bytes : List Byte
deriving DecidableEq, Repr

/-- A section: its directory entry's index, type and epoch (R265), and its parts. -/
structure Sec where
  idx : Nat
  ty : Nat
  epoch : Nat
  parts : List Part
deriving DecidableEq, Repr

/-- An image that has been read: where it lies, its header, and its sections. -/
structure Img where
  base : Nat
  header : List Byte
  secs : List Sec
deriving DecidableEq, Repr

/-- Whether a section type exists (R271). -/
def knownType (ty : Nat) : Bool :=
  (decide (1 ≤ ty) && decide (ty ≤ 7)) || (decide (0x10 ≤ ty) && decide (ty ≤ 0x1D)) || ty == 0xFE

/-- Bytes of a record of a section type, and the fewest and most records of a part (R271). -/
def partRule (ty : Nat) : Nat × Nat × Nat :=
  if ty = 1 then (4, 1200, 1200) else if ty = 2 then (16, 16, 16) else if ty = 3 then (8, 4, 4)
  else if ty = 4 then (64, 1, 1) else if ty = 5 then (32, 0, 2 ^ 28) else if ty = 6 then (16, 0, 2 ^ 28)
  else if ty = 7 then (64, 64, 64) else if ty = 0x10 then (8, 1, 4096) else if ty = 0x11 then (4, 1, 4096)
  else if ty = 0x12 then (48, 0, 2 ^ 28) else if ty = 0x13 then (32, 0, 2 ^ 28) else if ty = 0x14 then (4, 1, 4096)
  else if ty = 0x15 then (16, 0, 2 ^ 28) else if ty = 0x16 then (2304, 1, 1) else if ty = 0x17 then (2560, 1, 1)
  else if ty = 0x18 then (128, 1, 1) else if ty = 0x19 then (4, 0, 8192) else if ty = 0x1A then (16, 0, 2 ^ 28)
  else if ty = 0x1B then (264, 0, 2 ^ 28) else if ty = 0x1C then (64, 0, 2 ^ 28) else (16, 0, 2 ^ 28)

/-- Whether a scope is valid for a type (R266, R271). -/
def scopeOk (ty scope : Nat) : Bool :=
  if ty ≤ 6 then scope == 0xFFFF
  else if ty = 7 then decide (0xF000 ≤ scope) && decide (scope < 0xF008)
  else if ty = 0x19 then decide (0x800 ≤ scope) && decide (scope < 0x800 + 1280)
  else if ty = 0x1A ∨ ty = 0x1B then
    decide (scope < 1200) || (decide (0x500 ≤ scope) && decide (scope < 0x580))
  else decide (scope < 1200)

/-- Section types of which every in-service logical block needs a part (R271). -/
def lblockTypes : List Nat := [0x10, 0x16, 0x17, 0x18, 0x1A]

/-- Section types that an image needs in a gait (R271). -/
def requiredTypes (gait : Nat) : List Nat :=
  [1, 2, 3, 5, 6, 0x10, 0x16, 0x17, 0x18] ++ (if gait = 0 then [0x19] else []) ++ [0x1A]

/-- A directory entry (R265). -/
structure DirEntry where
  idx : Nat
  ty : Nat
  epoch : Nat
  zero : Bool
  off : Nat
  len : Nat
  crc : Nat
deriving DecidableEq, Repr

/-- The entries in use of a header's directory. -/
def dirOf (h : List Byte) : List DirEntry :=
  (List.range (min (leAt h 6 2) 120)).map fun i =>
    let a := 256 + 32 * i
    ⟨i, leAt h a 2, leAt h (a + 2) 1, zeroAt h (a + 3) 5, leAt h (a + 8) 8, leAt h (a + 16) 8, leAt h (a + 24) 8⟩

/-- The parts of a section's bytes (R266). -/
def partsOf (bs : List Byte) : List Part :=
  (List.range (min (leAt bs 0 4) (bs.length / 16))).map fun i =>
    ⟨leAt bs (16 + 16 * i) 2, (bs.drop (leAt bs (24 + 16 * i) 8)).take (leAt bs (20 + 16 * i) 4)⟩

/-- The bytes of a section in DDR5. -/
def secBytes (t : Tiers) (base : Nat) (d : DirEntry) : List Byte := t.bytesAt 2 (base + d.off) d.len

/-- The image at a staging address. A section that runs past the image's end or past 256 MiB has no part to read: R264 and
R265 refuse it. -/
def Img.read (t : Tiers) (base : Nat) : Img :=
  let h := t.bytesAt 2 base 4096
  let len := min (leAt h 8 8) 268435456
  ⟨base, h, (dirOf h).map fun d =>
    ⟨d.idx, d.ty, d.epoch, if d.ty = 0xFE ∨ len < d.off + d.len then [] else partsOf (secBytes t base d)⟩⟩

/-- A header field (R264). -/
def Img.field (i : Img) (a n : Nat) : Nat := leAt i.header a n
def Img.length (i : Img) : Nat := i.field 8 8
def Img.sequence (i : Img) : Nat := i.field 16 8
def Img.gait (i : Img) : Nat := i.field 25 1
def Img.degradable (i : Img) : Bool := nbit (i.field 26 1) 0
def Img.signed (i : Img) : Bool := nbit (i.field 26 1) 1
def Img.period (i : Img) : Nat := i.field 28 4
def Img.digest (i : Img) : List Byte := sliceZ i.header 64 32

/-- The section of a type and epoch. -/
def Img.sec? (i : Img) (ty epoch : Nat) : Option Sec := i.secs.find? fun x => x.ty == ty && x.epoch == epoch

/-- The directory index of a type, for a detail field. -/
def Img.dirIdx (i : Img) (ty : Nat) : Nat :=
  match i.secs.find? fun x => x.ty == ty with
  | some x => x.idx
  | none => 0

/-- The part of a section with a scope: none where there is no such part. An absent epoch of ROUTES or GROUPS is a copy of
the other (R271). -/
def Img.part? (i : Img) (ty epoch scope : Nat) : Option (List Byte) :=
  let sec := i.sec? ty epoch <|> (if ty = 0x1A ∨ ty = 0x1B then i.sec? ty (1 - epoch) else none)
  match sec with
  | some x => (x.parts.find? fun p => p.scope == scope).map Part.bytes
  | none => none

/-- Its bytes, none of them where there is no such part. -/
def Img.part (i : Img) (ty epoch scope : Nat) : List Byte := (i.part? ty epoch scope).getD []

/-- The records of a part. -/
def Img.records (i : Img) (ty scope : Nat) : List (List Byte) :=
  let bs := i.part ty 0 scope
  chunks (partRule ty).1 (bs.length / (partRule ty).1) bs

/-- The 32-bit PLACEMENT record of a logical block: in service, and its preferred block (R271). -/
def Img.placed (i : Img) (l : Nat) : Bool := nbit (leAt (i.part 1 0 0xFFFF) (4 * l) 4) 15
def Img.prefer (i : Img) (l : Nat) : Nat := leAt (i.part 1 0 0xFFFF) (4 * l) 4 % 2048

/-- The logical blocks in service, ascending. -/
def Img.served (i : Img) : List Nat := (List.range 1200).filter i.placed

/-- A region's voltage in mV, D and M in ns (R271). -/
def Img.volt (i : Img) (r : Nat) : Nat := leAt (i.part 2 0 0xFFFF) (16 * r) 2
def Img.dNs (i : Img) (r : Nat) : Nat := leAt (i.part 2 0 0xFFFF) (16 * r + 4) 4
def Img.mNs (i : Img) (r : Nat) : Nat := leAt (i.part 2 0 0xFFFF) (16 * r + 8) 4

/-- The twin mode and the checked-release bit of TWIN; Solo where it is absent (R271). -/
def Img.twinMode (i : Img) : Nat := leAt (i.part 4 0 0xFFFF) 0 1
def Img.checkedRelease (i : Img) : Bool := nbit (leAt (i.part 4 0 0xFFFF) 1 1) 0

/-- A LAYOUT area (R273). -/
structure Area where
  tier : Nat
  cls : Nat
  srcTier : Nat
  node : Nat
  start : Nat
  len : Nat
  src : Nat
deriving DecidableEq, Repr

/-- The areas of the memory layout. -/
def Img.areas (i : Img) : List Area :=
  (i.records 5 0xFFFF).map fun r => ⟨leAt r 0 1, leAt r 1 1, leAt r 2 1, leAt r 4 4, leAt r 8 8, leAt r 16 8, leAt r 24 8⟩

/-- The first check of a list that fails. -/
def firstFail : List (Option Hold) → Option Hold
  | [] => none
  | some h :: _ => some h
  | none :: hs => firstFail hs

/-- Refuse where a condition does not hold. -/
def need (ok : Bool) (h : Hold) : Option Hold := if ok then none else some h

/-- The commit record (R270): its own form, then its agreement with the header. -/
def commitCheck (t : Tiers) (i : Img) : Option Hold :=
  let c := t.bytesAt 2 (i.base + i.length) 64
  if leAt c 0 4 ≠ 0x54494D43 ∨ leAt c 4 4 ≠ 1 ∨ leAt c 56 8 ≠ (crc64 (sliceZ c 0 56)).toNat then some { code := 0x10 }
  else need (leAt c 8 8 == i.length && leAt c 16 8 == i.sequence && sliceZ c 24 32 == i.digest) { code := 0x11 }

/-- The header with a field taken as zero. -/
def zeroed (bs : List Byte) (a n : Nat) : List Byte := bs.take a ++ List.replicate n 0 ++ bs.drop (a + n)

/-- The header (R264): the byte offset of the first field that is wrong, magic, version and hcrc before the others, a directory
entry past those in use by its own offset. -/
def headerCheck (i : Img) : Option Hold :=
  let f := i.field
  let bad := fun (ok : Bool) (a : Nat) => need ok { code := 0x12, index := a }
  firstFail
    [bad (f 0 4 == 0x44584248) 0, bad (f 4 2 == 1) 4,
     bad (f 248 8 == (crc64 (zeroed i.header 248 8)).toNat) 248,
     bad (decide (1 ≤ f 6 2) && decide (f 6 2 ≤ 120)) 6,
     bad (f 8 8 % 64 == 0 && decide (8192 ≤ f 8 8) && decide (f 8 8 ≤ 268435456)) 8,
     bad (f 16 8 != 0) 16, bad (decide (f 24 1 < 8)) 24, bad (decide (f 25 1 ≤ 1)) 25, bad (decide (f 26 1 < 4)) 26,
     bad (f 27 1 == 0) 27, bad (decide (500 ≤ f 28 4) && decide (f 28 4 ≤ 1000000)) 28,
     bad (decide (1 ≤ f 32 2) && decide (f 32 2 ≤ 1200)) 32, bad (zeroAt i.header 34 6) 34, bad (zeroAt i.header 96 16) 96,
     bad (zeroAt i.header 240 8) 240,
     match ((List.range 120).drop (f 6 2)).find? fun k => !zeroAt i.header (256 + 32 * k) 32 with
     | some k => some { code := 0x12, index := 256 + 32 * k }
     | none => none]

/-- Whether an entry of the directory is wrong beside the entries before it (R263, R265). -/
def entryBad (len : Nat) (before : List DirEntry) (d : DirEntry) : Bool :=
  !knownType d.ty || !d.zero || !(d.epoch == 0 || (d.epoch == 1 && (d.ty == 0x1A || d.ty == 0x1B))) ||
    (before.any fun e => decide (d.ty < e.ty) || (e.ty == d.ty && decide (d.epoch ≤ e.epoch))) ||
    d.off % 64 != 0 || decide (d.off < 4096) || decide (d.len < 16) || decide (len < d.off + d.len) ||
    (before.any fun e => decide (e.off < d.off + d.len) && decide (d.off < e.off + e.len)) ||
    (d.ty == 0xFE && d.off + d.len != len)

/-- The section that follows the first nonzero gap byte at or after `pos` (R263). -/
def gapFault (t : Tiers) (i : Img) (last : Nat) : Nat → List DirEntry → Option Nat
  | pos, [] => if (t.bytesAt 2 (i.base + pos) (i.length - pos)).all (· == 0) then none else some last
  | pos, d :: ds =>
    if (t.bytesAt 2 (i.base + pos) (d.off - pos)).all (· == 0) then gapFault t i last (d.off + d.len) ds else some d.idx

/-- The directory (R263, R265): the entries, the SIGNATURE and its flag, the types that are missing, the gap bytes. -/
def dirCheck (t : Tiers) (i : Img) : Option Hold :=
  let ds := dirOf i.header
  let bad := fun n => some ({ code := 0x13, dirIdx := n } : Hold)
  let has := fun ty => ds.any fun d => d.ty == ty
  let place := fun ty => (ds.filter fun d => decide (d.ty < ty)).length
  match ds.zipIdx.find? fun (d, k) => entryBad i.length (ds.take k) d with
  | some (d, _) => bad d.idx
  | none =>
    if i.signed != has 0xFE then bad (place 0xFE)
    else match (requiredTypes i.gait).find? fun ty => !has ty with
      | some ty => bad (place ty)
      | none =>
        match gapFault t i (ds.length - 1) 4096 (ds.mergeSort fun a b => decide (a.off ≤ b.off)) with
        | some n => bad n
        | none => none

/-- Every section's CRC-64 (R265). -/
def crcCheck (t : Tiers) (i : Img) : Option Hold :=
  match (dirOf i.header).find? fun d => (crc64 (secBytes t i.base d)).toNat != d.crc with
  | some d => some { code := 0x14, dirIdx := d.idx }
  | none => none

/-- A part record of a section's table: its scope, length and offset, and whether its zero bytes are zero. -/
structure PartRec where
  scope : Nat
  len : Nat
  off : Nat
  zero : Bool
deriving DecidableEq, Repr

/-- The table titled by R266. -/
def partTable (bs : List Byte) : List PartRec :=
  (List.range (min (leAt bs 0 4) (bs.length / 16))).map fun i =>
    let a := 16 + 16 * i
    ⟨leAt bs a 2, leAt bs (a + 4) 4, leAt bs (a + 8) 8, zeroAt bs (a + 2) 2⟩

/-- Whether a part is wrong beside the parts before it (R266). -/
def partBad (ty size n : Nat) (before : List PartRec) (p : PartRec) : Bool :=
  let r := partRule ty
  !p.zero || !scopeOk ty p.scope || p.off % 8 != 0 || decide (p.off < 16 + 16 * n) || decide (size < p.off + p.len) ||
    (before.any fun q => decide (p.scope ≤ q.scope) || (decide (q.off < p.off + p.len) && decide (p.off < q.off + q.len))) ||
    p.len % r.1 != 0 || decide (p.len / r.1 < r.2.1) || decide (r.2.2 < p.len / r.1)

/-- One section's parts (R266, R271). -/
def sectionParts (i : Img) (bs : List Byte) (d : DirEntry) : Option Hold :=
  let tab := partTable bs
  let n := leAt bs 0 4
  let bad := fun k => some ({ code := 0x15, dirIdx := d.idx, index := k } : Hold)
  let byBlock := decide (0x10 ≤ d.ty) && d.ty != 0x19
  if bs.length < 16 + 16 * n ∨ ¬ zeroAt bs 4 12 ∨ (d.ty ≤ 6 ∧ n = 0) then bad 0
  else
    match tab.zipIdx.find? fun (p, k) => partBad d.ty bs.length n (tab.take k) p with
    | some (_, k) => bad k
    | none =>
      match tab.zipIdx.find? fun (p, _) => byBlock && decide (p.scope < 1200) && !i.placed p.scope with
      | some (p, k) => some { code := 0x15, dirIdx := d.idx, index := k, lblock := p.scope }
      | none =>
        let missing := if lblockTypes.contains d.ty then
            (List.range 1200).find? fun l => i.placed l && !tab.any fun p => p.scope == l
          else none
        match missing with
        | some l => some { code := 0x15, dirIdx := d.idx, index := (tab.filter fun p => decide (p.scope < l)).length,
                           lblock := l }
        | none => none

/-- Every section's part table and parts. -/
def partsCheck (t : Tiers) (i : Img) : Option Hold :=
  firstFail (((dirOf i.header).filter fun d => d.ty != 0xFE).map fun d => sectionParts i (secBytes t i.base d) d)

/-- The bytes that the digest covers, the digest, hcrc and the directory's crc fields taken as zero (R268). -/
def digestBytes (t : Tiers) (i : Img) : List Byte :=
  let stop := match (dirOf i.header).find? fun d => d.ty == 0xFE with
    | some d => d.off
    | none => i.length
  let h := (List.range 120).foldl (fun h k => zeroed h (280 + 32 * k) 8) (zeroed (zeroed i.header 64 32) 248 8)
  h ++ t.bytesAt 2 (i.base + 4096) (stop - 4096)

/-- The digest and the signature (R268, R269). -/
def signCheck (t : Tiers) (sigFuse : Bool) (keys : List (List Byte)) (i : Img) : Option Hold :=
  if sha256 (digestBytes t i) ≠ i.digest then some { code := 0x16 }
  else
    match (dirOf i.header).find? fun d => d.ty == 0xFE with
    | none => need (!sigFuse) { code := 0x17 }
    | some d => need (signatureOk keys (secBytes t i.base d) i.digest) { code := 0x18 }

/-- The checks of R278 step 1, in the order of R279. -/
def formCheck (t : Tiers) (sigFuse : Bool) (keys : List (List Byte)) (i : Img) : Option Hold :=
  commitCheck t i <|> headerCheck i <|> dirCheck t i <|> crcCheck t i <|> partsCheck t i <|> signCheck t sigFuse keys i

/-- A TASKS record (R272). -/
def TaskRec.ofBytes (r : List Byte) : TaskRec :=
  ⟨nbit (leAt r 0 2) 15, leAt r 0 2 % 4096, leAt r 2 1, (List.range 4).map fun k => BitVec.ofNat 64 (leAt r (8 + 8 * k) 8)⟩

/-- A NODES record (R272). -/
def NodeRec.ofBytes (r : List Byte) : NodeRec :=
  ⟨leAt r 0 1, leAt r 1 1, leAt r 2 2, leAt r 4 2, leAt r 6 1, leAt r 8 4, leAt r 12 4⟩

/-- An ARCS record (R274). -/
def ArcRec.ofBytes (r : List Byte) : ArcRec :=
  let out := leAt r 0 1 == 1
  { outbound := out, vc := b2n (nbit (leAt r 1 1) 0), mcast := out && nbit (leAt r 1 1) 1,
    manger := !out && nbit (leAt r 1 1) 2, producer := leAt r 2 2, dest := leAt r 4 2,
    queue := if out then leAt r 6 1 else leAt r 2 1, output := leAt r 7 1, share := leAt r 8 2, match_ := leAt r 10 2 }

/-- A GAIT record (R277). -/
def GaitEntry.ofNat (w : Nat) : GaitEntry :=
  ⟨nbits w 15 0, nbits w 23 16, nbits w 26 24, nbits w 29 27, nbit w 30, b2n (nbit w 31)⟩

/-- Words of bytes, `n` bytes to a word. -/
def wordsOf (n : Nat) (bs : List Byte) : List Nat := (chunks n (bs.length / n) bs).map leNat

/-- The fields of the block register at a place, as one mask. -/
def blkFields (a : Nat) : Word :=
  match findRow blkRows a with
  | some r => r.fields.foldl (fun w f => w ||| maskOf f.hi f.lo) 0
  | none => 0

/-- Registers loaded from (place, value) pairs: reserved bits stay zero (R7). -/
def Block.putRegs (b : Block) (ws : List (Nat × Nat)) : Block :=
  { b with regs := ws.foldl (fun m (a, v) => mset blkReset m a (BitVec.ofNat 64 v &&& blkFields a)) b.regs }

/-- The queue, combining-queue and handle registers that an image gives a logical block (R271). -/
def Img.blockRegs (i : Img) (l : Nat) : List (Nat × Nat) :=
  let q := i.part 0x16 0 l
  let h := i.part 0x17 0 l
  ((List.range 240).map fun k => (BLK_Q_CFG.off k, leAt q (8 * k) 8)) ++
    ((List.range 16).flatMap fun c =>
      [(BLK_CQ_CFG.off c, leAt q (2048 + 16 * c) 8), (BLK_CQ_FWD.off c, leAt q (2056 + 16 * c) 8)]) ++
    ((List.range 64).flatMap fun k =>
      [(HDL_CTL.off k, leAt h (40 * k) 8), (HDL_BASE.off k, leAt h (40 * k + 8) 8), (HDL_LEN.off k, leAt h (40 * k + 16) 8),
       (HDL_SHAPE.off k, leAt h (40 * k + 24) 8), (HDL_COPY.off k, leAt h (40 * k + 32) 8)]) ++
    ((i.records 0x1D l).map fun r => (leAt r 0 4, leAt r 8 8))

/-- The consumer blocks of a destination, unicast or through a group of `l` (R274): a group's members by their preferred
blocks. -/
def Img.consumers (i : Img) (l : Nat) (mcast : Bool) (dest : Nat) : List Nat :=
  if !mcast then [dest]
  else
    match (i.records 0x1B l).find? fun r => leAt r 0 1 == dest with
    | some r => i.served.filter fun k =>
        let p := i.prefer k
        let b := p / 40 % 8 * 10 + p % 10
        nbit (leAt r (16 + 10 * (p / 40 / 8 * 4 + p % 40 / 10)) 10) b
    | none => []

/-- The stores and registers of a block load what the image gives logical block `l` (R278 step 4, R346). -/
def Img.load (i : Img) (l : Nat) (b : Block) : Block :=
  let prog := wordsOf 8 (i.part 0x10 0 l)
  let b : Block := { b with
    lblock := l, program := prog.map (BitVec.ofNat 64), code := (wordsOf 4 (i.part 0x11 0 l)).map (BitVec.ofNat 32),
    tasks := (i.records 0x12 l).map TaskRec.ofBytes, nodes := (i.records 0x13 l).map NodeRec.ofBytes,
    fireList := (wordsOf 4 (i.part 0x14 0 l)).map fun w => (nbits w 10 0, nbits w 31 16),
    arcs := (i.records 0x15 l).map fun r =>
      let a := ArcRec.ofBytes r
      if a.mcast then { a with members := i.consumers l true a.dest } else a,
    templates := (i.records 0x1C l).map Desc.ofBytes,
    portSchedule := i.part 0x18 0 l }
  (b.putRegs (i.blockRegs l)).set BLK_DRG_STATUS.length prog.length

end Sys2Proof.Machine
end

