-- ==== Sys2Proof/Machine/Packhorse.lean ====
section
/-! DEFINITION. The Packhorse: posting, starting, moving and completing descriptors (R138, R140 to R144, R158), and the
manger calls it sends (R246 to R248). -/

namespace Sys2Proof.Machine

/-- What the Packhorse reads outside its block: the DRAM tiers, the fabric port of a remote node (R242, R399), the manger
program tables, and whether an arc's destination queue holds control tokens. -/
structure Outside where
  tiers : Tiers
  remote : Nat → Nat
  prog : Nat → Nat → MgrRec
  ctlq : ArcRec → Bool

/-- Descriptors of the ring: 2^lg_size; a size outside 3 to 8 leaves it unserved (R146). -/
def Block.ringSize (b : Block) : Nat := 2 ^ b.get PKH_RING.lg_size

/-- Whether the ring's size is one that can be served. -/
def Block.ringFits (b : Block) : Bool := decide (3 ≤ b.get PKH_RING.lg_size) && decide (b.get PKH_RING.lg_size ≤ 8)

/-- Whether the ring is served. -/
def Block.ringServed (b : Block) : Bool := b.get PKH_RING.enable == 1 && b.ringFits

/-- Ring indices from `a` up to, not including, `z`. -/
def ringSpan (size a z : Nat) : List Nat := (List.range ((z + size - a) % size)).map fun i => (a + i) % size

/-- Ring descriptors are posted with the stride count of this moment (R140, R144). -/
def Block.postJobs (b : Block) (indices : List Nat) : Block :=
  { b with jobs := b.jobs ++ indices.map fun i =>
      ({ fromRing := true, index := i, desc := Desc.ofBytes [], stride := b.stride.toNat } : PJob) }

/-- PKH_HEAD_WRITE (R140, R131): a release by the thread that writes, and each descriptor up to the new head is posted. -/
def Block.doHead (b : Block) (thread : Option Nat) (v : Word) : Block :=
  let b := match thread with | some t => b.release t | none => b
  let old := b.get PKH_HEAD.index
  let b := b.set PKH_HEAD.index (bitsOf v 7 0)
  if !b.ringFits then b
  else
    let size := b.ringSize
    let new := ringSpan size (old % size) (b.get PKH_HEAD.index % size)
    let b := if b.ringServed then b.postJobs new else b
    match thread with
    | some t => b.setThread t { b.thread t with posted := (b.thread t).posted ++ new }
    | none => b

/-- The scratch address of ring descriptor `i`. -/
def Block.ringAddr (b : Block) (i : Nat) : Nat := (b.get PKH_RING.base / 64 * 64 + 64 * i) % 0x80000

/-- The bytes from one row to the next. -/
def stepOr (step rowBytes : Nat) : Nat := if step = 0 then rowBytes else step

/-- The check of one reference (R143 step 3). -/
def Block.refStatus (b : Block) (ref : Nat) (write : Bool) : Nat := b.hdlCheck (nbits ref 5 0) (nbits ref 15 8) 0 0 write

/-- The check of a RELOAD's reference (R141, R143). -/
def Block.reloadStatus (b : Block) (ref : Nat) : Nat :=
  let h := nbits ref 5 0
  if b.get (HDL_CTL.valid h) = 0 ∨ b.get (HDL_CTL.gen h) ≠ nbits ref 15 8 then 5
  else if b.get (HDL_CTL.resident h) = 0 ∨ b.get (HDL_CTL.tier h) ≠ 0 then 6
  else 0

/-- Whether every row lies within its handle (R143 step 4): the first and the last row decide. -/
def Block.rowsInside (b : Block) (ref off step : Nat) (d : Desc) : Bool :=
  decide (off + (d.rows - 1) * stepOr step d.rowBytes + d.rowBytes ≤ b.get (HDL_LEN.length (nbits ref 5 0)))

/-- The checks of a descriptor in their order (R142, R143): a status of R124, 0 where none fails. -/
def Block.descStatus (b : Block) (d : Desc) : Nat :=
  if 3 ≤ d.op ∨ ¬ d.reservedZero ∨ d.rows = 0 then 11
  else if d.srcOff % 64 ≠ 0 ∨ d.dstOff % 64 ≠ 0 ∨ d.rowBytes % 64 ≠ 0 ∨ d.srcStep % 64 ≠ 0 ∨ d.dstStep % 64 ≠ 0 then 10
  else if d.op = 2 then b.reloadStatus d.dst
  else if d.op = 0 ∧ b.refStatus d.src false ≠ 0 then b.refStatus d.src false
  else if b.refStatus d.dst true ≠ 0 then b.refStatus d.dst true
  else if d.op = 0 ∧ ¬ b.rowsInside d.src d.srcOff d.srcStep d then 7
  else if ¬ b.rowsInside d.dst d.dstOff d.dstStep d then 7
  else 0

/-- The completion status that a memory status stands for (R238). -/
def memToStatus (s : Nat) : Nat := if s = 1 then 7 else if s = 2 then 10 else if s = 4 then 6 else 0

/-- A transfer as it goes: the block, the tiers, the status met, and the requests in flight. -/
structure Move where
  b : Block
  t : Tiers
  status : Nat := 0
  ids : List Nat := []

/-- Bytes that DRAM holds, run by run (R238): the first refusal ends the transfer. -/
def Move.load (m : Move) (tier : Nat) : List (Nat × Nat) → Move × List Byte
  | [] => (m, [])
  | (a, n) :: rs =>
    match m.t.status tier (a / 64 * 64) 1 false with
    | 0 =>
      let (m', bs) := m.load tier rs
      (m', m.t.bytesAt tier a n ++ bs)
    | s => ({ m with status := memToStatus s }, [])

/-- The bytes of one line at a logical offset of a local handle, each mapped by itself (R136). -/
def Move.fetch (m : Move) (h o : Nat) : Move × List Byte :=
  let tier := m.b.get (HDL_CTL.tier h)
  let runs := m.b.handleRuns h o 64
  if tier = 0 then
    let (b, bytes) := m.b.readRuns runs
    ({ m with b := b }, bytes)
  else m.load tier runs

/-- Write bytes of one line to DRAM (R238). -/
def Move.put (m : Move) (tier a : Nat) (bs : List Byte) : Move :=
  if m.status ≠ 0 then m
  else
    match m.t.status tier (a / 64 * 64) 1 true with
    | 0 => { m with t := m.t.putMasked tier (a / 64 * 64) (List.replicate (a % 64) 0 ++ bs) ((2 ^ bs.length - 1) * 2 ^ (a % 64)) }
    | s => { m with status := memToStatus s }

/-- Send bytes of one line to a remote node (R242). -/
def Move.sendOut (m : Move) (env : Env) (remote : Nat → Nat) (ring : Bool) (index h a : Nat) (bs : List Byte) : Move :=
  let (b, id) := m.b.lineRequest env (remote (m.b.get (HDL_CTL.node h))) h (a / 64 * 64) (.copyWrite index ring) (bytesPkt a bs)
  { m with b := b, ids := m.ids ++ [id] }

/-- Write bytes at a logical offset of a handle, each mapped by itself (R136); those of a remote handle leave as requests (R242). -/
def Move.store (m : Move) (env : Env) (remote : Nat → Nat) (ring : Bool) (index h o : Nat) (bytes : List Byte) : Move :=
  let ws := splitRuns (m.b.handleRuns h o bytes.length) bytes
  let tier := m.b.get (HDL_CTL.tier h)
  if tier = 0 then { m with b := m.b.writeRuns ws }
  else if tier = 3 then ws.foldl (fun m w => m.sendOut env remote ring index h w.1 w.2) m
  else ws.foldl (fun m w => m.put tier w.1 w.2) m

/-- Ask for one line of a remote source (R242); the answers write it on. -/
def Move.ask (m : Move) (env : Env) (remote : Nat → Nat) (ring : Bool) (index h o dh doff : Nat) : Move :=
  ((m.b.handleRuns h o 64).foldl (fun (x : Move × Nat) r =>
    let (b, id) := x.1.b.lineRequest env (remote (x.1.b.get (HDL_CTL.node h))) h (r.1 / 64 * 64)
      (.copyRead index ring dh (doff + x.2) (r.1 % 64) r.2) readPkt
    ({ x.1 with b := b, ids := x.1.ids ++ [id] }, x.2 + r.2)) (m, 0)).1

/-- The bytes that FILL writes into a line. -/
def fillLine (pattern : Nat) : List Byte := (List.replicate 16 (leBytes 4 pattern)).flatten

/-- Move one line of a descriptor. -/
def Move.line (m : Move) (env : Env) (remote : Nat → Nat) (ring : Bool) (index : Nat) (d : Desc) (so o : Nat) : Move :=
  let sh := nbits d.src 5 0
  let dh := nbits d.dst 5 0
  if m.status ≠ 0 then m
  else if d.op = 1 then m.store env remote ring index dh o (fillLine d.pattern)
  else if m.b.get (HDL_CTL.tier sh) = 3 then m.ask env remote ring index sh so dh o
  else
    let (m, bytes) := m.fetch sh so
    if m.status ≠ 0 then m else m.store env remote ring index dh o bytes

/-- Move the lines of one row. -/
def Move.row (m : Move) (env : Env) (remote : Nat → Nat) (ring : Bool) (index : Nat) (d : Desc) (r : Nat) : Move :=
  (List.range (d.rowBytes / 64)).foldl (fun m j =>
    m.line env remote ring index d (d.srcOff + r * stepOr d.srcStep d.rowBytes + 64 * j)
      (d.dstOff + r * stepOr d.dstStep d.rowBytes + 64 * j)) m

/-- Move rows `0` to `n − 1`, and the number of rows moved whole. -/
def Move.rows (env : Env) (remote : Nat → Nat) (ring : Bool) (index : Nat) (d : Desc) : Nat → Move → Move × Nat
  | 0, m => (m, 0)
  | n + 1, m =>
    let (m, k) := Move.rows env remote ring index d n m
    if m.status ≠ 0 then (m, k)
    else
      let m := m.row env remote ring index d n
      (m, if m.status ≠ 0 then k else k + 1)

/-- Load the resident handle `h` from its copy (R138): byte `o` of the copy goes to logical offset `o`. -/
def Move.reload (m : Move) (h : Nat) : Move :=
  let len := m.b.get (HDL_LEN.length h)
  let copy := m.b.get (HDL_COPY.addr h)
  (List.range (ceilDiv len 64)).foldl (fun m j =>
    let n := min 64 (len - 64 * j)
    if m.status ≠ 0 then m
    else
      let (m, bytes) := m.load 1 (joinRuns ((List.range n).map fun i => copy + 64 * j + i))
      if m.status ≠ 0 then m else { m with b := m.b.writeRuns (splitRuns (m.b.handleRuns h (64 * j) n) bytes) }) m

/-- Whether a descriptor is a run of manger calls (R246): a COPY to an HBM4 handle with bit 40 of the address set. -/
def Block.isCall (b : Block) (d : Desc) : Bool :=
  let dh := nbits d.dst 5 0
  d.op == 0 && b.get (HDL_CTL.tier dh) == 1 && nbit (b.get (HDL_BASE.addr dh) + b.hdlMap dh d.dstOff) 40

/-- The inbound arc that the results of a queue return credits on (R248). -/
def Block.mangerArc (b : Block) (rq : Nat) : Option Nat :=
  b.arcs.findIdx? fun a => !a.outbound && a.manger && a.queue == rq

/-- Credits held on a result arc (R248). -/
def Block.mangerCredits (b : Block) (i : Nat) : Nat :=
  match b.arcs[i]? with
  | some a => a.share - (mget natZero b.spent (65536 + i) + 65536 - mget natZero b.returned (65536 + i)) % 65536
  | none => 0

/-- Replace the job of a source and index. -/
def Block.setJob (b : Block) (j : PJob) : Block :=
  { b with jobs := b.jobs.map fun x => if x.fromRing == j.fromRing && x.index == j.index then j else x }

/-- What becomes of a row of a call descriptor: it waits, its call is sent, or it is refused before it is sent. -/
inductive CallStep where
  | wait (b : Block) (j : PJob)
  | sent (b : Block) (j : PJob)
  | refused (b : Block) (j : PJob) (status : Nat)

/-- Ask a remote source for a call's row (R242): each line's bytes by its runs. -/
def Block.askRow (b : Block) (env : Env) (o : Outside) (j : PJob) (off : Nat) : Block × PJob :=
  let h := nbits j.desc.src 5 0
  let runs := (List.range (j.desc.rowBytes / 64)).flatMap fun i => b.handleRuns h (off + 64 * i) 64
  let x := runs.foldl (fun (x : Block × List Nat × Nat) r =>
    let (b, id) := x.1.lineRequest env (o.remote (x.1.get (HDL_CTL.node h))) h (r.1 / 64 * 64)
      (.callRead j.index j.fromRing x.2.2 (r.1 % 64) r.2) readPkt
    (b, x.2.1 ++ [id], x.2.2 + r.2)) (b, [], 0)
  (x.1, { j with asked := true, row := List.replicate j.desc.rowBytes 0, rowIds := x.2.1 })

/-- The bytes of a call's row at a local handle: a status and the row. -/
def Block.localRow (b : Block) (o : Outside) (d : Desc) (off : Nat) : Block × Nat × List Byte :=
  let m := (List.range (d.rowBytes / 64)).foldl (fun (m : Move × List Byte) i =>
    if m.1.status ≠ 0 then m
    else
      let (x, bytes) := m.1.fetch (nbits d.src 5 0) (off + 64 * i)
      (x, m.2 ++ bytes)) (({ b := b, t := o.tiers } : Move), [])
  (m.1.b, m.1.status, m.2)

/-- Send the call that a row makes to call-space address `a` (R246, R248). -/
def Block.callRow (b : Block) (env : Env) (o : Outside) (j : PJob) (a : Nat) (row : List Byte) : CallStep :=
  let d := j.desc
  let line := CallLine.ofBytes (sliceZ row 0 64)
  let rows := callRows (o.prog (nbits a 38 36) (line.prog % 64)) line
  let arc := b.mangerArc line.rq
  let share := match arc with | some i => (match b.arcs[i]? with | some x => x.share | none => 0) | none => 0
  if share < rows ∨ a / 2 ^ 41 ≠ 0 ∨ nbit a 39 then .refused b j 7
  else if (match arc with | some i => decide (b.mangerCredits i < rows) | none => false) then .wait b j
  else
    let b : Block := match arc with
      | some i => { b with spent := mset natZero b.spent (65536 + i) ((mget natZero b.spent (65536 + i) + rows) % 65536) }
      | none => b
    let id := b.nextReq % 2 ^ 24
    let b : Block := { b with nextReq := b.nextReq + 1, reqs := b.reqs ++ [⟨id, .call j.index j.fromRing⟩] }
    let b := b.send { pkt := { kind := kMGR_CALL, isData := true, tag := id, addr := a, length := d.rowBytes / 64 - 1,
                               payload := row },
                      idx := memEndpoint 1 (env.p % 40) a, owner := .mem id }
    .sent b { j with pendingIds := j.pendingIds ++ [id], asked := false, row := [] }

/-- Row `r` of a call descriptor (R246): its bytes come from the source handle, a remote one's by requests, and make one call. -/
def Block.sendCall (b : Block) (env : Env) (o : Outside) (j : PJob) (r : Nat) : CallStep :=
  let d := j.desc
  let dh := nbits d.dst 5 0
  let a := b.get (HDL_BASE.addr dh) + b.hdlMap dh (d.dstOff + r * stepOr d.dstStep d.rowBytes)
  let off := d.srcOff + r * stepOr d.srcStep d.rowBytes
  if d.rowBytes = 0 ∨ 2048 < d.rowBytes then .refused b j 7
  else if b.get (HDL_CTL.tier (nbits d.src 5 0)) = 3 then
    if !j.asked then
      let (b, j) := b.askRow env o j off
      .wait b j
    else if !j.rowIds.isEmpty then .wait b j
    else b.callRow env o j a j.row
  else
    let (b, st, row) := b.localRow o d off
    if st ≠ 0 then .refused b j st else b.callRow env o j a row

/-- Send the calls that are left, as far as they need not wait; a refusal before sending ends the run. -/
def Block.sendCalls (b : Block) (env : Env) (o : Outside) : Nat → PJob → Block × PJob
  | 0, j => (b, j)
  | n + 1, j =>
    if j.rowsLeft = 0 then (b, j)
    else
      match b.sendCall env o j (j.desc.rows - j.rowsLeft) with
      | .wait b j => (b, j)
      | .sent b j => b.sendCalls env o n { j with rowsLeft := j.rowsLeft - 1, done := j.done + 1 }
      | .refused b j s => (b, { j with rowsLeft := 0, status := if j.status = 0 then s else j.status })

/-- The work of a descriptor that has started. -/
def Block.runDesc (b : Block) (env : Env) (o : Outside) (j : PJob) : Block × Tiers × PJob :=
  let d := j.desc
  let s := b.descStatus d
  if s ≠ 0 then (b, o.tiers, { j with status := s })
  else if b.isCall d then
    let (b, j) := b.sendCalls env o d.rows { j with rowsLeft := d.rows }
    (b, o.tiers, j)
  else if d.op = 2 then
    let h := nbits d.dst 5 0
    let m := ({ b := b, t := o.tiers } : Move).reload h
    (m.b, m.t, { j with status := m.status, done := if m.status = 0 then d.rows else 0,
                        bytes := if m.status = 0 then b.get (HDL_LEN.length h) else 0 })
  else
    let (m, k) := Move.rows env o.remote j.fromRing j.index d d.rows { b := b, t := o.tiers }
    (m.b, m.t, { j with status := m.status, done := k, bytes := k * d.rowBytes, pendingIds := m.ids })

/-- Jobs in progress count in PKH_STATUS.active. -/
def Block.jobsActive (b : Block) : Block := b.set PKH_STATUS.active (b.jobs.filter fun j => j.started).length

/-- The descriptor that starts next from a source, if its order rules let it (R140). -/
def Block.nextJob (b : Block) (ring : Bool) : Option PJob :=
  let mine := b.jobs.filter fun j => j.fromRing == ring
  match mine.find? fun j => !j.started with
  | none => none
  | some j =>
    let d := if ring then Desc.ofBytes (b.readLines [b.ringAddr j.index]).2 else j.desc
    let busy := mine.any fun x => x.started
    let firing := b.jobs.any fun x => !x.fromRing && !x.started
    if d.fence && busy then none
    else if ring && decide (4 ≤ b.activeJobs) then none
    else if ring && !b.extended && firing then none
    else some { j with desc := d }

/-- DESCRIPTOR_START (R140 to R143, R246 to R248): the next descriptor of a source starts and does its work, or a call
descriptor that lacked credits sends on. `hw` is an uncorrectable scratchpad line (1) or DRAM line (2) that it meets: the
descriptor then stops without completion (R144). -/
def Block.doDescriptor (b : Block) (env : Env) (o : Outside) (ring : Bool) (hw : Nat) : Block × Tiers :=
  if b.halted then (b, o.tiers)
  else
    match b.jobs.find? fun j => j.fromRing == ring && j.started && !j.stopped && j.rowsLeft != 0 with
    | some j =>
      let (b, j) := b.sendCalls env o j.rowsLeft j
      (b.setJob j, o.tiers)
    | none =>
      match b.nextJob ring with
      | none => (b, o.tiers)
      | some j =>
        let b := if ring then b.flushLine (b.ringAddr j.index) else b
        let j := { j with started := true }
        if hw ≠ 0 ∧ b.descStatus j.desc = 0 then
          let b := (b.setJob { j with stopped := true }).jobsActive
          if hw = 1 then
            (b.badWord env 14 j.index, o.tiers)
          else (b, o.tiers)
        else
          let (b, t, j) := b.runDesc env o j
          ((b.setJob j).jobsActive, t)

/-- A request of a descriptor is answered: bytes of a remote source go on to their place, or into the row of a call. -/
def Block.jobReply (b : Block) (env : Env) (o : Outside) (use : ReqUse) (id status : Nat) (bytes : List Byte) :
    Block × Tiers :=
  let find := fun (ring : Bool) (index : Nat) => b.jobs.find? fun j => j.fromRing == ring && j.index == index
  let close := fun (b : Block) (j : PJob) (s : Nat) =>
    b.setJob { j with pendingIds := j.pendingIds.filter (· != id), status := if j.status = 0 then s else j.status }
  match use with
  | .copyRead index ring dh doff skip len =>
    match find ring index with
    | none => (b, o.tiers)
    | some j =>
      if status = 3 then (b, o.tiers)
      else if status ≠ 0 then (close b j (memToStatus status), o.tiers)
      else
        let m := ({ b := b, t := o.tiers } : Move).store env o.remote ring index dh doff (sliceZ bytes skip len)
        let j := { j with pendingIds := j.pendingIds ++ m.ids }
        (close m.b j m.status, m.t)
  | .copyWrite index ring =>
    match find ring index with
    | none => (b, o.tiers)
    | some j => if status = 3 then (b, o.tiers) else (close b j (memToStatus status), o.tiers)
  | .callRead index ring pos skip len =>
    match find ring index with
    | none => (b, o.tiers)
    | some j =>
      let j := { j with rowIds := j.rowIds.filter (· != id) }
      if status = 3 then (b, o.tiers)
      else if status ≠ 0 then
        (b.setJob { j with rowsLeft := 0, status := if j.status = 0 then memToStatus status else j.status }, o.tiers)
      else (b.setJob { j with row := putAt j.row pos (sliceZ bytes skip len) }, o.tiers)
  | .call index ring =>
    match find ring index with
    | none => (b, o.tiers)
    | some j => (close b j (if status = 0 then 0 else 7), o.tiers)
  | _ => (b, o.tiers)

/-- The descriptor that completes next (R144): the first of the ring, or any firing's, once nothing of it is in flight. -/
def Block.readyJob (b : Block) (ring : Bool) : Option PJob :=
  let ready := fun (j : PJob) => j.started && !j.stopped && j.rowsLeft == 0 && j.pendingIds.isEmpty && j.rowIds.isEmpty
  if ring then
    match b.jobs.find? fun j => j.fromRing with
    | some j => if ready j then some j else none
    | none => none
  else b.jobs.find? fun j => !j.fromRing && ready j

/-- The completion token's payload: its first byte is the status (R144). -/
def statusPayload (isData : Bool) (s : Nat) : List Byte := sliceZ [BitVec.ofNat 8 s] 0 (if isData then 64 else 8)

/-- What every completion does: counters, the list of jobs, the input entries of a firing (R144, R162). -/
def Block.endJob (b : Block) (env : Env) (j : PJob) : Block :=
  let b := if j.status = 0 then b else b.set PKH_STATUS.last_err j.status
  let b := b.count PKH_BYTES.count j.bytes
  let b : Block := { b with jobs := b.jobs.filter fun x => !(x.fromRing == j.fromRing && x.index == j.index) }
  (b.jobsActive.freeEntries j.held).progress env

/-- DESCRIPTOR_COMPLETE of a ring descriptor (R144). -/
def Block.completeRing (b : Block) (env : Env) (j : PJob) : Block :=
  let a := b.ringAddr j.index
  let (b, line) := b.readLines [a]
  let b := b.writeLines [(a, line.take 56 ++ leBytes 1 j.status ++ (line.drop 57).take 1 ++ leBytes 6 j.done)]
  let b := b.set PKH_TAIL.index ((j.index + 1) % b.ringSize)
  let b : Block := { b with threads := b.threads.map fun (t, th) => (t, { th with posted := th.posted.filter (· != j.index) }) }
  b.endJob env j

/-- DESCRIPTOR_COMPLETE (R144, R158, R163). -/
def Block.doComplete (b : Block) (env : Env) (o : Outside) (ring : Bool) : Block :=
  if b.halted then b
  else
    match b.readyJob ring with
    | none => b
    | some j =>
      let d := j.desc
      if ring then
        let done := b.completeRing env j
        if !d.token then done
        else
          let isData := d.cq < 240 && !b.qCtl d.cq
          let tag := (if d.stamp then j.stride % 256 * 65536 else 0) + d.tag
          (done.enterToken env d.cq tag isData env.p none (statusPayload isData j.status)).getD b
      else if !d.token then b.endJob env j
      else
        match b.outputArc j.node 0 with
        | none => b.endJob env j
        | some i =>
          if !b.mayEmit i then b.creditWait env (waitJob j.index) i
          else
            let isData := match b.arcs[i]? with | some x => !o.ctlq x | none => true
            ((b.takeCredit (waitJob j.index) i).emitToken env i j.tag isData (statusPayload isData j.status) .other).endJob env j

end Sys2Proof.Machine
end

