-- ==== Sys2Proof/Machine/Parts.lean ====
section
/-! DEFINITION. The parts of the module outside its blocks, as plain data: Dispatch, the ports, the twin, recovery,
screening and the Farrier. -/

namespace Sys2Proof.Machine

/-- A command entry as Dispatch fetches it (R389); `bad` says that its op is undefined or a reserved field is not zero. -/
structure Cmd where
  ring : Nat
  seq : Nat
  op : Nat
  multi : Bool
  stride : Nat
  addr : Nat
  tier : Nat
  lines : Nat
  lblock : Nat
  queue : Nat
  tag : Nat
  ident : Nat
  bad : Bool
deriving DecidableEq, Repr

/-- A command that Dispatch has accepted and not completed (R391). `step` is 0 until its op is acted on, 1 while it waits,
2 while an ADMIT's answer is awaited; `a` is the admission stride. -/
structure Work where
  cmd : Cmd
  step : Nat := 0
  a : Nat := 0
  from_ : Nat := 0
deriving DecidableEq, Repr

/-- A completion (R396). -/
structure Completion where
  ring : Nat
  seq : Nat
  op : Nat
  status : Nat
  detail : Nat
  cpl : Nat
  stride : Nat
  ident : Nat
deriving DecidableEq, Repr

/-- The job that holds the device (R392, R393): launched, or running once `begun`; `endAt` is END's stride. -/
structure Job where
  ring : Nat
  seq : Nat
  ident : Nat
  multi : Bool
  start : Nat
  begun : Bool := false
  endAt : Option Nat := none
  back : Bool := false
deriving DecidableEq, Repr

/-- Dispatch (R388 to R400). `log` is the admission log; `again` are the inputs that recovery admits again, with their
strides; `acked` is the highest stride of the job acknowledged for the first time. -/
structure Dispatch where
  work : List Work := []
  done : List Completion := []
  history : List Completion := []
  log : List (Cmd × Nat) := []
  again : List Work := []
  turn : Nat := 0
  granted : List Nat := []
  job : Option Job := none
  acked : Option Nat := none
  cpl : Nat := 0
  beatAt : Nat := 0
deriving DecidableEq, Repr

/-- An output frame with the stride it belongs to (R372, R374): the bytes before the stamp and the checks are filled in, the
template's flags and the offset of its IP header; `stampAt` is where its stamp stands, if it has one. -/
structure OutFrame where
  stride : Nat
  stamp : Nat
  stampAt : Option Nat
  fabric : Bool
  flags : Nat
  ip : Nat
  bytes : List Byte
deriving DecidableEq, Repr

/-- A fabric frame that awaits its acknowledgement (R405). -/
structure FabFrame where
  peer : Nat
  seq : Nat
  bytes : List Byte
  sentAt : Nat
  sends : Nat := 1
deriving DecidableEq, Repr

/-- A fabric frame's content that a command has still to take: type, sender, ident field and payload (R405). -/
structure FabIn where
  type : Nat
  src : Nat
  ident : Nat
  payload : List Byte
deriving DecidableEq, Repr

/-- A remote access that a fabric port carries (R405): the packet of the block that made it, for the answer; or the tier and address of
a line that the chip steward reads again from its remote source (R260). -/
structure FabReq where
  node : Nat
  pkt : Pkt
  back : Option (Nat × Nat) := none
deriving DecidableEq, Repr

/-- A Trace port 0 to 7 or a yoke port, 8 and 9 (R364, R402 to R405): whether the link is up, the output frames held, those
sent of strides not yet released whole and those that replay must not send again (R28), the templates, the frame numbers
per peer, and what awaits the far end. -/
structure Port where
  up : Bool := false
  held : List OutFrame := []
  sent : List OutFrame := []
  skip : List OutFrame := []
  templates : List Byte := []
  tx : Cells Nat := []
  rx : Cells Nat := []
  unacked : List FabFrame := []
  dead : List Nat := []
  remote : List FabReq := []
  inbox : List FabIn := []
deriving DecidableEq, Repr

/-- A port that nothing has touched. -/
def portInit : Nat → Port := fun _ => {}

/-- What a HELLO said (R366). -/
structure Peer where
  identity : Nat
  variant : Nat
  sequence : Nat
  digest : Nat
  twin : List Byte
  pref : Nat
  ready : Bool
deriving DecidableEq, Repr

/-- An ADMIT record of the near twin (R371). -/
structure TwinAdmit where
  ident : Nat
  stride : Nat
  length : Nat
  crc : Nat
deriving DecidableEq, Repr

/-- The twin (R364 to R384). `before` is the state held before op 1 or op 3; `nonceSent`, `nonceGot` and `attested` follow
pairing step 3; `mine` and `theirs` are the chip tallies by stride; `bad` is a mismatch with the number of attempts;
`suspects` are the logical blocks whose tallies differ, and `guilty` a block that its shadow disagrees with; `rejoinAt` is C_r. -/
structure Twin where
  before : Nat := 0
  since : Nat := 0
  peer : Option Peer := none
  nonceSent : Bool := false
  nonceGot : List Byte := []
  attested : Bool := false
  mine : Cells Word := []
  theirs : Cells Word := []
  compared : Option Nat := none
  peerDone : Nat := 0
  peerRecovering : Bool := false
  peerC0 : Option Nat := none
  peerQuiet : Option Nat := none
  quietSaid : Option Nat := none
  bad : Option (Nat × Nat) := none
  btally : List Nat := []
  suspects : List Nat := []
  guilty : Option Nat := none
  admits : List TwinAdmit := []
  inputs : List (Nat × List Byte) := []
  wanted : List Nat := []
  saves : List (Nat × Nat) := []
  rejoinAt : Option Nat := none
  doubt : Option (Nat × Nat) := none
  copying : Bool := false
  det : Nat := 0
  gone : Option Nat := none
deriving DecidableEq, Repr

/-- A fault that a recovery handles: what CHP_RCV_STATUS.kind shows, the fenced block, and the code. -/
structure RcvFault where
  kind : Nat
  block : Option Nat := none
  code : Nat := 0
deriving DecidableEq, Repr

/-- The recovery in progress (R344): F, C0, the blocks restarted, those still to restore, and when it began. `tether` are
the logical blocks whose timer fired; `rejoin` is the stride after which rejoin began. -/
structure Recovery where
  active : Bool := false
  faults : List RcvFault := []
  fault : Nat := 0
  from_ : Nat := 0
  since : Nat := 0
  replaying : Bool := false
  tether : List Nat := []
  rejoin : Option Nat := none
  longer : Bool := false
deriving DecidableEq, Repr

/-- A shadow sample (R317 to R319): the spare, the sampled block, stride C, the first stride that the spare runs, and the first verdict's
tallies while the retry runs. -/
structure Shadow where
  spare : Nat
  block : Nat
  stride : Nat
  since : Nat
  ackAt : Option Nat := none
  first : Option (Option Nat × Nat) := none
deriving DecidableEq, Repr

/-- A planned swap or a test in place (R312, R313): the block and, for a swap, the spare. -/
structure Plan where
  block : Nat
  spare : Option Nat
  stride : Nat
deriving DecidableEq, Repr

/-- Screening (R302 to R333): per region the shadow count and rotation; the samples; the swaps planned; the last
preemptions; the pass times of the manger engines' slices, 4 × engine + slice; the engines' clean runs; units that have
lapsed; when the last clean sweep started and the last lasting class was found; and per block the strides of its last clean
verdict and of taking up its logical block. -/
structure Screen where
  acc : Cells Nat := []
  rotation : Cells Nat := []
  shadows : List Shadow := []
  plans : List Plan := []
  preempted : Cells Nat := []
  engines : Cells Nat := []
  clean : Cells Nat := []
  lapsed : List Nat := []
  sweepAt : Option Nat := none
  lastingAt : Option Nat := none
  cleanAt : Cells Nat := []
  tookAt : Cells Nat := []
deriving DecidableEq, Repr

/-- A management session (R420): whether its client's certificate chains to the operator anchor, and its next record to push,
if it subscribes. -/
structure Session where
  open_ : Bool := false
  anchored : Bool := false
  next : Option Nat := none
deriving DecidableEq, Repr

/-- A closed session. -/
def sessionInit : Nat → Session := fun _ => {}

/-- A collected sample of a block (R444). -/
structure Sample where
  kind : Nat
  pblock : Nat
  lblock : Nat
  missing : Bool
  bytes : List Byte
deriving DecidableEq, Repr

/-- A firmware component's two slots (R410, R425 to R427): the images, which slot is active, whether the other is staged,
and whether the running slot was activated and not committed. -/
structure Firmware where
  slotA : List Byte := []
  slotB : List Byte := []
  active : Nat := 0
  staged : Bool := false
  fresh : Bool := false
  waits : Bool := false
deriving DecidableEq, Repr

/-- A component that nothing has been staged for. -/
def fwInit : Nat → Firmware := fun _ => {}

/-- The Farrier (R409 to R431): its log with the records not yet in flash last, its configuration, keys, firmware and
attestation state; `packNext` is a pattern pack pushed during bring-up (R300). `awake` is false in Off and during a restart; `reading` says that sensors are read; `rom` that it runs from
ROM after both slots failed. -/
structure Farrier where
  awake : Bool := false
  rom : Bool := false
  reading : Bool := false
  coolLost : Bool := false
  vendorRoot : List Byte := []
  log : List (Nat × Ev) := []
  inFlash : Nat := 0
  next : Nat := 1
  mark : Nat := 1
  flushAt : Nat := 0
  sessions : Cells Session := []
  riderGib : Nat := 64
  riderNow : Nat := 64
  mgmtAddr : List Byte := []
  mgmtNow : List Byte := []
  mgmtCap : Nat := 0
  tripC : Nat := 110
  anchor : Option (List Byte) := none
  fwKeys : List (List Byte) := []
  packKeys : List (List Byte) := []
  firmware : Cells Firmware := []
  activating : Option (Nat × Nat) := none
  actStage : Nat := 0
  actDefer : Nat := 0
  actAt : Nat := 0
  pack : List Byte := []
  packNext : List Byte := []
  flashCount : Nat := 0
  reserved : Nat := 0
  seedGone : Bool := false
  sensAt : Cells Nat := []
  sumW : Nat := 0
  samplesW : Nat := 0
  cool : Cells Nat := []
  hot : List Nat := []
  unmetAt : Option Nat := none
  railBreak : Bool := false
  trained : List Nat := []
  coldSince : Bool := true
  collections : List (List Sample) := []
  misses : List Nat := []
deriving DecidableEq, Repr

/-- The newest valid pattern pack in flash (R293). -/
def Farrier.newestPack (f : Farrier) : List Byte := if f.packNext.isEmpty then f.pack else f.packNext

/-- Where bring-up stands (R289 to R300): when it and its present step began, what denied the fast path, whether the Rider
complex runs (R291), and its last heartbeat (R438). -/
structure Bringup where
  since : Nat := 0
  stepAt : Nat := 0
  deny : Nat := 0
  rider : Bool := false
  beatAt : Option Nat := none
deriving DecidableEq, Repr

end Sys2Proof.Machine
end

