-- ==== Sys2Proof/Machine/State.lean ====
section
/-! DEFINITION. The state of the module, as plain data: everything the spec gives it, and the commands that wait. -/

namespace Sys2Proof.Machine

/-- Why a step stops. No command of this block stops with a fault: the type has the one constructor that a step over a
missing front command could name, and no meaning raises it. -/
inductive Fault where
  /-- Raised by nothing; safe. -/
  | impossible
deriving DecidableEq, Repr

/-- Why a command is not given a meaning. -/
inductive Refusal where
  /-- The arm of a command that has no meaning yet; safe. -/
  | notModelled (mnemonic : String)
deriving DecidableEq, Repr

/-- The connector's input pins and supply (R459 to R463), and the capacity of the RDIMM in each socket in GiB, 0 for an
empty one (R471); `tap` is the instruction in the test access port (R428). -/
structure Pins where
  input : Bool := false
  moduleEn : Bool := false
  resetN : Bool := true
  lowSince : Nat := 0
  lowFor : Nat := 0
  twinDet : Nat := 0
  railsUp : Bool := false
  powerGood : Bool := false
  enAgain : Bool := false
  dimms : List Nat := List.replicate 12 256
  tap : TapInstr := .idcode
deriving DecidableEq, Repr

/-- A region: its steward's registers and what it keeps of the current stride (R34, R412, R441). -/
structure Region where
  regs : Regs := []
  ev : List Ev := []
  acked : List Nat := []
  lastAck : Nat := 0
  resets : List Nat := []
  tackLost : Bool := false
deriving DecidableEq, Repr

/-- A region that nothing has touched. -/
def regionInit : Nat → Region := fun _ => {}

/-- A remount-table entry (R361): state 0 in service, 1 spare or not in service, 2 fenced, 3 quarantine, 4 retired,
5 shadowing, 6 testing. -/
structure Rmt where
  state : Nat := 1
  foreign : Bool := false
  pending : Bool := false
  lblock : Nat := 0x7FF
  next : Nat := 0x7FF
deriving DecidableEq, Repr

/-- The Cadence root (R32 to R56): times are in ns of the module's timebase. `hold` is the tick of a beat withheld for a
swap, a test in place or an activation; `programmed` the period that the image or software has set; `done` says that every acknowledgement of the stride is in; `good` and `bad` count
exchanges in a row; `syncAt` is the stride of the last exchange; `flipWaits` are the regions whose flips wait for the lease (R199); `slew` is the phase still to be slewed (R53); `rate` is the
correction of the timebase in ppm and `frac` the millionths of a ns that it has gathered (R52, R53); `missing` says that a locked
follower's port went and its misses count (R54). `need` is the period that recomputed tables need, 0 for none, and `refit` says that the
next checkpoint stride after rejoin takes the period that the tables, the voltages or the end of synchronisation call for (R45, R48). -/
structure Cadence where
  beatAt : Nat := 0
  anchorAt : Nat := 0
  anchorStride : Nat := 0
  acked : List Nat := []
  lastAckAt : Nat := 0
  lastRegion : Nat := 0
  flipBeat : Bool := false
  flipAt : Nat := 0
  flipWaits : List Nat := []
  hold : Option Nat := none
  done : Bool := true
  programmed : Nat := 4000
  good : Nat := 0
  bad : Nat := 0
  syncAt : Option Nat := none
  slew : Int := 0
  rate : Int := 0
  frac : Int := 0
  missing : Bool := false
  need : Nat := 0
  refit : Bool := false
deriving DecidableEq, Repr

/-- A stud-book record (R322, R326): what kind of fact, about which unit or address, and when. -/
structure Stud where
  kind : Nat
  place : Nat
  info : Nat
  at_ : Nat
deriving DecidableEq, Repr

/-- A lease held or asked for (R356 to R358): `by_` is 0 for the device's own units, 1 for the Rider driver, 2 for the
Farrier mailbox. -/
structure Lease where
  code : Nat
  res : Nat
  by_ : Nat := 0
  since : Nat := 0
  starved : Bool := false
deriving DecidableEq, Repr

/-- The leases of the chip, in the order they were made. -/
structure Leases where
  held : List Lease := []
  waiting : List Lease := []
deriving DecidableEq, Repr

/-- An access of the Rider cores through their tier window that awaits its reply (R476). -/
structure RiderReq where
  id : Nat
  port : Nat
  core : Nat
  addr : Nat
  size : Nat
  write : Bool
deriving DecidableEq, Repr

/-- The fuse set (R1, R2, R298, R424, R426): `variant` is CHP_FUSE's part number code, `rollback` counts the blown fuses of each
firmware component, `lms` those of the attestation bank. DESIGN CHOICE, log entry 5: fuses are programmed at manufacture and the spec
names no module; State.reset is a DXB-1200-P20 with the image-signature fuse not blown. -/
structure Fuses where
  sigFuse : Bool := false
  variant : Nat := 0
  rollback : Cells Nat := []
  lms : Nat := 0
deriving DecidableEq, Repr

/-- The fused core voltage ceiling in mV of a part number (R1): 0 DXB-1200-P20, 1 DXB-1200-P16, 2 DXB-1200-P12. -/
def Fuses.vmaxMv (f : Fuses) : Nat := if f.variant = 0 then 800 else if f.variant = 1 then 740 else 680

/-- The fused continuous power cap in W of a part number (R1). -/
def Fuses.capW (f : Fuses) : Nat := if f.variant = 0 then 2000 else if f.variant = 1 then 1600 else 1200

/-- The images of the module (R278, R283): the committed one, whose share the tack stores hold; one being loaded or staged
with what its checks found; the staged one; when its quiet wait began; the time at which beat S of its swap may issue,
the later of its tick and the end of the load, and that tick (R286). -/
structure Images where
  committed : Option Img := none
  loading : Option (Img × Option Hold) := none
  staging : Option (Img × Option Hold) := none
  staged : Option Img := none
  quietAt : Nat := 0
  swapTick : Option Nat := none
  swapDue : Nat := 0
deriving DecidableEq, Repr

/-- The power manager (R30, R31, R418): region voltages in mV, those that a decision changes at the next checkpoint stride, and those
that a loaded or swapped image changes there (R278 step 5). -/
structure Power where
  volts : Cells Nat := []
  next : Option (List Nat) := none
  load : Option (List Nat) := none
deriving DecidableEq, Repr

/-- A region's voltage with no image: 0.68 V (R418). -/
def voltInit : Nat → Nat := fun _ => 680

/-- The result that a management command's answer carries (R323, R411, R415, R421, R424 to R429). -/
inductive MgmtResult where
  | ok | state | refused | logGone | logNotYet | logGap
  | pack (code : Nat)
  | fwBusy | fwFormat | fwDigest | fwSig | fwRollback | fwFailed | fwKarFailed
  | attestExhausted | attestLocked
deriving DecidableEq, Repr

/-- What leaves the module or is answered to its environment, oldest first. -/
inductive Output where
  | frame (port : Nat) (bytes : List Byte)
  | answer (session number : Nat) (result : MgmtResult) (bytes : List Byte)
  | record (session : Nat) (bytes : List Byte)
  | lag (session next : Nat)
  | report (what : String)
  | busError (port : Nat)
  | busData (port : Nat) (bytes : List Byte)
  | readZero (addr : Nat)
  | idcode (value : Nat)
deriving DecidableEq, Repr

/-- A region's mask of stopped and spare blocks is in its registers; the module's whole state follows. -/
structure State where
  pending : List Instr
  now : Nat
  freeCtr : Nat
  dev : Nat
  pins : Pins
  regs : Regs
  blocks : Cells Block
  regions : Cells Region
  endpoints : Cells MeshUnit
  routes : Cells Nat
  groups : Cells Nat
  rmt : Cells Rmt
  cad : Cadence
  sens : Cells Nat
  mgrProg : Cells (List Byte)
  restarts : List Nat
  fresh : List Nat
  leases : Leases
  calls : Cells (List Call)
  scrubbed : Cells Nat
  trainTemp : Cells Nat
  riderReqs : List RiderReq
  jobFault : Option (Nat × Nat)
  dispatch : Dispatch
  ports : Cells Port
  twin : Twin
  rcv : Recovery
  screen : Screen
  far : Farrier
  bring : Bringup
  chipResets : List Nat
  stud : List Stud
  fuses : Fuses
  images : Images
  power : Power
  signKeys : List (List Byte)
  hbm : Memory
  ddr : Memory
  ev : List Ev
  evCoalesced : Cells Nat
  out : List Output
deriving DecidableEq, Repr

/-- The module right after reset: Off, every register at its Reset column, every memory zero, nothing waiting. DESIGN CHOICE, log entry 30:
the stud book is empty, where R17 lets the factory retire up to three blocks of a region; so every block starts healthy. -/
def State.reset : State :=
  { pending := [], now := 0, freeCtr := 0, dev := 0, pins := {}, regs := [], blocks := [], regions := [], endpoints := [],
    routes := [], groups := [], rmt := [], cad := {}, sens := [], mgrProg := [], restarts := [], fresh := [], leases := {}, calls := [], scrubbed := [],
    trainTemp := [], riderReqs := [], jobFault := none, dispatch := {}, ports := [], twin := {}, rcv := {},
    screen := {}, far := {}, bring := {}, chipResets := [], stud := [],
    fuses := {}, images := {}, power := {}, signKeys := [], hbm := [], ddr := [], ev := [], evCoalesced := [], out := [] }

end Sys2Proof.Machine
end

