-- ==== Sys2Proof/Machine/Ops.lean ====
section
/-! DEFINITION. The operations that every family of commands shares: registers, blocks, regions, units, events on the
Halter, the device state, routes. -/

namespace Sys2Proof.Machine

/-- Device states by the code of R29. -/
def dOff : Nat := 0
def dBringup : Nat := 1
def dHeld : Nat := 2
def dReady : Nat := 3
def dRunning : Nat := 4
def dRecovering : Nat := 5
def dOos : Nat := 6

/-- A field of a chip steward, memory, or Farrier register. -/
def State.get (s : State) (f : Fld) : Nat := s.regs.get chipReset f

/-- Set such a field. -/
def State.set (s : State) (f : Fld) (v : Nat) : State := { s with regs := s.regs.set chipReset f v }

/-- Add to such a counter, which stops at its maximum (R6). -/
def State.count (s : State) (f : Fld) (n : Nat) : State := s.set f (min f.top (s.get f + n))

/-- Block `p`. -/
def State.block (s : State) (p : Nat) : Block := mget blockInit s.blocks p

/-- Replace block `p`. -/
def State.setBlock (s : State) (p : Nat) (b : Block) : State := { s with blocks := mset blockInit s.blocks p b }

/-- Region `r`. -/
def State.region (s : State) (r : Nat) : Region := mget regionInit s.regions r

/-- Replace region `r`. -/
def State.setRegion (s : State) (r : Nat) (x : Region) : State := { s with regions := mset regionInit s.regions r x }

/-- A field of a region register. -/
def State.rget (s : State) (r : Nat) (f : Fld) : Nat := (s.region r).regs.get rgnReset f

/-- Set a field of a region register. -/
def State.rset (s : State) (r : Nat) (f : Fld) (v : Nat) : State :=
  let x := s.region r
  s.setRegion r { x with regs := x.regs.set rgnReset f v }

/-- Add to a region counter, which stops at its maximum (R6). -/
def State.rcount (s : State) (r : Nat) (f : Fld) (n : Nat) : State := s.rset r f (min f.top (s.rget r f + n))

/-- The region of a physical block (R15). -/
def regionOf (p : Nat) : Nat := p / 40 / 8 * 4 + p % 40 / 10

/-- The physical blocks of a region in ascending number. -/
def regionBlocks (r : Nat) : List Nat := (List.range 80).map fun b => blockOfBit r b

/-- An empty unit. -/
def unitInit : Nat → MeshUnit := fun _ => {}

/-- The packet sender and receiver of a unit number (R180). -/
def State.unit (s : State) (u : Nat) : MeshUnit := if u < 1280 then (s.block u).mesh else mget unitInit s.endpoints u

/-- Replace it. -/
def State.setUnit (s : State) (u : Nat) (m : MeshUnit) : State :=
  if u < 1280 then s.setBlock u { s.block u with mesh := m }
  else { s with endpoints := mset unitInit s.endpoints u m }

/-- A unit hands a packet over for injection. -/
def State.sendFrom (s : State) (u : Nat) (h : Held) : State :=
  let m := s.unit u
  s.setUnit u { m with sendq := m.sendq ++ [h] }

/-- The router that a unit attaches to (R180). -/
def routerOf (u : Nat) : Nat :=
  if u < 1280 then u
  else if u < 1360 then
    let k := (u - 1280) / 10
    let i := (u - 1280) % 10
    if k < 4 then 31 * 40 + 10 * k + i else 10 * (k - 4) + i
  else if u < 1372 then
    let c := u - 1360
    if c < 6 then (2 + 5 * c) * 40 else (2 + 5 * (c - 6)) * 40 + 39
  else if u < 1384 then
    let p := u - 1376
    if p < 4 then (4 + 5 * p) * 40 else (4 + 5 * (p - 4)) * 40 + 39
  else if u < 1386 then (24 + 5 * (u - 1384)) * 40 + 39
  else if u < 1394 then (24 + 5 * (u - 1392)) * 40
  else 16 * 40

/-- Whether a number names an endpoint (R180). -/
def isEndpoint (u : Nat) : Bool :=
  (decide (1280 ≤ u) && decide (u < 1372)) || (decide (1376 ≤ u) && decide (u < 1386)) ||
    (decide (1392 ≤ u) && decide (u < 1394)) || u == 1400

/-- The last reading of a sensor (R416). -/
def State.sensor (s : State) (i : Nat) : Nat := (mget natZero s.sens i) % 2 ^ 32

/-- A region's core voltage monitor (R416). -/
def State.regionMv (s : State) (r : Nat) : Nat := s.sensor (64 + 2 * r)

/-- A steward's record entries when a quarter of `n` is reserved: whether a record is kept (R412). -/
def keeps (n held : Nat) (e : Ev) : Bool := decide (held < (if e.corrected then n / 4 * 3 else n))

/-- A record reaches the chip steward (R412). -/
def State.chipRecord (s : State) (e : Ev) : State :=
  if keeps 8192 s.ev.length e then { s with ev := s.ev ++ [e] }
  else if e.corrected then { s with evCoalesced := mset natZero s.evCoalesced (e.cell * 256 + e.code) (mget natZero s.evCoalesced (e.cell * 256 + e.code) + 1) }
  else { s with ev := s.ev ++ [e] }

/-- The last stride that has begun: in a recovery the fault stride, however far its replay has come. -/
def State.begun (s : State) : Nat := if s.rcv.active then max s.rcv.fault (s.get CAD_STRIDE.stride) else s.get CAD_STRIDE.stride

/-- The Cadence's present stride count, the time of its beat. -/
def State.stamp (s : State) (e : Ev) : Ev :=
  { e with stride := s.get CAD_STRIDE.stride, beatNs := s.cad.beatAt, subNs := min (s.now - s.cad.beatAt) 0xFFFFFFFF }

/-- An event of the chip steward, a stack, a channel, a port or the Farrier (R433, R434). -/
def State.raise (s : State) (level place : Nat) (e : Ev) : State :=
  s.chipRecord (s.stamp { e with level := level, place := place })

/-- A record passes a region steward, which fills what it knows (R432). -/
def State.regionFill (s : State) (r : Nat) (e : Ev) : Ev :=
  { e with beatNs := s.cad.beatAt, temp := s.sensor (4 * r) % 65536, mv := s.regionMv r % 65536 }

/-- An event of a region steward. -/
def State.raiseRegion (s : State) (r : Nat) (e : Ev) : State :=
  s.chipRecord (s.regionFill r (s.stamp { e with level := 1, place := r }))

/-- Records move from a list into a buffer of `n` entries while it keeps them: what moves, and what stays. -/
def halterMove (n : Nat) : List Ev → List Ev → List Ev × List Ev
  | buf, [] => (buf, [])
  | buf, e :: es =>
    if keeps n buf.length e then halterMove n (buf ++ [e]) es
    else
      let (buf, rest) := halterMove n buf es
      (buf, e :: rest)

/-- A region steward's buffer moves up into the chip steward's. -/
def State.drainRegion (s : State) (r : Nat) : State :=
  let x := s.region r
  let (chip, rest) := halterMove 8192 s.ev x.ev
  ({ s with ev := chip } : State).setRegion r { x with ev := rest }

/-- A block steward's coalesced counts become records once entries are free (R412). -/
def coalescedRecords (b : Block) : List Ev :=
  b.coalesced.map fun (k, n) =>
    { code := 0xA5, cell := k / 256, detail := k % 256, detail2 := n, lblock := b.lblock, stride := b.stride.toNat,
      beatNs := b.beatAt }

/-- A block's records move up the Halter as far as there is room (R412), and its transient classifications are counted (R324). -/
def State.drainEv (s : State) (p : Nat) : State :=
  let b := s.block p
  let r := regionOf p
  let x := s.region r
  let (buf, rest) := halterMove 2048 x.ev (b.ev.map (s.regionFill r))
  let co := if rest.length < 12 then coalescedRecords b |>.map fun e => { e with place := p } else []
  let s := s.setBlock p { b with ev := rest ++ co, coalesced := if rest.length < 12 then [] else b.coalesced }
  let repeats := fun (es : List Ev) => (es.filter fun e => e.outcome == 1).length
  let s := s.count TST_CHP_TRANSIENT.count (repeats b.ev - repeats rest)
  (s.setRegion r { x with ev := buf }).drainRegion r

/-- The four words of CAD_SEED (R50). -/
def State.seeds (s : State) : Word × Word × Word × Word :=
  let w := fun i => mget chipReset s.regs (CAD_SEED.off i)
  (w 0, w 1, w 2, w 3)

/-- The moves of the table titled Device state transitions (R4, R23); R4: any move not in it does not occur. -/
def mayMove (a d : Nat) : Bool :=
  d == dOff || (d == dOos && a != dOff) || (d == dBringup && a != dBringup) || (a == dBringup && d == dHeld) || (a == dHeld && d == dReady) ||
    (a == dReady && (d == dHeld || d == dRunning)) || (a == dRunning && (d == dReady || d == dRecovering || d == dHeld)) ||
    (a == dRecovering && (d == dRunning || d == dReady || d == dHeld))

/-- The device moves to another state where the table of R4 lets it (R29): CHP_STATE follows. -/
def State.goTo (s : State) (d : Nat) : State :=
  if s.dev = d ∨ mayMove s.dev d = false then s
  else (({ s with dev := d } : State).set CHP_STATE.prev s.dev).set CHP_STATE.state d

/-- Whether Trace and yoke outputs are gated (R25). -/
def State.gated (s : State) : Bool := s.dev == dOff || s.dev == dBringup || s.dev == dHeld || s.dev == dOos

/-- Whether a job holds the device. -/
def State.inJob (s : State) : Bool := s.dev == dRunning || s.dev == dRecovering

/-- A remount-table entry (R361): the states are coded as in RGN_RMT. -/
def rmtInit : Nat → Rmt := fun _ => {}

/-- The entry of physical block `p`. -/
def State.rmtOf (s : State) (p : Nat) : Rmt := mget rmtInit s.rmt p

/-- Replace it. -/
def State.setRmt (s : State) (p : Nat) (x : Rmt) : State := { s with rmt := mset rmtInit s.rmt p x }

/-- The physical block on which a logical block is in service (R18, R361). -/
def State.pblockOf (s : State) (l : Nat) : Option Nat :=
  (s.rmt.find? fun e => e.2.lblock == l && e.2.state == 0).map Prod.fst

/-- The core voltage of a region in mV (R30, R31). -/
def State.volt (s : State) (r : Nat) : Nat := mget voltInit s.power.volts r

/-- Whether queue `q` of logical block `l` feeds a join (R165). -/
def State.joinOf (s : State) (q l : Nat) : Bool :=
  match s.pblockOf l with
  | some p => (s.block p).get (BLK_Q_CFG.join q) == 1
  | none => false

/-- What block `p` reads of the module. -/
def State.env (s : State) (p : Nat) : Env :=
  { p := p, now := s.now, seeds := s.seeds, holding := s.dev == dHeld || s.dev == dReady, free := s.freeCtr,
    mv := s.volt (regionOf p), join := fun a => if a.mcast then a.members.any (s.joinOf a.queue) else s.joinOf a.queue a.dest }

/-- One step of block `p`: its records go up the Halter, and a free value drawn is never drawn again. -/
def State.onBlock (s : State) (p : Nat) (f : Block → Env → Block) : State :=
  let b := f (s.block p) (s.env p)
  (({ s with freeCtr := s.freeCtr + 1 } : State).setBlock p b).drainEv p

/-- The physical blocks in service, ascending. -/
def State.inService (s : State) : List Nat := (s.rmt.filter fun e => e.2.state == 0).map Prod.fst

/-- Apply a step to every block of a list. -/
def State.onBlocks (s : State) (f : Block → Env → Block) (ps : List Nat) : State :=
  ps.foldl (fun s p => s.onBlock p f) s

/-- A port: 0 to 7 Trace, 8 and 9 yoke. -/
def State.port (s : State) (i : Nat) : Port := mget portInit s.ports i

/-- Replace it. -/
def State.setPort (s : State) (i : Nat) (x : Port) : State := { s with ports := mset portInit s.ports i x }

/-- Whether Trace port `i` is enabled, in fabric mode and up (R54, R405). -/
def State.fabricUp (s : State) (i : Nat) : Bool :=
  s.get (CMD_TRACE_CTL.mode i) == 0 && s.get (CMD_TRACE_CTL.enable i) == 1 && (s.port i).up

/-- The lowest-numbered Trace port in fabric mode that is up (R242, R405). -/
def State.remotePort (s : State) : Option Nat := (List.range 8).find? s.fabricUp

/-- The epoch that is current (R195). -/
def State.epoch (s : State) : Nat := s.rget 0 RGN_EPOCH.epoch

/-- The key of a route entry. -/
def routeKey (owner epoch idx : Nat) : Nat := (owner * 2 + epoch) * 1408 + idx

/-- The key of a word of a group entry. -/
def groupKey (owner epoch g w : Nat) : Nat := ((owner * 2 + epoch) * 64 + g) * 32 + w

/-- A route entry (R187). -/
def State.route (s : State) (owner epoch idx : Nat) : Nat := mget natZero s.routes (routeKey owner epoch idx)

/-- A word of a group entry (R189). -/
def State.group (s : State) (owner epoch g w : Nat) : Nat := mget natZero s.groups (groupKey owner epoch g w)

/-- The 1,280 target bits of a group (R189). -/
def State.groupMask (s : State) (owner epoch g : Nat) : Nat :=
  (List.range 20).foldl (fun a i => a + s.group owner epoch g (1 + i) * 2 ^ (64 * i)) 0

/-- The 352-bit string of a group's detour members (R189). -/
def State.groupDetour (s : State) (owner epoch g : Nat) : Nat :=
  (List.range 6).foldl (fun a i => a + s.group owner epoch g (21 + i) * 2 ^ (64 * i)) 0

/-- Whether a group is in use (R189). -/
def State.groupOk (s : State) (owner g : Nat) : Bool := nbit (s.group owner s.epoch g 0) 63

/-- Whether a rewrite of the full stud book keeps a record for good (R430): kinds 1, 3, 6 and 9, a row once repaired, an engine
once retired. -/
def Stud.permanent (x : Stud) : Bool :=
  x.kind == 1 || x.kind == 3 || x.kind == 6 || x.kind == 9 || (x.kind == 4 && x.info == 2) || (x.kind == 5 && x.info == 2)

/-- The rewrite of a full stud book (R430): every permanent record, and the latest of every other kind per unit. -/
def studRewrite : List Stud → List Stud
  | [] => []
  | x :: xs =>
    if x.permanent || !(xs.any fun y => !y.permanent && y.kind == x.kind && y.place == x.place) then x :: studRewrite xs
    else studRewrite xs

/-- The records that a copy of 4 MiB holds (R410, R430). -/
def studRoom : Nat := 131072

/-- A stud-book record (R430): a full book is rewritten first. -/
def State.book (s : State) (kind place info : Nat) : State :=
  { s with stud := (if studRoom ≤ s.stud.length then studRewrite s.stud else s.stud) ++ [⟨kind, place, info, s.now⟩] }

/-- A memory tier view of the module (R236, R240, R259). -/
def State.tiers (s : State) : Tiers :=
  let cap := fun c =>
    if s.get (DDR_STATUS.trained c) = 1 then s.get (DDR_STATUS.capacity c) * 2 ^ 30 else 0
  let rng := fun (i : Nat) =>
    let k := i / 16
    let j := i % 16
    if s.get (MGR_SIG_RANGE.enable k j) = 1 then
      [(k * 2 ^ 36 + s.get (MGR_SIG_RANGE.base k j) * 1024, s.get (MGR_SIG_RANGE.units k j) * 1024),
       (k * 2 ^ 36 + s.get (MGR_SIG_TABLE.addr k j), s.get (MGR_SIG_RANGE.units k j) * 8)]
    else []
  { hbm := s.hbm, ddr := s.ddr, caps := (List.range 12).map cap, protected_ := (List.range 128).flatMap rng }

end Sys2Proof.Machine
end

