-- ==== Sys2Proof/Machine/Jobs.lean ====
section
/-! DEFINITION. Dispatch: completions, jobs and the release of outputs (R28, R373, R388 to R400). -/

namespace Sys2Proof.Machine

/-- Completion status codes (R396). -/
def stOK : Nat := 0
def stIMAGE_UNCOMMITTED : Nat := 1
def stLAUNCH_UNALIGNED : Nat := 2
def stLAUNCH_LATE : Nat := 3
def stSYNC_UNLOCKED : Nat := 4
def stBAD_COMMAND : Nat := 5
def stNO_JOB : Nat := 6
def stSTRIDE_PAST : Nat := 7
def stADMIT_REFUSED : Nat := 8
def stMEMORY_LOST : Nat := 13
def stCHECKPOINT_LOST : Nat := 14
def stTWIN_DETACHED : Nat := 15
def stREGION_DOWN : Nat := 16
def stPEER_RESET : Nat := 17
def stREMOTE_LOST : Nat := 18
def stABORTED : Nat := 19

/-- Replace Dispatch. -/
def State.setDispatch (s : State) (d : Dispatch) : State := { s with dispatch := d }

/-- The sequence number after another (R390). -/
def nextSeq (n : Nat) : Nat := if n = 0xFFFFFFFF then 1 else n + 1

/-- How far a sequence number lies behind an expected one, among the numbers 1 to 2^32 − 1. -/
def seqBehind (want seq : Nat) : Nat := (want + 0xFFFFFFFF - seq % 0xFFFFFFFF) % 0xFFFFFFFF

/-- CMD_LAST_DONE follows the oldest command of a ring that is not done (R397). -/
def State.doneFloor (s : State) (r : Nat) : State :=
  match s.dispatch.work.find? fun w => w.cmd.ring == r with
  | none => s.set (CMD_LAST_DONE.seq r) (s.get (CMD_LAST_ACCEPTED.seq r))
  | some w =>
    let v := if w.cmd.seq = 1 then (if s.get (CMD_LAST_DONE.seq r) = 0 then 0 else 0xFFFFFFFF) else w.cmd.seq - 1
    s.set (CMD_LAST_DONE.seq r) v

/-- A command completes (R396, R397): it waits for room in the completion ring, and the history keeps it. -/
def State.finish (s : State) (w : Work) (status detail stride ident : Nat) : State :=
  let d := s.dispatch
  let c : Completion := ⟨w.cmd.ring, w.cmd.seq, w.cmd.op, status, detail, (d.cpl + 1) % 2 ^ 64, stride, ident⟩
  let hist := d.history ++ [c]
  (s.setDispatch { d with
    work := d.work.erase w, done := d.done ++ [c], history := hist.drop (hist.length - 4096), cpl := c.cpl }).doneFloor w.cmd.ring

/-- A refusal or a plain completion of a command, with its own ident. -/
def State.reply (s : State) (w : Work) (status stride : Nat) : State := s.finish w status 0 stride w.cmd.ident

/-- Replace a command that Dispatch holds. -/
def State.setWork (s : State) (w w' : Work) : State :=
  s.setDispatch { s.dispatch with work := s.dispatch.work.map fun x => if x == w then w' else x }

/-- The oldest command of an op that none of its ring stands before unacted (R388). -/
def State.nextWork (s : State) (op : Nat) : Option Work :=
  ((s.dispatch.work.zipIdx.find? fun (w, i) => w.step == 0 && w.cmd.op == op &&
      !((s.dispatch.work.take i).any fun x => x.step == 0 && x.cmd.ring == w.cmd.ring)).map Prod.fst)

/-- CMD_JOB follows the job. -/
def State.showJob (s : State) : State :=
  match s.dispatch.job with
  | none => ((s.set CMD_JOB.state 0).set CMD_JOB.ring 0).set CMD_JOB.seq 0
  | some j =>
    let st := if !j.begun then 1 else if j.endAt.isSome then 3 else 2
    ((s.set CMD_JOB.state st).set CMD_JOB.ring j.ring).set CMD_JOB.seq j.seq

/-- Whether a job is launched or running. -/
def State.hasJob (s : State) : Bool := s.dispatch.job.isSome

/-- Whether strides do the job's work: it has begun and has not stopped. -/
def State.jobRuns (s : State) : Bool :=
  match s.dispatch.job with
  | some j => j.begun
  | none => false

/-- Complete every command of a list of ops with a status, at no stride. -/
def State.finishAll (s : State) (ops : List Nat) (status : Nat) : State :=
  (s.dispatch.work.filter fun w => ops.contains w.cmd.op && w.step != 0).foldl (fun s w => s.finish w status 0 0 w.cmd.ident) s

/-- The LAUNCH that is held. -/
def State.launchWork (s : State) : Option Work := s.dispatch.work.find? fun w => w.cmd.op == 1 && w.step != 0

/-- A block works for no job: its scheduler is idle, but where a fence or a scan stops it. -/
def Block.idleWork (b : Block) : Block :=
  let b := if b.fenced || b.get BLK_DF_STATUS.state == 4 then b else b.set BLK_DF_STATUS.state 0
  { b with working := false, jobFault := none, owes := false }

/-- No block works for the job any more. -/
def State.stopWork (s : State) : State :=
  { s with blocks := s.blocks.map fun (p, b) => (p, b.idleWork) }

/-- The job is gone (R393): the locks of CAD_SEED and CMD_NODE open with it. -/
def State.dropJob (s : State) : State :=
  let d := s.dispatch
  let s := (s.setDispatch { d with job := none, again := [], log := [], acked := none }).showJob
  { s.stopWork with jobFault := none }

/-- The commands of a job that the device ends (R393): LAUNCH completes with the status, the fault code and the last stride
begun, and what else was open is aborted. -/
def State.closeJob (s : State) (status code lblock : Nat) : State :=
  if !s.hasJob then { s with jobFault := none }
  else
    let s := match s.launchWork with
      | some w => s.finish w status code s.begun (lblock % 2048)
      | none => s
    (s.finishAll [2, 3, 4] stABORTED).dropJob

/-- The device ends the job and returns to Ready. -/
def State.endJob (s : State) (status code lblock : Nat) : State :=
  let s := s.closeJob status code lblock
  if s.inJob then s.goTo dReady else s

/-- A unit ends the job with a status and a fault code; JOB_END carries it out. -/
def State.failJob (s : State) (status code : Nat) : State :=
  if s.hasJob then { s with jobFault := s.jobFault <|> some (status, code) } else s

/-- A reset or Off ends the job with no completion entry (R393, R400). -/
def State.forgetJob (s : State) : State :=
  { (s.setDispatch {}).stopWork with jobFault := none }

/-- The answer to an input that Dispatch sent (R394): an admitted input enters the admission log. -/
def State.admitAnswer (s : State) (ring seq status : Nat) : State :=
  let d := s.dispatch
  match d.again.find? fun w => w.step == 2 && w.cmd.ring == ring && w.cmd.seq == seq with
  | some w => s.setDispatch { d with again := d.again.erase w }
  | none =>
    match d.work.find? fun w => w.cmd.op == 2 && w.step == 2 && w.cmd.ring == ring && w.cmd.seq == seq with
    | none => s
    | some w =>
      let s : State := { s with twin := { s.twin with admits := s.twin.admits.filter fun x => x.ident != w.cmd.ident } }
      if status = 0 then
        (s.setDispatch { d with log := d.log ++ [(w.cmd, w.a)] }).finish w stOK 0 w.a w.cmd.ident
      else s.finish w stADMIT_REFUSED status 0 w.cmd.ident

/-- Whether a packet is an output for a Trace port that belongs to stride `n` (R70, R372). -/
def isOutput (n : Nat) (k : Pkt) (dest : Nat) : Bool :=
  decide (1376 ≤ dest) && decide (dest < 1384) && k.kind == kMESSAGE && nbits k.tag 23 16 == n % 256

/-- Whether every output of stride `n` has reached its port and none is held there (R373). -/
def State.outputsLeft (s : State) (n : Nat) : Bool :=
  let mesh := fun (m : MeshUnit) => !((m.sendq.any fun h => isOutput n h.pkt h.idx) || m.resend.any fun h => isOutput n h.pkt h.idx)
  (s.blocks.all fun x => mesh x.2.mesh) && (List.range 8).all fun i =>
    let m := s.unit (1376 + i)
    !(m.arrived.any fun k => isOutput n k (1376 + i)) && !(m.inbox.any fun k => isOutput n k (1376 + i)) &&
      !((s.port i).held.any fun f => f.stride == n)

/-- The image's gait applies, and no other is requested (R43, R286). -/
def State.takeGait (s : State) (gait : Nat) : State := (s.set CAD_CTL.gait gait).set CAD_CTL.gait_next gait

/-- Whether checked release is in force (R372). -/
def State.checked (s : State) : Bool :=
  s.get TWN_STATUS.checked == 1 && s.get TWN_STATUS.mode == 1 && s.get TWN_STATUS.state == 2

/-- Whether this twin is the off twin of a pair (R368). -/
def State.isOff (s : State) : Bool := s.get TWN_STATUS.role == 2 && s.get TWN_STATUS.state == 2

/-- Whether inputs take the admission strides of the partner's ADMIT records (R371, R395): at an off twin in Mirror, at a rejoiner (R382), and
in the job that a twin took over from its partner (R381). -/
def State.follows (s : State) : Bool :=
  (s.isOff && s.get TWN_STATUS.mode == 1) || (s.get TWN_STATUS.state == 5 && s.twin.before == 4) ||
    (s.get TWN_STATUS.state == 3 && (match s.dispatch.job with | some j => j.back | none => false))

/-- Whether this module may let the outputs of stride `n` go (R372, R380): not as off twin in Mirror or Standby, and under
checked release only after its comparison. -/
def State.mayRelease (s : State) (n : Nat) : Bool :=
  !s.gated && s.dev != dRecovering && !(s.get TWN_STATUS.state == 5 && s.twin.before == 4) && (s.jobFault.map Prod.fst != some stTWIN_DETACHED) && !(s.isOff && (s.get TWN_STATUS.mode == 1 || s.get TWN_STATUS.mode == 2)) &&
    (!s.checked || (match s.twin.compared with | some m => decide (n ≤ m) | none => false))

end Sys2Proof.Machine
end

