-- ==== Sys2Proof/Machine/Fabric.lean ====
section
/-! DEFINITION. Grilux fabric frames, yoke messages, the classes of memory areas, and what is forwarded to a twin (R255,
R273, R364 to R366, R370, R382, R405). -/

namespace Sys2Proof.Machine

/-- Frame types beyond the yoke messages (R405). -/
def fREMOTE_READ : Nat := 16
def fREMOTE_WRITE : Nat := 17
def fREMOTE_REPLY : Nat := 18
def fOUTPUT : Nat := 19
def fPEER_RESET : Nat := 20
def fACK : Nat := 21

/-- The bytes of a fabric frame: the Ethernet II header, the fabric header and the payload (R405). -/
def fabBytes (src dst type seq ack stamp ident : Nat) (payload : List Byte) : List Byte :=
  leBytes 12 (Config.macs src dst).toNat ++ [0x88#8, 0xB5#8] ++ leBytes 1 1 ++ leBytes 1 type ++ leBytes 2 src ++ leBytes 2 dst ++
    leBytes 2 payload.length ++ leBytes 4 seq ++ leBytes 4 ack ++ leBytes 8 stamp ++ leBytes 8 ident ++ payload

/-- A frame leaves a port. -/
def State.emit (s : State) (i : Nat) (bytes : List Byte) : State := { s with out := s.out ++ [.frame i bytes] }

/-- Whether a frame of a type may leave (R25): while outputs are gated none does, but the exchange by which a follower in Held locks
(R53; DEDUCED, log entry 10). -/
def State.mayEmit (s : State) (type : Nat) : Bool := !s.gated || (s.dev == dHeld && type == 11)

/-- A fabric frame leaves port `i` for a node (R405); while the gate holds it back it keeps its number and waits (R25). -/
def State.fabSend (s : State) (i peer type stamp ident : Nat) (payload : List Byte) : State :=
  let x := s.port i
  if !x.up then s
  else
    let seq := (mget natZero x.tx peer + 1) % 2 ^ 32
    let bytes := fabBytes (s.get CMD_NODE.node) peer type seq (mget natZero x.rx peer) stamp ident payload
    let go := s.mayEmit type
    let s := s.setPort i { x with
      tx := mset natZero x.tx peer seq,
      unacked := x.unacked ++ [{ peer := peer, seq := seq, bytes := bytes, sentAt := s.now, sends := b2n go }] }
    if go then s.emit i bytes else s

/-- An acknowledgement alone, of a frame of a type (R405): it takes no number and is not kept. -/
def State.fabAck (s : State) (i peer type : Nat) : State :=
  let x := s.port i
  if !x.up || !s.mayEmit type then s
  else s.emit i (fabBytes (s.get CMD_NODE.node) peer fACK (mget natZero x.tx peer) (mget natZero x.rx peer) 0 0 [])

/-- The yoke ports that are up. -/
def State.yokes (s : State) : List Nat := (List.range 2).filter fun j => (s.port (8 + j)).up

/-- The port for messages of a kind (R365): messages of one kind keep to one port while both are up. -/
def State.yokeFor (s : State) (code : Nat) : Option Nat :=
  match s.yokes with
  | [] => none
  | [j] => some (8 + j)
  | _ => some (8 + code % 2)

/-- Payload pieces of at most 8,192 bytes. -/
def pieces (bs : List Byte) : List (List Byte) := chunks 8192 (max 1 (ceilDiv bs.length 8192)) bs

/-- A yoke message: its words of eight bytes, then its bytes (R366). -/
def State.yokeSend (s : State) (code : Nat) (words : List Nat) (bytes : List Byte) : State :=
  match s.yokeFor code with
  | none => s
  | some i =>
    let body := (words.flatMap fun w => leBytes 8 w) ++ bytes
    (pieces body).foldl (fun s x => s.fabSend i Config.yokePeer code 0 0 x) s

/-- Yoke message codes (R366). -/
def yHELLO : Nat := 1
def yATTEST : Nat := 2
def yTALLY : Nat := 3
def yADMIT : Nat := 4
def yINPUT : Nat := 5
def yWRITE : Nat := 6
def ySAVE : Nat := 7
def yBTALLY : Nat := 8
def ySTATE : Nat := 9
def yQUIET : Nat := 10
def ySYNC : Nat := 11

/-- What a STATE message says first. -/
def sayRECOVERING : Nat := 1
def sayC0 : Nat := 2
def sayDETACH : Nat := 3
def sayDOWN : Nat := 4
def sayUNPAIR : Nat := 5
def sayRESUMED : Nat := 6

/-- A STATE message, with the release-done mark (R366). -/
def State.say (s : State) (what stride : Nat) : State := s.yokeSend ySTATE [what, stride, s.get TWN_DONE.value] []

/-- A paired twin that leaves service says that it is down (R366, R378). -/
def State.sayDown (s : State) : State := if s.get TWN_STATUS.state = 2 then s.say sayDOWN 0 else s

/-- The tier addresses that name the byte of an HBM4 or DDR5 address, one in each view (R236, R240). -/
def aliases (tier a : Nat) : List Nat :=
  if tier = 1 then
    let k := hbmKey a
    let c := k % 2 ^ 36 / 2 ^ 31
    let r := k % 2 ^ 31
    [k, 2 ^ 39 + k / 2 ^ 36 * 2 ^ 36 + r / 256 * 8192 + c * 256 + r % 256]
  else
    let (ch, o) := ddrPlace a
    [ch * 2 ^ 38 + o, 2 ^ 42 + (o / 4096 * 12 + ch) * 4096 + o % 4096]

/-- The area of the committed layout that an address lies in (R255). -/
def State.areaOf (s : State) (tier a : Nat) : Option Area :=
  match s.images.committed with
  | none => none
  | some i => i.areas.find? fun x => x.tier == tier && (aliases tier a).any fun y => decide (x.start ≤ y) && decide (y < x.start + x.len)

/-- Whether a completed write to an area goes on to the twin: in Standby from a near twin with a job, and while a rejoin
copies (R370, R382). -/
def State.forwards (s : State) (x : Area) : Bool :=
  (s.twin.copying && (x.cls == 1 || (x.cls == 0 && x.srcTier == 0))) ||
    (s.get TWN_STATUS.mode == 2 && s.get TWN_STATUS.state == 2 && s.get TWN_STATUS.role == 1 && s.hasJob && (x.cls == 1 || x.cls == 2))

/-- A line goes to the twin as a WRITE message. -/
def State.forwardLine (s : State) (tier a : Nat) : State :=
  match s.areaOf tier a with
  | some x => if s.forwards x then s.yokeSend yWRITE [tier, a] (s.tiers.line tier a) else s
  | none => s

/-- Put the tiers' bytes back; what was written may go on to the twin. -/
def State.setTiers (s : State) (t : Tiers) : State :=
  let s : State := { s with hbm := t.hbm, ddr := t.ddr }
  t.wrote.foldl (fun s (tier, a) => s.forwardLine tier a) s

end Sys2Proof.Machine
end

