-- ==== Sys2Proof/Machine/Mesh.lean ====
section
/-! DEFINITION. The mesh: paths, injection, links, switching, multicast, sums in the network, sequencing, resends, and
congestion (R177 to R208, R485). -/

namespace Sys2Proof.Machine

/-- The neighbour of router `p` through port `d`: 0 north, 1 east, 2 south, 3 west (R177). -/
def neighbour (p d : Nat) : Option Nat :=
  let x := p % 40
  let y := p / 40
  match d with
  | 0 => if y < 31 then some (p + 40) else none
  | 1 => if x < 39 then some (p + 1) else none
  | 2 => if 0 < y then some (p - 40) else none
  | 3 => if 0 < x then some (p - 1) else none
  | _ => none

/-- The port of the neighbour that a link ends at. -/
def oppPort (d : Nat) : Nat := (d + 2) % 4

/-- Drop used-up segments (R185). -/
def normPath : Nat → Nat → Nat
  | 0, path => path
  | n + 1, path => if path ≠ 0 ∧ path / 4 % 64 = 0 then normPath n (path / 256) else path

/-- Where a router sends a header (R185): an output port and the path it writes back; none is fault 0x66. -/
def routeStep (p path dest : Nat) : Option (Nat × Nat) :=
  let path := normPath 6 path
  if path = 0 then
    if dest = p then some (4, 0)
    else if isEndpoint dest && routerOf dest == p then some (5, 0)
    else none
  else if (neighbour p (path % 4)).isSome then some (path % 4, path - 4)
  else none

/-- The segments of a path, first first. -/
def pathSegs (path : Nat) : List (Nat × Nat) :=
  (List.range 6).map fun i => (path / 2 ^ (8 * i) % 4, path / 2 ^ (8 * i + 2) % 64)

/-- Whether zero segments come last and every other has a length (R186). -/
def segsShape : List (Nat × Nat) → Bool
  | [] => true
  | (d, n) :: ss => if n = 0 then d == 0 && ss.all (fun x => x.1 == 0 && x.2 == 0) else segsShape ss

/-- Whether consecutive segments turn, and a west segment stands first only (R186). -/
def segsTurn (first : Bool) : List (Nat × Nat) → Bool
  | [] => true
  | (d, n) :: ss =>
    n == 0 || ((first || d != 3) && segsTurn false ss &&
      (match ss with | (e, m) :: _ => m == 0 || d % 2 != e % 2 | [] => true))

/-- Walk the segments from (x, y); none where they leave the die. -/
def walkSegs : List (Nat × Nat) → Int × Int → Option (Int × Int)
  | [], c => some c
  | (d, n) :: ss, (x, y) =>
    let c : Int × Int :=
      if d = 0 then (x, y + n) else if d = 1 then (x + n, y) else if d = 2 then (x, y - n) else (x - n, y)
    if 0 ≤ c.1 ∧ c.1 < 40 ∧ 0 ≤ c.2 ∧ c.2 < 32 then walkSegs ss c else none

/-- Whether a path from router `src` to unit `dest` is valid (R186). -/
def pathOk (src path dest : Nat) : Bool :=
  let ss := pathSegs path
  let goal := routerOf dest
  segsShape ss && segsTurn true ss &&
    (match walkSegs ss ((src % 40 : Nat), (src / 40 : Nat)) with
     | some (x, y) => decide (x = (goal % 40 : Nat)) && decide (y = (goal / 40 : Nat))
     | none => false)

/-- A path of segments. -/
def mkPath : List (Nat × Nat) → Nat
  | [] => 0
  | (d, n) :: ss => if n = 0 then mkPath ss else d + 4 * n + 256 * mkPath ss

/-- The routers at which a path starts, turns or ends. -/
def pathCorners : List (Nat × Nat) → Nat → List Nat
  | [], p => [p]
  | (d, n) :: ss, p =>
    let q := if d = 0 then p + 40 * n else if d = 1 then p + n else if d = 2 then p - 40 * n else p - n
    p :: (if n = 0 then pathCorners ss p else pathCorners ss q)

/-- The paths a steward tries between two routers, in order: along the row and then the column, along the column and then
east, and past the destination's column by `k` to the west (R186). -/
def pathChoices (src goal : Nat) : List (List (Nat × Nat)) :=
  let x := src % 40
  let y := src / 40
  let gx := goal % 40
  let gy := goal / 40
  let v : Nat × Nat := if y ≤ gy then (0, gy - y) else (2, y - gy)
  let west := (List.range 40).filterMap fun k =>
    if x < gx + k ∨ gx < k then none
    else some [(3, x + k - gx), v, (1, k)]
  if x ≤ gx then
    [[(1, gx - x), v], [v, (1, gx - x)]] ++
      (List.range 40).filterMap fun k => if x < k ∨ k = 0 ∨ v.2 = 0 then none else some [(3, k), v, (1, gx - x + k)]
  else [[(3, x - gx), v]] ++ (west.filter fun ss => v.2 != 0 && ss.getLastD (0, 0) != (1, 0))

/-- The route entry a steward computes (R186, R187, R197): the first choice that starts, turns and ends at no failed
router; none where every choice does. -/
def computeRoute (failed : List Nat) (src dest : Nat) : Option Nat :=
  let ok := fun ss => (pathCorners (ss.filter fun x => x.2 != 0) src).all fun q => !failed.contains q
  ((pathChoices src (routerOf dest)).find? fun ss => ok ss).map fun ss =>
    2 ^ 63 + (if isEndpoint dest then 2 ^ 62 else 0) + dest * 2 ^ 50 + mkPath ss

/-- Flits in an input buffer. -/
def Router.fill (r : Router) (port vc : Nat) : Nat :=
  (r.buf.filter fun i => i.port == port && i.vc == vc).foldl (fun a i => a + i.pkt.flits) 0

/-- Flits reserved in a replication buffer. -/
def Router.replFill (r : Router) (vc : Nat) : Nat :=
  (r.repl.filter fun e => e.pkt.vc == vc).foldl (fun a e => a + e.pkt.flits) 0

/-- Flits that a unit has been handed on a virtual channel and has not accepted. -/
def MeshUnit.fill (m : MeshUnit) (vc : Nat) : Nat := (m.arrived.filter fun k => k.vc == vc).foldl (fun a k => a + k.flits) 0

/-- The spares that a tap hands what router `p` delivers at its local port (R318). -/
def State.taps (s : State) (p : Nat) : List Nat :=
  let n := s.get CAD_STRIDE.stride
  (s.screen.shadows.filter fun w => w.block == p && decide (w.since ≤ n) && decide (n ≤ w.stride)).map Shadow.spare

/-- The unit whose tables and name a unit's packets have: a shadow takes those of its sampled block (R318). -/
def State.tableOf (s : State) (u : Nat) : Nat :=
  match s.screen.shadows.find? fun w => w.spare == u with
  | some w => w.block
  | none => u

/-- Flits in the buffer downstream of an output (R179, R200). -/
def State.downstream (s : State) (p out : Nat) (k : Pkt) : Nat :=
  if out = 4 then (s.unit p).fill k.vc
  else if out = 5 then (s.unit k.dest).fill k.vc
  else match neighbour p out with
    | some q => (s.block q).router.fill (oppPort out) k.vc
    | none => 0

/-- Whether an output of router `p` can take a packet now (R179): the whole packet fits downstream; a unit takes every reply. A tap's
spares need room as the block does (R204, R318). -/
def State.room (s : State) (p out : Nat) (k : Pkt) : Bool :=
  if out = 4 then k.vc == 1 || (p :: s.taps p).all fun u => decide ((s.unit u).fill k.vc + k.flits ≤ 20)
  else if out = 5 then k.vc == 1 || decide (s.downstream p out k + k.flits ≤ 20)
  else (neighbour p out).isSome && decide (s.downstream p out k + k.flits ≤ 20)

/-- Whether a packet may go to an output now: stored copies go before packets that come later (R204). -/
def State.clear (s : State) (p out : Nat) (k : Pkt) : Bool :=
  s.room p out k && !(s.block p).router.repl.any fun e => e.pkt.vc == k.vc && e.outs.contains out

/-- Change a block's router. -/
def Block.onRouter (b : Block) (f : Router → Router) : Block := { b with router := f b.router }

/-- Record a mesh fault in MSH_FAULT (R209). -/
def Block.meshFault (b : Block) (code port : Nat) (k : Pkt) : Block :=
  let b := ((b.set MSH_FAULT.code code).set MSH_FAULT.port port).set MSH_FAULT.vc k.vc
  ((b.set MSH_FAULT.src k.src).set MSH_FAULT.dest k.dest).set MSH_FAULT.tag k.tag

/-- A fault's event record. -/
def Block.meshEvent (b : Block) (env : Env) (code port outcome : Nat) (k : Pkt) : Block :=
  (b.meshFault code port k).note env { cell := 12, code := code, op := port, tag := k.tag, outcome := outcome }

/-- The packet goes to an output that can take it: to the local port, where a tap's spares take it as well (R318), the edge unit, or the next
router (R179, R185). -/
def State.pass (s : State) (p out : Nat) (k : Pkt) : State :=
  let s := s.onBlock p fun b _ => b.count MSH_FLITS.count k.flits
  if out = 4 then
    (p :: s.taps p).foldl (fun s u => s.setUnit u { s.unit u with arrived := (s.unit u).arrived ++ [k] }) s
  else if out = 5 then
    let m := s.unit k.dest
    s.setUnit k.dest { m with arrived := m.arrived ++ [k] }
  else match neighbour p out with
    | some q => s.setBlock q ((s.block q).onRouter fun r => { r with buf := r.buf ++ [{ port := oppPort out, vc := k.vc, pkt := k }] })
    | none => s

/-- The congestion mark that a router sets on switching (R200). -/
def State.mark (s : State) (p out : Nat) (k : Pkt) : State × Pkt :=
  let pct := min 100 (max 1 ((s.block p).get MSH_THRESH.mark_pct))
  if out ≠ 4 ∧ pct * 20 < s.downstream p out k * 100 ∧ ¬ k.cmark then
    (s.onBlock p fun b _ => b.count MSH_MARKS.count 1, { k with cmark := true })
  else (s, k)

/-- A packet is switched to an output: marked if it must be, and passed on. -/
def State.switch (s : State) (p out : Nat) (k : Pkt) : State :=
  let (s, k) := s.mark p out k
  s.pass p out k

/-- Remove a packet from an input buffer. -/
def State.unbuf (s : State) (p : Nat) (i : InBuf) : State :=
  s.setBlock p ((s.block p).onRouter fun r => { r with buf := r.buf.erase i })

/-- Change a packet in an input buffer. -/
def State.rebuf (s : State) (p : Nat) (i j : InBuf) : State :=
  s.setBlock p ((s.block p).onRouter fun r => { r with buf := r.buf.map fun x => if x == i then j else x })

/-- Router `p` is treated as failed (R197, R208): straight bypass at once, the packets of the current epoch that it holds are discarded with
all that its merge and replication buffers hold, and the block is fenced. -/
def State.failRouter (s : State) (p code : Nat) : State :=
  let e := s.epoch
  if (s.block p).get MSH_CTL.mode = 2 then s
  else
    s.onBlock p fun b _ =>
      let gone := (b.router.buf.filter fun i => i.pkt.epoch == e).length + b.router.merge.length + b.router.repl.length
      let b := (b.set MSH_CTL.mode 2).count MSH_DISCARD.count gone
      (b.onRouter fun r => { r with failEpoch := e, buf := r.buf.filter fun i => i.pkt.epoch != e, merge := [], repl := [] }).fence code

/-- The sender's retry store keeps the last 4 flits sent on a link (R178). -/
def State.keepFlit (s : State) (p port : Nat) (i : InBuf) : State :=
  match neighbour p port with
  | none => s
  | some q =>
    s.setBlock q ((s.block q).onRouter fun r =>
      let held := mget (fun _ => []) r.retry (oppPort port) ++ [i.pkt.flitBytes.getD i.got []]
      { r with retry := mset (fun _ => []) r.retry (oppPort port) (held.drop (held.length - 4)) })

/-- FLIT_RECEIVE (R178, R208): `hw` is 0 for a sound flit, 1 a check error, 2 a corrected single-bit error of a buffer or
table, 3 a double-bit error, 4 a second check error on the flit. A stopped link brings nothing. -/
def State.flitReceive (s : State) (p port vc hw : Nat) : State :=
  match (s.block p).router.buf.find? fun i => i.port == port && i.vc == vc && decide (i.got < i.pkt.flits) with
  | none => s
  | some i =>
    if (s.block p).router.deadLinks.contains port then s
    else if hw = 3 then
      (s.onBlock p fun b env => b.meshEvent env 0x65 port 2 i.pkt).failRouter p 0x65
    else if hw = 4 ∨ (hw = 1 ∧ i.refused) then
      let s := s.onBlock p fun b env => b.meshEvent env 0x62 port 2 i.pkt
      (s.onBlock p fun b _ => b.onRouter fun r => { r with deadLinks := r.deadLinks ++ [port] }).failRouter p 0x62
    else
      let s := if i.refused then s else s.keepFlit p port i
      if hw = 1 then
        (s.onBlock p fun b env => (b.count MSH_LINK_RETRY.count 1).meshEvent env 0x61 port 0 i.pkt).rebuf p i { i with refused := true }
      else
        let s := if hw = 2 then s.onBlock p fun b env => b.meshEvent env 0x64 port 0 i.pkt else s
        s.rebuf p i { i with got := i.got + 1, refused := false }

/-- The answer of a bypassing router to a sequenced packet for its block: a NACK with moved set (R196). -/
def movedNack (k : Pkt) : AckOwed :=
  { peer := k.src, peerIdx := k.srcidx, vc := k.vc, seq := k.seq, nack := true, moved := true, mcast := k.mcast }

/-- A router in bypass discards and counts a packet for its own block, and answers a sequenced one (R196). -/
def State.bypassDrop (s : State) (p : Nat) (k : Pkt) : State :=
  let s := s.onBlock p fun b _ => b.count MSH_DISCARD.count 1
  if kindSequenced k.kind then
    let m := s.unit p
    s.setUnit p { m with acks := m.acks ++ [movedNack k] }
  else s

/-- A packet that straight bypass does not let pass is discarded and counted (R197). -/
def State.straightDrop (s : State) (p : Nat) : State := s.onBlock p fun b _ => b.count MSH_DISCARD.count 1

/-- A packet whose header fails its CRC is discarded (R183, R208). -/
def State.crcDrop (s : State) (p : Nat) (i : InBuf) : State :=
  (s.unbuf p i).onBlock p fun b env => (b.count MSH_DISCARD.count 1).meshEvent env 0x63 i.port 5 i.pkt

/-- A packet is discarded under fault 0x66 (R208, R485): a sequenced one awaits its repeat, and a second within two
timeouts is lasting and the region steward's to report. -/
def State.discard66 (s : State) (p : Nat) (i : InBuf) : State :=
  let k := i.pkt
  let b := s.block p
  let id := (k.src, k.dest, k.vc, k.tag)
  let window := 2000 * max 1 (b.get MSH_THRESH.timeout)
  let again := b.router.fault66.any fun f => (f.1, f.2.1, f.2.2.1, f.2.2.2.1) == id && decide (s.now ≤ f.2.2.2.2 + window)
  let seqd := kindSequenced k.kind
  let s := (s.unbuf p i).onBlock p fun b env =>
    ((b.count MSH_DISCARD.count 1).meshEvent env 0x66 i.port (if seqd then 5 else 2) k).onRouter fun r =>
      { r with fault66 := (k.src, k.dest, k.vc, k.tag, env.now) :: r.fault66 }
  if seqd && again then s.raiseRegion (regionOf p) { code := 0x66, tag := k.tag, outcome := 2, detail := p } else s

/-- The outputs a multicast copy takes at router `p` when it came in through `port` (R203). -/
def treeOutputs (p port : Nat) (targets : Nat) : List Nat :=
  let x := p % 40
  let y := p / 40
  let ts := (targetList targets).map fun q => (q % 40, q / 40)
  let src := port == 4
  let row := src || port == 1 || port == 3
  let beyond := fun (f : Nat × Nat → Bool) => ts.any f
  let west := beyond fun t => decide (t.1 < x)
  let east := beyond fun t => decide (x < t.1)
  let north := beyond fun t => t.1 == x && decide (y < t.2)
  let south := beyond fun t => t.1 == x && decide (t.2 < y)
  (if (row && north) || (port == 2 && north) then [0] else []) ++
  (if east && (src || port == 3) then [1] else []) ++
  (if (row && south) || (port == 0 && south) then [2] else []) ++
  (if west && (src || port == 1) then [3] else []) ++
  (if hasTarget targets p then [4] else [])

/-- Whether straight bypass lets a packet pass from a port to an output (R197). -/
def State.straightOk (s : State) (p port out : Nat) (k : Pkt) : Bool :=
  decide (port < 4) && out == oppPort port && k.epoch != (s.block p).router.failEpoch

/-- The branches that a multicast copy still has to take at router `p`, once a bypass has dropped those it does not serve (R196, R197,
R203). -/
def State.openBranches (s : State) (p : Nat) (i : InBuf) : State × List Nat :=
  let outs := (treeOutputs p i.port i.pkt.targets).filter fun o => !i.gone.contains o
  let mode := (s.block p).get MSH_CTL.mode
  if mode = 1 then (if outs.contains 4 then s.bypassDrop p i.pkt else s, outs.filter (· != 4))
  else if mode = 2 then
    let (on, off) := outs.partition fun o => s.straightOk p i.port o i.pkt
    (if off.isEmpty then s else s.straightDrop p, on)
  else (s, outs)

/-- Send the branches of a multicast packet that can go at once; what is left. -/
def State.branches (s : State) (p : Nat) (k : Pkt) : List Nat → State × List Nat
  | [] => (s, [])
  | o :: os =>
    let (s, left) := if s.clear p o k then (s.switch p o k, []) else (s, [o])
    let (s, rest) := s.branches p k os
    (s, left ++ rest)

/-- A multicast header arrives (R204): from a link only where the replication buffer has room; branches go at once where they can, and one
stored copy covers the rest. A router in straight bypass stores nothing: the copy waits. -/
def State.multicastArrive (s : State) (p : Nat) (i : InBuf) : State :=
  let k := i.pkt
  let b := s.block p
  if i.port < 4 ∧ 40 < b.router.replFill k.vc + k.flits then s
  else if b.get MSH_CTL.mode = 2 ∧ !((treeOutputs p i.port k.targets).all fun o => !s.straightOk p i.port o k || s.clear p o k) then s
  else
    let (s, outs) := s.openBranches p i
    let (s, left) := (s.unbuf p i).branches p k outs
    if left.isEmpty then s
    else s.onBlock p fun b _ => (b.count MSH_REPLWAIT.count 1).onRouter fun r => { r with repl := r.repl ++ [⟨k, left⟩] }

/-- MULTICAST_BRANCH_SEND (R204): the oldest stored copy with a branch on the output goes when there is room. -/
def State.branchSend (s : State) (p vc out : Nat) : State :=
  match (s.block p).router.repl.find? fun e => e.pkt.vc == vc && e.outs.contains out with
  | none => s
  | some e =>
    let b := s.block p
    let e' : ReplEntry := { e with outs := e.outs.filter (· != out) }
    let keep := fun (s : State) => s.onBlock p fun b _ => b.onRouter fun r =>
      { r with repl := (r.repl.map fun x => if x == e then e' else x).filter fun x => !x.outs.isEmpty }
    if out = 4 ∧ b.get MSH_CTL.mode ≠ 0 then keep (s.bypassDrop p e.pkt)
    else if !s.room p out e.pkt then s
    else keep (s.switch p out e.pkt)

/-- Whether two REDUCE packets merge (R207). -/
def mergeable (a b : Pkt) : Bool :=
  a.dest == b.dest && a.qid == b.qid && a.tag == b.tag && a.rop == b.rop && a.epoch == b.epoch && a.length == b.length

/-- The sum of two REDUCE packets, the entry's first (R207). -/
def mergePkt (a b : Pkt) : Pkt :=
  { a with parts := a.parts + b.parts, cmark := a.cmark || b.cmark,
           payload := if a.rop = 1 then Ap.rowBytes (Ap.addRow (Ap.rowOfBytes 64 a.payload) (Ap.rowOfBytes 64 b.payload))
                      else looseRow a.payload b.payload }

/-- Add a packet into merge entry `e`; a loose merge counts as timing-dependent (R49, R207). -/
def State.mergeInto (s : State) (p : Nat) (e : MergeEntry) (k : Pkt) : State :=
  let e' : MergeEntry := { e with pkt := mergePkt e.pkt k, have_ := e.have_ + 1 }
  let s := s.onBlock p fun b _ => (b.count MSH_MERGES.count 1).onRouter fun r =>
    { r with merge := r.merge.map fun x => if x == e then e' else x }
  if k.rop = 2 then s.count CAD_LOOSE_COUNT.count 1 else s

/-- Whether unscheduled traffic may be switched: Extended gait, or the gait table is exhausted (R36, R41). -/
def Block.unscheduled (b : Block) : Bool := b.extended || decide (b.router.gait.length ≤ b.router.gaitPos)

/-- Whether it is a port's turn in Collected gait (R36): no port from the turn on to it has a packet waiting. -/
def Router.isTurn (r : Router) (port : Nat) : Bool :=
  let order := (List.range 6).map fun i => (r.turn + i) % 6
  (order.find? fun q => r.buf.any fun i => i.port == q && decide (1 ≤ i.got)) == some port

/-- A unicast packet goes on as its path says (R185, R196, R197), in Extended gait with its sums merged (R207). -/
def State.unicastArrive (s : State) (p : Nat) (i : InBuf) : State :=
  let b := s.block p
  let k := i.pkt
  match routeStep p k.path k.dest with
  | none => if b.get MSH_CTL.mode = 2 then (s.unbuf p i).straightDrop p else s.discard66 p i
  | some (out, path) =>
    let k := { k with path := path }
    let sums := k.kind == kREDUCE && b.extended && b.get MSH_CTL.mode != 2
    if b.get MSH_CTL.mode = 2 ∧ ¬ s.straightOk p i.port out k then (s.unbuf p i).straightDrop p
    else if b.get MSH_CTL.mode = 1 ∧ out = 4 then (s.unbuf p i).bypassDrop p k
    else
      match if sums then b.router.merge.find? fun e => mergeable e.pkt k && e.want == 0 else none with
      | some e => (s.unbuf p i).mergeInto p e k
      | none =>
        if s.clear p out k then (s.unbuf p i).switch p out k
        else if sums && decide (b.router.merge.length < 8) then
          (s.unbuf p i).onBlock p fun b _ => b.onRouter fun r => { r with merge := r.merge ++ [⟨k, out, 1, 0⟩] }
        else s

/-- PACKET_HEADER_ARRIVE (R183, R185, R196, R197, R200, R204, R207): a failed router forwards straight traffic whatever its gait table;
what a stopped link has not brought whole does not go on. -/
def State.headerArrive (s : State) (p port vc : Nat) (crcOk : Bool) : State :=
  let b := s.block p
  match b.router.buf.find? fun i => i.port == port && i.vc == vc with
  | none => s
  | some i =>
    if i.got = 0 ∨ (b.router.deadLinks.contains port ∧ i.got < i.pkt.flits) ∨
        (b.get MSH_CTL.mode ≠ 2 ∧ ¬ (b.unscheduled ∧ (b.extended ∨ b.router.isTurn port))) then s
    else
      let s := if b.extended then s else s.onBlock p fun b _ => b.onRouter fun r => { r with turn := (port + 1) % 6 }
      if !crcOk then s.crcDrop p i
      else if i.pkt.mcast then s.multicastArrive p i
      else s.unicastArrive p i

/-- The next gait-table entry is in turn. -/
def State.gaitNext (s : State) (p : Nat) : State :=
  s.onBlock p fun b _ => b.onRouter fun r => { r with gaitPos := r.gaitPos + 1, gaitGot := 0 }

/-- `n` flits of the entry in turn have been served; with all of them the next is in turn (R36, R277). -/
def State.gaitServed (s : State) (p : Nat) (g : GaitEntry) (n : Nat) : State :=
  let got := (s.block p).router.gaitGot + n
  if g.count ≤ got then s.gaitNext p else s.onBlock p fun b _ => b.onRouter fun r => { r with gaitGot := got }

/-- MERGE_ENTRY_LEAVE (R206, R207): entry `i` leaves once its output can take it, a scheduled one once its count has met; the gait table
then goes on. -/
def State.mergeLeave (s : State) (p i : Nat) : State :=
  match (s.block p).router.merge[i]? with
  | none => s
  | some e =>
    let gone := fun (s : State) =>
      let s := s.onBlock p fun b _ => b.onRouter fun r => { r with merge := r.merge.erase e }
      if e.want = 0 then s else s.gaitNext p
    if e.have_ < e.want then s
    else if e.out = 4 ∧ (s.block p).get MSH_CTL.mode ≠ 0 then gone (s.bypassDrop p e.pkt)
    else if !s.clear p e.out e.pkt then s
    else gone (s.switch p e.out e.pkt)

/-- Where a scheduled unicast packet leaves a router; none where its path ends wrongly. -/
def gaitOut (p : Nat) (k : Pkt) : Option Nat := (routeStep p k.path k.dest).map Prod.fst

/-- A merge entry of the gait table takes one packet of its tag, channel and output (R206): the first opens an entry of the merge buffer if
one is free. -/
def State.gaitMerge (s : State) (p : Nat) (g : GaitEntry) (tag : Nat) (crcOk : Bool) : State :=
  let b := s.block p
  let open_ := b.router.merge.find? fun e => e.want != 0
  let fits := fun (k : Pkt) => match open_ with
    | some e => mergeable e.pkt k && decide (e.have_ < e.want)
    | none => decide (b.router.merge.length < 8)
  match b.router.buf.find? fun i => i.pkt.kind == kREDUCE && i.vc == g.vc && i.pkt.tag == tag && i.got == i.pkt.flits &&
      (gaitOut p i.pkt == some g.out || gaitOut p i.pkt == none) && fits i.pkt with
  | none => s
  | some i =>
    if !crcOk then s.crcDrop p i
    else
      match routeStep p i.pkt.path i.pkt.dest with
      | none => s.discard66 p i
      | some (_, path) =>
        let k : Pkt := { i.pkt with path := path }
        match open_ with
        | some e => (s.unbuf p i).mergeInto p e k
        | none => (s.unbuf p i).onBlock p fun b _ => b.onRouter fun r => { r with merge := r.merge ++ [⟨k, g.out, 1, g.count⟩] }

/-- A multicast copy that an entry schedules leaves on the entry's output alone; its other branches have entries of their own, or go once
the table is exhausted (DESIGN CHOICE, log entry 23). -/
def State.gaitBranch (s : State) (p : Nat) (g : GaitEntry) (i : InBuf) : State :=
  let j : InBuf := { i with gone := i.gone ++ [g.out] }
  let rest := (treeOutputs p i.port i.pkt.targets).filter fun o => !j.gone.contains o
  let keep := fun (s : State) => (if rest.isEmpty then s.unbuf p i else s.rebuf p i j).gaitServed p g i.pkt.flits
  if g.out = 4 ∧ (s.block p).get MSH_CTL.mode = 1 then keep (s.bypassDrop p i.pkt)
  else if !s.clear p g.out i.pkt then s
  else keep (s.switch p g.out i.pkt)

/-- GAIT_ENTRY_SERVE (R36, R183, R206, R277): the entry in turn takes the next packet of its tag, port, channel and output once its
flits have arrived, and is passed over once they have been refused; a failed router serves no table. -/
def State.gaitServe (s : State) (p : Nat) (crcOk : Bool) : State :=
  let b := s.block p
  match b.router.gait[b.router.gaitPos]? with
  | none => s
  | some g =>
    let tag := formTag b.stride g.tag
    if b.extended ∨ b.get MSH_CTL.mode = 2 then s
    else if g.merge then s.gaitMerge p g tag crcOk
    else
      let leaves := fun (i : InBuf) =>
        if i.pkt.mcast then (treeOutputs p i.port i.pkt.targets).contains g.out && !i.gone.contains g.out
        else gaitOut p i.pkt == some g.out || gaitOut p i.pkt == none
      match b.router.buf.find? fun i => i.port == g.inp && i.vc == g.vc && i.pkt.tag == tag && leaves i with
      | none => s
      | some i =>
        let n := i.pkt.flits
        if i.refused then s.gaitNext p
        else if i.got < n then s
        else if !crcOk then (s.crcDrop p i).gaitServed p g n
        else if i.pkt.mcast then s.gaitBranch p g i
        else
          match routeStep p i.pkt.path i.pkt.dest with
          | none => (s.discard66 p i).gaitServed p g n
          | some (out, path) =>
            let k : Pkt := { i.pkt with path := path }
            if b.get MSH_CTL.mode = 1 ∧ out = 4 then ((s.unbuf p i).bypassDrop p k).gaitServed p g n
            else if !s.clear p out k then s
            else ((s.unbuf p i).switch p out k).gaitServed p g n

/-- Whether a unit's resend store has room for a packet (R192, R205). -/
def MeshUnit.storeRoom (m : MeshUnit) (k : Pkt) : Bool :=
  decide (m.resend.length < 255) && decide (m.resend.foldl (fun a h => a + h.pkt.lines) 0 + k.lines ≤ 512) &&
    (!k.mcast || decide ((m.resend.filter fun h => h.pkt.mcast).length < 64))

/-- The route index by which others answer a unit: its logical block, or its endpoint number (R182, R188). -/
def State.srcIdx (s : State) (u : Nat) : Nat := if u < 1280 then (s.block u).lblock else u

/-- A sequenced packet stands in the resend store, under its number (R192): one that is there already keeps its place and its timeouts. -/
def MeshUnit.store (m : MeshUnit) (h : Held) : MeshUnit :=
  if h.id = 0 then { m with resend := m.resend ++ [{ h with id := m.nextId }], nextId := m.nextId + 1 }
  else { m with resend := m.resend.map fun x => if x.id == h.id then { h with tries := x.tries, done := x.done } else x }

/-- Fault 0x66 at injection (R208, R485): a sequenced packet stays in the resend store, any other is dropped. -/
def State.injectFail (s : State) (u : Nat) (h : Held) : State :=
  let seqd := kindSequenced h.pkt.kind
  let s := if seqd then s.setUnit u ((s.unit u).store { h with failed := true, sentAt := s.now }) else s
  let first := if seqd then 5 else 2
  if u < 1280 then
    s.onBlock u fun b env =>
      let b := (b.count MSH_DISCARD.count 1).meshEvent env 0x66 4 first { h.pkt with src := u }
      if seqd && h.failed then b.note env { cell := 12, code := 0x66, tag := h.pkt.tag, outcome := 2 } else b
  else
    let s := s.raise 5 u { code := 0x66, tag := h.pkt.tag, outcome := first }
    if seqd && h.failed then s.raise 5 u { code := 0x66, tag := h.pkt.tag, outcome := 2 } else s

/-- The members of a group that a detour sends as unicast copies (R189, R197): the targets in the detour column, with their route indices. -/
def State.detours (s : State) (u e g : Nat) : List (Nat × Nat) :=
  let w := s.group (s.tableOf u) e g 0
  if nbit w 62 then
    ((targetList (s.groupMask (s.tableOf u) e g)).filter fun q => q % 40 == nbits w 55 50).zipIdx.map fun (q, j) =>
      (q, nbits (s.groupDetour (s.tableOf u) e g) (11 * j + 10) (11 * j))
  else []

/-- The members of a group's current mask that have not acknowledged (R205): those that the tree reaches, and those that a detour does. -/
def State.membersLeft (s : State) (u : Nat) (h : Held) : Nat × List (Nat × Nat) :=
  let e := s.epoch
  let det := (s.detours u e h.idx).filter fun x => !hasTarget h.done x.1
  let tree := (targetList (s.groupMask (s.tableOf u) e h.idx)).filter fun q =>
    !hasTarget h.done q && !(s.detours u e h.idx).any fun x => x.1 == q
  (tree.foldl (fun a q => a + 2 ^ targetBit q) 0, det)

/-- The regions of a target set (R184). -/
def regionMask (targets : Nat) : Nat :=
  ((List.range 16).filter fun r => decide (targets / 2 ^ (80 * r) % 2 ^ 80 ≠ 0)).foldl (fun a r => a + 2 ^ r) 0

/-- The packet as injected (R187, R189, R190): path and destination of the current epoch's entry, the stream's next seq
unless it is a resend to an unchanged destination; a multicast names its group, and the members still to acknowledge. -/
def State.formPkt (s : State) (u : Nat) (h : Held) : Option (MeshUnit × Held) :=
  let e := s.epoch
  let m := s.unit u
  let k := { h.pkt with epoch := e, src := u, srcidx := s.srcIdx u, vc := h.pkt.vc % 2 }
  if k.mcast then
    if !nbit (s.group (s.tableOf u) e h.idx 0) 63 then none
    else
      let tree := (s.membersLeft u h).1
      let seq := if h.injected then k.seq else m.mcSeq
      some ({ m with mcSeq := if h.injected then m.mcSeq else (m.mcSeq + 1) % 65536 },
            { h with pkt := { k with targets := tree, rmask := if h.done = 0 then nbits (s.group (s.tableOf u) e h.idx 0) 15 0 else regionMask tree,
                                     seq := seq, path := 0, dest := h.idx } })
  else
    let w := if h.idx = k.srcidx ∧ u < 1280 then 2 ^ 63 + s.tableOf u * 2 ^ 50 else s.route (s.tableOf u) e h.idx
    if !nbit w 63 then none
    else
      let dest := nbits w 60 50
      let key := dest * 2 + k.vc
      let keep := h.injected && k.dest == dest
      let sq := kindSequenced k.kind
      let seq := if !sq || keep then k.seq else mget natZero m.txSeq key
      let m : MeshUnit := if sq && !keep then { m with txSeq := mset natZero m.txSeq key ((seq + 1) % 65536) } else m
      some (m, { h with pkt := { k with dest := dest, path := nbits w 47 0, seq := seq } })

/-- Whether a unit's local port may inject: the block is not halted, nor its router in bypass (R196). -/
def State.portOpen (s : State) (u : Nat) : Bool :=
  decide (1280 ≤ u) || ((s.block u).get MSH_CTL.mode == 0 && !(s.block u).halted)

/-- A NACK with moved set leaves a router in bypass (R196). -/
def mayLeave (opened : Bool) (h : Held) : Bool :=
  opened || (h.pkt.kind == kACK && nbit (leAt h.pkt.payload 1 1) 0 && nbit (leAt h.pkt.payload 1 1) 3)

/-- Whether a packet's stream waits for the next flip (R192). -/
def State.streamWaits (s : State) (u : Nat) (h : Held) : Bool :=
  let dest := fun (x : Held) => if x.pkt.mcast then 4096 + x.idx else nbits (s.route (s.tableOf u) s.epoch x.idx) 60 50
  (s.unit u).resend.any fun x => x.waitFlip && x.pkt.vc == h.pkt.vc % 2 && dest x == dest h

/-- Whether an edge endpoint holds a new packet back (R337): from beat C − 1 of a checkpoint stride C until beat C none goes to a block. -/
def State.endpointHolds (s : State) (u : Nat) (h : Held) : Bool :=
  decide (1280 ≤ u) && s.get CAD_CTL.run == 1 && s.get CAD_STRIDE.stride % 256 == 255 && (h.pkt.mcast || decide (h.idx < 1200))

/-- The first packet of a virtual channel that need not wait for its stream's flip, for beat C (R337) or for room in the store (R192): `full` once a new
sequenced packet has found none. -/
def State.pickOut (s : State) (u vc : Nat) (full : Bool) : List Held → Option Held
  | [] => none
  | h :: hs =>
    let new := kindSequenced h.pkt.kind && h.id == 0
    if h.pkt.vc % 2 ≠ vc ∨ !mayLeave (s.portOpen u) h ∨ (new && (full || s.streamWaits u h || s.endpointHolds u h)) then s.pickOut u vc full hs
    else if new && !(s.unit u).storeRoom h.pkt then s.pickOut u vc true hs
    else some h

/-- The packet of a virtual channel that a unit injects next. -/
def State.nextOut (s : State) (u vc : Nat) : Option Held := s.pickOut u vc false (s.unit u).sendq

/-- Whether a packet may start now: the port's buffer has room for it (R179), and a request of a block its allowance (R202). -/
def State.mayStart (s : State) (u : Nat) (h : Held) : Bool :=
  let port := if u < 1280 then 4 else 5
  let vc := h.pkt.vc % 2
  decide ((s.block (routerOf u)).router.fill port vc + h.pkt.flits ≤ 20) &&
    (decide (1280 ≤ u) || vc == 1 || decide (64 * h.pkt.flits ≤ (s.block u).allowance (s.env u)))

/-- What the router's acceptance of a packet lets go of (R65, R125, R161, R169): a token's outbox slot, the entries or the slot that it came
from. -/
def Block.left (b : Block) (h : Held) : Block :=
  let b := b.letGo h.origin
  match h.owner with
  | .outbox t i => if h.pkt.kind = kTOKEN then b.tokenLeft t i else b
  | _ => b

/-- The unicast copies that a multicast makes of its detour's members (R197, R205), but those it has made before. -/
def State.copiesOf (s : State) (u : Nat) (h : Held) (id : Nat) : List Held :=
  let m := s.unit u
  let there := fun (i : Nat) => (m.resend ++ m.sendq).any fun x => x.part == id && x.idx == i
  ((s.membersLeft u h).2.filter fun x => !there x.2).map fun x =>
    { pkt := { h.pkt with mcast := false, member := true, targets := 0, rmask := 0 }, idx := x.2, part := id }

/-- A packet enters the router at the unit's port. -/
def State.enterRouter (s : State) (u : Nat) (k : Pkt) : State :=
  s.onBlock (routerOf u) fun b _ => b.onRouter fun x =>
    { x with buf := x.buf ++ [{ port := if u < 1280 then 4 else 5, vc := k.vc, pkt := k }] }

/-- A formed packet leaves its unit: it takes its allowance, and a sequenced one stands in the resend store from now on (R192, R202). The
router of a shadow injects nothing (R318). -/
def State.start (s : State) (u : Nat) (m : MeshUnit) (h : Held) : State :=
  let thr := u < 1280 ∧ h.pkt.vc = 0
  let m : MeshUnit := if thr then { m with allowance := (s.block u).allowance (s.env u) - 64 * h.pkt.flits, allowAt := s.now } else m
  let owner := match h.owner with | .outbox .. => if h.pkt.kind = kTOKEN then .none else h.owner | o => o
  let kept : Held := { h with injected := true, failed := false, sentAt := s.now, origin := .other, owner := owner }
  let id := if h.id = 0 then m.nextId else h.id
  let copies := if h.pkt.mcast then s.copiesOf u h id else []
  let m := if kindSequenced h.pkt.kind then m.store kept else m
  let s := s.setUnit u { m with sendq := copies ++ m.sendq }
  let s := if u < 1280 then s.onBlock u fun b env => (b.left h).progress env else s
  if (h.pkt.mcast && h.pkt.targets == 0) || s.tableOf u != u then s else s.enterRouter u h.pkt

/-- PACKET_INJECT (R128, R187 to R192, R202, R205, R485): the first packet that may start, of either virtual channel. A resend that has been
acknowledged meanwhile goes nowhere. `bad`: the local port reads an uncorrectable word of its payload. -/
def State.inject (s : State) (u : Nat) (bad : Bool) : State :=
  let next := [0, 1].filterMap fun vc => (s.nextOut u vc).filter fun h => s.mayStart u h
  match next with
  | [] => s
  | h :: _ =>
    let m := s.unit u
    let drop := fun (s : State) => s.setUnit u { s.unit u with sendq := (s.unit u).sendq.erase h }
    if h.id ≠ 0 ∧ ¬ (m.resend.any fun x => x.id == h.id) then drop s
    else if bad ∧ u < 1280 ∧ h.pkt.isData then s.onBlock u fun b env => b.badWord env 12 0
    else
      let s := drop s
      let h := match m.resend.find? fun x => x.id == h.id && h.id != 0 with | some x => { h with done := x.done } | none => h
      match s.formPkt u h with
      | none => s.injectFail u h
      | some (m, h) => s.start u m h

/-- Resend packets that a unit holds: they go again through injection, in their order (R192). -/
def State.resendAll (s : State) (u : Nat) (hs : List Held) : State :=
  let m := s.unit u
  let ids := hs.map Held.id
  let again := fun (x : Held) => if ids.contains x.id then { x with sentAt := s.now, waitFlip := false } else x
  let s := s.setUnit u { m with
    sendq := hs.map (fun h => { h with waitFlip := false }) ++ m.sendq.filter fun x => x.id == 0 || !ids.contains x.id,
    resend := m.resend.map again }
  if u < 1280 then s.onBlock u fun b _ => b.count MSH_RESENDS.count hs.length else s

/-- How far `a` is ahead of `b`, modulo 65,536. -/
def seqAhead (a b : Nat) : Nat := (a + 65536 - b % 65536) % 65536

/-- Whether an acceptance is answered by its family: a reply (R191), a check (R217, R228, R247). -/
def ackLater (k : Nat) : Bool := k == kMESSAGE || k == kWINDOW_WRITE || k == kMEM_READ || k == kMEM_WRITE || k == kMGR_CALL

/-- The acknowledgement that an acceptance owes. -/
def ackFor (now : Nat) (k : Pkt) (ready : Bool) : AckOwed :=
  { peer := k.src, peerIdx := k.srcidx, vc := k.vc, seq := k.seq, ready := ready, mcast := k.mcast, since := now }

/-- The acknowledgements that one ACK covers (R191): answered ones in the order of acceptance, up to and with the first refusal. -/
def ackRun : List AckOwed → List AckOwed
  | [] => []
  | a :: as => if !a.ready || a.nack then [] else if a.status != 0 then [a] else a :: ackRun as

/-- The next ACK of a stream, and what it covers: a run of answered packets, else a NACK, else one of a multicast copy. -/
def MeshUnit.nextAck (m : MeshUnit) (peer vc : Nat) : Option (AckOwed × List AckOwed) :=
  let mine := m.acks.filter fun a => a.peer == peer && a.vc == vc && !a.mcast
  let run := ackRun mine
  match run.getLast? with
  | some a => some (a, run)
  | none =>
    match mine.find? fun a => a.nack with
    | some a => some (a, [a])
    | none => (m.acks.find? fun a => a.peer == peer && a.vc == vc && a.mcast && a.ready).map fun a => (a, [a])

/-- Whether an ACK leaves at once: 4 acceptances to acknowledge, a refusal or a NACK (R191). -/
def MeshUnit.ackDue (m : MeshUnit) (peer vc : Nat) : Bool :=
  match m.nextAck peer vc with
  | none => false
  | some (a, run) =>
    a.nack || a.status != 0 || decide (4 ≤ run.length) ||
      decide (4 ≤ (m.acks.filter fun x => x.peer == peer && x.vc == vc && x.mcast && x.ready).length)

/-- The ACK packet of an answer (R191, R215). -/
def ackPkt (a : AckOwed) (echo : Bool) : Held :=
  let flags := b2n a.nack + 2 * b2n echo + 4 * b2n a.mcast + 8 * b2n a.moved + 16 * a.vc
  { pkt := { kind := kACK, vc := 1, seq := a.seq, payload := leBytes 1 a.status ++ leBytes 1 flags ++ leBytes 1 a.byte2 }, idx := a.peerIdx }

/-- The next ACK of a stream is handed over for injection (R191, R201): it carries an echo owed to the sender; where no acknowledgement
waits, an owed echo leaves in an ACK of its own, which names the last sequence number acknowledged. -/
def MeshUnit.ackOut (m : MeshUnit) (peer vc : Nat) : MeshUnit :=
  let echo := m.echoes.find? fun e => e.1 == peer
  let rest := m.echoes.filter fun e => e.1 != peer
  let key := peer * 2 + vc
  match m.nextAck peer vc with
  | some (a, run) =>
    { m with
      acks := m.acks.filter fun x => !run.contains x, echoes := rest,
      ackNext := if a.nack || a.mcast then m.ackNext else mset natZero m.ackNext key ((a.seq + 1) % 65536),
      sendq := m.sendq ++ [ackPkt a echo.isSome] }
  | none =>
    match echo with
    | none => m
    | some e =>
      let last : AckOwed := { peer := peer, peerIdx := e.2, vc := vc, seq := (mget natZero m.ackNext key + 65535) % 65536 }
      { m with echoes := rest, sendq := m.sendq ++ [ackPkt last true] }

/-- ACKs of a stream that are due leave at once (R191). -/
def MeshUnit.ackNow (peer vc : Nat) : Nat → MeshUnit → MeshUnit
  | 0, m => m
  | n + 1, m => if m.ackDue peer vc then MeshUnit.ackNow peer vc n (m.ackOut peer vc) else m

/-- An acknowledgement is owed. -/
def MeshUnit.owe (m : MeshUnit) (a : AckOwed) : MeshUnit :=
  let m : MeshUnit := { m with acks := m.acks ++ [a] }
  m.ackNow a.peer a.vc m.acks.length

/-- Whether an owed acknowledgement is that of a packet. -/
def AckOwed.isOf (a : AckOwed) (k : Pkt) : Bool :=
  !a.ready && !a.nack && a.peer == k.src && a.vc == k.vc && a.seq == k.seq && a.mcast == k.mcast

/-- What a packet was answered with, for a duplicate that is acknowledged again: the newest 255 refusals are kept. -/
def MeshUnit.refuse (m : MeshUnit) (k : Pkt) (status byte2 : Nat) : MeshUnit :=
  if status = 0 then m else { m with refusals := ((k.src * 2 + k.vc, k.seq, status, byte2) :: m.refusals).take 255 }

/-- What a packet's duplicate is answered with. -/
def MeshUnit.refusal (m : MeshUnit) (k : Pkt) : Nat × Nat :=
  match m.refusals.find? fun r => r.1 == k.src * 2 + k.vc && r.2.1 == k.seq with
  | some r => r.2.2
  | none => (0, 0)

/-- An accepted packet has been answered (R217, R228, R247): its acknowledgement is ready. -/
def MeshUnit.answered (m : MeshUnit) (k : Pkt) (status byte2 : Nat) : MeshUnit :=
  let done := fun (a : AckOwed) => if a.isOf k then { a with ready := true, status := status, byte2 := byte2 } else a
  let m := ({ m with acks := m.acks.map done } : MeshUnit).refuse k status byte2
  m.ackNow k.src k.vc m.acks.length

/-- A MEM_REPLY acknowledges its request (R191): no ACK is owed any more. -/
def MeshUnit.replied (m : MeshUnit) (k : Pkt) (status : Nat) : MeshUnit :=
  let m := ({ m with acks := m.acks.filter fun a => !a.isOf k } : MeshUnit).refuse k status 0
  m.ackNow k.src k.vc m.acks.length

/-- A duplicate (R190): a MEM_READ or MGR_CALL is performed and answered again; any other is discarded and acknowledged again, a MEM_WRITE
by a MEM_REPLY, unless its first answer is still to come. -/
def MeshUnit.duplicate (m : MeshUnit) (now : Nat) (k : Pkt) : MeshUnit :=
  let (st, byte2) := m.refusal k
  if k.kind = kMEM_READ ∨ k.kind = kMGR_CALL then { m with inbox := m.inbox ++ [k], acks := m.acks ++ [ackFor now k false] }
  else if m.acks.any fun a => a.isOf k then m
  else if k.kind = kMEM_WRITE then
    { m with sendq := m.sendq ++ [{ pkt := { kind := kMEM_REPLY, vc := 1, tag := k.tag, qid := st }, idx := k.srcidx }] }
  else m.owe { ackFor now k true with status := st, byte2 := byte2 }

/-- A packet is delivered to the unit; a congestion mark is to be echoed to its sender, once for all that come meanwhile (R201). -/
def MeshUnit.deliver (m : MeshUnit) (k : Pkt) : MeshUnit :=
  let m : MeshUnit := if k.kind = kACK then { m with acksIn := m.acksIn ++ [k] } else { m with inbox := m.inbox ++ [k] }
  if k.cmark && !(m.echoes.any fun e => e.1 == k.src) then { m with echoes := m.echoes ++ [(k.src, k.srcidx)] } else m

/-- PACKET_ACCEPT (R190, R191, R201, R205): the oldest packet delivered to the unit. -/
def MeshUnit.accept (m : MeshUnit) (now : Nat) : MeshUnit :=
  match m.arrived with
  | [] => m
  | k :: rest =>
    let m : MeshUnit := { m with arrived := rest }
    if !kindSequenced k.kind then m.deliver k
    else if k.mcast then
      let seen := mget (fun _ => []) m.rxMulti k.src
      if seen.contains k.seq then m.duplicate now k
      else (({ m with rxMulti := mset (fun _ => []) m.rxMulti k.src ((k.seq :: seen).take 64) } : MeshUnit).deliver k).owe
        (ackFor now k (!ackLater k.kind))
    else
      let key := k.src * 2 + k.vc
      let want := mget natZero m.rxSeq key
      let ahead := seqAhead k.seq want
      if ahead = 0 then
        (({ m with rxSeq := mset natZero m.rxSeq key ((want + 1) % 65536) } : MeshUnit).deliver k).owe (ackFor now k (!ackLater k.kind))
      else if ahead < 32768 then m.owe { ackFor now k true with seq := want, nack := true }
      else m.duplicate now k

/-- Whether a unit discards the packet it is handed (R193, R344): an old-epoch packet on a restarted stream, or any packet
at a block that a recovery has stopped, until the flip. -/
def State.discards (s : State) (u : Nat) : Bool :=
  match (s.unit u).arrived with
  | [] => false
  | k :: _ => (k.epoch != s.epoch && (s.fresh.contains u || s.fresh.contains k.src)) ||
      (decide (u < 1280) && s.rcv.active && !s.rcv.replaying)

/-- PACKET_ACCEPT at a unit. -/
def State.packetAccept (s : State) (u : Nat) : State :=
  if !s.portOpen u then s
  else if s.discards u then s.setUnit u { s.unit u with arrived := (s.unit u).arrived.tail }
  else
    let s := s.setUnit u ((s.unit u).accept s.now)
    if u < 1280 then s.onBlock u fun b env => b.progress env else s

/-- ACK_SEND (R191, R201, R215). -/
def State.ackSend (s : State) (u peer vc : Nat) : State := s.setUnit u ((s.unit u).ackOut peer vc)

/-- What the Packhorse and the grooms read of the module beside a block. -/
def State.outside (s : State) : Outside :=
  { tiers := s.tiers,
    remote := fun _ => s.remotePort.getD 0,
    prog := fun k i => MgrRec.ofBytes (sliceZ (mget (fun _ => []) s.mgrProg (k % 8)) (64 * i) 64),
    ctlq := fun a =>
      if a.mcast then false
      else match s.pblockOf a.dest with
        | some p => (s.block p).qCtl a.queue
        | none => false }

/-- A Packhorse step of block `p`, whose tier bytes go back, but a shadow's do not (R318). -/
def State.onPackhorse (s : State) (p : Nat) (f : Block → Env → Outside → Block × Tiers) : State :=
  let (b, t) := f (s.block p) (s.env p) s.outside
  let s : State := { s with freeCtr := s.freeCtr + 1 }
  ((if s.tableOf p = p then s.setTiers t else s).setBlock p b).drainEv p

/-- The owner of an acknowledged packet learns of it (R214, R247). -/
def State.acked (s : State) (u : Nat) (h : Held) (status gen : Nat) : State :=
  match h.owner with
  | .none => s
  | .admission ring seq => s.admitAnswer ring seq status
  | .outbox t i => if u < 1280 ∧ i < 4 then s.onBlock u fun b env => b.answer env t i status gen else s
  | .mem id =>
    if u < 1280 ∧ h.pkt.kind = kMGR_CALL then
      match (s.block u).reqs.find? fun r => r.id == id with
      | none => s
      | some r => s.onPackhorse u fun b env o =>
          let b : Block := { b with reqs := b.reqs.filter fun x => x.id != id }
          b.jobReply env o r.use id status []
    else s

/-- A member of multicast `h` has answered (R205, R223): a refusal counts in the SEND's slot, and the last member completes it. -/
def State.memberAcked (s : State) (u : Nat) (h : Held) (src status : Nat) : State :=
  if hasTarget h.done src then s
  else
    let h' : Held := { h with done := h.done + 2 ^ targetBit src }
    let s := match h.owner with
      | .outbox t i => if status ≠ 0 ∧ i < 4 then s.onBlock u fun b _ =>
          let th := b.thread t
          b.setThread t (th.setSlot i { th.slot i with refused := (th.slot i).refused + 1 }) else s
      | _ => s
    let m := s.unit u
    let left := s.membersLeft u h'
    if left.1 = 0 ∧ left.2.isEmpty then (s.setUnit u { m with resend := m.resend.filter fun x => x.id != h.id }).acked u h 0 0
    else s.setUnit u { m with resend := m.resend.map fun x => if x.id == h.id then { x with done := h'.done } else x }

/-- A packet of a unit's store has been acknowledged: a member's copy answers for the member. -/
def State.heldAcked (s : State) (u : Nat) (h : Held) (src status gen : Nat) : State :=
  if h.part = 0 then s.acked u h status gen
  else match (s.unit u).resend.find? fun x => x.id == h.part with
    | some x => s.memberAcked u x src status
    | none => s

/-- Whether an ACK answers packets of a kind: a memory request is acknowledged by its MEM_REPLY (R191). -/
def ackCovers (k : Nat) : Bool := k != kMEM_READ && k != kMEM_WRITE

/-- ACK_RECEIVE (R191, R192, R202, R205, R214): the oldest ACK that the unit has taken. -/
def State.ackReceive (s : State) (u : Nat) : State :=
  let m := s.unit u
  match m.acksIn with
  | [] => s
  | k :: rest =>
    let status := leAt k.payload 0 1
    let fl := leAt k.payload 1 1
    let gen := leAt k.payload 2 1
    let vc := nbits fl 4 4
    let s := s.setUnit u { m with acksIn := rest }
    let s := if nbit fl 1 && decide (u < 1280) then s.onBlock u fun b env => b.echo env else s
    let mine := m.resend.filter fun h => !h.pkt.mcast && h.injected && h.pkt.dest == k.src && h.pkt.vc == vc
    let copy := m.resend.find? fun h => h.pkt.mcast && h.injected && h.pkt.seq == k.seq
    let park := fun (hs : List Held) => s.setUnit u { s.unit u with
      resend := (s.unit u).resend.map fun h => if hs.contains h then { h with waitFlip := true } else h }
    if nbit fl 0 then
      if nbit fl 3 then park (if nbit fl 2 then copy.toList else mine)
      else s.resendAll u (mine.filter fun h => decide (seqAhead h.pkt.seq k.seq < 32768))
    else if nbit fl 2 then
      match copy with
      | none => s
      | some h => s.memberAcked u h k.src status
    else
      let done := mine.filter fun h => ackCovers h.pkt.kind && decide (seqAhead k.seq h.pkt.seq < 32768)
      let m := s.unit u
      let s := s.setUnit u { m with resend := m.resend.filter fun h => !done.contains h }
      done.foldl (fun s h => s.heldAcked u h k.src (if h.pkt.seq = k.seq then status else 0) gen) s

/-- ECHO_RECEIVE (R201, R202): the echo that an ACK carries is taken. -/
def State.echoReceive (s : State) (p : Nat) : State :=
  let m := s.unit p
  match m.acksIn.find? fun k => nbit (leAt k.payload 1 1) 1 with
  | none => s
  | some k =>
    let k' : Pkt := { k with payload := leBytes 1 (leAt k.payload 0 1) ++ leBytes 1 (leAt k.payload 1 1 - 2) ++ leBytes 1 (leAt k.payload 2 1) }
    (s.setUnit p { m with acksIn := m.acksIn.map fun x => if x == k then k' else x }).onBlock p fun b env => b.echo env

/-- The unacknowledged packets of a stream that await no flip, oldest first: a multicast's by its open members, one that was never
injected by its present route. -/
def State.stream (s : State) (u dest vc : Nat) : List Held :=
  (s.unit u).resend.filter fun h => h.pkt.vc == vc && !h.waitFlip &&
    (if h.pkt.mcast then hasTarget (s.membersLeft u h).1 dest || !nbit (s.group (s.tableOf u) s.epoch h.idx 0) 63
     else if h.injected then h.pkt.dest == dest
     else nbits (s.route (s.tableOf u) s.epoch h.idx) 60 50 == dest || !nbit (s.route (s.tableOf u) s.epoch h.idx) 63)

/-- RESEND_TIMEOUT (R192, R205): the oldest unacknowledged packet of a stream has waited the timeout: the stream is resent
once, and after a second timeout on the same packet it waits for the next flip. -/
def State.resendTimeout (s : State) (u dest vc : Nat) : State :=
  let r := if u < 1280 then u else routerOf u
  let limit := 1000 * max 1 ((s.block r).get MSH_THRESH.timeout)
  match s.stream u dest vc with
  | [] => s
  | h :: hs =>
    let m := s.unit u
    if s.now < h.sentAt + limit then s
    else if 1 ≤ h.tries ∧ h.injected then
      s.setUnit u { m with resend := m.resend.map fun x => if (h :: hs).contains x then { x with waitFlip := true } else x }
    else
      let s := s.setUnit u { m with resend := m.resend.map fun x => if x.id == h.id then { x with tries := x.tries + 1 } else x }
      s.resendAll u ({ h with tries := h.tries + 1 } :: hs)

/-- The packets of the non-current epoch that have a flit in router `p` (R198): in its input buffers from their first flit on, in its merge
and replication buffers, and on a link to the next router until their last flit has left. Copies of one multicast count once. -/
def State.drainCount (s : State) (p : Nat) : Nat :=
  let e := s.epoch
  let r := (s.block p).router
  let inn := (r.buf.filter fun i => decide (1 ≤ i.got) || decide (4 ≤ i.port)).map InBuf.pkt
  let out := (List.range 4).flatMap fun d => match neighbour p d with
    | some q => ((s.block q).router.buf.filter fun i => i.port == oppPort d && decide (i.got < i.pkt.flits)).map InBuf.pkt
    | none => []
  let ks := (inn ++ out ++ r.merge.map MergeEntry.pkt ++ r.repl.map ReplEntry.pkt).filter fun k => k.epoch != e
  let copies := (ks.filter fun k => k.mcast).map fun k => { k with cmark := false }
  (ks.filter fun k => !k.mcast).length + copies.eraseDups.length

/-- The chip-wide drain count (R198). -/
def State.drain (s : State) : Nat := s.blocks.foldl (fun a e => a + s.drainCount e.1) 0

/-- A region's drain count (R198, R210), which stops at its maximum. -/
def State.drainOf (s : State) (r : Nat) : Nat :=
  min (2 ^ 32 - 1) ((s.blocks.filter fun e => regionOf e.1 == r).foldl (fun a e => a + s.drainCount e.1) 0)

/-- Set a field of the epoch register of every region. -/
def State.allRegions (s : State) (f : Fld) (v : Nat) : State := (List.range 16).foldl (fun s r => s.rset r f v) s

/-- EPOCH_FLIP_REQUEST (R195 step 4): the next beat is the flip beat. A planned swap flips at its own stride (R351). -/
def State.flipRequest (s : State) : State :=
  if s.rget 0 RGN_EPOCH.pending = 0 ∨ (s.rcv.active && s.blocks.any fun x => x.2.owes) ∨
      (!s.screen.plans.isEmpty && !s.rcv.active) then s else { s with cad := { s.cad with flipBeat := true } }

/-- A unit's streams to and from restarted blocks start over (R193): what it owes them or remembers of them goes with the streams. -/
def MeshUnit.restart (m : MeshUnit) (fresh : List Nat) : MeshUnit :=
  let gone := fun k => !fresh.contains (k / 2)
  { m with txSeq := m.txSeq.filter fun x => gone x.1, rxSeq := m.rxSeq.filter fun x => gone x.1,
           ackNext := m.ackNext.filter fun x => gone x.1, refusals := m.refusals.filter fun x => gone x.1,
           rxMulti := m.rxMulti.filter fun x => !fresh.contains x.1, acks := m.acks.filter fun a => !fresh.contains a.peer }

/-- The waiting packets of a unit are resent at a flip (R192, R193): those for a restarted block are numbered anew, in their order; a
restarted block's own store is empty. -/
def State.flipUnit (s : State) (u : Nat) (fresh : List Nat) : State :=
  let m := (s.unit u).restart fresh
  let m : MeshUnit := if fresh.contains u then
      { m with resend := [], sendq := m.sendq.filter (fun h => h.id == 0), txSeq := [], rxSeq := [], rxMulti := [], mcSeq := 0, acks := [],
               ackNext := [], refusals := [] }
    else m
  let lose := fun (h : Held) => if fresh.contains h.pkt.dest && !h.pkt.mcast then { h with pkt := { h.pkt with dest := 0x7FF } } else h
  let resend := m.resend.map fun h => if h.waitFlip || (fresh.contains h.pkt.dest && !h.pkt.mcast) then { lose h with tries := 0 } else h
  let again := resend.zip m.resend |>.filter (fun x => x.2.waitFlip || (fresh.contains x.2.pkt.dest && !x.2.pkt.mcast)) |>.map Prod.fst
  (s.setUnit u { m with resend := resend, sendq := m.sendq.map lose }).resendAll u again

/-- Each consumer's credit totals go to its remote producers at a flip (R194). -/
def Block.flipCredits (b : Block) : Block :=
  b.arcs.zipIdx.foldl (fun b (a, i) =>
    if a.outbound || a.manger || a.dest == b.lblock then b else b.sendCredit a (mget natZero b.totals i)) b

/-- The totals of an arc with a restarted block start over (R194): the consumer's at 0, and the producer counts what comes on top of the
credits that its restored state holds (R173). -/
def Block.restartArcs (b : Block) (self : Bool) (moved : Nat → Bool) : Block :=
  let ends := fun (a : ArcRec) => if a.outbound && a.mcast then a.members else [a.dest]
  b.arcs.zipIdx.foldl (fun b (a, i) =>
    (ends a).foldl (fun b l =>
      if a.manger || !(self || moved l) then b
      else if a.outbound then
        let k := returnKey a i l
        { b with bases := mset natZero b.bases k (mget natZero b.returned k) }
      else { b with totals := mset natZero b.totals i 0 }) b) b

/-- EPOCH_FLIP (R193 to R195): at the flip beat the new epoch becomes current, pending remounts take effect, and streams
restart. Where blocks moved, the recomputed tables may need a longer period (R45 step 3). -/
def State.flip (s : State) : State :=
  if !s.cad.flipBeat then s
  else
    let e := 1 - s.epoch
    let fresh := (s.rmt.filter fun x => x.2.pending).map Prod.fst ++ s.restarts
    let fresh := fresh ++ (s.screen.shadows.filter fun w => fresh.contains w.block).map Shadow.spare
    let taken := (s.rmt.filter fun x => x.2.pending).map fun x => x.2.next
    let move := fun (x : Rmt) => if x.pending then
        { x with pending := false, lblock := x.next, next := 0x7FF, state := if x.next = 0x7FF then x.state else 0 }
      else if x.lblock != 0x7FF && taken.contains x.lblock then
        { x with lblock := 0x7FF, foreign := false, state := if x.state = 0 then 1 else x.state }
      else x
    let s := s.rmt.foldl (fun s (p, x) => s.setRmt p (move x)) s
    let s := (((s.allRegions RGN_EPOCH.epoch e).allRegions RGN_EPOCH.pending 0).allRegions RGN_EPOCH.drained 0)
    let s := (List.range 16).foldl (fun s r => (s.rcount r RGN_EPOCH.flips 1).rset r RGN_EPOCH_AT.stride (s.get CAD_STRIDE.stride)) s
    let cad := { s.cad with flipBeat := false, flipAt := s.now }
    let cad := if taken.isEmpty then cad else { cad with need := Config.tablesNeed s.freeCtr, refit := true }
    let s : State := { s with restarts := [], fresh := fresh, cad := cad, freeCtr := if taken.isEmpty then s.freeCtr else s.freeCtr + 1 }
    let s := (s.blocks.map Prod.fst).foldl (fun s p => s.flipUnit p fresh) s
    let s := (s.endpoints.map Prod.fst).foldl (fun s u => s.flipUnit u fresh) s
    let logical := fresh.map fun p => (s.rmtOf p).lblock
    let s := (s.inService ++ s.screen.shadows.map Shadow.spare).foldl (fun s p =>
      s.setBlock p ((s.block p).restartArcs (fresh.contains p) fun l => l != 0x7FF && logical.contains l)) s
    s.onBlocks (fun b _ => b.flipCredits) s.inService

/-- A flip has drained (R195 step 6, R197, R198): no router holds a packet of the non-current epoch, the lease is released, and a
router in straight bypass that failed before the flip passes every epoch. -/
def State.flipDrained (s : State) : State :=
  if s.drain = 0 ∧ s.rget 0 RGN_EPOCH.pending = 0 ∧ ¬ s.cad.flipBeat then
    let e := s.epoch
    let s : State := { s with blocks := s.blocks.map fun (p, b) =>
      (p, if b.get MSH_CTL.mode = 2 ∧ b.router.failEpoch ≠ e then b.onRouter fun r => { r with failEpoch := 2 } else b) }
    (s.allRegions RGN_EPOCH.drained 1).allRegions RGN_EPOCH.lease 0
  else s

/-- FLIP_DRAIN_TIMEOUT (R198): 1 ms after the flip beat the leading steward raises an event and keeps waiting. -/
def State.flipDrainTimeout (s : State) : State :=
  match (List.range 16).find? fun r => s.rget r RGN_EPOCH.lease == 1 with
  | none => s
  | some r =>
    if s.rget r RGN_EPOCH.drained = 0 ∧ s.drain ≠ 0 ∧ s.cad.flipAt + 1000000 ≤ s.now then
      s.raiseRegion r { code := 0xB3, detail := s.drain }
    else s

end Sys2Proof.Machine
end

