-- ==== Sys2Proof/Machine/GroomOps.lean ====
section
/-! DEFINITION. Block registers as grooms and the Rider driver read and write them (R5 to R7, R122, R146, R446), and the
steps of grooms, messages and windows that reach outside their block. -/

namespace Sys2Proof.Machine

/-- Whether a thread waits in a RECV. -/
def Wait.isRecv : Wait → Bool
  | .recv .. => true
  | _ => false

/-- Whether a thread waits for a credit. -/
def Wait.isCredit : Wait → Bool
  | .credit _ => true
  | _ => false

/-- Whether a thread waits in a FENCEWAIT. -/
def Wait.isFence : Wait → Bool
  | .fence _ => true
  | _ => false

/-- Whether a thread waits for its task's end. -/
def Wait.isEnding : Wait → Bool
  | .ending => true
  | _ => false

/-- Whether thread `t` waits in an instruction that it can try again. -/
def Block.resumes (b : Block) (t : Nat) (waits : Wait → Bool) : Bool :=
  !b.halted && waits (b.thread t).wait && ((b.thread t).state == 2 || (b.thread t).state == 4)

/-- Thread `t` issues an instruction that may wait, or tries again the one it waits in. -/
def Block.issueWait (b : Block) (env : Env) (t : Nat) (hw : GroomHw) (waits : Wait → Bool) (run : Block → Block) : Block :=
  if b.resumes t waits then b.withGroomHw env t hw run else b.issue env t hw run

/-- The registers that counters 0 to 26 read a second time (R446, R452). -/
def counterPlace (i : Nat) : Nat :=
  if i < 4 then BLK_DRG_WAVES.off + 8 * i
  else if i = 4 then PKH_BYTES.off
  else if i = 5 then BLK_SPD_ECC.off
  else if i < 11 then BLK_DF_FIRES.off + 8 * (i - 6)
  else if i < 19 then MSH_FLITS.off + 8 * (i - 11)
  else BLK_GRM_MQFULL.off + 8 * (i - 19)

/-- The stored place of a block register: counters 0 to 26 lie at the registers they name. -/
def blkPlace (off : Nat) : Nat :=
  if 0x3D00 ≤ off ∧ off < 0x3D00 + 8 * 27 then counterPlace ((off - 0x3D00) / 8) else off

/-- A block register as it reads now: stored words, with the occupancies and ages that follow the state (R176, R209,
R452). -/
def Block.readReg (b : Block) (now : Nat) (off : Nat) : Word :=
  let w := b.word (blkPlace off)
  if off = BLK_DF_STATUS.off then
    putBits (putBits (putBits w 51 39 (b.ctxs.filter fun c => !c.steer).length) 38 30 (b.ctxs.filter fun c => c.steer).length)
      29 18 b.queue.length
  else if off = MSH_RESEND.off then
    let m := b.mesh.resend
    BitVec.ofNat 64 ((m.filter fun h => h.pkt.mcast).length * 2 ^ 32 + (m.foldl (fun a h => a + h.pkt.lines) 0) * 2 ^ 16 + m.length)
  else if off = BLK_TETHER.off then putBits w 47 32 (min 65535 ((now - b.progressAt) / 1000))
  else if 0x4000 ≤ off ∧ off < 0x8000 then
    let i := (off - 0x4000) / 4
    ((b.code.getD (i + 1) 0 ++ b.code.getD i 0 : BitVec (32 + 32))).setWidth 64
  else w

/-- The table word that MSH_RT_ADDR names (R209). -/
def State.tableWord (s : State) (p : Nat) : Nat :=
  let b := s.block p
  let i := b.get MSH_RT_ADDR.index
  let e := b.get MSH_RT_ADDR.epoch
  if b.get MSH_RT_ADDR.table = 0 then (if i < 1200 ∨ (1280 ≤ i ∧ i < 1408) then s.route p e i else 0)
  else if i < 64 then s.group p e i (b.get MSH_RT_ADDR.word) else 0

/-- Any register of a block's window as it reads now: every router has the chip's epoch, and a flip between its copy and its beat (R195,
R209). -/
def State.readBlk (s : State) (p off : Nat) : Word :=
  let r := regionOf p
  if off = MSH_RT_DATA.off then BitVec.ofNat 64 (s.tableWord p)
  else if off = MSH_CTL.off then
    putBits (putBits ((s.block p).readReg s.now off) 0 0 (s.rget r RGN_EPOCH.epoch)) 1 1 (s.rget r RGN_EPOCH.pending)
  else if off = MSH_DRAIN.off then BitVec.ofNat 64 (min 65535 (s.drainCount p))
  else (s.block p).readReg s.now off

/-- A write of the Rider driver to a handle-table register (R146): only while the device is Held or Ready; event 0xBD
otherwise. A write to a valid entry's other registers increments its generation. -/
def Block.hdlWrite (b : Block) (env : Env) (h which : Nat) (v : Word) : Block :=
  let off := HDL_CTL.off h + 8 * which
  if !env.holding then b.note env { cell := 0, code := 0xBD, detail := 0x100000000000 + 0x10000 * env.p + off, detail2 := 3 }
  else
    match findRow blkRows off with
    | none => b
    | some r =>
      let b' : Block := { b with regs := mset blkReset b.regs off (r.write false (b.word off) v) }
      if which ≠ 0 ∧ b.get (HDL_CTL.valid h) = 1 then b'.bumpGen h else b'

/-- A write to a plain register of the block window under its access codes (R6, R7). -/
def Block.writePlain (b : Block) (off : Nat) (v : Word) : Block :=
  let off := blkPlace off
  match findRow blkRows off with
  | none => b
  | some r => { b with regs := mset blkReset b.regs off (r.write false (b.word off) v) }

/-- A write to BLK_GRM_QCTL (R220): go performs the operation. -/
def Block.writeQctl (b : Block) (v : Word) : Block :=
  let b := b.writePlain BLK_GRM_QCTL.off v
  if bitsOf v 63 63 = 0 then b
  else if bitsOf v 62 61 = 1 then b.closeQueue (bitsOf v 7 0)
  else if bitsOf v 62 61 = 2 then b.reopenQueue (bitsOf v 7 0)
  else b

/-- A write to PKH_RING (R140, R146): while enable is 1 only that field changes. A ring that is not served keeps nothing posted; one
that comes into service takes what stands between its tail and its head. -/
def Block.writeRing (b : Block) (v : Word) : Block :=
  let was := b.ringServed
  let b := if b.get PKH_RING.enable = 1 then b.set PKH_RING.enable (bitsOf v 63 63) else b.writePlain PKH_RING.off v
  if !b.ringServed then { b with jobs := b.jobs.filter fun j => !(j.fromRing && !j.started) }
  else if was then b
  else
    let size := b.ringSize
    let new := (ringSpan size (b.get PKH_TAIL.index % size) (b.get PKH_HEAD.index % size)).filter fun i =>
      !b.jobs.any fun j => j.fromRing && j.index == i
    b.postJobs new

/-- A write to a block register that reaches no further than the block; `thread` is the groom thread that writes. -/
def Block.writeReg (b : Block) (env : Env) (thread : Option Nat) (off : Nat) (v : Word) : Block :=
  if 0x1000 ≤ off ∧ off < 0x2000 then b.hdlWrite env ((off - 0x1000) / 64) ((off - 0x1000) % 64 / 8) v
  else if off = PKH_RING.off then b.writeRing v
  else if off = PKH_HEAD.off then b.doHead thread v
  else if off = BLK_GRM_QCTL.off then b.writeQctl v
  else b.writePlain off v

/-- GROOM_INSTRUCTION (R118, R119, R122, R128): thread `t` issues, and a register write takes effect in the block. An unaligned
register access reads zero or writes nothing, and the chip steward records it (R5). -/
def State.groomInstruction (s : State) (p t : Nat) (op : GroomOp) (hw : GroomHw) : State :=
  let regs := fun off => if off % 8 = 0 then s.readBlk p off else 0
  let hw := GroomHw.on hw (GroomOp.checked op)
  let runs := (s.block p).canIssue t && !GroomHw.stops hw && !groomOpBad op
  let s := s.onBlock p fun b env => b.issue env t hw fun b =>
    if groomOpBad op then b.programFault env t 0x21
    else
      let (th, wr) := groomOp env.free regs (b.thread t) op
      let b := (b.setThread t th).cnt (27 + t) 1
      match wr with
      | some (off, v) => if off % 8 = 0 then b.writeReg env (some t) off v else b
      | none => b
  match GroomOp.skewed op with
  | some off => if runs then s.raise 2 0 { code := 0xBD, detail := 0x100000000000 + 0x10000 * p + off, detail2 := 1 } else s
  | none => s

/-- Whether a queue of a logical block holds control tokens, as the image that the sender was compiled with says. -/
def State.isCtlq (s : State) (dest queue : Nat) : Bool :=
  match s.pblockOf dest with
  | some p => (s.block p).qCtl queue
  | none => false

/-- GROOM_SEND (R125, R163, R211 to R214). -/
def State.groomSend (s : State) (p t a rb rc imm : Nat) (hw : GroomHw) : State :=
  let d := SendDest.ofWord ((s.block p).thread t |>.rd rb)
  let ctl := s.isCtlq d.dest d.queue
  let ok := s.groupOk p d.dest
  s.onBlock p fun b env => b.issueWait env t (GroomHw.on hw false) Wait.isCredit fun b => b.doSend env ctl ok t a rb rc imm

/-- CQ_CONTRIBUTE (R168): timing-dependent sums count in CAD_LOOSE_COUNT (R49); `bad` is an uncorrectable word that the combine unit
reads (R128). -/
def State.cqContribute (s : State) (p : Nat) (bad : Bool) : State :=
  let (b, n) := if (s.block p).halted then (s.block p, 0) else (s.block p).doContribute (s.env p) bad
  ((s.setBlock p b).drainEv p).count CAD_LOOSE_COUNT.count n

/-- The block answers a packet (R191, R215). -/
def Block.answerPkt (b : Block) (k : Pkt) (status gen : Nat) : Block := { b with mesh := b.mesh.answered k status gen }

/-- Slots of the block whose message goes to the block that just met a full queue here record it (R225). -/
def Block.recordBalk (b : Block) (l : Nat) : Block :=
  let hit := fun (s : OutSlot) => if (s.st == 1 || s.st == 2) && !nbit s.imm 1 && (SendDest.ofWord s.dst).dest == l then
      { s with mutualBalk := true } else s
  { b with threads := b.threads.map fun (t, th) => (t, { th with outbox := th.outbox.map fun (i, s) => (i, hit s) }) }

/-- MESSAGE_ARRIVE (R215, R217, R219, R225). -/
def Block.messageArrive (b : Block) : Block :=
  if b.halted then b
  else
    match takeFirst (fun k : Pkt => k.kind == kMESSAGE) b.mesh.inbox with
    | none => b
    | some (k, rest) =>
      let (b, st) := ({ b with mesh := { b.mesh with inbox := rest } } : Block).acceptMessage k
      let b := if st = 1 then b.recordBalk k.srcidx else b
      b.answerPkt k st (if st = 0 then 0 else b.get (BLK_Q_CFG.incarn k.qid))

/-- Whether lines of an accepted window write are still on their way to their tier. -/
def Block.windowOut (b : Block) (src vc seq : Nat) : Bool :=
  b.reqs.any fun r => match r.use with | .window _ u c n => u == src && c == vc && n == seq | _ => false

/-- A line of an accepted window write has been answered (R229): the write is acknowledged once all of them have; one that its tier refused
gives the answer that stands for the refusal (DESIGN CHOICE, log entry 24). -/
def Block.windowLine (b : Block) (src vc seq status gen : Nat) : Block :=
  let mine := fun (a : AckOwed) => !a.ready && a.peer == src && a.vc == vc && a.seq == seq && !a.mcast
  let st := memToStatus status
  let m := b.mesh
  let m : MeshUnit := if st = 0 then m else { m with
    acks := m.acks.map fun a => if mine a then { a with status := st, byte2 := gen } else a,
    refusals := ((src * 2 + vc, seq, st, gen) :: m.refusals).take 255 }
  if b.windowOut src vc seq then { b with mesh := m }
  else
    let m : MeshUnit := { m with acks := m.acks.map fun a => if mine a then { a with ready := true } else a }
    { b with mesh := m.ackNow src vc m.acks.length }

/-- WINDOW_WRITE_ARRIVE (R215, R228, R229): an accepted write is answered once it is in place. -/
def Block.windowArrive (b : Block) (env : Env) : Block :=
  if b.halted then b
  else
    match takeFirst (fun k : Pkt => k.kind == kWINDOW_WRITE) b.mesh.inbox with
    | none => b
    | some (k, rest) =>
      let b : Block := { b with mesh := { b.mesh with inbox := rest } }
      let st := b.windowCheck k
      if st = 0 then
        let b := b.applyWindow env k
        if b.windowOut k.src k.vc k.seq then b else b.answerPkt k 0 0
      else (b.count BLK_GRM_WINREF.count 1).answerPkt k st (if k.qid < 64 then b.get (HDL_CTL.gen k.qid) else 0)

end Sys2Proof.Machine
end

