-- ==== Sys2Proof/Machine/Leases.lean ====
section
/-! DEFINITION. Maintenance leases (R356 to R360). -/

namespace Sys2Proof.Machine

/-- The lower triangle of the table titled Lease compatibility: 0 always compatible, 1 a conflict on the same resource,
2 always a conflict, 3 the later joins. -/
def leaseTable : List (List Nat) :=
  [[1],
   [1, 1],
   [1, 1, 3],
   [0, 0, 0, 1],
   [0, 0, 0, 0, 1],
   [0, 0, 0, 0, 0, 1],
   [0, 2, 3, 0, 0, 0, 2],
   [0, 0, 2, 0, 0, 0, 2, 2],
   [2, 2, 2, 2, 2, 0, 2, 2, 2],
   [2, 2, 2, 0, 0, 0, 0, 0, 2, 2],
   [2, 2, 2, 0, 2, 0, 2, 2, 2, 2, 2],
   [0, 0, 0, 0, 0, 0, 0, 0, 0, 0, 0, 1]]

/-- The table's entry for two codes. -/
def leaseRule (a b : Nat) : Nat := (leaseTable.getD (max a b) []).getD (min a b) 0

/-- The blocks that a lease of code 0 or 1 names; a shadow's resource is its spare + 2,048 × its sampled block. -/
def leaseBlocks (code res : Nat) : List Nat := if code = 1 then [res % 2048, res / 2048] else [res]

/-- Whether two leases name the same resource (R357). A remount names its region and a slice or a sample its blocks; they meet in the spare
that the remount takes alone (DEDUCED from R345, log entry 28), and `State.freeSpare` deals with it. -/
def sameResource (a ra b rb : Nat) : Bool :=
  if a < 2 && b < 2 then (leaseBlocks a ra).any fun x => (leaseBlocks b rb).contains x
  else decide (2 ≤ a) && decide (2 ≤ b) && ra == rb

/-- Whether two leases conflict (R357). -/
def leaseConflict (a ra b rb : Nat) : Bool :=
  leaseRule a b == 2 || (leaseRule a b == 1 && sameResource a ra b rb)

/-- Whether a request conflicts with a list of leases. -/
def Lease.clashes (l : Lease) (ls : List Lease) : Bool := ls.any fun x => leaseConflict l.code l.res x.code x.res

/-- The codes of a list of leases as bits. -/
def leaseCodes (ls : List Lease) : Nat := (List.range 12).foldl (fun a k => a + (if ls.any fun l => l.code == k then 2 ^ k else 0)) 0

/-- Put the leases back; LSE_HELD and LSE_WAITING follow (R363). -/
def State.setLeases (s : State) (l : Leases) : State :=
  (({ s with leases := l } : State).set LSE_HELD.codes (leaseCodes l.held)).set LSE_WAITING.codes (leaseCodes l.waiting)

/-- Whether a lease is held. -/
def State.leaseHeld (s : State) (code res : Nat) : Bool := s.leases.held.any fun l => l.code == code && l.res == res

/-- Whether a lease could be granted now. -/
def State.leaseFree (s : State) (code res : Nat) : Bool :=
  !({ code := code, res := res } : Lease).clashes (s.leases.held ++ s.leases.waiting)

/-- Ask for a lease (R358): result 0 held, 1 LEASE_BUSY, 4 waiting. -/
def State.acquire (s : State) (l : Lease) (nowait : Bool) : State × Nat :=
  let l := { l with since := s.now }
  if !l.clashes (s.leases.held ++ s.leases.waiting) then (s.setLeases { s.leases with held := s.leases.held ++ [l] }, 0)
  else if nowait then (s.count LSE_BUSY.count 1, 1)
  else (s.setLeases { s.leases with waiting := s.leases.waiting ++ [l] }, 4)

/-- A lease is released, or a request withdrawn. -/
def State.release (s : State) (code res : Nat) : State :=
  let keep := fun (l : Lease) => !(l.code == code && l.res == res)
  s.setLeases { held := s.leases.held.filter keep, waiting := s.leases.waiting.filter keep }

/-- Whether a block may hold a logical block: not fenced, in quarantine or retired, and in a region that is up. -/
def State.healthy (s : State) (p : Nat) : Bool :=
  let st := (s.rmtOf p).state
  st != 2 && st != 3 && st != 4 && s.rget (regionOf p) RGN_RCV.down == 0

/-- A block's work is dropped: its engine, threads, descriptors, queues, contexts and credits start afresh. -/
def Block.clearWork (b : Block) : Block :=
  let b : Block := { b with
    working := false, owes := false, waitQuiet := false, tally := 0, freeTally := 0, tallies := [], eng := {}, threads := [], gather := [],
    jobs := [], reqs := [], flPos := 0, flDone := [], queue := [], ctxs := [], cqs := [], spent := [], returned := [],
    bases := [], totals := [], waits := [], closeAt := [], reinJob := none, turns := [], jobFault := none }
  let b := b.jobsActive
  let b := (List.range 8).foldl (fun b t =>
    (((b.set (BLK_GRM_STATE.pc t) 0).set (BLK_GRM_STATE.task t) 0).set (BLK_GRM_STATE.fault t) 0).set (BLK_GRM_STATE.state t) 0) b
  let b := (List.range 16).foldl (fun b c =>
    ((b.set (BLK_CQ_STATE.done c) 0).set (BLK_CQ_STATE.peak c) 0).set (BLK_CQ_STATE.openS c) 0) b
  (((b.set BLK_DF_STATUS.fl_index 0).set BLK_DF_STATUS.ctx_used 0).set BLK_DF_STATUS.match_used 0).set BLK_DF_STATUS.qent_used 0

/-- Change screening. -/
def State.onScreen (s : State) (f : Screen → Screen) : State := { s with screen := f s.screen }

/-- A sample is over: its spare is free again. -/
def State.shadowOver (s : State) (w : Shadow) : State :=
  let s := (s.onScreen fun x => { x with shadows := x.shadows.erase w }).release 1 (w.spare + 2048 * w.block)
  let x := s.rmtOf w.spare
  let s := if x.state = 5 then s.setRmt w.spare { x with state := 1 } else s
  s.setBlock w.spare { ((s.block w.spare).clearWork.set MSH_CTL.mode (if s.healthy w.spare then 0 else 1)) with
    spad := [], lblock := 0x7FF, stride := BitVec.ofNat 64 (s.get CAD_STRIDE.stride) }

/-- An abandoned sample gives no verdict and counts as skipped (R315). -/
def State.shadowDrop (s : State) (w : Shadow) : State := (s.rcount (regionOf w.spare) TST_RGN_SKIPPED.count 1).shadowOver w

/-- A thread with every register zero. -/
def threadZero : Thread :=
  { g := (List.range 31).foldl (fun m i => mins (i + 1) 0 m) [], v := (List.range 32).foldl (fun m i => mins i 0 m) [] }

/-- What a slice overwrites is zero at its end (R305, R306). -/
def Block.zeroSlice (b : Block) (k : Nat) : Block :=
  if k < 8 then { b with spad := mclear (65536 * k) (65536 * (k + 1)) b.spad, gather := b.gather.filter fun g => g.bank != k }
  else if k < 12 then { b with eng := { b.eng with active := none, shadow := none } }
  else if k = 12 then { b with eng := {}, program := [] }
  else if k = 14 ∨ k = 15 then
    { b with threads := (List.range 4).foldl (fun m i => mset threadIdle m (4 * (k - 14) + i) threadZero) b.threads, code := [], tasks := [] }
  else if k = 16 then
    { b with queue := [], ctxs := b.ctxs.filter (fun c => c.steer), nodes := [], arcs := [], fireList := [], templates := [] }
  else if k = 17 then { b with ctxs := b.ctxs.filter (fun c => !c.steer), cqs := [] }
  else if k = 18 then { b with jobs := [], regs := b.regs.filter fun x => x.1 < HDL_CTL.off 0 || HDL_CTL.off 63 + 40 ≤ x.1 }
  else b

/-- TST_BLK_RESULT; `place` gives struct, address and bit of a failure. -/
def Block.sliceResult (b : Block) (k result attempt : Nat) (place : Word) : Block :=
  let b : Block := { b with regs := mset blkReset b.regs TST_BLK_RESULT.off (if result = 2 then place else 0) }
  ((b.set TST_BLK_RESULT.slice k).set TST_BLK_RESULT.result result).set TST_BLK_RESULT.attempt attempt

/-- What a slice tested is zero at its end, whatever its result (R305, R308). -/
def Block.sliceDone (b : Block) (k : Nat) : Block :=
  { (b.zeroSlice k).set TST_BLK_STATE.slice 31 with slice := none, recordBad := none, sliceSpoilt := false }

/-- A slice is discarded (R308, R315). -/
def State.sliceDrop (s : State) (p : Nat) : State :=
  match (s.block p).slice with
  | none => s
  | some (k, _, again) =>
    let s := s.setBlock p (((s.block p).sliceResult k 3 (b2n again) 0).sliceDone k)
    let s := s.rcount (regionOf p) TST_RGN_DISCARDED.count 1
    if (s.rmtOf p).state = 6 then s.setRmt p { s.rmtOf p with state := 1 } else s

/-- What a remount does to a holder in its way (R359): a slice is discarded, a sample abandoned, anything else waits for
the recovery's end. -/
def State.abandon (s : State) (l : Lease) : State :=
  let s := s.count LSE_ABANDONED.count 1
  if l.code = 0 then s.sliceDrop l.res
  else if l.code = 1 then (s.screen.shadows.filter fun w => w.spare + 2048 * w.block == l.res).foldl State.shadowDrop s
  else s

/-- Whether a lease is of a sample whose retry runs (R315 rank 2, R319): the recovery is for its sake. -/
def State.retries (s : State) (l : Lease) : Bool :=
  l.code == 1 && s.screen.shadows.any fun w => w.first.isSome && w.spare + 2048 * w.block == l.res

/-- A lease that never waits (R359, R360): holders in conflict are dealt with, and the lease is held. A sample's
retry goes on. -/
def State.force (s : State) (code res : Nat) : State :=
  let l : Lease := { code := code, res := res, since := s.now }
  let out := s.leases.held.filter fun x => leaseConflict code res x.code x.res && x.code != code && !s.retries x
  let s := out.foldl State.abandon s
  let wait := out.filter fun x => 7 ≤ x.code
  let held := s.leases.held.filter fun x => !out.contains x && !(x.code == code && x.res == res)
  s.setLeases { held := held ++ [l], waiting := wait ++ s.leases.waiting }

/-- LEASE_ACQUIRE (R356 to R358): a unit of the device asks. -/
def State.leaseAcquire (s : State) (code res : Nat) (nowait : Bool) : State :=
  if 12 ≤ code then s else (s.acquire { code := code, res := res } nowait).1

/-- LEASE_GRANT (R358): the first waiting request that conflicts neither with a holder nor with an earlier request. -/
def State.leaseGrant (s : State) : State :=
  let go := s.leases.waiting.zipIdx.find? fun (l, i) => !l.clashes (s.leases.held ++ s.leases.waiting.take i)
  match go with
  | none => s
  | some (l, i) =>
    let s := s.setLeases { held := s.leases.held ++ [l], waiting := s.leases.waiting.eraseIdx i }
    if l.by_ = 1 then (s.set LSE_STATUS.state 2).set LSE_STATUS.result 0
    else if l.by_ = 2 then (s.set FAR_MBX_STATUS.busy 0).set FAR_MBX_STATUS.result 0
    else s

/-- LEASE_STARVED (R358): a request has waited 10 s. -/
def State.leaseStarved (s : State) : State :=
  match s.leases.waiting.find? fun l => !l.starved && decide (l.since + 10000000000 ≤ s.now) with
  | none => s
  | some l =>
    let mark := fun (x : Lease) => if x == l then { x with starved := true } else x
    (s.setLeases { s.leases with waiting := s.leases.waiting.map mark }).raise 2 0
      { code := 0xB7, detail := l.code, detail2 := l.res }

/-- A request through LSE_REQ or the Farrier mailbox (R363): state and result as LSE_STATUS codes them. -/
def State.leaseRequest (s : State) (by_ : Nat) (v : Word) : State × Nat × Nat :=
  let code := bitsOf v 59 56
  let res := bitsOf v 15 0
  if bitsOf v 62 61 = 1 then
    if (code != 5 && code != 8 && code != 9) || (code == 5 && decide (12 ≤ res)) then (s, 3, 2)
    else
      let (s, r) := s.acquire { code := code, res := res, by_ := by_ } (bitsOf v 60 60 == 1)
      (s, if r = 0 then 2 else if r = 4 then 1 else 3, if r = 1 then 1 else 0)
  else if s.leases.held.any fun l => l.code == code && l.res == res && l.by_ == by_ then (s.release code res, 0, 0)
  else (s, 0, 3)

end Sys2Proof.Machine
end

