-- ==== Sys2Proof/Machine/MemoryOps.lean ====
section
/-! DEFINITION. The memory ports and channels, the manger engines' queues, refresh, scrubbing and signed ranges (R235 to
R259, R476). -/

namespace Sys2Proof.Machine

/-- The tier that an endpoint serves, and its stack or channel. -/
def endpointTier (u : Nat) : Option (Nat × Nat) :=
  if 1280 ≤ u ∧ u < 1360 then some (1, (u - 1280) / 10)
  else if 1360 ≤ u ∧ u < 1372 then some (2, u - 1360)
  else none

/-- Whether an address names the stack or channel of an endpoint (R238). -/
def namesUnit (tier unit a : Nat) : Bool := if tier = 1 then nbits a 38 36 == unit else (ddrPlace a).1 == unit

/-- The memory status of a request at an endpoint (R238): alignment first, then range and place. -/
def Tiers.unitStatus (t : Tiers) (tier unit a lines : Nat) (write : Bool) : Nat :=
  let st := t.status tier a lines write
  if st = 2 then 2 else if st = 1 ∨ ¬ namesUnit tier unit a then 1 else st

/-- The reply to a request (R188, R238). -/
def replyTo (k : Pkt) (status : Nat) (bytes : List Byte) : Held :=
  { pkt := { kind := kMEM_REPLY, vc := 1, tag := k.tag, qid := status, isData := !bytes.isEmpty,
             length := if bytes.isEmpty then 0 else bytes.length / 64 - 1, payload := bytes }, idx := k.srcidx }

/-- A remote access leaves port `i` in a fabric frame whose payload is the request's (R242, R405). -/
def State.remoteOut (s : State) (i : Nat) (r : FabReq) : State :=
  let k := r.pkt
  let x := s.port i
  (s.setPort i { x with remote := x.remote ++ [r] }).fabSend i r.node
    (if k.kind = kMEM_READ then fREMOTE_READ else fREMOTE_WRITE) 0 k.addr k.payload

/-- A remote access of a block goes out through its Trace port, or through the next one in fabric mode that is up; with none
left the job ends with REMOTE_LOST (R405). -/
def State.remoteOr (s : State) (i : Nat) (r : FabReq) : State :=
  let ok := fun j => s.fabricUp j && !(s.port j).dead.contains r.node
  match if ok i then some i else (List.range 8).find? ok with
  | some j => s.remoteOut j r
  | none => s.failJob stREMOTE_LOST 0

/-- A request at a Trace port's endpoint is a remote access (R242). -/
def State.remoteForward (s : State) (u kind : Nat) : State :=
  if u < 1376 ∨ 1384 ≤ u then s
  else
    let m := s.unit u
    match takeFirst (fun k : Pkt => k.kind == kind) m.inbox with
    | none => s
    | some (k, rest) => (s.setUnit u { m with inbox := rest }).remoteOr (u - 1376) { node := k.parts, pkt := k }

/-- The endpoint answers a memory request: the MEM_REPLY acknowledges it (R191, R238). -/
def State.memAnswer (s : State) (u : Nat) (k : Pkt) (status : Nat) (bytes : List Byte) : State :=
  (s.setUnit u ((s.unit u).replied k status)).sendFrom u (replyTo k status bytes)

/-- The answer of a far node goes back to the oldest access to it on the port (R405); a line that the chip steward asked for is rewritten
(R260), and the job ends where the source refuses it. -/
def State.remoteBack (s : State) (i node status : Nat) (payload : List Byte) : State :=
  let x := s.port i
  match takeFirst (fun r : FabReq => r.node == node) x.remote with
  | none => s
  | some (r, rest) =>
    let s := s.setPort i { x with remote := rest }
    match r.back with
    | none => s.memAnswer (1376 + i) r.pkt status payload
    | some (tier, a) => if status = 0 then s.setTiers (s.tiers.putLine tier a payload) else s.failJob stREMOTE_LOST 0

/-- Record a memory error (R257, R260): kinds 1 corrected, 2 uncorrectable, 3 signature mismatch; the address in the linear view. -/
def State.noteStackError (s : State) (k kind addr : Nat) : State :=
  ((s.set (MGR_ERR_ADDR.valid k) 1).set (MGR_ERR_ADDR.kind k) kind).set (MGR_ERR_ADDR.addr k) (hbmKey addr)

/-- The same for a DDR5 channel. -/
def State.noteChannelError (s : State) (c kind addr : Nat) : State :=
  ((s.set (DDR_ERR_ADDR.valid c) 1).set (DDR_ERR_ADDR.kind c) kind).set (DDR_ERR_ADDR.addr c) (ddrKey addr)

/-- A line that a read or a scrub corrects is counted (R257). -/
def State.corrected (s : State) (tier a : Nat) : State :=
  if tier = 1 then
    let k := hbmKey a / 2 ^ 36
    (s.count (MGR_ECC_CE.count k) 1).noteStackError k 1 a
  else
    let c := (ddrPlace a).1
    (s.count (DDR_ECC_CE.count c) 1).noteChannelError c 1 a

/-- MEM_READ at endpoint `u` (R238, R257). -/
def State.memRead (s : State) (u : Nat) (hw : DramHw) : State :=
  match endpointTier u with
  | none => s.remoteForward u kMEM_READ
  | some (tier, unit) =>
    let m := s.unit u
    match takeFirst (fun k : Pkt => k.kind == kMEM_READ) m.inbox with
    | none => s
    | some (k, rest) =>
      let s := s.setUnit u { m with inbox := rest }
      let n := leAt k.payload 0 1 % 32 + 1
      let st := s.tiers.unitStatus tier unit k.addr n false
      if st ≠ 0 then s.memAnswer u k st []
      else if hw = .uncorrectable then s.memAnswer u k 3 []
      else (if hw = .corrected then s.corrected tier k.addr else s).memAnswer u k 0 (s.tiers.lines tier k.addr n)

/-- MEM_WRITE at endpoint `u` (R181, R238, R257): whole lines, or one byte-masked line, which alone reads the DRAM. -/
def State.memWrite (s : State) (u : Nat) (hw : DramHw) : State :=
  match endpointTier u with
  | none => s.remoteForward u kMEM_WRITE
  | some (tier, unit) =>
    let m := s.unit u
    match takeFirst (fun k : Pkt => k.kind == kMEM_WRITE) m.inbox with
    | none => s
    | some (k, rest) =>
      let s := s.setUnit u { m with inbox := rest }
      let n := if k.isData then k.length + 1 else 1
      let st := s.tiers.unitStatus tier unit k.addr n true
      if st ≠ 0 then s.memAnswer u k st []
      else if k.isData then (s.setTiers (s.tiers.putLines tier k.addr (sliceZ k.payload 0 (64 * n)))).memAnswer u k 0 []
      else if hw = .uncorrectable then s.memAnswer u k 3 []
      else
        let s := if hw = .corrected then s.corrected tier k.addr else s
        (s.setTiers (s.tiers.putMasked tier k.addr (sliceZ k.payload 0 64) (leAt k.payload 64 8))).memAnswer u k 0 []

/-- A Rider window line is answered (R476): data for a read, a bus error and event 0xBF for any status but OK. -/
def State.riderReply (s : State) (u : Nat) (k : Pkt) : State :=
  match s.riderReqs.find? fun r => r.id == k.tag && r.port + 1392 == u with
  | none => s
  | some r =>
    let s : State := { s with riderReqs := s.riderReqs.filter fun x => x != r }
    if k.qid = 0 then
      if r.write then s else { s with out := s.out ++ [.busData r.port (sliceZ k.payload (r.addr % 64) r.size)] }
    else
      ({ s with out := s.out ++ [.busError r.port] } : State).raise 5 u
        { code := 0xBF, detail := r.addr / 64 * 64, detail2 := k.qid }

/-- MEM_REPLY at unit `u` (R191, R238): the request is acknowledged, and whoever waits for it goes on; a status 3 leaves
its unit waiting (R260). -/
def State.memReply (s : State) (u : Nat) : State :=
  let m := s.unit u
  match takeFirst (fun k : Pkt => k.kind == kMEM_REPLY) m.inbox with
  | none => s
  | some (k, rest) =>
    let s := s.setUnit u { m with inbox := rest, resend := m.resend.filter fun h => h.owner != .mem k.tag }
    if 1280 ≤ u then s.riderReply u k
    else
      match (s.block u).reqs.find? fun r => r.id == k.tag with
      | none => s
      | some r =>
        let drop := fun (b : Block) => if k.qid = 3 then b else { b with reqs := b.reqs.filter fun x => x.id != k.tag }
        let gen := match r.use with | .window h .. => (s.block u).get (HDL_CTL.gen h) | _ => 0
        match r.use with
        | .load .. => s.onBlock u fun b env => (drop b).handleReply env r.use k.tag k.qid k.payload
        | .store .. => s.onBlock u fun b env => (drop b).handleReply env r.use k.tag k.qid k.payload
        | .window _ src vc seq => s.onBlock u fun b _ => if k.qid = 3 then b else (drop b).windowLine src vc seq k.qid gen
        | _ => s.onPackhorse u fun b env o => (drop b).jobReply env o r.use k.tag k.qid k.payload

/-- The queue of manger engine `e`, 32 × stack + engine. -/
def State.queueOf (s : State) (e : Nat) : List Call := mget (fun _ => []) s.calls e

/-- Replace it. -/
def State.setQueue (s : State) (e : Nat) (q : List Call) : State := { s with calls := mset (fun _ => []) s.calls e q }

/-- Whether engine `c` of stack `k` is fenced (R254). -/
def State.fencedEngine (s : State) (k c : Nat) : Bool := nbit (s.get (MGR_STATUS.fenced k)) c

/-- The partner of an engine (R254). -/
def partner (c : Nat) : Nat := c ^^^ 1

/-- The protected bytes of stack `k`'s linear view (R259). -/
def Tiers.protectedIn (t : Tiers) (k : Nat) : List (Nat × Nat) :=
  t.protected_.filterMap fun (a, n) => if a / 2 ^ 36 = k then some (a % 2 ^ 36, n) else none

/-- The vector area of a call (R246, R247): inline, or read from the stack. -/
def callVector (t : Tiers) (k : Nat) (r : MgrRec) (l : CallLine) (payload : List Byte) : Option (List Byte) :=
  if nbit l.flags 0 then
    let n := callVecBytes r l
    if 32768 < n ∨ n = 0 then some []
    else if nbits l.vaddr 38 36 == k && hbmOk l.vaddr && nbits (l.vaddr + n - 1) 38 36 == k && hbmOk (l.vaddr + n - 1) then
      some (t.bytesAt 1 l.vaddr n)
    else none
  else some (payload.drop 64)

/-- MGR_CALL at memory port `u` (R246, R247, R254): accepted once the engine's queue has a free entry, refused with
OUT_OF_RANGE where a check fails or both engines of the pair are fenced. -/
def State.mgrCall (s : State) (u : Nat) : State :=
  match endpointTier u with
  | some (1, k) =>
    let m := s.unit u
    match takeFirst (fun p : Pkt => p.kind == kMGR_CALL) m.inbox with
    | none => s
    | some (p, rest) =>
      let c := nbits p.addr 35 31
      let run := if s.fencedEngine k c then partner c else c
      let dead := s.fencedEngine k c && s.fencedEngine k (partner c)
      let answer := fun (s : State) (st : Nat) =>
        s.setUnit u (({ s.unit u with inbox := rest } : MeshUnit).answered p st 0)
      if !dead && decide (8 ≤ (s.queueOf (32 * k + run)).length) then s
      else
        let l := CallLine.ofBytes (sliceZ p.payload 0 64)
        let r := s.outside.prog k (l.prog % 64)
        let t := s.tiers
        let ok := !dead && nbits p.addr 38 36 == k && nbit p.addr 40 && !nbit p.addr 39 && decide (p.addr < 2 ^ 41)
        match callVector t k r l p.payload with
        | none => answer s 7
        | some vec =>
          if ok && callOk r l vec (p.payload.length - 64) (t.protectedIn k) then
            let call : Call := { record := r, chan := c, line := l, vec := vec, srcidx := p.srcidx, port := u }
            answer (s.setQueue (32 * k + run) (s.queueOf (32 * k + run) ++ [call])) 0
          else answer s 7
  | _ => s

/-- The unit whose original output was wrong is named (R333): `unit` 0 a block, 1 a manger engine, 2 a shadow spare. Seven records, told
apart by op, carry the unit with suspect_from, suspect_to, the committed image's sequence and the four seeds (DESIGN CHOICE, log
entry 25). -/
def State.suspect (s : State) (lasting : Bool) (unit l p from_ to_ : Nat) : State :=
  let s := ((s.set TST_CHP_SUSPECT.valid 1).set TST_CHP_SUSPECT.lasting (b2n lasting)).set TST_CHP_SUSPECT.unit unit
  let s := (s.set TST_CHP_SUSPECT.lblock l).set TST_CHP_SUSPECT.pblock p
  let s := (s.set TST_CHP_SUSPECT_FROM.stride from_).set TST_CHP_SUSPECT_TO.stride to_
  let say := fun (s : State) (op detail detail2 : Nat) => s.raise 2 0
    { code := Config.suspectCode, op := op, outcome := if lasting then 2 else 1, lblock := l, detail := detail, detail2 := detail2 }
  let (a, b, c, d) := s.seeds
  [from_, to_, s.get CHP_IMG_SEQ.sequence, a.toNat, b.toNat, c.toNat, d.toNat].zipIdx.foldl (fun s (v, i) => say s i v p) s

/-- suspect_from of a block (R333). -/
def State.suspectFrom (s : State) (p : Nat) : Nat :=
  max (mget natZero s.screen.cleanAt p) (mget natZero s.screen.tookAt p)

/-- A lasting classification (R324, R333). -/
def State.lasting (s : State) (unit p code : Nat) : State :=
  let l := if unit = 1 then 0x7FF else (s.rmtOf p).lblock
  let s := (s.count TST_CHP_LASTING.count 1).book 6 (if unit = 1 then 0x6000 + p else p) code
  let s := s.onScreen fun x => { x with lastingAt := some s.now }
  s.suspect true unit l p (if unit = 1 then 0 else s.suspectFrom p) (s.get CAD_STRIDE.stride)

/-- A transient classification (R324). -/
def State.transient (s : State) : State := s.count TST_CHP_TRANSIENT.count 1

/-- A lasting fault of an engine (R254, R324, codes 0x83 and 0x84): its calls restart on the partner, or are lost with it. -/
def State.mangerFault (s : State) (k c : Nat) : State :=
  let e := 32 * k + c
  let s := s.set (MGR_STATUS.fenced k) (s.get (MGR_STATUS.fenced k) ||| 2 ^ c)
  let s := (s.book 5 e 0).lasting 1 e 0x83
  let s := s.raise 3 e { cell := 1, code := 0x83, outcome := 2 }
  let q := (s.queueOf e).map fun x => { x with rows := none }
  let s := s.setQueue e []
  if s.fencedEngine k (partner c) then
    ((s.setQueue (32 * k + partner c) []).raise 3 e { cell := 1, code := 0x84, outcome := 2 }).failJob 12 0x84
  else s.setQueue (32 * k + partner c) (s.queueOf (32 * k + partner c) ++ q)

/-- What the hardware does to an engine in a call (R254, R324): a corrected store, a step that repeats, a lasting fault. -/
def State.laneEvent (s : State) (e : Nat) : LaneHw → State
  | .none => s
  | .corrected => s.raise 3 e { cell := 1, code := 0x81, outcome := 0 }
  | .retry => (s.raise 3 e { cell := 1, code := 0x82, attempt := 2, outcome := 1 }).transient
  | .lasting => s

/-- Engine `c` of stack `k` works through the call at the head of its queue (R249 to R252, R254). -/
def State.compute (s : State) (k c op : Nat) (hw : LaneHw) (rows : Memory → Nat → MgrRec → CallLine → List Byte → List (List Byte)) : State :=
  let e := 32 * k + c
  match s.queueOf e with
  | [] => s
  | x :: rest =>
    if x.record.op ≠ op ∨ x.rows.isSome ∨ s.fencedEngine k c then s
    else if hw = .lasting then s.mangerFault k c
    else
      let s := s.laneEvent e hw
      let ch := k * 2 ^ 36 + x.chan * 2 ^ 31
      let out := rows s.hbm ch x.record x.line x.vec
      if op = 3 ∧ x.record.mode = 1 then
        let s : State := { s with hbm := Memory.puts s.hbm (k * 2 ^ 36 + x.line.off2) out.flatten }
        s.setQueue e ({ x with rows := some [] } :: rest)
      else s.setQueue e ({ x with rows := some out, steps := callSteps x.record x.line } :: rest)

/-- MGR_CALL_COMPLETE (R248): the result rows leave in ascending order. -/
def State.callComplete (s : State) (k c : Nat) : State :=
  let e := 32 * k + c
  match s.queueOf e with
  | [] => s
  | x :: rest =>
    match x.rows with
    | none => s
    | some rows =>
      let s := (s.setQueue e rest).count (MGR_CALLS.count k) 1
      let s := s.count (MGR_STEPS.count k) x.steps
      rows.zipIdx.foldl (fun s (row, i) =>
        s.sendFrom x.port { pkt := { kind := kMGR_RESULT, vc := 1, isData := true, qid := x.line.rq, length := row.length / 64 - 1,
                                     tag := x.line.tag / 65536 * 65536 + (x.line.tag + i) % 65536, payload := row },
                            idx := x.srcidx }) s

/-- MGR_RESULT at block `p` (R248). -/
def Block.mgrResult (b : Block) (env : Env) : Block :=
  match takeFirst (fun k : Pkt => k.kind == kMGR_RESULT) b.mesh.inbox with
  | none => b
  | some (k, rest) =>
    match b.enterToken env k.qid k.tag true k.src (b.mangerArc k.qid) k.payload with
    | some b => { b with mesh := { b.mesh with inbox := rest } }
    | none => b

/-- REFRESH (R239, R241): units 0 to 7 are the stacks, 8 to 19 the DDR5 channels; the rate follows the temperature;
the Farrier raises the event of a die above 95 °C from its own reading. -/
def State.refresh (s : State) (unit temp : Nat) : State :=
  if unit < 8 then
    (s.set (MGR_STATUS.temp unit) temp).set (MGR_STATUS.refresh unit) (if temp ≤ 85 then 0 else if temp ≤ 95 then 1 else 2)
  else (s.set (DDR_STATUS.temp (unit - 8)) temp).set (DDR_STATUS.refresh (unit - 8)) (if temp ≤ 85 then 0 else 1)

/-- Whether unit `i` of a signed range keeps its signature (R259). -/
def unitSigned (m : Memory) (base table i : Nat) : Bool :=
  crc64 (m.bytes (base + 1024 * i) 1024) == BitVec.ofNat 64 (leNat (m.bytes (table + 8 * i) 8))

/-- The units of a stack's signed ranges in channel `c` that a scrub finds changed (R259): their linear addresses. -/
def State.sigMiss (s : State) (k c : Nat) : List Nat :=
  (List.range 16).flatMap fun j =>
    let base := s.get (MGR_SIG_RANGE.base k j) * 1024
    let table := s.get (MGR_SIG_TABLE.addr k j)
    if s.get (MGR_SIG_RANGE.signed k j) = 0 then []
    else ((List.range (s.get (MGR_SIG_RANGE.units k j))).filter fun i =>
      nbits (base + 1024 * i) 35 31 == c && !unitSigned s.hbm (k * 2 ^ 36 + base) (k * 2 ^ 36 + table) i).map fun i =>
        k * 2 ^ 36 + base + 1024 * i

/-- Whether channel `c` of stack `k` may be scrubbed now (R258, R356). -/
def State.mayScrub (s : State) (k c : Nat) : Bool := s.get (MGR_CTL.scrub_en k) != 0 && s.leaseFree 3 (32 * k + c)

/-- SCRUB_BURST (R257 to R259, R356): channel `c` of stack `k`, under its lease; `bad` is the byte in the channel of a
line that it corrects. Once every channel has been scrubbed, a pass of the stack is complete. -/
def State.scrub (s : State) (k c : Nat) (bad : Option Nat) : State :=
  if !s.mayScrub k c then s
  else
    let s := match bad with
      | none => s
      | some a => s.corrected 1 (k * 2 ^ 36 + c * 2 ^ 31 + a % 2 ^ 31 / 64 * 64)
    let done := mget natZero s.scrubbed k ||| 2 ^ c
    if done = 2 ^ 32 - 1 then ({ s with scrubbed := mset natZero s.scrubbed k 0 } : State).count (MGR_STATUS.passes k) 1
    else { s with scrubbed := mset natZero s.scrubbed k done }

/-- The scrub of DDR5 channel `c` (R257, R258), which its controller makes once in 24 h; `bad` is the byte in the channel of a line that
it corrects. -/
def State.scrubDdr (s : State) (c : Nat) (bad : Option Nat) : State :=
  match bad with
  | some a => if c < 12 ∧ s.get (DDR_STATUS.trained c) = 1 then s.corrected 2 (c * 2 ^ 38 + a % 2 ^ 38 / 64 * 64) else s
  | none => s

/-- Setting enable starts ROWSIG and protects the range (R259). -/
def State.sigEnable (s : State) (k j : Nat) : State :=
  if s.get (MGR_SIG_RANGE.enable k j) = 1 then s
  else (s.set (MGR_SIG_RANGE.enable k j) 1).set (MGR_SIG_RANGE.signed k j) 0

/-- Clearing enable clears signed at once (R259). -/
def State.sigDisable (s : State) (k j : Nat) : State :=
  (s.set (MGR_SIG_RANGE.enable k j) 0).set (MGR_SIG_RANGE.signed k j) 0

/-- ROWSIG has signed every unit (R259). -/
def State.rowsig (s : State) (k j : Nat) : State :=
  if s.get (MGR_SIG_RANGE.enable k j) = 0 ∨ s.get (MGR_SIG_RANGE.signed k j) = 1 then s
  else
    let at_ := k * 2 ^ 36
    let hbm := signUnits s.hbm (at_ + s.get (MGR_SIG_RANGE.base k j) * 1024) (at_ + s.get (MGR_SIG_TABLE.addr k j))
      (s.get (MGR_SIG_RANGE.units k j))
    ({ s with hbm := hbm } : State).set (MGR_SIG_RANGE.signed k j) 1

/-- DDR5_RETRAINING (R356): under the channel's lease, when the DIMM has moved 10 °C since training or on request. -/
def State.retrain (s : State) (c : Nat) : State :=
  let t := s.get (DDR_STATUS.temp c)
  let t0 := mget natZero s.trainTemp c
  let asked := s.leaseHeld 5 c
  let moved := t0 + 10 ≤ t || t + 10 ≤ t0
  if s.get (DDR_STATUS.trained c) = 0 ∨ ¬ (asked || (moved && s.leaseFree 5 c)) then s
  else ({ s with trainTemp := mset natZero s.trainTemp c t } : State).release 5 c

end Sys2Proof.Machine
end

