-- ==== Sys2Proof/Machine/Records.lean ====
section
/-! DEFINITION. Known-answer records of pattern packs and their runs (R316, R320 to R322). -/

namespace Sys2Proof.Machine

/-- The items of a stimulus, by kind, up to its end (R321). -/
def stimulusItems : Nat → List Byte → List (Nat × List Byte)
  | 0, _ => []
  | k + 1, bs =>
    let kind := leAt bs 0 1
    let n := leAt bs 4 4
    if kind = 0 ∨ kind = 6 ∨ bs.length < 8 + n then []
    else (kind, sliceZ bs 8 n) :: stimulusItems k (bs.drop (8 + ceilDiv n 8 * 8))

/-- A scratchpad preload (R321). -/
def preloadSpad (m : Memory) (data : List Byte) : Memory :=
  let w := leAt data 0 4
  m.puts (spadAddr (w % 8) (w / 8 % 1024)) (data.drop 4)

/-- Any operation of the stride program. -/
def runAny (env : Env) (b : Block) (op : SOp) (done : Nat) : EngOut :=
  match op.opcode with
  | 0 => runNop b op done
  | 1 => runLoadw b op done
  | 2 => runStream env .none b op done
  | 3 => runDrain b op done
  | 4 => runAnchor b op done
  | 5 => runConvert env b op done
  | 6 => runSend b op done
  | 7 => runCombine b op done
  | 8 => runTally b op done
  | 9 => runWaittag b op done
  | _ => runSplice b op done

/-- The next `n` words of a block's stride program run. -/
def Block.runWords (env : Env) : Nat → Block → Block
  | 0, b => b
  | n + 1, b => Block.runWords env n (b.engine env .none (fun _ => true) (runAny env))

/-- The tally of a stride program on a preloaded block (R322): stride count 0, every seed 0 and lblock 0. -/
def engineTally (items : List (Nat × List Byte)) : Word :=
  let spad := (items.filter fun x => x.1 == 1).foldl (fun m x => preloadSpad m x.2) []
  let program := (items.filter fun x => x.1 == 2).flatMap fun x => (wordsOf 8 x.2).map (BitVec.ofNat 64)
  let b : Block := { lblock := 0, working := true, spad := spad, program := program }
  (Block.runWords {} program.length b.engineBegin).tally

/-- The tally of a manger engine's record (R316, R322): each result row folds as a TALLY of word index 0. DESIGN CHOICE, log entry 26: the
call row ends with the inline vector that its record and call line name, and the rest of the item fills the test SRAM from its byte 0. -/
def mangerTally (items : List (Nat × List Byte)) : Word :=
  (items.filter fun x => x.1 == 5).foldl (fun (t : Word) x =>
    let r := MgrRec.ofBytes (sliceZ x.2 0 64)
    let l := CallLine.ofBytes (sliceZ x.2 64 64)
    let n := callVecBytes r l
    let inl := if nbit l.flags 0 then 0 else ceilDiv n 64 * 64
    let sram := Memory.puts [] 0 (sliceZ (x.2.drop (128 + inl)) 0 65536)
    let vec := if nbit l.flags 0 then sram.bytes (l.vaddr % 65536) (min n 32768) else sliceZ x.2 128 inl
    let rows := if !callOk r l vec inl [] then []
      else match r.op with
        | 1 => gemvRows sram 0 r l vec
        | 2 => attendRows sram 0 r l vec
        | _ => gatherRows sram 0 r l vec
    rows.foldl (fun (t : Word) row => t + tallyTerm 1 0 0 0 row) t) 0

/-- The tally that a sound unit forms on a record of a class (R321, R322). DESIGN CHOICE, log entry 26: an item of kind 3 or 4 names neither
how many records of each sort it holds nor how a groom instruction is encoded, so the tally of a stimulus with one is a free value. -/
def recordTally (cls : Nat) (stimulus : List Byte) : Word :=
  let items := stimulusItems (stimulus.length / 8 + 1) stimulus
  if cls = 5 then mangerTally items
  else if items.any fun x => x.1 == 3 || x.1 == 4 then Config.recordTally cls (leNat stimulus)
  else engineTally items

/-- Whether record `i` of a pack passes on a sound unit (R322). -/
def packRecordPasses (pack : List Byte) (i : Nat) : Bool :=
  let a := 64 + 32 * i
  recordTally (leAt pack a 1) (sliceZ pack (leAt pack (a + 8) 8) (leAt pack (a + 4) 4)) == BitVec.ofNat 64 (leAt pack (a + 16) 8)

/-- The first record of a slice, 20 to 23 of a block or 3 of a manger engine, that does not pass (R316, R321, R322). -/
def packFails (pack : List Byte) (slice : Nat) : Option Nat :=
  (List.range (leAt pack 6 2)).find? fun i => leAt pack (65 + 32 * i) 1 == slice && !packRecordPasses pack i

/-- The first record for blocks, or for manger engines, that does not pass in a known-answer run (R293, R294). -/
def packFailsAny (pack : List Byte) (manger : Bool) : Option Nat :=
  (List.range (leAt pack 6 2)).find? fun i => (leAt pack (64 + 32 * i) 1 == 5) == manger && !packRecordPasses pack i

end Sys2Proof.Machine
end

