-- ==== Sys2Proof/Machine/ProgramCheck.lean ====
section
/-! DEFINITION. The static check of a stride program (R71, R483): its thirteen items, judged word by word. -/

namespace Sys2Proof.Machine

/-- An anchor as the loader knows it (R483): a value, or one that an ANCHOR with src 1 set, different from every other. -/
inductive LintAnchor where
  | value (v : Nat)
  | loaded (word : Nat)
deriving DecidableEq, Repr

/-- What the loader keeps while it reads a program: the columns' anchor, the full slots with the anchor each latched and
the word that last contributed to it or kept it full, and the active and shadow tiles (format, sparse). -/
structure Lint where
  anchor : LintAnchor := .value 0
  slots : List (Nat × LintAnchor × Nat) := []
  active : Option (Fmt × Bool) := none
  shadow : Option (Fmt × Bool) := none
deriving DecidableEq, Repr

/-- Whether a run of lines stays within a bank. -/
def runOk (line n : Nat) : Bool := decide (line + n ≤ 1024)

/-- Whether a rows field and its slots stay in the edge store. -/
def rowsOk (slot rows : Nat) : Bool := decide (1 ≤ rows) && decide (rows ≤ 64) && decide (slot + rows ≤ 64)

/-- A format whose rows take two lines (R61). -/
def Fmt.wide (f : Fmt) : Bool := f == .bf16 || f == .f16

/-- The tile that a weight-stationary STREAM runs with. -/
def Lint.tile (s : Lint) (swap : Bool) : Option (Fmt × Bool) := if swap then s.shadow else s.active

/-- The lines of a CONVERT's output (R79). -/
def convertLines (f : Fmt) (rows : Nat) : Nat := rows * f.rowLines + (if f.isMx then ceilDiv rows 32 else 0)

/-- Item 2: format pairs (R61, R62, R64). An item that cannot be judged passes. -/
def Lint.pairs (s : Lint) : SOp → Bool
  | .loadw f _ sparse .. => !sparse || sparseOk f
  | .stream a swap _ os _ _ _ _ _ _ wf =>
    if os then (match Fmt.ofCode wf with | some w => osPairOk w a | none => false)
    else (match s.tile swap with | some (w, _) => pairOk w a | none => true)
  | _ => true

/-- Item 3: line ranges and bank masks. -/
def Lint.ranges (s : Lint) : SOp → Bool
  | .loadw f _ sparse mask line _ ml => spreadOk mask line (tileLines f) && runOk ml (scaleLines f sparse + indexLines f sparse)
  | .stream a swap _ os _ line count _ _ sline _ =>
    if os then runOk line (zeroMeans count 1024) && runOk sline (zeroMeans count 1024)
    else
      let sparse := match s.tile swap with | some (_, x) => x | none => false
      let w := match s.tile swap with | some (w, _) => w | none => a
      let scales := if a.isMx then ceilDiv (count * (coveredK w sparse / 32)) 64 else 0
      runOk line (if a.wide then 2 * count else count) && runOk sline scales
  | .drain _ rows mask line _ => spreadOk mask line (24 * rows)
  | .anchor src _ line _ => !src || runOk line 2
  | .convert f _ clip scale bias _ rows _ pline mask line =>
    spreadOk mask line (convertLines f rows) && (!(clip || scale || bias) || runOk pline 9)
  | .send _ _ _ _ lines _ line _ => runOk line (zeroMeans lines 32)
  | .combine src _ _ _ rows _ line _ _ => !src || runOk line (24 * rows)
  | .tally _ line lines => runOk line lines && decide (1 ≤ lines)
  | .splice _ _ dline _ aline _ bline lines =>
    let n := zeroMeans lines 1024
    runOk dline n && runOk aline n && runOk bline n
  | _ => true

/-- Item 4: the bank rules of sparse, BF16 and binary16 rows (R76). -/
def Lint.banks (s : Lint) : SOp → Bool
  | .stream a swap _ os bank line _ _ _ _ _ =>
    os || ((match s.tile swap with | some (_, true) => bank % 2 == 0 | _ => true) && (!a.wide || line % 2 == 0))
  | _ => true

/-- Item 5: slot ranges. -/
def slotRange : SOp → Bool
  | .stream _ _ _ os _ _ count slot _ _ _ => if os then slot == 0 else rowsOk slot count
  | .drain slot rows _ _ _ => rowsOk slot rows
  | .convert _ _ _ _ _ slot rows _ _ _ _ => rowsOk slot rows
  | .combine src _ _ slot rows _ _ _ _ => if src then decide (1 ≤ rows) && decide (rows ≤ 64) else rowsOk slot rows
  | _ => true

/-- Items 6, 7 and 8: swaps and tiles. -/
def Lint.swapOk (s : Lint) : SOp → Bool
  | .stream _ swap .. => !swap || s.shadow.isSome
  | _ => true
def Lint.loadOk (s : Lint) : SOp → Bool
  | .loadw .. => s.shadow.isNone
  | _ => true
def Lint.tileOk (s : Lint) : SOp → Bool
  | .stream _ swap _ os .. => os || (s.tile swap).isSome
  | _ => true

/-- The slots that a STREAM contributes to. -/
def streamSlots (os : Bool) (slot count : Nat) : List Nat :=
  if os then List.range 64 else (List.range count).map fun r => slot + r

/-- Item 9: add-mode contributions (R60). -/
def Lint.addOk (s : Lint) : SOp → Bool
  | .stream _ _ clear os _ _ count slot _ _ _ =>
    clear || (streamSlots os slot count).all fun k => s.slots.all fun x => x.1 != k || x.2.1 == s.anchor
  | _ => true

/-- Item 11: a SPLICE destination overlaps neither source. -/
def spliceOk : SOp → Bool
  | .splice _ db dl ab al bb bl lines =>
    let n := zeroMeans lines 1024
    let apart := fun bank line => db != bank || decide (dl + n ≤ line) || decide (line + n ≤ dl)
    apart ab al && apart bb bl
  | _ => true

/-- Item 12: destinations. -/
def destOk : SOp → Bool
  | .send _ mcast dest .. => if mcast then decide (dest < 64) else decide (dest < 1200)
  | .combine _ dest .. => decide (dest < 1200)
  | _ => true

/-- Item 13: a WAITTAG names an arc queue that feeds a sequencer input node (R147). -/
def waittagOk (b : Block) : SOp → Bool
  | .waittag q .. =>
    decide (q < 240) && b.qKind q == 1 && (match b.node? (b.qNode q) with | some n => n.kind == 4 | none => false)
  | _ => true

/-- The items but the first and the tenth, with their sub-codes, for one word. -/
def Lint.items (s : Lint) (b : Block) (op : SOp) : List (Nat × Bool) :=
  [(2, s.pairs op), (3, s.ranges op), (4, s.banks op), (5, slotRange op), (6, s.swapOk op), (7, s.loadOk op),
   (8, s.tileOk op), (9, s.addOk op), (11, spliceOk op), (12, destOk op), (13, waittagOk b op)]

/-- Slots `ks` become full, latching the anchor; a slot that is full keeps the anchor it has. -/
def Lint.fill (s : Lint) (word : Nat) (clear : Bool) (ks : List Nat) : Lint :=
  let put := fun (m : List (Nat × LintAnchor × Nat)) k =>
    let a := match m.find? fun x => x.1 == k with
      | some x => if clear then s.anchor else x.2.1
      | none => s.anchor
    (k, a, word) :: m.filter fun x => x.1 != k
  { s with slots := ks.foldl put s.slots }

/-- A reader of slots empties them, or leaves them full through keep. -/
def Lint.take (s : Lint) (word : Nat) (keep : Bool) (slot rows : Nat) : Lint :=
  let mine := fun (x : Nat × LintAnchor × Nat) => decide (slot ≤ x.1) && decide (x.1 < slot + rows)
  if keep then { s with slots := s.slots.map fun x => if mine x then (x.1, x.2.1, word) else x }
  else { s with slots := s.slots.filter fun x => !mine x }

/-- What a word that passes leaves behind. -/
def Lint.after (s : Lint) (word : Nat) : SOp → Lint
  | .loadw f _ sparse .. => { s with shadow := some (f, sparse) }
  | .stream _ swap clear os _ _ count slot _ _ _ =>
    let s : Lint := if swap then { s with active := s.shadow, shadow := none } else s
    s.fill word clear (streamSlots os slot count)
  | .anchor src _ _ v => { s with anchor := if src then .loaded word else .value v }
  | .drain slot rows _ _ keep => s.take word keep slot rows
  | .convert _ _ _ _ _ slot rows _ _ _ _ => s.take word false slot rows
  | .combine src _ _ slot rows _ _ _ keep => if src then s else s.take word keep slot rows
  | _ => s

/-- The lowest-numbered slot left full, by the word that left it so. -/
def Lint.left (s : Lint) : Option Nat :=
  ((List.range 64).findSome? fun k => s.slots.find? fun x => x.1 == k).map fun x => x.2.2

/-- The first item that a program breaks: its sub-code and the word's index (R483). -/
def lintProgram (b : Block) : Lint → Nat → List Word → Option (Nat × Nat)
  | s, _, [] => s.left.map fun w => (10, w)
  | s, i, w :: ws =>
    match SOp.decode w with
    | none => some (1, i)
    | some op =>
      match (s.items b op).find? fun x => !x.2 with
      | some x => some (x.1, i)
      | none => lintProgram b (s.after i op) (i + 1) ws

/-- The operations of a program. -/
def opsOf (ws : List Word) : List SOp := ws.filterMap SOp.decode

end Sys2Proof.Machine
end

