-- ==== Sys2Proof/Machine/ImageCheck.lean ====
section
/-! DEFINITION. The checks of an image's sections (R278 step 3, codes 0x30 to 0x39 of R279): in type order, parts in
ascending scope, records in ascending order. -/

namespace Sys2Proof.Machine

/-- What the checks read of the module: the tiers, which ports a router has (R177), and the Rider partition's size in GiB (R291). -/
structure Fitting where
  tiers : Tiers
  port : Nat → Nat → Bool
  pathOk : Nat → Nat → Nat → Bool
  routerOf : Nat → Nat
  rider : Nat

/-- Logical block `l` as the image gives it. -/
def Img.block (i : Img) (l : Nat) : Block := i.load l {}

/-- The scopes of a type's parts. -/
def Img.scopes (i : Img) (ty epoch : Nat) : List Nat :=
  match i.sec? ty epoch with
  | some x => x.parts.map Part.scope
  | none => []

/-- PLACEMENT (0x30): the records, then the count. -/
def placementCheck (i : Img) : Option Hold :=
  let on := i.served
  let bad := fun l => ({ code := 0x30, dirIdx := i.dirIdx 1, lblock := l } : Hold)
  let wrong := fun l =>
    let p := i.prefer l
    decide (1280 ≤ p) || p / 40 / 8 * 4 + p % 40 / 10 != l / 75 || (on.any fun k => decide (k < l) && i.prefer k == p)
  match on.find? wrong with
  | some l => some (bad l)
  | none =>
    let n := i.field 32 2
    if n < on.length then some (bad (on.getD n 0x7FF))
    else if on.length < n then some (bad 0x7FF)
    else none

/-- Whether an inbound record of block `c` agrees with the outbound record `k` of block `l` (R274). -/
def arcPair (i : Img) (l k c : Nat) (o : ArcRec) : Bool :=
  match (i.block c).arcs[o.match_]? with
  | some n => !n.outbound && !n.manger && n.queue == o.queue && n.dest == l && n.share == o.share && n.match_ == k
  | none => false

/-- The shares of the inbound arcs of a queue. -/
def shareSum (b : Block) (q : Nat) : Nat :=
  (b.arcs.filter fun a => !a.outbound && a.queue == q).foldl (fun s a => s + a.share) 0

/-- Whether an ARCS record is right (R162, R274). -/
def arcOk (i : Img) (l : Nat) (b : Block) (raw : List Byte) (k : Nat) : Bool :=
  match b.arcs[k]? with
  | none => false
  | some a =>
    let share := decide (1 ≤ a.share) && decide (a.share ≤ 256)
    if leAt raw 0 1 = 1 then
      let cs := i.consumers l a.mcast a.dest
      let once := !((b.arcs.take k).any fun x => x.outbound && x.queue == a.queue && (i.consumers l x.mcast x.dest).any cs.contains)
      let who := decide (a.producer < 2048) || a.producer == 0x8000 || a.producer == 0x8001
      who && once && !cs.isEmpty && (cs.all i.placed) &&
        (decide (240 ≤ a.queue) || (share && cs.all fun c => arcPair i l k c a))
    else if leAt raw 0 1 = 2 then
      let first := !((b.arcs.take k).any fun x => !x.outbound && x.queue == a.queue)
      let sums := !first || shareSum b a.queue == b.qDepth a.queue
      let back := if a.manger then a.dest == l
        else match (i.block a.dest).arcs[a.match_]? with
          | some o => o.outbound && o.queue == a.queue && o.share == a.share && o.match_ == k &&
              (i.consumers a.dest o.mcast o.dest).contains l
          | none => false
      share && b.qKind a.queue == 1 && sums && back
    else false

/-- SENDs of the stride program on an arc (R163). -/
def sendsOn (b : Block) (a : ArcRec) : Nat :=
  ((opsOf b.program).filter fun op =>
    match op with
    | .send _ m d q .. => m == a.mcast && d == a.dest && q == a.queue
    | _ => false).length

/-- An element of the dataflow graph: a logical block and a node, 0x8000, or 0x8100 + a combining queue (R164). -/
abbrev GElem := Nat × Nat

/-- The element that a queue of a block feeds. -/
def Img.feeds (i : Img) (l q : Nat) : GElem := if 240 ≤ q then (l, 0x8100 + (q - 240)) else (l, (i.block l).qNode q)

/-- The edges of the graph that leave a block (R164). -/
def Img.edges (i : Img) (l : Nat) : List (GElem × GElem) :=
  let b := i.block l
  let arcs := (b.arcs.filter fun a => a.outbound).flatMap fun a =>
    let from_ := if a.producer = 0x8001 then 0x8100 + a.output else a.producer
    (i.consumers l a.mcast a.dest).map fun c => ((l, from_), i.feeds c a.queue)
  let combines := (opsOf b.program).filterMap fun op =>
    match op with
    | .combine _ dest cq .. => some ((l, 0x8000), (dest, 0x8100 + cq))
    | _ => none
  let forwards := (List.range 16).flatMap fun c =>
    if b.get (BLK_CQ_CFG.enable c) = 0 then []
    else (i.consumers l (b.get (BLK_CQ_FWD.mcast c) == 1) (b.get (BLK_CQ_FWD.dest c))).map fun d =>
      ((l, 0x8100 + c), i.feeds d (b.get (BLK_CQ_FWD.queue c)))
  arcs ++ combines ++ forwards

/-- The elements reached from a set in at most `n` steps. -/
def reach (es : List (GElem × GElem)) : Nat → List GElem → List GElem
  | 0, xs => xs
  | n + 1, xs =>
    let more := ((es.filter fun e => xs.contains e.1).map Prod.snd).filter fun x => !xs.contains x
    if more.isEmpty then xs else reach es n (xs ++ more.eraseDups)

/-- Whether an element lies on a cycle. -/
def onCycle (es : List (GElem × GElem)) (x : GElem) : Bool :=
  (reach es es.length ((es.filter fun e => e.1 == x).map Prod.snd)).contains x

/-- The lowest element of the lowest block that lies on a cycle (R164). -/
def Img.cycle (i : Img) : Option GElem :=
  let es := i.served.flatMap i.edges
  let on := ((es.map Prod.fst).eraseDups).filter fun x => onCycle es x
  on.foldl (fun m x => match m with
    | none => some x
    | some y => if x.1 < y.1 ∨ (x.1 = y.1 ∧ x.2 < y.2) then some x else some y) none

/-- The tag fields under which producers can open keys on a combining queue in one stride (R167): COMBINE rows, stride
program SENDs, the fire-list entries of nodes with an arc to it, and the keys of combining queues that forward to it. -/
def Img.cqKeys (i : Img) : Nat → Nat → Nat → List Nat
  | 0, _, _ => []
  | n + 1, l, c =>
    (i.served.flatMap fun k =>
      let b := i.block k
      let direct := (opsOf b.program).flatMap fun op =>
        match op with
        | .combine _ dest cq _ rows _ _ tag _ =>
          if dest = l ∧ cq = c then (List.range rows).map fun r => (tag + r) % 65536 else []
        | .send _ m dest q _ _ _ tag => if q = 240 + c ∧ (i.consumers k m dest).contains l then [tag] else []
        | _ => []
      let arcs := (b.arcs.filter fun a => a.outbound && a.queue == 240 + c && (i.consumers k a.mcast a.dest).contains l).flatMap
        fun a =>
          if a.producer < 2048 then (b.fireList.filter fun e => e.1 == a.producer).map Prod.snd
          else if a.producer = 0x8001 then Img.cqKeys i n k a.output
          else []
      direct ++ arcs).eraseDups

/-- The scratchpad runs of lines spread over a mask: (bank, first line, end). -/
def spreadRuns (mask line n : Nat) : List (Nat × Nat × Nat) :=
  let bs := maskBanks mask
  bs.zipIdx.map fun (b, i) => (b, line, line + ceilDiv (n - i) bs.length)

/-- The runs of a queue id's area, or of combining queue q − 256 (R149, R167). -/
def areaRuns (b : Block) (q : Nat) : List (Nat × Nat × Nat) :=
  if q < 256 then
    if b.qKind q = 0 ∨ b.qCtl q then []
    else spreadRuns (b.get (BLK_Q_CFG.mask q)) (b.get (BLK_Q_CFG.line q)) (b.qDepth q * b.qLines q)
  else
    let c := q - 256
    if b.get (BLK_CQ_CFG.enable c) = 0 then []
    else spreadRuns (b.get (BLK_CQ_CFG.mask c)) (b.get (BLK_CQ_CFG.line c))
      (zeroMeans (b.get (BLK_CQ_CFG.slots c)) 256 * (if b.get (BLK_CQ_CFG.mode c) = 0 then 24 else 4))

/-- Whether two areas share a line. -/
def runsMeet (a b : List (Nat × Nat × Nat)) : Bool :=
  a.any fun x => b.any fun y => x.1 == y.1 && decide (x.2.1 < y.2.2) && decide (y.2.1 < x.2.2)

/-- Whether a queue record breaks R149: a kind that is not used, more than 2,048 entries, its area, an overlap. -/
def queueBad (b : Block) (raw : List Byte) (q : Nat) : Bool :=
  if q < 240 then
    let cfg := b.qKind q != 0 && !b.qCtl q
    b.qKind q == 3 || b.get (BLK_Q_CFG.incarn q) != 0 || b.get (BLK_Q_CFG.closed q) != 0 ||
      (b.qKind q != 0 && decide (2048 < ((List.range (q + 1)).filter fun k => b.qKind k != 0).foldl (fun s k => s + b.qDepth k) 0)) ||
      (cfg && !spreadOk (b.get (BLK_Q_CFG.mask q)) (b.get (BLK_Q_CFG.line q)) (b.qDepth q * b.qLines q)) ||
      ((List.range q).any fun k => runsMeet (areaRuns b k) (areaRuns b q))
  else leAt raw (8 * q) 8 != 0

/-- Whether a combining queue's area breaks R149. -/
def cqAreaBad (b : Block) (c : Nat) : Bool :=
  b.get (BLK_CQ_CFG.enable c) == 1 &&
    (!spreadOk (b.get (BLK_CQ_CFG.mask c)) (b.get (BLK_CQ_CFG.line c))
        (zeroMeans (b.get (BLK_CQ_CFG.slots c)) 256 * (if b.get (BLK_CQ_CFG.mode c) = 0 then 24 else 4)) ||
      (List.range (256 + c)).any fun k => runsMeet (areaRuns b k) (areaRuns b (256 + c)))

/-- Whether a combining queue breaks R167. -/
def cqBad (i : Img) (l : Nat) (b : Block) (c : Nat) : Bool :=
  let conv := b.get (BLK_CQ_CFG.convert c) == 1
  let params := b.get (BLK_CQ_CFG.clip c) + b.get (BLK_CQ_CFG.scale c) + b.get (BLK_CQ_CFG.bias c) != 0
  b.get (BLK_CQ_CFG.enable c) == 1 &&
    (decide (zeroMeans (b.get (BLK_CQ_CFG.slots c)) 256 < (i.cqKeys 17 l c).length) ||
      (conv && b.get (BLK_CQ_CFG.mode c) == 1) || b.get (BLK_CQ_FWD.count c) == 0 ||
      (conv && (Fmt.ofCode (b.get (BLK_CQ_CFG.ofmt c))).isNone) ||
      (conv && params && !runOk (b.get (BLK_CQ_CFG.pline c)) 9) ||
      !(b.arcs.any fun a => a.outbound && a.producer == 0x8001 && a.output == c && a.dest == b.get (BLK_CQ_FWD.dest c) &&
        b2n a.mcast == b.get (BLK_CQ_FWD.mcast c) && a.queue == b.get (BLK_CQ_FWD.queue c)))

/-- The queues that feed a node. -/
def nodeQueues (b : Block) (n : Nat) : List Nat := (List.range 240).filter fun q => b.qKind q == 1 && b.qNode q == n

/-- The GRAPH sub-code that a node record breaks: 1 kinds and inputs, 3 quotas (R150, R151), 10 a move without its arc
(R158), 11 a sequencer input without its queue. -/
def nodeBad (b : Block) (n : Nat) (x : NodeRec) : Option Nat :=
  let kindOk := x.kind == 0 || ((x.kind == 1 || x.kind == 2) && decide (1 ≤ x.inputs) && decide (x.inputs ≤ 8)) ||
    (x.kind == 3 && ((x.mode == 1 && x.inputs == 2) || (x.mode == 0 && x.inputs == 3))) || (x.kind == 4 && x.inputs == 1)
  let deepest := (nodeQueues b n).foldl (fun m q => max m (b.qDepth q)) 0
  let sum := ((b.nodes.take (n + 1)).filter fun y => y.kind != 0 && (y.kind == 3) == (x.kind == 3)).foldl (fun s y => s + y.quota) 0
  let cap : Nat := if x.kind = 3 then 256 else 4096
  let token := match b.templates[x.ref]? with | some d => d.token | none => false
  if 2048 ≤ n ∨ ¬ kindOk then some 1
  else if x.kind ≠ 0 ∧ (cap < sum ∨ x.quota < deepest) then some 3
  else if x.kind == 2 && token && !(b.arcs.any fun a => a.outbound && a.producer == n) then some 10
  else if x.kind == 4 && !(decide (x.ref < 240) && b.qKind x.ref == 1 && b.qNode x.ref == n) then some 11
  else none

/-- Whether a fire-list entry breaks R156: an unknown node, or a local producer of its inputs that stands later. -/
def fireBad (b : Block) (k : Nat) (e : Nat × Nat) : Bool :=
  let known := match b.node? e.1 with | some n => n.kind != 0 | none => false
  let listed := fun p => b.fireList.any fun x => x.1 == p
  let producers := (nodeQueues b e.1).flatMap fun q =>
    (b.arcs.filter fun a => !a.outbound && !a.manger && a.queue == q && a.dest == b.lblock).filterMap fun a =>
      match b.arcs[a.match_]? with
      | some o => if o.producer < 2048 ∧ listed o.producer then some o.producer else none
      | none => none
  !known || producers.any fun p => !((b.fireList.take k).contains (p, e.2))

/-- Whether a template breaks R141 or R142. -/
def templateBad (d : Desc) : Bool :=
  !d.reservedZero || decide (2 < d.op) || d.rows == 0 || d.srcOff % 64 != 0 || d.dstOff % 64 != 0 || d.rowBytes % 64 != 0 ||
    d.srcStep % 64 != 0 || d.dstStep % 64 != 0

/-- The largest tier offset of a handle plus one (R136). -/
def handleSpan (b : Block) (h : Nat) : Nat :=
  let len := b.get (HDL_LEN.length h)
  let row := b.get (HDL_SHAPE.row h)
  if len = 0 then 0
  else
    let last := b.hdlMap h (len - 1) + 1
    if row = 0 ∨ len ≤ row then last else max last (b.hdlMap h (len / row * row - 1) + 1)

/-- Whether a range of a tier is installed and stays in one view of it (R236, R240). -/
def rangeIn (t : Tiers) (tier a n : Nat) : Bool :=
  n == 0 || (t.inRange tier a && t.inRange tier (a + n - 1) &&
    (if tier = 1 then a / 2 ^ 39 == (a + n - 1) / 2 ^ 39 else nbit a 42 || decide ((ddrPlace a).2 + n ≤ t.caps.getD (ddrPlace a).1 0)))

/-- Whether a handle breaks R138, installed capacity, or the scratchpad's end. -/
def handleBad (f : Fitting) (b : Block) (h : Nat) : Bool :=
  let tier := b.get (HDL_CTL.tier h)
  let base := b.get (HDL_BASE.addr h)
  let res := b.get (HDL_CTL.resident h) == 1
  let span := handleSpan b h
  b.get (HDL_CTL.closing h) == 1 || b.get (HDL_CTL.valid h) == 1 &&
    ((res && (tier != 0 || b.get (HDL_CTL.wr h) == 1 || !rangeIn f.tiers 1 (b.get (HDL_COPY.addr h)) (b.get (HDL_LEN.length h)))) ||
      (tier == 0 && !spreadOk (nbits base 7 0) (nbits base 17 8) (ceilDiv span 64)) ||
      (tier == 1 && !(nbit base 40 && !nbit base 39) && !rangeIn f.tiers 1 base span) ||
      (tier == 2 && !rangeIn f.tiers 2 base span))

/-- Whether a ROUTES record is wrong for the sender of a scope (R186, R187). -/
def routeBad (f : Fitting) (i : Img) (scope : Nat) (raw : List Byte) : Bool :=
  let idx := leAt raw 0 2
  let w := leAt raw 8 8
  let src := if scope < 1200 then i.prefer scope else f.routerOf (1280 + (scope - 0x500))
  let goal := if idx < 1200 then i.prefer idx else idx
  !(decide (idx < 1200) || (decide (1280 ≤ idx) && decide (idx < 1408))) ||
    (nbit w 63 &&
      ((decide (idx < 1200) && !i.placed idx) || nbits w 60 50 != goal || nbit w 62 != decide (1280 ≤ idx) ||
        !f.pathOk src (nbits w 47 0) (nbits w 60 50)))

/-- Whether a GAIT entry is wrong at a router (R177, R277). -/
def gaitBad (f : Fitting) (p : Nat) (g : GaitEntry) : Bool :=
  !f.port p g.inp || !f.port p g.out || g.count == 0 || (g.merge && decide (g.count < 2))

/-- The byte ranges of an area in the order of a tier's channels (R236, R240): a striped or interleaved area has one in
each channel. -/
def areaPieces (tier start len : Nat) : List (Nat × Nat) :=
  if tier = 2 then
    if nbit start 42 then
      let s := nbits start 41 0
      let n0 := s / 4096
      let n1 := (s + len - 1) / 4096
      (List.range 12).map fun c => (c * 2 ^ 38 + (n0 + 11 - c) / 12 * 4096, c * 2 ^ 38 + (n1 + 12 - c) / 12 * 4096)
    else [(ddrKey start, ddrKey start + len)]
  else if nbit start 39 then
    let lo := nbits start 38 0
    let hi := lo + len
    (List.range 8).flatMap fun k =>
      let a := max lo (k * 2 ^ 36)
      let z := min hi ((k + 1) * 2 ^ 36)
      if z ≤ a then []
      else
        let n0 := (a - k * 2 ^ 36) / 256
        let n1 := (z - k * 2 ^ 36 - 1) / 256
        (List.range 32).map fun c => (k * 2 ^ 36 + c * 2 ^ 31 + (n0 + 31 - c) / 32 * 256, k * 2 ^ 36 + c * 2 ^ 31 + (n1 + 32 - c) / 32 * 256)
  else [(hbmKey start, hbmKey start + len)]

/-- Whether two areas overlap. -/
def areasMeet (a b : Area) : Bool :=
  a.tier == b.tier && decide (0 < a.len) && decide (0 < b.len) &&
    (areaPieces a.tier a.start a.len).any fun x => (areaPieces b.tier b.start b.len).any fun y =>
      decide (x.1 < y.2) && decide (y.1 < x.2) && decide (x.1 < x.2) && decide (y.1 < y.2)

/-- Whether a LAYOUT record breaks R255, R273 or R291 beside the records before it. -/
def areaBad (f : Fitting) (before : List Area) (a : Area) : Bool :=
  !(a.tier == 1 || a.tier == 2) || decide (6 < a.cls) || decide (3 < a.srcTier) || (a.srcTier != 0 && a.cls != 0) ||
    a.len % 4096 != 0 || !rangeIn f.tiers a.tier a.start a.len || ((a.cls == 2 || a.cls == 3) && a.tier != 1) ||
    ((a.srcTier == 1 || a.srcTier == 2) && (a.srcTier == a.tier || !rangeIn f.tiers a.srcTier a.src a.len)) ||
    (before.any fun b => areasMeet b a) ||
    (a.cls == 6 && (a.tier != 2 || a.start != 2 ^ 42 || a.len != f.rider * 2 ^ 30 || before.any fun b => b.cls == 6))

/-- LAYOUT (0x37). -/
def layoutCheck (f : Fitting) (i : Img) : Option Hold :=
  let bad := fun k => ({ code := 0x37, dirIdx := i.dirIdx 5, index := k } : Hold)
  match i.areas.zipIdx.find? fun (a, k) => areaBad f (i.areas.take k) a with
  | some (_, k) => some (bad k)
  | none => need (i.areas.any fun a => a.cls == 6) (bad i.areas.length)

/-- A BOUNDS record: block or stack, site kind, number, bound (R275). -/
def boundSite (r : List Byte) : Nat × Nat × Nat := (leAt r 0 2, leAt r 2 1, leAt r 3 1)

/-- The sites that need a bound, in order: (scope, kind, number). -/
def Img.sites (i : Img) : List (Nat × Nat × Nat) :=
  (i.served.flatMap fun l =>
    let b := i.block l
    let streams := (opsOf b.program).any fun op => op.opcode == 2
    (if streams then [(l, 0, 0)] else []) ++
      ((List.range 16).filter fun c => b.get (BLK_CQ_CFG.enable c) == 1 && b.get (BLK_CQ_CFG.mode c) == 0).map fun c => (l, 1, c)) ++
  (List.range 8).flatMap fun k =>
    ((i.records 7 (0xF000 + k)).zipIdx.filter fun (r, _) => (MgrRec.ofBytes r).op != 0).map fun (_, j) => (0xF000 + k, 2, j)

/-- BOUNDS (0x38). -/
def boundsCheck (i : Img) : Option Hold :=
  let rs := i.records 6 0xFFFF
  let who := fun (x : Nat) => if 0xF000 ≤ x then 0xC00 + (x - 0xF000) else x
  match rs.zipIdx.find? fun (r, _) => decide (2 ^ 32 < leAt r 8 8) with
  | some (r, k) => some { code := 0x38, dirIdx := i.dirIdx 6, lblock := who (leAt r 0 2), index := k }
  | none =>
    match i.sites.find? fun x => !rs.any fun r => boundSite r == x with
    | some (w, kind, n) => some { code := 0x38, dirIdx := i.dirIdx 6, lblock := who w, index := 0xF000 + 256 * kind + n }
    | none => none

/-- TWIN (0x39). -/
def twinCheck (i : Img) : Option Hold := need (decide (i.twinMode ≤ 3)) { code := 0x39, dirIdx := i.dirIdx 4 }

/-- MANGER (0x36): every record in use, and the zero bytes of all. -/
def mangerCheck (i : Img) : Option Hold :=
  firstFail ((i.scopes 7 0).flatMap fun k => (i.records 7 k).zipIdx.map fun (r, j) =>
    let m := MgrRec.ofBytes r
    need (zeroAt r 26 38 && m.aligned && (if m.op = 0 then m.mode == 0 else m.ok)) { code := 0x36, dirIdx := i.dirIdx 7, index := j })

/-- PROGRAMS (0x31). -/
def programCheck (i : Img) (l : Nat) : Option Hold :=
  let b := i.block l
  (lintProgram b {} 0 b.program).map fun (sub, w) => { code := 0x31, sub := sub, dirIdx := i.dirIdx 0x10, lblock := l, index := w }

/-- A GRAPH refusal. -/
def graphHold (i : Img) (ty l sub k : Nat) : Hold := { code := 0x32, sub := sub, dirIdx := i.dirIdx ty, lblock := l, index := k }

/-- The first record of a list that a test names. -/
def firstIdx {α : Type} (f : α → Nat → Bool) (xs : List α) : Option Nat := (xs.zipIdx.find? fun (x, k) => f x k).map Prod.snd

/-- TASKS: sub-code 9. -/
def tasksCheck (i : Img) (l : Nat) : Option Hold :=
  let b := i.block l
  (firstIdx (fun t _ => t.valid && (decide (b.code.length ≤ t.entry) || decide (1 < t.groom))) b.tasks).map (graphHold i 0x12 l 9)

/-- NODES: sub-codes 1, 3, 10 and 11. -/
def nodesCheck (i : Img) (l : Nat) : Option Hold :=
  let b := i.block l
  b.nodes.zipIdx.findSome? fun (x, n) => (nodeBad b n x).map fun sub => graphHold i 0x13 l sub n

/-- FIRE_LIST: sub-code 8. -/
def fireCheck (i : Img) (l : Nat) : Option Hold :=
  let b := i.block l
  (firstIdx (fun e k => fireBad b k e) b.fireList).map (graphHold i 0x14 l 8)

/-- ARCS: sub-codes 4 and 5. -/
def arcsCheck (i : Img) (l : Nat) : Option Hold :=
  let b := i.block l
  (i.records 0x15 l).zipIdx.findSome? fun (raw, k) =>
    if !arcOk i l b raw k then some (graphHold i 0x15 l 4 k)
    else match b.arcs[k]? with
      | some a => if a.outbound && a.producer == 0x8000 && decide (a.queue < 240) && decide (a.share < sendsOn b a) then
          some (graphHold i 0x15 l 5 k) else none
      | none => none

/-- The cycle check, after the arcs: sub-code 6. -/
def cycleCheck (i : Img) : Option Hold := i.cycle.map fun (l, e) => graphHold i 0x15 l 6 e

/-- QUEUES: sub-codes 2 and 7; a combining queue is record 256 + its number. -/
def queuesCheck (i : Img) (l : Nat) : Option Hold :=
  let b := i.block l
  let raw := i.part 0x16 0 l
  ((List.range 256).findSome? fun q => if queueBad b raw q then some (graphHold i 0x16 l 2 q) else none) <|>
    (List.range 16).findSome? fun c =>
      if cqAreaBad b c then some (graphHold i 0x16 l 2 (256 + c))
      else if cqBad i l b c then some (graphHold i 0x16 l 7 (256 + c)) else none

/-- HANDLES (0x33). -/
def handlesCheck (f : Fitting) (i : Img) (l : Nat) : Option Hold :=
  let b := i.block l
  (firstIdx (fun h _ => handleBad f b h) (List.range 64)).map fun h =>
    { code := 0x33, dirIdx := i.dirIdx 0x17, lblock := l, index := h }

/-- PORT_SCHEDULE (0x39): every owner holds a slot of every bank (R276). -/
def portsCheck (i : Img) (l : Nat) : Option Hold :=
  let raw := i.part 0x18 0 l
  (firstIdx (fun bank _ => !(List.range 4).all fun o =>
    (List.range 64).any fun w => leAt raw (16 * bank) 16 / 4 ^ w % 4 == o) (List.range 8)).map fun k =>
    { code := 0x39, dirIdx := i.dirIdx 0x18, lblock := l, index := k }

/-- GAIT (0x35). -/
def gaitCheck (f : Fitting) (i : Img) (scope : Nat) : Option Hold :=
  let p := scope - 0x800
  (firstIdx (fun w _ => gaitBad f p (GaitEntry.ofNat w)) (wordsOf 4 (i.part 0x19 0 scope))).map fun k =>
    { code := 0x35, dirIdx := i.dirIdx 0x19, lblock := p, index := k }

/-- ROUTES of an epoch (0x34); an endpoint's refusal names no logical block. -/
def routesCheck (f : Fitting) (i : Img) (epoch scope : Nat) : Option Hold :=
  let bs := i.part 0x1A epoch scope
  ((chunks 16 (bs.length / 16) bs).find? fun r => routeBad f i scope r).map fun r =>
    { code := 0x34, dirIdx := ((i.sec? 0x1A epoch).map Sec.idx).getD 0, lblock := if scope < 1200 then scope else 0x7FF,
      index := leAt r 0 2 }

/-- TEMPLATES: sub-code 10. -/
def templatesCheck (i : Img) (l : Nat) : Option Hold :=
  (firstIdx (fun d _ => templateBad d) (i.block l).templates).map (graphHold i 0x1C l 10)

/-- REGISTERS (0x39): only BLK_GRM_PATIENCE and MSH_THRESH may be named (R271). -/
def registersCheck (i : Img) (l : Nat) : Option Hold :=
  let ok := fun a => a == MSH_THRESH.off || (List.range 8).any fun t => BLK_GRM_PATIENCE.off t == a
  (firstIdx (fun r _ => !ok (leAt r 0 4)) (i.records 0x1D l)).map fun k =>
    { code := 0x39, dirIdx := i.dirIdx 0x1D, lblock := l, index := k }

/-- Every part of a type. -/
def eachPart (i : Img) (ty epoch : Nat) (f : Nat → Option Hold) : Option Hold := firstFail ((i.scopes ty epoch).map f)

/-- The checks of R278 step 3. -/
def sectionsCheck (f : Fitting) (i : Img) : Option Hold :=
  firstFail
    [placementCheck i, twinCheck i, layoutCheck f i, boundsCheck i, mangerCheck i, eachPart i 0x10 0 (programCheck i),
     eachPart i 0x12 0 (tasksCheck i), eachPart i 0x13 0 (nodesCheck i), eachPart i 0x14 0 (fireCheck i),
     eachPart i 0x15 0 (arcsCheck i), cycleCheck i, eachPart i 0x16 0 (queuesCheck i), eachPart i 0x17 0 (handlesCheck f i),
     eachPart i 0x18 0 (portsCheck i), eachPart i 0x19 0 (gaitCheck f i), eachPart i 0x1A 0 (routesCheck f i 0),
     eachPart i 0x1A 1 (routesCheck f i 1), eachPart i 0x1C 0 (templatesCheck i), eachPart i 0x1D 0 (registersCheck i)]

end Sys2Proof.Machine
end

