-- ==== Sys2Proof/Machine/Tables.lean ====
section
/-! DEFINITION. Route and group tables and gait tables when logical blocks move (R187, R189, R195, R197, R280), and the
placement of an image (R280, R281, R354). -/

namespace Sys2Proof.Machine

/-- A logical block that moves from one physical block to another. -/
structure Moved where
  l : Nat
  old : Nat
  new : Nat
deriving DecidableEq, Repr

/-- Where a physical block's logical block goes. -/
def movedTo (ms : List Moved) (p : Nat) : Nat := ((ms.find? fun m => m.old == p).map Moved.new).getD p

/-- The routers in straight bypass (R197). -/
def State.failedRouters (s : State) : List Nat := (s.blocks.filter fun x => x.2.get MSH_CTL.mode == 2).map Prod.fst

/-- A route entry of `owner` once blocks have moved (R195 step 3): none where it cannot be formed. -/
def routeMoved (failed : List Nat) (ms : List Moved) (owner idx w : Nat) : Option Nat :=
  if !nbit w 63 then some w
  else
    let dest0 := nbits w 60 50
    let dest := match ms.find? fun m => m.l == idx with | some m => m.new | none => dest0
    let owner' := movedTo ms owner
    let segs := (pathSegs (nbits w 47 0)).filter fun x => x.2 != 0
    if dest = dest0 ∧ owner' = owner ∧ ((pathCorners segs (routerOf owner)).all fun q => !failed.contains q) then some w
    else computeRoute failed (routerOf owner') dest

/-- The words of a group entry (R189). -/
def groupWords (mask members detour dcol : Nat) (set : Bool) : List Nat :=
  let rmask := ((List.range 16).filter fun r => decide (mask / 2 ^ (80 * r) % 2 ^ 80 ≠ 0)).foldl (fun a r => a + 2 ^ r) 0
  (2 ^ 63 + (if set then 2 ^ 62 + dcol * 2 ^ 50 else 0) + members * 2 ^ 16 + rmask) ::
    ((List.range 20).map fun i => mask / 2 ^ (64 * i) % 2 ^ 64) ++ ((List.range 6).map fun i => detour / 2 ^ (64 * i) % 2 ^ 64)

/-- The detour members as the 352-bit string. -/
def detourString (ls : List Nat) : Nat := ls.zipIdx.foldl (fun a (l, j) => a + l * 2 ^ (11 * j)) 0

/-- A group entry of `owner` once blocks have moved (R195 step 3, R197): none where it cannot be formed. A tree turns at
the router of the owner's row in a column that holds members of other rows. -/
def groupMoved (failed : List Nat) (ms : List Moved) (lOf : Nat → Nat) (owner mask : Nat) (words : List Nat) : Option (List Nat) :=
  let members := targetList mask
  let now := (members.map (movedTo ms)).eraseDups
  let mask' := now.foldl (fun a p => a + 2 ^ targetBit p) 0
  let w0 := words.getD 0 0
  let row := routerOf (movedTo ms owner) / 40
  let turns := failed.filter fun q => q / 40 == row && now.any fun p => p % 40 == q % 40 && p / 40 != row
  match turns with
  | [] =>
    if now = members then some words
    else
      let out := if nbit w0 62 then (now.filter fun p => p % 40 == nbits w0 55 50).map lOf else []
      some (groupWords mask' now.length (detourString out) (nbits w0 55 50) (nbit w0 62))
  | [q] =>
    if nbit w0 62 && nbits w0 55 50 != q % 40 then none
    else some (groupWords mask' now.length (detourString ((now.filter fun p => p % 40 == q % 40).map lOf)) (q % 40) true)
  | _ => none

/-- The entries of one epoch's tables, as other blocks and endpoints hold them after the moves; the flag says that every
entry could be formed. -/
def State.movedTables (s : State) (e o : Nat) (ms : List Moved) : Cells Nat × Cells Nat × Bool :=
  let failed := s.failedRouters
  let lOf := fun p => ((s.rmt.find? fun x => x.1 == p).map fun x => x.2.lblock).getD 0x7FF
  let lOf' := fun p => ((ms.find? fun m => m.new == p).map Moved.l).getD (lOf p)
  let rs := (s.routes.filter fun x => x.1 / 1408 % 2 == e).map fun x =>
    (x.1 / 1408 / 2, x.1 % 1408, routeMoved failed ms (x.1 / 1408 / 2) (x.1 % 1408) x.2)
  let heads := s.groups.filter fun x => x.1 / 2048 % 2 == e && x.1 % 32 == 0 && nbit x.2 63
  let gs := heads.map fun x =>
    let owner := x.1 / 4096
    let g := x.1 / 32 % 64
    (owner, g, groupMoved failed ms lOf' owner (s.groupMask owner e g) ((List.range 27).map fun w => s.group owner e g w))
  let routes := rs.foldl (fun m (owner, idx, w) => mset natZero m (routeKey (movedTo ms owner) o idx) (w.getD 0))
    (s.routes.filter fun x => x.1 / 1408 % 2 != o)
  let groups := gs.foldl (fun m (owner, g, ws) =>
    (ws.getD []).zipIdx.foldl (fun m (v, w) => mset natZero m (groupKey (movedTo ms owner) o g w) v) m)
    (s.groups.filter fun x => x.1 / 2048 % 2 != o)
  (routes, groups, (rs.all fun x => x.2.2.isSome) && gs.all fun x => x.2.2.isSome)

/-- The moves that the pending remounts make. -/
def State.moves (s : State) : List Moved :=
  (s.rmt.filter fun x => x.2.pending && x.2.next != 0x7FF).filterMap fun x =>
    (s.rmt.find? fun y => y.2.lblock == x.2.next).map fun y => (⟨x.2.next, y.1, x.1⟩ : Moved)

/-- Whether every entry that the pending remounts and the failed routers need can be formed (R197). -/
def State.tablesForm (s : State) : Bool := (s.movedTables s.epoch (1 - s.epoch) s.moves).2.2

/-- The other epoch's tables: a copy of the current ones, with every entry that a pending remount or a failed router
changes computed anew (R195 steps 2 and 3, R197, R345). -/
def State.copyTables (s : State) : State :=
  let (routes, groups, _) := s.movedTables s.epoch (1 - s.epoch) s.moves
  { s with routes := routes, groups := groups }

/-- A flip's steps 1 to 3 (R195, R199): the region steward takes the flip lease once the last flip has drained, and the tables are
copied and computed. A fault found while another flip is in steps 2 to 4 restarts it at step 2 with the changes of both; later the region
waits for the lease. Entries that cannot be formed are not written. The flip of a recovery deals with the holders in its way (R359). -/
def State.flipStart (s : State) (r : Nat) : State :=
  if !s.tablesForm then s
  else if s.rget r RGN_EPOCH.pending = 1 then ({ s with cad := { s.cad with flipBeat := false } } : State).copyTables
  else if s.cad.flipBeat ∨ ((List.range 16).any fun q => s.rget q RGN_EPOCH.lease == 1) ∨ s.drain ≠ 0 ∨ s.rget r RGN_EPOCH.drained = 0 then
    if s.cad.flipWaits.contains r then s else { s with cad := { s.cad with flipWaits := s.cad.flipWaits ++ [r] } }
  else if !s.rcv.active && !s.leaseFree 6 0 then s
  else (((s.force 6 0).rset r RGN_EPOCH.lease 1).allRegions RGN_EPOCH.pending 1).copyTables

/-- The routers that a path crosses, its first and last among them. -/
def pathRouters : List (Nat × Nat) → Nat → List Nat
  | [], p => [p]
  | (d, n) :: ss, p =>
    let q := fun k => if d = 0 then p + 40 * k else if d = 1 then p + k else if d = 2 then p - 40 * k else p - k
    (List.range n).map q ++ pathRouters ss (if n = 0 then p else q n)

/-- Where a logical block's packets go in its stride program and on its arcs. -/
def Img.flows (i : Img) (l : Nat) : List Nat :=
  let b := i.block l
  let ops := (opsOf b.program).flatMap fun op =>
    match op with
    | .send _ m d .. => i.consumers l m d
    | .combine _ d .. => [d]
    | _ => []
  ops ++ (b.arcs.filter fun a => a.outbound).flatMap fun a => i.consumers l a.mcast a.dest

/-- The routers whose scheduled traffic a move of the blocks `moved` changes (R280): those that the paths of their packets
crossed and cross. -/
def Img.gaitRouters (i : Img) (failed moved : List Nat) (before after : Nat → Nat) : List Nat :=
  let cross := fun (at_ : Nat → Nat) a c =>
    match computeRoute failed (at_ a) (at_ c) with
    | some w => pathRouters (pathSegs (nbits w 47 0)) (at_ a)
    | none => []
  (i.served.flatMap fun a => (i.flows a).flatMap fun c =>
    if moved.contains a ∨ moved.contains c then cross before a c ++ cross after a c else []).eraseDups

/-- A gait table that a steward computes anew. -/
def newGait (k p : Nat) : List GaitEntry := (Config.gaitTable k p).map fun w => GaitEntry.ofNat w.toNat

/-- The region of a part's scope (R281); none for the chip and the stacks. -/
def scopeRegion (scope : Nat) : Option Nat :=
  if scope < 1200 then some (scope / 75)
  else if 0x500 ≤ scope ∧ scope < 0x580 then some (regionOf (routerOf (1280 + (scope - 0x500))))
  else if 0x800 ≤ scope ∧ scope < 0x800 + 1280 then some (regionOf (scope - 0x800))
  else none

/-- The bytes of the parts that a test of their scope names. -/
def Img.partBytes (i : Img) (f : Nat → Bool) : Nat :=
  i.secs.foldl (fun a x => a + (x.parts.filter fun p => f p.scope).foldl (fun n p => n + p.bytes.length) 0) 0

/-- A region's share (R281): its parts, the parts of foreign blocks placed in it, and the gait tables it holds newly. -/
def Img.share (i : Img) (k : Nat) (failed : List Nat) (at_ : List (Nat × Nat)) (r : Nat) : Nat :=
  let moved := (at_.filter fun (l, p) => p != i.prefer l).map Prod.fst
  let after := fun l => ((at_.find? fun x => x.1 == l).map Prod.snd).getD (i.prefer l)
  let fresh := if i.gait = 0 ∧ ¬ moved.isEmpty then
      (i.gaitRouters failed moved i.prefer after).filter fun p => regionOf p == r && (i.part? 0x19 0 (0x800 + p)).isNone
    else []
  let foreign := (at_.filter fun (l, p) => regionOf p == r && l / 75 != r).map Prod.fst
  i.partBytes (fun x => scopeRegion x == some r) + i.partBytes (fun x => foreign.contains x) +
    fresh.foldl (fun a p => a + 4 * (Config.gaitTable k p).length) 0

/-- The tack store of a region (R281): 8 MiB. -/
def tackBytes : Nat := 8 * 2 ^ 20

/-- Hops between two blocks, a stitch crossing as two (R354). -/
def hops (a b : Nat) : Nat :=
  let d := fun (x y : Nat) => max x y - min x y
  d (a % 40) (b % 40) + d (a / 40) (b / 40) + (if (a % 40 < 20) = (b % 40 < 20) then 0 else 1)

/-- The blocks of a list in the order of R354: fewest hops from `p`, then lowest number. -/
def byHops (p : Nat) (qs : List Nat) : List Nat :=
  qs.mergeSort fun a b => decide (hops p a < hops p b) || (hops p a == hops p b && decide (a ≤ b))

/-- The placement within regions (R280): pairs of logical and physical block, and the blocks with no place. -/
def Img.placeLocal (i : Img) (healthy : Nat → Bool) : List (Nat × Nat) × List Nat :=
  let named := i.served.map i.prefer
  i.served.foldl (fun (st : List (Nat × Nat) × List Nat) l =>
    if healthy (i.prefer l) then (st.1 ++ [(l, i.prefer l)], st.2)
    else
      match (regionBlocks (l / 75)).find? fun p => healthy p && !named.contains p && !st.1.any fun x => x.2 == p with
      | some p => (st.1 ++ [(l, p)], st.2)
      | none => (st.1, st.2 ++ [l])) ([], [])

/-- A degradable image's remaining blocks on spares of other regions (R280, R354). -/
def Img.placeAway (i : Img) (k : Nat) (failed : List Nat) (healthy : Nat → Bool) : List Nat → List (Nat × Nat) → Option Hold × List (Nat × Nat)
  | [], at_ => (none, at_)
  | l :: ls, at_ =>
    let named := i.served.map i.prefer
    let free := (List.range 1280).filter fun p => healthy p && !named.contains p && !at_.any fun x => x.2 == p
    if free.isEmpty then (some { code := 0x23, lblock := l }, at_)
    else
      match (byHops (i.prefer l) free).find? fun p => decide (i.share k failed (at_ ++ [(l, p)]) (regionOf p) ≤ tackBytes) with
      | some p => Img.placeAway i k failed healthy ls (at_ ++ [(l, p)])
      | none => (some { code := 0x24, index := l / 75 }, at_)

/-- The placement of an image (R280, R281): a refusal, and the pairs. `beside` is what else a region's tack store holds. -/
def Img.place (i : Img) (k : Nat) (failed : List Nat) (healthy : Nat → Bool) (beside : Nat → Nat) : Option Hold × List (Nat × Nat) :=
  let (at_, left) := i.placeLocal healthy
  let (bad, at_) := match left with
    | [] => (none, at_)
    | l :: _ => if i.degradable then i.placeAway k failed healthy left at_ else (some { code := 0x23, lblock := l }, at_)
  match bad with
  | some h => (some h, at_)
  | none =>
    match (List.range 16).find? fun r => decide (tackBytes < i.share k failed at_ r + beside r) with
    | some r => (some { code := 0x24, index := r }, at_)
    | none => (none, at_)

end Sys2Proof.Machine
end

