-- ==== Sys2Proof/Machine/Loader.lean ====
section
/-! DEFINITION. Loading, withdrawing, staging and swapping harness images (R278 to R287). -/

namespace Sys2Proof.Machine

/-- The least beat period at which a region of `d` ns and `m` ns keeps its strides at `mv` (R30, R47). -/
def regionMinPeriod (d m mv : Nat) : Nat :=
  let q := 17 * max mv 620 - 7300
  ceilDiv (103 * (6300 * d + m * q)) (100 * q)

/-- The least beat period of an image at given region voltages (R47). -/
def Img.minPeriod (i : Img) (volt : Nat → Nat) : Nat :=
  (List.range 16).foldl (fun a r => max a (regionMinPeriod (i.dNs r) (i.mNs r) (volt r))) 0

/-- The voltage that an image names for a region, no higher than the variant's ceiling (R2). -/
def State.imageVolt (s : State) (i : Img) (r : Nat) : Nat := min (i.volt r) s.fuses.vmaxMv

/-- Whether a router has a port (R177). -/
def hasPort (p d : Nat) : Bool :=
  if d < 4 then (neighbour p d).isSome else d == 4 || (d == 5 && (List.range 121).any fun k => isEndpoint (1280 + k) && routerOf (1280 + k) == p)

/-- What the checks read. -/
def State.fitting (s : State) : Fitting := ⟨s.tiers, hasPort, pathOk, routerOf, s.far.riderNow⟩

/-- The placement of an image (R280); `beside` is what a region's tack store holds besides. -/
def State.place (s : State) (i : Img) (beside : Nat → Nat) : Option Hold × List (Nat × Nat) :=
  i.place s.freeCtr s.failedRouters s.healthy beside

/-- The checks of R278 step 2 (codes 0x20 to 0x24). -/
def State.fitCheck (s : State) (i : Img) (beside : Nat → Nat) : Option Hold :=
  let low := (List.range 16).find? fun r => decide (i.volt r < 620) || i.volt r % 10 != 0
  let least := i.minPeriod (s.imageVolt i)
  if !nbit (i.field 24 1) s.fuses.variant then some { code := 0x20 }
  else match low with
    | some r => some { code := 0x21, index := r }
    | none => if i.period < least then some { code := 0x22, index := ceilDiv least 1000 } else (s.place i beside).1

/-- The checks of R278 steps 1 to 3, in the order of R279. -/
def State.checkImage (s : State) (i : Img) (beside : Nat → Nat) : Option Hold :=
  formCheck s.tiers s.fuses.sigFuse s.signKeys i <|> s.fitCheck i beside <|> sectionsCheck s.fitting i

/-- CHP_HOLD_REASON (R288). -/
def State.holdReason (s : State) (h : Hold) : State :=
  ((((s.set CHP_HOLD_REASON.code h.code).set CHP_HOLD_REASON.sub h.sub).set CHP_HOLD_REASON.section h.dirIdx).set
    CHP_HOLD_REASON.lblock h.lblock).set CHP_HOLD_REASON.index h.index

/-- The scratch lines that a scratch handle covers, each byte where R136 maps it. -/
def Block.handleLines (b : Block) (h : Nat) : List Nat :=
  let len := b.get (HDL_LEN.length h)
  (List.range (ceilDiv len 64)).flatMap fun j => (b.handleRuns h (64 * j) (min 64 (len - 64 * j))).map fun r => r.1 / 64 * 64

/-- The scratch lines that a valid resident handle covers (R139). -/
def Block.residentLines (b : Block) : List Nat :=
  ((List.range 64).filter fun h => b.get (HDL_CTL.valid h) == 1 && b.get (HDL_CTL.resident h) == 1).flatMap b.handleLines

/-- Every scratch line is zero but those of resident handles (R139). -/
def Block.keepResident (b : Block) : Block :=
  let lines := b.residentLines
  { b with spad := b.spad.filter fun x => lines.contains (x.1 / 64 * 64), gather := [] }

/-- Every resident handle is loaded from its HDL_COPY (R138, R139). -/
def Block.reloadAll (b : Block) (t : Tiers) : Block :=
  (((List.range 64).filter fun h => b.get (HDL_CTL.valid h) == 1 && b.get (HDL_CTL.resident h) == 1).foldl
    (fun (m : Move) h => ({ m with status := 0 } : Move).reload h) ⟨b, t, 0, []⟩).b

/-- A block takes up logical block `l` of an image, every line zero but its resident contents (R278 steps 4 and 5). -/
def Img.mount (i : Img) (t : Tiers) (l : Nat) (b : Block) : Block :=
  (i.load l { b.clearWork with spad := [] }).reloadAll t

/-- The routes and groups of an image for both epochs, held by the preferred blocks and the endpoints. -/
def Img.tables (i : Img) : Cells Nat × Cells Nat :=
  let scopes := fun ty => ((i.scopes ty 0) ++ (i.scopes ty 1)).eraseDups
  let owner := fun scope => if scope < 1200 then i.prefer scope else 1280 + (scope - 0x500)
  let routes := [0, 1].flatMap fun e => (scopes 0x1A).flatMap fun x =>
    let bs := i.part 0x1A e x
    (chunks 16 (bs.length / 16) bs).map fun r => (routeKey (owner x) e (leAt r 0 2), leAt r 8 8)
  let groups := [0, 1].flatMap fun e => (scopes 0x1B).flatMap fun x =>
    let bs := i.part 0x1B e x
    (chunks 264 (bs.length / 264) bs).flatMap fun r =>
      (List.range 32).map fun w => (groupKey (owner x) e (leAt r 0 1 % 64) w, leAt r (8 + 8 * w) 8)
  (routes.foldl (fun m (k, v) => mset natZero m k v) [], groups.foldl (fun m (k, v) => mset natZero m k v) [])

/-- The remount tables at commit (R280, R354, R361). -/
def State.placeBlocks (s : State) (at_ : List (Nat × Nat)) : State :=
  let clear := fun (s : State) (p : Nat) =>
    let x := s.rmtOf p
    s.setRmt p { x with lblock := 0x7FF, next := 0x7FF, pending := false, foreign := false, state := if x.state = 0 then 1 else x.state }
  let s := (List.range 1280).foldl clear s
  let s := at_.foldl (fun s (l, p) => s.setRmt p { state := 0, lblock := l, foreign := regionOf p != l / 75 }) s
  (List.range 16).foldl (fun s r =>
    (s.rset r RGN_RCV.foreign_in (at_.filter fun (l, p) => regionOf p == r && l / 75 != r).length).rset r RGN_RCV.foreign_out
      (at_.filter fun (l, p) => regionOf p != r && l / 75 == r).length) s

/-- Every region's tables and epoch registers start at epoch 0 (R278 step 4). -/
def State.epochZero (s : State) : State :=
  let s := (((s.allRegions RGN_EPOCH.epoch 0).allRegions RGN_EPOCH.pending 0).allRegions RGN_EPOCH.drained 1).allRegions RGN_EPOCH.lease 0
  { s with restarts := [], cad := { s.cad with flipWaits := [] } }

/-- Region voltages take new values, and with them the flit rates that injection allowances grow at (R202); a slice that
runs is discarded (R308). -/
def State.setVolts (s : State) (v : Nat → Nat) : State :=
  let spoil := fun (p : Nat) (b : Block) => if b.slice.isSome && v (regionOf p) != s.volt (regionOf p) then { b with sliceSpoilt := true } else b
  let s : State := { s with blocks := s.blocks.map fun (p, b) => (p, spoil p (b.settle (s.env p))) }
  { s with power := { s.power with volts := (List.range 16).foldl (fun m r => mset voltInit m r (v r)) s.power.volts, next := none, load := none } }

/-- The module shares its beat period with others (R48, R55). DESIGN CHOICE, log entry 6: no rule names the register condition of stride
synchronisation; the model takes CAD_SYNC_CTL.enable. -/
def State.synced (s : State) : Bool := s.get CAD_SYNC_CTL.enable == 1

/-- The least beat period of the committed image at the set voltages (R47). -/
def State.requiredMin (s : State) : Nat := match s.images.committed with | some i => i.minPeriod s.volt | none => 0

/-- The anchor of a schedule that takes effect within the present stride: its beat (R32; DEDUCED, log entry 7). -/
def State.reAnchor (s : State) : State :=
  { s with cad := { s.cad with anchorAt := s.cad.beatAt, anchorStride := s.get CAD_STRIDE.stride } }

/-- The period that R45 to R48 give outside synchronisation: the largest of the programmed one, the required minimum and what recomputed
tables need; while synchronised the shared one stays, and an event says that a longer one is needed (R55). -/
def State.fitPeriod (s : State) : State :=
  let least := s.requiredMin
  let long := max least s.cad.need
  let s := s.set CAD_PERIOD.required_min least
  if s.synced then
    if s.get CAD_PERIOD.current < long then s.raise 2 0 { code := 0xB1, detail := long } else s
  else s.set CAD_PERIOD.current (max s.cad.programmed long)

/-- The period of an image that now runs (R32, R48, R278 step 5): every member of a synchronised job has loaded the same. -/
def State.loadPeriod (s : State) : State := if s.synced then (s.set CAD_PERIOD.current s.cad.programmed).fitPeriod else s.fitPeriod

/-- A change of the period outside a checkpoint stride sets a new anchor (R32). -/
def State.anchorIf (s : State) (was : Nat) : State := if s.get CAD_PERIOD.current = was then s else s.reAnchor

/-- What a load or a swap leaves in the blocks, the regions and the Cadence once the route tables stand (R278): every block's share,
gait tables, epoch 0, manger programs, seeds, and the period and voltages that the Cadence is to take; the voltages change at the next
checkpoint stride (R31). -/
def State.mountImage (s : State) (i : Img) (at_ : List (Nat × Nat)) (moves : List Moved) : State :=
  let s := (List.range 1280).foldl (fun s p =>
    let b := s.block p
    let b := match at_.find? fun x => x.2 == p with
      | some (l, _) => (i.mount s.tiers l b).set MSH_CTL.mode 0
      | none => { b.clearWork with spad := [], lblock := 0x7FF, program := [], code := [], tasks := [], nodes := [],
                                   fireList := [], arcs := [], templates := [], portSchedule := [] }
    s.setBlock p (b.onRouter fun r => { r with gait := (wordsOf 4 (i.part 0x19 0 (0x800 + p))).map GaitEntry.ofNat, gaitPos := 0 })) s
  let after := fun l => ((at_.find? fun x => x.1 == l).map Prod.snd).getD (i.prefer l)
  let fresh := if i.gait = 0 ∧ ¬ moves.isEmpty then i.gaitRouters s.failedRouters (moves.map Moved.l) i.prefer after else []
  let s := fresh.foldl (fun s p => s.setBlock p ((s.block p).onRouter fun r => { r with gait := newGait s.freeCtr p })) s
  let s := s.epochZero
  let s : State := { s with
    mgrProg := (List.range 8).foldl (fun m k => mset (fun _ => []) m k (i.part 7 0 (0xF000 + k))) [],
    freeCtr := s.freeCtr + 1 }
  let s := (List.range 4).foldl (fun s j => s.set (CAD_SEED.seed j) (leAt (i.part 3 0 0xFFFF) (8 * j) 8)) s
  let s : State := { s with
    power := { s.power with load := some ((List.range 16).map (s.imageVolt i)) }, cad := { s.cad with programmed := i.period, need := 0, refit := false } }
  let s := (List.range 16).foldl (fun s r => { s.region r with regs := (s.region r).regs.filter fun x => x.1 < 0x700 || 0x700 + 600 ≤ x.1 } |> s.setRegion r) s
  let sb := ((i.areas.find? fun a => a.cls == 2).map Area.start).getD 0
  (if s.jobRuns then s.takeGait i.gait else s).set CHP_SB_BASE.addr sb

/-- Steps 4 and 5 of R278: tables, stores, registers, resident contents, seeds, gait and period; a refusal where a table
entry of a placed block cannot be formed. -/
def State.installImage (s : State) (i : Img) (at_ : List (Nat × Nat)) : Option Hold × State :=
  let moves := (at_.filter fun (l, p) => p != i.prefer l).map fun (l, p) => (⟨l, i.prefer l, p⟩ : Moved)
  let (routes, groups) := i.tables
  let s : State := { s.placeBlocks at_ with routes := routes, groups := groups }
  let (r0, g0, ok0) := s.movedTables 0 0 moves
  let s : State := { s with routes := r0, groups := g0 }
  let (r1, g1, ok1) := s.movedTables 1 1 moves
  let s : State := { s with routes := r1, groups := g1 }
  if !(ok0 && ok1) then (some { code := 0x41, lblock := ((moves.map Moved.l).headD 0) }, s)
  else (none, s.mountImage i at_ moves)

/-- Step 6 of R278. -/
def State.commitImage (s : State) (i : Img) : State :=
  let s : State := { s with images := { s.images with committed := some i, loading := none, staged := none, staging := none } }
  ((s.set CHP_IMG_SEQ.sequence i.sequence).set CHP_IMG_STATUS.load 2).holdReason { code := 0 }

/-- The committed image is withdrawn (R278, R282): nothing is in service, and the period is 4,000 ns again (R32). -/
def State.withdraw (s : State) : State :=
  let was := s.get CAD_PERIOD.current
  let s : State := { s.placeBlocks [] with
    images := {}, power := { s.power with load := none }, cad := { s.cad with programmed := 4000, need := 0, refit := false } }
  let s := s.fitPeriod.anchorIf was
  let s : State := { s with blocks := s.blocks.map fun (p, b) => (p, { b.clearWork with lblock := 0x7FF }) }
  ((s.set CHP_IMG_SEQ.sequence 0).set CHP_IMG_STATUS.load 0).set CHP_IMG_STATUS.stage 0

/-- The result of the last op of CHP_IMG_CTL. -/
def State.imgResult (s : State) (r : Nat) : State := s.set CHP_IMG_STATUS.op_result r

/-- Whether a load or a staging is in progress. -/
def State.imgBusy (s : State) : Bool := s.images.loading.isSome || s.images.staging.isSome

/-- Whether CHP_IMG_ADDR is a multiple of 4,096 and installed. -/
def State.imgAddrOk (s : State) : Bool :=
  let a := s.get CHP_IMG_ADDR.addr
  a % 4096 == 0 && s.tiers.ddrOk a

/-- Op 1 (R278): the device accepts it in Held or Ready, withdraws the committed image and reads the new one once. -/
def State.imageLoad (s : State) : State :=
  let s := s.set CHP_IMG_CTL.op 1
  if s.imgBusy then s.imgResult 2
  else if s.dev ≠ dHeld ∧ s.dev ≠ dReady then s.imgResult 1
  else if !s.imgAddrOk then s.imgResult 3
  else
    let s := (s.goTo dHeld).withdraw
    let i := Img.read s.tiers (s.get CHP_IMG_ADDR.addr)
    let s := ((s.imgResult 0).set CHP_IMG_STATUS.load 1).holdReason { code := 0x01 }
    { s with images := { loading := some (i, s.checkImage i fun _ => 0) } }

/-- A load is refused (R279): the device stays Held. -/
def State.refuseLoad (s : State) (h : Hold) : State :=
  let s : State := { s with images := { s.images with loading := none } }
  (s.holdReason h).set CHP_IMG_STATUS.load 3

/-- IMAGE_COMMIT (R278 steps 4 to 6, R279): a load ends in Held; `fault` names the logical block and the handle whose copy could not be
read, and then no line holds anything (R484). -/
def State.imageCommit (s : State) (fault : Option (Nat × Nat)) : State :=
  if s.dev ≠ dHeld then s
  else match s.images.loading with
  | none => s
  | some (_, some h) => s.refuseLoad h
  | some (i, none) =>
    match fault with
    | some (l, h) =>
      let s : State := { s with blocks := s.blocks.map fun (p, b) => (p, { b with spad := [], gather := [] }) }
      s.refuseLoad { code := 0x40, lblock := l, index := h }
    | none =>
      match s.installImage i (s.place i fun _ => 0).2 with
      | (some h, _) => (s.refuseLoad h)
      | (none, t) => (((t.commitImage i).loadPeriod).anchorIf (s.get CAD_PERIOD.current)).goTo dReady

/-- Op 4 (R282). -/
def State.imageWithdraw (s : State) : State :=
  let s := s.set CHP_IMG_CTL.op 4
  if s.imgBusy then s.imgResult 2
  else if s.dev ≠ dReady then s.imgResult 1
  else (((s.goTo dHeld).withdraw).holdReason { code := 0x02 }).imgResult 0

/-- Whether CHP_SWAP_AT names a checkpoint stride that has not begun, or none (R284). -/
def State.swapAtOk (s : State) : Bool :=
  let at_ := s.get CHP_SWAP_AT.stride
  at_ == 0 || (at_ % 256 == 0 && (!s.inJob || decide (s.begun < at_)))

/-- The checks of a staged image (R283): its place, those of R278, and those of the swap. -/
def State.stageCheck (s : State) (i : Img) : Option Hold :=
  let inside := match s.images.committed with
    | some c => c.areas.any fun a => a.cls == 5 && a.tier == 2 && nbit a.start 42 == nbit i.base 42 &&
        decide (a.start ≤ i.base) && decide (i.base + i.length + 64 ≤ a.start + a.len)
    | none => false
  let beside := fun r => match s.images.committed with
    | some c => c.share s.freeCtr s.failedRouters (s.inService.map fun p => ((s.rmtOf p).lblock, p)) r
    | none => 0
  let rider := fun (x : Img) => (x.areas.filter fun a => a.cls == 6).map fun a => (a.tier, a.start, a.len)
  firstFail
    [need inside { code := 0x51 }, s.checkImage i beside, need (i.sequence != s.get CHP_IMG_SEQ.sequence) { code := 0x52 },
     need (match s.images.committed with | some c => rider c == rider i | none => false) { code := 0x53 },
     need s.swapAtOk { code := 0x54 }]

/-- Op 2 (R283). -/
def State.imageStage (s : State) : State :=
  let s := s.set CHP_IMG_CTL.op 2
  if s.imgBusy then s.imgResult 2
  else if s.dev ≠ dReady ∧ s.dev ≠ dRunning then (s.imgResult 1).set CHP_SWAP_STATUS.result 0x50
  else if 3 ≤ s.get CHP_IMG_STATUS.stage then s.imgResult 2
  else if !s.imgAddrOk then s.imgResult 3
  else
    let i := Img.read s.tiers (s.get CHP_IMG_ADDR.addr)
    let s := (((s.imgResult 0).set CHP_IMG_STATUS.stage 1).set CHP_SWAP_STATUS.deferrals 0).set CHP_SWAP_STATUS.seq_lo i.sequence
    { s with images := { s.images with staging := some (i, s.stageCheck i), staged := none } }

/-- STAGE_COMPLETE (R283). -/
def State.stageComplete (s : State) : State :=
  match s.images.staging with
  | none => s
  | some (i, bad) =>
    let s : State := { s with images := { s.images with staging := none, staged := if bad.isNone then some i else none } }
    (s.set CHP_IMG_STATUS.stage (if bad.isNone then 2 else 0)).set CHP_SWAP_STATUS.result ((bad.map Hold.code).getD 0)

/-- The block and the handle that a refusal names (R279, R484): CHP_HOLD_REASON's detail; a swap's code is CHP_SWAP_STATUS's. -/
def State.holdDetail (s : State) (h : Hold) : State := (s.set CHP_HOLD_REASON.lblock h.lblock).set CHP_HOLD_REASON.index h.index

/-- A staged image is discarded with a code. -/
def State.dropStaged (s : State) (code : Nat) : State :=
  let s : State := { s with images := { s.images with staged := none, swapTick := none } }
  (s.set CHP_IMG_STATUS.stage 0).set CHP_SWAP_STATUS.result code

/-- A swap whose quiet or load does not come about (R285, R287): it waits for the next checkpoint stride, and the third time ends it. -/
def State.swapDefer (s : State) : State :=
  let d := s.get CHP_SWAP_STATUS.deferrals + 1
  let s := (s.set CHP_SWAP_STATUS.deferrals d).release 10 0
  let s : State := { s with images := { s.images with swapTick := none } }
  if d = 3 then (s.dropStaged 0x55).raise 2 0 { code := Config.notQuietCode, detail := d }
  else (s.set CHP_IMG_STATUS.stage 2).set CHP_SWAP_AT.stride (s.get CHP_SWAP_AT.stride + 256)

/-- Op 3 (R284): it cancels a staged swap until the quiet wait begins. -/
def State.stageCancel (s : State) : State :=
  let s := s.set CHP_IMG_CTL.op 3
  if s.imgBusy then s.imgResult 2
  else if s.get CHP_IMG_STATUS.stage = 2 then (s.imgResult 0).dropStaged 0x56
  else s.imgResult 1

/-- CHP_IMG_CTL with go (R282, R288). -/
def State.imageOp (s : State) (op : Nat) : State :=
  match op with
  | 1 => s.imageLoad
  | 2 => s.imageStage
  | 3 => s.stageCancel
  | 4 => s.imageWithdraw
  | _ => s

/-- A write of CHP_SWAP_AT (R284): a stride that is no checkpoint stride, or has begun, ends a staged swap. -/
def State.writeSwapAt (s : State) (v : Nat) : State :=
  let s := s.set CHP_SWAP_AT.stride v
  if s.get CHP_IMG_STATUS.stage = 2 ∧ ¬ s.swapAtOk then s.dropStaged 0x54 else s

end Sys2Proof.Machine
end

