-- ==== Sys2Proof/Machine/Scan.lean ====
section
/-! DEFINITION. Scan images (R171 to R175) and saddlebags (R337 to R341). -/

namespace Sys2Proof.Machine

/-- The registers of every handle, which run-time commands change. -/
def handleRegs : List Nat := (List.range 64).flatMap fun h => [HDL_CTL.off h, HDL_BASE.off h, HDL_LEN.off h, HDL_SHAPE.off h, HDL_COPY.off h]

/-- The registers of the saved set: the configuration of queues, every handle, and the ring of the Packhorse (R173, R219). -/
def savedSet : List Nat := (List.range 240).map BLK_Q_CFG.off ++ handleRegs ++ [PKH_RING.off, PKH_HEAD.off, PKH_TAIL.off]

/-- Those that a scan out of a block records: its message queues (R219), and what is not zero of the others. -/
def Block.saved (b : Block) : List Nat :=
  ((List.range 240).filter fun q => b.qKind q == 2).map BLK_Q_CFG.off ++
    (handleRegs ++ [PKH_RING.off, PKH_HEAD.off, PKH_TAIL.off]).filter fun a => b.word a != 0

/-- A section of a scan image (R172). -/
def scanSection (kind size : Nat) (rs : List (List Byte)) : List Byte :=
  leBytes 1 kind ++ [0#8] ++ leBytes 2 size ++ leBytes 4 rs.length ++ List.replicate 8 0 ++ rs.flatMap fun r => sliceZ r 0 size

/-- A tag-context record. -/
def ctxRecord (c : Ctx) : List Byte := leBytes 8 (c.index % 4096 * 2 ^ 52 + c.node * 2 ^ 41 + c.inputs % 256 * 2 ^ 33 + c.tag)

/-- A queue-store record. -/
def entryRecord (x : QEntry) : List Byte :=
  leBytes 8 (x.q * 2 ^ 56 + x.e * 2 ^ 48 + (x.lines - 1) * 2 ^ 43 + x.src * 2 ^ 32 + x.tag) ++ sliceZ x.bytes 0 8

/-- A match-store record: the steer point, the tokens present, and the predicate of a control token that is present. -/
def matchRecord (b : Block) (c : Ctx) : List Byte :=
  let point := match b.node? c.node with | some n => n.ref | none => 0
  let pred := match b.inputEntry c.node 0 c.tag with
    | some x => leAt (b.entryBytes x).2 0 1 % 2
    | none => 0
  leBytes 8 (point % 64 * 2 ^ 58 + b2n (nbit c.inputs 0) * 2 ^ 55 + b2n (nbit c.inputs 1) * 2 ^ 54 +
    b2n (nbit c.inputs 2) * 2 ^ 53 + pred * 2 ^ 52 + c.tag)

/-- An outbox slot's 24 bytes. -/
def slotRecord (o : OutSlot) : List Byte :=
  leBytes 8 o.dst.toNat ++ leBytes 8 o.srcw.toNat ++ leBytes 8 (o.status % 256 + o.st % 256 * 256)

/-- A groom thread's record. -/
def threadRecord (t : Thread) : List Byte :=
  ((List.range 32).flatMap fun r => leBytes 8 (t.rd r).toNat) ++ ((List.range 32).flatMap fun r => leBytes 16 (t.rdV r).toNat) ++
    leBytes 8 (t.pc % 4096 + t.task % 1024 * 4096) ++ leBytes 8 t.fcsr.toNat ++
    ((List.range 4).flatMap fun i => slotRecord (t.slot i)) ++ List.replicate 144 0

/-- A gatherer entry's record. -/
def gatherRecord (g : GEntry) : List Byte :=
  leBytes 8 (g.bank % 8 + g.line % 1024 * 8 + g.threads % 256 * 2 ^ 13) ++ sliceZ g.data 0 64 ++
    leBytes 8 (g.mask.zipIdx.foldl (fun a (m, i) => a + b2n m * 2 ^ i) 0)

/-- The scan image of a block (R172 to R174). -/
def Block.scanImage (b : Block) (p reason image : Nat) : List Byte :=
  let body :=
    scanSection 1 16 (b.saved.map fun a => leBytes 8 a ++ leBytes 8 (b.word a).toNat) ++
    scanSection 2 8 ((b.ctxs.filter fun c => !c.steer).map ctxRecord) ++ scanSection 3 16 (b.queue.map entryRecord) ++
    scanSection 4 8 ((b.ctxs.filter fun c => c.steer).map (matchRecord b)) ++
    scanSection 5 16 (b.cqs.map fun s => leBytes 8 (s.cq * 2 ^ 60 + s.slot * 2 ^ 52 + s.count * 2 ^ 36 + s.key)) ++
    scanSection 6 1024 ((List.range 8).map fun t => threadRecord (b.thread t)) ++ scanSection 7 80 (b.gather.map gatherRecord) ++
    scanSection 8 8 ((b.arcs.zipIdx.filter fun (a, _) => a.outbound).map fun (_, i) => leBytes 8 (i * 2 ^ 48 + b.creditsHeld i))
  let head := leBytes 4 0x4E414353 ++ leBytes 2 1 ++ leBytes 2 8 ++ leBytes 8 b.stride.toNat ++ leBytes 2 b.lblock ++
    leBytes 2 p ++ leBytes 1 (b2n b.extended) ++ leBytes 1 reason ++ leBytes 2 0 ++ leBytes 8 (64 + body.length) ++
    leBytes 8 image ++ List.replicate 16 0
  let crc := crc64 (head ++ List.replicate 8 0 ++ body)
  head ++ leBytes 8 crc.toNat ++ body

/-- The records of the section of a kind; sections follow in ascending kind order. -/
def scanRecords (kind : Nat) : Nat → List Byte → List (List Byte)
  | 0, _ => []
  | n + 1, bs =>
    let size := leAt bs 2 2
    let count := leAt bs 4 4
    let body := bs.drop 16
    if leAt bs 0 1 = kind then chunks size count (body.take (size * count)) else scanRecords kind n (body.drop (size * count))

/-- The records of a kind of a whole scan image. -/
def scanPart (img : List Byte) (kind : Nat) : List (List Byte) := scanRecords kind 8 (img.drop 64)

/-- The node of a steer point. -/
def Block.steerNode (b : Block) (point : Nat) : Option Nat :=
  b.nodes.findIdx? fun n => n.kind == 3 && n.ref == point

/-- Whether every record names something the image defines (R175). -/
def Block.scanNames (b : Block) (img : List Byte) : Bool :=
  let w := fun (r : List Byte) => leAt r 0 8
  let known := fun n => match b.node? n with | some x => x.kind != 0 | none => false
  ((scanPart img 1).all fun r => savedSet.contains (w r)) &&
    ((scanPart img 2).all fun r => known (nbits (w r) 51 41)) &&
    ((scanPart img 3).all fun r => decide (nbits (w r) 63 56 < 240) && b.qKind (nbits (w r) 63 56) != 0 &&
      decide (nbits (w r) 55 48 < b.qDepth (nbits (w r) 63 56))) &&
    ((scanPart img 4).all fun r => (b.steerNode (nbits (w r) 63 58)).isSome) &&
    ((scanPart img 5).all fun r => b.get (BLK_CQ_CFG.enable (nbits (w r) 63 60)) == 1 &&
      decide (nbits (w r) 59 52 < zeroMeans (b.get (BLK_CQ_CFG.slots (nbits (w r) 63 60))) 256)) &&
    ((scanPart img 8).all fun r => match b.arcs[nbits (w r) 63 48]? with | some a => a.outbound | none => false)

/-- What is wrong with a scan image for a block (R175): 2, 3 or 5 as BLK_SCAN_STATUS codes them, 0 where it passes. -/
def Block.scanCheck (b : Block) (img : List Byte) (image : Nat) : Nat :=
  let len := leAt img 24 8
  let body := img.take len
  let crc := crc64 (body.take 56 ++ List.replicate 8 0 ++ body.drop 64)
  if leAt img 0 4 ≠ 0x4E414353 ∨ leAt img 4 2 ≠ 1 ∨ len < 64 ∨ img.length < len ∨ leAt img 56 8 ≠ crc.toNat then 2
  else if leAt img 16 2 ≠ b.lblock ∨ leAt img 32 8 ≠ image then 3
  else if !b.scanNames body then 5 else 0

/-- A thread from its record. -/
def threadOf (r : List Byte) : Thread :=
  let slot := fun i =>
    let a := 784 + 24 * i
    ({ dst := BitVec.ofNat 64 (leAt r a 8), srcw := BitVec.ofNat 64 (leAt r (a + 8) 8), status := leAt r (a + 16) 1,
       st := leAt r (a + 17) 1 } : OutSlot)
  { g := (List.range 31).foldl (fun m i => mins (i + 1) (BitVec.ofNat 64 (leAt r (8 * (i + 1)) 8)) m) [],
    v := (List.range 32).foldl (fun m i => mins i (BitVec.ofNat 128 (leAt r (256 + 16 * i) 16)) m) [],
    pc := leAt r 768 8 % 4096, task := leAt r 768 8 / 4096 % 1024, fcsr := BitVec.ofNat 8 (leAt r 776 8),
    outbox := (List.range 4).foldl (fun m i => mset slotFree m i (slot i)) [] }

/-- The contexts of records, reserved ones first within each node's quota. -/
def Block.ctxsOf (b : Block) (steer : Bool) (rs : List (List Byte)) : List Ctx :=
  rs.zipIdx.foldl (fun cs (r, i) =>
    let w := leAt r 0 8
    let node := if steer then (b.steerNode (nbits w 63 58)).getD 0 else nbits w 51 41
    let quota := match b.node? node with | some n => n.quota | none => 0
    let inputs := if steer then b2n (nbit w 55) + 2 * b2n (nbit w 54) + 4 * b2n (nbit w 53) else nbits w 40 33
    cs ++ [⟨if steer then i else nbits w 63 52, node, w % 2 ^ 24, inputs, steer,
            decide ((cs.filter fun (c : Ctx) => c.node == node).length < quota)⟩]) []

/-- A checked scan image is applied (R175); `lOf` names the logical block of a physical one. -/
def Block.scanApply (b : Block) (lOf : Nat → Nat) (img : List Byte) : Block :=
  let w := fun (r : List Byte) => leAt r 0 8
  let zero := (handleRegs ++ [PKH_RING.off, PKH_HEAD.off, PKH_TAIL.off]).map fun a => (a, 0)
  let b := b.putRegs (zero ++ (scanPart img 1).map fun r => (w r, leAt r 8 8))
  let ctxs := b.ctxsOf false (scanPart img 2) ++ b.ctxsOf true (scanPart img 4)
  let entry := fun (r : List Byte) =>
    let q := nbits (w r) 63 56
    let tag := w r % 2 ^ 24
    let src := nbits (w r) 42 32
    let there := ctxs.any fun c => c.node == b.qNode q && c.tag == tag && nbit c.inputs (b.qInput q)
    let data := !b.qCtl q
    ({ q := q, e := nbits (w r) 55 48, tag := tag, isData := data, lines := if data then nbits (w r) 47 43 + 1 else 0,
       src := src, bytes := if data then [] else sliceZ r 8 8, arc := b.inboundArc q (lOf src), matched := there } : QEntry)
  let thr := (scanPart img 6).zipIdx.foldl (fun m (r, t) => mset threadIdle m t (threadOf r)) []
  let held := (scanPart img 8).foldl (fun m r =>
    match b.arcs[nbits (w r) 63 48]? with
    | some a => mset natZero m (nbits (w r) 63 48) (a.share - w r % 65536)
    | none => m) []
  let b : Block := { b with
    ctxs := ctxs, queue := (scanPart img 3).map entry, threads := thr,
    cqs := (scanPart img 5).map fun r => { cq := nbits (w r) 63 60, slot := nbits (w r) 59 52, key := w r % 2 ^ 24, count := nbits (w r) 51 36 },
    gather := (scanPart img 7).map fun r => ⟨w r % 8, nbits (w r) 12 3, sliceZ r 8 64, (List.range 64).map (nbit (leAt r 72 8)),
      nbits (w r) 20 13⟩,
    spent := held, returned := [], bases := [], totals := [], waits := [], reinJob := none }
  ((b.set BLK_DF_STATUS.ctx_used (b.ctxs.filter fun c => !c.steer).length).set BLK_DF_STATUS.match_used
    (b.ctxs.filter fun c => c.steer).length).set BLK_DF_STATUS.qent_used b.queue.length

/-- Whether every firing that the fire list holds has completed (R35). -/
def Block.firingsDone (b : Block) : Bool :=
  decide (b.fireList.length ≤ b.flPos) && ((List.range 8).all fun t => (b.thread t).state == 0 || !(b.thread t).listed) &&
    (b.jobs.all fun j => j.fromRing || !b.isListed j.node) && (b.reinJob.all fun j => !j.listed) &&
    !b.mesh.unsent Origin.isListed

/-- Whether no combining-queue slot of the present stride, or of an earlier one, is still open (R169). -/
def Block.cqsDone (b : Block) : Bool := b.cqs.all fun x => decide (b.stride.toNat < (keyStride b.stride x.key).toNat)

/-- Whether the work of the present stride is done (R35, R65, R169). -/
def Block.workDone (b : Block) : Bool := b.programDone && b.firingsDone && b.cqsDone

/-- Whether every firing in progress has completed. -/
def Block.firingsOver (b : Block) : Bool :=
  ((List.range 8).all fun t => (b.thread t).state == 0) && (b.jobs.all fun j => j.fromRing && !j.started) && b.reinJob.isNone

/-- Whether a block is stopped (R171): fenced, or at a stride boundary: it works on no stride, or has acknowledged its stride, and every
firing in progress has completed. Its next beat is withheld while the scan goes on. -/
def State.stopped (s : State) (p : Nat) : Bool :=
  let b := s.block p
  b.fenced || ((!b.working || (s.region (regionOf p)).acked.contains p) && b.firingsOver)

/-- The logical block of a physical one. -/
def State.lblockAt (s : State) (p : Nat) : Nat := (s.rmtOf p).lblock

/-- A scan ends at once with a result. -/
def State.scanEnd (s : State) (p result length : Nat) : State :=
  s.setBlock p (((s.block p).set BLK_SCAN_STATUS.result result).set BLK_SCAN_STATUS.length length)

/-- Whether a scan may start (R171): 0, or the result that refuses it. -/
def State.scanMay (s : State) (p : Nat) (bySteward : Bool) : Nat :=
  let b := s.block p
  if b.scan.isSome then 1
  else if !s.stopped p || (!bySteward && !(b.fenced || (s.rmtOf p).state == 3 || s.dev == dHeld)) then 4 else 0

/-- A scan that starts: the block stops for it (R176). -/
def State.scanStart (s : State) (p result length : Nat) : State :=
  let b := ((s.block p).set BLK_SCAN_STATUS.busy 1).set BLK_DF_STATUS.state 4
  s.setBlock p { b with scan := some (result, length) }

/-- SCAN_OUT (R171, R172). -/
def State.scanOut (s : State) (p : Nat) (bySteward : Bool) : State :=
  match s.scanMay p bySteward with
  | 0 =>
    let b := s.block p
    let img := b.scanImage p (b.get BLK_SCAN_CTL.reason) (s.get CHP_IMG_SEQ.sequence)
    let a := b.get BLK_SCAN_ADDR.addr
    if hbmOk a && hbmOk (a + img.length) then (s.setTiers (s.tiers.putLines 1 (a / 64 * 64) (padTo 64 img))).scanStart p 0 img.length
    else s.scanStart p 2 0
  | r => s.scanEnd p r 0

/-- SCAN_IN (R175). -/
def State.scanIn (s : State) (p : Nat) (bySteward : Bool) : State :=
  match s.scanMay p bySteward with
  | 0 =>
    let b := s.block p
    let a := b.get BLK_SCAN_ADDR.addr / 64 * 64
    let len := leAt (s.tiers.bytesAt 1 a 64) 24 8
    let img := s.tiers.bytesAt 1 a (if hbmOk (a + len) then len else 64)
    let r := if hbmOk a then b.scanCheck img (s.get CHP_IMG_SEQ.sequence) else 2
    let s := if r = 0 then s.setBlock p (b.scanApply s.lblockAt img) else s
    s.scanStart p r (min len 0xFFFFFFFF)
  | r => s.scanEnd p r 0

/-- SCAN_DONE (R171). -/
def State.scanDone (s : State) (p : Nat) : State :=
  let b := s.block p
  match b.scan with
  | none => s
  | some (r, n) =>
    let b := ((b.set BLK_SCAN_STATUS.busy 0).set BLK_SCAN_STATUS.result r).set BLK_SCAN_STATUS.length n
    s.setBlock p { b.set BLK_DF_STATUS.state (if b.fenced || b.jobFault.isSome then 5 else b2n b.working) with scan := none }

/-- The lines that a saddlebag carries (R339), ascending. -/
def Block.carried (b : Block) : List Nat :=
  let handles := ((List.range 64).filter fun h => b.get (HDL_CTL.valid h) == 1 && b.get (HDL_CTL.tier h) == 0 &&
      b.get (HDL_CTL.resident h) == 0).flatMap fun h => (b.handleLines h).map fun a => a / 64
  let tokens := (b.queue.filter fun x => x.isData).flatMap fun x => (b.entryAddrs x.q x.e x.lines).map fun a => a / 64
  let slots := b.cqs.flatMap fun s => (b.cqAddrs s.cq s.slot).map fun a => a / 64
  ((handles ++ tokens ++ slots).eraseDups).mergeSort fun x y => decide (x ≤ y)

/-- The saddlebag of checkpoint stride `c` (R339). -/
def Block.saddlebag (b : Block) (p c image : Nat) : List Byte :=
  let b : Block := { b with stride := BitVec.ofNat 64 c }
  let scan := b.scanImage p 0 image
  let lines := b.carried
  let map := lines.foldl (fun a l => a + 2 ^ l) 0
  let body := padTo 64 scan ++ leBytes 1024 map ++ lines.flatMap fun l => b.spad.bytes (64 * l) 64
  let head := leBytes 4 0x47424453 ++ leBytes 2 1 ++ leBytes 2 0 ++ leBytes 8 c ++ leBytes 2 b.lblock ++ List.replicate 6 0 ++
    leBytes 8 image ++ leBytes 4 scan.length ++ leBytes 4 lines.length ++ List.replicate 16 0
  head ++ leBytes 8 (crc64 (head ++ List.replicate 8 0 ++ body)).toNat ++ body

/-- A saddlebag of `c` as it is written whole (R341): the gatherer entries of its lines are written back first (R131). -/
def Block.saddled (b : Block) (p c image : Nat) : Block × List Byte :=
  let b := b.flushLines (b.carried.map fun l => 64 * l)
  (b, b.saddlebag p c image)

/-- Where the saddlebag of a logical block lies (R340). -/
def State.saddleAddr (s : State) (l c : Nat) : Nat := s.get CHP_SB_BASE.addr + l * 262144 + c / 256 % 2 * 131072

/-- Whether a logical block has saddlebags (R340). -/
def State.hasSaddle (s : State) (l : Nat) : Bool :=
  match s.images.committed with
  | some i => match i.areas.find? fun a => a.cls == 2 with
    | some a => decide ((l + 1) * 262144 ≤ a.len)
    | none => false
  | none => false

/-- The state of a half of RGN_SB (R361): 0 empty, 1 writing, 2 valid, 3 invalid. -/
def State.setSaddle (s : State) (l c st : Nat) : State :=
  let r := l / 75
  let j := l % 75
  if c / 256 % 2 = 1 then (s.rset r (RGN_SB.st1 j) st).rset r (RGN_SB.ck1 j) (c / 256 % 2 ^ 30)
  else (s.rset r (RGN_SB.st0 j) st).rset r (RGN_SB.ck0 j) (c / 256 % 2 ^ 30)

/-- The state of the saddlebag of `c`, 0 where its half holds another. -/
def State.saddleState (s : State) (l c : Nat) : Nat :=
  let r := l / 75
  let j := l % 75
  let half := c / 256 % 2
  let st := if half = 1 then s.rget r (RGN_SB.st1 j) else s.rget r (RGN_SB.st0 j)
  let ck := if half = 1 then s.rget r (RGN_SB.ck1 j) else s.rget r (RGN_SB.ck0 j)
  if ck = c / 256 % 2 ^ 30 then st else 0

/-- Whether the bytes of a saddlebag are those of a valid one (R340). -/
def saddleOk (bs : List Byte) (l c image : Nat) : Bool :=
  leAt bs 0 4 == 0x47424453 && leAt bs 4 2 == 1 && leAt bs 8 8 == c && leAt bs 16 2 == l && leAt bs 24 8 == image &&
    leAt bs 56 8 == (crc64 (bs.take 56 ++ List.replicate 8 0 ++ bs.drop 64)).toNat

/-- The bytes of the saddlebag of `l` at `c` as HBM4 holds them. -/
def State.saddleBytes (s : State) (l c : Nat) : List Byte :=
  let a := s.saddleAddr l c
  let h := s.tiers.bytesAt 1 a 64
  let n := 64 + ceilDiv (leAt h 32 4) 64 * 64 + 1024 + 64 * leAt h 36 4
  s.tiers.bytesAt 1 a (min n 131072)

/-- Whether the saddlebag of `l` at `c` is valid (R340). -/
def State.saddleValid (s : State) (l c : Nat) : Bool :=
  s.hasSaddle l && s.saddleState l c == 2 && saddleOk (s.saddleBytes l c) l c (s.get CHP_IMG_SEQ.sequence)

/-- The newest checkpoint stride, no later than the present one, at which every logical block in service has a valid
saddlebag (R340); a sample's retry replays from its own stride C (R319). -/
def State.replayPoint (s : State) : Option Nat :=
  let n := (s.screen.shadows.filter fun w => w.first.isSome).foldl (fun a w => min a w.stride) (s.get CAD_STRIDE.stride)
  let now := n / 256 * 256
  let ls := (s.rmt.map fun x => x.2.lblock).filter fun l => l != 0x7FF
  [now, now - 256].find? fun c => ls.all fun l => s.saddleValid l c

/-- A block restores from the bytes of a saddlebag (R346): the scan image, the carried lines, zero in every other line but
those of resident handles. -/
def Block.restore (b : Block) (lOf : Nat → Nat) (bs : List Byte) : Block :=
  let n := leAt bs 32 4
  let scan := sliceZ bs 64 n
  let mapAt := 64 + ceilDiv n 64 * 64
  let map := leAt bs mapAt 1024
  let lines := (List.range 8192).filter fun l => nbit map l
  let b := (b.clearWork.scanApply lOf scan).keepResident
  { b with spad := lines.zipIdx.foldl (fun m (l, i) => m.puts (64 * l) (sliceZ bs (mapAt + 1024 + 64 * i) 64)) b.spad,
           stride := BitVec.ofNat 64 (leAt bs 8 8) - 1 }

/-- A saddlebag is written whole, and counts (R338, R341). -/
def State.saddleWrite (s : State) (l c : Nat) (bs : List Byte) : State :=
  (s.setTiers (s.tiers.putLines 1 (s.saddleAddr l c) (padTo 64 bs))).setSaddle l c 2

/-- A block takes its saddlebag of `c` at beat `c` (R338, R339): one that needs too many bytes is invalid. -/
def State.saddleTake (s : State) (p c : Nat) : State :=
  let b := s.block p
  let l := b.lblock
  if !s.hasSaddle l then s
  else
    let (b, bs) := b.saddled p c (s.get CHP_IMG_SEQ.sequence)
    if 131072 < bs.length then
      ((s.setBlock p b).setSaddle l c 3).onBlock p fun b env => b.note env { cell := 0, code := 0xB6, detail := c, detail2 := bs.length }
    else (s.setBlock p { b with saddle := some (c, bs) }).setSaddle l c 1

/-- SADDLEBAG_COMPLETE (R338): the checkpoint lease of a region ends with its last saddlebag (R356). -/
def State.saddleComplete (s : State) (p : Nat) : State :=
  let b := s.block p
  match b.saddle with
  | none => s
  | some (c, bs) =>
    let s := (s.setBlock p { b with saddle := none }).saddleWrite b.lblock c bs
    let r := regionOf p
    if (regionBlocks r).all fun q => (s.block q).saddle.isNone then s.release 11 r else s

/-- SADDLEBAG_INVALID (R338, R360): at beat C + 256 what is not yet complete is invalid. -/
def State.saddleExpire (s : State) : State :=
  let now := s.get CAD_STRIDE.stride
  s.inService.foldl (fun s p =>
    let b := s.block p
    match b.saddle with
    | some (c, _) => if c + 256 ≤ now then (s.setBlock p { b with saddle := none }).setSaddle b.lblock c 3 else s
    | none => s) s

end Sys2Proof.Machine
end

