-- ==== Sys2Proof/Machine/Resets.lean ====
section
/-! DEFINITION. Collection before a reset, the clearing of each reset domain, and the paths into bring-up (R289, R295,
R439 to R445). -/

namespace Sys2Proof.Machine

/-- The fields of a block register that a reset keeps. -/
def blkKeep (a : Nat) : Word :=
  match findRow blkRows a with
  | some r => r.keepMask
  | none => 0

/-- The block test registers, whose kept fields survive every reset but a module (cold) reset (R334). -/
def isTest (a : Nat) : Bool := decide (0x3C00 ≤ a) && decide (a < 0x3C10)

/-- What a block reset keeps (R439, R452): keep fields and counter 47. -/
def blockKeep (a : Nat) : Word := if a = BLK_CNT.off 47 then BitVec.allOnes 64 else blkKeep a

/-- What a region reset and a chip (warm) reset keep of a block. -/
def regionKeep (a : Nat) : Word := if isTest a then blkKeep a else 0

/-- What a chip (warm) reset keeps of the registers outside blocks and regions: keep fields and the Farrier mailbox. -/
def warmKeep (a : Nat) : Word :=
  if 0x100030000000 ≤ a then BitVec.allOnes 64
  else match chipRow a with
    | some r => r.keepMask
    | none => 0

/-- What a reset leaves of a block's place in its streams, which start over only at the next flip (R193). -/
def MeshUnit.streams (m : MeshUnit) : MeshUnit :=
  { nextId := m.nextId, txSeq := m.txSeq, rxSeq := m.rxSeq, rxMulti := m.rxMulti, mcSeq := m.mcSeq, ackNext := m.ackNext, refusals := m.refusals }

/-- A block with everything cleared but what `mask` keeps, its place in the module, its router and its reset history (R439). -/
def Block.cleared (b : Block) (mask : Nat → Word) : Block :=
  { regs := Regs.resetKeeping blkReset mask b.regs, stride := b.stride, lblock := b.lblock, passTimes := b.passTimes,
    resets := b.resets, ev := b.ev, coalesced := b.coalesced, beatAt := b.beatAt, mesh := b.mesh.streams, router := b.router, owes := b.owes }

/-- The incarnation of every message queue is one more than before (R219). -/
def Block.bumpQueues (b old : Block) : Block :=
  (List.range 240).foldl (fun b q => if b.qKind q = 2 then b.set (BLK_Q_CFG.incarn q) ((old.get (BLK_Q_CFG.incarn q) + 1) % 256) else b) b

/-- Whether the block may hold work of the committed image. -/
def State.holds (s : State) (p : Nat) : Bool := (s.rmtOf p).state == 0

/-- A block reset (R139, R439): stores and registers come again from the tack store, with every resident handle reloaded,
and the incarnations move on; the block's streams start over at the next flip (R193). -/
def State.clearBlock (s : State) (p : Nat) (mask : Nat → Word) : State :=
  let old := s.block p
  let b := old.cleared mask
  let b := match s.images.committed with
    | some i => if s.holds p then ((i.mount s.tiers old.lblock b).bumpQueues old) else b
    | none => b
  let b := b.set MSH_CTL.mode (if s.healthy p then 0 else old.get MSH_CTL.mode)
  let b := b.set (BLK_CNT.count 47) (if mask (BLK_CNT.off 47) = 0 then 0 else old.get (BLK_CNT.count 47))
  let s : State := { s with restarts := if s.restarts.contains p then s.restarts else s.restarts ++ [p] }
  s.setBlock p { b with fenced := !s.healthy p }

/-- The bytes of a block's sample (R444): 64 KiB of the named scratch handle, each byte where R136 maps it and zero outside its range, or
bank 0; the gatherer entries of those lines are written back first (R131). -/
def Block.sample (b : Block) (h off : Nat) : List Byte :=
  if b.get (HDL_CTL.valid h) = 1 ∧ b.get (HDL_CTL.tier h) = 0 then
    let len := b.get (HDL_LEN.length h)
    let o := 65536 * off
    sliceZ (b.readRuns (b.handleRuns h o (min 65536 (len - o)))).2 0 65536
  else (b.readLines ((List.range 1024).map fun i => 64 * i)).2

/-- The blocks that a reset implicates (R444): the triggering ones, then those that records since the last checkpoint
stride name, among those it will clear. -/
def State.implicated (s : State) (first : List Nat) (mine : Nat → Bool) : List Nat :=
  let c := s.get CAD_STRIDE.stride / 256 * 256
  let evs := (s.far.log.map Prod.snd) ++ s.ev
  let bad := fun (e : Ev) => e.level == 0 && decide (c ≤ e.stride) && (decide (1 ≤ e.outcome % 16 ∧ e.outcome % 16 ≤ 3) || e.code == 0xA1)
  let named := (List.range 1280).filter fun p => mine p && !first.contains p && evs.any fun e => bad e && e.place == p
  first ++ named

/-- FAR_SMP_INFO follows FAR_SMP_SEL (R445, R454). -/
def State.showSample (s : State) : State :=
  match (s.far.collections.getD (s.get FAR_SMP_SEL.coll) [])[s.get FAR_SMP_SEL.index]? with
  | none => { s with regs := mset chipReset s.regs FAR_SMP_INFO.off 0 }
  | some x =>
    let s := (((s.set FAR_SMP_INFO.valid 1).set FAR_SMP_INFO.missing (b2n x.missing)).set FAR_SMP_INFO.pblock x.pblock)
    ((s.set FAR_SMP_INFO.lblock x.lblock).set FAR_SMP_INFO.kind x.kind).set FAR_SMP_INFO.bytes (if x.missing then 0 else 65536)

/-- The collection before a reset (R444, R445): the Farrier keeps the four newest. -/
def State.collect (s : State) (kind : Nat) (first : List Nat) (mine : Nat → Bool) : State :=
  if s.get CHP_COLLECT.enable = 0 then s
  else
    let n := max 1 (min 64 (s.get CHP_COLLECT.max_blocks))
    let ps := (s.implicated first mine).take n
    let one := fun p =>
      let b := s.block p
      let gone := b.get MSH_CTL.mode == 2
      ({ kind := kind, pblock := p, lblock := b.lblock, missing := gone,
         bytes := if gone then [] else b.sample (s.get CHP_COLLECT.handle) (s.get CHP_COLLECT.offset_64k) } : Sample)
    let s : State := { s with far := { s.far with collections := ((ps.map one) :: s.far.collections).take 4 } }
    (s.set CHP_COLLECT.last_blocks ps.length).showSample

/-- Resets of a history that lie in a window of `w` seconds. -/
def inWindow (now w : Nat) (ts : List Nat) : List Nat := ts.filter fun t => decide (now < t + max 1 w * 1000000000)

/-- The module goes Out of service, which keeps its first cause (R24, R292, R419, R441): its outputs are gated, and a load or a staging
in progress ends. -/
def State.outOfService (s : State) (cause : Nat) : State :=
  if s.dev = dOff ∨ s.dev = dOos then s
  else
    let s := s.sayDown
    let s := if s.inJob || s.hasJob then s.forgetJob.showJob else s
    let s := if s.images.loading.isSome then s.set CHP_IMG_STATUS.load 0 else s
    let s := if s.images.staging.isSome then s.set CHP_IMG_STATUS.stage 0 else s
    let s : State := { s with images := { s.images with loading := none, staging := none } }
    (s.goTo dOos).set CHP_STATE.oos_cause cause

/-- A place outside the blocks is cleared as the compute die is (R439): blocks and regions, the mesh, the images, Dispatch
and the chip steward's registers. -/
def State.clearDie (s : State) : State :=
  { s with
    blocks := s.blocks.map fun (p, b) => (p, { b.cleared regionKeep with lblock := 0x7FF, stride := 0, mesh := {}, router := {}, owes := false }),
    regions := s.regions.map fun (r, x) => (r, ({ ev := x.ev, resets := x.resets } : Region)),
    regs := Regs.resetKeeping chipReset warmKeep s.regs,
    endpoints := [], routes := [], groups := [], cad := {}, mgrProg := [], restarts := [], leases := {}, calls := [], scrubbed := [],
    riderReqs := [], jobFault := none, dispatch := {}, ports := [], twin := {}, rcv := {}, images := {}, power := {},
    screen := { s.screen with acc := [], rotation := [], shadows := [], plans := [], preempted := [], lapsed := [] },
    rmt := (s.rmt.map fun (p, x) => (p, ({ state := if x.state = 2 ∨ x.state = 3 then 3 else if x.state = 4 then 4 else 1 } : Rmt))).filter
      fun x => x.2 != rmtInit x.1 }

/-- The conditions of R295 that fail, as bits 0 to 4 of fast_deny. -/
def State.fastDeny (s : State) : Nat :=
  let clean := match s.screen.sweepAt with
    | some t => decide (s.now < t + 86400000000000)
    | none => false
  let rows := s.stud.filter fun x => x.kind == 4
  let awaiting := rows.any fun x => x.info == 1 && !(rows.any fun y => y.place == x.place && y.info == 2 && decide (x.at_ ≤ y.at_))
  let trained := (List.range 20).all fun i => s.far.trained.contains i
  b2n (!clean) + 2 * b2n s.far.railBreak + 4 * b2n awaiting + 8 * b2n (!trained) + 16 * b2n s.far.coldSince

/-- The newest pattern pack in flash becomes the active one (R293, R300). -/
def State.takePack (s : State) : State :=
  let s : State := { s with far := { s.far with pack := s.far.newestPack, packNext := [] } }
  s.set TST_CHP_PACK.pack_version (leAt s.far.pack 8 8)

/-- Bring-up starts on the warm path that R289 and R295 choose; step W1 comes first. -/
def State.startWarm (s : State) : State :=
  let deny := s.fastDeny
  let s := s.takePack.goTo dBringup
  let s := ((s.set CHP_BRINGUP.step 12).set CHP_BRINGUP.path (if deny = 0 then 2 else 1)).set CHP_BRINGUP.fast_deny deny
  let fast := deny == 0
  let s := if fast then (s.set CHP_READY.dram_kept 1).set CHP_READY.bist 1 else s
  { s with
    bring := { since := s.now, stepAt := s.now, deny := deny, rider := fast && s.bring.rider, beatAt := none },
    far := { s.far with riderNow := if fast then s.far.riderNow else s.far.riderGib, reading := false } }

/-- What flash holds of the Farrier (R410): a module (cold) reset keeps it. -/
def Farrier.flash (f : Farrier) : Farrier :=
  { log := f.log.take f.inFlash, inFlash := f.inFlash, next := f.mark, mark := f.mark, riderGib := f.riderGib, riderNow := f.riderGib,
    mgmtAddr := f.mgmtAddr, mgmtNow := f.mgmtAddr, mgmtCap := f.mgmtCap, tripC := f.tripC, anchor := f.anchor, vendorRoot := f.vendorRoot,
    fwKeys := f.fwKeys, packKeys := f.packKeys, firmware := f.firmware, pack := f.newestPack, flashCount := f.flashCount, trained := f.trained,
    coldSince := true, railBreak := true }

/-- A module (cold) reset (R439): everything is lost but flash and fuses; the environment's pins stay as they are. -/
def State.coldClear (s : State) : State :=
  { State.reset with
    pending := s.pending, now := s.now, freeCtr := s.freeCtr, dev := s.dev, pins := s.pins, stud := s.stud, fuses := s.fuses,
    signKeys := s.signKeys, out := s.out, far := s.far.flash, screen := { sweepAt := s.screen.sweepAt } }

/-- Bring-up starts on the cold path. -/
def State.startCold (s : State) : State :=
  let s := s.coldClear
  let s := s.goTo dBringup
  let s := ((s.set CHP_BRINGUP.step 1).set CHP_BRINGUP.path 0).set CHP_BRINGUP.fast_deny 0
  { s with bring := { since := s.now, stepAt := s.now }, pins := { s.pins with railsUp := true, enAgain := false } }

/-- CHP_ESC_STATUS records an escalation (R441). -/
def State.escalate (s : State) (kind place level : Nat) : State :=
  ((s.set CHP_ESC_STATUS.last kind).set CHP_ESC_STATUS.place place).raise level place { code := 0xAB, outcome := 2, detail := kind }

/-- Whether a compute die has been released: not Off, not before cold step 4 (R300). -/
def State.released (s : State) : Bool :=
  s.dev != dOff && !(s.dev == dBringup && s.get CHP_BRINGUP.path == 0 && decide (s.get CHP_BRINGUP.step < 4))

/-- A chip (warm) reset with its cause (R439 to R445): the escalation limit first (R441), then the collection, and bring-up. -/
def State.warmReset (s : State) (cause : Nat) : State :=
  if !s.released || s.dev == dOos then s
  else
    let old := inWindow s.now (s.get CHP_ESC.chip_window_s) s.chipResets
    let n := old.length + (if cause = 5 then 0 else 1)
    if cause ≠ 5 ∧ max 1 (s.get CHP_ESC.chip_count) ≤ n then (s.escalate 3 0 2).outOfService 7
    else
      let s := s.sayDown.collect 3 [] fun _ => true
      let s := s.raise 2 0 { code := 0xA8, detail := cause, detail2 := n }
      let s := (s.clearDie.count CHP_STATE.warm_resets 1).set CHP_ESC_STATUS.chip_resets n
      ({ s with chipResets := if cause = 5 then old else old ++ [s.now] } : State).startWarm

end Sys2Proof.Machine
end

