-- ==== Sys2Proof/Machine/TwinCore.lean ====
section
/-! DEFINITION. Detach, the alone state and failover (R369, R376 to R381). -/

namespace Sys2Proof.Machine

/-- TWN_STATUS.state codes (R384). -/
def twUNPAIRED : Nat := 0
def twPAIRING : Nat := 1
def twPAIRED : Nat := 2
def twALONE : Nat := 3
def twDETACHED : Nat := 4
def twREJOINING : Nat := 5

/-- Change the twin. -/
def State.onTwin (s : State) (f : Twin → Twin) : State := { s with twin := f s.twin }

/-- The twin's state code. -/
def State.twState (s : State) : Nat := s.get TWN_STATUS.state

/-- Whether the module is paired in a mode. -/
def State.pairedIn (s : State) (mode : Nat) : Bool := s.twState == twPAIRED && s.get TWN_STATUS.mode == mode

/-- A twin event of the Farrier (R434). -/
def State.twinEvent (s : State) (cause : Nat) : State := s.raise 6 0 { code := 0xB8, detail := cause }

/-- The module is in Solo from here (R369, R379). -/
def State.solo (s : State) (state : Nat) : State :=
  let s : State := { s with twin := { s.twin with bad := none, suspects := [], guilty := none, btally := [], copying := false, rejoinAt := none, gone := none } }
  ((s.set TWN_STATUS.state state).set TWN_STATUS.mode 0).set TWN_STATUS.checked 0

/-- The strides in doubt at a failover (R380): those after the near twin's done mark whose comparison it could have completed,
none where it had announced Recovering. -/
def State.doubts (s : State) : Option (Nat × Nat) :=
  if s.twin.peerRecovering then none
  else match s.dispatch.acked with
    | some n => if s.twin.peerDone < n then some (s.twin.peerDone + 1, min n (s.twin.peerDone + 2)) else none
    | none => none

/-- A block is made ready for a job (R139, R202): scratch lines zero but resident ones, nothing left of an earlier job, its
scheduler waiting for a beat. -/
def Block.forLaunch (b : Block) (env : Env) : Block :=
  (((b.settle env).clearWork.keepResident).set MSH_RATE.rate 64).set BLK_DF_STATUS.state 1

/-- The partner's job goes on here from its checkpoint stride `c` (R381, R382): every block takes its saddlebag, which holds the inputs up
to `c`, and rejoin leads to the present stride (R45 step 2). -/
def State.relaunch (s : State) (c : Nat) : State :=
  let j : Job := { ring := 0, seq := 0, ident := 0, multi := true, start := c, back := true }
  let s := s.setDispatch { s.dispatch with job := some j, acked := none }
  let s := s.inService.foldl (fun s p =>
    s.setBlock p (((s.block p).forLaunch (s.env p)).restore s.lblockAt (s.saddleBytes (s.lblockAt p) c))) s
  let s : State := { s with
    blocks := s.blocks.map fun (p, b) => (p, { b with stride := BitVec.ofNat 64 c - 1 }),
    cad := { s.cad with acked := [], done := true } }
  let s := s.onTwin fun t => { t with admits := t.admits.filter fun x => decide (c < x.stride) }
  let gait : Nat := match s.images.committed with | some i => i.gait | none => 0
  ((s.set CAD_STRIDE.stride (c + 2 ^ 64 - 1)).set CAD_CTL.phase (if gait = 0 then 2 else 0)).showJob

/-- An off twin in Standby launches at the older of the newest complete set of saddlebags it has received and the near twin's
C0 (R381); what it replays up to the done mark was released before. -/
def State.standbyStart (s : State) : State :=
  let ls := match s.images.committed with | some i => i.served | none => []
  let cs := (s.twin.saves.map Prod.snd).eraseDups.filter fun c => ls.all fun l => s.twin.saves.contains (l, c)
  match cs.foldl (fun a c => some (max c (a.getD 0))) none with
  | none => s
  | some c =>
    let c := match s.twin.peerC0 with | some x => min x c | none => c
    s.relaunch c

/-- The partner has detached or is down: the module runs on alone, and an off twin becomes near (R377, R380, R381). -/
def State.alone (s : State) (cause : Nat) : State :=
  let off := s.get TWN_STATUS.role == 2
  let mirror := s.get TWN_STATUS.mode == 1
  let standby := s.get TWN_STATUS.mode == 2
  let doubt := s.doubts
  let s := (((s.solo twALONE).set TWN_STATUS.detach_cause cause).count TWN_DETACHES.count 1).twinEvent cause
  if !off || !(mirror || standby) then s
  else
    let s := (s.set TWN_STATUS.role 1).count TWN_FAILOVERS.count 1
    let s := s.onTwin fun t => { t with doubt := if mirror then doubt else none }
    let s := (s.set CHP_RCV_RELEASED.stride s.twin.peerDone).set TWN_DONE.value s.twin.peerDone
    if standby then s.standbyStart else s

/-- This twin detaches (R377): STATE with detach, its job ends with TWIN_DETACHED, and it releases nothing more. -/
def State.detach (s : State) (cause : Nat) : State :=
  let s := s.say sayDETACH cause
  let s := (((s.solo twDETACHED).set TWN_STATUS.detach_cause cause).count TWN_DETACHES.count 1).twinEvent cause
  let s : State := { s with ports := s.ports.map fun (i, x) => (i, { x with held := [] }) }
  if s.hasJob then s.failJob stTWIN_DETACHED 0 else s

/-- Whether a twin runs a job with its partner. -/
def State.twinned (s : State) : Bool := s.pairedIn 1 || s.pairedIn 2

end Sys2Proof.Machine
end

