-- ==== Sys2Proof/Machine/Recovery.lean ====
section
/-! DEFINITION. Quarantine, remount, recovery and region-level recovery (R324 to R333, R343 to R355, R436, R440, R441). -/

namespace Sys2Proof.Machine

/-- CHP_SWEEP and TST_RGN_STATUS count the blocks in quarantine and retired (R301, R335). -/
def State.sweepCounts (s : State) : State :=
  let n := fun st => (s.rmt.filter fun x => x.2.state == st).length
  let s := (s.set CHP_SWEEP.quarantined (n 3)).set CHP_SWEEP.retired (n 4)
  (List.range 16).foldl (fun s r =>
    s.rset r TST_RGN_STATUS.quarantined (s.rmt.filter fun x => x.2.state == 3 && regionOf x.1 == r).length) s

/-- A block enters quarantine (R326): fenced, its router in bypass or, where it failed, in straight bypass (R196, R197). -/
def State.quarantine (s : State) (p code : Nat) : State :=
  let x := s.rmtOf p
  if x.state = 3 ∨ x.state = 4 then s
  else
    let b := (s.block p).fence code
    let b := (b.set MSH_CTL.mode (max 1 (b.get MSH_CTL.mode))).set TST_BLK_STATE.clean_runs 0
    let s := (s.setBlock p (b.set TST_BLK_STATE.health 2)).setRmt p { x with state := 3, pending := false, next := 0x7FF }
    (s.book 2 p 1).sweepCounts

/-- A region goes down (R355, R441): the job ends and the device is Held with REGION_DOWN; an image in Ready is withdrawn (R4). Outside
these states the region is down and the device stays where it is. -/
def State.regionDown (s : State) (r : Nat) : State :=
  let l := (((regionBlocks r).map s.lblockAt).find? fun l => l != 0x7FF).getD (75 * r)
  let s := (s.rset r RGN_RCV.down 1).closeJob stREGION_DOWN 0 l
  let s := if s.dev = dReady then s.withdraw else s
  let s := (regionBlocks r).foldl (fun s p =>
    let x := s.rmtOf p
    s.setRmt p { x with lblock := 0x7FF, next := 0x7FF, pending := false, foreign := false, state := if x.state = 0 then 1 else x.state }) s
  let s := ({ s with rcv := {} } : State).set CHP_RCV_STATUS.step 0
  if s.inJob || s.dev == dReady then (s.goTo dHeld).holdReason { code := 0x03, lblock := l } else s

/-- Whether a healthy block of the remount tables serves nothing (R17, R345). -/
def State.isSpare (s : State) (p : Nat) : Bool :=
  let x := s.rmtOf p
  s.healthy p && x.lblock == 0x7FF && !x.pending && (x.state == 1 || x.state == 5 || x.state == 6)

/-- Whether a block holds a lease of its own (R356). -/
def State.leased (s : State) (p : Nat) : Bool := s.leases.held.any fun l => l.code < 2 && (leaseBlocks l.code l.res).contains p

/-- The spare that takes a logical block from `p` (R345, R354); its leases are abandoned. -/
def State.chooseSpare (s : State) (p l : Nat) : Option Nat :=
  let mine := (List.range 1280).filter fun q => regionOf q == regionOf p && s.isSpare q
  match mine.find? fun q => !s.leased q with
  | some q => some q
  | none =>
    match mine with
    | q :: _ => some q
    | [] =>
      match s.images.committed with
      | none => none
      | some i =>
        if !i.degradable then none
        else
          let at_ := (s.inService.map fun q => (s.lblockAt q, q)).filter fun x => x.1 != l
          (byHops p ((List.range 1280).filter fun q => regionOf q != regionOf p && s.isSpare q && !s.leased q)).find? fun q =>
            decide (i.share s.freeCtr s.failedRouters (at_ ++ [(l, q)]) (regionOf q) ≤ tackBytes)

/-- The samples of a block that no longer serves its logical block are abandoned. -/
def State.shadowsOff (s : State) (p : Nat) : State := (s.screen.shadows.filter fun w => w.block == p).foldl State.shadowDrop s

/-- A spare takes over what its sampled block starts with at the first stride that it runs (R318): the saddlebag `bs`, and the block's place
in its streams, on which the tap's packets arrive. -/
def State.shadowRestore (s : State) (w : Shadow) (bs : List Byte) : State :=
  match s.images.committed with
  | none => s
  | some i =>
    let b := s.block w.block
    let q := (i.mount s.tiers b.lblock (s.block w.spare)).restore s.lblockAt bs
    s.setBlock w.spare { q with
      lblock := b.lblock, stride := BitVec.ofNat 64 w.since - 1, working := false, mesh := b.mesh.streams, nextReq := b.nextReq }

/-- The leases of a spare are abandoned for a remount (R345, R359). -/
def State.freeSpare (s : State) (q : Nat) : State :=
  let out := s.leases.held.filter fun l => l.code < 2 && (leaseBlocks l.code l.res).contains q
  let s := out.foldl State.abandon s
  s.setLeases { s.leases with held := s.leases.held.filter fun l => !out.contains l }

/-- A logical block goes from `p` to spare `q` at the next flip (R344 step 3, R351); each block reports its next wait on a join
arc (R166). -/
def State.remountTo (s : State) (p q l : Nat) : State :=
  let s := s.freeSpare q
  let s : State := { s with blocks := s.blocks.map fun (x, b) => (x, { b with firstSlack := true }) }
  let away := regionOf q != l / 75
  let s := (s.setRmt q { s.rmtOf q with pending := true, next := l, foreign := away }).rcount (regionOf p) RGN_REMOUNTS.count 1
  let s := if away then (s.rcount (regionOf q) RGN_RCV.foreign_in 1).rcount (l / 75) RGN_RCV.foreign_out 1 else s
  s.onScreen fun x => { x with tookAt := mset natZero x.tookAt q (s.get CAD_STRIDE.stride) }

/-- The remount of what fenced block `p` held; with no spare its region goes down (R354, R355). -/
def State.remount (s : State) (p : Nat) : State :=
  let l := s.lblockAt p
  if l = 0x7FF ∨ (s.rmt.any fun x => x.2.pending && x.2.next == l && s.healthy x.1) then s
  else
    match s.chooseSpare p l with
    | some q => s.remountTo p q l
    | none => s.regionDown (regionOf p)

/-- A block reset (R439 to R444): the limit first, then the collection. The flag says that it was escalated instead. -/
def State.blockReset (s : State) (p cause : Nat) : State × Bool :=
  let b := s.block p
  let hist := inWindow s.now (s.get CHP_ESC.blk_window_s) b.resets
  let n := hist.length + 1
  if max 1 (s.get CHP_ESC.blk_count) ≤ n then ((s.escalate 1 p 0).quarantine p b.fenceCode, true)
  else
    let s := s.collect 1 [p] fun q => q == p
    let s := s.onBlock p fun b env => b.note env { code := 0xA6, detail := cause, detail2 := n }
    let s := s.clearBlock p blockKeep
    let b := s.block p
    (s.setBlock p (({ b with resets := hist ++ [s.now] } : Block).cnt 47 1), false)

/-- A block stops for a recovery (R344 step 2, R88): its outboxes, resend store and arriving packets are gone, and it waits
for its restore. -/
def Block.stopWork (b : Block) (owes : Bool) : Block :=
  Block.jobsActive { b with
    working := false, gather := [], reqs := [], jobs := [], threads := [], reinJob := none, owes := owes, saddle := none,
    mesh := { b.mesh with sendq := [], resend := [], arrived := [], inbox := [], acks := [], echoes := [], acksIn := [] } }

/-- Every block stops, the manger call queues are empty, and the edge endpoints drop what they sent to blocks. -/
def State.stopAll (s : State) : State :=
  let busy := fun p => (s.rmtOf p).state == 0 || (s.rmtOf p).pending
  let ps := (List.range 1280).filter busy
  let s : State := { s with
    blocks := s.blocks.map fun (p, b) => (p, if busy p then b.stopWork true else b),
    endpoints := s.endpoints.map fun (u, m) => (u, { m with resend := m.resend.filter fun h => decide (1280 ≤ h.pkt.dest) }),
    calls := [], restarts := ps }
  ps.foldl (fun s p => s.setBlock p { s.block p with owes := true }) s

/-- CHP_RCV_STATUS at the start of a recovery. -/
def State.showRecovery (s : State) (kind restarts : Nat) : State :=
  let n := (s.rcv.faults.filter fun f => f.block.isSome && f.kind == 1).length
  (((s.set CHP_RCV_STATUS.step 4).set CHP_RCV_STATUS.kind kind).set CHP_RCV_STATUS.restarts restarts).set CHP_RCV_STATUS.fenced n

/-- No replay point (R350, R377): in Mirror or Standby the twin detaches; in Solo the job ends with CHECKPOINT_LOST. -/
def State.noReplay (s : State) : State :=
  let s : State := { s with rcv := {} }
  let s := s.set CHP_RCV_STATUS.step 0
  if s.twinned then
    let s := s.detach 4
    s.endJob stTWIN_DETACHED 0 0x7FF
  else s.endJob stCHECKPOINT_LOST 0 0x7FF

/-- The full stride count that bits [23:16] of a formed tag name, nearest to the present one (R70, R372). -/
def State.tagStride (s : State) (tag : Nat) : Nat := (keyStride (BitVec.ofNat 64 (s.get CAD_STRIDE.stride)) tag).toNat

/-- A region's blocks and its steward are reset (R439, R353): region registers and the remount table stay. -/
def State.clearRegion (s : State) (r : Nat) : State :=
  let s := (regionBlocks r).foldl (fun s p => s.clearBlock p regionKeep) s
  s.setRegion r { s.region r with acked := [] }

/-- The logical blocks of a region go to the blocks that R280 gives them against the stud book (R353). -/
def State.placeRegion (s : State) (r : Nat) : State :=
  ((List.range 1280).filter fun p => s.lblockAt p != 0x7FF && s.lblockAt p / 75 == r && !s.healthy p).foldl State.remount s

/-- Route or group entries that cannot be formed pass the fault to the chip steward (R197): the region recovers as a whole (R353); where the
entries cannot be formed even so, it goes down (R355). -/
def State.formTables (s : State) (r : Nat) : State :=
  if s.tablesForm then s
  else
    let s := (s.clearRegion r).placeRegion r
    if s.dev = dRecovering ∧ s.tablesForm then s else if s.dev = dRecovering then s.regionDown r else s

/-- Steps 1 to 3 of R344 once the faulty blocks are fenced or reset: C0 is fixed, every block stops, the remounts are chosen,
and flip steps 1 to 3 run. -/
def State.recoverFrom (s : State) (kind restarts r : Nat) : State :=
  match s.replayPoint with
  | none => s.noReplay
  | some c =>
    let s := ((s.rmt.filter fun x => (x.2.state == 2 || x.2.state == 3) && x.2.lblock != 0x7FF).map Prod.fst).foldl State.remount s
    let s := ((s.screen.shadows.map Shadow.block).filter fun p => (s.rmtOf p).state != 0).foldl State.shadowsOff s
    let kind := if s.tablesForm then kind else 2
    let s := if s.dev = dRecovering then s.formTables r else s
    if s.dev ≠ dRecovering then s
    else
      let s : State := { s.stopAll with rcv := { s.rcv with from_ := c, replaying := false } }
      let s : State := { s with
        ports := s.ports.map fun (i, x) => (i, { x with held := x.held.filter fun f => decide (f.stride < c), skip := x.sent }),
        endpoints := s.endpoints.map fun (u, m) => (u, { m with inbox := m.inbox.filter fun k => decide ((s.tagStride k.tag) < c) }) }
      let again := (s.dispatch.log.filter fun x => decide (c < x.2)).map fun x => ({ cmd := x.1, step := 1, a := x.2 } : Work)
      let unsent := fun (w : Work) => if w.cmd.op == 2 && w.step == 2 then { w with step := 1 } else w
      let s := s.setDispatch { s.dispatch with again := again, work := s.dispatch.work.map unsent }
      let s := (s.showRecovery kind restarts).set CHP_RCV_FROM.stride c
      let s := if s.twinned then s.say sayC0 c else s
      (s.force 2 r).flipStart r

/-- A swap or an activation that withholds a beat waits for the recovery's end (R287, R359), as does a test in place. -/
def State.deferHolders (s : State) : State :=
  let s := if 3 ≤ s.get CHP_IMG_STATUS.stage then (s.count LSE_ABANDONED.count 1).swapDefer else s
  let far := if s.far.actStage = 0 then s.far
    else { s.far with actStage := 0, activating := s.far.activating.map fun x => (x.1, x.2 + 256) }
  { s with far := far, cad := { s.cad with hold := none } }

/-- A recovery starts, or restarts with one fault more (R343, R344, R349); the eighth restart is a chip (warm) reset. -/
def State.startRecovery (s : State) (f : RcvFault) (r : Nat) (prep : State → State) : State :=
  if !s.inJob then prep s
  else
    let n := s.get CAD_STRIDE.stride
    let again := s.rcv.active
    let restarts := if again then s.get CHP_RCV_STATUS.restarts + 1 else 0
    if restarts = 8 then s.warmReset 4
    else
      let s := s.goTo dRecovering
      let s := s.deferHolders
      let s : State := { s with rcv := { s.rcv with
        active := true, faults := s.rcv.faults ++ [f], fault := if again then max s.rcv.fault n else n,
        since := if again then s.rcv.since else s.now, rejoin := none } }
      let s := (s.set CHP_RCV_FAULT.stride s.rcv.fault).set CAD_CTL.phase 1
      let s := if s.twinned && !again then s.say sayRECOVERING 0 else s
      let s := prep s
      if s.dev ≠ dRecovering then s else s.recoverFrom f.kind restarts r

/-- A block's lasting fault (R326, R343): quarantine, and recovery where it was in service. -/
def State.blockFault (s : State) (p code : Nat) : State :=
  let served := s.lblockAt p != 0x7FF
  let fence := fun (s : State) => (s.lasting 0 p code).quarantine p code
  if served then s.startRecovery { kind := 1, block := some p, code := code } (regionOf p) fence else fence s

/-- A block that hung is reset and restored in place (R436, R440); one that has hung in this recovery already is lasting. -/
def State.tetherFault (s : State) (p cause : Nat) : State :=
  let l := s.lblockAt p
  if s.rcv.tether.contains l ∧ cause = 1 then s.blockFault p 0xA1
  else
    let reset := fun (s : State) => (s.blockReset p cause).1
    if l = 0x7FF then reset s
    else
      let s := s.startRecovery { kind := 3, block := some p, code := 0xA1 } (regionOf p) reset
      { s with rcv := { s.rcv with tether := if s.rcv.active ∧ cause = 1 then l :: s.rcv.tether else s.rcv.tether } }

/-- REGION_RECOVERY (R353): the region is reset, its share read again where the tack store was lost, and the whole device
recovers; an image that fails its check takes the region down. -/
def State.regionRecovery (s : State) (r : Nat) (tackLost : Bool) : State :=
  let bad := tackLost && (match s.images.committed with
    | some i => (formCheck s.tiers s.fuses.sigFuse s.signKeys (Img.read s.tiers i.base)).isSome
    | none => true)
  let prep := fun (s : State) =>
    let s := s.clearRegion r
    if bad then s.regionDown r else s.placeRegion r
  if s.rget r RGN_RCV.down = 1 then s
  else if s.inJob then s.startRecovery { kind := 2 } r prep
  else s.clearRegion r

/-- A region reset (R440, R441, R444): the limit first, then the collection. The flag says that it was escalated. -/
def State.regionReset (s : State) (r cause : Nat) (tackLost : Bool) : State × Bool :=
  let x := s.region r
  let hist := inWindow s.now (s.get CHP_ESC.rgn_window_s) x.resets
  let n := hist.length + 1
  if max 1 (s.get CHP_ESC.rgn_count) ≤ n then ((s.escalate 2 r 1).regionDown r, true)
  else
    let s := s.collect 2 [] fun p => regionOf p == r
    let s := s.raiseRegion r { code := 0xA7, detail := cause, detail2 := n }
    let s := s.setRegion r { s.region r with resets := hist ++ [s.now] }
    (s.regionRecovery r tackLost, false)

/-- A router's failure (R197): straight bypass, then as a block's; with an endpoint attached the region recovers (R353). -/
def State.routerFault (s : State) (p code : Nat) : State :=
  let s := if (s.block p).get MSH_CTL.mode = 2 then s else s.failRouter p code
  let ends := (List.range 121).any fun k => isEndpoint (1280 + k) && routerOf (1280 + k) == p
  if ends && s.inJob then
    s.startRecovery { kind := 2, block := some p, code := code } (regionOf p) fun s =>
      (((s.lasting 0 p code).quarantine p code).clearRegion (regionOf p)).placeRegion (regionOf p)
  else s.blockFault p code

/-- RECOVERY_START (R343): a recovery of each cause. A block's or router's fault is one that fenced it; a tether's is one whose
timer fired. -/
def State.recoveryStart (s : State) : Fault1 → State
  | .block p => if (s.block p).fenced ∧ (s.rmtOf p).state = 0 then s.blockFault p (s.block p).fenceCode else s
  | .router p => s.routerFault p (s.block p).fenceCode
  | .tether p => if (s.block p).get BLK_TETHER.state = 2 then s.tetherFault p 1 else s
  | .shadow p =>
    if s.screen.shadows.any fun w => w.block == p.val && w.first.isSome then s.startRecovery { kind := 3 } (regionOf p) id else s
  | .mismatch => if s.twin.bad.isSome then s.startRecovery { kind := 3 } 0 id else s

/-- The samples of a restored block run again on a fresh tap from C0 on, where their stride is replayed (R319); others are abandoned. -/
def State.shadowAgain (s : State) (p : Nat) (bs : List Byte) : State :=
  let c := s.rcv.from_
  let late := s.screen.shadows.filter fun w => w.block == p && decide (w.stride < c)
  let s := late.foldl State.shadowDrop s
  let s := s.onScreen fun x => { x with shadows := x.shadows.map fun w => if w.block == p then { w with since := c, ackAt := none } else w }
  (s.screen.shadows.filter fun w => w.block == p).foldl (fun s w => s.shadowRestore w bs) s

/-- BLOCK_RESTORE (R346): a block restores from its saddlebag of C0; the flip is requested once every block has restored. -/
def State.blockRestore (s : State) (p : Nat) : State :=
  let b := s.block p
  if !s.rcv.active || s.rcv.replaying || !b.owes then s
  else
    let x := s.rmtOf p
    let l := if x.pending then x.next else x.lblock
    let bs := s.saddleBytes l s.rcv.from_
    let b := match s.images.committed with
      | some i => if x.pending then i.mount s.tiers l b else b
      | none => b
    let b := b.restore s.lblockAt bs
    let b := if b.get MSH_CTL.mode = 1 then b.set MSH_CTL.mode 0 else b
    let s := s.setBlock p { b with lblock := l, owes := false, fenced := false, fenceCode := 0, firstSlack := b.firstSlack || x.pending }
    let s := s.shadowAgain p bs
    if s.blocks.any fun y => y.2.owes then s else (s.set CHP_RCV_STATUS.step 5).flipRequest

end Sys2Proof.Machine
end

