-- ==== Sys2Proof/Machine/Screening.lean ====
section
/-! DEFINITION. Continual self-test: slices, diagnostic runs, shadow samples, swaps and tests in place, the chip sweep (R305
to R333, R351, R352). -/

namespace Sys2Proof.Machine

/-- The coverage deadline of a region in ns (R310, R335). -/
def State.deadline (s : State) (r : Nat) : Nat := max 10 (min 3600 (s.rget r TST_RGN_CFG.deadline_s)) * 1000000000

/-- A block's age (R310): the time since the oldest of its 24 slice pass times; with one missing, since time zero. -/
def State.age (s : State) (p : Nat) : Nat :=
  let ts := (List.range 24).map fun k => mget natZero (s.block p).passTimes k
  s.now - ts.foldl min (ts.headD 0)

/-- A manger engine's age (R316). -/
def State.engineAge (s : State) (e : Nat) : Nat :=
  let ts := (List.range 4).map fun k => mget natZero s.screen.engines (4 * e + k)
  s.now - ts.foldl min (ts.headD 0)

/-- The stage of an age (R310): 0 fresh, 1 idle, 2 due, 3 overdue, 4 lapsed. -/
def stageOf (age deadline : Nat) : Nat :=
  let pct := 100 * age
  if pct < 25 * deadline then 0 else if pct < 50 * deadline then 1 else if pct < 90 * deadline then 2
  else if pct < 100 * deadline then 3 else 4

/-- A block's stage. -/
def State.stage (s : State) (p : Nat) : Nat := stageOf (s.age p) (s.deadline (regionOf p))

/-- TST_BLK_STATE shows health, stage and age. -/
def State.showTest (s : State) (p : Nat) : State :=
  let st := (s.rmtOf p).state
  let health := if st = 0 then 0 else if st = 3 ∨ st = 2 then 2 else if st = 4 then 3 else 1
  let b := (s.block p).set TST_BLK_STATE.health health
  s.setBlock p ((b.set TST_BLK_STATE.stage (s.stage p)).set TST_BLK_STATE.age_ms (min 0xFFFFFFFF (s.age p / 1000000)))

/-- TST_RGN_STATUS counts free spares and stages (R335). -/
def State.showRegionTest (s : State) (r : Nat) : State :=
  let n := fun (f : Nat → Bool) => ((List.range 1280).filter fun p => regionOf p == r && f p).length
  let at_ := fun k p => (s.rmtOf p).state < 2 && s.stage p == k
  let s := (s.rset r TST_RGN_STATUS.spares (n fun p => s.isSpare p && !s.leased p)).rset r TST_RGN_STATUS.due (n (at_ 2))
  (s.rset r TST_RGN_STATUS.overdue (n (at_ 3))).rset r TST_RGN_STATUS.lapsed (n (at_ 4))

/-- Whether a region's voltage and junction let a slice run (R308); the junction is that of the region's first sensor. -/
def State.sliceFit (s : State) (r : Nat) : Bool :=
  let t := signed 32 (s.sensor (4 * r))
  decide (680 ≤ s.volt r) && decide (s.volt r ≤ 800) && decide (0 ≤ t) && decide (t ≤ 1600)

/-- Whether a block holds no work (R305). -/
def State.idleBlock (s : State) (p : Nat) : Bool :=
  let x := s.rmtOf p
  x.state != 4 && !(s.block p).slice.isSome && (s.dev == dBringup || s.dev == dHeld || s.dev == dReady ||
    ((s.dev == dRunning || s.dev == dRecovering) && !x.pending && (x.state == 1 || x.state == 3)))

/-- The slice whose pass time is oldest (R310). -/
def Block.oldestSlice (b : Block) : Nat :=
  (List.range 24).foldl (fun k j => if mget natZero b.passTimes j < mget natZero b.passTimes k then j else k) 0

/-- BIST_SLICE_START (R305, R308, R310, R327): slices of a block in quarantine follow in order, those of others oldest
first, under the BIST slice lease; a quarantined block's first slice is preceded by the collection of R444. Slices 20 to 23 run the records
of the pack active at their start (R322, R323). -/
def State.sliceStart (s : State) (p : Nat) : State :=
  let r := regionOf p
  let b := s.block p
  let quar := (s.rmtOf p).state == 3
  let due := quar || (s.rget r TST_RGN_CFG.bist_en == 1 && decide (1 ≤ s.stage p))
  if !due || !s.idleBlock p || !s.sliceFit r || !s.leaseFree 0 p || (quar && decide (24 ≤ b.diag.length)) then s
  else
    let k := if quar then b.diag.length else b.oldestSlice
    let s := (s.acquire { code := 0, res := p } true).1
    let s := if quar && k == 0 then s.collect 4 [p] fun q => q == p else s
    let fails := if 20 ≤ k then packFails s.far.pack k else none
    let s := s.setBlock p { b.set TST_BLK_STATE.slice k with
      slice := some (k, s.now, false), recordBad := fails, sliceSpoilt := false }
    let x := s.rmtOf p
    if x.state = 1 then s.setRmt p { x with state := 6 } else s

/-- The stores that a slice overwrote come from the tack store again, and resident handles from their copies (R305, R311). -/
def State.reloadAfter (s : State) (p k : Nat) : State :=
  match s.images.committed with
  | some i =>
    if !s.holds p then s
    else if k = 12 ∨ k = 14 ∨ k = 15 ∨ k = 16 ∨ k = 18 then s.setBlock p (i.load (s.lblockAt p) (s.block p))
    else if k < 8 then s.setBlock p ((s.block p).reloadAll s.tiers)
    else s
  | none => s

/-- Every entry of a block's route and group tables of an epoch is zero (R305, R306). -/
def State.zeroTables (s : State) (p e : Nat) : State :=
  { s with routes := s.routes.filter fun x => x.1 / 1408 != 2 * p + e, groups := s.groups.filter fun x => x.1 / 2048 != 2 * p + e }

/-- Slices in a region no longer pass or fail: the junction has left its window (R308). -/
def State.spoilSlices (s : State) (r : Nat) : State :=
  if s.sliceFit r then s
  else (regionBlocks r).foldl (fun s p => if (s.block p).slice.isSome then s.setBlock p { s.block p with sliceSpoilt := true } else s) s

/-- Whether a slice is discarded (R307, R308): its conditions have failed, or a flip has copied tables meanwhile. -/
def State.sliceVoid (s : State) (p k start : Nat) : Bool :=
  (s.block p).sliceSpoilt || !s.sliceFit (regionOf p) || (k == 19 && (s.rget 0 RGN_EPOCH.pending == 1 || (s.cad.flipAt != 0 && decide (start ≤ s.cad.flipAt))))

/-- A slice is over: what it tested is zero, its lease is released. -/
def State.sliceOver (s : State) (p k : Nat) : State :=
  let s := (s.setBlock p ((s.block p).sliceDone k)).release 0 p
  let s := if k = 19 ∧ s.rget 0 RGN_EPOCH.pending = 0 then s.zeroTables p (1 - s.epoch) else s
  let x := s.rmtOf p
  let s := if x.state = 6 then s.setRmt p { x with state := 1 } else s
  (s.reloadAfter p k).showTest p

/-- A pack record as the place of a failure (R334): struct 6. -/
def recordPlace (i : Nat) : Word := BitVec.ofNat 64 (6 * 2 ^ 52 + i * 2 ^ 32)

/-- The pack record that a failure lies in, 0xFFFFFFFF for none (R434). -/
def placeRecord (place : Word) : Nat := if bitsOf place 55 52 = 6 then bitsOf place 51 32 else 0xFFFFFFFF

/-- A failing attempt's event 0xC1 (R309, R434). -/
def State.sliceEvent (s : State) (p outcome attempt : Nat) (place : Word) : State :=
  s.onBlock p fun b env => b.note env { code := 0xC1, outcome := outcome, attempt := attempt, detail := (b.word TST_BLK_RESULT.off).toNat,
                                        detail2 := placeRecord place }

/-- A diagnostic run keeps the result of a slice (R327). -/
def State.diagKeep (s : State) (p k : Nat) (pass : Bool) (place : Word) : State :=
  if (s.rmtOf p).state = 3 then
    let b := s.block p
    s.setBlock p { b with diag := b.diag ++ [(k, pass, place)] }
  else s

/-- BIST_SLICE_END (R308, R309, R322, R324): a slice whose records do not pass fails at the first of them, whatever the unit answers. -/
def State.sliceEnd (s : State) (p : Nat) (pass : Bool) (place : Word) : State :=
  match (s.block p).slice with
  | none => s
  | some (k, start, again) =>
    let r := regionOf p
    let att := b2n again
    let pass := pass && (s.block p).recordBad.isNone
    let place := ((s.block p).recordBad.map recordPlace).getD place
    let put := fun (s : State) (result : Nat) => s.setBlock p ((s.block p).sliceResult k result att place)
    if s.sliceVoid p k start then ((put s 3).rcount r TST_RGN_DISCARDED.count 1).sliceOver p k
    else if pass then
      let s := put s 1
      let b := s.block p
      let s := s.setBlock p { b with passTimes := mset natZero b.passTimes k start }
      let s := if again then s.transient else s
      (s.diagKeep p k true place).sliceOver p k
    else if !again then
      let s := (put s 2).sliceEvent p 5 1 place
      s.setBlock p { s.block p with slice := some (k, start, true) }
    else
      let s := ((put s 2).sliceEvent p 2 2 place).diagKeep p k false place
      let quar := (s.rmtOf p).state == 3
      let s := s.sliceOver p k
      if quar then s else s.blockFault p 0xC1

/-- The bank of a failure in a scratchpad line (R334): struct 0, address bank × 1,024 + line. -/
def failBank (place : Word) : Option Nat := if bitsOf place 55 52 = 0 then some (bitsOf place 51 32 / 1024 % 8) else none

/-- Spares of a block in use, as the stud book says (R328): group 0 to 7 the lines of a bank, 8 to 15 the bit columns of bank group − 8. -/
def State.sparesUsed (s : State) (p group : Nat) : Nat :=
  (s.stud.filter fun x => x.kind == 3 && x.place == p && x.info / 1024 == group).length

/-- A failure's cell replaced by a spare of its bank (R328): a line while one is left, else a bit column (DESIGN CHOICE, log entry 27); none
where the spares cannot replace it. -/
def State.repairOne (s : State) (p : Nat) (w : Word) : Option State :=
  match failBank w with
  | none => none
  | some bank =>
    if s.sparesUsed p bank < 8 then some (s.book 3 p (bitsOf w 51 32 % 8192))
    else if s.sparesUsed p (8 + bank) < 4 then some (s.book 3 p (8192 + 1024 * bank + bitsOf w 31 22))
    else none

/-- Every failure of a run repaired, if spares can replace them all (R328). -/
def State.repair (s : State) (p : Nat) (fails : List Word) : Option State :=
  fails.foldl (fun o w => o.bind fun s => s.repairOne p w) (some s)

/-- DIAGNOSTIC_RUN_END (R327 to R329). -/
def State.diagEnd (s : State) (p : Nat) : State :=
  let b := s.block p
  let x := s.rmtOf p
  if x.state ≠ 3 ∨ b.diag.length < 24 then s
  else
    let fails := (b.diag.filter fun d => !d.2.1).map fun d => d.2.2
    let b : Block := { b with diag := [] }
    if fails.isEmpty then
      let n := b.get TST_BLK_STATE.clean_runs + 1
      if n < 16 then s.setBlock p (b.set TST_BLK_STATE.clean_runs n)
      else
        let b := ((b.clearWork.set TST_BLK_STATE.clean_runs 16).set TST_BLK_STATE.health 1).set MSH_CTL.mode 0
        let s := (s.setBlock p { b with fenced := false, resets := [] }).setRmt p { x with state := 1, lblock := 0x7FF }
        ((s.book 2 p 2).sweepCounts).showTest p
    else match (s.setBlock p b).repair p fails with
    | some s =>
      let b := (s.block p).set TST_BLK_STATE.repairs (b.get TST_BLK_STATE.repairs + fails.length)
      (((s.setBlock p (b.set TST_BLK_STATE.clean_runs 0))).blockReset p 3).1
    | none =>
      let s := (s.setBlock p (b.set TST_BLK_STATE.health 3)).setRmt p { x with state := 4, lblock := 0x7FF }
      ((s.book 1 p 0).sweepCounts).showTest p

/-- A failing manger slice's event. -/
def State.engineEvent (s : State) (e slice outcome attempt record : Nat) : State :=
  s.raise 3 e { cell := 1, code := 0xC1, outcome := outcome, attempt := attempt, detail := slice, detail2 := record }

/-- A fenced engine's slice (R330): 16 clean runs of four slices release it, a failure retires it. -/
def State.engineDiag (s : State) (k c slice : Nat) (ok : Bool) : State :=
  let e := 32 * k + c
  let retired := s.stud.any fun x => x.kind == 5 && x.place == e && x.info == 2
  let n := mget natZero s.screen.clean e
  if retired || n % 4 != slice || 64 ≤ n then s
  else if !ok then (s.book 5 e 2).onScreen fun x => { x with clean := mset natZero x.clean e 0 }
  else s.onScreen fun x => { x with clean := mset natZero x.clean e (n + 1) }

/-- The engines with 16 clean runs are released at a checkpoint stride (R330). -/
def State.releaseEngines (s : State) : State :=
  ((List.range 256).filter fun e => mget natZero s.screen.clean e == 64).foldl (fun s e =>
    let k := e / 32
    let s := s.onScreen fun x => { x with clean := mset natZero x.clean e 0 }
    (s.set (MGR_STATUS.fenced k) (s.get (MGR_STATUS.fenced k) - 2 ^ (e % 32))).book 5 e 1) s

/-- MANGER_SLICE (R316, R322): the slice, and its repeat where the first attempt failed; slice 3 runs the active pack's records of class 5. -/
def State.mangerSlice (s : State) (k c slice : Nat) (ok1 ok2 : Bool) : State :=
  let e := 32 * k + c
  let t := signed 32 (s.sensor (112 + k))
  let stage := stageOf (s.engineAge e) (s.deadline 0)
  let mustEmpty := stage < 2 || s.fencedEngine k (partner c)
  let fails := if slice = 3 then packFails s.far.pack 3 else none
  let record := fails.getD 0xFFFFFFFF
  let ok1 := ok1 && fails.isNone
  let ok := ok1 || (ok2 && fails.isNone)
  if !s.leaseFree 4 e || !(decide (0 ≤ t) && decide (t ≤ 1600)) then s
  else if s.fencedEngine k c then s.engineDiag k c slice ok
  else if stage = 0 ∨ (mustEmpty && !(s.queueOf e).isEmpty) then s
  else
    let s := if ok1 then s else (s.engineEvent e slice 5 1 record)
    if ok then
      let s := if ok1 then s else s.transient
      s.onScreen fun x => { x with engines := mset natZero x.engines (4 * e + slice) s.now }
    else (s.engineEvent e slice 2 2 record).mangerFault k c

/-- TEST_LAPSED (R314): blocks by number, manger engine e as 1,280 + e. -/
def State.testLapsed (s : State) (u : Nat) : State :=
  let late := if u < 1280 then s.stage u == 4 && (s.rmtOf u).state != 3 && (s.rmtOf u).state != 4
    else stageOf (s.engineAge (u - 1280)) (s.deadline 0) == 4
  if !late || s.screen.lapsed.contains u then s
  else
    let s := (s.onScreen fun x => { x with lapsed := u :: x.lapsed }).raise 2 0 { code := 0xB5, detail := 1, detail2 := u }
    if u < 1280 then (s.showTest u).showRegionTest (regionOf u) else s

/-- The first checkpoint stride that has not begun. -/
def State.nextCheckpoint (s : State) : Nat := (s.get CAD_STRIDE.stride / 256 + 1) * 256

/-- The spare for a swap of block `p` (R312, R315): healthy, free, its age below half the deadline. -/
def State.swapSpare (s : State) (p : Nat) : Option Nat :=
  (List.range 1280).find? fun q => regionOf q == regionOf p && s.isSpare q && !s.leased q && decide (s.stage q < 2) &&
    (s.rmtOf q).state == 1

/-- Whether block `p` comes first among its region's blocks that want a swap (R315): overdue before due, and the oldest first. -/
def State.swapFirst (s : State) (p : Nat) : Bool :=
  let waits := s.inService.filter fun q => regionOf q == regionOf p && decide (2 ≤ s.stage q) && !(s.screen.plans.any fun x => x.block == q)
  let overdue := fun q => decide (3 ≤ s.stage q)
  waits.all fun q => if overdue p == overdue q then decide (s.age q ≤ s.age p) else overdue p

/-- PLANNED_SWAP (R312, R315, R351): a due or overdue block goes onto a spare at the next checkpoint stride; flip steps 1 to 3
run before it. -/
def State.plannedSwap (s : State) (p : Nat) : State :=
  let r := regionOf p
  let at_ := s.nextCheckpoint
  if s.dev ≠ dRunning ∨ (s.rmtOf p).state ≠ 0 ∨ s.stage p < 2 ∨ ¬ s.swapFirst p ∨ (s.screen.plans.any fun x => x.block == p) ∨
      (s.screen.plans.any fun x => x.stride != at_) ∨ ¬ s.leaseFree 2 r ∨ ¬ s.leaseFree 6 0 then s
  else
    match s.swapSpare p with
    | none => s
    | some q =>
      let before := s
      let s := (s.acquire { code := 2, res := r } true).1.remountTo p q (s.lblockAt p)
      if !s.tablesForm then before else
      let s := (s.rcount r TST_RGN_SWAPS.count 1).onScreen fun x => { x with plans := x.plans ++ [⟨p, some q, at_⟩] }
      s.flipStart r

/-- The swaps of checkpoint stride `c` (R351): each block's saddlebag of c is written whole and its spare restores from it;
the blocks swapped out become spares at the flip. A flip whose steps 1 to 3 are not done by then, since another held the lease (R199), takes
the next checkpoint stride. -/
def State.runSwaps (s : State) (c : Nat) : State :=
  let mine := s.screen.plans.filter fun x => x.stride == c
  if mine.isEmpty then s
  else if s.rget 0 RGN_EPOCH.pending = 0 then
    s.onScreen fun x => { x with plans := x.plans.map fun y => if y.stride == c then { y with stride := c + 256 } else y }
  else
    let one := fun (s : State) (x : Plan) => match x.spare, s.images.committed with
      | some q, some i =>
        let s := s.shadowsOff x.block
        let b := s.block x.block
        let l := b.lblock
        let bs := (b.saddled x.block c (s.get CHP_IMG_SEQ.sequence)).2
        let s := if s.hasSaddle l then s.saddleWrite l c bs else s
        let s := s.setBlock x.block { b.clearWork with lblock := 0x7FF, saddle := none }
        s.setBlock q { (i.mount s.tiers l (s.block q)).restore s.lblockAt bs with lblock := l }
      | _, _ => s
    let s := mine.foldl one s
    let s := s.onScreen fun x => { x with plans := x.plans.filter fun y => y.stride != c }
    let moved := mine.flatMap fun x => [x.block] ++ x.spare.toList
    let s : State := { s with restarts := s.restarts ++ moved, cad := { s.cad with flipBeat := true } }
    (s.set CAD_CTL.phase 2).set CHP_RCV_STATUS.kind 4

/-- PREEMPT_IN_PLACE (R313, R352): at a checkpoint stride S whose beat is due, an overdue block with no free spare runs its
oldest slice and is restored; beat S waits for the tick of S + ⌈2,000,000 / P⌉. While synchronised the device only asks. -/
def State.preempt (s : State) (p : Nat) (pass : Bool) : State :=
  let r := regionOf p
  let c := s.get CAD_STRIDE.stride + 1
  let sync := s.get CAD_SYNC_CTL.enable == 1
  let last := mget natZero s.screen.preempted r
  let recent := last != 0 && decide (c < last + 8 * 256)
  let oldest := s.inService.all fun q => decide (s.stage q < 3) || s.swapSpare q != none || decide (s.age q ≤ s.age p)
  if s.dev ≠ dRunning ∨ (s.rmtOf p).state ≠ 0 ∨ s.stage p < 3 ∨ (s.swapSpare p).isSome then s
  else if sync && s.get TST_CHP_PREEMPT_AT.stride != c then
    s.raise 2 0 { code := 0xB5, detail := 2, detail2 := p, lblock := s.lblockAt p }
  else if c % 256 ≠ 0 ∨ ¬ s.cad.done ∨ s.cad.hold.isSome ∨ recent ∨ ¬ oldest ∨ ¬ s.sliceFit r then s
  else
    let b := s.block p
    let l := b.lblock
    let k := b.oldestSlice
    let bs := (b.saddled p c (s.get CHP_IMG_SEQ.sequence)).2
    let s := if s.hasSaddle l then s.saddleWrite l c bs else s
    let per := s.get CAD_PERIOD.current
    let tick := s.cad.anchorAt + (c + ceilDiv 2000000 per - s.cad.anchorStride) * per
    let s : State := { s with cad := { s.cad with hold := some tick } }
    let s := (s.rcount r TST_RGN_PREEMPTS.count 1).onScreen fun x => { x with preempted := mset natZero x.preempted r c }
    let s := s.set CHP_RCV_STATUS.kind 5
    let fails := if 20 ≤ k then packFails s.far.pack k else none
    if pass && fails.isNone then
      let b := (s.block p).sliceResult k 1 0 0
      let b : Block := { b.zeroSlice k with passTimes := mset natZero b.passTimes k s.now }
      let s := (s.setBlock p b).reloadAfter p k
      (s.setBlock p { (s.block p).restore s.lblockAt bs with lblock := l }).showTest p
    else
      let place := (fails.map recordPlace).getD 0
      let s := s.setBlock p ((s.block p).sliceResult k 2 1 place)
      (s.sliceEvent p 2 2 place).blockFault p 0xC1

/-- The samples of checkpoint stride `c` in a region (R317): in-service logical blocks in ascending rotation, each shadowed by
a free spare that restores from its saddlebag written whole. -/
def State.shadowSamples (s : State) (r c : Nat) : State :=
  if s.rget r TST_RGN_CFG.shadow_en = 0 then s
  else
    let every := max 1 (s.rget r TST_RGN_CFG.shadow_every)
    let acc := mget natZero s.screen.acc r + 256
    let k := acc / every
    let s := s.onScreen fun x => { x with acc := mset natZero x.acc r (acc % every) }
    let spares := (List.range 1280).filter fun q => regionOf q == r && s.isSpare q && (s.rmtOf q).state == 1 && !s.leased q &&
      decide (s.stage q < 3) && s.leaseFree 1 (q + 2048 * q)
    let ls := ((s.inService.filter fun p => regionOf p == r).map s.lblockAt).mergeSort fun a b => decide (a ≤ b)
    let last := mget natZero s.screen.rotation r
    let order := (ls.filter fun l => decide (last ≤ l)) ++ ls.filter fun l => decide (l < last)
    let n := min k spares.length
    let s := s.rcount r TST_RGN_SKIPPED.count (k - min n ls.length)
    ((order.zip spares).take n).foldl (fun s (l, q) =>
      match s.pblockOf l with
      | some p =>
        let (b, bs) := (s.block p).saddled p c (s.get CHP_IMG_SEQ.sequence)
        let s := if s.hasSaddle l then s.saddleWrite l c bs else s
        let s := s.setBlock p { b with saddle := none }
        let s := (s.acquire { code := 1, res := q + 2048 * p } true).1
        let w : Shadow := { spare := q, block := p, stride := c, since := c }
        let s := (s.shadowRestore w bs).setRmt q { s.rmtOf q with state := 5 }
        s.onScreen fun x => { x with shadows := x.shadows ++ [w], rotation := mset natZero x.rotation r (l + 1) }
      | _ => s) s

/-- The tally U of a sample whose verdict is due (R319): none before it is, `some none` where the spare has not finished 1 ms after the
block's acknowledgement. `u` is what a fault of the spare made of its tally, none for a sound one. -/
def State.shadowTally (s : State) (w : Shadow) (u : Option Word) : Option (Option Nat) :=
  let q := s.block w.spare
  match w.ackAt with
  | none => none
  | some t =>
    if q.stride.toNat = w.stride ∧ q.working ∧ q.workDone ∧ ¬ q.halted then some (some (u.getD q.tally).toNat)
    else if s.now < t + 1000000 then none
    else some none

/-- SHADOW_VERDICT (R319): the spare's tally U against the block's tally T. -/
def State.shadowVerdict (s : State) (p : Nat) (u : Option Word) : State :=
  match s.screen.shadows.find? fun w => w.block == p with
  | none => s
  | some w =>
    match s.shadowTally w u with
    | none => s
    | some un =>
      let tal := (mget (fun _ => 0) (s.block p).tallies w.stride).toNat
      let r := regionOf p
      (
        match w.first with
        | none =>
          if un = some tal then
            ((s.rcount r TST_RGN_SHADOWS.count 1).onScreen fun x => { x with cleanAt := mset natZero x.cleanAt p w.stride }).shadowOver w
          else
            let again := fun (x : Shadow) => if x == w then { w with first := some (un, tal), ackAt := none } else x
            (s.onScreen fun x => { x with shadows := x.shadows.map again }).startRecovery { kind := 3 } r id
        | some (_, tal0) =>
          let s := s.rcount r TST_RGN_SHADOWS.count 1
          if un = some tal then
            let s := s.transient.shadowOver w
            if tal = tal0 then s else s.suspect false 0 (s.lblockAt p) p (s.suspectFrom p) w.stride
          else
            let s := (s.shadowOver w).lasting 2 w.spare 0
            (s.quarantine w.spare 0).blockFault p 0)

/-- The units of the chip sweep (R331) with their ages and deadlines. -/
def State.sweepUnits (s : State) : List (Nat × Nat) :=
  ((List.range 1280).filter fun p => (s.rmtOf p).state != 3 && (s.rmtOf p).state != 4).map (fun p => (s.age p, s.deadline (regionOf p))) ++
    ((List.range 256).filter fun e => !s.fencedEngine (e / 32) (e % 32)).map fun e => (s.engineAge e, s.deadline 0)

/-- TST_CHP_SWEEP: coverage in basis points and the largest age. -/
def State.showSweep (s : State) : State :=
  let us := s.sweepUnits
  let n := us.length
  let ok := (us.filter fun x => decide (x.1 < x.2)).length
  let d := us.foldl (fun a x => max a x.1) 0
  (s.set TST_CHP_SWEEP.coverage_bp (if n = 0 then 0 else 10000 * ok / n)).set TST_CHP_SWEEP.duration_ms (min 0xFFFFFFFF (d / 1000000))

/-- A clean chip sweep enters the stud book (R331, R295). -/
def State.cleanSweep (s : State) (start : Nat) : State :=
  let s := (s.book 7 0 (s.now - start)).onScreen fun x => { x with sweepAt := some start }
  { s with far := { s.far with railBreak := false } }

/-- CHIP_SWEEP_RECORD (R331). -/
def State.sweepRecord (s : State) : State :=
  let s := s.showSweep
  let d := s.sweepUnits.foldl (fun a x => max a x.1) 0
  let recent := (s.stud.filter fun x => x.kind == 7).any fun x => decide (s.now < x.at_ + 60000000000)
  let bad : Bool := match s.screen.lastingAt with | some t => decide (s.now ≤ t + d) | none => false
  if s.get TST_CHP_SWEEP.coverage_bp != 10000 || recent || bad then s else s.cleanSweep (s.now - d)

end Sys2Proof.Machine
end

