-- ==== Sys2Proof/Machine/Ports.lean ====
section
/-! DEFINITION. Trace ports, fabric ports, and the release of output frames (R28, R54, R372 to R374, R402 to R407). -/

namespace Sys2Proof.Machine

/-- Change port `i`. -/
def State.onPort (s : State) (i : Nat) (f : Port → Port) : State := s.setPort i (f (s.port i))

/-- The ones' complement sum of the 16-bit words of bytes, as Internet checksums take it. -/
def inetSum (bs : List Byte) : Nat :=
  let t := (chunks 2 bs.length bs).foldl (fun a w => a + beNat (sliceZ w 0 2)) 0
  let f := fun n => n % 65536 + n / 65536
  f (f (f t))

/-- The checksum field for bytes. -/
def inetCheck (bs : List Byte) : Nat := 65535 - inetSum bs

/-- The big-endian number of bytes at an offset. -/
def beAt (bs : List Byte) (a n : Nat) : Nat := beNat (sliceZ bs a n)

/-- The lengths and checksums that a template's flags select (R404): bit 0 IPv4, bit 1 IPv6, bit 2 UDP. -/
def fillFrame (bs : List Byte) (flags ip : Nat) : List Byte :=
  let n := bs.length
  let hl := beAt bs ip 1 % 16 * 4
  let bs := if nbit flags 0 then
      let b := putAt (putAt bs (ip + 2) (beBytes 2 (n - ip))) (ip + 10) [0, 0]
      putAt b (ip + 10) (beBytes 2 (inetCheck (sliceZ b ip hl)))
    else if nbit flags 1 then putAt bs (ip + 4) (beBytes 2 (n - ip - 40)) else bs
  if !nbit flags 2 then bs
  else
    let v4 := nbit flags 0
    let u := if v4 then ip + hl else ip + 40
    let b := putAt (putAt bs (u + 4) (beBytes 2 (n - u))) (u + 6) [0, 0]
    let addrs := if v4 then sliceZ b (ip + 12) 8 else sliceZ b (ip + 8) 32
    let pseudo := addrs ++ beBytes 4 17 ++ beBytes 4 (n - u)
    let c := inetCheck (pseudo ++ b.drop u)
    putAt b (u + 6) (beBytes 2 (if c = 0 then 65535 else c))

/-- Whether a stride is in doubt after a failover (R380). -/
def State.inDoubt (s : State) (n : Nat) : Bool :=
  match s.twin.doubt with
  | some (a, b) => decide (a ≤ n) && decide (n ≤ b)
  | none => false

/-- Whether frames carry the release stamp (R374). -/
def State.stamps (s : State) : Bool := s.pairedIn 1 || s.pairedIn 2

/-- The release stamp of a message's frame, the repeat bit aside (R374). -/
def stampOf (k : Pkt) (n : Nat) : Nat := k.srcidx % 2048 * 2 ^ 52 + k.tag % 65536 * 2 ^ 36 + n % 2 ^ 36

/-- The output frame of a MESSAGE at Trace port `i` (R404, R405): none where its length or its template's is out of range. -/
def State.outFrame (s : State) (i : Nat) (k : Pkt) : Option OutFrame :=
  let n := s.tagStride k.tag
  let st := if s.stamps || s.inDoubt n then stampOf k n else 0
  if s.get (CMD_TRACE_CTL.mode i) = 0 then
    some { stride := n, stamp := st, stampAt := none, fabric := true, flags := 0, ip := 0, bytes := k.payload }
  else
    let t := sliceZ (s.port i).templates (128 * (k.qid % 64)) 128
    let l := leAt k.payload 0 2
    let h := leAt t 120 1
    if l = 0 ∨ 2046 < l ∨ h < 14 ∨ 120 < h then none
    else
      let bs := t.take h ++ sliceZ k.payload 2 l
      let off := s.get TWN_CTL.stamp_off
      let at_ := if (s.stamps || s.inDoubt n) && off != 0 && decide (off + 8 ≤ bs.length) then some off else none
      some { stride := n, stamp := st, stampAt := at_, fabric := false, flags := leAt t 121 1, ip := leAt t 122 1, bytes := bs }

/-- A frame leaves its port, with its stamp and checks; one that left before the recovery in progress is suppressed (R28). -/
def State.sendFrame (s : State) (i : Nat) (f : OutFrame) : State :=
  let x := s.port i
  if x.skip.contains f then s.setPort i { x with skip := x.skip.erase f }
  else
    let s := s.setPort i { x with sent := x.sent ++ [f] }
    let st := f.stamp + (if s.inDoubt f.stride then 2 ^ 63 else 0)
    if f.fabric then s.fabSend i (Config.outputPeer i) fOUTPUT st 0 f.bytes
    else
      let bs := match f.stampAt with
        | some a => putAt f.bytes a (leBytes 8 st)
        | none => f.bytes
      s.emit i (fillFrame bs f.flags f.ip)

/-- Whether the frames of stride `n` may leave now: under checked release one stride at a time (R372, R373). -/
def State.sendable (s : State) (n : Nat) : Bool :=
  s.mayRelease n && (!s.checked || n == s.get CHP_RCV_RELEASED.stride + 1)

/-- The held frames of the strides that a test allows leave, port by port. -/
def State.sendHeld (s : State) (ok : Nat → Bool) : State :=
  (List.range 8).foldl (fun s i =>
    let x := s.port i
    let go := x.held.filter fun f => ok f.stride
    go.foldl (fun s f => s.sendFrame i f) (s.setPort i { x with held := x.held.filter fun f => !ok f.stride })) s

/-- Strides are released in ascending order (R373): when the last frame of the next one has left, the done mark follows. -/
def State.pumpSteps : Nat → State → State
  | 0, s => s
  | k + 1, s =>
    let n := s.get CHP_RCV_RELEASED.stride + 1
    let acked := match s.dispatch.acked with | some a => decide (n ≤ a) | none => false
    if !acked || !s.mayRelease n then s
    else
      let s := s.sendHeld fun m => m == n
      if !s.outputsLeft n then s
      else
        let s := s.set CHP_RCV_RELEASED.stride n
        let s := if s.get TWN_STATUS.role = 2 ∧ s.twState = 2 then s else s.set TWN_DONE.value n
        let s : State := { s with ports := s.ports.map fun (i, x) => (i, { x with sent := x.sent.filter fun f => decide (n < f.stride) }) }
        State.pumpSteps k s

/-- What may leave leaves. -/
def State.pump (s : State) : State :=
  let n := match s.dispatch.acked with | some a => a + 1 - s.get CHP_RCV_RELEASED.stride | none => 0
  let s := s.pumpSteps n
  if s.checked then s else s.sendHeld s.sendable

/-- The hold store of a port's endpoint in bytes (R372). -/
def State.heldBytes (s : State) (i : Nat) : Nat := (s.port i).held.foldl (fun a f => a + f.bytes.length) 0

/-- OUTPUT_FRAME (R28, R372, R374, R404): the oldest message at the port's endpoint becomes a frame, which leaves or is held; a
stride released before is suppressed. -/
def State.outputFrame (s : State) (i : Nat) : State :=
  let u := 1376 + i
  let m := s.unit u
  match takeFirst (fun k : Pkt => k.kind == kMESSAGE) m.inbox with
  | none => s
  | some (k, rest) =>
    if s.gated || s.get (CMD_TRACE_CTL.enable i) == 0 || !(s.port i).up || (s.checked && decide (2 ^ 20 < s.heldBytes i + k.payload.length + 120)) then s
    else
      let s := s.setUnit u (({ m with inbox := rest } : MeshUnit).answered k 0 0)
      match s.outFrame i k with
      | none => s.pump
      | some f =>
        if s.hasJob && decide (f.stride ≤ s.get CHP_RCV_RELEASED.stride) then s.pump
        else if s.sendable f.stride then (s.sendFrame i f).pump
        else (s.onPort i fun x => { x with held := x.held ++ [f] }).pump

/-- A ring's entries; 0 where its size leaves it unserved (R408). -/
def ringSize (lo hi lg : Nat) : Nat := if lo ≤ lg ∧ lg ≤ hi then 2 ^ lg else 0

/-- FRAME_TRANSMIT (R403): the next slot of an Ethernet/IP port's transmit ring. -/
def State.frameTransmit (s : State) (i : Nat) : State :=
  let n := ringSize 6 14 (s.get (CMD_TRACE_TX.lg_size i))
  let tail := s.get (CMD_TRACE_TXTAIL.index i)
  if s.gated || s.get (CMD_TRACE_CTL.enable i) == 0 || s.get (CMD_TRACE_CTL.mode i) == 0 || !(s.port i).up || n == 0 ||
      s.get (CMD_TRACE_TX.enable i) == 0 || tail % n == s.get (CMD_TRACE_TXHEAD.index i) % n then s
  else
    let slot := s.tiers.bytesAt 2 (s.get (CMD_TRACE_TX.base i) + tail % n * 10240) 10240
    (s.set (CMD_TRACE_TXTAIL.index i) ((tail + 1) % n)).emit i (sliceZ slot 64 (min (leAt slot 0 2) 9216))

/-- FRAME_RECEIVE (R402, R403): a frame arrives at an Ethernet/IP port. -/
def State.frameReceive (s : State) (i : Nat) (bytes : List Byte) (fcsOk : Bool) : State :=
  let n := ringSize 6 14 (s.get (CMD_TRACE_CTL.lg_size i))
  let head := s.get (CMD_TRACE_RXHEAD.index i)
  if s.get (CMD_TRACE_CTL.enable i) = 0 ∨ s.get (CMD_TRACE_CTL.mode i) = 0 ∨ !(s.port i).up then s
  else if !fcsOk then s.count (CMD_TRACE_DROP.count i) 1
  else if bytes.length < 64 ∨ 9216 < bytes.length then s
  else if n = 0 ∨ (head + 1) % n = s.get (CMD_TRACE_RXTAIL.index i) % n then s.count (CMD_TRACE_DROP.count i) 1
  else
    let a := s.get (CMD_TRACE_CTL.rx_base i) + head % n * 10240
    let pre := leBytes 2 bytes.length ++ List.replicate 6 0 ++ leBytes 8 s.now ++ leBytes 8 (s.get CAD_STRIDE.stride) ++ List.replicate 40 0
    let s := if s.tiers.ddrOk a then s.setTiers (s.tiers.putLines 2 a (padTo 64 (pre ++ bytes))) else s
    s.set (CMD_TRACE_RXHEAD.index i) ((head + 1) % n)

/-- The template table of a port is read again (R404). -/
def State.loadTemplates (s : State) (i : Nat) : State :=
  let bs := s.tiers.bytesAt 2 (s.get (CMD_TRACE_TPL.addr i)) 8192
  s.onPort i fun x => { x with templates := bs }

/-- TEMPLATE_RELOAD (R404): a write of CMD_TRACE_TPL. -/
def State.writeTemplates (s : State) (i : Nat) (v : Word) : State := (s.set (CMD_TRACE_TPL.addr i) (bitsOf v 42 0)).loadTemplates i

/-- Whether a port carries SYNC (R54). -/
def State.carriesSync (s : State) (i : Nat) : Bool := if i < 8 then s.fabricUp i else (s.port i).up

/-- The follower's port cannot carry SYNC any more, or still cannot (R54): lock is dropped and event 0xB2 raised. -/
def State.noSyncPort (s : State) : State :=
  if s.get CAD_SYNC_CTL.enable = 0 ∨ s.get CAD_SYNC_CTL.role = 1 ∨ s.get CAD_SYNC_STATUS.noport = 1 ∨
      s.carriesSync (s.get CAD_SYNC_CTL.port) = true then s
  else
    let s : State := { s with cad := { s.cad with missing := s.get CAD_SYNC_STATUS.locked == 1, good := 0 } }
    ((s.set CAD_SYNC_STATUS.locked 0).set CAD_SYNC_STATUS.noport 1).raise 2 0 { code := 0xB2, detail := s.get CAD_SYNC_STATUS.offset }

/-- TRACE_CTL_WRITE (R402, R404): mode changes only in Held or Ready; enabling reads the templates. -/
def State.writeTraceCtl (s : State) (i : Nat) (v : Word) : State :=
  let was := s.get (CMD_TRACE_CTL.enable i)
  let mode := bitsOf v 62 62
  let may := s.dev == dHeld || s.dev == dReady
  let refused := mode != s.get (CMD_TRACE_CTL.mode i) && !may
  let s := (((s.set (CMD_TRACE_CTL.enable i) (bitsOf v 63 63)).set (CMD_TRACE_CTL.lg_size i) (bitsOf v 55 52)).set
    (CMD_TRACE_CTL.rx_base i) (bitsOf v 42 0))
  let s := if bitsOf v 61 61 = 1 then s.set (CMD_TRACE_CTL.mode_refused i) 0 else s
  let s := if refused then (s.set (CMD_TRACE_CTL.mode_refused i) 1).raise 2 0 { code := 0xBD, detail := CMD_TRACE_CTL.off i, detail2 := 4 }
    else s.set (CMD_TRACE_CTL.mode i) mode
  let s := if was = 0 ∧ bitsOf v 63 63 = 1 then s.loadTemplates i else s
  s.noSyncPort

/-- A fabric frame's fields (R405): type, source, destination, sequence number, acknowledgement, ident and payload; none where
it is no fabric frame. -/
def fabParse (bs : List Byte) : Option (Nat × Nat × Nat × Nat × Nat × Nat × List Byte) :=
  let h := bs.drop 14
  if sliceZ bs 12 2 ≠ [0x88#8, 0xB5#8] ∨ leAt h 0 1 ≠ 1 ∨ h.length < 32 then none
  else some (leAt h 1 1, leAt h 2 2, leAt h 4 2, leAt h 8 4, leAt h 12 4, leAt h 24 8, (h.drop 32).take (leAt h 6 2))

/-- FABRIC_FRAME_RECEIVE (R405): frames of a peer are taken in their order and acknowledged; the content of a yoke message
comes by its own command. -/
def State.fabReceive (s : State) (i : Nat) (bytes : List Byte) (fcsOk : Bool) : State :=
  if !s.carriesSync i then s
  else if !fcsOk then if i < 8 then s.count (CMD_TRACE_DROP.count i) 1 else s
  else
    match fabParse bytes with
    | none => s
    | some (type, src, dst, seq, ack, ident, payload) =>
      if dst ≠ s.get CMD_NODE.node then s
      else
        let done := fun (f : FabFrame) => f.peer == src && decide ((ack + 2 ^ 32 - f.seq) % 2 ^ 32 < 2 ^ 31)
        let s := s.onPort i fun x => { x with unacked := x.unacked.filter fun f => !done f, dead := x.dead.filter fun n => n != src }
        if type = fACK then s
        else if (mget natZero (s.port i).rx src + 1) % 2 ^ 32 ≠ seq then s.fabAck i src type
        else
          let s := s.onPort i fun x => { x with rx := mset natZero x.rx src seq }
          let s := s.fabAck i src type
          if type = fREMOTE_REPLY then s.remoteBack i src (ident % 256) payload
          else if type = fREMOTE_READ ∨ type = fREMOTE_WRITE ∨ type = fPEER_RESET then
            s.onPort i fun x => { x with inbox := x.inbox ++ [⟨type, src, ident, payload⟩] }
          else s

/-- FABRIC_RETRANSMIT (R25, R405): the peer's oldest frame not acknowledged for 10 µs goes again; after 8 sends the peer is
unreachable on the port, and its remote accesses move. -/
def State.fabRetransmit (s : State) (i peer : Nat) : State :=
  let x := s.port i
  match x.unacked.find? fun f => f.peer == peer with
  | none => s
  | some f =>
    if s.now < f.sentAt + 10000 ∨ !x.up ∨ !s.mayEmit (leAt f.bytes 15 1) then s
    else if f.sends < 8 then
      let again := fun (y : FabFrame) => if y == f then { y with sends := y.sends + 1, sentAt := s.now } else y
      (s.setPort i { x with unacked := x.unacked.map again }).emit i f.bytes
    else
      let mine := x.remote.filter fun r => r.node == peer
      let s := s.setPort i { x with
        unacked := x.unacked.filter fun y => y.peer != peer, remote := x.remote.filter fun r => r.node != peer,
        dead := peer :: x.dead }
      mine.foldl (fun s r => s.remoteOr i r) s

/-- REMOTE_REQUEST (R405): a Banatas refuses a remote access with status 1. -/
def State.remoteRequest (s : State) (i : Nat) : State :=
  let x := s.port i
  match takeFirst (fun f : FabIn => f.type == fREMOTE_READ || f.type == fREMOTE_WRITE) x.inbox with
  | none => s
  | some (f, rest) => (s.setPort i { x with inbox := rest }).fabSend i f.src fREMOTE_REPLY 0 1 []

/-- A PEER_RESET frame that a port holds. -/
def State.peerResetFrame (s : State) : Option (Nat × FabIn) :=
  (List.range 10).findSome? fun i => ((s.port i).inbox.find? fun f => f.type == fPEER_RESET).map fun f => (i, f)

end Sys2Proof.Machine
end

