-- ==== Sys2Proof/Machine/Twins.lean ====
section
/-! DEFINITION. Twin pairs: the attestation index, pairing, comparison, mismatch, detach and rejoin (R364 to R384, R424). -/

namespace Sys2Proof.Machine

/-- FAR_LMS follows the attestation index (R424, R431). -/
def State.showLms (s : State) : State :=
  let q := s.fuses.lms * 2 ^ 20 + s.far.flashCount - s.far.reserved
  (((s.set FAR_LMS.q (min q (2 ^ 30))).set FAR_LMS.left s.far.reserved).set FAR_LMS.fuses s.fuses.lms).set FAR_LMS.exhausted
    (b2n (decide (2 ^ 30 ≤ q)))

/-- The next 4,096 attestation indices are reserved (R424): a fuse is blown where the count would pass 2^20. -/
def State.reserveIndices (s : State) : State :=
  let past := decide (2 ^ 20 < s.far.flashCount + 4096)
  let lms := if past ∧ s.fuses.lms < 1024 then s.fuses.lms + 1 else s.fuses.lms
  ({ s with fuses := { s.fuses with lms := lms },
            far := { s.far with flashCount := (if past then 0 else s.far.flashCount) + 4096, reserved := 4096 } } : State)

/-- One attestation index is used (R424): none once 2^30 are used or the seed is gone (R429). -/
def State.takeIndex (s : State) : State × Option Nat :=
  if s.far.seedGone then (s, none)
  else
    let s := if s.far.reserved = 0 then s.reserveIndices else s
    let q := s.fuses.lms * 2 ^ 20 + s.far.flashCount - s.far.reserved
    if 2 ^ 30 ≤ q ∨ 1024 ≤ s.fuses.lms then (s.showLms, none)
    else (({ s with far := { s.far with reserved := s.far.reserved - 1 } } : State).showLms, some q)

/-- TWN_YOKE shows the ports and the TWIN_DET pins. -/
def State.showYoke (s : State) : State :=
  let up := s.yokes.foldl (fun a j => a + 2 ^ j) 0
  (s.set TWN_YOKE.up up).set TWN_YOKE.det s.twin.det

/-- Pairing results (R367, R379). -/
def pairNO_PEER : Nat := 1
def pairATTEST : Nat := 2
def pairIMAGE : Nat := 3
def pairMODE : Nat := 4
def pairROLE : Nat := 5
def pairSTATE : Nat := 6
def pairSYNC : Nat := 7
def pairCANCELLED : Nat := 8

/-- A pairing or rejoin ends: the twin returns to the state it held before (R367, R379). -/
def State.pairEnd (s : State) (result : Nat) : State :=
  let s := if s.twState = twREJOINING then s.release 7 0 else s
  let before := s.twin.before
  let s := s.onTwin fun t => { t with peer := none, nonceSent := false, nonceGot := [], attested := false, copying := false, rejoinAt := none }
  (s.set TWN_STATUS.state before).set TWN_STATUS.result result

/-- The committed image, and its TWIN section (R271). -/
def State.twinSection (s : State) : List Byte :=
  match s.images.committed with
  | some i => sliceZ (i.part 4 0 0xFFFF) 0 64
  | none => List.replicate 64 0

/-- The role that R368 chooses; none where both prefer the same. -/
def chooseRole (mine theirs : Nat) (lower : Bool) : Option Nat :=
  let mine := if mine = 3 then 0 else mine
  let theirs := if theirs = 3 then 0 else theirs
  if mine = 0 ∧ theirs = 0 then some (if lower then 1 else 2)
  else if mine = theirs then none
  else if mine = 0 then some (3 - theirs)
  else some mine

/-- The pair is made (R367 step 9, R370). -/
def State.paired (s : State) : State :=
  let mode := match s.images.committed with | some i => i.twinMode | none => 0
  let chk := match s.images.committed with | some i => i.checkedRelease | none => false
  let s := s.onTwin fun t => { t with
    peer := none, nonceSent := false, nonceGot := [], attested := false, bad := none, suspects := [], guilty := none, btally := [],
    peerRecovering := false, peerC0 := none, doubt := none }
  ((((s.set TWN_STATUS.state twPAIRED).set TWN_STATUS.mode mode).set TWN_STATUS.checked (b2n (chk && mode == 1))).set TWN_STATUS.result 0)

/-- The bytes of an ADMIT's input in its tier (R389, R394). -/
def State.inputBytes (s : State) (c : Cmd) : List Byte := s.tiers.lines c.tier c.addr c.lines

/-- The near twin tells its partner of an admission (R371), with the payload in Standby and during a rejoin (R366, R382). -/
def State.tellAdmit (s : State) (c : Cmd) (a : Nat) : State :=
  let near := s.get TWN_STATUS.role == 1
  let rejoin := s.twState == twREJOINING && s.twin.before == twALONE
  if !((s.twinned && near) || rejoin) then s
  else
    let bs := s.inputBytes c
    let s := s.yokeSend yADMIT [c.ident, a, bs.length, (crc64 bs).toNat] []
    if s.pairedIn 2 || rejoin then s.yokeSend yINPUT [c.ident] bs else s

/-- Rejoin step 1 (R382): every line of the Live areas, and of the Sourced areas without a source, goes to the rejoiner. -/
def State.copyAreas (s : State) : State :=
  match s.images.committed with
  | none => s
  | some i =>
    let areas := i.areas.filter fun a => a.cls == 1 || (a.cls == 0 && a.srcTier == 0)
    areas.foldl (fun s a => (List.range (a.len / 64)).foldl (fun s j =>
      s.yokeSend yWRITE [a.tier, a.start + 64 * j] (s.tiers.line a.tier (a.start + 64 * j))) s) s

/-- The remaining twin starts a rejoin (R382 steps 1 and 2): it takes the twin-resync lease, copies, names C_r, and tells of the inputs
admitted from there on. -/
def State.rejoinCopy (s : State) : State :=
  let s := (s.acquire { code := 7, res := 0 } false).1
  let s := (s.onTwin fun t => { t with copying := true }).copyAreas
  let c := (s.begun / 256 + 1) * 256
  let s := s.onTwin fun t => { t with rejoinAt := some c }
  (s.dispatch.work.filter fun w => w.cmd.op == 2 && decide (c ≤ w.a)).foldl (fun s w => s.tellAdmit w.cmd w.a) s

/-- Pairing step 8 is done on this twin (R367, R382): the off twin tells its partner. -/
def State.pairLocked (s : State) : State :=
  if s.twState = twPAIRING then s.paired
  else if s.twState = twREJOINING ∧ s.twin.before = twALONE then s.rejoinCopy
  else s

/-- Pairing steps 4 to 8 once both have attested (R367, R368): the first that fails gives the result. -/
def State.pairCheck (s : State) : State :=
  match s.twin.peer with
  | none => s
  | some p =>
    if !s.twin.attested then s
    else
      let i := s.images.committed
      let digest := match i with | some i => beNat i.digest | none => 0
      let role := chooseRole (s.get TWN_CTL.role_pref) p.pref (decide (Config.identity.toNat < p.identity))
      let rejoin := s.twState == twREJOINING
      if p.sequence ≠ s.get CHP_IMG_SEQ.sequence ∨ p.digest ≠ digest then s.pairEnd pairIMAGE
      else if p.twin ≠ s.twinSection ∨ leAt p.twin 0 1 = 0 then s.pairEnd pairMODE
      else
        match (if rejoin then some (if s.twin.before = twALONE then 1 else 2) else role) with
        | none => s.pairEnd pairROLE
        | some r =>
          if !rejoin && (s.dev != dReady || !p.ready) then s.pairEnd pairSTATE
          else
            let port := 8 + (s.yokes.headD 0)
            let s := ((s.set CAD_SYNC_CTL.enable 1).set CAD_SYNC_CTL.role (if r = 1 then 1 else 0)).set CAD_SYNC_CTL.port port
            let s := s.set CAD_SYNC_STATUS.noport 0
            (s.set TWN_STATUS.role r).onTwin fun t => { t with since := s.now }

/-- This twin's nonce goes to the partner (R367 step 3). -/
def State.sendNonce (s : State) : State :=
  if s.twin.nonceSent then s
  else
    let n := sliceZ (Config.nonce s.freeCtr) 0 32
    (({ s with freeCtr := s.freeCtr + 1 } : State).onTwin fun t => { t with nonceSent := true }).yokeSend yATTEST [0] n

/-- This twin's signature over the partner's nonce (R367 step 3, R424). -/
def State.sendSignature (s : State) : State :=
  if s.twin.nonceGot.isEmpty then s
  else
    match s.takeIndex with
    | (s, none) => s.pairEnd pairATTEST
    | (s, some q) =>
      let sig := Config.signature q s.freeCtr s.twin.nonceGot
      ({ s with freeCtr := s.freeCtr + 1 } : State).yokeSend yATTEST [1] sig

/-- This twin's HELLO (R366). -/
def State.sendHello (s : State) : State :=
  let digest := match s.images.committed with | some i => i.digest | none => List.replicate 32 0
  s.yokeSend yHELLO [Config.identity.toNat, s.fuses.variant, s.get CHP_IMG_SEQ.sequence]
    (digest ++ s.twinSection ++ leBytes 1 (s.get TWN_CTL.role_pref) ++ leBytes 1 (b2n (s.dev == dReady)))

/-- Pairing or a rejoin starts (R367 steps 1 and 2). -/
def State.pairStart (s : State) (state : Nat) : State :=
  let s := s.onTwin fun t => { t with before := s.twState, since := s.now, nonceSent := false, nonceGot := [], attested := false }
  let s := (s.set TWN_STATUS.state state).set TWN_STATUS.result 0
  if s.yokes.isEmpty || s.twin.det == 0 then s.pairEnd pairNO_PEER
  else
    let s := s.sendHello
    if s.twin.peer.isSome then s.sendNonce else s

/-- TWIN_PAIR, TWN_CTL op 1 (R367). -/
def State.twinPair (s : State) : State :=
  let st := s.twState
  if s.dev ≠ dReady ∨ s.images.committed.isNone ∨ st = twPAIRING ∨ st = twPAIRED ∨ st = twREJOINING ∨ s.get FAR_SCAN.openS = 1 then s
  else s.pairStart twPAIRING

/-- TWIN_REJOIN, TWN_CTL op 3 (R382): the detached twin in Ready, the remaining one wherever it runs. -/
def State.twinRejoin (s : State) : State :=
  if s.images.committed.isNone || s.get FAR_SCAN.openS == 1 then s
  else if s.twState = twDETACHED ∧ s.dev = dReady then s.pairStart twREJOINING
  else if s.twState = twALONE ∧ (s.dev = dReady ∨ s.dev = dRunning) then s.pairStart twREJOINING
  else s

/-- HELLO (R366, R367). -/
def State.hello (s : State) (m : HelloMsg) : State :=
  let p : Peer := { identity := m.identity.toNat, variant := m.variantId.val, sequence := m.sequence.toNat, digest := m.digest,
                    twin := sliceZ m.twin 0 64, pref := m.rolePref.val, ready := m.ready }
  let s := (s.onTwin fun t => { t with peer := some p }).set TWN_PEER.value m.identity.toNat
  if s.twState = twPAIRING ∨ s.twState = twREJOINING then s.sendNonce else s

/-- YOKE_ATTEST (R367 step 3): the partner's nonce, or its signature and whether it and its chain verify. -/
def State.yokeAttest (s : State) (nonce : Bool) (bytes : List Byte) (valid : Bool) : State :=
  if s.twState ≠ twPAIRING ∧ s.twState ≠ twREJOINING then s
  else if nonce then (s.onTwin fun t => { t with nonceGot := sliceZ bytes 0 32 }).sendSignature
  else if !valid then s.pairEnd pairATTEST
  else (s.onTwin fun t => { t with attested := true }).pairCheck

/-- PAIRING_TIMEOUT (R367): 1 s without a HELLO, or 10 s without lock. -/
def State.pairingTimeout (s : State) : State :=
  if s.twState ≠ twPAIRING ∧ s.twState ≠ twREJOINING then s
  else if s.twin.copying || s.twin.rejoinAt.isSome then s
  else if s.twin.attested then
    if s.twin.since + 10000000000 ≤ s.now then s.pairEnd pairSYNC else s
  else if s.twin.peer.isNone ∧ s.twin.since + 1000000000 ≤ s.now then s.pairEnd pairNO_PEER else s

/-- DETACH_SELF, TWN_CTL op 5 (R377): a paired twin detaches with cause 5. -/
def State.detachSelf (s : State) : State := if s.twState = twPAIRED then s.detach 5 else s

/-- The module is unpaired; a job that ran in Split goes on in Solo, which raises an event (R369, R379). -/
def State.unpaired (s : State) : State :=
  let s := if s.hasJob && s.twState == twPAIRED then s.twinEvent 0 else s
  (s.solo twUNPAIRED).set TWN_STATUS.role 0

/-- TWIN_UNPAIR, TWN_CTL op 2 (R379). -/
def State.twinUnpair (s : State) : State :=
  if s.dev ≠ dReady ∧ s.dev ≠ dRunning ∧ s.dev ≠ dRecovering then s
  else
    let st := s.twState
    if st = twPAIRING ∨ st = twREJOINING then (s.say sayUNPAIR 0).pairEnd pairCANCELLED
    else if st = twPAIRED then
      let mode := s.get TWN_STATUS.mode
      if s.hasJob ∧ (mode = 1 ∨ mode = 2) then
        if s.get TWN_STATUS.role = 2 then (s.say sayUNPAIR 0).detach 5 else ((s.say sayUNPAIR 0).alone 5).pump
      else (s.say sayUNPAIR 0).unpaired
    else if st = twALONE ∨ st = twDETACHED then (s.say sayUNPAIR 0).unpaired
    else s

/-- The tally that a twin keeps for a stride (R372). -/
def tallyOf (xs : Cells Word) (n : Nat) : Option Word := (xs.find? fun x => x.1 == n).map Prod.snd

/-- The strides whose tallies a twin still needs: the last 1,024, or from C_r on during a rejoin (R382). -/
def State.keepTallies (s : State) : State :=
  let now := s.get CAD_STRIDE.stride
  let from_ := match s.twin.rejoinAt with | some c => min c (now - 1024) | none => now - 1024
  let keep := fun (xs : Cells Word) => xs.filter fun x => decide (from_ ≤ x.1)
  s.onTwin fun t => { t with mine := keep t.mine, theirs := keep t.theirs }

/-- B_n of every logical block goes to the partner (R366, R375). -/
def State.sendBtally (s : State) (n : Nat) : State :=
  let b := fun l => match s.pblockOf l with
    | some p => (mget (fun _ => 0) (s.block p).tallies n).toNat
    | none => 0
  s.yokeSend yBTALLY ((List.range 1200).map b) []

/-- A suspected block is shadowed from C0 on in the third replay (R318, R376), where its region has a free spare. -/
def State.shadowSuspect (s : State) (n l : Nat) : State :=
  match s.pblockOf l with
  | none => s
  | some p =>
    let free := (List.range 1280).find? fun q => regionOf q == regionOf p && s.isSpare q && (s.rmtOf q).state == 1 && !s.leased q
    match free with
    | none => s
    | some q =>
      let s := (s.acquire { code := 1, res := q + 2048 * p } true).1
      let s := s.setRmt q { s.rmtOf q with state := 5 }
      s.onScreen fun x => { x with shadows := x.shadows ++ [{ spare := q, block := p, stride := n, since := s.rcv.from_ }] }

/-- Both twins' block tallies of stride n are at hand (R375, R376): the blocks that differ are shadowed and the third replay
starts. -/
def State.btallyCheck (s : State) : State :=
  match s.twin.bad with
  | some (n, 2) =>
    if s.twin.btally.isEmpty then s
    else
      let differ := (List.range 1200).filter fun l =>
        match s.pblockOf l with
        | some p => (mget (fun _ => 0) (s.block p).tallies n).toNat != s.twin.btally.getD l 0
        | none => s.twin.btally.getD l 0 != 0
      let s := s.onTwin fun t => { t with suspects := differ, btally := [], bad := some (n, 3) }
      let s := s.startRecovery { kind := 3 } 0 id
      if s.dev = dRecovering then differ.foldl (fun s l => s.shadowSuspect n l) s else s
  | _ => s

/-- A twin with a lasting fault detaches with cause 1, its block in quarantine (R376 rules 1 and 2). -/
def State.convict (s : State) (p : Nat) : State := ((s.lasting 0 p 0).quarantine p 0).detach 1

/-- A shadow's tally in the third replay of a mismatch (R376): the off twin that disagrees with its own block detaches at once;
the near twin waits for the comparison. -/
def State.twinVerdict (s : State) (w : Shadow) (u : Option Nat) : State :=
  let tal := (mget (fun _ => 0) (s.block w.block).tallies w.stride).toNat
  let s := s.shadowOver w
  if u = some tal then s
  else if s.get TWN_STATUS.role = 2 then s.convict w.block
  else s.onTwin fun t => { t with guilty := some w.block }

/-- SHADOW_VERDICT (R319, R376). -/
def State.anyVerdict (s : State) (p : Nat) (u : Option Word) : State :=
  match s.twin.bad, s.screen.shadows.find? fun w => w.block == p && s.twin.suspects.contains (s.lblockAt p) with
  | some (_, 3), some w =>
    match s.shadowTally w u with
    | some un => s.twinVerdict w un
    | none => s
  | _, _ => s.shadowVerdict p u

/-- The partner has gone: a near twin that has a block with a lasting fault recovers from it (R376 rule 2), and an off twin that recovers
fails over when its recovery is done (R383). -/
def State.partnerGone (s : State) (cause : Nat) : State :=
  if s.get TWN_STATUS.role = 2 ∧ s.dev = dRecovering then s.onTwin fun t => { t with gone := t.gone <|> some cause }
  else
    match s.twin.guilty with
    | some p => ((s.alone cause).blockFault p 0).pump
    | none => (s.alone cause).pump

/-- TWN_CTL op 4, and PARTNER_DOWN by any way (R377, R378): the remaining twin records cause 6. -/
def State.partnerDown (s : State) : State := if s.twState = twPAIRED then s.partnerGone 6 else s

/-- Comparison of stride n matches (R372, R373, R375). -/
def State.matched (s : State) (n : Nat) : State :=
  let first := match s.twin.compared with | some m => decide (m < n) | none => true
  let s := if first then (s.set TWN_CMP.value n).onTwin fun t => { t with compared := some n } else s
  let s := match s.twin.bad with
    | some (m, _) => if m = n then s.transient.onTwin fun t => { t with bad := none, suspects := [], guilty := none, btally := [] } else s
    | none => s
  s.pump

/-- Comparison of stride n fails (R375, R376). -/
def State.mismatched (s : State) (n : Nat) : State :=
  let s := s.count TWN_MISMATCH.count 1
  match s.twin.bad with
  | some (m, k) =>
    if m ≠ n then (s.onTwin fun t => { t with bad := some (n, 1) }).startRecovery { kind := 3 } 0 id
    else if k = 1 then ((s.onTwin fun t => { t with bad := some (n, 2) }).sendBtally n).btallyCheck
    else if k = 3 then (match s.twin.guilty with | some p => s.convict p | none => s)
    else s
  | none => (s.onTwin fun t => { t with bad := some (n, 1) }).startRecovery { kind := 3 } 0 id

/-- The comparison of stride n, once both tallies are present (R372). -/
def State.compareAt (s : State) (n : Nat) : State :=
  if !(s.pairedIn 1 || s.twState == twREJOINING) then s
  else
    match tallyOf s.twin.mine n, tallyOf s.twin.theirs n with
    | some a, some b => if a = b then s.matched n else s.mismatched n
    | _, _ => s

/-- A twin's own chip tally of stride n goes to the partner and is compared (R372). -/
def State.tallyDone (s : State) (n : Nat) (c : Word) (replayed : Bool) : State :=
  if !(s.pairedIn 1 || s.twState == twREJOINING) then s
  else
    let s := (s.onTwin fun t => { t with mine := mins n c t.mine }).keepTallies
    let s := s.yokeSend yTALLY [n, c.toNat, s.get TWN_DONE.value, b2n replayed + 2 * b2n (s.dev == dRecovering)] []
    s.compareAt n

/-- The off twin discards what the near twin has released (R372, R373). -/
def State.discardDone (s : State) (done : Nat) : State :=
  let s := (s.set TWN_DONE.value done).set CHP_RCV_RELEASED.stride (max done (s.get CHP_RCV_RELEASED.stride))
  { s with ports := s.ports.map fun (i, x) => (i, { x with held := x.held.filter fun f => decide (done < f.stride) }) }

/-- A rejoiner that has reached its partner's stride is paired again (R382 step 4). -/
def State.rejoined (s : State) : State :=
  let s := (s.onTwin fun t => { t with copying := false, rejoinAt := none }).release 7 0
  let mode := match s.images.committed with | some i => i.twinMode | none => 0
  (((s.set TWN_STATUS.state twPAIRED).set TWN_STATUS.mode mode).set TWN_STATUS.checked 0).set TWN_STATUS.result 0

/-- YOKE_TALLY (R372, R373, R375): the partner's chip tally and done mark. -/
def State.yokeTally (s : State) (n : Nat) (c : Word) (done flags : Nat) : State :=
  if !(s.pairedIn 1 || s.twState == twREJOINING) then s
  else
    let s := s.onTwin fun t => { t with theirs := mins n c t.theirs, peerDone := done, peerRecovering := nbit flags 1 }
    let s := s.keepTallies
    let s := if s.get TWN_STATUS.role = 2 then s.discardDone done else s
    let s := s.compareAt n
    let caught : Bool := match s.dispatch.acked with | some a => decide (a ≤ n) | none => false
    if s.twState = twREJOINING ∧ s.twin.before = twALONE ∧ caught then s.rejoined.say sayRESUMED n else s

/-- BTALLY (R375, R376). -/
def State.btally (s : State) (words : List Word) : State :=
  if s.pairedIn 1 then (s.onTwin fun t => { t with btally := words.map BitVec.toNat }).btallyCheck else s

/-- YOKE_STATE (R366, R376 to R380): what the partner says, and its done mark. -/
def State.yokeState (s : State) (what : YokeSay) (done : Nat) : State :=
  let s := s.onTwin fun t => { t with peerDone := done }
  let off := s.get TWN_STATUS.role == 2
  let s := if off && s.twState == twPAIRED then s.discardDone done else s
  match what with
  | .recovering => s.onTwin fun t => { t with peerRecovering := true }
  | .c0 c =>
    let s := s.onTwin fun t => { t with peerC0 := some c.toNat, peerRecovering := true }
    if s.twin.bad.isSome && s.rcv.active && !s.rcv.replaying && decide (c.toNat < s.rcv.from_) &&
        (s.rmt.map fun x => x.2.lblock).all fun l => l == 0x7FF || s.saddleValid l c.toNat then
      ({ s with rcv := { s.rcv with from_ := c.toNat } } : State).set CHP_RCV_FROM.stride c.toNat
    else s
  | .detach => if s.twState = twPAIRED then s.partnerGone 6 else if s.twState = twREJOINING then s.pairEnd pairCANCELLED else s
  | .down => if s.twState = twPAIRED then s.partnerGone 6 else s
  | .unpair =>
    let st := s.twState
    if st = twPAIRING ∨ st = twREJOINING then s.pairEnd pairCANCELLED
    else if st = twPAIRED then
      let mode := s.get TWN_STATUS.mode
      if s.hasJob ∧ (mode = 1 ∨ mode = 2) then if off then s.detach 5 else (s.alone 5).pump
      else s.unpaired
    else s
  | .resumed =>
    let s := s.onTwin fun t => { t with peerRecovering := false }
    if s.twState = twPAIRING ∧ !off then s.pairLocked
    else if s.twState = twREJOINING ∧ !off then s.pairLocked
    else if s.twState = twREJOINING then s.rejoined
    else s

/-- The programmed tick of a stride under the present schedule (R32). -/
def State.tickOf (s : State) (n : Nat) : Nat := s.cad.anchorAt + (n - s.cad.anchorStride) * s.get CAD_PERIOD.current

/-- The stride whose comparison is the oldest not complete. -/
def State.compareNext (s : State) : Nat :=
  match s.twin.compared, s.dispatch.job with
  | some m, some j => max (m + 1) j.start
  | none, some j => j.start
  | _, none => 0

/-- COMPARISON_TIMEOUT (R376 to R380): wait_ms after the programmed tick of beat n + 2 the comparison of n is not complete. -/
def State.comparisonTimeout (s : State) : State :=
  let n := s.compareNext
  let wait := max 1 (s.get TWN_CFG.wait_ms) * 1000000
  let off := s.get TWN_STATUS.role == 2
  if !s.pairedIn 1 || !s.jobRuns || s.twin.gone.isSome || decide (s.now < s.tickOf (n + 2) + wait) then s
  else
    match s.twin.bad with
    | some (_, k) =>
      if k = 1 then (if s.dev = dRecovering then s.detach 2 else if s.twin.peerRecovering then s.partnerGone 2 else if off then s else s.partnerGone 2)
      else if off then s.detach 7
      else match s.twin.guilty with | some p => s.convict p | none => s
    | none =>
      if s.dev = dRecovering then s.detach 2
      else if s.twin.peerRecovering then s.partnerGone 2
      else if off then s
      else s.partnerGone 2

/-- YOKE_PORT_LOST (R365): TWN_YOKE records it, the Farrier raises an event, and the mode does not change. -/
def State.yokePortLost (s : State) (j : Nat) : State :=
  if !(s.port (8 + j)).up then s
  else
    let s := s.onPort (8 + j) fun x => { x with up := false }
    let s := (s.set TWN_YOKE.lost (s.get TWN_YOKE.lost ||| 2 ^ j)).showYoke
    (s.raise 6 0 { code := 0xBB, detail := j }).noSyncPort

/-- TWIN_DET_CHANGE (R378, R467): with every yoke port down and the partner's power-good gone, the partner is down. -/
def State.twinDetChange (s : State) (j : Nat) (powered : Bool) : State :=
  let keep := s.twin.det - (if nbit s.twin.det j then 2 ^ j else 0)
  let s := (s.onTwin fun t => { t with det := keep + (if powered then 2 ^ j else 0) }).showYoke
  if s.yokes.isEmpty && s.twin.det == 0 && s.twState == twPAIRED then s.partnerGone 6 else s

/-- YOKE_WRITE (R370, R382): lines of the partner at the same tier address, at an off twin in Standby or a rejoiner. -/
def State.yokeWrite (s : State) (tier a : Nat) (lines : List Byte) : State :=
  let takes := (s.pairedIn 2 && s.get TWN_STATUS.role == 2) || (s.twState == twREJOINING && s.twin.before == twDETACHED)
  if takes && a % 64 == 0 && s.tiers.inRange tier a && s.tiers.inRange tier (a + lines.length - 1) then
    s.setTiers (s.tiers.putLines tier a (padTo 64 lines))
  else s

/-- The second Checkpoint area of the layout (R370). -/
def State.secondCheckpoint (s : State) : Option Area :=
  match s.images.committed with
  | some i => (i.areas.filter fun a => a.cls == 2)[1]?
  | none => none

/-- A rejoiner restores every block at C_r and launches there (R382 step 3). -/
def State.rejoinLaunch (s : State) (c : Nat) : State :=
  let ls := match s.images.committed with | some i => i.served | none => []
  if s.dev ≠ dReady ∨ !(ls.all fun l => s.twin.saves.contains (l, c)) then s
  else
    ((s.relaunch c).set CHP_RCV_RELEASED.stride (c + 2 ^ 64 - 1)).onTwin fun t => { t with rejoinAt := some c }

/-- SAVE (R370, R382): a saddlebag of the partner's logical block `l` for checkpoint stride `c`. -/
def State.save (s : State) (l c : Nat) (bytes : List Byte) : State :=
  let rejoiner := s.twState == twREJOINING && s.twin.before == twDETACHED
  if 131072 < bytes.length ∨ c % 256 ≠ 0 then s
  else if (s.pairedIn 2 && s.get TWN_STATUS.role == 2) || rejoiner then
    if !s.hasSaddle l then s
    else
      let s := (s.saddleWrite l c bytes).onTwin fun t =>
        { t with saves := (l, c) :: t.saves.filter fun x => decide (c < x.2 + 512) }
      if rejoiner then s.rejoinLaunch c else s
  else if s.pairedIn 3 then
    match s.secondCheckpoint with
    | some a => if (l + 1) * 262144 ≤ a.len then
        s.setTiers (s.tiers.putLines a.tier (a.start + l * 262144 + c / 256 % 2 * 131072) (padTo 64 bytes)) else s
    | none => s
  else s

/-- SADDLEBAG_COMPLETE (R338, R370, R382): in Standby and Split, and at C_r of a rejoin, the saddlebag goes to the twin. -/
def State.saddleDone (s : State) (p : Nat) : State :=
  match (s.block p).saddle with
  | none => s
  | some (c, bs) =>
    let l := (s.block p).lblock
    let s := s.saddleComplete p
    if (s.pairedIn 2 && s.get TWN_STATUS.role == 1) || s.pairedIn 3 || (s.twin.copying && s.twin.rejoinAt == some c) then
      s.yokeSend ySAVE [l, c] bs
    else s

/-- QUIET (R285): the partner is quiet for the swap at a stride. -/
def State.yokeQuiet (s : State) (n : Nat) : State := s.onTwin fun t => { t with peerQuiet := some n }

/-- YOKE_ADMIT (R371, R395): the near twin's ADMIT record. -/
def State.yokeAdmit (s : State) (ident stride length crc : Nat) : State :=
  if s.isOff || s.pairedIn 2 || s.twState == twREJOINING then
    s.onTwin fun t => { t with admits := (t.admits.filter fun x => x.ident != ident) ++ [⟨ident, stride, length, crc⟩] }
  else s

/-- Where the payload of an INPUT goes (R395): the first 64 MiB of the first Staging area, 2 KiB a slot. -/
def State.inputSlot (s : State) (k : Nat) : Option (Nat × Nat) :=
  match s.images.committed with
  | some i => (i.areas.find? fun a => a.cls == 5).map fun a => (a.tier, a.start + k % 32768 * 2048)
  | none => none

/-- YOKE_INPUT (R371, R395): a request at the near twin is answered with the payload; a payload is placed at the off twin. -/
def State.yokeInput (s : State) (ident : Nat) (payload : List Byte) : State :=
  if payload.isEmpty then
    match s.dispatch.log.find? fun x => x.1.ident == ident with
    | some (c, _) => s.yokeSend yINPUT [ident] (s.inputBytes c)
    | none =>
      match s.dispatch.work.find? fun w => w.cmd.op == 2 && w.cmd.ident == ident with
      | some w => s.yokeSend yINPUT [ident] (s.inputBytes w.cmd)
      | none => s
  else if s.isOff || s.twState == twREJOINING then
    let s := match s.inputSlot s.twin.inputs.length with
      | some (tier, a) => if s.tiers.inRange tier (a + 2047) then s.setTiers (s.tiers.putLines tier a (padTo 64 (payload.take 2048))) else s
      | none => s
    s.onTwin fun t => { t with inputs := (t.inputs.filter fun x => x.1 != ident) ++ [(ident, payload)], wanted := t.wanted.erase ident }
  else s

/-- An off twin asks for an input that it has not got (R371). -/
def State.askInput (s : State) (ident : Nat) : State :=
  if s.twin.wanted.contains ident then s
  else (s.onTwin fun t => { t with wanted := ident :: t.wanted }).yokeSend yINPUT [ident] []

/-- A twin's port comes up (R54, R378): one that went on alone for want of an answer tells its partner that it is detached. -/
def State.yokeBack (s : State) : State :=
  if s.twState = twALONE ∧ s.get TWN_STATUS.detach_cause = 2 ∧ s.get TWN_STATUS.role = 1 then s.yokeSend ySTATE [sayDETACH, 0, s.get TWN_DONE.value] [] else s

/-- PORT_STATE_CHANGE (R54, R365): a port comes up or goes down; the named sync port that comes up clears noport. -/
def State.portState (s : State) (i : Nat) (up : Bool) : State :=
  if (s.port i).up == up then s
  else if 8 ≤ i ∧ ¬ up then s.yokePortLost (i - 8)
  else
    let s := s.onPort i fun x => { x with up := up }
    if up then
      let s := if i = s.get CAD_SYNC_CTL.port ∧ s.carriesSync i then s.set CAD_SYNC_STATUS.noport 0 else s
      if 8 ≤ i then s.showYoke.yokeBack else s
    else s.noSyncPort

end Sys2Proof.Machine
end

