-- ==== Sys2Proof/Machine/Power.lean ====
section
/-! DEFINITION. The power manager (R2, R30, R31, R417 to R419). -/

namespace Sys2Proof.Machine

/-- A cap that a party sets: 0 is none, and one below half the fuse cap is taken as half (R417). -/
def capOf (fuse v : Nat) : Nat := if v = 0 then fuse else max v (ceilDiv fuse 2)

/-- The cap in force in W (R417). -/
def State.cap (s : State) : Nat :=
  let f := s.fuses.capW
  min f (min (capOf f s.far.mgmtCap) (capOf f (s.get FAR_PWR_CFG.rider_cap_w)))

/-- The floor of region voltages in mV (R418, FAR_PWR_CFG.vmin_mv). -/
def State.vmin (s : State) : Nat := min s.fuses.vmaxMv (max 620 (min 800 (s.get FAR_PWR_CFG.vmin_mv)))

/-- The voltage that the committed image names for a region, 0.68 V where none is committed (R418). -/
def State.wantVolt (s : State) (r : Nat) : Nat :=
  match s.images.committed with
  | some i => s.imageVolt i r
  | none => 680

/-- Whether a test holds of a junction sensor of region `r`, in °C × 16. -/
def State.anyJunction (s : State) (r : Nat) (f : Int → Bool) : Bool :=
  (List.range 4).any fun i => f (signed 32 (s.sensor (4 * r + i)))

/-- A region is hot from above 100 °C until every sensor of it has stayed at or below 95 °C for 8 checkpoint strides (R419). -/
def State.watchHeat (s : State) : State :=
  (List.range 16).foldl (fun s r =>
    let above := s.anyJunction r fun t => decide (1600 < t)
    let warm := s.anyJunction r fun t => decide (1520 < t)
    let n := if warm then 0 else mget natZero s.far.cool r + 1
    let hot := if above then (if s.far.hot.contains r then s.far.hot else r :: s.far.hot)
      else if n = 8 then s.far.hot.filter fun x => x != r else s.far.hot
    { s with far := { s.far with cool := mset natZero s.far.cool r (min n 8), hot := hot } }) s

/-- The change that the last decision made takes effect once its lease is held (R31, R418). -/
def State.applyVolts (s : State) : State :=
  match s.power.next with
  | none => s
  | some vs =>
    if s.leases.held.any fun l => l.code == 9 && l.by_ == 0 then
      ((s.setVolts fun r => vs.getD r 680).release 9 0).fitPeriod
    else s

/-- The decision of a checkpoint stride (R418, R419): `up` and `down` from the mean input power, the overheated regions down. -/
def State.decideVolts (s : State) : State :=
  let cap := s.cap
  let m := if s.far.samplesW = 0 then s.sensor 98 else s.far.sumW / s.far.samplesW
  let s := s.watchHeat
  let down := decide (98 * cap < 100 * m)
  let count := if !down && decide (100 * m < 95 * cap) then s.get FAR_PWR.up_count + 1 else 0
  let up := count == 8
  let next := fun r =>
    let v := s.volt r
    let hot := s.far.hot.contains r
    let v1 := if down && decide (s.vmin < v) then v - 10 else if up && !hot && decide (v < s.wantVolt r) then min s.fuses.vmaxMv (v + 10) else v
    if (s.anyJunction r fun t => decide (1600 < t)) && decide (s.vmin < v1) then v1 - 10 else v1
  let vs := (List.range 16).map next
  let floor := (List.range 16).all fun r => decide (s.volt r ≤ s.vmin)
  let unmet := floor && decide (cap < m)
  let s := (((s.set FAR_PWR.mean_w (min 65535 m)).set FAR_PWR.cap_w cap).set FAR_PWR.up_count (if up then 0 else count)).set FAR_PWR.unmet (b2n unmet)
  let due : Bool := match s.far.unmetAt with | some t => decide (t + 1000000000 ≤ s.now) | none => true
  let s := if unmet && due then
      (({ s with far := { s.far with unmetAt := some s.now } } : State)).raise 6 0 { code := 0xB9, detail := m, detail2 := cap }
    else s
  let s : State := { s with far := { s.far with sumW := 0, samplesW := 0 } }
  if (List.range 16).all fun r => vs.getD r 0 == s.volt r then s
  else ({ s with power := { s.power with next := some vs } } : State).acquire { code := 9, res := 0 } false |>.1

/-- The voltages of an image that was loaded or swapped, with its period (R31, R278 step 5, R286), in place of a decision's that waits;
else that decision's. -/
def State.applyLoad (s : State) : State :=
  match s.power.load with
  | none => s.applyVolts
  | some vs =>
    let s := (s.setVolts fun r => vs.getD r 680).loadPeriod
    if s.leases.held.any (fun l => l.code == 9 && l.by_ == 0) || s.leases.waiting.any (fun l => l.code == 9 && l.by_ == 0) then s.release 9 0 else s

/-- POWER_CAP_DECISION and VOLTAGE_CHANGE at a checkpoint stride (R31, R278 step 5, R418, R419): an image's voltages and the change
decided before apply first, none while the Farrier restarts (R409); a decision waits while its change does. -/
def State.managePower (s : State) : State :=
  if !s.far.awake then s
  else
    let s := s.applyLoad
    if s.power.next.isSome then s else s.decideVolts

end Sys2Proof.Machine
end

