-- ==== Sys2Proof/Machine/FarrierCore.lean ====
section
/-! DEFINITION. The Farrier's own life: its log, its start and restart, its firmware slots (R409 to R415, R424 to R427, R431,
R432). -/

namespace Sys2Proof.Machine

/-- Change the Farrier. -/
def State.onFar (s : State) (f : Farrier → Farrier) : State := { s with far := f s.far }

/-- FAR_LOG_NEWEST and FAR_LOG_OLDEST bound the flash ring (R414). -/
def State.showLog (s : State) : State :=
  let held := s.far.log.take s.far.inFlash
  match held.head?, held.getLast? with
  | some a, some b => (s.set FAR_LOG_OLDEST.seq a.1).set FAR_LOG_NEWEST.seq b.1
  | _, _ => s

/-- Records reach flash, `n` of those that are buffered; the ring of 1,048,576 overwrites its oldest (R414). -/
def State.flushSome (s : State) (n : Nat) : State :=
  let have_ := min s.far.log.length (s.far.inFlash + n)
  let extra := have_ - 1048576
  (s.onFar fun f => { f with log := f.log.drop extra, inFlash := have_ - extra, flushAt := s.now }).showLog

/-- Every buffered record reaches flash. -/
def State.flushLog (s : State) : State := s.flushSome s.far.log.length

/-- A Farrier register that a Farrier restart resets to its Reset column (R431, R454). -/
def farKeep (a : Nat) : Word :=
  if a < 0x100030000000 then BitVec.allOnes 64
  else match chipRow a with
    | some r => r.keepMask
    | none => 0

/-- FAR_PWR shows the cap in force (R417). -/
def State.showCap (s : State) : State := s.set FAR_PWR.cap_w s.cap

/-- The version of the active pattern pack; 0 is the base pack of the firmware (R293, R335). -/
def State.showPack (s : State) : State := s.set TST_CHP_PACK.pack_version (leAt s.far.pack 8 8)

/-- At a start that finds neither flash copy of the counters valid the next fuse is blown, so that no earlier index can recur (R424 step 1). -/
def State.checkCounters (s : State) : State :=
  let lost := Config.countersLost s.freeCtr
  let s : State := { s with freeCtr := s.freeCtr + 1 }
  if !lost then s
  else ({ s with fuses := { s.fuses with lms := if s.fuses.lms < 1024 then s.fuses.lms + 1 else s.fuses.lms } } : State).onFar fun f =>
    { f with flashCount := 0 }

/-- The Farrier has booted (R409, R413, R424): numbers start at M, a reservation of attestation indices is made, and the
certificate of this start uses one. -/
def State.farrierBoot (s : State) : State :=
  let s := s.checkCounters.onFar fun f => { f with awake := true, rom := false, next := f.mark, flushAt := s.now, mgmtNow := f.mgmtAddr, reserved := 0 }
  let s := if s.far.seedGone then s else s.takeIndex.1
  ((s.showLms.showLog).showCap).showPack

/-- What the Farrier's memory loses when it stops (R409): the log keeps what is in flash. -/
def State.farrierLoss (s : State) : State :=
  let s : State := { s with freeCtr := s.freeCtr + 1, chipResets := [], regs := Regs.resetKeeping chipReset farKeep s.regs }
  let s := s.onFar fun f => { f with
    awake := false, log := f.log.take f.inFlash, sessions := [], collections := [], sumW := 0, samplesW := 0, cool := [], hot := [], unmetAt := none,
    sensAt := [], reserved := 0 }
  s.setLeases { s.leases with waiting := s.leases.waiting.filter fun l => l.by_ != 2 }

/-- What a restart ends (R409, R420, R431, R442, R445): sessions, the mailbox operation in progress, the collections, the chip's
reset history; records not yet in flash may be lost. -/
def State.farrierDown (s : State) : State :=
  let busy := s.get FAR_MBX_STATUS.busy
  let s := (s.flushSome (Config.holdUp s.freeCtr)).farrierLoss
  if busy = 1 then s.set FAR_MBX_STATUS.result 1 else s

/-- FARRIER_RESTART (R409): the Farrier's cores disagree, and it restarts from ROM; the compute die carries on. -/
def State.farrierRestart (s : State) : State := if s.far.awake then s.farrierDown else s

/-- FARRIER_RESTART_DONE (R409): the restart completes, and intake, sensors, voltage changes and the mailbox resume. -/
def State.farrierRestartDone (s : State) : State :=
  if s.far.awake ∨ s.dev = dOff ∨ (s.dev = dBringup ∧ s.get CHP_BRINGUP.path = 0 ∧ s.get CHP_BRINGUP.step ≤ 2) then s else s.farrierBoot

/-- The firmware of a component. -/
def State.fw (s : State) (c : Nat) : Firmware := mget fwInit s.far.firmware c

/-- Replace it. -/
def State.setFw (s : State) (c : Nat) (w : Firmware) : State := s.onFar fun f => { f with firmware := mset fwInit f.firmware c w }

/-- The bytes of the slot in use, and of the other. -/
def Firmware.used (w : Firmware) : List Byte := if w.active = 0 then w.slotA else w.slotB
def Firmware.other (w : Firmware) : List Byte := if w.active = 0 then w.slotB else w.slotA

/-- The components that exist (R425). -/
def fwComponent (c : Nat) : Bool := decide (1 ≤ c) && decide (c ≤ 5)

/-- The checks of an image in their order (R425, R426); `fwOk` is the first that fails. -/
def State.fwCheck (s : State) (bs : List Byte) : MgmtResult :=
  let c := leAt bs 4 1
  let n := leAt bs 16 8
  let form := leAt bs 0 4 == 0x57524146 && fwComponent c && decide (leAt bs 5 1 < 2) && decide (leAt bs 6 1 < 64) && leAt bs 7 1 == 0 && zeroAt bs 56 8 &&
    n % 64 == 0 && decide (64 ≤ n) && decide (n ≤ bs.length)
  let keys := if c = 5 then [s.far.vendorRoot] else s.far.fwKeys
  let digest := sliceZ bs 24 32
  if !form then .fwFormat
  else if sha256 (zeroed (bs.take n) 24 32) ≠ digest then .fwDigest
  else if !signatureOk keys (bs.drop n) digest then .fwSig
  else if leAt bs 6 1 < mget natZero s.fuses.rollback c then .fwRollback
  else .ok

/-- The payload of an image, opened where it is encrypted (R425); none where it cannot be. -/
def State.fwPayload (s : State) (bs : List Byte) : Option (List Byte) :=
  let body := (bs.take (leAt bs 16 8)).drop 64
  if leAt bs 5 1 % 2 = 1 then (if s.far.seedGone then none else Config.decrypt body) else some body

/-- The Rider boots: a boot firmware activated since runs from here on (R427). -/
def State.riderStarts (s : State) : State :=
  let w := s.fw 2
  if w.waits then s.setFw 2 { w with waits := false, fresh := true } else s

/-- The other slot of a component comes into use (R427). -/
def State.switchSlot (s : State) (c : Nat) : State :=
  let w := s.fw c
  s.setFw c { w with active := 1 - w.active, staged := true, fresh := true }

/-- The Farrier restarts into the other slot; where it fails verification ROM boots the slot in use (R427). -/
def State.switchFarrier (s : State) : State :=
  let s := (s.onFar fun f => { f with activating := none }).release 8 0
  let slot := 1 - (s.fw 1).active
  if s.fwCheck (s.fw 1).other = .ok then (s.switchSlot 1).farrierDown
  else (s.raise 6 0 { code := 0xC0, detail := 1, detail2 := slot }).farrierDown

/-- A Farrier firmware activation that waits for a checkpoint stride (R427). -/
def State.activateAt (s : State) (n : Nat) : State :=
  match s.far.activating with
  | some (1, at_) => if at_ ≤ n ∧ s.leaseHeld 8 0 then s.switchFarrier else s
  | _ => s

end Sys2Proof.Machine
end

