-- ==== Sys2Proof/Machine/Cadence.lean ====
section
/-! DEFINITION. The Cadence: beats, acknowledgements, tallies, synchronisation and harness swaps (R31 to R56, R285 to R287,
R302 to R304, R337, R372, R435). -/

namespace Sys2Proof.Machine

/-- The stride that the next beat carries. -/
def State.nextStride (s : State) : Nat := (s.get CAD_STRIDE.stride + 1) % 2 ^ 64

/-- The acknowledgement mask of region `r` (R34): the blocks in service. -/
def State.mask (s : State) (r : Nat) : List Nat := s.inService.filter fun p => regionOf p == r

/-- The regions that must acknowledge. -/
def State.maskRegions (s : State) : List Nat := (List.range 16).filter fun r => !(s.mask r).isEmpty

/-- The time at which the next beat is due (R32, R286, R313). -/
def State.dueTick (s : State) : Nat :=
  match s.images.swapTick, s.cad.hold with
  | some t, _ => t
  | none, some t => t
  | none, none => s.tickOf s.nextStride

/-- Whether beats keep to the tick schedule: not in Extended gait, replay or rejoin (R41, R45). -/
def State.scheduled (s : State) : Bool := s.get CAD_CTL.gait == 0 && s.get CAD_CTL.phase == 0

/-- Whether the next beat has a tick to wait for: a scheduled one, beat S of a swap or a beat withheld (R37, R286, R313). -/
def State.ticked (s : State) : Bool := s.scheduled || s.images.swapTick.isSome || s.cad.hold.isSome

/-- By how many ns beat n + 1 is late (R38): the last acknowledgement of stride n after its programmed tick, or a swap's load after the
tick of its beat (R286); 0 where it is not. Nothing is late in Extended gait, replay or rejoin (R41, R45). -/
def State.lateness (s : State) : Nat :=
  if !s.scheduled || s.maskRegions.isEmpty then 0
  else match s.images.swapTick with
    | some t => t - s.images.swapDue
    | none => if s.cad.hold.isSome then 0 else s.cad.lastAckAt - s.tickOf s.nextStride

/-- Whether an input of stride `n` has still to be answered, here or for want of it at the off twin (R371, R394). -/
def State.inputsOpen (s : State) (n : Nat) : Bool :=
  (s.dispatch.work.any fun w => w.cmd.op == 2 && w.step != 0 && w.a == n) || (s.dispatch.again.any fun w => w.a == n) ||
    (s.follows && s.twin.admits.any fun x => x.stride == n)

/-- Whether checked release withholds beat `n` (R372), or a second mismatch does (R375). -/
def State.compareHolds (s : State) (n : Nat) : Bool :=
  let start := match s.dispatch.job with | some j => j.start | none => 0
  let needs := s.checked && s.jobRuns && decide (start + 2 ≤ n)
  let done : Bool := match s.twin.compared with | some m => decide (n ≤ m + 2) | none => false
  s.twin.gone.isNone && ((needs && (!done || (s.isOff && decide (s.twin.peerDone + 2 < n)))) ||
    (match s.twin.bad with | some (_, 2) => true | _ => false))

/-- Whether a harness swap or an activation holds beat `n` (R285, R427). -/
def State.swapHolds (s : State) (n : Nat) : Bool :=
  let stage := s.get CHP_IMG_STATUS.stage
  s.get CAD_CTL.phase == 0 && s.dev != dRecovering &&
    ((stage == 3 || (stage == 2 && s.get CHP_SWAP_AT.stride == n)) || s.far.actStage == 1 ||
      (s.far.actStage == 0 && (match s.far.activating with | some (c, at_) => at_ == n && (c == 3 || c == 4) && n != 0 && s.inJob | none => false)))

/-- Whether the job holds beat `n`: it has ended at an earlier stride (R392), or a launch waits for slices to end (R311). -/
def State.jobHolds (s : State) (n : Nat) : Bool :=
  match s.dispatch.job with
  | none => false
  | some j =>
    (match j.endAt with | some e => decide (e < n) | none => false) ||
      (!j.begun && j.start == n && s.inService.any fun p => (s.block p).slice.isSome)

/-- Whether beat n + 1 may issue (R37): every acknowledgement is in, its tick has come, and nothing withholds it. -/
def State.beatReady (s : State) : Bool :=
  let n := s.nextStride
  s.get CAD_CTL.run == 1 && s.cad.done && (!s.ticked || decide (s.dueTick ≤ s.now)) &&
    (n % 256 != 0 || s.endpoints.all fun x => x.2.resend.isEmpty) && !s.inputsOpen n && !s.compareHolds n && !s.swapHolds n && !s.jobHolds n

/-- A stumble (R38): the chip and region counters, CAD_STUMBLE_LAST, the block's counter and an event; the late beat has issued. -/
def State.stumble (s : State) (late : Nat) : State :=
  let r := s.cad.lastRegion
  let p := (s.region r).lastAck
  let s := (s.count CAD_STUMBLE.count 1).count (CAD_RGN_STUMBLE.count r) 1
  let s := (((s.set CAD_STUMBLE_LAST.late_ns (min late 65535)).set CAD_STUMBLE_LAST.region r).set CAD_STUMBLE_LAST.block p).set
    CAD_STUMBLE_LAST.stride_lo (s.get CAD_STRIDE.stride)
  (s.setBlock p ((s.block p).cnt 44 1)).raiseRegion r { code := 0xA3, detail := late, detail2 := p }

/-- A new anchor at the beat of stride `n` (R32). -/
def State.newAnchor (s : State) (n : Nat) : State := { s with cad := { s.cad with anchorAt := s.now, anchorStride := n } }

/-- Every counter of a block is zero (R446). -/
def Block.clearCounters (b : Block) : Block :=
  { b with regs := (List.range 64).foldl (fun m i => mset blkReset m (blkPlace (BLK_CNT.off i)) 0) b.regs, freeTally := 0 }

/-- The job's first stride begins (R56, R303, R317, R446); one that goes on from a partner's saddlebags keeps the schedule, the done mark and
the partner's tallies (R381, R382). -/
def State.launchBegin (s : State) (n : Nat) : State :=
  match s.dispatch.job with
  | none => s
  | some j =>
    if j.begun ∨ j.start ≠ n then s
    else if s.dev ≠ dReady then s.failJob stIMAGE_UNCOMMITTED 0
    else
      let gait := match s.images.committed with | some i => i.gait | none => 0
      let s := (s.setDispatch { s.dispatch with job := some { j with begun := true }, acked := none }).goTo dRunning
      let s := s.inService.foldl (fun s p => s.setBlock p (((s.block p).clearCounters).set TST_BLK_FREE.tally 0)) s
      let s := (s.onScreen fun x => { x with acc := [] }).onTwin fun t => { t with compared := none, bad := none }
      let s := s.set CHP_RCV_FLOOR.stride n
      let s := if j.back then s
        else ((s.onTwin fun t => { t with mine := [], theirs := [] }).set CHP_RCV_RELEASED.stride (n + 2 ^ 64 - 1)).set TWN_DONE.value (n + 2 ^ 64 - 1)
      let s : State := { s with ports := s.ports.map fun (i, x) => (i, { x with sent := [], skip := [] }) }
      let names := match s.images.committed with | some i => i.twinMode != 0 | none => false
      let s := if names && s.twState == twUNPAIRED then s.twinEvent 0 else s
      let s := s.takeGait gait
      (if j.back then s else s.newAnchor n).showJob

/-- GAIT_APPLY (R43): the requested gait at a checkpoint stride; entering Collected gait sets a new anchor. -/
def State.applyGait (s : State) (n : Nat) : State :=
  let want := s.get CAD_CTL.gait_next
  if want = s.get CAD_CTL.gait then s
  else
    let s := s.set CAD_CTL.gait want
    if want = 0 then s.newAnchor n else s

/-- PERIOD_APPLY (R48, R55): the requested period at its checkpoint stride. -/
def State.applyPeriod (s : State) (n : Nat) : State :=
  let want := s.get CAD_PERIOD.period_next
  let at_ := s.get CAD_PERIOD_AT.stride
  let was := s.get CAD_PERIOD.current
  let due := want != 0 && (at_ == n || (at_ == 0 && !s.synced))
  let s := if due then
      let s : State := { s with cad := { s.cad with programmed := want } }
      let s := (s.set CAD_PERIOD.period_next 0).set CAD_PERIOD_AT.stride 0
      if s.synced then s.set CAD_PERIOD.current want else s.fitPeriod
    else s
  if s.get CAD_PERIOD.current = was then s else s.newAnchor n

/-- The loss of lock (R53): CAD_SYNC_STATUS.lost and an event. -/
def State.lockLost (s : State) : State :=
  ((s.set CAD_SYNC_STATUS.locked 0).set CAD_SYNC_STATUS.lost 1).raise 2 0 { code := 0xB2, detail := s.get CAD_SYNC_STATUS.offset }

/-- A missed exchange of a follower that was locked counts as one that is off (R53, R54). -/
def State.missedSync (s : State) : State :=
  if s.get CAD_SYNC_CTL.enable = 0 ∨ s.get CAD_SYNC_CTL.role = 1 ∨ s.get CAD_SYNC_STATUS.noport = 0 ∨ !s.cad.missing then s
  else
    let s : State := { s with cad := { s.cad with bad := s.cad.bad + 1, missing := decide (s.cad.bad = 0) } }
    if s.cad.bad < 2 then s else s.lockLost

/-- The changes that a checkpoint stride allows while beats keep to schedule (R31, R43, R48, R286, R330, R382). -/
def State.checkpointSteady (s : State) (n : Nat) : State :=
  let was := s.get CAD_PERIOD.current
  let s := ((s.managePower).applyGait n).applyPeriod n
  let s := if s.cad.refit then ({ s with cad := { s.cad with refit := false } } : State).fitPeriod else s
  let s := if s.get CAD_PERIOD.current = was then s else s.newAnchor n
  let s := s.releaseEngines
  let chk := match s.images.committed with | some i => i.checkedRelease | none => false
  if s.pairedIn 1 && chk then s.set TWN_STATUS.checked 1 else s

/-- What a checkpoint stride does beside (R287, R317, R338, R340, R351, R360, R382, R394). -/
def State.checkpointWork (s : State) (n : Nat) : State :=
  let s := (s.saddleExpire.missedSync).activateAt n
  let floor := match s.dispatch.job with | some j => max j.start (n - 256) | none => n - 256
  let s := (s.set CHP_RCV_FLOOR.stride floor).setDispatch { s.dispatch with log := s.dispatch.log.filter fun x => decide (floor ≤ x.2) }
  let s := if s.jobRuns then (s.maskRegions).foldl (fun s r => (s.force 11 r).shadowSamples r n) s else s
  let s := s.runSwaps n
  let s : State := if s.get CAD_CTL.phase = 2 ∧ s.rcv.rejoin.isNone then { s with rcv := { s.rcv with rejoin := some n } } else s
  match s.twin.rejoinAt with
  | some c => if s.twin.copying && decide (c + 65536 < n) then s.onTwin fun t => { t with rejoinAt := some (n + 256) } else s
  | none => s

/-- What a checkpoint stride of a rejoin does (R43, R46, R55): the requested gait and period apply, the period's anchor at the tick that
the stride had; after 65,536 strides the old schedule is given up, with a new anchor unless the schedule is shared. -/
def State.checkpointRejoin (s : State) (n : Nat) : State :=
  let was := s.get CAD_PERIOD.current
  let tick := s.tickOf n
  let s := ((s.managePower).applyGait n).applyPeriod n
  let s := s.releaseEngines
  let s : State := if s.get CAD_PERIOD.current = was then s else { s with cad := { s.cad with anchorAt := tick, anchorStride := n } }
  if !s.rcv.longer then s
  else
    let s : State := { s with rcv := {}, cad := { s.cad with refit := false } }
    let long := max s.requiredMin s.cad.need
    let s := s.set CAD_CTL.phase 0
    if s.synced then s.raise 2 0 { code := 0xB1, detail := long } else s.fitPeriod.newAnchor n

/-- A swap that a recovery or rejoin meets waits for the first checkpoint stride after (R287, R359). -/
def State.deferSwap (s : State) (n : Nat) : State :=
  let s := if s.get CHP_IMG_STATUS.stage = 2 ∧ s.get CHP_SWAP_AT.stride = n then s.set CHP_SWAP_AT.stride (n + 256) else s
  match s.far.activating with
  | some (c, at_) => if at_ = n ∧ n ≠ 0 then { s with far := { s.far with activating := some (c, n + 256) } } else s
  | none => s

/-- The swapped image takes the place of the committed one (R286): steps 4 to 6 of R278. DESIGN CHOICE, log entry 11: the load takes
effect as a whole with beat S; nothing of either image runs between quiet and that beat, and a fault before it is recovered under the old
image (R287). -/
def State.swapDone (s : State) : State :=
  match s.images.swapTick, s.images.staged with
  | some _, some i =>
    match s.installImage i (s.place i fun _ => 0).2 with
    | (some h, _) => ((s.dropStaged h.code).holdDetail h).release 10 0
    | (none, t) =>
      let t := t.commitImage i
      let t : State := { t with images := { t.images with swapTick := none } }
      (((t.set CHP_IMG_STATUS.stage 0).set CHP_SWAP_STATUS.result 0).release 10 0).loadPeriod
  | _, _ => s

/-- The activation that held the beat is over (R427): the other slot runs. -/
def State.activationDone (s : State) : State :=
  match s.far.actStage, s.far.activating with
  | 2, some (c, _) =>
    let w := mget fwInit s.far.firmware c
    ({ s with far := { s.far with
      actStage := 0, activating := none,
      firmware := mset fwInit s.far.firmware c { w with active := 1 - w.active, staged := true, fresh := true } } } : State).release 8 0
  | _, _ => s

/-- Beat S of a harness swap, of a test in place or of an activation sets a new anchor (R286, R313, R427). -/
def State.heldBeat (s : State) (n : Nat) : State :=
  if s.images.swapTick.isNone && s.cad.hold.isNone then s
  else
    let s := s.swapDone.activationDone
    ({ s with cad := { s.cad with hold := none } } : State).newAnchor n

/-- A beat of stride `n` leaves the root. -/
def State.issue (s : State) (n : Nat) : State :=
  let s := s.set CAD_STRIDE.stride n
  let s : State := { s with
    regions := s.regions.map fun (r, x) => (r, { x with acked := [] }),
    cad := { s.cad with beatAt := s.now, acked := [], done := s.maskRegions.isEmpty } }
  s.setDispatch { s.dispatch with beatAt := s.now }

/-- A follower slews its ticks by at most 2 ns a beat in Running (R53). -/
def State.slewTicks (s : State) : State :=
  if s.dev ≠ dRunning then s
  else
    let d := max (-2) (min 2 s.cad.slew)
    { s with cad := { s.cad with anchorAt := ((s.cad.anchorAt : Int) + d).toNat, slew := s.cad.slew - d } }

/-- The flip beat of a recovery carries C0: the first replay beat (R344 step 5). -/
def State.replayBeat (s : State) : State :=
  let c := s.rcv.from_
  let s : State := { s with blocks := s.blocks.map fun (p, b) => (p, { b with stride := BitVec.ofNat 64 c - 1 }), rcv := { s.rcv with replaying := true } }
  let s := s.onScreen fun x => { x with plans := [] }
  let s := ((s.set CHP_RCV_STATUS.step 6).set CAD_CTL.phase 1).set CAD_STRIDE.stride c
  s.flip.issue c

/-- Whether lines of a Sourced area are still to come from a remote source (R260). -/
def State.restoring (s : State) : Bool := s.ports.any fun x => x.2.remote.any fun r => r.back.isSome

/-- BEAT_ISSUE (R37, R38, R41, R45): the next beat, or the flip beat of a recovery. -/
def State.beatIssue (s : State) : State :=
  if s.rcv.active && !s.rcv.replaying then
    if s.get CAD_CTL.run == 1 && s.cad.flipBeat && !(s.blocks.any fun x => x.2.owes) && !s.restoring then s.replayBeat else s
  else if !s.beatReady then s
  else
    let n := s.nextStride
    let late := s.lateness
    let steady := s.get CAD_CTL.phase == 0 && s.dev != dRecovering
    let s := s.heldBeat n
    let s := s.launchBegin n
    let s := if n % 256 ≠ 0 then s else if steady then s.checkpointSteady n
      else if s.dev = dRecovering then s.deferSwap n else (s.deferSwap n).checkpointRejoin n
    let s := s.issue n
    let s := if late = 0 then s else s.stumble late
    let s := if n % 256 = 0 then s.checkpointWork n else s
    s.flip.slewTicks

/-- A stride's work begins (R65, R170, R176). -/
def Block.strideBegin (b : Block) : Block :=
  (b.engineBegin.set BLK_DF_STATUS.fl_index 0).set BLK_DF_STATUS.state (if b.jobFault.isSome then 5 else if b.fireList.isEmpty then 3 else 2)

/-- A shadow starts its next stride (R318): as in Extended gait and independently of the Cadence, once the stride before is done. -/
def State.shadowBeat (s : State) (p : Nat) : State :=
  let b := s.block p
  let n := b.stride + 1
  match s.screen.shadows.find? fun w => w.spare == p with
  | none => s
  | some w =>
    if n.toNat < w.since ∨ w.stride < n.toNat ∨ s.get CAD_STRIDE.stride < n.toNat ∨ (b.working && !b.workDone) ∨ b.halted then s
    else
      let b : Block := { b with
        stride := n, beatAt := s.now, progressAt := s.now, working := true, extended := true, tally := 0, flPos := 0, flDone := [] }
      s.setBlock p (b.rateBeat (s.env p)).strideBegin

/-- BEAT_ARRIVE (R33, R65, R202, R338): the block steward advances its count, checks it and starts the stride. The region steward
withholds the beat from a block that a scan holds (R171). At a shadow it starts the next stride of its own (R318). -/
def State.beatArrive (s : State) (p : Nat) (carried : Nat) (parityOk : Bool) : State :=
  let b := s.block p
  let n := b.stride + 1
  if (s.rmtOf p).state = 5 then s.shadowBeat p
  else if s.get CAD_CTL.run = 0 ∨ b.stride.toNat = s.get CAD_STRIDE.stride ∨ (s.rcv.active && !s.rcv.replaying) ∨
      (b.scan.isSome && !b.fenced && (s.rmtOf p).state == 0) then s
  else
    let works := s.jobRuns && (s.rmtOf p).state == 0 && !b.fenced
    let b : Block := { b with
      stride := n, beatAt := s.now, progressAt := s.now, working := works, extended := s.get CAD_CTL.gait == 1, tally := 0, flPos := 0, flDone := [] }
    let b := ((b.rateBeat (s.env p)).onRouter fun r => { r with gaitPos := 0, gaitGot := 0, turn := 0 })
    if !parityOk ∨ carried ≠ n.toNat % 65536 then
      let s := (s.setBlock p { b with working := false }).onBlock p fun b env =>
        b.note env { cell := 0, code := 0xA2, detail := carried, detail2 := n.toNat % 65536 }
      s.setBlock p ((s.block p).fence 0xA2)
    else if !works then s.setBlock p b
    else
      let s := s.setBlock p (b.strideBegin.set BLK_TETHER.state 1)
      if n.toNat % 256 = 0 then s.saddleTake p n.toNat else s

/-- Manger result rows that a block has paid for and that have not arrived (R337). -/
def Block.rowsAwaited (b : Block) : Bool :=
  b.arcs.zipIdx.any fun (a, i) => !a.outbound && a.manger &&
    (b.queue.filter fun x => x.arc == some i).length < a.share - b.mangerCredits i

/-- Whether a complete node keeps a block from being quiet (R337): a free one, or a listed one of stride `n` or earlier. -/
def Block.nodeWaits (b : Block) (n : Nat) : Bool :=
  (b.ctxs.any fun c => b.complete c.node c.tag &&
    (!b.isListed c.node || decide ((keyStride b.stride c.tag).toNat ≤ n)))

/-- Quiet at the end of stride `n` (R337). -/
def Block.isQuiet (b : Block) (n : Nat) : Bool :=
  ((List.range 8).all fun t => (b.thread t).state == 0 && (List.range 4).all fun i => ((b.thread t).slot i).st == 0) &&
    b.reinJob.isNone && !b.nodeWaits n && b.jobs.isEmpty && b.get PKH_HEAD.index == b.get PKH_TAIL.index && b.mesh.resend.isEmpty &&
    b.mesh.sendq.all (fun h => !kindSequenced h.pkt.kind) && b.reqs.isEmpty && !b.rowsAwaited

/-- Whether a block may acknowledge its stride (R35, R337, R412). -/
def Block.mayAck (b : Block) : Bool :=
  !b.fenced && !b.halterFull &&
    (!b.working || (b.workDone && (b.stride.toNat % 256 != 255 || b.isQuiet b.stride.toNat)))

/-- STRIDE_ACK (R35, R65, R176, R302): B_n is fixed, and the scheduler waits for a beat. -/
def State.strideAck (s : State) (p : Nat) : State :=
  let b := s.block p
  let r := regionOf p
  let n := b.stride.toNat
  let x := s.region r
  if n ≠ s.get CAD_STRIDE.stride ∨ (s.rmtOf p).state ≠ 0 ∨ x.acked.contains p ∨ !b.mayAck then s
  else
    let per := s.get CAD_PERIOD.current
    let late := if s.ticked then decide (s.tickOf (n + 1) + 32 * per < s.now) else decide (b.progressAt + 1000000 < s.now)
    let b := (b.cnt 43 1).cnt 48 (b2n late)
    let keep := b.tallies.filter fun t => decide (n < t.1 + 1024)
    let b : Block := if b.working then { b with tallies := mins n b.tally keep } else b
    let b := ((b.set TST_BLK_TALLY.tally b.tally.toNat).set TST_BLK_FREE.tally b.freeTally.toNat).set BLK_TETHER.state 0
    let b := if b.get BLK_DF_STATUS.state = 2 ∨ b.get BLK_DF_STATUS.state = 3 then b.set BLK_DF_STATUS.state 1 else b
    let s := (s.setBlock p b).setRegion r { x with acked := p :: x.acked, lastAck := p }
    let mark := fun (w : Shadow) => if w.block == p && w.stride == n then { w with ackAt := some s.now } else w
    s.onScreen fun y => { y with shadows := y.shadows.map mark }

/-- The region tally R_n (R304). -/
def State.regionTally (s : State) (r : Nat) : Word :=
  (s.mask r).foldl (fun (a : Word) p => a + (s.block p).tally * BitVec.ofNat 64 (2 * s.lblockAt p + 1)) 0

/-- The chip tally C_n (R304). -/
def State.chipTally (s : State) : Word := s.maskRegions.foldl (fun (a : Word) r => a + BitVec.ofNat 64 (s.rget r TST_RGN_TALLY.tally)) 0

/-- WAITs end when their stride has been acknowledged for the first time (R392). -/
def State.finishWaits (s : State) : State :=
  match s.dispatch.acked with
  | none => s
  | some n => (s.dispatch.work.filter fun w => w.cmd.op == 4 && w.step != 0 && decide (w.cmd.stride ≤ n)).foldl
      (fun s w => s.finish w stOK 0 w.cmd.stride w.cmd.ident) s

/-- Replay has completed the fault stride (R45, R344): the device runs again, and rejoins its schedule in Collected gait; an off twin whose
partner went down meanwhile fails over (R383). -/
def State.replayOver (s : State) : State :=
  let gait := s.get CAD_CTL.gait
  let us := (s.now - s.rcv.since) / 1000
  let s := s.rcv.tether.foldl (fun s _ => s.transient) s
  let f := s.rcv.fault
  let s : State := { s with rcv := { rejoin := if gait = 0 then some f else none } }
  let s := ((s.set CHP_RCV_STATUS.step 0).set CHP_RCV_STATUS.last_us (min us 65535)).count CHP_RCV_COUNT.count 1
  let s := (s.set CAD_CTL.phase (if gait = 0 then 2 else 0)).goTo dRunning
  match s.twin.gone with
  | some cause => s.partnerGone cause
  | none => s

/-- Rejoin ends at the first stride whose acknowledgements arrive no later than the programmed tick (R45 step 2). -/
def State.rejoinOver (s : State) (n : Nat) : State :=
  if s.get CAD_CTL.phase ≠ 2 ∨ s.rcv.longer then s
  else if s.get CAD_CTL.gait = 1 ∨ s.now ≤ s.tickOf (n + 1) then ({ s with rcv := {} } : State).set CAD_CTL.phase 0
  else s

/-- Every region has acknowledged stride `n` (R37, R304, R344, R372). -/
def State.chipAck (s : State) (n : Nat) : State :=
  let c := s.chipTally
  let replayed := s.rcv.active
  let s := (s.set TST_CHP_TALLY.value c.toNat).set TST_CHP_TALLY_AT.value n
  let s : State := { s with cad := { s.cad with done := true } }
  if !s.jobRuns then s
  else
    let first : Bool := match s.dispatch.acked with | some m => decide (m < n) | none => true
    let s := if first then (s.setDispatch { s.dispatch with acked := some n }).finishWaits else s
    let s := s.tallyDone n c replayed
    let s := if s.rcv.active && s.rcv.replaying && n == s.rcv.fault then s.replayOver else s
    (s.rejoinOver n).pump

/-- REGION_ACK (R34, R304): every block of the mask has acknowledged. -/
def State.regionAck (s : State) (r : Nat) : State :=
  let m := s.mask r
  let x := s.region r
  if m.isEmpty || s.cad.done || s.cad.acked.contains r || !(m.all fun p => x.acked.contains p) || (s.rcv.active && !s.rcv.replaying) then s
  else
    let n := s.get CAD_STRIDE.stride
    let s := s.rset r TST_RGN_TALLY.tally (s.regionTally r).toNat
    let s : State := { s with cad := { s.cad with acked := r :: s.cad.acked, lastAckAt := s.now, lastRegion := r } }
    if s.maskRegions.all fun q => s.cad.acked.contains q then s.chipAck n else s

/-- TETHER_TIMEOUT (R39, R435, R436). -/
def State.tetherTimeout (s : State) (p : Nat) : State :=
  let b := s.block p
  let n := s.get CAD_STRIDE.stride
  let late := if s.ticked then decide (s.tickOf (n + 1) + 64 * s.get CAD_PERIOD.current ≤ s.now) else decide (b.progressAt + 2000000 ≤ s.now)
  if b.get BLK_TETHER.state ≠ 1 ∨ (s.region (regionOf p)).acked.contains p ∨ b.fenced ∨ b.scan.isSome ∨ (s.rmtOf p).state ≠ 0 ∨ !late then s
  else
    let lasting := s.rcv.tether.contains (s.lblockAt p)
    let b := (b.set BLK_TETHER.missed (if s.ticked then 64 else 0)).set BLK_TETHER.state 2
    let s := (s.setBlock p b).onBlock p fun b env =>
      b.note env { cell := 0, code := 0xA1, outcome := if lasting then 2 else 1, detail := (b.readReg env.now BLK_TETHER.off).toNat,
                   detail2 := b.get BLK_DF_STATUS.fl_index }
    s.tetherFault p 1

/-- REJOIN_FAILED (R46): after 65,536 strides the Cadence gives the old schedule up. DESIGN CHOICE, log entry 8: they are counted from
the fault stride F, and from the first checkpoint stride of a rejoin that no recovery began. -/
def State.rejoinFailed (s : State) : State :=
  match s.rcv.rejoin with
  | some f =>
    if s.get CAD_CTL.phase = 2 ∧ s.rcv.longer = false ∧ f + 65536 ≤ s.get CAD_STRIDE.stride then
      ({ s with rcv := { s.rcv with longer := true } } : State).raise 2 0 { code := 0xB0, detail := s.cad.anchorStride }
    else s
  | none => s

/-- Lock is gained (R53): in Held and Ready the follower steps to its source, with a new anchor; a pair goes on. -/
def State.syncLocked (s : State) : State :=
  let s := s.set CAD_SYNC_STATUS.locked 1
  let s := if s.dev = dHeld ∨ s.dev = dReady then
      let n := Config.sourceStride s.freeCtr % 2 ^ 64
      let t := Config.sourceTick s.freeCtr
      let s : State := { s with
        blocks := s.blocks.map fun (p, b) => (p, { b with stride := BitVec.ofNat 64 n }),
        cad := { s.cad with anchorStride := n, anchorAt := t, slew := 0 } }
      s.set CAD_STRIDE.stride n
    else s
  if s.twin.attested && s.get TWN_STATUS.role == 2 && (s.twState == twPAIRING || s.twState == twREJOINING) then
    (s.say sayRESUMED 0).pairLocked
  else s

/-- A record of an exchange whose stride has its low 14 bits zero (R451). -/
def State.syncSample (s : State) (port peer a b : Nat) : State :=
  if s.get CAD_STRIDE.stride % 16384 ≠ 0 then s
  else s.raise 2 0 { code := 0xAC, op := port, lblock := peer, detail := a, detail2 := b }

/-- SYNC_EXCHANGE (R52, R53): one exchange a checkpoint stride, over a port that carries SYNC; the follower's frame asks for it, and the
exchange corrects rate and phase. DESIGN CHOICE, log entry 9: a half ns goes down in offset and delay, whose rounding no rule gives; the
rate is a free value, held within 200 ppm in Running. -/
def State.syncExchange (s : State) (t1 t2 t3 t4 : Nat) : State :=
  let port := s.get CAD_SYNC_CTL.port
  let n := s.get CAD_STRIDE.stride
  if s.get CAD_SYNC_CTL.enable = 0 ∨ s.get CAD_SYNC_CTL.role = 1 ∨ s.get CAD_SYNC_STATUS.noport = 1 ∨ !s.carriesSync port ∨
      n % 256 ≠ 0 ∨ s.cad.syncAt = some n then s
  else
    let there : Int := (t2 : Int) - t1
    let back : Int := (t4 : Int) - t3
    let offset : Int := (there - back) / 2 - signed 16 (s.get CAD_SYNC_CTL.asym)
    let delay : Int := (there + back) / 2
    let near := decide (offset.natAbs ≤ 20)
    let good := if near then min 8 (s.cad.good + 1) else 0
    let bad := if near then 0 else s.cad.bad + 1
    let s := (s.set CAD_SYNC_STATUS.offset (unsigned 32 offset)).set CAD_SYNC_STATUS.delay (min 65535 delay.toNat)
    let rate := Config.rateOf s.freeCtr
    let rate := if s.dev = dRunning then max (-200) (min 200 rate) else rate
    let s : State := { s with freeCtr := s.freeCtr + 1, cad := { s.cad with good := good, bad := bad, syncAt := some n, slew := offset, rate := rate, missing := false } }
    let s := s.fabSend port (if 8 ≤ port then Config.yokePeer else Config.syncPeer port) ySYNC 0 0 (leBytes 8 t1)
    let s := if 8 ≤ port then s.set TWN_YOKE.delay_ns (min 65535 delay.toNat) else s
    let s := s.syncSample port (if 8 ≤ port then Config.yokePeer else Config.syncPeer port) t1 (t4 - t1)
    if s.get CAD_SYNC_STATUS.locked = 0 then if good = 8 then s.syncLocked else s
    else if bad = 2 then s.lockLost
    else s

/-- SYNC_ANSWER (R54, R451): a source answers on every port that carries SYNC. -/
def State.syncAnswer (s : State) (port peer t2 t3 : Nat) : State :=
  if s.get CAD_SYNC_CTL.enable = 0 ∨ s.get CAD_SYNC_CTL.role = 0 ∨ !s.carriesSync port then s
  else (s.fabSend port peer ySYNC 0 0 (leBytes 8 t2 ++ leBytes 8 t3)).syncSample port peer t2 (t3 - t2)

/-- A request for a period that is out of range is dropped (R56). -/
def State.refusePeriod (s : State) : State :=
  ((s.set CAD_PERIOD.next_refused 1).set CAD_PERIOD.period_next 0).set CAD_PERIOD_AT.stride 0

/-- CAD_PERIOD_WRITE (R55, R56). -/
def State.periodWrite (s : State) (at_ : Bool) (v : Word) : State :=
  if at_ then
    let n := v.toNat
    if n = 0 then s.set CAD_PERIOD_AT.stride 0
    else if n % 256 ≠ 0 ∨ n ≤ s.begun then s.refusePeriod
    else s.set CAD_PERIOD_AT.stride n
  else
    let s := if bitsOf v 61 61 = 1 then s.set CAD_PERIOD.next_refused 0 else s
    let n := bitsOf v 40 21
    let at_ := s.get CAD_PERIOD_AT.stride
    if n ≠ 0 ∧ (n < 500 ∨ 1000000 < n ∨ (at_ ≠ 0 ∧ at_ ≤ s.begun)) then s.refusePeriod else s.set CAD_PERIOD.period_next n

/-- Quiet in every in-service block (R285). -/
def State.swapIsQuiet (s : State) : Bool :=
  s.inService.all (fun p =>
    let b := s.block p
    b.queue.isEmpty && b.ctxs.isEmpty && b.cqs.isEmpty && b.jobs.isEmpty && b.mesh.resend.isEmpty &&
      (List.range 8).all fun t => (List.range 4).all fun i => ((b.thread t).slot i).st == 0) &&
    (s.endpoints.all fun x => x.2.resend.isEmpty) && s.calls.all fun x => x.2.isEmpty

/-- SWAP_QUIET_WAIT (R283 to R285, R427): every acknowledgement of S − 1 is in, and the Cadence withholds beat S. In Mirror a twin that has not
staged the same image for S ends the swap. -/
def State.swapWait (s : State) : State :=
  let n := s.nextStride
  if !s.cad.done || s.get CAD_CTL.phase != 0 || s.dev == dRecovering then s
  else if s.get CHP_IMG_STATUS.stage = 2 ∧ s.get CHP_SWAP_AT.stride = n ∧ n ≠ 0 then
    let there := !s.pairedIn 1 || Config.twinStaged s.freeCtr
    let s : State := if s.pairedIn 1 then { s with freeCtr := s.freeCtr + 1 } else s
    if !there then s.dropStaged 0x57
    else if !s.leaseFree 10 0 then s
    else
      let s := (s.acquire { code := 10, res := 0 } true).1
      ({ s with images := { s.images with quietAt := s.now } } : State).set CHP_IMG_STATUS.stage 3
  else if s.swapHolds n && s.far.actStage == 0 && s.far.activating.isSome then
    if s.leaseHeld 8 0 then { s with far := { s.far with actStage := 1, actAt := s.now } }
    else { s with far := { s.far with activating := s.far.activating.map fun x => (x.1, x.2 + 256) } }
  else s

/-- This twin's quiet report (R285). -/
def State.sayQuiet (s : State) (n : Nat) : State :=
  if s.twin.quietSaid = some n then s else (s.onTwin fun t => { t with quietSaid := some n }).yokeSend yQUIET [n] []

/-- The swapped image loads while beat S waits (R286): a refusal ends the swap at once. -/
def State.swapLoad (s : State) (n : Nat) (i : Img) : State :=
  let tick := s.tickOf (n + ceilDiv 6000000 (s.get CAD_PERIOD.current))
  let us := Config.swapLoadUs s.freeCtr
  match (s.installImage i (s.place i fun _ => 0).2).1 with
  | some h => ((s.dropStaged h.code).holdDetail h).release 10 0
  | none =>
    let s : State := { s with freeCtr := s.freeCtr + 1, images := { s.images with
      swapTick := some (max tick (s.now + 1000 * us)), swapDue := tick } }
    (s.set CHP_IMG_STATUS.stage 4).set CHP_SWAP_STATUS.load_us (min us 65535)

/-- SWAP_QUIET (R285, R286, R427): quiet here and, in Mirror, at the twin: the load runs. -/
def State.swapQuiet (s : State) : State :=
  let n := s.nextStride
  let stage := s.get CHP_IMG_STATUS.stage
  if (stage ≠ 3 ∧ s.far.actStage ≠ 1) ∨ !s.swapIsQuiet then s
  else
    let s := if s.pairedIn 1 then s.sayQuiet n else s
    if s.pairedIn 1 && s.twin.peerQuiet != some n then s
    else if stage = 3 then
      match s.images.staged with
      | some i => s.swapLoad n i
      | none => s
    else
      let tick := s.tickOf (n + ceilDiv 5000000 (s.get CAD_PERIOD.current))
      { s with far := { s.far with actStage := 2 }, cad := { s.cad with hold := some tick } }

/-- SWAP_QUIET_TIMEOUT (R285, R427): 1 ms without quiet defers to the next checkpoint stride; the third time ends it. -/
def State.swapTimeout (s : State) : State :=
  if s.get CHP_IMG_STATUS.stage = 3 then
    if s.now < s.images.quietAt + 1000000 then s else s.swapDefer
  else if s.far.actStage = 1 then
    if s.now < s.far.actAt + 1000000 then s
    else
      let d := s.far.actDefer + 1
      match s.far.activating with
      | none => s
      | some (c, at_) =>
        if d = 3 then
          (({ s with far := { s.far with activating := none, actStage := 0, actDefer := 0 } } : State).release 8 0).raise 2 0
            { code := Config.notQuietCode, detail := d }
        else { s with far := { s.far with activating := some (c, at_ + 256), actStage := 0, actDefer := d } }
  else s

/-- The region that has waited longest for the epoch lease takes it (R199). -/
def State.flipNext (s : State) : State :=
  match s.cad.flipWaits with
  | [] => s
  | r :: rs => ({ s with cad := { s.cad with flipWaits := rs } } : State).flipStart r

/-- FLIP_DRAINED (R195 step 6, R199, R344 step 6): the remount leases end with the flip, and a waiting flip begins. -/
def State.flipOver (s : State) : State :=
  let was := s.rget 0 RGN_EPOCH.drained
  let s := s.flipDrained
  if was = 0 ∧ s.rget 0 RGN_EPOCH.drained = 1 then
    (s.setLeases { s.leases with held := s.leases.held.filter fun l => l.code != 2 && l.code != 6 }).flipNext
  else s

end Sys2Proof.Machine
end

