-- ==== Sys2Proof/Machine/DispatchOps.lean ====
section
/-! DEFINITION. Dispatch: rings, commands, admission, jobs, completions and the event ring (R56, R387 to R401, R407, R443). -/

namespace Sys2Proof.Machine

/-- Whether the bytes that an op does not use are zero, and its op exists (R389, R390). -/
def cmdBad (e : List Byte) : Bool :=
  let op := leAt e 4 1
  let z := fun a n => zeroAt e a n
  let tail := z 6 2 && z 29 1 && z 40 24
  let flags := leAt e 5 1
  if 5 ≤ op then true
  else if op = 1 then !(tail && decide (flags < 2) && z 16 14 && z 30 2 && z 36 4)
  else if op = 2 then !(tail && flags == 0)
  else if op = 0 then !(tail && flags == 0 && z 8 32)
  else !(tail && flags == 0 && z 16 24)

/-- A command entry (R389). -/
def Cmd.ofEntry (r : Nat) (e : List Byte) : Cmd :=
  { ring := r, seq := leAt e 0 4, op := leAt e 4 1, multi := nbit (leAt e 5 1) 0, stride := leAt e 8 8, addr := leAt e 16 8,
    tier := leAt e 24 1, lines := leAt e 25 1 + 1, lblock := leAt e 26 2, queue := leAt e 28 1, tag := leAt e 30 2,
    ident := leAt e 32 8, bad := cmdBad e }

/-- Slots of the completion ring (R391, R399): 0 while it is not served. -/
def State.cplSize (s : State) : Nat :=
  if s.get CMD_CPL_CTL.enable = 1 then ringSize 6 14 (s.get CMD_CPL_CTL.lg_size) else 0

/-- Whether a ring of `n` slots has no room (R398, R399). -/
def ringFull (n head tail : Nat) : Bool := n == 0 || (head + 1) % n == tail % n

/-- Whether the completion ring is full (R391). -/
def State.cplFull (s : State) : Bool := ringFull s.cplSize (s.get CMD_CPL_HEAD.index) (s.get CMD_CPL_TAIL.index)

/-- Slots of a command ring, 0 while it is not served (R388, R408). -/
def State.cmdSize (s : State) (r : Nat) : Nat :=
  if s.get (CMD_RING_CTL.enable r) = 1 then ringSize 6 12 (s.get (CMD_RING_CTL.lg_size r)) else 0

/-- Whether an entry of ring `r` can be fetched (R390, R401). -/
def State.canFetch (s : State) (r : Nat) : Bool :=
  let n := s.cmdSize r
  n != 0 && s.get (CMD_RING_CTL.gap r) == 0 && s.get (CMD_RING_HEAD.index r) % n != s.get (CMD_RING_TAIL.index r) % n &&
    (s.get (CMD_RING_CTL.step r) == 0 || s.dispatch.granted.contains r)

/-- COMMAND_FETCH (R388 to R391, R401): the next ring in turn that has an entry to fetch. -/
def State.commandFetch (s : State) : State :=
  let d := s.dispatch
  if 4096 ≤ d.work.length || s.cplFull || s.dev == dOff then s
  else
    match ((List.range 4).map fun k => (d.turn + k) % 4).find? s.canFetch with
    | none => s
    | some r =>
      let n := s.cmdSize r
      let tail := s.get (CMD_RING_TAIL.index r) % n
      let c := Cmd.ofEntry r (s.tiers.bytesAt 2 (s.get (CMD_RING_CTL.base r) + 64 * tail) 64)
      let want := nextSeq (s.get (CMD_LAST_ACCEPTED.seq r))
      let next := fun (s : State) => (s.set (CMD_RING_TAIL.index r) ((tail + 1) % n)).setDispatch { d with turn := (r + 1) % 4 }
      if c.seq = want then
        let s := (next s).set (CMD_LAST_ACCEPTED.seq r) c.seq
        let w : Work := { cmd := c }
        let s := s.setDispatch { s.dispatch with work := d.work ++ [w], granted := d.granted.erase r }
        if c.bad then s.reply w stBAD_COMMAND 0 else s.doneFloor r
      else if c.seq ≠ 0 ∧ 1 ≤ seqBehind want c.seq ∧ seqBehind want c.seq ≤ 2 ^ 31 then
        (next s).set (CMD_RING_CTL.dups r) (min 7 (s.get (CMD_RING_CTL.dups r) + 1))
      else (s.set (CMD_RING_CTL.gap r) 1).setDispatch { d with turn := (r + 1) % 4 }
/-- CMD_NOP (R392). -/
def State.cmdNop (s : State) : State :=
  match s.nextWork 0 with
  | none => s
  | some w => s.reply w stOK 0

/-- Whether a multi-module job may launch (R56): the source, or a locked follower. -/
def State.syncReady (s : State) : Bool :=
  s.synced && (s.get CAD_SYNC_CTL.role == 1 || s.get CAD_SYNC_STATUS.locked == 1)

/-- LAUNCH (R26, R56, R392). -/
def State.launch (s : State) : State :=
  match s.nextWork 1 with
  | none => s
  | some w =>
    let n := w.cmd.stride
    if s.dev ≠ dReady then s.reply w stIMAGE_UNCOMMITTED 0
    else if s.hasJob then s.reply w stBAD_COMMAND 0
    else if n % 256 ≠ 0 then s.reply w stLAUNCH_UNALIGNED 0
    else if n ≤ s.get CAD_STRIDE.stride then s.reply w stLAUNCH_LATE 0
    else if w.cmd.multi && !s.syncReady then s.reply w stSYNC_UNLOCKED 0
    else
      let s := s.setWork w { w with step := 1 }
      let j : Job := { ring := w.cmd.ring, seq := w.cmd.seq, ident := w.cmd.ident, multi := w.cmd.multi, start := n }
      let s := (s.setDispatch { s.dispatch with job := some j, acked := none }).showJob
      s.inService.foldl (fun s p => s.setBlock p ((s.block p).forLaunch (s.env p))) s

/-- Whether an ADMIT that leaves its stride open waits for the partner's record of the same ident (R395): in a job taken over, where there
is one. -/
def State.takesStride (s : State) (ident : Nat) : Bool :=
  s.follows && (s.twState != twALONE || s.twin.admits.any fun x => x.ident == ident)

/-- The fields of an ADMIT that name an input and a destination (R389). -/
def Cmd.admitOk (c : Cmd) : Bool :=
  (c.tier == 1 || c.tier == 2) && decide (c.lines ≤ 32) && c.addr % 64 == 0 && decide (c.lblock < 1200)

/-- ADMIT (R392, R394 step 1, R395): the stride is checked or chosen; an off twin in Mirror waits for its partner's. -/
def State.admitNext (s : State) : State :=
  match s.nextWork 2 with
  | none => s
  | some w =>
    let now := s.begun
    let a := w.cmd.stride
    if !s.hasJob then s.reply w stNO_JOB 0
    else if !w.cmd.admitOk then s.reply w stBAD_COMMAND 0
    else if now + 200 < a then s.reply w stBAD_COMMAND 0
    else if a ≠ 0 ∧ a ≤ now then s.reply w stSTRIDE_PAST 0
    else if a = 0 ∧ s.takesStride w.cmd.ident then s.setWork w { w with step := 1 }
    else
      let a := if a = 0 then now + max 2 (s.get TWN_CFG.lead) else a
      (s.setWork w { w with step := 1, a := a }).tellAdmit w.cmd a

/-- Whether every acknowledgement of stride a − 1 is in (R394 step 2): before its first stride no block works for the job. -/
def State.reached (s : State) (a : Nat) : Bool :=
  let n := s.get CAD_STRIDE.stride
  match s.dispatch.job with
  | none => false
  | some j =>
    if !j.begun then decide (a ≤ j.start)
    else !(s.rcv.active && !s.rcv.replaying) && (decide (a ≤ n) || (a == n + 1 && s.cad.done))

/-- The input of an admission as this module holds it (R394, R395): none while an off twin still waits for the payload, or
where the input cannot be read. -/
def State.inputOf (s : State) (c : Cmd) : Option (List Byte) × Bool :=
  let ok := s.tiers.inRange c.tier c.addr && s.tiers.inRange c.tier (c.addr + 64 * c.lines - 1)
  let own := s.inputBytes c
  if s.follows then
    match s.twin.admits.find? fun x => x.ident == c.ident with
    | some x =>
      if ok && own.length == x.length && (crc64 own).toNat == x.crc then (some own, true)
      else match s.twin.inputs.find? fun y => y.1 == c.ident with
        | some (_, bs) => (some (padTo 64 bs), true)
        | none => (none, false)
    | none => (some own, ok)
  else (some own, ok)

/-- An input goes to the queue of the logical block's current physical block (R394 step 2). -/
def State.sendInput (s : State) (c : Cmd) (a : Nat) (bytes : List Byte) : State :=
  let p := (s.pblockOf c.lblock).getD 0
  let n := bytes.length / 64
  let k : Pkt := { kind := kMESSAGE, isData := decide (1 < n), src := 1400, srcidx := 1400, qid := c.queue, length := if 1 < n then n - 1 else 0,
                   incarn := (s.block p).get (BLK_Q_CFG.incarn c.queue), tag := a % 256 * 65536 + c.tag, payload := bytes }
  s.sendFrom 1400 { pkt := k, idx := c.lblock, owner := .admission c.ring c.seq }

/-- An input of recovery's second admission is sent (R344, R394). -/
def State.deliverAgain (s : State) (w : Work) : State :=
  let d := s.dispatch
  match s.inputOf w.cmd, s.pblockOf w.cmd.lblock with
  | (some bs, true), some _ =>
    (s.setDispatch { d with again := d.again.map fun x => if x == w then { w with step := 2 } else x }).sendInput w.cmd w.a bs
  | (none, _), _ => s.askInput w.cmd.ident
  | _, _ => s.setDispatch { d with again := d.again.erase w }

/-- An input that cannot be read or has no block is refused with OUT_OF_RANGE (R124). -/
def State.deliver (s : State) (w : Work) : State :=
  match s.inputOf w.cmd, s.pblockOf w.cmd.lblock with
  | (some bs, true), some _ => (s.setWork w { w with step := 2 }).sendInput w.cmd w.a bs
  | (none, _), _ => s.askInput w.cmd.ident
  | _, _ => s.finish w stADMIT_REFUSED 7 0 w.cmd.ident

/-- An off twin takes the admission stride from its partner's ADMIT of the same ident (R395). -/
def State.takeAdmits (s : State) : State :=
  let known := fun (w : Work) => if w.cmd.op == 2 && w.step == 1 && w.a == 0 then
      match s.twin.admits.find? fun x => x.ident == w.cmd.ident with
      | some x => { w with a := x.stride }
      | none => w
    else w
  s.setDispatch { s.dispatch with work := s.dispatch.work.map known }

/-- An input that the partner admitted and this twin's driver has not posted is asked for by beat a − 1 (R395). -/
def State.askMissing (s : State) : State :=
  if !s.follows || s.twState == twALONE then s
  else
    let late := s.twin.admits.filter fun x => decide (x.stride ≤ s.get CAD_STRIDE.stride + 1) &&
      !(s.dispatch.work.any fun w => w.cmd.op == 2 && w.cmd.ident == x.ident) && !(s.twin.inputs.any fun y => y.1 == x.ident)
    late.foldl (fun s x => s.askInput x.ident) s

/-- ADMIT_DELIVER (R394, R395): the first input whose stride has been reached; recovery's own admissions come first, and a full
log makes the others wait. -/
def State.admitDeliver (s : State) : State :=
  let s := s.takeAdmits.askMissing
  match s.dispatch.again.find? fun w => w.step == 1 && s.reached w.a with
  | some w => s.deliverAgain w
  | none =>
    match s.dispatch.work.find? fun w => w.cmd.op == 2 && w.step == 1 && w.a != 0 && s.reached w.a with
    | some w => if 65536 ≤ s.dispatch.log.length then s else s.deliver w
    | none => s

/-- END (R392, R393): no stride after e starts. -/
def State.endCmd (s : State) : State :=
  match s.nextWork 3 with
  | none => s
  | some w =>
    match s.dispatch.job with
    | none => s.reply w stNO_JOB 0
    | some j =>
      let e := w.cmd.stride
      if (j.begun ∧ e < s.begun) ∨ (¬ j.begun ∧ e < j.start) then s.reply w stSTRIDE_PAST 0
      else
        let s := s.setWork w { w with step := 1 }
        let e := match j.endAt with | some x => min x e | none => e
        (s.setDispatch { s.dispatch with job := some { j with endAt := some e } }).showJob

/-- WAIT (R392). -/
def State.waitCmd (s : State) : State :=
  match s.nextWork 4 with
  | none => s
  | some w =>
    if !s.hasJob then s.reply w stNO_JOB 0
    else
      let n := w.cmd.stride
      let past : Bool := match s.dispatch.acked with | some m => s.jobRuns && decide (n ≤ m) | none => false
      if past then s.finish w stOK 0 n w.cmd.ident else s.setWork w { w with step := 1 }

/-- The job ends by END at stride e (R392, R393): LAUNCH and END complete OK, what else is open is aborted. -/
def State.jobEnded (s : State) (e : Nat) : State :=
  let s := match s.launchWork with | some w => s.finish w stOK 0 e w.cmd.ident | none => s
  let s := (s.dispatch.work.filter fun w => w.cmd.op == 3 && w.step != 0).foldl (fun s w => s.finish w stOK 0 e w.cmd.ident) s
  let s := (s.finishAll [2, 4] stABORTED).dropJob
  if s.inJob then s.goTo dReady else s

/-- What ended the job (R170, R393, R396): a status, a fault code and a logical block, 0x7FF where none is at fault. -/
def State.jobFaultOf (s : State) : Option (Nat × Nat × Nat) :=
  match s.jobFault with
  | some (status, code) => some (status, code, 0x7FF)
  | none => s.blocks.findSome? fun x => if (s.rmtOf x.1).state = 5 then none else x.2.jobFault.map fun (status, code) => (status, code, x.2.lblock)

/-- JOB_END (R393): a unit has ended the job, the device has left Ready before its first stride, or the outputs of END's stride
have been released. -/
def State.jobEnd (s : State) : State :=
  match s.dispatch.job, s.jobFaultOf with
  | none, _ => s
  | some _, some (status, code, l) => s.endJob status code l
  | some j, none =>
    if !j.begun then (if s.dev = dReady then s else s.endJob stIMAGE_UNCOMMITTED 0 0x7FF)
    else
      match j.endAt with
      | none => s
      | some e => if e ≤ s.get CHP_RCV_RELEASED.stride then s.jobEnded e else s

/-- The bytes of a completion entry (R396). -/
def Completion.bytes (c : Completion) : List Byte :=
  leBytes 4 c.seq ++ leBytes 1 c.ring ++ leBytes 1 c.op ++ leBytes 1 c.status ++ leBytes 1 c.detail ++ leBytes 8 c.cpl ++
    leBytes 8 c.stride ++ leBytes 8 c.ident ++ List.replicate 32 0

/-- COMPLETION_POST (R391, R396): the oldest completion that waits for room. -/
def State.completionPost (s : State) : State :=
  match s.dispatch.done with
  | [] => s
  | c :: rest =>
    let n := s.cplSize
    if s.cplFull || s.dev == dOff then s
    else
      let head := s.get CMD_CPL_HEAD.index % n
      let a := s.get CMD_CPL_CTL.base + 64 * head
      let s := s.setDispatch { s.dispatch with done := rest }
      let s := if s.tiers.ddrOk a then s.setTiers (s.tiers.putLines 2 a c.bytes) else s
      (s.set CMD_CPL_HEAD.index ((head + 1) % n)).set CMD_CPL_SEQ.seq c.cpl

/-- What CMD_QUERY finds (R397): state, status and completion number. -/
def State.queryOf (s : State) (r seq : Nat) : Nat × Nat × Nat :=
  match s.dispatch.history.find? fun c => c.ring == r && c.seq == seq with
  | some c => (3, c.status, c.cpl)
  | none =>
    if s.dispatch.work.any fun w => w.cmd.ring == r && w.cmd.seq == seq then (2, 0, 0)
    else
      let ahead := (seq + 2 ^ 32 - s.get (CMD_LAST_ACCEPTED.seq r)) % 2 ^ 32
      (if seq ≠ 0 ∧ 1 ≤ ahead ∧ ahead < 2 ^ 31 then 1 else 0, 0, 0)

/-- COMMAND_QUERY (R397): a write of CMD_QUERY. -/
def State.commandQuery (s : State) (v : Word) : State :=
  let r := bitsOf v 33 32
  let seq := bitsOf v 31 0
  let s := (s.set CMD_QUERY.ring r).set CMD_QUERY.seq seq
  if bitsOf v 63 63 = 0 then s
  else
    let (st, status, cpl) := s.queryOf r seq
    ((s.set CMD_QUERY_RESULT.state st).set CMD_QUERY_RESULT.status status).set CMD_QUERY_RESULT.cpl_seq cpl

/-- STEP_GRANT (R401): at most one permission a ring, and only while it is single-stepped. -/
def State.stepGrant (s : State) (r : Nat) : State :=
  if s.get (CMD_RING_CTL.step r) = 0 ∨ s.dispatch.granted.contains r then s
  else s.setDispatch { s.dispatch with granted := r :: s.dispatch.granted }

/-- RING_ENABLE for a command ring (R399, R401). -/
def State.writeRing (s : State) (r : Nat) (v : Word) : State :=
  let was := s.get (CMD_RING_CTL.enable r)
  let s := if was = 1 then s
    else (s.set (CMD_RING_CTL.lg_size r) (bitsOf v 55 52)).set (CMD_RING_CTL.base r) (bitsOf v 42 0)
  let s := (s.set (CMD_RING_CTL.enable r) (bitsOf v 63 63)).set (CMD_RING_CTL.step r) (bitsOf v 62 62)
  let s := if bitsOf v 58 56 = 0 then s.set (CMD_RING_CTL.dups r) 0 else s
  let s := if bitsOf v 62 62 = 0 then s.setDispatch { s.dispatch with granted := s.dispatch.granted.erase r } else s
  if was = 0 ∧ bitsOf v 63 63 = 1 then (s.set (CMD_RING_HEAD.index r) 0).set (CMD_RING_TAIL.index r) 0 else s

/-- RING_ENABLE for the completion ring (R399). -/
def State.writeCpl (s : State) (v : Word) : State :=
  let was := s.get CMD_CPL_CTL.enable
  let s := if was = 1 then s else (s.set CMD_CPL_CTL.lg_size (bitsOf v 55 52)).set CMD_CPL_CTL.base (bitsOf v 42 0)
  let s := s.set CMD_CPL_CTL.enable (bitsOf v 63 63)
  if was = 0 ∧ bitsOf v 63 63 = 1 then (s.set CMD_CPL_HEAD.index 0).set CMD_CPL_TAIL.index 0 else s

/-- RING_ENABLE for the event ring (R399). -/
def State.writeEvt (s : State) (v : Word) : State :=
  let was := s.get CMD_EVT_CTL.enable
  let s := if was = 1 then s else (s.set CMD_EVT_CTL.lg_size (bitsOf v 55 52)).set CMD_EVT_CTL.base (bitsOf v 42 0)
  let s := s.set CMD_EVT_CTL.enable (bitsOf v 63 63)
  if was = 0 ∧ bitsOf v 63 63 = 1 then (s.set CMD_EVT_HEAD.index 0).set CMD_EVT_TAIL.index 0 else s

/-- RING_ENABLE (R399): a write of CMD_RING_CTL 0 to 3, CMD_CPL_CTL as 4 or CMD_EVT_CTL as 5. -/
def State.ringEnable (s : State) (ring : Nat) (v : Word) : State :=
  if ring < 4 then s.writeRing ring v else if ring = 4 then s.writeCpl v else s.writeEvt v

/-- A write of CMD_RING_HEAD ends a stall on a sequence gap (R390). -/
def State.writeHead (s : State) (r : Nat) (v : Word) : State :=
  (s.set (CMD_RING_HEAD.index r) (bitsOf v 15 0)).set (CMD_RING_CTL.gap r) 0

/-- A record goes to the event ring (R398). -/
def State.postEvent (s : State) (seq : Nat) (bytes : List Byte) : State :=
  let n := if s.get CMD_EVT_CTL.enable = 1 then ringSize 6 14 (s.get CMD_EVT_CTL.lg_size) else 0
  let head := s.get CMD_EVT_HEAD.index
  if ringFull n head (s.get CMD_EVT_TAIL.index) then s.count CMD_EVT_DROPPED.count 1
  else
    let a := s.get CMD_EVT_CTL.base + 64 * (head % n)
    let s := if s.tiers.ddrOk a then s.setTiers (s.tiers.putLines 2 a bytes) else s
    (s.set CMD_EVT_HEAD.index ((head % n + 1) % n)).set CMD_EVT_SEQ.seq seq

/-- PEER_RESET (R407, R443): a frame for the running job ends it with PEER_RESET and the member performs a chip (warm) reset, which takes
the place of the move to Ready (R23). -/
def State.peerReset (s : State) : State :=
  match s.peerResetFrame with
  | none => s
  | some (i, f) =>
    let s := s.onPort i fun x => { x with inbox := x.inbox.erase f }
    match s.dispatch.job with
    | none => s
    | some j => if j.ident % 2 ^ 32 = f.ident % 2 ^ 32 ∧ j.begun then (s.closeJob stPEER_RESET 0 0x7FF).warmReset 5 else s

end Sys2Proof.Machine
end

