-- ==== Sys2Proof/Machine/Farrier.lean ====
section
/-! DEFINITION. The Farrier at work: log intake and export, sensors and trips, management sessions, keys, firmware and the mailbox
(R411 to R431, R323, R378, R438, R464). -/

namespace Sys2Proof.Machine

/-- Whether a session may be used: the Farrier runs and scan is not open (R429). -/
def State.sessionUp (s : State) (i : Nat) : Bool := s.far.awake && s.get FAR_SCAN.openS == 0 && (mget sessionInit s.far.sessions i).open_

/-- Replace a session. -/
def State.setSession (s : State) (i : Nat) (x : Session) : State := s.onFar fun f => { f with sessions := mset sessionInit f.sessions i x }

/-- A command's one answer (R420). -/
def State.answer (s : State) (i n : Nat) (r : MgmtResult) (bytes : List Byte) : State := { s with out := s.out ++ [.answer i n r bytes] }

/-- A record goes to every session that subscribes up to it (R414, R415). -/
def State.pushRecord (s : State) (seq : Nat) (bytes : List Byte) : State :=
  let subs := s.far.sessions.filter fun x => x.2.open_ && (match x.2.next with | some n => decide (n ≤ seq) | none => false)
  subs.foldl (fun s (i, x) => ({ s with out := s.out ++ [.record i bytes] } : State).setSession i { x with next := some (seq + 1) }) s

/-- Room in the chip steward's buffer is filled from below, and its coalesced counts become records (R412). -/
def State.fillHalter (s : State) : State :=
  let s := (List.range 16).foldl (fun s r => s.drainRegion r) s
  let s := ((s.blocks.filter fun x => !x.2.ev.isEmpty || !x.2.coalesced.isEmpty).map Prod.fst).foldl (fun s p => s.drainEv p) s
  if s.evCoalesced.isEmpty || decide (6144 ≤ s.ev.length) then s
  else
    let co := s.evCoalesced.map fun (k, n) => s.stamp { level := 2, code := 0xA5, cell := 0, detail := k % 256, detail2 := n }
    { s with ev := s.ev ++ co, evCoalesced := [] }

/-- EVENT_RECORD_INTAKE (R413, R414): the next record is numbered below M, kept, and forwarded. -/
def State.recordIntake (s : State) : State :=
  match s.ev with
  | [] => s
  | e :: rest =>
    if !s.far.awake then s
    else
      let seq := s.far.next
      let s : State := { s with ev := rest }
      let s := s.onFar fun f => { f with mark := if f.mark ≤ seq then f.mark + 65536 else f.mark, next := seq + 1, log := f.log ++ [(seq, e)] }
      let s := ((s.postEvent seq (e.bytes seq)).pushRecord seq (e.bytes seq)).fillHalter
      if s.far.inFlash + 256 ≤ s.far.log.length then s.flushLog else s

/-- LOG_FLUSH (R414). -/
def State.logFlush (s : State) : State := if s.far.awake then s.flushLog else s

/-- What a log read finds (R415). -/
def State.logLookup (s : State) (seq : Nat) : MgmtResult × List Byte :=
  let held := s.far.log.take s.far.inFlash
  match held.head?, held.getLast? with
  | some a, some b =>
    if b.1 < seq then (.logNotYet, [])
    else if seq < a.1 then (.logGone, [])
    else match held.find? fun x => x.1 == seq with
      | some (_, e) => (.ok, e.bytes seq)
      | none => (.logGap, [])
  | _, _ => (.logNotYet, [])

/-- A stud-book record (R430): kind, unit, time, data. -/
def Stud.bytes (x : Stud) : List Byte :=
  leBytes 1 x.kind ++ [0] ++ leBytes 6 x.place ++ leBytes 8 (Config.utcBase + x.at_ / 1000000000) ++ leBytes 8 x.info ++ List.replicate 8 0

/-- The sensors that exist (R416). -/
def sensorUsed (i : Nat) : Bool := decide (i < 99) || (decide (104 ≤ i) && decide (i < 134))

/-- Whether a reading trips the module (R419). -/
def State.tripping (s : State) (i : Nat) (v : Int) : Bool :=
  (decide (i < 64) && decide ((16 * s.far.tripC : Int) ≤ v)) || (decide (104 ≤ i) && decide (i < 120) && decide (1680 ≤ v))

/-- Whether a reading is beyond a limit that only raises an event (R239, R419, R469). -/
def warning (i : Nat) (v : Int) : Bool :=
  (decide (104 ≤ i) && decide (i < 112) && decide (1520 < v)) || (decide (120 ≤ i) && decide (i < 132) && decide (1360 < v)) ||
    (i == 132 && decide (720 < v))

/-- A sensor's limit event (R434). -/
def State.sensorEvent (s : State) (i v outcome : Nat) : State := s.raise 6 0 { code := 0xBA, outcome := outcome, detail := i, detail2 := v % 2 ^ 32 }

/-- Every rail but the Farrier's falls, and the device is out of service with cause 2 (R292, R419). -/
def State.railsFall (s : State) : State :=
  let s := s.outOfService 2
  let s : State := { s with pins := { s.pins with powerGood := false }, bring := { s.bring with rider := false, beatAt := none } }
  (s.onFar fun f => { f with railBreak := true, reading := false }).set CAD_CTL.run 0

/-- A junction or a die is at its trip temperature (R419). -/
def State.tripIf (s : State) (i v : Nat) : State :=
  if s.tripping i (signed 32 v) then (s.sensorEvent i v 4).railsFall else s

/-- A region rail out of its limits (R295, R353). -/
def State.railIf (s : State) (i v : Nat) : State :=
  if 64 ≤ i ∧ i < 96 ∧ Config.railBad (s.volt ((i - 64) / 2)) v = true then
    ((s.sensorEvent i v 2).onFar fun f => { f with railBreak := true }).regionRecovery ((i - 64) / 2) false
  else s

/-- SENSOR_READ (R416, R419, R464, R469). -/
def State.sensorRead (s : State) (i v : Nat) : State :=
  if !s.far.awake || !s.far.reading || !sensorUsed i then s
  else
    let old := signed 32 (s.sensor i)
    let s : State := { s with sens := mset natZero s.sens i v }
    let s := s.onFar fun f => { f with
      sensAt := mset natZero f.sensAt i (s.now + 1), coolLost := if i = 132 then false else f.coolLost,
      sumW := if i = 98 then f.sumW + v else f.sumW, samplesW := if i = 98 then f.samplesW + 1 else f.samplesW }
    let s := if i = 98 then s.set FAR_PWR.input_w (min v 65535) else s
    let s := if warning i (signed 32 v) && !warning i old then s.sensorEvent i v 4 else s
    let s := if i < 64 then s.spoilSlices (i / 4) else s
    let s := if s.tripping i old then s else s.tripIf i v
    s.railIf i v

/-- Sensor 132 reads invalid after 5 s without a valid reading (R464). -/
def State.coolantWatch (s : State) : State :=
  let at_ := mget natZero s.far.sensAt 132
  if s.far.awake && s.far.reading && !s.far.coolLost && at_ != 0 && decide (at_ - 1 + 5000000000 ≤ s.now) then
    (s.onFar fun f => { f with coolLost := true, sensAt := mset natZero f.sensAt 132 0 }).sensorEvent 132 0 4
  else s

/-- One nanosecond goes by (R32): the timebase counts it, and gains or loses one more for each million ppm that its rate correction has
gathered (R52, R53). -/
def State.tick (s : State) : State :=
  let f := s.cad.frac + s.cad.rate
  let c : Cadence := { s.cad with frac := if 1000000 ≤ f then f - 1000000 else if f ≤ -1000000 then f + 1000000 else f }
  let n := if 1000000 ≤ f then 2 else if f ≤ -1000000 then 0 else 1
  ({ s with now := s.now + n, cad := c } : State).coolantWatch

/-- SESSION_OPEN (R420, R429): at most 4; once an operator anchor is installed the client's certificate must chain to it. -/
def State.sessionOpen (s : State) (chains : Bool) : State :=
  if !s.far.awake || s.get FAR_SCAN.openS == 1 || (s.far.anchor.isSome && !chains) then s
  else
    match (List.range 4).find? fun i => !(mget sessionInit s.far.sessions i).open_ with
    | none => s
    | some i => s.setSession i { open_ := true, anchored := s.far.anchor.isSome }

/-- A management command: it is answered only in an open session; before an anchor is installed only INSTALL_ANCHOR is
accepted, and from ROM only what R421 names. `rom` says that the command is one of these. -/
def State.manage (s : State) (i n : Nat) (rom : Bool) (f : State → State × MgmtResult × List Byte) : State :=
  if !s.sessionUp i then s
  else if !(mget sessionInit s.far.sessions i).anchored || (s.far.rom && !rom) then s.answer i n .state []
  else
    let (s, r, bs) := f s
    s.answer i n r bs

/-- The state report (R29, R421): the state code, CHP_STATE, CHP_READY, the cap in force and the versions of the slots in use. -/
def State.stateReport (s : State) : List Byte :=
  leBytes 1 s.dev ++ leBytes 8 (mget chipReset s.regs CHP_STATE.off).toNat ++ leBytes 8 (mget chipReset s.regs CHP_READY.off).toNat ++
    leBytes 2 s.cap ++ (List.range 5).flatMap fun c => leBytes 8 (leAt (s.fw (c + 1)).used 8 8)

/-- GET_STATE (R421). -/
def State.getState (s : State) (i n : Nat) : State := s.manage i n true fun s => (s, .ok, s.stateReport)

/-- SUBSCRIBE (R415): records held from the starting number on are pushed, and later ones as they come; a session too far behind
gets one LAG notice. -/
def State.subscribe (s : State) (i n start : Nat) : State :=
  if !s.sessionUp i then s
  else
    let s := s.manage i n false fun s => (s, .ok, [])
    let x := mget sessionInit s.far.sessions i
    if !x.anchored || s.far.rom then s
    else if start + 65536 + 1 < s.far.next then ({ s with out := s.out ++ [.lag i start] } : State).setSession i { x with next := none }
    else
      let held := s.far.log.filter fun y => decide (start ≤ y.1)
      let s : State := { s with out := s.out ++ held.map fun y => .record i (y.2.bytes y.1) }
      s.setSession i { x with next := some (max start s.far.next) }

/-- LOG_READ (R415). -/
def State.mgmtLogRead (s : State) (i n seq : Nat) : State := s.manage i n false fun s => (s, s.logLookup seq)

/-- SENSORS (R421): every sensor that has a reading. -/
def State.sensors (s : State) (i n : Nat) : State :=
  s.manage i n false fun s =>
    (s, .ok, ((List.range 134).filter fun j => mget natZero s.far.sensAt j != 0).flatMap fun j => leBytes 1 j ++ leBytes 4 (s.sensor j))

/-- STUD_READ (R421, R430). -/
def State.studRead (s : State) (i n index : Nat) : State :=
  s.manage i n false fun s => (s, .ok, (s.stud.drop index).flatMap Stud.bytes)

/-- A configuration value in its range (R411), none where it is outside. -/
def State.configure (s : State) : ConfigItem → Option State
  | .riderGib v => if 16 ≤ v ∧ v ≤ 1024 ∧ v % 16 = 0 then some (s.onFar fun f => { f with riderGib := v }) else none
  | .mgmtAddr bs => some (s.onFar fun f => { f with mgmtAddr := bs })
  | .mgmtCapW v =>
    if v = 0 ∨ (s.fuses.capW ≤ 2 * v ∧ v ≤ s.fuses.capW) then some (s.onFar fun f => { f with mgmtCap := v }).showCap else none
  | .thermalTripC v =>
    if 100 ≤ v ∧ v ≤ 110 then
      let s := s.onFar fun f => { f with tripC := v }
      match (List.range 64).find? fun j => mget natZero s.far.sensAt j != 0 && s.tripping j (signed 32 (s.sensor j)) with
      | some j => some (s.tripIf j (s.sensor j))
      | none => some s
    else none

/-- SET_CONFIG (R411). -/
def State.setConfig (s : State) (i n : Nat) (item : ConfigItem) : State :=
  s.manage i n false fun s =>
    match s.configure item with
    | some s => (s, .ok, [])
    | none => (s, .refused, [])

/-- OUT_OF_SERVICE (R421): cause 6. -/
def State.mgmtOos (s : State) (i n : Nat) : State := s.manage i n false fun s => (s.outOfService 6, .ok, [])

/-- Out of service is cleared (R289, R295, R442): causes 1, 2 and 5 take the cold path, others a warm path. -/
def State.clearOos (s : State) : State :=
  let s : State := { s with chipResets := [] }
  let c := s.get CHP_STATE.oos_cause
  if c = 1 ∨ c = 2 ∨ c = 5 then s.startCold else (s.clearDie).startWarm

/-- CLEAR (R289, R421, R429). -/
def State.mgmtClear (s : State) (i n : Nat) : State :=
  s.manage i n true fun s => if s.dev = dOos then (s.clearOos, .ok, []) else (s, .state, [])

/-- PARTNER_DOWN (R378, R421). -/
def State.mgmtPartnerDown (s : State) (i n : Nat) : State := s.manage i n false fun s => (s.partnerDown, .ok, [])

/-- A pack record's layout (R320, R321). -/
def packRecordOk (bs : List Byte) (len records k : Nat) : Bool :=
  let a := 64 + 32 * k
  let cls := leAt bs a 1
  let slice := leAt bs (a + 1) 1
  let n := leAt bs (a + 4) 4
  let off := leAt bs (a + 8) 8
  decide (1 ≤ cls) && decide (cls ≤ 5) && (if cls = 5 then slice == 3 else decide (20 ≤ slice) && decide (slice ≤ 23)) && zeroAt bs (a + 2) 2 &&
    zeroAt bs (a + 24) 8 && off % 64 == 0 && decide (64 + 32 * records ≤ off) && decide (off + n ≤ len)

/-- The items of a stimulus (R321): kinds 1 to 6, zero-padded to 8 bytes, the last of kind 6 with no data. -/
def stimulusOk : Nat → List Byte → Bool
  | 0, _ => false
  | k + 1, bs =>
    let kind := leAt bs 0 1
    let n := leAt bs 4 4
    let m := ceilDiv n 8 * 8
    if bs.length < 8 + m ∨ ¬ zeroAt bs 1 3 ∨ kind = 0 ∨ 6 < kind ∨ ¬ zeroAt bs (8 + n) (m - n) then false
    else if kind = 6 then n == 0
    else stimulusOk k (bs.drop (8 + m))

/-- The code of a pushed pack (R320, R323). -/
def State.packCheck (s : State) (bs : List Byte) : Nat :=
  let n := leAt bs 6 2
  let len := leAt bs 16 8
  let form := leAt bs 0 4 == 0x4B434150 && leAt bs 4 2 == 1 && decide (1 ≤ n) && decide (n ≤ 4096) && leAt bs 8 8 != 0 && len % 64 == 0 &&
    decide (64 + 32 * n ≤ len) && bs.length == len + 2944 && zeroAt bs 56 8 && (List.range n).all fun k =>
      packRecordOk bs len n k && stimulusOk (len / 8 + 1) (sliceZ bs (leAt bs (64 + 32 * k + 8) 8) (leAt bs (64 + 32 * k + 4) 4))
  let sec := bs.drop len
  let layout := leAt sec 16 4 == 2828 && zeroAt sec 20 44 && zeroAt sec 2892 52
  let digest := sliceZ bs 24 32
  if !(form && layout) then 1
  else if sha256 (zeroed (bs.take len) 24 32) ≠ digest then 2
  else if !signatureOk s.far.packKeys sec digest then 3
  else if leAt bs 8 8 ≤ leAt s.far.newestPack 8 8 then 4
  else 0

/-- PACK_PUSH (R300, R323): a pack that passes is kept and becomes active, but one pushed during bring-up only from Held on. -/
def State.packPush (s : State) (i n : Nat) (bs : List Byte) : State :=
  s.manage i n false fun s =>
    let r := s.packCheck bs
    let s := s.set TST_CHP_PACK_STATUS.last_result r
    let s := if r ≠ 0 then s else if s.dev = dBringup then s.onFar fun f => { f with packNext := bs } else (s.onFar fun f => { f with pack := bs }).showPack
    (s, .pack r, [])

/-- FW_STAGE (R426): the checks in order, then the inactive slot is written. -/
def State.fwStage (s : State) (i n : Nat) (bs : List Byte) : State :=
  let c := leAt bs 4 1
  s.manage i n (c == 1) fun s =>
    if s.far.activating.isSome then (s, .fwBusy, [])
    else
      match s.fwCheck bs with
      | .ok =>
        let w := s.fw c
        let w : Firmware := if w.active = 0 then { w with slotB := bs } else { w with slotA := bs }
        (s.setFw c { w with staged := true, fresh := false }, .ok, [])
      | r => (s, r, [])

/-- The vendor key set comes into use (R423, R427). -/
def State.useKeys (s : State) : State :=
  let s := s.switchSlot 5
  match s.fwPayload (s.fw 5).used with
  | some body => s.onFar fun f => { f with fwKeys := (Config.keySet body).1, packKeys := (Config.keySet body).2 }
  | none => s

/-- Activation of microcode or manger firmware (R427): known-answer records first; at once in Held and Ready, at S in Running. -/
def State.activateUnits (s : State) (c at_ : Nat) : State × MgmtResult :=
  let ok := Config.karPasses s.freeCtr
  let s : State := { s with freeCtr := s.freeCtr + 1 }
  if !ok then (s, .fwKarFailed)
  else if s.dev = dRunning then
    (((s.acquire { code := 8, res := 0 } false).1.onFar fun f => { f with activating := some (c, at_), actStage := 0, actDefer := 0 }), .ok)
  else (s.switchSlot c, .ok)

/-- FW_ACTIVATE (R427): a staged slot, or the other one until commit; the Rider's boot firmware runs from the next Rider boot. -/
def State.fwActivate (s : State) (i n c at_ : Nat) : State :=
  s.manage i n (c == 1) fun s =>
    let w := s.fw c
    if s.far.activating.isSome then (s, .fwBusy, [])
    else if !fwComponent c || !(w.staged || w.fresh) then (s, .state, [])
    else if c = 1 then
      let s := (s.acquire { code := 8, res := 0 } false).1
      let bad := s.fwCheck w.other != .ok
      let s := s.onFar fun f => { f with activating := some (1, if s.inJob then s.nextCheckpoint else 0) }
      (if s.inJob || !s.leaseHeld 8 0 then s else s.switchFarrier, if bad then .fwFailed else .ok, [])
    else if c = 2 then (s.setFw 2 { w with active := 1 - w.active, staged := true, fresh := false, waits := true }, .ok, [])
    else if c = 5 then (s.useKeys, .ok, [])
    else if s.dev = dHeld ∨ s.dev = dReady ∨ (s.dev = dRunning ∧ at_ % 256 = 0 ∧ s.begun < at_) then
      let (s, r) := s.activateUnits c at_
      (s, r, [])
    else (s, .state, [])

/-- FW_COMMIT (R427): only while the component runs from its newly activated slot. -/
def State.fwCommit (s : State) (i n c : Nat) : State :=
  s.manage i n false fun s =>
    let w := s.fw c
    if !w.fresh then (s, .state, [])
    else
      let v := leAt w.used 6 1
      let s := s.setFw c { w with fresh := false, staged := false }
      ({ s with fuses := { s.fuses with rollback := mset natZero s.fuses.rollback c (max v (mget natZero s.fuses.rollback c)) } }, .ok, [])

/-- INSTALL_ANCHOR (R420, R423, R430): from any client while there is none, else in a session under the current anchor. -/
def State.installAnchor (s : State) (i n : Nat) (cert : List Byte) : State :=
  if !s.sessionUp i then s
  else if s.far.rom || (s.far.anchor.isSome && !(mget sessionInit s.far.sessions i).anchored) then s.answer i n .state []
  else ((s.onFar fun f => { f with anchor := some cert }).book 9 0 0).answer i n .ok []

/-- Whether bytes are a public key of the form of R422. -/
def keyForm (k : List Byte) : Bool := k.length == 56 && sliceZ k 0 8 == [0, 0, 0, 0x08, 0, 0, 0, 0x03]

/-- INSTALL_KEY (R423): at most 8; a key of the same identifier is replaced. -/
def State.installKey (s : State) (i n : Nat) (key : List Byte) : State :=
  s.manage i n false fun s =>
    let rest := s.signKeys.filter fun k => sliceZ k 8 16 != sliceZ key 8 16
    if !keyForm key || decide (8 ≤ rest.length) then (s, .refused, [])
    else ({ s with signKeys := rest ++ [key] }, .ok, [])

/-- REMOVE_KEY (R423). -/
def State.removeKey (s : State) (i n : Nat) (ident : List Byte) : State :=
  s.manage i n false fun s =>
    let rest := s.signKeys.filter fun k => sliceZ k 8 16 != sliceZ ident 0 16
    if rest.length = s.signKeys.length then (s, .refused, []) else ({ s with signKeys := rest }, .ok, [])

/-- ATTEST (R424, R429). -/
def State.attest (s : State) (i n : Nat) (nonce : List Byte) : State :=
  s.manage i n false fun s =>
    if s.far.seedGone then (s, .attestLocked, [])
    else
      match s.takeIndex with
      | (s, none) => (s, .attestExhausted, [])
      | (s, some q) => ({ s with freeCtr := s.freeCtr + 1 }, .ok, Config.signature q s.freeCtr (nonce ++ s.stateReport))

/-- Scan opens (R429): secrets are zeroised, every session ends, and scratchpads where the command says so. -/
def State.openScan (s : State) (scrub : Bool) : State :=
  let s := s.outOfService 6
  let s := s.onFar fun f => { f with seedGone := true, reserved := 0, sessions := [] }
  let s : State := if scrub then { s with blocks := s.blocks.map fun (p, b) => (p, { b with spad := [], gather := [] }) } else s
  (s.set FAR_SCAN.scrubbed (b2n scrub)).set FAR_SCAN.openS 1

/-- SCAN_UNLOCK (R421, R429). -/
def State.scanUnlock (s : State) (i n : Nat) (scrub : Bool) : State :=
  s.manage i n false fun s => if s.dev = dHeld ∨ s.dev = dOos then (s.openScan scrub, .ok, []) else (s, .state, [])

/-- Whether the mailbox takes an op (R431, R482). -/
def State.mbxReady (s : State) : Bool := s.far.awake && s.get FAR_MBX_STATUS.busy == 0

/-- A mailbox op ends with a result and its bytes. -/
def State.mbxDone (s : State) (op result : Nat) (bytes : List Byte) : State :=
  let s := (s.set FAR_MBX_CMD.op op).set FAR_MBX_STATUS.result result
  if bytes.isEmpty then s
  else (List.range 8).foldl (fun s k => s.set (FAR_MBX_BUF.data k) (leAt bytes (8 * k) 8)) s

/-- MBX_LOG_READ (R415, R431). -/
def State.mbxLogRead (s : State) : State :=
  if !s.mbxReady then s
  else
    let (r, bs) := s.logLookup (s.get FAR_MBX_ARG.arg)
    let code := match r with | .logGone => 2 | .logNotYet => 3 | .logGap => 4 | _ => 0
    s.mbxDone 1 code bs

/-- MBX_STUD_READ (R430, R431). -/
def State.mbxStudRead (s : State) : State :=
  if !s.mbxReady then s
  else
    match s.stud[s.get FAR_MBX_ARG.arg]? with
    | some x => s.mbxDone 2 0 (x.bytes ++ List.replicate 32 0)
    | none => s.mbxDone 2 5 []

/-- MBX_LEASE (R363, R431): a request that waits keeps the mailbox busy until it is granted. -/
def State.mbxLease (s : State) : State :=
  if !s.mbxReady then s
  else
    let (s, st, r) := s.leaseRequest 2 (BitVec.ofNat 64 (s.get FAR_MBX_ARG.arg))
    let s := s.mbxDone 3 (if r = 1 then 6 else if r = 0 then 0 else 7) []
    if st = 1 then s.set FAR_MBX_STATUS.busy 1 else s

/-- MBX_PARTNER_DOWN (R378, R431). -/
def State.mbxPartnerDown (s : State) : State := if !s.mbxReady then s else (s.partnerDown).mbxDone 4 0 []

/-- A write of FAR_MBX_CMD (R431). -/
def State.mbxWrite (s : State) (v : Word) : State :=
  if !s.mbxReady then s
  else
    let op := bitsOf v 62 59
    let s := s.set FAR_MBX_CMD.op op
    if bitsOf v 63 63 = 0 then s
    else if op = 1 then s.mbxLogRead
    else if op = 2 then s.mbxStudRead
    else if op = 3 then s.mbxLease
    else if op = 4 then s.mbxPartnerDown
    else s

/-- HEARTBEAT (R387): the first write sets CHP_READY.rider. -/
def State.heartbeat (s : State) (v : Word) : State :=
  if s.dev = dOff then s
  else
    let s := (s.set CMD_HEARTBEAT.beat v.toNat).set CHP_READY.rider 1
    { s with bring := { s.bring with beatAt := some s.now } }

/-- RIDER_SILENT (R438): the Rider domain is reset and reboots. -/
def State.riderSilent (s : State) : State :=
  match s.bring.beatAt with
  | some t =>
    if s.far.awake && s.get CHP_READY.rider == 1 && decide (t + 3000000000 ≤ s.now) then
      let s := s.raise 6 0 { code := 0xAA, detail := (s.now - t) / 1000000000 }
      (({ s with bring := { s.bring with beatAt := none }, riderReqs := [] } : State).set CHP_READY.rider 0).riderStarts
    else s
  | none => s

end Sys2Proof.Machine
end

