-- ==== Sys2Proof/Machine/Bringup.lean ====
section
/-! DEFINITION. Power, reset pins and bring-up (R24, R289 to R301, R459, R462, R463, R471). -/

namespace Sys2Proof.Machine

/-- Whether the pins and the input let the module run (R289, R462). -/
def State.wanted (s : State) : Bool := s.pins.input && s.pins.moduleEn && s.pins.resetN

/-- The cold path starts; a power-down in progress completes first (R299). -/
def State.powerUp (s : State) : State :=
  if !s.wanted || s.dev != dOff then s
  else if s.pins.railsUp then { s with pins := { s.pins with enAgain := true } }
  else s.startCold

/-- The way to Off (R299): outputs are gated, the log is flushed or what the hold-up allows of it, PWR_GOOD falls, and all
volatile state is lost. The rails fall until RAILS_OFF. -/
def State.powerDown (s : State) (holdUp : Bool) : State :=
  if s.dev = dOff then { s with pins := { s.pins with enAgain := false } }
  else
    let s := if !s.far.awake then s else if holdUp then s.flushSome (Config.holdUp s.freeCtr) else s.flushLog
    let s : State := { s with freeCtr := s.freeCtr + 1 }
    let s := s.sayDown.goTo dOff
    ({ s with pins := { s.pins with powerGood := false, enAgain := false } } : State).coldClear

/-- INPUT_IN_RANGE (R4, R289, R459). -/
def State.inputIn (s : State) : State := ({ s with pins := { s.pins with input := true } } : State).powerUp

/-- INPUT_OUT_OF_RANGE (R4, R299, R459). -/
def State.inputOut (s : State) : State := ({ s with pins := { s.pins with input := false } } : State).powerDown true

/-- MODULE_EN_RISE (R289, R299). -/
def State.enRise (s : State) : State := ({ s with pins := { s.pins with moduleEn := true } } : State).powerUp

/-- MODULE_EN_FALL (R299). -/
def State.enFall (s : State) : State := ({ s with pins := { s.pins with moduleEn := false } } : State).powerDown false

/-- Whether a low pulse of RESET_N takes effect (R462): from 10 µs, and from 1 µs to 10 µs it may. -/
def State.pulse (s : State) (ns : Nat) : Bool := decide (10000 ≤ ns) || (decide (1000 ≤ ns) && Config.resetPulse s.freeCtr)

/-- RESET_N_ASSERT (R289, R439, R462): a module (cold) reset. -/
def State.resetLow (s : State) (ns : Nat) : State :=
  let hit := s.pulse ns
  let s : State := { s with freeCtr := s.freeCtr + 1 }
  if hit then ({ s with pins := { s.pins with resetN := false, lowSince := s.now, lowFor := ns } } : State).powerDown false else s

/-- RESET_N_RELEASE (R289, R462). -/
def State.resetHigh (s : State) : State := ({ s with pins := { s.pins with resetN := true } } : State).powerUp

/-- RAILS_OFF (R299): every rail is off; a cold path that waits may start. -/
def State.railsOff (s : State) : State :=
  if s.dev ≠ dOff then s
  else
    let again := s.pins.enAgain
    let s : State := { s with pins := { s.pins with railsUp := false, enAgain := false } }
    if again then s.powerUp else s

/-- A bring-up step starts (R301). -/
def State.step_ (s : State) (n : Nat) : State :=
  let s := (s.set CHP_BRINGUP.step n).set CHP_BRINGUP.elapsed_ms ((s.now - s.bring.since) / 1000000)
  { s with bring := { s.bring with stepAt := s.now } }

/-- Bring-up is over: Held, with no image (R288, R290, R296). -/
def State.reachHeld (s : State) (n : Nat) : State := ((s.takePack.step_ n).holdReason { code := 0 }).goTo dHeld

/-- What the stud book says of a block (R280, R430): 4 retired, 3 in quarantine, 1 neither. -/
def State.studBlock (s : State) (p : Nat) : Nat :=
  if s.stud.any fun x => x.kind == 1 && x.place == p then 4
  else match (s.stud.filter fun x => x.kind == 2 && x.place == p).getLast? with
    | some x => if x.info = 1 then 3 else 1
    | none => 1

/-- Whether the stud book names an engine as fenced or retired. -/
def State.studEngine (s : State) (e : Nat) : Bool :=
  let mine := s.stud.filter fun x => x.kind == 5 && x.place == e
  mine.any (fun x => x.info == 2) || (match mine.getLast? with | some x => x.info == 0 | none => false)

/-- Blocks and engines that the stud book names are placed accordingly (R280, R430). -/
def State.placeStud (s : State) : State :=
  let ps := ((s.stud.filter fun x => x.kind == 1 || x.kind == 2).map Stud.place).eraseDups
  let s := ps.foldl (fun s p =>
    let st := s.studBlock p
    if st = 1 then s
    else
      let b := (s.block p).set TST_BLK_STATE.health (if st = 4 then 3 else 2)
      (s.setBlock p { (b.set MSH_CTL.mode (max 1 (b.get MSH_CTL.mode))) with fenced := true }).setRmt p { state := st }) s
  let es := ((s.stud.filter fun x => x.kind == 5).map Stud.place).eraseDups
  let s := es.foldl (fun s e => if s.studEngine e then s.set (MGR_STATUS.fenced (e / 32)) (s.get (MGR_STATUS.fenced (e / 32)) ||| 2 ^ (e % 32)) else s) s
  s.sweepCounts

/-- The compute die is released at 0.68 V, and the Cadence starts in Collected gait at 4,000 ns (R290 step 4, R296 W2, R416). -/
def State.releaseDie (s : State) : State :=
  let s : State := { s with cad := { anchorAt := s.now, beatAt := s.now }, power := {} }
  let s := ((((s.set CAD_STRIDE.stride 0).set CAD_CTL.gait 0).set CAD_CTL.phase 0).set CAD_PERIOD.current 4000).set CAD_CTL.run 1
  (s.onFar fun f => { f with reading := true, sumW := 0, samplesW := 0, sensAt := [], coolLost := false }).placeStud

/-- CHP_FUSE shows the fuse set (R298). -/
def State.showFuses (s : State) : State :=
  (((s.set CHP_FUSE.sig_fuse (b2n s.fuses.sigFuse)).set CHP_FUSE.variant s.fuses.variant).set CHP_FUSE.cap_w s.fuses.capW).set CHP_FUSE.vmax_mv s.fuses.vmaxMv

/-- Cold step 2 (R290, R292, R298): bit k of `slots` says that slot k of the Farrier firmware verifies. -/
def State.stepBoot (s : State) (slots : Nat) (fuseOk : Bool) : State :=
  let a := (s.fw 1).active
  if slots % 4 = 0 then
    ((s.farrierBoot.onFar fun f => { f with rom := true })).outOfService 1
  else
    let bad := !nbit slots a
    let s := if bad then s.setFw 1 { s.fw 1 with active := 1 - a } else s
    let s := s.farrierBoot
    let s := if bad then s.raise 6 0 { code := 0xC0, detail := 1, detail2 := a } else s
    if fuseOk then s.showFuses.step_ 3 else s.outOfService 5

/-- Rows that await repair in a tier are repaired before training completes (R260, R290). -/
def State.repairRows (s : State) (ddr : Bool) : State :=
  let rows := ((s.stud.filter fun x => x.kind == 4 && (decide (2 ^ 44 ≤ x.place) == ddr)).map Stud.place).eraseDups
  rows.foldl (fun s r =>
    match (s.stud.filter fun x => x.kind == 4 && x.place == r).getLast? with
    | some x => if x.info = 1 then s.book 4 r 2 else s
    | none => s) s

/-- A full training of unit `i`, a stack or 8 + a channel, enters the stud book (R295, R430). -/
def State.trainUnit (s : State) (i : Nat) : State :=
  (s.book 8 i 0).onFar fun f => { f with trained := if f.trained.contains i then f.trained else i :: f.trained }

/-- Cold step 5 (R290, R292, R297): HBM4 is repaired, trained, tested and zeroed. -/
def State.stepHbm (s : State) (bad : List Nat) : State :=
  if !bad.isEmpty then s.outOfService 3
  else
    let s := (List.range 8).foldl (fun s k => s.trainUnit k) (s.repairRows false)
    (({ s with hbm := [] } : State).set CHP_READY.hbm 255).step_ 6

/-- Capacities that an RDIMM may have (R471). -/
def dimmSizes : List Nat := [32, 48, 64, 96, 128, 192, 256]

/-- DDR5 channel `c` is in service with its RDIMM (R240, R262). -/
def State.channelUp (s : State) (c : Nat) (ok : Bool) : State :=
  let g := s.pins.dimms.getD c 0
  let fit := ok && dimmSizes.contains g
  let s := ((s.set (DDR_STATUS.present c) (b2n (g != 0))).set (DDR_STATUS.capacity c) g).set (DDR_STATUS.trained c) (b2n fit)
  if fit then s.set CHP_READY.ddr (s.get CHP_READY.ddr ||| 2 ^ c) else s

/-- Whether the Rider partition can be served (R291, R292, R472). -/
def State.riderFits (s : State) : Bool :=
  ((List.range 12).all fun c => s.get (DDR_STATUS.trained c) == 1) && decide (s.far.riderNow * 2 ^ 30 ≤ 12 * s.tiers.minCap)

/-- Cold step 6 (R290, R292, R297, R472). -/
def State.stepDdr (s : State) (bad : List Nat) : State :=
  let s := (List.range 12).foldl (fun s c => s.channelUp c (!bad.contains c)) ((s.repairRows true).set CHP_READY.ddr 0)
  let s := (List.range 12).foldl (fun s c => if s.get (DDR_STATUS.trained c) = 1 then s.trainUnit (8 + c) else s) s
  let s := ({ s with ddr := [] } : State).onFar fun f => { f with coldSince := !((List.range 20).all fun i => f.trained.contains i) }
  let s : State := if s.riderFits then s
    else { s with bring := { s.bring with rider := false }, out := s.out ++ [.report "Rider partition unavailable"] }
  s.step_ 7

/-- Cold step 7 and W5 (R292): the ports whose lanes train are ready. -/
def State.stepPorts (s : State) (bad : List Nat) (next : Nat) : State :=
  let m := fun n o => (List.range n).foldl (fun a i => a + (if bad.contains (o + i) then 0 else 2 ^ i)) 0
  ((s.set CHP_READY.trace (m 8 0)).set CHP_READY.yoke (m 2 8)).step_ next

/-- A router that the mesh self-check finds failed (R292, R197): its block goes into quarantine and its attachment is not ready. -/
def State.routerDown (s : State) (p : Nat) : State :=
  let s := (s.setBlock p ((s.block p).set MSH_CTL.mode 2)).quarantine p 0
  let at_ := fun u => isEndpoint u && routerOf u == p
  let s := (List.range 12).foldl (fun s c => if at_ (1360 + c) then s.set CHP_READY.ddr (s.get CHP_READY.ddr &&& (4095 - 2 ^ c)) else s) s
  let s := (List.range 8).foldl (fun s i => if at_ (1376 + i) then s.set CHP_READY.trace (s.get CHP_READY.trace &&& (255 - 2 ^ i)) else s) s
  let s := (List.range 2).foldl (fun s i => if at_ (1384 + i) then s.set CHP_READY.yoke (s.get CHP_READY.yoke &&& (3 - 2 ^ i)) else s) s
  if (List.range 80).any fun i => at_ (1280 + i) then s.outOfService 3
  else if at_ 1400 then s.outOfService 4
  else s

/-- Cold step 8 and W6 (R292). -/
def State.stepMesh (s : State) (links : List (Nat × Nat)) (next : Nat) : State :=
  let ends := links.flatMap fun (p, d) => match neighbour p d with
    | some q => [p, q]
    | none => [p]
  let s := ends.eraseDups.foldl State.routerDown s
  if s.dev = dOos then s else (s.set CHP_READY.mesh 1).step_ next

/-- A unit failure of the sweep or the known-answer run at block `p` (R294): attempt 1 awaits its repeat, attempt 2 is lasting. -/
def State.testFail (s : State) (p attempt record : Nat) : State :=
  s.onBlock p fun b env => b.note env { code := 0xC1, outcome := if attempt = 2 then 2 else 5, attempt := attempt,
                                        detail := (b.word TST_BLK_RESULT.off).toNat, detail2 := record }

/-- What the units that failed lead to (R24, R294): those that failed once are transient, those that failed twice lasting;
`kar` is the record that fails on every unit of a known-answer run. -/
def State.unitFails (s : State) (once twice engines : List Nat) (kar : Option (Option Nat)) : State :=
  let rec_ := match kar with
    | some (some i) => i
    | some none => Config.karRecord s.freeCtr
    | none => 0xFFFFFFFF
  let s : State := { s with freeCtr := s.freeCtr + 1 }
  let s := once.foldl (fun s p => (s.testFail p 1 rec_).transient) s
  let s := twice.foldl (fun s p => ((((s.testFail p 1 rec_).testFail p 2 rec_).lasting 0 p 0xC1).quarantine p 0xC1)) s
  engines.foldl (fun s e => ((s.engineEvent e 0 5 1 rec_).engineEvent e 0 2 2 rec_).mangerFault (e / 32) (e % 32)) s

/-- A router whose slice 24 has failed twice (R197, R307): treated as failed, its block in quarantine. -/
def State.routerSlice (s : State) (p : Nat) : State :=
  let s := s.setBlock p ((s.block p).sliceResult 24 2 0 0)
  let s := s.testFail p 1 0xFFFFFFFF
  let s := s.setBlock p ((s.block p).sliceResult 24 2 1 0)
  ((s.testFail p 2 0xFFFFFFFF).lasting 0 p 0xC1).routerDown p

/-- Cold step 9 (R292, R294, R307, R310, R331, R334): every slice of every block not retired has passed but where a unit failed, slice 24
last. -/
def State.stepSweep (s : State) (once twice engines routers : List Nat) : State :=
  let start := s.bring.stepAt
  let s := s.unitFails once twice engines none
  let tested := (List.range 1280).filter fun p => (s.rmtOf p).state != 4
  let s := tested.foldl (fun s p => s.setBlock p ((s.block p).sliceResult 24 1 0 0)) s
  let s := (routers.filter tested.contains).foldl State.routerSlice s
  let all := (List.range 24).map fun k => (k, s.now)
  let ps := (List.range 1280).filter fun p => (s.rmtOf p).state != 4 && !twice.contains p
  let s := tested.foldl (fun s p => (if ps.contains p then s.setBlock p { s.block p with passTimes := all } else s).showTest p) s
  let s := s.onScreen fun x => { x with engines := (List.range 1024).map fun j => (j, s.now) }
  let s := if twice.isEmpty && engines.isEmpty && routers.isEmpty then s.cleanSweep start else s
  if s.dev = dOos then s else (s.set CHP_READY.bist 1).step_ 10

/-- Cold step 10 and W7 (R293, R294, R322): the known-answer run, after which the device is Held. A record of the active pack that no sound
unit passes fails on all that the run covers. -/
def State.stepKar (s : State) (once twice engines : List Nat) (held : Nat) : State :=
  let bad := packFailsAny s.far.pack false
  let badEngine := packFailsAny s.far.pack true
  let covered := (List.range 1280).filter fun p => (s.rmtOf p).state != 3 && (s.rmtOf p).state != 4
  let twice := if bad.isSome then covered else twice.filter covered.contains
  let once := if bad.isSome then [] else once.filter covered.contains
  let fenced := fun e => s.fencedEngine (e / 32) (e % 32)
  let engines := if badEngine.isSome then (List.range 256).filter fun e => !fenced e else engines
  let s := s.unitFails once twice [] (some bad)
  ((s.unitFails [] [] engines (some badEngine)).set CHP_READY.kar 1).reachHeld held

/-- A stack or channel did not leave self-refresh: the warm full path goes on at cold step 5 (R296). -/
def State.fallBack (s : State) : State :=
  let s := ((s.set CHP_BRINGUP.fast_deny (s.get CHP_BRINGUP.fast_deny ||| 32)).set CHP_BRINGUP.path 1).set CHP_READY.dram_kept 0
  let s := (s.set CHP_READY.bist 0).onFar fun f => { f with riderNow := f.riderGib }
  ({ s with bring := { s.bring with rider := false } } : State).step_ 5

/-- BRINGUP_STEP_COMPLETE (R290, R292, R296): the present step ends as the report says. -/
def State.bringupStep (s : State) (r : StepReport) : State :=
  if s.dev ≠ dBringup then s
  else
    let nat := fun (l : List PBlk) => l.map Fin.val
    let once := nat r.failedOnce
    let twice := nat r.failedTwice
    let es := r.badEngines.map Fin.val
    let links := r.badLinks.map fun (p, d) => (p.val, d.val)
    let ports := r.badPorts.map Fin.val
    match s.get CHP_BRINGUP.step with
    | 1 => s.step_ 2
    | 2 => s.stepBoot r.slotsOk r.fuseOk
    | 3 => if r.ok then ({ s with pins := { s.pins with powerGood := true } } : State).step_ 4 else s.railsFall
    | 4 => if r.ok then s.releaseDie.step_ 5 else s.outOfService 4
    | 5 => s.stepHbm (r.badStacks.map Fin.val)
    | 6 => s.stepDdr (r.badChannels.map Fin.val)
    | 7 => s.stepPorts ports 8
    | 8 => s.stepMesh links 9
    | 9 => s.stepSweep once twice es (nat r.badRouters)
    | 10 => s.stepKar once twice es 11
    | 12 => if s.get CHP_BRINGUP.path = 2 then s.step_ 13 else s.step_ 4
    | 13 => s.releaseDie.step_ 14
    | 14 => if r.selfRefreshOk then (s.set CHP_READY.hbm 255).step_ 15 else s.fallBack
    | 15 => if r.selfRefreshOk then ((List.range 12).foldl (fun s c => s.channelUp c true) s).step_ 16 else s.fallBack
    | 16 => s.stepPorts ports 17
    | 17 => s.stepMesh links 18
    | 18 => s.stepKar once twice es 19
    | _ => s

/-- RIDER_BOOT_START (R291, R292, R472): the partition has been tested and zeroed. -/
def State.riderBoot (s : State) : State :=
  let tested := s.dev != dOff && s.dev != dOos && !(s.dev == dBringup && (decide (s.get CHP_BRINGUP.step < 6) || s.get CHP_BRINGUP.step == 12))
  if tested && !s.bring.rider && (s.get CHP_BRINGUP.step == 6 || s.riderFits) then
    ({ s with bring := { s.bring with rider := true, beatAt := none } } : State).riderStarts
  else s

end Sys2Proof.Machine
end

