-- ==== Sys2Proof/Machine/Errors.lean ====
section
/-! DEFINITION. Uncorrectable errors and signature mismatches (R260, R484), by the class of the area they lie in. -/

namespace Sys2Proof.Machine

/-- The address in an area's own view that names the same byte as a tier address (R236, R240). -/
def Area.place (x : Area) (tier a : Nat) : Option Nat :=
  (aliases tier a).find? fun y => decide (x.start ≤ y) && decide (y < x.start + x.len)

/-- What is recorded of an error whatever its area (R260, R434): the address, the count, event 0xBE and the row in the stud
book, which awaits its repair. -/
def State.noteMemory (s : State) (ddr sigMiss : Bool) (a cls : Nat) : State :=
  let e : Ev := { code := 0xBE, outcome := 2, detail := a, detail2 := (if sigMiss then 2 else 1) + 256 * cls }
  let s := if ddr then
      let c := (ddrPlace a).1
      ((s.count (DDR_ECC_UE.count c) 1).noteChannelError c 2 a).raise 4 c e
    else
      let k := hbmKey a / 2 ^ 36
      let c := hbmKey a % 2 ^ 36 / 2 ^ 31
      ((s.count (if sigMiss then MGR_SIGMISS.count k else MGR_ECC_UE.count k) 1).noteStackError k (if sigMiss then 3 else 2) a).raise 3
        (32 * k + c) e
  s.book 4 ((if ddr then 2 ^ 44 else 0) + a) 1

/-- The affected lines of a Sourced area come again from their source (R255, R260): from the other tier at once, from a remote node as
their reads are answered. -/
def State.fromSource (s : State) (x : Area) (tier a lines : Nat) : State :=
  match x.place tier a with
  | some y =>
    if x.srcTier = 1 ∨ x.srcTier = 2 then s.setTiers (s.tiers.putLines tier a (s.tiers.lines x.srcTier (x.src + (y - x.start)) lines))
    else if x.srcTier = 3 then
      (List.range lines).foldl (fun s i =>
        s.remoteOr (s.remotePort.getD 0)
          { node := x.node, back := some (tier, a + 64 * i),
            pkt := { readPkt with parts := x.node, src := 1400, addr := x.src + (y - x.start) + 64 * i } }) s
    else s
  | none => s

/-- The saddlebag that an address of the saddlebag area lies in becomes invalid (R260, R340). -/
def State.spoilSaddle (s : State) (x : Area) (a : Nat) : State :=
  match x.place 1 a with
  | none => s
  | some y =>
    let l := (y - x.start) / 262144
    let r := l / 75
    let j := l % 75
    if x.start ≠ s.get CHP_SB_BASE.addr ∨ 1200 ≤ l then s
    else if (y - x.start) / 131072 % 2 = 1 then (if s.rget r (RGN_SB.st1 j) = 2 then s.rset r (RGN_SB.st1 j) 3 else s)
    else if s.rget r (RGN_SB.st0 j) = 2 then s.rset r (RGN_SB.st0 j) 3
    else s

/-- The signed ranges of a stack that cover an address, or whose table does, start ROWSIG again (R259, R260). -/
def State.unsign (s : State) (a : Nat) : State :=
  let k := hbmKey a / 2 ^ 36
  let o := hbmKey a % 2 ^ 36
  (List.range 16).foldl (fun s j =>
    let base := s.get (MGR_SIG_RANGE.base k j) * 1024
    let table := s.get (MGR_SIG_TABLE.addr k j)
    let n := s.get (MGR_SIG_RANGE.units k j)
    if (base ≤ o ∧ o < base + 1024 * n) ∨ (table ≤ o ∧ o < table + 8 * n) then s.set (MGR_SIG_RANGE.signed k j) 0 else s) s

/-- An image that is being read fails with READ_ERROR where the address lies in it (R27, R279). -/
def State.spoilImage (s : State) (a : Nat) : State :=
  let hit := fun (i : Img) => (aliases 2 a).any fun y => decide (i.base ≤ y) && decide (y < i.base + i.length + 64)
  let mark := fun (x : Img × Option Hold) => if hit x.1 && x.2.isNone then (x.1, some ({ code := 0x19 } : Hold)) else x
  { s with images := { s.images with loading := s.images.loading.map mark, staging := s.images.staging.map mark } }

/-- The action of the area's class (R260). -/
def State.actOn (s : State) (x : Area) (tier a lines : Nat) : State :=
  match x.cls with
  | 0 => (s.fromSource x tier a lines).startRecovery { kind := 3, code := 0xBE } 0 id
  | 1 => if s.twinned then s.detach 3 else s.failJob stMEMORY_LOST 0xBE
  | 2 => s.spoilSaddle x a
  | 3 => s.unsign a
  | _ => s

/-- The lines of a handle whose copy could not be read hold zero (R484). -/
def State.zeroHandle (s : State) (p h : Nat) : State :=
  let b := s.block p
  s.setBlock p (b.writeLines ((b.handleLines h).map fun a => (a, List.replicate 64 0)))

/-- The load of a resident handle's copy runs again (R484). -/
def State.reloadHandle (s : State) (p h : Nat) : State := s.setBlock p (({ b := s.block p, t := s.tiers } : Move).reload h).b

/-- Whether a block holds a resident handle `h`, whose copy lies at `a` (R138). -/
def Block.copyHolds (b : Block) (h a : Nat) : Bool :=
  b.get (HDL_CTL.valid h) == 1 && b.get (HDL_CTL.resident h) == 1 &&
    (aliases 1 a).any fun y => decide (b.get (HDL_COPY.addr h) / 64 * 64 ≤ y) && decide (y < b.get (HDL_COPY.addr h) + b.get (HDL_LEN.length h))

/-- The logical block that block `p` takes up under an image (R280). -/
def State.placedAt (s : State) (i : Img) (p : Nat) : Option Nat := ((s.place i fun _ => 0).2.find? fun x => x.2 == p).map Prod.fst

/-- Whether block `p` loads resident handle `h` from a copy that lies at `a` (R484): under the staged image while a swap loads. -/
def State.copyAt (s : State) (p h a : Nat) : Bool :=
  match if s.get CHP_IMG_STATUS.stage = 4 then s.images.staged else none with
  | some i => match s.placedAt i p with
    | some l => (i.load l {}).copyHolds h a
    | none => false
  | none => (s.block p).copyHolds h a

/-- The load of resident handle `h` of block `p` meets an error (R484): it fails a swap that loads, or withdraws the image
outside a job; in a job the class decides, and the restarted recovery loads a Sourced copy again. -/
def State.loadError (s : State) (p h : Nat) (area : Option Area) (tier a : Nat) : State :=
  if s.get CHP_IMG_STATUS.stage = 4 then
    let l := ((s.images.staged.bind fun i => s.placedAt i p)).getD 0x7FF
    ((s.dropStaged 0x40).holdDetail { code := 0x40, lblock := l, index := h }).release 10 0
  else
  let s := s.zeroHandle p h
  if s.inJob then
    match area with
    | none => s
    | some x =>
      let s := s.actOn x tier a 1
      if x.cls = 0 then s.reloadHandle p h else s
  else if s.images.committed.isSome && (s.dev == dReady || s.dev == dHeld) then
    let l := s.lblockAt p
    ((s.goTo dHeld).withdraw).holdReason { code := 0x40, lblock := l, index := h }
  else s

/-- UNCORRECTABLE_ERROR (R260, R484): the line at a tier address reads uncorrectable, or a unit's signature does not match;
`load` names the block and the resident handle that was being loaded from it. -/
def State.memoryError (s : State) (ddr : Bool) (addr : Nat) (sigMiss : Bool) (load : Option (Nat × Nat)) : State :=
  let tier := if ddr then 2 else 1
  let a := addr / 64 * 64
  if !s.released || !s.tiers.inRange tier a || (ddr && sigMiss) then s
  else
    let area := s.areaOf tier a
    let s := s.noteMemory ddr sigMiss a ((area.map Area.cls).getD 255)
    let s := if ddr then s.spoilImage a else s
    match load, area with
    | some (p, h), _ => if s.copyAt p h a then s.loadError p h area tier a else s
    | none, some x => s.actOn x tier a (if sigMiss then 16 else 1)
    | none, none => s

/-- SCRUB_BURST (R257 to R260): a channel of HBM4 stack `k`, or of DDR5, is scrubbed, and every unit whose signature does not match is an error of its area. -/
def State.scrubBurst (s : State) (k : Option Nat) (c : Nat) (bad : Option Nat) : State :=
  match k with
  | none => s.scrubDdr c bad
  | some k =>
    if !s.mayScrub k c then s
    else (s.sigMiss k c).foldl (fun s a => s.memoryError false a true none) (s.scrub k c bad)

end Sys2Proof.Machine
end

