-- ==== Sys2Proof/Machine/Observe.lean ====
section
/-! DEFINITION. Watchdogs and requested resets (R437, R440, R441), synchronisation traces (R448, R449), and the test access
port (R428). -/

namespace Sys2Proof.Machine

/-- A steward misses ten probes in a row (R437): 0 to 1279 are the blocks, 1280 to 1295 the regions, 1296 the chip. -/
def State.watchdog (s : State) (who : Nat) : State :=
  if !s.released || s.dev == dOos then s
  else
    let e : Ev := { code := 0xA9, detail := 10 }
    if who < 1280 then (s.raise 0 who e).tetherFault who 2
    else if who < 1296 then ((s.raise 1 (who - 1280) e).regionReset (who - 1280) 2 false).1
    else if s.far.awake then (s.raise 2 0 e).warmReset 2
    else s

/-- CHP_RST shows the result of a request (R440). -/
def State.resetResult (s : State) (op target result : Nat) : State :=
  ((s.set CHP_RST.op op).set CHP_RST.target target).set CHP_RST.result result

/-- Whether a block or region reset may be requested (R440, R453). -/
def State.mayReset (s : State) : Bool := s.dev == dHeld || s.dev == dReady || s.inJob

/-- Whether the next reset of block `p` escalates (R441). -/
def State.blockEscalates (s : State) (p : Nat) : Bool :=
  decide (max 1 (s.get CHP_ESC.blk_count) ≤ (inWindow s.now (s.get CHP_ESC.blk_window_s) (s.block p).resets).length + 1)

/-- BLOCK_RESET_REQUEST (R440): in service while Running, the recovery of R436 runs; a block in quarantine starts its
diagnostic run again with no clean run. -/
def State.blockRequest (s : State) (p : Nat) : State :=
  if !s.mayReset then s.resetResult 1 p 1
  else
    let esc := s.blockEscalates p
    let s := if (s.rmtOf p).state = 3 then
        let b := s.block p
        let s := s.setBlock p ({ b with slice := none, diag := [] }.set TST_BLK_STATE.clean_runs 0)
        (s.blockReset p 3).1
      else s.tetherFault p 3
    s.resetResult 1 p (if esc then 2 else 0)

/-- REGION_RESET_REQUEST (R440). -/
def State.regionRequest (s : State) (r : Nat) : State :=
  if !s.mayReset || s.rget r RGN_RCV.down == 1 then s.resetResult 2 r 1
  else
    let (s, esc) := s.regionReset r 3 false
    s.resetResult 2 r (if esc then 2 else 0)

/-- CHIP_RESET_REQUEST (R440): the reset clears CHP_RST with the rest of the chip steward. -/
def State.chipRequest (s : State) : State :=
  if !s.released || s.dev == dOos then s.resetResult 3 0 1
  else
    let s := s.warmReset 3
    if s.dev = dOos then s.resetResult 3 0 2 else s

/-- A write of CHP_RST with go (R440, R453). -/
def State.requestReset (s : State) (op target : Nat) : State :=
  if op = 1 then (if target < 1280 then s.blockRequest target else s.resetResult 1 target 1)
  else if op = 2 then s.regionRequest (target % 16)
  else if op = 3 then s.chipRequest
  else s

/-- TRACE_RECORD (R448, R449): a wait of a selected kind that lasted long enough is recorded; one that finds the buffer full
is lost. -/
def Block.traceRecord (b : Block) (kind unit source tag idx start dur : Nat) : Block :=
  if b.get BLK_TRC_CTL.enable = 0 ∨ 11 < kind ∨ 13 < unit ∨ ¬ nbit (b.get BLK_TRC_CTL.kinds) kind ∨ dur < b.get BLK_TRC_CTL.min_ns then b
  else if 64 ≤ b.trace.length then b.cnt 50 1
  else ({ b with trace := b.trace ++ [traceWords tag source kind dur unit idx start b.stride.toNat] } : Block).cnt 49 1

/-- The 1 KiB of a trace buffer, padded with kind 31 records (R449). -/
def traceBytes (rs : List (Nat × Nat)) : List Byte :=
  (rs ++ List.replicate (64 - rs.length) (traceWords 0 0 31 0 0 0 0 0)).flatMap fun (a, b) => leBytes 8 a ++ leBytes 8 b

/-- Records that a trace ring holds, in whole stores of 64 (R449). -/
def Block.traceRing (b : Block) : Nat := b.get (HDL_LEN.length (b.get BLK_TRC_CTL.handle)) / 1024 * 64

/-- Whether the handle checks let a trace store through (R137, R449). -/
def Block.traceMay (b : Block) : Bool :=
  let h := b.get BLK_TRC_CTL.handle
  let i := b.get BLK_TRC_PTR.next
  let tier := b.get (HDL_CTL.tier h)
  b.hdlCheck h (b.get (HDL_CTL.gen h)) (16 * i) 1024 true == 0 && (tier == 1 || tier == 2) && decide (i + 64 ≤ b.traceRing)

/-- TRACE_STORE (R449): the buffer goes to the ring when it is full, and at a checkpoint stride when it is not empty. -/
def Block.traceStore (b : Block) (env : Env) (t : Tiers) : Block × Tiers :=
  let due := b.trace.length == 64 || (b.stride.toNat % 256 == 0 && !b.trace.isEmpty)
  if !due then (b, t)
  else if !b.traceMay then
    ((({ b with trace := [] } : Block).set BLK_TRC_CTL.enable 0).note env { cell := 0, code := 0x23, outcome := 3 }, t)
  else
    let i := b.get BLK_TRC_PTR.next
    let bytes := traceBytes b.trace
    let m := (List.range 16).foldl (fun (m : Move) j =>
      m.store env (fun _ => 0) false 0 (b.get BLK_TRC_CTL.handle) (16 * i + 64 * j) (sliceZ bytes (64 * j) 64)) { b := { b with trace := [] }, t := t }
    if i + 64 = b.traceRing then ((m.b.set BLK_TRC_PTR.next 0).count BLK_TRC_PTR.wraps 1, m.t)
    else (m.b.set BLK_TRC_PTR.next (i + 64), m.t)

/-- What IDCODE reads (R465). -/
def tapId : Nat := 0x1DB12F9B

/-- TAP_INSTRUCTION (R428, R429, R465): four instructions are always taken, the others once scan is open. -/
def State.tapInstruction (s : State) (i : TapInstr) : State :=
  let take := fun (s : State) => ({ s with pins := { s.pins with tap := i } } : State)
  match i with
  | .idcode => { take s with out := s.out ++ [.idcode tapId] }
  | .other _ => if s.get FAR_SCAN.openS = 1 then take s else s
  | _ => take s

end Sys2Proof.Machine
end

