-- ==== Sys2Proof/Machine/Address.lean ====
section
/-! DEFINITION. The Rider physical address space (R473 to R482): the memory windows, and register reads and writes under the
access codes of R6. -/

namespace Sys2Proof.Machine

/-- Where a Rider physical address lies among the memory windows (R385, R473): the tier and the tier address. -/
def State.windowOf (s : State) (a : Nat) : Option (Nat × Nat) :=
  if a < s.far.riderNow * 2 ^ 30 then some (2, 2 ^ 42 + a)
  else if 0x200000000000 ≤ a ∧ a < 0x200000000000 + 2 ^ 40 then some (1, a - 0x200000000000)
  else if 0x300000000000 ≤ a ∧ a < 0x300000000000 + 2 ^ 43 then some (2, a - 0x300000000000)
  else none

/-- Whether an address lies in the device control space (R473). -/
def inControl (a : Nat) : Bool :=
  (decide (0x100000000000 ≤ a) && decide (a < 0x100005000000)) || (decide (0x100010000000 ≤ a) && decide (a < 0x100011000000)) ||
    (decide (0x100020000000 ≤ a) && decide (a < 0x100021000000)) || (decide (0x100030000000 ≤ a) && decide (a < 0x100030020000))

/-- Whether an address lies in the Rider complex's private devices. -/
def isPrivate (a : Nat) : Bool := decide (0xF00000000000 ≤ a) && decide (a < 2 ^ 48)

/-- Whether a table lists the control-space word that an address lies in (R474). -/
def listed (a : Nat) : Bool :=
  let w := a / 8 * 8
  if a < 0x100005000000 then
    let o := (w - 0x100000000000) % 0x10000
    (findRow blkRows o).isSome || decide (0x4000 ≤ o)
  else if a < 0x100011000000 then (findRow rgnRows ((w - 0x100010000000) % 0x100000)).isSome
  else if 0x100030010000 ≤ a then true
  else (chipRow w).isSome ||
    (decide (0x100020100000 ≤ a) && decide (a < 0x100020180000) && decide (0x1000 ≤ a % 0x10000) && decide (a % 0x10000 < 0x2000))

/-- Whether a Rider access to an address reaches something (R473, R474). -/
def State.mapped (s : State) (a : Nat) : Bool := (s.windowOf a).isSome || isPrivate a || (inControl a && listed a)

/-- A refused access (R5, R474): event 0xBD of the chip steward, and a read returns zero. -/
def State.refuseAccess (s : State) (a reason : Nat) (write : Bool) : State :=
  let s := s.raise 2 0 { code := 0xBD, detail := a, detail2 := reason }
  if write then s else { s with out := s.out ++ [.readZero a] }

/-- UNMAPPED_ACCESS (R474). -/
def State.unmapped (s : State) (a : Nat) (write : Bool) : State :=
  if s.dev = dOff ∨ 2 ^ 48 ≤ a ∨ s.mapped a then s else s.refuseAccess a 2 write

/-- NARROW_REGISTER_ACCESS (R5): not 64 bits wide, or not aligned. -/
def State.narrow (s : State) (a size : Nat) (write : Bool) : State :=
  if s.dev = dOff ∨ !(inControl a && listed a) ∨ (size = 8 ∧ a % 8 = 0) then s else s.refuseAccess a 1 write

/-- Whether the Rider complex reaches the memory windows (R477): from Held on; its own partition once it runs. -/
def State.windowsOpen (s : State) : Bool := s.dev == dHeld || s.dev == dReady || s.inJob

/-- The packet of a Rider access of `n` bytes at `a` (R181, R475): a whole line, a masked line or a read. -/
def riderPkt (a n : Nat) : Option (List Byte) → Pkt
  | none => readPkt
  | some bs => if n = 64 then linesPkt bs else maskedPkt (List.replicate (a % 64) 0 ++ bs) ((2 ^ n - 1) * 2 ^ (a % 64))

/-- A request of a Rider core leaves at the core's port and awaits its reply (R475, R476). -/
def State.riderSend (s : State) (core tier t n : Nat) (write : Bool) (k : Pkt) : State :=
  let port := core % 2
  let u := 1392 + port
  let id := s.freeCtr % 2 ^ 24
  let s : State := { s with freeCtr := s.freeCtr + 1, riderReqs := s.riderReqs ++ [⟨id, port, core, t, n, write⟩] }
  s.sendFrom u { pkt := { k with tag := id, addr := t / 64 * 64 }, idx := memEndpoint tier (routerOf u % 40) t, owner := .mem id }

/-- A Rider access to a line outside every window (R473 to R475): control and private addresses are no lines. -/
def State.noWindow (s : State) (a : Nat) (write : Bool) : State :=
  if inControl a || isPrivate a then s else s.unmapped a write

/-- A Rider access by what its line names (R473 to R477): nothing, or a place of a tier. -/
def State.riderAt (s : State) (core a n : Nat) (data : Option (List Byte)) : Option (Nat × Nat) → State
  | none => s.noWindow a data.isSome
  | some (tier, t) => if !s.windowsOpen then s else s.riderSend core tier t n data.isSome (riderPkt a n data)

/-- One line of a Rider access (R475): `n` bytes at `a`, which do not leave the line, become a request at the core's port. -/
def State.riderLine (s : State) (core a n : Nat) (data : Option (List Byte)) : State := s.riderAt core a n data (s.windowOf a)

/-- RIDER_WINDOW_ACCESS (R475, R476): one request for each aligned line touched. -/
def State.riderAccess (s : State) (core a size : Nat) (data : Option (List Byte)) : State :=
  if s.dev = dOff ∨ size = 0 then s
  else
    (List.range ((a % 64 + size + 63) / 64)).foldl (fun s i =>
      let lo := max a (a / 64 * 64 + 64 * i)
      let hi := min (a + size) (a / 64 * 64 + 64 * i + 64)
      s.riderLine core lo (hi - lo) (data.map fun bs => sliceZ bs (lo - a) (hi - lo))) s

/-- A write by access codes of a register outside blocks and regions (R6); `lock` is that of its rwl fields. -/
def State.writePlain (s : State) (a : Nat) (lock : Bool) (v : Word) : State :=
  match chipRow a with
  | none => s
  | some r => { s with regs := mset chipReset s.regs a (r.write lock (mget chipReset s.regs a) v) }

/-- A Rider write to a block's window (R146, R171, R481). -/
def State.writeBlk (s : State) (p off : Nat) (v : Word) : State :=
  let s := s.onBlock p fun b env => b.writeReg env none off v
  if off = BLK_SCAN_CTL.off ∧ bitsOf v 63 63 = 1 then
    if bitsOf v 62 61 = 1 then s.scanOut p false else if bitsOf v 62 61 = 2 then s.scanIn p false else s
  else s

/-- A Rider write to a region steward's window. -/
def State.writeRgn (s : State) (r off : Nat) (v : Word) : State :=
  match findRow rgnRows off with
  | none => s
  | some row =>
    let x := s.region r
    s.setRegion r { x with regs := mset rgnReset x.regs off (row.write false (mget rgnReset x.regs off) v) }

/-- A write of CAD_SYNC_CTL (R54): port codes 10 to 15 are ignored, and a write of port clears noport. -/
def State.writeSyncCtl (s : State) (v : Word) : State :=
  let old := s.get CAD_SYNC_CTL.port
  let was := s.synced
  let s := s.writePlain CAD_SYNC_CTL.off false v
  let s : State := if was && !s.synced then { s with cad := { s.cad with refit := true } } else s
  let s := if 10 ≤ bitsOf v 5 2 then s.set CAD_SYNC_CTL.port old else s.set CAD_SYNC_STATUS.noport 0
  s.noSyncPort

/-- A write of LSE_REQ (R358, R363). -/
def State.writeLease (s : State) (v : Word) : State :=
  let s := s.writePlain LSE_REQ.off false v
  if bitsOf v 63 63 = 0 ∨ bitsOf v 62 61 = 0 ∨ bitsOf v 62 61 = 3 then s
  else
    let (s, st, res) := s.leaseRequest 1 v
    (s.set LSE_STATUS.state st).set LSE_STATUS.result res

/-- A write of TWN_CTL (R367, R377 to R382). -/
def State.writeTwin (s : State) (v : Word) : State :=
  let s := s.writePlain TWN_CTL.off false v
  if bitsOf v 63 63 = 0 then s
  else match bitsOf v 62 60 with
    | 1 => s.twinPair
    | 2 => s.twinUnpair
    | 3 => s.twinRejoin
    | 4 => s.partnerDown
    | 5 => s.detachSelf
    | _ => s

/-- A write of TST_CHP_PREEMPT_AT (R313): a value that is no checkpoint stride, or has begun, is ignored. -/
def State.writePreemptAt (s : State) (v : Word) : State :=
  let n := v.toNat
  if n ≠ 0 ∧ (n % 256 ≠ 0 ∨ (s.inJob = true ∧ n ≤ s.begun)) then s else s.set TST_CHP_PREEMPT_AT.stride n

/-- A write of MGR_SIG_RANGE (R259): units and base only while enable is 0. -/
def State.writeSigRange (s : State) (k j : Nat) (v : Word) : State :=
  let s := if s.get (MGR_SIG_RANGE.enable k j) = 1 then s
    else (s.set (MGR_SIG_RANGE.units k j) (bitsOf v 61 36)).set (MGR_SIG_RANGE.base k j) (bitsOf v 35 10)
  if bitsOf v 63 63 = 1 then s.sigEnable k j else s.sigDisable k j

/-- A write to stack `k`'s window (R259, R262). -/
def State.writeMgr (s : State) (a k : Nat) (v : Word) : State :=
  let o := a % 0x10000
  if 0x100 ≤ o ∧ o < 0x200 then
    let j := (o - 0x100) / 16
    if o % 16 = 0 then s.writeSigRange k j v
    else if s.get (MGR_SIG_RANGE.enable k j) = 1 then s
    else s.writePlain a false v
  else s.writePlain a false v

/-- A write to the CMD_ registers (R388 to R404). -/
def State.writeCmd (s : State) (a : Nat) (v : Word) : State :=
  let o := a % 0x10000
  let go := bitsOf v 63 63 == 1
  if a = CMD_CPL_CTL.off then s.ringEnable 4 v
  else if a = CMD_EVT_CTL.off then s.ringEnable 5 v
  else if a = CMD_QUERY.off then
    let s := s.writePlain a false v
    if go then s.commandQuery v else s
  else if a = CMD_HEARTBEAT.off then s.heartbeat v
  else if a = CMD_NODE.off then s.writePlain a s.hasJob v
  else match (List.range 4).find? fun r => a == CMD_RING_CTL.off r || a == CMD_RING_HEAD.off r || a == CMD_STEP.off r with
    | some r =>
      if a = CMD_RING_CTL.off r then s.ringEnable r v
      else if a = CMD_RING_HEAD.off r then s.writeHead r v
      else if go then s.stepGrant r else s
    | none =>
      if 0x400 ≤ o ∧ o < 0x600 ∧ a = CMD_TRACE_CTL.off ((o - 0x400) / 64) then s.writeTraceCtl ((o - 0x400) / 64) v
      else if 0x400 ≤ o ∧ o < 0x600 ∧ a = CMD_TRACE_TPL.off ((o - 0x400) / 64) then s.writeTemplates ((o - 0x400) / 64) v
      else s.writePlain a false v

/-- A write to chip steward space. -/
def State.writeChip (s : State) (a : Nat) (v : Word) : State :=
  let go := bitsOf v 63 63 == 1
  if a = CAD_PERIOD.off then s.periodWrite false v
  else if a = CAD_PERIOD_AT.off then s.periodWrite true v
  else if (List.range 4).any fun i => a == CAD_SEED.off i then s.writePlain a s.hasJob v
  else if a = CAD_SYNC_CTL.off then s.writeSyncCtl v
  else if a = CHP_IMG_CTL.off then
    let s := s.writePlain a false v
    if go then s.imageOp (bitsOf v 62 60) else s
  else if a = CHP_SWAP_AT.off then s.writeSwapAt v.toNat
  else if a = TST_CHP_PREEMPT_AT.off then s.writePreemptAt v
  else if a = LSE_REQ.off then s.writeLease v
  else if a = TWN_CTL.off then s.writeTwin v
  else if a = CHP_RST.off then
    let s := s.writePlain a false v
    if go then s.requestReset (bitsOf v 62 60) (bitsOf v 10 0) else s
  else if 0x100020070000 ≤ a ∧ a < 0x100020080000 then s.writeCmd a v
  else if 0x100020100000 ≤ a ∧ a < 0x100020180000 then s.writeMgr a ((a - 0x100020100000) / 0x10000) v
  else s.writePlain a false v

/-- A write to the Farrier mailbox (R431, R482): ignored while the Farrier restarts. -/
def State.writeFar (s : State) (a : Nat) (v : Word) : State :=
  if !s.far.awake then s
  else if a = FAR_MBX_CMD.off then s.mbxWrite v
  else if a = FAR_PWR_CFG.off then (s.writePlain a false v).showCap
  else if a = FAR_SMP_SEL.off then (s.writePlain a false v).showSample
  else s.writePlain a false v

/-- REGISTER_WRITE (R6, R7, R474, R478): an aligned 64-bit write. A register whose field description names an action, a lock
or a limit follows it; every other field follows its access code. -/
def State.registerWrite (s : State) (a : Nat) (v : Word) : State :=
  if s.dev = dOff ∨ a % 8 ≠ 0 ∨ !inControl a then s
  else if !listed a then s.unmapped a true
  else if 0x100030000000 ≤ a then s.writeFar a v
  else if !s.released then s
  else if a < 0x100005000000 then s.writeBlk ((a - 0x100000000000) / 0x10000) ((a - 0x100000000000) % 0x10000) v
  else if a < 0x100011000000 then s.writeRgn ((a - 0x100010000000) / 0x100000) ((a - 0x100010000000) % 0x100000) v
  else s.writeChip a v

/-- A sensor's reading as FAR_SENS_DATA shows it (R416, R431). -/
def State.sensorData (s : State) (i : Nat) : Word :=
  let at_ := mget natZero s.far.sensAt i
  if at_ = 0 then 0
  else putBits (putBits (putBits 0 63 63 1) 62 32 (min (2 ^ 31 - 1) ((s.now + 1 - at_) / 1000))) 31 0 (s.sensor i)

/-- A sample's bytes as FAR_SMP_WIN shows them (R445). -/
def State.sampleWord (s : State) (o : Nat) : Word :=
  match (s.far.collections.getD (s.get FAR_SMP_SEL.coll) [])[s.get FAR_SMP_SEL.index]? with
  | none => 0
  | some x => BitVec.ofNat 64 (leAt x.bytes o 8)

/-- RGN_RMT entry `b` of a region (R361). -/
def State.rmtWord (s : State) (r b : Nat) : Word :=
  let p := blockOfBit r b
  let x := s.rmtOf p
  BitVec.ofNat 64 (x.state * 2 ^ 61 + b2n x.foreign * 2 ^ 60 + b2n x.pending * 2 ^ 59 + x.lblock * 2 ^ 48 + x.next * 2 ^ 37 + p)

/-- Whether a lease lies on a resource of region `r` (R356, R361). -/
def Lease.inRegion (l : Lease) (r : Nat) : Bool :=
  if l.code < 2 then (leaseBlocks l.code l.res).any fun p => regionOf p == r
  else (l.code == 2 || l.code == 11) && l.res == r

/-- RGN_LSE (R13, R361): the leases that the region steward holds and those asked of it. -/
def State.leaseWord (s : State) (r : Nat) : Word :=
  let codes := fun (ls : List Lease) => leaseCodes (ls.filter fun l => l.inRegion r)
  putBits (putBits 0 63 52 (codes s.leases.held)) 51 40 (codes s.leases.waiting)

/-- What an aligned 64-bit read of a listed control address returns (R6, R474, R479, R482): the stored word, and what follows
the time, the remount table, the self-test and the stores. -/
def State.readWord (s : State) (a : Nat) : Word :=
  if s.dev = dOff ∨ !listed a ∨ (a < 0x100030000000 ∧ !s.released) ∨ (0x100030000000 ≤ a ∧ !s.far.awake) then 0
  else if a < 0x100005000000 then
    let p := (a - 0x100000000000) / 0x10000
    let o := (a - 0x100000000000) % 0x10000
    if 0x8000 ≤ o then (s.block p).program.getD ((o - 0x8000) / 8) 0
    else if o = TST_BLK_STATE.off then (s.showTest p).readBlk p o
    else s.readBlk p o
  else if a < 0x100011000000 then
    let r := (a - 0x100010000000) / 0x100000
    let o := (a - 0x100010000000) % 0x100000
    if 0x400 ≤ o ∧ o < 0x680 then s.rmtWord r ((o - 0x400) / 8)
    else if o = RGN_LSE.off then s.leaseWord r
    else if o = RGN_EPOCH.off then putBits (mget rgnReset (s.region r).regs o) 63 32 (min (2 ^ 32 - 1) (s.drainOf r))
    else if o = TST_RGN_STATUS.off then mget rgnReset ((s.showRegionTest r).region r).regs o
    else mget rgnReset (s.region r).regs o
  else if 0x100030010000 ≤ a then s.sampleWord (a - 0x100030010000)
  else if 0x100020100000 ≤ a ∧ a < 0x100020180000 ∧ 0x1000 ≤ a % 0x10000 then
    BitVec.ofNat 64 (leAt (mget (fun _ => []) s.mgrProg ((a - 0x100020100000) / 0x10000)) (a % 0x10000 - 0x1000) 8)
  else if a = FAR_SENS_DATA.off then s.sensorData (s.get FAR_SENS_SEL.index)
  else
    let w := mget chipReset s.regs a
    if a = TST_CHP_SWEEP.off then mget chipReset s.showSweep.regs a
    else if a = CHP_BRINGUP.off ∧ s.dev = dBringup then putBits w 31 0 ((s.now - s.bring.since) / 1000000)
    else if a = CHP_SWEEP.off then
      let n := fun st => (s.rmt.filter fun x => x.2.state == st).length
      putBits (putBits (putBits w 31 21 (n 3)) 20 10 (n 4)) 63 32 (match s.screen.sweepAt with | some t => min 0xFFFFFFFE ((s.now - t) / 1000000000) | none => 0xFFFFFFFF)
    else w

end Sys2Proof.Machine
end

