-- ==== Sys2Proof/Machine/AddressFamily.lean ====
section
/-! DEFINITION. Rider accesses: one meaning for each command. -/

namespace Sys2Proof.Machine

/-- RIDER_WINDOW_ACCESS (R475 to R477): a read, or a write of `data`. -/
def execRiderWindowAccess (core : Fin 16) (addr size : Nat) (data : Option (List Byte)) (s : State) : Host.Outcome State Fault Refusal :=
  .next (s.riderAccess core addr size data)

/-- UNMAPPED_ACCESS (R474). -/
def execUnmappedAccess (addr : Nat) (write : Bool) (s : State) : Host.Outcome State Fault Refusal :=
  .next (s.unmapped addr write)

/-- NARROW_REGISTER_ACCESS (R5). -/
def execNarrowRegisterAccess (addr size : Nat) (write : Bool) (s : State) : Host.Outcome State Fault Refusal :=
  .next (s.narrow addr size write)

/-- REGISTER_WRITE (R6, R7). -/
def execRegisterWrite (addr : Nat) (v : Word) (s : State) : Host.Outcome State Fault Refusal :=
  .next (s.registerWrite addr v)

end Sys2Proof.Machine
end

