-- ==== Sys2Proof/Machine/CadenceFamily.lean ====
section
/-! DEFINITION. The Cadence: one meaning for each command. -/

namespace Sys2Proof.Machine

/-- BEAT_ISSUE (R37, R38, R41, R45). -/
def execBeatIssue (s : State) : Host.Outcome State Fault Refusal :=
  .next (s.beatIssue)

/-- BEAT_ARRIVE (R33, R65, R202, R338). -/
def execBeatArrive (p : PBlk) (carried : BitVec 16) (parityOk : Bool) (s : State) : Host.Outcome State Fault Refusal :=
  .next (s.beatArrive p carried.toNat parityOk)

/-- STRIDE_ACK (R35, R337, R412). -/
def execStrideAck (p : PBlk) (s : State) : Host.Outcome State Fault Refusal :=
  .next (s.strideAck p)

/-- REGION_ACK (R34, R37). -/
def execRegionAck (r : Rgn) (s : State) : Host.Outcome State Fault Refusal :=
  .next (s.regionAck r)

/-- TETHER_TIMEOUT (R435, R436). -/
def execTetherTimeout (p : PBlk) (s : State) : Host.Outcome State Fault Refusal :=
  .next (s.tetherTimeout p)

/-- REJOIN_FAILED (R46). -/
def execRejoinFailed (s : State) : Host.Outcome State Fault Refusal :=
  .next (s.rejoinFailed)

/-- SYNC_EXCHANGE (R52, R53, R451). -/
def execSyncExchange (t1 t2 t3 t4 : Nat) (s : State) : Host.Outcome State Fault Refusal :=
  .next (s.syncExchange t1 t2 t3 t4)

/-- SYNC_ANSWER (R54, R451). -/
def execSyncAnswer (port : FPort) (peer : BitVec 16) (t2 t3 : Nat) (s : State) : Host.Outcome State Fault Refusal :=
  .next (s.syncAnswer port peer.toNat t2 t3)

/-- PORT_STATE_CHANGE (R54). -/
def execPortStateChange (port : FPort) (up : Bool) (s : State) : Host.Outcome State Fault Refusal :=
  .next (s.portState port up)

/-- CAD_PERIOD_WRITE (R48, R55): a write of CAD_PERIOD, or of CAD_PERIOD_AT. -/
def execCadPeriodWrite (at_ : Bool) (v : Word) (s : State) : Host.Outcome State Fault Refusal :=
  .next (s.periodWrite at_ v)

end Sys2Proof.Machine
end

