-- ==== Sys2Proof/Machine/DataflowFamily.lean ====
section
/-! DEFINITION. Firing, the Rein, combining queues, credits, messages and windows: one meaning for each command. -/

namespace Sys2Proof.Machine

/-- TOKEN_ARRIVE (R148, R150, R170). -/
def execTokenArrive (p : PBlk) (s : State) (hw : StoreHw := .none) : Host.Outcome State Fault Refusal :=
  .next (s.onBlock p fun b env => b.withStoreHw env hw fun b => b.doTokenArrive env)

/-- FIRE_LIST_ENTRY_START (R120, R152 to R154, R156, R158). -/
def execFireListEntryStart (p : PBlk) (s : State) (hw : StoreHw := .none) : Host.Outcome State Fault Refusal :=
  .next (s.onBlock p fun b env => b.withStoreHw env hw fun b => b.doFireEntry env)

/-- FREE_NODE_FIRE (R155). -/
def execFreeNodeFire (p : PBlk) (s : State) (hw : StoreHw := .none) : Host.Outcome State Fault Refusal :=
  .next (s.onBlock p fun b env => b.withStoreHw env hw fun b => b.doFreeFire env)

/-- REIN_SELECTION (R159 to R161). -/
def execReinSelection (p : PBlk) (s : State) (hw : StoreHw := .none) (bad : Bool := false) : Host.Outcome State Fault Refusal :=
  .next (s.onBlock p fun b env => b.withStoreHw env hw fun b => b.reinStep env bad)

/-- CQ_CONTRIBUTE (R167, R168, R49): a loose sum that depends on time counts. -/
def execCqContribute (p : PBlk) (s : State) (bad : Bool := false) : Host.Outcome State Fault Refusal :=
  .next (s.cqContribute p bad)

/-- CQ_FORWARD (R169). -/
def execCqForward (p : PBlk) (cq : Fin 16) (s : State) (bad : Bool := false) : Host.Outcome State Fault Refusal :=
  .next (s.onBlock p fun b env => b.doForward env cq bad)

/-- CREDIT (R162, R194, R201). -/
def execCredit (p : PBlk) (s : State) : Host.Outcome State Fault Refusal :=
  .next (s.onBlock p fun b env => b.doCredit env)

/-- QUEUE_CLOSE (R220). -/
def execQueueClose (p : PBlk) (q : Fin 256) (s : State) : Host.Outcome State Fault Refusal :=
  .next (s.onBlock p fun b _ => b.closeQueue q)

/-- QUEUE_REOPEN (R220). -/
def execQueueReopen (p : PBlk) (q : Fin 256) (s : State) : Host.Outcome State Fault Refusal :=
  .next (s.onBlock p fun b _ => b.reopenQueue q)

/-- MESSAGE_ARRIVE (R215 to R219): the oldest message delivered to the block is taken or refused, and answered. -/
def execMessageArrive (p : PBlk) (s : State) : Host.Outcome State Fault Refusal :=
  .next (s.onBlock p fun b _ => b.messageArrive)

/-- WINDOW_WRITE_ARRIVE (R228, R229). -/
def execWindowWriteArrive (p : PBlk) (s : State) : Host.Outcome State Fault Refusal :=
  .next (s.onBlock p fun b env => b.windowArrive env)

/-- WINDOW_CLOSE_COMPLETE (R230). -/
def execWindowCloseComplete (p : PBlk) (h : Hdl) (s : State) : Host.Outcome State Fault Refusal :=
  .next (s.onBlock p fun b _ => b.doCloseComplete h)

/-- WINDOW_CLOSE_TIMEOUT (R230). -/
def execWindowCloseTimeout (p : PBlk) (h : Hdl) (s : State) : Host.Outcome State Fault Refusal :=
  .next (s.onBlock p fun b env => b.doCloseTimeout env h)

end Sys2Proof.Machine
end

