-- ==== Sys2Proof/Machine/DispatchFamily.lean ====
section
/-! DEFINITION. Dispatch and the ports: one meaning for each command. -/

namespace Sys2Proof.Machine

/-- COMMAND_FETCH (R390, R391). -/
def execCommandFetch (s : State) : Host.Outcome State Fault Refusal :=
  .next (s.commandFetch)

/-- CMD_NOP (R392). -/
def execCmdNop (s : State) : Host.Outcome State Fault Refusal :=
  .next (s.cmdNop)

/-- LAUNCH (R56, R392). -/
def execLaunch (s : State) : Host.Outcome State Fault Refusal :=
  .next (s.launch)

/-- ADMIT (R394). -/
def execAdmitJob (s : State) : Host.Outcome State Fault Refusal :=
  .next (s.admitNext)

/-- ADMIT_DELIVER (R394, R395). -/
def execAdmitDeliver (s : State) : Host.Outcome State Fault Refusal :=
  .next (s.admitDeliver)

/-- END (R392, R393). -/
def execEndCmd (s : State) : Host.Outcome State Fault Refusal :=
  .next (s.endCmd)

/-- WAIT (R392). -/
def execWaitCmd (s : State) : Host.Outcome State Fault Refusal :=
  .next (s.waitCmd)

/-- JOB_END (R393). -/
def execJobEnd (s : State) : Host.Outcome State Fault Refusal :=
  .next (s.jobEnd)

/-- COMPLETION_POST (R396). -/
def execCompletionPost (s : State) : Host.Outcome State Fault Refusal :=
  .next (s.completionPost)

/-- COMMAND_QUERY (R397). -/
def execCommandQuery (v : Word) (s : State) : Host.Outcome State Fault Refusal :=
  .next (s.commandQuery v)

/-- STEP_GRANT (R401). -/
def execStepGrant (r : Ring) (s : State) : Host.Outcome State Fault Refusal :=
  .next (s.stepGrant r)

/-- RING_ENABLE (R399, R401): the control register of command ring 0 to 3, of the completion ring (4) or of the event ring (5). -/
def execRingEnable (ring : Fin 6) (v : Word) (s : State) : Host.Outcome State Fault Refusal :=
  .next (s.ringEnable ring v)

/-- HEARTBEAT (R387). -/
def execHeartbeat (v : Word) (s : State) : Host.Outcome State Fault Refusal :=
  .next (s.heartbeat v)

/-- RIDER_SILENT (R438). -/
def execRiderSilent (s : State) : Host.Outcome State Fault Refusal :=
  .next (s.riderSilent)

/-- TRACE_CTL_WRITE (R402). -/
def execTraceCtlWrite (p : TPort) (v : Word) (s : State) : Host.Outcome State Fault Refusal :=
  .next (s.writeTraceCtl p v)

/-- TEMPLATE_RELOAD (R404). -/
def execTemplateReload (p : TPort) (v : Word) (s : State) : Host.Outcome State Fault Refusal :=
  .next (s.writeTemplates p v)

/-- FRAME_RECEIVE (R402, R403). -/
def execFrameReceive (p : TPort) (bytes : List Byte) (fcsOk : Bool) (s : State) : Host.Outcome State Fault Refusal :=
  .next (s.frameReceive p bytes fcsOk)

/-- FRAME_TRANSMIT (R403). -/
def execFrameTransmit (p : TPort) (s : State) : Host.Outcome State Fault Refusal :=
  .next (s.frameTransmit p)

/-- OUTPUT_FRAME (R372, R374, R404). -/
def execOutputFrame (p : TPort) (s : State) : Host.Outcome State Fault Refusal :=
  .next (s.outputFrame p)

/-- FABRIC_FRAME_RECEIVE (R405, R406). -/
def execFabricFrameReceive (port : FPort) (bytes : List Byte) (fcsOk : Bool) (s : State) : Host.Outcome State Fault Refusal :=
  .next (s.fabReceive port bytes fcsOk)

/-- FABRIC_RETRANSMIT (R405). -/
def execFabricRetransmit (port : FPort) (peer : BitVec 16) (s : State) : Host.Outcome State Fault Refusal :=
  .next (s.fabRetransmit port peer.toNat)

/-- REMOTE_REQUEST (R405). -/
def execRemoteRequest (port : FPort) (s : State) : Host.Outcome State Fault Refusal :=
  .next (s.remoteRequest port)

/-- PEER_RESET (R407, R443). -/
def execPeerReset (s : State) : Host.Outcome State Fault Refusal :=
  .next (s.peerReset)

end Sys2Proof.Machine
end

