-- ==== Sys2Proof/Machine/FarrierFamily.lean ====
section
/-! DEFINITION. The Farrier: one meaning for each command. -/

namespace Sys2Proof.Machine

/-- FARRIER_RESTART (R409). -/
def execFarrierRestart (s : State) : Host.Outcome State Fault Refusal :=
  .next (s.farrierRestart)

/-- FARRIER_RESTART_DONE (R409). -/
def execFarrierRestartDone (s : State) : Host.Outcome State Fault Refusal :=
  .next (s.farrierRestartDone)

/-- EVENT_RECORD_INTAKE (R398, R412, R413). -/
def execEventRecordIntake (s : State) : Host.Outcome State Fault Refusal :=
  .next (s.recordIntake)

/-- LOG_FLUSH (R414). -/
def execLogFlush (s : State) : Host.Outcome State Fault Refusal :=
  .next (s.logFlush)

/-- SENSOR_READ (R416, R419). -/
def execSensorRead (index : BitVec 8) (value : BitVec 32) (s : State) : Host.Outcome State Fault Refusal :=
  .next (s.sensorRead index.toNat value.toNat)

/-- SESSION_OPEN (R420, R429). -/
def execSessionOpen (chainsToAnchor : Bool) (s : State) : Host.Outcome State Fault Refusal :=
  .next (s.sessionOpen chainsToAnchor)

/-- GET_STATE (R421). -/
def execGetState (sess : Fin 4) (n : BitVec 32) (s : State) : Host.Outcome State Fault Refusal :=
  .next (s.getState sess n.toNat)

/-- SUBSCRIBE (R415, R421). -/
def execSubscribe (sess : Fin 4) (n : BitVec 32) (start : Word) (s : State) : Host.Outcome State Fault Refusal :=
  .next (s.subscribe sess n.toNat start.toNat)

/-- LOG_READ (R415, R421). -/
def execLogRead (sess : Fin 4) (n : BitVec 32) (seq : Word) (s : State) : Host.Outcome State Fault Refusal :=
  .next (s.mgmtLogRead sess n.toNat seq.toNat)

/-- SENSORS (R416, R421). -/
def execSensors (sess : Fin 4) (n : BitVec 32) (s : State) : Host.Outcome State Fault Refusal :=
  .next (s.sensors sess n.toNat)

/-- STUD_READ (R421, R430). -/
def execStudRead (sess : Fin 4) (n : BitVec 32) (index : Nat) (s : State) : Host.Outcome State Fault Refusal :=
  .next (s.studRead sess n.toNat index)

/-- SET_CONFIG (R411, R421). -/
def execSetConfig (sess : Fin 4) (n : BitVec 32) (item : ConfigItem) (s : State) : Host.Outcome State Fault Refusal :=
  .next (s.setConfig sess n.toNat item)

/-- OUT_OF_SERVICE (R421). -/
def execOutOfService (sess : Fin 4) (n : BitVec 32) (s : State) : Host.Outcome State Fault Refusal :=
  .next (s.mgmtOos sess n.toNat)

/-- CLEAR (R289, R421, R429). -/
def execClear (sess : Fin 4) (n : BitVec 32) (s : State) : Host.Outcome State Fault Refusal :=
  .next (s.mgmtClear sess n.toNat)

/-- PARTNER_DOWN (R378, R421). -/
def execPartnerDown (sess : Fin 4) (n : BitVec 32) (s : State) : Host.Outcome State Fault Refusal :=
  .next (s.mgmtPartnerDown sess n.toNat)

/-- PACK_PUSH (R323, R421). -/
def execPackPush (sess : Fin 4) (n : BitVec 32) (bytes : List Byte) (s : State) : Host.Outcome State Fault Refusal :=
  .next (s.packPush sess n.toNat bytes)

/-- FW_STAGE (R425, R426). -/
def execFwStage (sess : Fin 4) (n : BitVec 32) (bytes : List Byte) (s : State) : Host.Outcome State Fault Refusal :=
  .next (s.fwStage sess n.toNat bytes)

/-- FW_ACTIVATE (R427). -/
def execFwActivate (sess : Fin 4) (n : BitVec 32) (component : Fin 6) (at_ : Word) (s : State) : Host.Outcome State Fault Refusal :=
  .next (s.fwActivate sess n.toNat component at_.toNat)

/-- FW_COMMIT (R427). -/
def execFwCommit (sess : Fin 4) (n : BitVec 32) (component : Fin 6) (s : State) : Host.Outcome State Fault Refusal :=
  .next (s.fwCommit sess n.toNat component)

/-- INSTALL_ANCHOR (R422, R423). -/
def execInstallAnchor (sess : Fin 4) (n : BitVec 32) (cert : List Byte) (s : State) : Host.Outcome State Fault Refusal :=
  .next (s.installAnchor sess n.toNat cert)

/-- INSTALL_KEY (R423). -/
def execInstallKey (sess : Fin 4) (n : BitVec 32) (key : List Byte) (s : State) : Host.Outcome State Fault Refusal :=
  .next (s.installKey sess n.toNat key)

/-- REMOVE_KEY (R423). -/
def execRemoveKey (sess : Fin 4) (n : BitVec 32) (ident : List Byte) (s : State) : Host.Outcome State Fault Refusal :=
  .next (s.removeKey sess n.toNat ident)

/-- ATTEST (R424, R429). -/
def execAttest (sess : Fin 4) (n : BitVec 32) (nonce : List Byte) (s : State) : Host.Outcome State Fault Refusal :=
  .next (s.attest sess n.toNat nonce)

/-- SCAN_UNLOCK (R429). -/
def execScanUnlock (sess : Fin 4) (n : BitVec 32) (scrub : Bool) (s : State) : Host.Outcome State Fault Refusal :=
  .next (s.scanUnlock sess n.toNat scrub)

/-- MBX_LOG_READ (R415, R431). -/
def execMbxLogRead (s : State) : Host.Outcome State Fault Refusal :=
  .next (s.mbxLogRead)

/-- MBX_STUD_READ (R430, R431). -/
def execMbxStudRead (s : State) : Host.Outcome State Fault Refusal :=
  .next (s.mbxStudRead)

/-- MBX_LEASE (R363, R431). -/
def execMbxLease (s : State) : Host.Outcome State Fault Refusal :=
  .next (s.mbxLease)

/-- MBX_PARTNER_DOWN (R378, R431). -/
def execMbxPartnerDown (s : State) : Host.Outcome State Fault Refusal :=
  .next (s.mbxPartnerDown)

end Sys2Proof.Machine
end

