-- ==== Sys2Proof/Machine/GroomFamily.lean ====
section
/-! DEFINITION. Grooms, handles and the Packhorse: one meaning for each command. -/

namespace Sys2Proof.Machine

/-- GROOM_INSTRUCTION (R118, R119, R121, R122, R128, R446). -/
def execGroomInstruction (p : PBlk) (t : Thr) (op : GroomOp) (hw : GroomHw) (s : State) : Host.Outcome State Fault Refusal :=
  .next (s.groomInstruction p t op hw)

/-- GROOM_LOAD (R128, R129, R132). -/
def execGroomLoad (p : PBlk) (t : Thr) (size : GSize) (signed : Bool) (rd ra : GReg) (off : Word) (hw : GroomHw) (s : State) : Host.Outcome State Fault Refusal :=
  .next (s.onBlock p fun x env => x.issue env t (GroomHw.on hw false) fun x => x.doLoad env t size signed rd ra off)

/-- GROOM_STORE (R129 to R131). -/
def execGroomStore (p : PBlk) (t : Thr) (size : GSize) (rs ra : GReg) (off : Word) (hw : GroomHw) (s : State) : Host.Outcome State Fault Refusal :=
  .next (s.onBlock p fun x env => x.issue env t (GroomHw.on hw false) fun x => x.doStore env t size rs ra off)

/-- HANDLE_ACCESS (R136, R137, R145, R242). -/
def execHandleAccess (p : PBlk) (t : Thr) (write : Bool) (size : GSize) (r ref ra : GReg) (off : Word) (s : State) (hw : GroomHw := .none) : Host.Outcome State Fault Refusal :=
  .next (s.onBlock p fun x env => x.issue env t (GroomHw.on hw false) fun x => x.doHandle env s.remotePort t write size r ref ra off)

/-- RAND (R106, R120). -/
def execRand (p : PBlk) (t : Thr) (rd ra : GReg) (seed3 : Bool) (s : State) (hw : GroomHw := .none) : Host.Outcome State Fault Refusal :=
  .next (s.onBlock p fun x env => x.issue env t (GroomHw.on hw false) fun x => x.doRand env t rd ra seed3)

/-- GROOM_SEND (R125, R163, R211 to R214). -/
def execGroomSend (p : PBlk) (t : Thr) (a b c : GReg) (imm : BitVec 7) (s : State) (hw : GroomHw := .none) : Host.Outcome State Fault Refusal :=
  .next (s.groomSend p t a b c imm.toNat hw)

/-- RECV (R125, R218, R220). -/
def execRecv (p : PBlk) (t : Thr) (a b c : GReg) (imm : BitVec 7) (s : State) (hw : GroomHw := .none) : Host.Outcome State Fault Refusal :=
  .next (s.onBlock p fun x env => x.issueWait env t (GroomHw.on hw false) Wait.isRecv fun x => x.doRecv env t a b c imm.toNat)

/-- POLL (R123, R220). -/
def execPoll (p : PBlk) (t : Thr) (a b : GReg) (imm : BitVec 7) (s : State) (hw : GroomHw := .none) : Host.Outcome State Fault Refusal :=
  .next (s.onBlock p fun x env => x.issue env t (GroomHw.on hw false) fun x => x.doPoll t a b imm.toNat)

/-- HANDLE READ (R126). -/
def execHandleRead (p : PBlk) (t : Thr) (a b : GReg) (s : State) (hw : GroomHw := .none) : Host.Outcome State Fault Refusal :=
  .next (s.onBlock p fun x env => x.issue env t (GroomHw.on hw false) fun x => x.doHdlRead t a b)

/-- HANDLE REF (R126). -/
def execHandleRef (p : PBlk) (t : Thr) (a b : GReg) (s : State) (hw : GroomHw := .none) : Host.Outcome State Fault Refusal :=
  .next (s.onBlock p fun x env => x.issue env t (GroomHw.on hw false) fun x => x.doHdlRef t a b)

/-- HANDLE OPEN (R126, R227). -/
def execHandleOpen (p : PBlk) (t : Thr) (a b : GReg) (s : State) (hw : GroomHw := .none) : Host.Outcome State Fault Refusal :=
  .next (s.onBlock p fun x env => x.issue env t (GroomHw.on hw false) fun x => x.doHdlOpen t a b)

/-- HANDLE CLOSE (R126, R230). -/
def execHandleClose (p : PBlk) (t : Thr) (a b : GReg) (s : State) (hw : GroomHw := .none) : Host.Outcome State Fault Refusal :=
  .next (s.onBlock p fun x env => x.issue env t (GroomHw.on hw false) fun x => x.doHdlClose env t a b)

/-- HANDLE REBIND (R126, R231). -/
def execHandleRebind (p : PBlk) (t : Thr) (a b c : GReg) (s : State) (hw : GroomHw := .none) : Host.Outcome State Fault Refusal :=
  .next (s.onBlock p fun x env => x.issue env t (GroomHw.on hw false) fun x => x.doHdlRebind t a b c)

/-- HANDLE BUMP (R126, R231). -/
def execHandleBump (p : PBlk) (t : Thr) (a b : GReg) (s : State) (hw : GroomHw := .none) : Host.Outcome State Fault Refusal :=
  .next (s.onBlock p fun x env => x.issue env t (GroomHw.on hw false) fun x => x.doHdlBump t a b)

/-- TALLY of a groom (R127, R302). -/
def execGroomTally (p : PBlk) (t : Thr) (b c : GReg) (s : State) (hw : GroomHw := .none) : Host.Outcome State Fault Refusal :=
  .next (s.onBlock p fun x env => x.issue env t (GroomHw.on hw false) fun x => x.doTally env t b c)

/-- BALKCHK query (R127). -/
def execBalkchkQuery (p : PBlk) (t : Thr) (a b : GReg) (s : State) (hw : GroomHw := .none) : Host.Outcome State Fault Refusal :=
  .next (s.onBlock p fun x env => x.issue env t (GroomHw.on hw false) fun x => x.doBalkQuery t a b)

/-- BALKCHK retry (R224). -/
def execBalkchkRetry (p : PBlk) (t : Thr) (a b : GReg) (s : State) (hw : GroomHw := .none) : Host.Outcome State Fault Refusal :=
  .next (s.onBlock p fun x env => x.issue env t (GroomHw.on hw false) fun x => x.doBalkRetry env t a b)

/-- BALKCHK discard (R224). -/
def execBalkchkDiscard (p : PBlk) (t : Thr) (a b : GReg) (s : State) (hw : GroomHw := .none) : Host.Outcome State Fault Refusal :=
  .next (s.onBlock p fun x env => x.issue env t (GroomHw.on hw false) fun x => x.doBalkDiscard t a b)

/-- YIELD (R123). -/
def execYieldTurn (p : PBlk) (t : Thr) (s : State) (hw : GroomHw := .none) : Host.Outcome State Fault Refusal :=
  .next (s.onBlock p fun x env => x.issue env t (GroomHw.on hw false) fun x => x.doYield t)

/-- YIELD with the end bit (R120, R127, R162). -/
def execYieldEnd (p : PBlk) (t : Thr) (s : State) (hw : GroomHw := .none) : Host.Outcome State Fault Refusal :=
  .next (s.onBlock p fun x env => x.issueWait env t (GroomHw.on hw false) Wait.isEnding fun x => x.doYieldEnd env t)

/-- FENCEWAIT (R127). -/
def execFencewait (p : PBlk) (t : Thr) (imm : BitVec 7) (s : State) (hw : GroomHw := .none) : Host.Outcome State Fault Refusal :=
  .next (s.onBlock p fun x env => x.issueWait env t (GroomHw.on hw false) Wait.isFence fun x => x.doFence t imm.toNat)

/-- REOFFER (R222). -/
def execReoffer (p : PBlk) (t : Thr) (slot : Fin 4) (s : State) : Host.Outcome State Fault Refusal :=
  .next (s.onBlock p fun b env => if b.halted then b else b.doReoffer env t slot)

/-- PKH_HEAD_WRITE (R131, R140). -/
def execPkhHeadWrite (p : PBlk) (thread : Option Thr) (v : Word) (s : State) : Host.Outcome State Fault Refusal :=
  .next (s.onBlock p fun b _ => b.doHead (thread.map Fin.val) v)

/-- DESCRIPTOR_START (R133, R140 to R143, R246 to R248). -/
def execDescriptorStart (p : PBlk) (ring : Bool) (hw : Fin 3) (s : State) : Host.Outcome State Fault Refusal :=
  .next (s.onPackhorse p fun b env o => b.doDescriptor env o ring hw)

/-- DESCRIPTOR_COMPLETE (R144, R158, R163). -/
def execDescriptorComplete (p : PBlk) (ring : Bool) (s : State) : Host.Outcome State Fault Refusal :=
  .next (s.onPackhorse p fun b env o => (b.doComplete env o ring, o.tiers))

/-- HDL_WRITE (R146): a write of handle `h`'s register `which` by the Rider driver. -/
def execHdlWrite (p : PBlk) (h : Hdl) (which : Fin 5) (v : Word) (s : State) : Host.Outcome State Fault Refusal :=
  .next (s.onBlock p fun b env => b.hdlWrite env h which v)

end Sys2Proof.Machine
end

