-- ==== Sys2Proof/Machine/ImageFamily.lean ====
section
/-! DEFINITION. The harness image: one meaning for each command. -/

namespace Sys2Proof.Machine

/-- IMAGE_LOAD (R278, R282). -/
def execImageLoad (s : State) : Host.Outcome State Fault Refusal :=
  .next (s.imageLoad)

/-- IMAGE_COMMIT (R278 to R280, R484): a load ends; `loadFault` names a block and a handle whose copy could not be read. -/
def execImageCommit (loadFault : Option (LBlk × Hdl)) (s : State) : Host.Outcome State Fault Refusal :=
  .next (s.imageCommit (loadFault.map fun x => (x.1.val, x.2.val)))

/-- IMAGE_STAGE (R283). -/
def execImageStage (s : State) : Host.Outcome State Fault Refusal :=
  .next (s.imageStage)

/-- STAGE_COMPLETE (R283). -/
def execStageComplete (s : State) : Host.Outcome State Fault Refusal :=
  .next (s.stageComplete)

/-- STAGE_CANCEL (R284). -/
def execStageCancel (s : State) : Host.Outcome State Fault Refusal :=
  .next (s.stageCancel)

/-- IMAGE_WITHDRAW (R282). -/
def execImageWithdraw (s : State) : Host.Outcome State Fault Refusal :=
  .next (s.imageWithdraw)

/-- SWAP_QUIET_WAIT (R284, R285). -/
def execSwapQuietWait (s : State) : Host.Outcome State Fault Refusal :=
  .next (s.swapWait)

/-- SWAP_QUIET (R285, R286, R427). -/
def execSwapQuiet (s : State) : Host.Outcome State Fault Refusal :=
  .next (s.swapQuiet)

/-- SWAP_QUIET_TIMEOUT (R285). -/
def execSwapQuietTimeout (s : State) : Host.Outcome State Fault Refusal :=
  .next (s.swapTimeout)

end Sys2Proof.Machine
end

