-- ==== Sys2Proof/Machine/MemoryFamily.lean ====
section
/-! DEFINITION. Memory requests, manger calls, refresh, scrubbing, signed ranges and leases: one meaning for each command. -/

namespace Sys2Proof.Machine

/-- MEM_READ (R238). -/
def execMemRead (u : MUnit) (hw : DramHw) (s : State) : Host.Outcome State Fault Refusal :=
  .next (s.memRead u hw)

/-- MEM_WRITE (R238). -/
def execMemWrite (u : MUnit) (hw : DramHw) (s : State) : Host.Outcome State Fault Refusal :=
  .next (s.memWrite u hw)

/-- MEM_REPLY (R191, R238, R476). -/
def execMemReply (u : MUnit) (s : State) : Host.Outcome State Fault Refusal :=
  .next (s.memReply u)

/-- MGR_CALL (R246, R247). -/
def execMgrCall (u : MUnit) (s : State) : Host.Outcome State Fault Refusal :=
  .next (s.mgrCall u)

/-- GEMV (R249). -/
def execGemv (k : Stk) (c : Chn) (hw : LaneHw) (s : State) : Host.Outcome State Fault Refusal :=
  .next (s.compute k c 1 hw gemvRows)

/-- DECODE_ATTEND (R250). -/
def execDecodeAttend (k : Stk) (c : Chn) (hw : LaneHw) (s : State) : Host.Outcome State Fault Refusal :=
  .next (s.compute k c 2 hw attendRows)

/-- GATHER (R251). -/
def execGather (k : Stk) (c : Chn) (hw : LaneHw) (s : State) : Host.Outcome State Fault Refusal :=
  .next (s.compute k c 3 hw gatherRows)

/-- MGR_CALL_COMPLETE (R248). -/
def execMgrCallComplete (k : Stk) (c : Chn) (s : State) : Host.Outcome State Fault Refusal :=
  .next (s.callComplete k c)

/-- MGR_RESULT (R248). -/
def execMgrResult (p : PBlk) (s : State) : Host.Outcome State Fault Refusal :=
  .next (s.onBlock p fun b env => b.mgrResult env)

/-- REFRESH (R239, R241). -/
def execRefresh (unit : Fin 20) (temp : BitVec 8) (s : State) : Host.Outcome State Fault Refusal :=
  .next (s.refresh unit temp.toNat)

/-- SCRUB_BURST (R257 to R260). -/
def execScrubBurst (k : Option Stk) (c : Chn) (bad : Option Nat) (s : State) : Host.Outcome State Fault Refusal :=
  .next (s.scrubBurst (k.map Fin.val) c bad)

/-- SIG_RANGE_ENABLE (R259). -/
def execSigRangeEnable (k : Stk) (j : Fin 16) (s : State) : Host.Outcome State Fault Refusal :=
  .next (s.sigEnable k j)

/-- SIG_RANGE_DISABLE (R259). -/
def execSigRangeDisable (k : Stk) (j : Fin 16) (s : State) : Host.Outcome State Fault Refusal :=
  .next (s.sigDisable k j)

/-- ROWSIG_COMPLETE (R259). -/
def execRowsigComplete (k : Stk) (j : Fin 16) (s : State) : Host.Outcome State Fault Refusal :=
  .next (s.rowsig k j)

/-- DDR5_RETRAINING (R356). -/
def execDdr5Retraining (c : DCh) (s : State) : Host.Outcome State Fault Refusal :=
  .next (s.retrain c)

/-- LEASE_ACQUIRE (R356 to R358). -/
def execLeaseAcquire (code : Fin 16) (res : Nat) (nowait : Bool) (s : State) : Host.Outcome State Fault Refusal :=
  .next (s.leaseAcquire code res nowait)

/-- LEASE_GRANT (R358). -/
def execLeaseGrant (s : State) : Host.Outcome State Fault Refusal :=
  .next s.leaseGrant

/-- LEASE_RELEASE (R358). -/
def execLeaseRelease (code : Fin 16) (res : Nat) (s : State) : Host.Outcome State Fault Refusal :=
  .next (s.release code res)

/-- LEASE_STARVED (R358). -/
def execLeaseStarved (s : State) : Host.Outcome State Fault Refusal :=
  .next s.leaseStarved

end Sys2Proof.Machine
end

