-- ==== Sys2Proof/Machine/MeshFamily.lean ====
section
/-! DEFINITION. The mesh: one meaning for each command. -/

namespace Sys2Proof.Machine

/-- PACKET_INJECT (R187 to R192, R202, R485). -/
def execPacketInject (u : MUnit) (s : State) (bad : Bool := false) : Host.Outcome State Fault Refusal :=
  .next (s.inject u bad)

/-- FLIT_RECEIVE (R178, R208). -/
def execFlitReceive (p : PBlk) (port : Fin 6) (vc : Fin 2) (hw : Fin 5) (s : State) : Host.Outcome State Fault Refusal :=
  .next (s.flitReceive p port vc hw)

/-- PACKET_HEADER_ARRIVE (R183, R185, R196, R197, R200, R203, R204, R207). -/
def execPacketHeaderArrive (p : PBlk) (port : Fin 6) (vc : Fin 2) (crcOk : Bool) (s : State) : Host.Outcome State Fault Refusal :=
  .next (s.headerArrive p port vc crcOk)

/-- MERGE_ENTRY_LEAVE (R206, R207). -/
def execMergeEntryLeave (p : PBlk) (i : Fin 8) (s : State) : Host.Outcome State Fault Refusal :=
  .next (s.mergeLeave p i)

/-- GAIT_ENTRY_SERVE (R36, R206, R277). -/
def execGaitEntryServe (p : PBlk) (s : State) (crcOk : Bool := true) : Host.Outcome State Fault Refusal :=
  .next (s.gaitServe p crcOk)

/-- MULTICAST_BRANCH_SEND (R204). -/
def execMulticastBranchSend (p : PBlk) (vc : Fin 2) (port : Fin 6) (s : State) : Host.Outcome State Fault Refusal :=
  .next (s.branchSend p vc port)

/-- PACKET_ACCEPT (R190, R191, R201, R205). -/
def execPacketAccept (u : MUnit) (s : State) : Host.Outcome State Fault Refusal :=
  .next (s.packetAccept u)

/-- ACK_SEND (R191, R201, R215). -/
def execAckSend (u : MUnit) (peer : MUnit) (vc : Fin 2) (s : State) : Host.Outcome State Fault Refusal :=
  .next (s.ackSend u peer vc)

/-- ACK_RECEIVE (R124, R125, R191, R192, R205, R214). -/
def execAckReceive (u : MUnit) (s : State) : Host.Outcome State Fault Refusal :=
  .next (s.ackReceive u)

/-- ECHO_RECEIVE (R201, R202). -/
def execEchoReceive (p : PBlk) (s : State) : Host.Outcome State Fault Refusal :=
  .next (s.echoReceive p)

/-- RESEND_TIMEOUT (R192, R205). -/
def execResendTimeout (u : MUnit) (dest : MUnit) (vc : Fin 2) (s : State) : Host.Outcome State Fault Refusal :=
  .next (s.resendTimeout u dest vc)

/-- EPOCH_FLIP_START (R195, R197, R199): a fault whose entries cannot be formed passes to the chip steward. -/
def execEpochFlipStart (r : Rgn) (s : State) : Host.Outcome State Fault Refusal :=
  .next (if s.tablesForm then s.flipStart r else s.regionRecovery r false)

/-- EPOCH_FLIP_REQUEST (R195). -/
def execEpochFlipRequest (s : State) : Host.Outcome State Fault Refusal :=
  .next s.flipRequest

/-- FLIP_DRAINED (R195, R198). -/
def execFlipDrained (s : State) : Host.Outcome State Fault Refusal :=
  .next s.flipOver

/-- FLIP_DRAIN_TIMEOUT (R198). -/
def execFlipDrainTimeout (s : State) : Host.Outcome State Fault Refusal :=
  .next s.flipDrainTimeout

end Sys2Proof.Machine
end

