-- ==== Sys2Proof/Machine/PowerFamily.lean ====
section
/-! DEFINITION. Power, bring-up and the Rider domain: one meaning for each command. -/

namespace Sys2Proof.Machine

/-- INPUT_IN_RANGE (R289, R459). -/
def execInputInRange (s : State) : Host.Outcome State Fault Refusal :=
  .next (s.inputIn)

/-- INPUT_OUT_OF_RANGE (R299, R459). -/
def execInputOutOfRange (s : State) : Host.Outcome State Fault Refusal :=
  .next (s.inputOut)

/-- MODULE_EN_RISE (R289). -/
def execModuleEnRise (s : State) : Host.Outcome State Fault Refusal :=
  .next (s.enRise)

/-- MODULE_EN_FALL (R299). -/
def execModuleEnFall (s : State) : Host.Outcome State Fault Refusal :=
  .next (s.enFall)

/-- RESET_N_ASSERT (R439, R462): the pin is low for `lowNs`. -/
def execResetNAssert (lowNs : Nat) (s : State) : Host.Outcome State Fault Refusal :=
  .next (s.resetLow lowNs)

/-- RESET_N_RELEASE (R462). -/
def execResetNRelease (s : State) : Host.Outcome State Fault Refusal :=
  .next (s.resetHigh)

/-- BRINGUP_STEP_COMPLETE (R290 to R297). -/
def execBringupStepComplete (r : StepReport) (s : State) : Host.Outcome State Fault Refusal :=
  .next (s.bringupStep r)

/-- RAILS_OFF (R299). -/
def execRailsOff (s : State) : Host.Outcome State Fault Refusal :=
  .next (s.railsOff)

/-- RIDER_BOOT_START (R291). -/
def execRiderBootStart (s : State) : Host.Outcome State Fault Refusal :=
  .next (s.riderBoot)

/-- TAP_INSTRUCTION (R428, R429). -/
def execTapInstruction (i : TapInstr) (s : State) : Host.Outcome State Fault Refusal :=
  .next (s.tapInstruction i)

end Sys2Proof.Machine
end

