-- ==== Sys2Proof/Machine/RecoveryFamily.lean ====
section
/-! DEFINITION. Faults, recovery and resets: one meaning for each command. -/

namespace Sys2Proof.Machine

/-- RECOVERY_START (R343, R344). -/
def execRecoveryStart (cause : Fault1) (s : State) : Host.Outcome State Fault Refusal :=
  .next (s.recoveryStart cause)

/-- BLOCK_RESTORE (R346, R347). -/
def execBlockRestore (p : PBlk) (s : State) : Host.Outcome State Fault Refusal :=
  .next (s.blockRestore p)

/-- REGION_RECOVERY (R353). -/
def execRegionRecovery (r : Rgn) (tackLost : Bool) (s : State) : Host.Outcome State Fault Refusal :=
  .next (s.regionRecovery r tackLost)

/-- UNCORRECTABLE_ERROR (R260, R484). -/
def execUncorrectableError (ddr : Bool) (addr : Nat) (sigMiss : Bool) (load : Option (PBlk × Hdl)) (s : State) : Host.Outcome State Fault Refusal :=
  .next (s.memoryError ddr addr sigMiss (load.map fun x => (x.1.val, x.2.val)))

/-- WATCHDOG_PROBE_MISSED (R437). -/
def execWatchdogProbeMissed (who : Fin 1297) (s : State) : Host.Outcome State Fault Refusal :=
  .next (s.watchdog who)

/-- BLOCK_RESET_REQUEST (R440, R441). -/
def execBlockResetRequest (p : PBlk) (s : State) : Host.Outcome State Fault Refusal :=
  .next (s.blockRequest p)

/-- REGION_RESET_REQUEST (R440, R441). -/
def execRegionResetRequest (r : Rgn) (s : State) : Host.Outcome State Fault Refusal :=
  .next (s.regionRequest r)

/-- CHIP_RESET_REQUEST (R440, R441). -/
def execChipResetRequest (s : State) : Host.Outcome State Fault Refusal :=
  .next (s.chipRequest)

/-- TRACE_RECORD (R448, R449). -/
def execTraceRecord (p : PBlk) (kind unit : Nat) (source tag idx start dur : Nat) (s : State) : Host.Outcome State Fault Refusal :=
  .next (s.onBlock p fun b _ => b.traceRecord kind unit source tag idx start dur)

/-- TRACE_STORE (R449). -/
def execTraceStore (p : PBlk) (s : State) : Host.Outcome State Fault Refusal :=
  .next (s.onPackhorse p fun b env o => b.traceStore env o.tiers)

end Sys2Proof.Machine
end

