-- ==== Sys2Proof/Machine/ScanFamily.lean ====
section
/-! DEFINITION. Scans: one meaning for each command. -/

namespace Sys2Proof.Machine

/-- SCAN_OUT (R171, R172, R174). -/
def execScanOut (p : PBlk) (bySteward : Bool) (s : State) : Host.Outcome State Fault Refusal :=
  .next (s.scanOut p bySteward)

/-- SCAN_IN (R171, R175). -/
def execScanIn (p : PBlk) (bySteward : Bool) (s : State) : Host.Outcome State Fault Refusal :=
  .next (s.scanIn p bySteward)

/-- SCAN_DONE (R171). -/
def execScanDone (p : PBlk) (s : State) : Host.Outcome State Fault Refusal :=
  .next (s.scanDone p)

end Sys2Proof.Machine
end

