-- ==== Sys2Proof/Machine/ScreenFamily.lean ====
section
/-! DEFINITION. Screening: one meaning for each command. -/

namespace Sys2Proof.Machine

/-- BIST_SLICE_START (R305 to R308). -/
def execBistSliceStart (p : PBlk) (s : State) : Host.Outcome State Fault Refusal :=
  .next (s.sliceStart p)

/-- BIST_SLICE_END (R308 to R310, R328). -/
def execBistSliceEnd (p : PBlk) (pass : Bool) (place : Word) (s : State) : Host.Outcome State Fault Refusal :=
  .next (s.sliceEnd p pass place)

/-- DIAGNOSTIC_RUN_END (R327, R328). -/
def execDiagnosticRunEnd (p : PBlk) (s : State) : Host.Outcome State Fault Refusal :=
  .next (s.diagEnd p)

/-- MANGER_SLICE (R316, R330). -/
def execMangerSlice (k : Stk) (c : Chn) (slice : Fin 4) (ok1 ok2 : Bool) (s : State) : Host.Outcome State Fault Refusal :=
  .next (s.mangerSlice k c slice ok1 ok2)

/-- TEST_LAPSED (R314). -/
def execTestLapsed (u : Fin 1536) (s : State) : Host.Outcome State Fault Refusal :=
  .next (s.testLapsed u)

/-- PLANNED_SWAP (R312, R351). -/
def execPlannedSwap (p : PBlk) (s : State) : Host.Outcome State Fault Refusal :=
  .next (s.plannedSwap p)

/-- PREEMPT_IN_PLACE (R313). -/
def execPreemptInPlace (p : PBlk) (pass : Bool) (s : State) : Host.Outcome State Fault Refusal :=
  .next (s.preempt p pass)

/-- SHADOW_VERDICT (R319, R376): `u` is what a fault of the spare made of its tally, none for a sound one. -/
def execShadowVerdict (p : PBlk) (u : Option Word) (s : State) : Host.Outcome State Fault Refusal :=
  .next (s.anyVerdict p u)

/-- CHIP_SWEEP_RECORD (R331). -/
def execChipSweepRecord (s : State) : Host.Outcome State Fault Refusal :=
  .next (s.sweepRecord)

/-- SADDLEBAG_COMPLETE (R338, R356, R370). -/
def execSaddlebagComplete (p : PBlk) (s : State) : Host.Outcome State Fault Refusal :=
  .next (s.saddleDone p)

/-- SADDLEBAG_INVALID (R338, R360). -/
def execSaddlebagInvalid (s : State) : Host.Outcome State Fault Refusal :=
  .next (s.saddleExpire)

end Sys2Proof.Machine
end

