-- ==== Sys2Proof/Machine/StrideProgram.lean ====
section
/-! DEFINITION. The stride program: one meaning for each of its operations. -/

namespace Sys2Proof.Machine

/-- NOP (R74) of block `p`. -/
def execNop (p : PBlk) (hw : EngineHw) (s : State) : Host.Outcome State Fault Refusal :=
  .next (s.onBlock p fun b env => b.opNop env hw)

/-- LOADW (R75) of block `p`. -/
def execLoadw (p : PBlk) (hw : EngineHw) (s : State) : Host.Outcome State Fault Refusal :=
  .next (s.onBlock p fun b env => b.opLoadw env hw)

/-- STREAM (R76) of block `p`. -/
def execStream (p : PBlk) (hw : EngineHw) (s : State) : Host.Outcome State Fault Refusal :=
  .next (s.onBlock p fun b env => b.opStream env hw)

/-- DRAIN (R77) of block `p`. -/
def execDrain (p : PBlk) (hw : EngineHw) (s : State) : Host.Outcome State Fault Refusal :=
  .next (s.onBlock p fun b env => b.opDrain env hw)

/-- ANCHOR (R78) of block `p`. -/
def execAnchor (p : PBlk) (hw : EngineHw) (s : State) : Host.Outcome State Fault Refusal :=
  .next (s.onBlock p fun b env => b.opAnchor env hw)

/-- CONVERT (R79) of block `p`. -/
def execConvert (p : PBlk) (hw : EngineHw) (s : State) : Host.Outcome State Fault Refusal :=
  .next (s.onBlock p fun b env => b.opConvert env hw)

/-- STRIDE_SEND (R80) of block `p`. -/
def execStrideSend (p : PBlk) (hw : EngineHw) (s : State) : Host.Outcome State Fault Refusal :=
  .next (s.onBlock p fun b env => b.opSend env hw)

/-- COMBINE (R81) of block `p`. -/
def execCombine (p : PBlk) (hw : EngineHw) (s : State) : Host.Outcome State Fault Refusal :=
  .next (s.onBlock p fun b env => b.opCombine env hw)

/-- STRIDE_TALLY (R82) of block `p`. -/
def execStrideTally (p : PBlk) (hw : EngineHw) (s : State) : Host.Outcome State Fault Refusal :=
  .next (s.onBlock p fun b env => b.opTally env hw)

/-- WAITTAG (R83) of block `p`. -/
def execWaittag (p : PBlk) (hw : EngineHw) (s : State) : Host.Outcome State Fault Refusal :=
  .next (s.onBlock p fun b env => b.opWaittag env hw)

/-- SPLICE (R84) of block `p`. -/
def execSplice (p : PBlk) (hw : EngineHw) (s : State) : Host.Outcome State Fault Refusal :=
  .next (s.onBlock p fun b env => b.opSplice env hw)

end Sys2Proof.Machine
end

