-- ==== Sys2Proof/Machine/TwinFamily.lean ====
section
/-! DEFINITION. Twins: one meaning for each command. -/

namespace Sys2Proof.Machine

/-- TWIN_PAIR (R367 to R369). -/
def execTwinPair (s : State) : Host.Outcome State Fault Refusal :=
  .next (s.twinPair)

/-- PAIRING_TIMEOUT (R367). -/
def execPairingTimeout (s : State) : Host.Outcome State Fault Refusal :=
  .next (s.pairingTimeout)

/-- TWIN_UNPAIR (R379). -/
def execTwinUnpair (s : State) : Host.Outcome State Fault Refusal :=
  .next (s.twinUnpair)

/-- TWIN_REJOIN (R382). -/
def execTwinRejoin (s : State) : Host.Outcome State Fault Refusal :=
  .next (s.twinRejoin)

/-- TWN_PARTNER_DOWN (R378). -/
def execTwnPartnerDown (s : State) : Host.Outcome State Fault Refusal :=
  .next (s.partnerDown)

/-- DETACH_SELF (R377). -/
def execDetachSelf (s : State) : Host.Outcome State Fault Refusal :=
  .next (s.detachSelf)

/-- HELLO (R366 to R368). -/
def execHello (m : HelloMsg) (s : State) : Host.Outcome State Fault Refusal :=
  .next (s.hello m)

/-- YOKE_ATTEST (R366, R367). -/
def execYokeAttest (nonce : Bool) (bytes : List Byte) (valid : Bool) (s : State) : Host.Outcome State Fault Refusal :=
  .next (s.yokeAttest nonce bytes valid)

/-- YOKE_TALLY (R372, R373, R375). -/
def execYokeTally (stride tally done : Word) (flags : BitVec 8) (s : State) : Host.Outcome State Fault Refusal :=
  .next (s.yokeTally stride.toNat tally done.toNat flags.toNat)

/-- YOKE_ADMIT (R371). -/
def execYokeAdmit (ident stride : Word) (length : Nat) (crc : Word) (s : State) : Host.Outcome State Fault Refusal :=
  .next (s.yokeAdmit ident.toNat stride.toNat length crc.toNat)

/-- YOKE_INPUT (R366, R371). -/
def execYokeInput (ident : Word) (payload : List Byte) (s : State) : Host.Outcome State Fault Refusal :=
  .next (s.yokeInput ident.toNat payload)

/-- YOKE_WRITE (R370, R382). -/
def execYokeWrite (ddr : Bool) (addr : Nat) (lines : List Byte) (s : State) : Host.Outcome State Fault Refusal :=
  .next (s.yokeWrite (if ddr then 2 else 1) addr lines)

/-- SAVE (R370, R382). -/
def execSave (l : LBlk) (c : Word) (bytes : List Byte) (s : State) : Host.Outcome State Fault Refusal :=
  .next (s.save l c.toNat bytes)

/-- BTALLY (R376). -/
def execBtally (words : List Word) (s : State) : Host.Outcome State Fault Refusal :=
  .next (s.btally words)

/-- YOKE_STATE (R366, R377, R378). -/
def execYokeState (what : YokeSay) (done : Word) (s : State) : Host.Outcome State Fault Refusal :=
  .next (s.yokeState what done.toNat)

/-- QUIET (R285). -/
def execQuiet (stride : Word) (s : State) : Host.Outcome State Fault Refusal :=
  .next (s.yokeQuiet stride.toNat)

/-- COMPARISON_TIMEOUT (R377, R378). -/
def execComparisonTimeout (s : State) : Host.Outcome State Fault Refusal :=
  .next (s.comparisonTimeout)

/-- YOKE_PORT_LOST (R365, R378). -/
def execYokePortLost (j : Fin 2) (s : State) : Host.Outcome State Fault Refusal :=
  .next (s.yokePortLost j)

/-- TWIN_DET_CHANGE (R378). -/
def execTwinDetChange (j : Fin 2) (powered : Bool) (s : State) : Host.Outcome State Fault Refusal :=
  .next (s.twinDetChange j powered)

end Sys2Proof.Machine
end

