-- ==== Sys2Proof/Machine/Dispatch.lean ====
section
/-! DEFINITION. One arm for each command. -/

namespace Sys2Proof.Machine

/-- The effect of a command on everything but the queue. -/
def exec (i : Instr) (s : State) : Host.Outcome State Fault Refusal :=
  match i with
  | .inputInRange => Sys2Proof.Machine.execInputInRange s
  | .inputOutOfRange => Sys2Proof.Machine.execInputOutOfRange s
  | .moduleEnRise => Sys2Proof.Machine.execModuleEnRise s
  | .moduleEnFall => Sys2Proof.Machine.execModuleEnFall s
  | .resetNAssert lowNs => Sys2Proof.Machine.execResetNAssert lowNs s
  | .resetNRelease => Sys2Proof.Machine.execResetNRelease s
  | .bringupStepComplete r => Sys2Proof.Machine.execBringupStepComplete r s
  | .beatIssue => Sys2Proof.Machine.execBeatIssue s
  | .beatArrive p carried parityOk => Sys2Proof.Machine.execBeatArrive p carried parityOk s
  | .strideAck p => Sys2Proof.Machine.execStrideAck p s
  | .regionAck r => Sys2Proof.Machine.execRegionAck r s
  | .tetherTimeout p => Sys2Proof.Machine.execTetherTimeout p s
  | .rejoinFailed => Sys2Proof.Machine.execRejoinFailed s
  | .syncExchange t1 t2 t3 t4 => Sys2Proof.Machine.execSyncExchange t1 t2 t3 t4 s
  | .syncAnswer port peer t2 t3 => Sys2Proof.Machine.execSyncAnswer port peer t2 t3 s
  | .portStateChange port up => Sys2Proof.Machine.execPortStateChange port up s
  | .cadPeriodWrite at_ v => Sys2Proof.Machine.execCadPeriodWrite at_ v s
  | .nop p hw => Sys2Proof.Machine.execNop p hw s
  | .loadw p hw => Sys2Proof.Machine.execLoadw p hw s
  | .stream p hw => Sys2Proof.Machine.execStream p hw s
  | .drain p hw => Sys2Proof.Machine.execDrain p hw s
  | .anchor p hw => Sys2Proof.Machine.execAnchor p hw s
  | .convert p hw => Sys2Proof.Machine.execConvert p hw s
  | .strideSend p hw => Sys2Proof.Machine.execStrideSend p hw s
  | .combine p hw => Sys2Proof.Machine.execCombine p hw s
  | .strideTally p hw => Sys2Proof.Machine.execStrideTally p hw s
  | .waittag p hw => Sys2Proof.Machine.execWaittag p hw s
  | .splice p hw => Sys2Proof.Machine.execSplice p hw s
  | .groomInstruction p t op hw => Sys2Proof.Machine.execGroomInstruction p t op hw s
  | .groomLoad p t size signed rd ra off hw => Sys2Proof.Machine.execGroomLoad p t size signed rd ra off hw s
  | .groomStore p t size rs ra off hw => Sys2Proof.Machine.execGroomStore p t size rs ra off hw s
  | .handleAccess p t write size r ref ra off hw => Sys2Proof.Machine.execHandleAccess p t write size r ref ra off s hw
  | .rand p t rd ra seed3 hw => Sys2Proof.Machine.execRand p t rd ra seed3 s hw
  | .groomSend p t a b c imm hw => Sys2Proof.Machine.execGroomSend p t a b c imm s hw
  | .recv p t a b c imm hw => Sys2Proof.Machine.execRecv p t a b c imm s hw
  | .poll p t a b imm hw => Sys2Proof.Machine.execPoll p t a b imm s hw
  | .handleRead p t a b hw => Sys2Proof.Machine.execHandleRead p t a b s hw
  | .handleRef p t a b hw => Sys2Proof.Machine.execHandleRef p t a b s hw
  | .handleOpen p t a b hw => Sys2Proof.Machine.execHandleOpen p t a b s hw
  | .handleClose p t a b hw => Sys2Proof.Machine.execHandleClose p t a b s hw
  | .handleRebind p t a b c hw => Sys2Proof.Machine.execHandleRebind p t a b c s hw
  | .handleBump p t a b hw => Sys2Proof.Machine.execHandleBump p t a b s hw
  | .groomTally p t b c hw => Sys2Proof.Machine.execGroomTally p t b c s hw
  | .balkchkQuery p t a b hw => Sys2Proof.Machine.execBalkchkQuery p t a b s hw
  | .balkchkRetry p t a b hw => Sys2Proof.Machine.execBalkchkRetry p t a b s hw
  | .balkchkDiscard p t a b hw => Sys2Proof.Machine.execBalkchkDiscard p t a b s hw
  | .yieldTurn p t hw => Sys2Proof.Machine.execYieldTurn p t s hw
  | .yieldEnd p t hw => Sys2Proof.Machine.execYieldEnd p t s hw
  | .fencewait p t imm hw => Sys2Proof.Machine.execFencewait p t imm s hw
  | .hdlWrite p h which v => Sys2Proof.Machine.execHdlWrite p h which v s
  | .pkhHeadWrite p thread v => Sys2Proof.Machine.execPkhHeadWrite p thread v s
  | .descriptorStart p ring hw => Sys2Proof.Machine.execDescriptorStart p ring hw s
  | .descriptorComplete p ring => Sys2Proof.Machine.execDescriptorComplete p ring s
  | .tokenArrive p hw => Sys2Proof.Machine.execTokenArrive p s hw
  | .fireListEntryStart p hw => Sys2Proof.Machine.execFireListEntryStart p s hw
  | .freeNodeFire p hw => Sys2Proof.Machine.execFreeNodeFire p s hw
  | .reinSelection p hw bad => Sys2Proof.Machine.execReinSelection p s hw bad
  | .cqContribute p bad => Sys2Proof.Machine.execCqContribute p s bad
  | .cqForward p cq bad => Sys2Proof.Machine.execCqForward p cq s bad
  | .scanOut p bySteward => Sys2Proof.Machine.execScanOut p bySteward s
  | .scanIn p bySteward => Sys2Proof.Machine.execScanIn p bySteward s
  | .scanDone p => Sys2Proof.Machine.execScanDone p s
  | .packetInject u bad => Sys2Proof.Machine.execPacketInject u s bad
  | .flitReceive p port vc hw => Sys2Proof.Machine.execFlitReceive p port vc hw s
  | .packetHeaderArrive p port vc crcOk => Sys2Proof.Machine.execPacketHeaderArrive p port vc crcOk s
  | .mergeEntryLeave p j => Sys2Proof.Machine.execMergeEntryLeave p j s
  | .gaitEntryServe p crcOk => Sys2Proof.Machine.execGaitEntryServe p s crcOk
  | .multicastBranchSend p vc port => Sys2Proof.Machine.execMulticastBranchSend p vc port s
  | .packetAccept u => Sys2Proof.Machine.execPacketAccept u s
  | .ackSend u peer vc => Sys2Proof.Machine.execAckSend u peer vc s
  | .ackReceive u => Sys2Proof.Machine.execAckReceive u s
  | .echoReceive p => Sys2Proof.Machine.execEchoReceive p s
  | .resendTimeout u dest vc => Sys2Proof.Machine.execResendTimeout u dest vc s
  | .credit p => Sys2Proof.Machine.execCredit p s
  | .epochFlipStart r => Sys2Proof.Machine.execEpochFlipStart r s
  | .epochFlipRequest => Sys2Proof.Machine.execEpochFlipRequest s
  | .flipDrained => Sys2Proof.Machine.execFlipDrained s
  | .flipDrainTimeout => Sys2Proof.Machine.execFlipDrainTimeout s
  | .messageArrive p => Sys2Proof.Machine.execMessageArrive p s
  | .windowWriteArrive p => Sys2Proof.Machine.execWindowWriteArrive p s
  | .reoffer p t slot => Sys2Proof.Machine.execReoffer p t slot s
  | .queueClose p q => Sys2Proof.Machine.execQueueClose p q s
  | .queueReopen p q => Sys2Proof.Machine.execQueueReopen p q s
  | .windowCloseComplete p h => Sys2Proof.Machine.execWindowCloseComplete p h s
  | .windowCloseTimeout p h => Sys2Proof.Machine.execWindowCloseTimeout p h s
  | .memRead u hw => Sys2Proof.Machine.execMemRead u hw s
  | .memWrite u hw => Sys2Proof.Machine.execMemWrite u hw s
  | .memReply u => Sys2Proof.Machine.execMemReply u s
  | .mgrCall u => Sys2Proof.Machine.execMgrCall u s
  | .gemv k c hw => Sys2Proof.Machine.execGemv k c hw s
  | .decodeAttend k c hw => Sys2Proof.Machine.execDecodeAttend k c hw s
  | .gather k c hw => Sys2Proof.Machine.execGather k c hw s
  | .mgrCallComplete k c => Sys2Proof.Machine.execMgrCallComplete k c s
  | .mgrResult p => Sys2Proof.Machine.execMgrResult p s
  | .refresh unit temp => Sys2Proof.Machine.execRefresh unit temp s
  | .scrubBurst k c bad => Sys2Proof.Machine.execScrubBurst k c bad s
  | .sigRangeEnable k j => Sys2Proof.Machine.execSigRangeEnable k j s
  | .sigRangeDisable k j => Sys2Proof.Machine.execSigRangeDisable k j s
  | .rowsigComplete k j => Sys2Proof.Machine.execRowsigComplete k j s
  | .uncorrectableError ddr addr sigMiss load => Sys2Proof.Machine.execUncorrectableError ddr addr sigMiss load s
  | .ddr5Retraining c => Sys2Proof.Machine.execDdr5Retraining c s
  | .imageLoad => Sys2Proof.Machine.execImageLoad s
  | .imageCommit loadFault => Sys2Proof.Machine.execImageCommit loadFault s
  | .imageStage => Sys2Proof.Machine.execImageStage s
  | .stageComplete => Sys2Proof.Machine.execStageComplete s
  | .stageCancel => Sys2Proof.Machine.execStageCancel s
  | .imageWithdraw => Sys2Proof.Machine.execImageWithdraw s
  | .swapQuietWait => Sys2Proof.Machine.execSwapQuietWait s
  | .swapQuiet => Sys2Proof.Machine.execSwapQuiet s
  | .swapQuietTimeout => Sys2Proof.Machine.execSwapQuietTimeout s
  | .bistSliceStart p => Sys2Proof.Machine.execBistSliceStart p s
  | .bistSliceEnd p pass place => Sys2Proof.Machine.execBistSliceEnd p pass place s
  | .diagnosticRunEnd p => Sys2Proof.Machine.execDiagnosticRunEnd p s
  | .mangerSlice k c slice ok1 ok2 => Sys2Proof.Machine.execMangerSlice k c slice ok1 ok2 s
  | .testLapsed u => Sys2Proof.Machine.execTestLapsed u s
  | .plannedSwap p => Sys2Proof.Machine.execPlannedSwap p s
  | .preemptInPlace p pass => Sys2Proof.Machine.execPreemptInPlace p pass s
  | .shadowVerdict p u => Sys2Proof.Machine.execShadowVerdict p u s
  | .chipSweepRecord => Sys2Proof.Machine.execChipSweepRecord s
  | .saddlebagComplete p => Sys2Proof.Machine.execSaddlebagComplete p s
  | .saddlebagInvalid => Sys2Proof.Machine.execSaddlebagInvalid s
  | .recoveryStart cause => Sys2Proof.Machine.execRecoveryStart cause s
  | .blockRestore p => Sys2Proof.Machine.execBlockRestore p s
  | .regionRecovery r tackLost => Sys2Proof.Machine.execRegionRecovery r tackLost s
  | .leaseAcquire code res nowait => Sys2Proof.Machine.execLeaseAcquire code res nowait s
  | .leaseGrant => Sys2Proof.Machine.execLeaseGrant s
  | .leaseRelease code res => Sys2Proof.Machine.execLeaseRelease code res s
  | .leaseStarved => Sys2Proof.Machine.execLeaseStarved s
  | .twinPair => Sys2Proof.Machine.execTwinPair s
  | .pairingTimeout => Sys2Proof.Machine.execPairingTimeout s
  | .twinUnpair => Sys2Proof.Machine.execTwinUnpair s
  | .twinRejoin => Sys2Proof.Machine.execTwinRejoin s
  | .twnPartnerDown => Sys2Proof.Machine.execTwnPartnerDown s
  | .detachSelf => Sys2Proof.Machine.execDetachSelf s
  | .hello m => Sys2Proof.Machine.execHello m s
  | .yokeAttest nonce bytes valid => Sys2Proof.Machine.execYokeAttest nonce bytes valid s
  | .yokeTally stride tally done flags => Sys2Proof.Machine.execYokeTally stride tally done flags s
  | .yokeAdmit ident stride length crc => Sys2Proof.Machine.execYokeAdmit ident stride length crc s
  | .yokeInput ident payload => Sys2Proof.Machine.execYokeInput ident payload s
  | .yokeWrite ddr addr lines => Sys2Proof.Machine.execYokeWrite ddr addr lines s
  | .save l c bytes => Sys2Proof.Machine.execSave l c bytes s
  | .btally words => Sys2Proof.Machine.execBtally words s
  | .yokeState what done => Sys2Proof.Machine.execYokeState what done s
  | .quiet stride => Sys2Proof.Machine.execQuiet stride s
  | .comparisonTimeout => Sys2Proof.Machine.execComparisonTimeout s
  | .yokePortLost j => Sys2Proof.Machine.execYokePortLost j s
  | .twinDetChange j powered => Sys2Proof.Machine.execTwinDetChange j powered s
  | .commandFetch => Sys2Proof.Machine.execCommandFetch s
  | .cmdNop => Sys2Proof.Machine.execCmdNop s
  | .launch => Sys2Proof.Machine.execLaunch s
  | .admitJob => Sys2Proof.Machine.execAdmitJob s
  | .admitDeliver => Sys2Proof.Machine.execAdmitDeliver s
  | .endCmd => Sys2Proof.Machine.execEndCmd s
  | .waitCmd => Sys2Proof.Machine.execWaitCmd s
  | .jobEnd => Sys2Proof.Machine.execJobEnd s
  | .completionPost => Sys2Proof.Machine.execCompletionPost s
  | .commandQuery v => Sys2Proof.Machine.execCommandQuery v s
  | .stepGrant r => Sys2Proof.Machine.execStepGrant r s
  | .ringEnable ring v => Sys2Proof.Machine.execRingEnable ring v s
  | .heartbeat v => Sys2Proof.Machine.execHeartbeat v s
  | .riderSilent => Sys2Proof.Machine.execRiderSilent s
  | .traceCtlWrite p v => Sys2Proof.Machine.execTraceCtlWrite p v s
  | .templateReload p v => Sys2Proof.Machine.execTemplateReload p v s
  | .frameReceive p bytes fcsOk => Sys2Proof.Machine.execFrameReceive p bytes fcsOk s
  | .frameTransmit p => Sys2Proof.Machine.execFrameTransmit p s
  | .outputFrame p => Sys2Proof.Machine.execOutputFrame p s
  | .fabricFrameReceive port bytes fcsOk => Sys2Proof.Machine.execFabricFrameReceive port bytes fcsOk s
  | .fabricRetransmit port peer => Sys2Proof.Machine.execFabricRetransmit port peer s
  | .remoteRequest port => Sys2Proof.Machine.execRemoteRequest port s
  | .peerReset => Sys2Proof.Machine.execPeerReset s
  | .farrierRestart => Sys2Proof.Machine.execFarrierRestart s
  | .eventRecordIntake => Sys2Proof.Machine.execEventRecordIntake s
  | .logFlush => Sys2Proof.Machine.execLogFlush s
  | .sensorRead index value => Sys2Proof.Machine.execSensorRead index value s
  | .sessionOpen chainsToAnchor => Sys2Proof.Machine.execSessionOpen chainsToAnchor s
  | .getState sess n => Sys2Proof.Machine.execGetState sess n s
  | .subscribe sess n start => Sys2Proof.Machine.execSubscribe sess n start s
  | .logRead sess n seq => Sys2Proof.Machine.execLogRead sess n seq s
  | .sensors sess n => Sys2Proof.Machine.execSensors sess n s
  | .studRead sess n index => Sys2Proof.Machine.execStudRead sess n index s
  | .setConfig sess n item => Sys2Proof.Machine.execSetConfig sess n item s
  | .outOfService sess n => Sys2Proof.Machine.execOutOfService sess n s
  | .clear sess n => Sys2Proof.Machine.execClear sess n s
  | .partnerDown sess n => Sys2Proof.Machine.execPartnerDown sess n s
  | .packPush sess n bytes => Sys2Proof.Machine.execPackPush sess n bytes s
  | .fwStage sess n bytes => Sys2Proof.Machine.execFwStage sess n bytes s
  | .fwActivate sess n component at_ => Sys2Proof.Machine.execFwActivate sess n component at_ s
  | .fwCommit sess n component => Sys2Proof.Machine.execFwCommit sess n component s
  | .installAnchor sess n cert => Sys2Proof.Machine.execInstallAnchor sess n cert s
  | .installKey sess n key => Sys2Proof.Machine.execInstallKey sess n key s
  | .removeKey sess n ident => Sys2Proof.Machine.execRemoveKey sess n ident s
  | .attest sess n nonce => Sys2Proof.Machine.execAttest sess n nonce s
  | .scanUnlock sess n scrub => Sys2Proof.Machine.execScanUnlock sess n scrub s
  | .mbxLogRead => Sys2Proof.Machine.execMbxLogRead s
  | .mbxStudRead => Sys2Proof.Machine.execMbxStudRead s
  | .mbxLease => Sys2Proof.Machine.execMbxLease s
  | .mbxPartnerDown => Sys2Proof.Machine.execMbxPartnerDown s
  | .watchdogProbeMissed who => Sys2Proof.Machine.execWatchdogProbeMissed who s
  | .blockResetRequest p => Sys2Proof.Machine.execBlockResetRequest p s
  | .regionResetRequest r => Sys2Proof.Machine.execRegionResetRequest r s
  | .chipResetRequest => Sys2Proof.Machine.execChipResetRequest s
  | .traceRecord p kind unit source tag idx start dur => Sys2Proof.Machine.execTraceRecord p kind unit source tag idx start dur s
  | .traceStore p => Sys2Proof.Machine.execTraceStore p s
  | .riderWindowAccess core addr size data => Sys2Proof.Machine.execRiderWindowAccess core addr size data s
  | .unmappedAccess addr write => Sys2Proof.Machine.execUnmappedAccess addr write s
  | .narrowRegisterAccess addr size write => Sys2Proof.Machine.execNarrowRegisterAccess addr size write s
  | .registerWrite addr v => Sys2Proof.Machine.execRegisterWrite addr v s
  | .railsOff => Sys2Proof.Machine.execRailsOff s
  | .riderBootStart => Sys2Proof.Machine.execRiderBootStart s
  | .farrierRestartDone => Sys2Proof.Machine.execFarrierRestartDone s
  | .tapInstruction j => Sys2Proof.Machine.execTapInstruction j s

end Sys2Proof.Machine
end

