-- ==== Sys2Proof/Safety.lean ====
section
/-! DEFINITION. What counts as a safe state: the forms that every step keeps; and what a command of one block leaves alone. -/

namespace Sys2Proof.Machine

/-- The DRAM tiers are in canonical form. -/
def State.memoryWf (s : State) : Prop := Memory.wf s.hbm = true ∧ Memory.wf s.ddr = true

/-- The device is in one of the seven states of R29, and the DRAM tiers are in canonical form. -/
def State.Inv (s : State) : Prop := s.dev ≤ 6 ∧ s.memoryWf

/-- From `s` to `t` only block `p` has changed, but for the records that it sent up the Halter (R412): the buffers of its region and of
the chip steward, the count of transient faults (R324), and the counter of the free values. -/
structure State.OnlyBlock (p : Nat) (s t : State) : Prop where
  others : ∀ q, q ≠ p → t.block q = s.block q
  regions : ∀ r, r ≠ regionOf p → t.region r = s.region r
  home : ∃ ev, t.region (regionOf p) = { s.region (regionOf p) with ev := ev }
  words : ∀ a, a ≠ TST_CHP_TRANSIENT.off → mget chipReset t.regs a = mget chipReset s.regs a
  rest : ∃ blocks regions m ev co n,
    t = { s with blocks := blocks, regions := regions, regs := m, ev := ev, evCoalesced := co, freeCtr := n }

/-- From `s` to `t` only block `p` and the module's register words at `regs` have changed, but for the records that went up. -/
structure State.OnlyBlockAnd (p : Nat) (regs : List Nat) (s t : State) : Prop where
  others : ∀ q, q ≠ p → t.block q = s.block q
  regions : ∀ r, r ≠ regionOf p → t.region r = s.region r
  home : ∃ ev, t.region (regionOf p) = { s.region (regionOf p) with ev := ev }
  words : ∀ a, a ≠ TST_CHP_TRANSIENT.off → a ∉ regs → mget chipReset t.regs a = mget chipReset s.regs a
  rest : ∃ blocks regions m ev co n,
    t = { s with blocks := blocks, regions := regions, regs := m, ev := ev, evCoalesced := co, freeCtr := n }

/-- From `s` to `t` block `p` has become `b`, but for its records on the Halter and the registers named by their offsets in `regs`;
every other register of the block, and the rest of the module, is as it was. -/
def State.BlockBecomes (s : State) (p : Nat) (regs : List Nat) (b : Block) (t : State) : Prop :=
  s.OnlyBlock p t ∧ (∃ m ev co, t.block p = { b with regs := m, ev := ev, coalesced := co }) ∧
    ∀ a, a ∉ regs → (t.block p).word a = (s.block p).word a

/-- From `s` to `t` the module has become `b`, but for the records that reached the chip steward and the register words of the chip
steward, the memories and the Farrier at `regs`; every other word reads as it did. -/
def State.ChipBecomes (s : State) (regs : List Nat) (b t : State) : Prop :=
  (∃ m ev co, t = { b with regs := m, ev := ev, evCoalesced := co }) ∧
    ∀ a, a ∉ regs → mget chipReset t.regs a = mget chipReset s.regs a

/-- Block `b` starts the stride-program operation `op` next (R65, R72): it works on a stride, neither it nor its sequencer has stopped,
and the word at the sequencer's place encodes `op`. -/
def Block.Starts (b : Block) (op : SOp) : Prop :=
  b.working = true ∧ b.fenced = false ∧ b.get BLK_DRG_STATUS.state ≠ 5 ∧
    ∃ w, b.program[b.eng.next]? = some w ∧ SOp.decode w = some op

/-- The block after its sequencer has started an operation at time `now`: the engine's data is `e`, the next word follows, and the wave
schedule is `σ`. -/
def Block.started (b : Block) (now : Nat) (e : Engine) (σ : Sched) : Block :=
  { b with eng := { e with next := b.eng.next + 1, sched := σ }, progressAt := now }

/-- Block `b` once thread `t` has taken its pair's turn (R119). -/
def Block.turned (b : Block) (t : Nat) : Block := { b with turns := mset natZero b.turns (t / 2) (t + 1) }

/-- The counters of the threads that wait while thread `t` of their groom issues (R446). -/
def Block.waitRegs (b : Block) (t : Nat) : List Nat :=
  ((List.range 8).filter fun u => u / 4 == t / 4 && decide (2 ≤ (b.thread u).state ∧ (b.thread u).state ≤ 4)).map fun u =>
    BLK_CNT.off (35 + u)

/-- The registers in which thread `t` shows its state and counts its retired instructions (R124), and in which the waiting threads of its
groom count the issue step (R446). -/
def Block.groomRegs (b : Block) (t : Nat) : List Nat := BLK_GRM_STATE.off t :: BLK_CNT.off (27 + t) :: b.waitRegs t

/-- The registers that a program fault of thread `t` changes: its state and fault code, the count of records, and the waiting threads'
counters (R128, R446). -/
def Block.faultRegs (b : Block) (t : Nat) : List Nat := BLK_GRM_STATE.off t :: BLK_CNT.off 45 :: b.waitRegs t

/-- Block `b` after thread `t` has retired an instruction that leaves it as `th`: the next instruction follows. -/
def Block.retiredAs (b : Block) (t : Nat) (th : Thread) : Block :=
  { b.turned t with threads := mset threadIdle b.threads t { th with pc := (th.pc + 1) % 4096, state := 1, wait := .none } }

/-- Block `b` after a program fault of thread `t` (R128): the thread has stopped, and the job is to end with GROOM_FAULT and `code`. -/
def Block.faultedAs (b : Block) (t code : Nat) : Block :=
  { b.turned t with
    threads := mset threadIdle b.threads t { b.thread t with state := 5 }, jobFault := b.jobFault <|> some (10, code) }

/-- What lines written in order leave in a memory. -/
def Memory.putLines (m : Memory) : List (Nat × List Byte) → Memory
  | [] => m
  | (a, bs) :: ws => Memory.putLines (m.puts a (sliceZ bs 0 64)) ws

end Sys2Proof.Machine
end

