-- ==== Sys2Proof/Certificates/Slice0/Obligations.lean ====
section
/-! DEFINITION. The statements for the provers, each with the rules of the spec that it formalises. -/

open Sys2Proof Sys2Proof.Machine

/-- The module's queue is first in, first out: a step takes the command at the front and runs it on the rest. -/
def Obligations.StepRunsTheFrontCommand : Prop :=
  ∀ (c : Instr) (rest : List Instr) (s : State),
    Sys2Proof.Machine.step { s with pending := c :: rest } = exec c { s with pending := rest }

/-- R32: with no command waiting, a step is 1 ns of the timebase (the model's choice, log entry 2); R52: each million ppm that the rate
correction has gathered adds a nanosecond to one step, or takes its nanosecond away. Nothing happens to the blocks, the memories or the fuses; where no
coolant reading has run out (R464) only the time changes. -/
def Obligations.IdleStepIsOneNanosecond : Prop :=
  ∀ s : State, s.pending = [] →
    let f := s.cad.frac + s.cad.rate
    ∃ t n k, Sys2Proof.Machine.step s = .next t ∧ t.now = s.now + n ∧ t.cad = { s.cad with frac := k } ∧ t.pending = [] ∧
      t.hbm = s.hbm ∧ t.ddr = s.ddr ∧ t.blocks = s.blocks ∧ t.fuses = s.fuses ∧ (n : Int) * 1000000 + k = 1000000 + f ∧
      (f < 1000000 → -1000000 < f → n = 1) ∧ (1000000 ≤ f → n = 2) ∧ (f ≤ -1000000 → n = 0) ∧
      (s.far.reading = false → t = { s with now := t.now, cad := t.cad })

/-- Every command runs: from any state, its outcome is a next state, in which the queue, the time and the free values already drawn stand
as they were. -/
def Obligations.EveryCommandRuns : Prop :=
  ∀ (c : Instr) (s : State), ∃ t, exec c s = .next t ∧ t.pending = s.pending ∧ t.now = s.now ∧ s.freeCtr ≤ t.freeCtr

/-- R29: every step leaves the device in one of its seven states, and the DRAM tiers in canonical form. -/
def Obligations.StepKeepsInv : Prop :=
  ∀ s t : State, s.Inv → Sys2Proof.Machine.step s = .next t → t.Inv

/-- The invariant holds right after reset. -/
def Obligations.ResetInv : Prop := State.reset.Inv

/-- R424, R426: fuses are only ever blown: no step lowers a component's rollback count, or the count of one-time keys used. R430: no step loses
a permanent stud-book record (R324, R326): neither the records that screening and repair leave for good, nor those that a rewrite of a full book
finds. -/
def Obligations.PermanentFactsStand : Prop :=
  ∀ s t : State, Sys2Proof.Machine.step s = .next t →
    s.fuses.lms ≤ t.fuses.lms ∧ (∀ c, mget natZero s.fuses.rollback c ≤ mget natZero t.fuses.rollback c) ∧
      ∀ x ∈ s.stud, x.permanent = true → x ∈ t.stud

/-- R72 to R84: for every stride-program operation whose fields fit their places, the word that encodes it reads back as it. -/
def Obligations.StrideWordRoundTrip : Prop :=
  ∀ o : SOp, o.wf = true → SOp.decode o.encode = some o

/-- R72 to R84: a word that reads as an operation is that operation's own word: no bit of it is dropped. -/
def Obligations.StrideWordIsOperationsOwn : Prop :=
  ∀ (w : Word) (o : SOp), SOp.decode w = some o → o.wf = true ∧ o.encode = w

/-- R123: for every device-specific groom instruction whose fields fit their places, its word reads back as it; and a word that reads as
one is its own. -/
def Obligations.GroomSpecialRoundTrip : Prop :=
  (∀ i : GrmSpecial, i.wf = true → GrmSpecial.decode i.encode = some i) ∧
    ∀ (w : BitVec 32) (i : GrmSpecial), GrmSpecial.decode w = some i → i.wf = true ∧ i.encode = w

/-- R74, R78, R82: NOP holds the sequencer for n + 1 waves; ANCHOR gives every column its anchor, from the word or from two lines of
16-bit values; TALLY adds the CRC-64 of its lines to the block tally. Nothing else of the block changes.
Its conclusion is that `exec` answers a next state, under conditions on state and operands alone, for nop, anchor and strideTally. -/
def Obligations.StrideNopAnchorTally : Prop :=
  ∀ (p : PBlk) (s : State),
    (∀ n, (s.block p).Starts (.nop n) →
      ∃ t σ, exec (.nop p .none) s = .next t ∧ σ.next = (s.block p).eng.sched.next + (n + 1) ∧
        s.BlockBecomes p [BLK_DRG_STATUS.off] ((s.block p).started s.now (s.block p).eng σ) t) ∧
    (∀ v, (∃ bank line, (s.block p).Starts (.anchor false bank line v)) →
      ∃ t σ m, exec (.anchor p .none) s = .next t ∧
        (∀ n < 64, (t.block p).eng.anchor n = BitVec.ofNat 16 v) ∧
        s.BlockBecomes p [BLK_DRG_STATUS.off] ((s.block p).started s.now { (s.block p).eng with anchors := m } σ) t) ∧
    (∀ bank line v, (s.block p).Starts (.anchor true bank line v) → line + 2 ≤ 1024 → (s.block p).gather = [] →
      ∃ t σ m, exec (.anchor p .none) s = .next t ∧
        (∀ n < 64, (t.block p).eng.anchor n =
          BitVec.ofNat 16 (leAt ((bankLines bank line 2).flatMap fun a => (s.block p).spad.bytes a 64) (2 * n) 2)) ∧
        s.BlockBecomes p [BLK_DRG_STATUS.off] ((s.block p).started s.now { (s.block p).eng with anchors := m } σ) t) ∧
    (∀ bank line lines, (s.block p).Starts (.tally bank line lines) → 0 < lines → line + lines ≤ 1024 →
      (s.block p).gather = [] →
      ∃ t σ, exec (.strideTally p .none) s = .next t ∧
        s.BlockBecomes p [BLK_DRG_STATUS.off]
          { (s.block p).started s.now (s.block p).eng σ with
            tally := (s.block p).tally + tallyTerm 1 (s.block p).eng.next 0 0
              ((bankLines bank line lines).flatMap fun a => (s.block p).spad.bytes a 64) } t)

/-- R77, R79, R84: DRAIN and CONVERT write their rows over the lines of the mask and empty the slots (DRAIN unless `keep` is set);
SPLICE copies from the side that its predicate chooses. Each written line holds what the rule says, every other byte of the scratchpad
is as it was, and nothing else of the block changes.
Its conclusion is that `exec` answers a next state, under conditions on state and operands alone, for drain, convert and splice. -/
def Obligations.StrideScratchWrites : Prop :=
  ∀ (p : PBlk) (s : State), (s.block p).gather = [] →
    (∀ slot rows mask line keep, (s.block p).Starts (.drain slot rows mask line keep) → slotsOk slot rows = true →
      spreadOk mask line (24 * rows) = true →
      ∃ t σ m sl, exec (.drain p .none) s = .next t ∧
        (∀ j < 24 * rows, m.bytes (maskLine mask line j) 64 = sliceZ ((s.block p).eng.rawRows slot rows) (64 * j) 64) ∧
        (∀ x, (∀ j < 24 * rows, x < maskLine mask line j ∨ maskLine mask line j + 64 ≤ x) → m.byte x = (s.block p).spad.byte x) ∧
        (∀ i n, n < 64 → mget apZero sl (64 * i + n) =
          if keep = false ∧ slot ≤ i ∧ i < slot + rows then Ap.zero else (s.block p).eng.slot i n) ∧
        s.BlockBecomes p [BLK_DRG_STATUS.off]
          { (s.block p).started s.now { (s.block p).eng with slots := sl } σ with spad := m } t) ∧
    (∀ f sr clip scale bias slot rows pbank pline mask line,
      (s.block p).Starts (.convert f sr clip scale bias slot rows pbank pline mask line) → slotsOk slot rows = true →
      spreadOk mask line (rows * f.rowLines + (if f.isMx then ceilDiv rows 32 else 0)) = true →
      ((clip || scale || bias) = true → pline + 9 ≤ 1024) →
      let params := if clip || scale || bias then (bankLines pbank pline 9).flatMap fun a => (s.block p).spad.bytes a 64 else []
      let row := fun i => pipelineRow f clip (colParam clip scale bias params)
        (fun n => roundMode sr (mget chipReset s.regs (CAD_SEED.off 0)) (s.block p).stride (s.block p).lblock 0
          (4096 * (s.block p).eng.next + 64 * (slot + i) + n)) ((s.block p).eng.slotRow (slot + i))
      let bytes := ((List.range rows).flatMap fun i => (row i).1) ++ (List.range rows).flatMap fun i => (row i).2
      ∃ t σ m sl, exec (.convert p .none) s = .next t ∧
        (∀ j < rows * f.rowLines + (if f.isMx then ceilDiv rows 32 else 0),
          m.bytes (maskLine mask line j) 64 = sliceZ bytes (64 * j) 64) ∧
        (∀ x, (∀ j < rows * f.rowLines + (if f.isMx then ceilDiv rows 32 else 0),
          x < maskLine mask line j ∨ maskLine mask line j + 64 ≤ x) → m.byte x = (s.block p).spad.byte x) ∧
        (∀ i n, n < 64 → mget apZero sl (64 * i + n) =
          if slot ≤ i ∧ i < slot + rows then Ap.zero else (s.block p).eng.slot i n) ∧
        s.BlockBecomes p [BLK_DRG_STATUS.off]
          { (s.block p).started s.now { (s.block p).eng with slots := sl } σ with spad := m } t) ∧
    (∀ pred dbank dline abank aline bbank bline lines,
      (s.block p).Starts (.splice pred dbank dline abank aline bbank bline lines) →
      dline + zeroMeans lines 1024 ≤ 1024 → aline + zeroMeans lines 1024 ≤ 1024 → bline + zeroMeans lines 1024 ≤ 1024 →
      ∃ t σ m, exec (.splice p .none) s = .next t ∧
        (∀ j < zeroMeans lines 1024, m.bytes (spadAddr dbank (dline + j)) 64 =
          (s.block p).spad.bytes (if (s.block p).eng.preds.getLsbD pred then spadAddr abank (aline + j)
            else spadAddr bbank (bline + j)) 64) ∧
        (∀ x, (∀ j < zeroMeans lines 1024, x < spadAddr dbank (dline + j) ∨ spadAddr dbank (dline + j) + 64 ≤ x) →
          m.byte x = (s.block p).spad.byte x) ∧
        s.BlockBecomes p [BLK_DRG_STATUS.off]
          { (s.block p).started s.now (s.block p).eng σ with spad := m } t)

/-- R75, R76, R60: LOADW waits for an empty shadow tile and fills it with the lines of its mask and its metadata lines. A weight-stationary
STREAM takes the shadow tile first where `swap` is set; row r replaces slot row slot + r where `clear` is set and adds to it otherwise, in
column n the sum of the row's products with column n of the tile at the column's anchor; every other slot, the anchors, the predicates and
the scratchpad stay.
Its conclusion is that `exec` answers a next state, under conditions on state and operands alone, for loadw and stream. -/
def Obligations.StrideLoadwStream : Prop :=
  ∀ (p : PBlk) (s : State), (s.block p).gather = [] →
    (∀ f tr sparse mask line mb ml, (s.block p).Starts (.loadw f tr sparse mask line mb ml) →
      (s.block p).eng.shadow = none → (sparse = true → sparseOk f = true) → spreadOk mask line (tileLines f) = true →
      ml + (scaleLines f sparse + indexLines f sparse) ≤ 1024 →
      ∃ t σ, exec (.loadw p .none) s = .next t ∧
        s.BlockBecomes p [BLK_DRG_STATUS.off]
          ((s.block p).started s.now { (s.block p).eng with
            shadow := some ⟨f, sparse, tr, (spreadLines mask line (tileLines f)).flatMap fun a => (s.block p).spad.bytes a 64,
              (bankLines mb ml (scaleLines f sparse + indexLines f sparse)).flatMap fun a => (s.block p).spad.bytes a 64⟩ } σ) t) ∧
    (∀ a swap clear bank line count slot sbank sline wf tile,
      (s.block p).Starts (.stream a swap clear false bank line count slot sbank sline wf) →
      (if swap then (s.block p).eng.shadow else (s.block p).eng.active) = some tile → pairOk tile.fmt a = true →
      0 < count → slot + count ≤ 64 → line + (if tile.fmt = .bf16 ∨ tile.fmt = .f16 then 2 * count else count) ≤ 1024 →
      (tile.sparse = true → bank % 2 = 0) → (tile.fmt = .bf16 ∨ tile.fmt = .f16 → line % 2 = 0) →
      let scaleBytes := if a.isMx then coveredK tile.fmt tile.sparse / 32 else 0
      sline + ceilDiv (count * scaleBytes) 64 ≤ 1024 →
      let scales := (bankLines sbank sline (ceilDiv (count * scaleBytes) 64)).flatMap fun x => (s.block p).spad.bytes x 64
      let row := fun r => actRow a ((actLines tile bank line r).flatMap fun x => (s.block p).spad.bytes x 64)
        (sliceZ scales (r * (coveredK tile.fmt tile.sparse / 32)) (coveredK tile.fmt tile.sparse / 32))
      let sum := fun r n => (columnSum ((s.block p).eng.anchor n) (tile.column n) (row r)).1
      ∃ t σ sl, exec (.stream p .none) s = .next t ∧
        (∀ i n, n < 64 → mget apZero sl (64 * i + n) =
          if slot ≤ i ∧ i < slot + count then
            (if clear then sum (i - slot) n else ((s.block p).eng.slot i n).add (sum (i - slot) n))
          else (s.block p).eng.slot i n) ∧
        s.BlockBecomes p [BLK_DRG_STATUS.off, BLK_DRG_WAVES.off, BLK_DRG_TALL.off]
          ((s.block p).started s.now { (s.block p).eng with
            slots := sl, active := some tile, shadow := if swap then none else (s.block p).eng.shadow } σ) t)

/-- R80, R81, R83, R70: SEND hands one data packet with its lines and its formed tag to the local port, a token where an arc of the
stride program names the destination and queue (one credit of it is spent) and a message otherwise. COMBINE hands over one reduce packet
for each row, in order, row i with the formed tag of row index i, and empties the slots it sent unless `keep` is set. WAITTAG of a control
queue runs once the token is complete: the entry is gone, and with `setp` the predicate is bit 0 of the token's first byte; until then
the block waits.
Its conclusion is that `exec` answers a next state, under conditions on state and operands alone, for strideSend, combine and waittag. -/
def Obligations.StrideSendCombineWaittag : Prop :=
  ∀ (p : PBlk) (s : State), (s.block p).gather = [] →
    (∀ vc mcast dest queue lines bank line tag, (s.block p).Starts (.send vc mcast dest queue lines bank line tag) →
      line + zeroMeans lines 32 ≤ 1024 → (if mcast then dest < 64 else dest < 1200) →
      let arc := (s.block p).outArc 0x8000 mcast dest queue
      let pkt : Pkt := {
        kind := if arc.isSome then kTOKEN else kMESSAGE, vc := vc, mcast := mcast, isData := true,
        tag := formTag (s.block p).stride tag, qid := queue, length := zeroMeans lines 32 - 1,
        payload := (bankLines bank line (zeroMeans lines 32)).flatMap fun a => (s.block p).spad.bytes a 64 }
      ∃ t σ, exec (.strideSend p .none) s = .next t ∧
        s.BlockBecomes p [BLK_DRG_STATUS.off]
          { (s.block p).started s.now (s.block p).eng σ with
            mesh := { (s.block p).mesh with sendq := (s.block p).mesh.sendq ++ [{ pkt := pkt, idx := dest, origin := .engine }] },
            spent := (match arc with
              | some i => if (s.block p).arcFree i then (s.block p).spent
                  else mset natZero (s.block p).spent i ((mget natZero (s.block p).spent i + 1) % 65536)
              | none => (s.block p).spent) } t) ∧
    (∀ src dest cq slot rows bank line tag keep, (s.block p).Starts (.combine src dest cq slot rows bank line tag keep) →
      dest < 1200 → 0 < rows → rows ≤ 64 → (if src then line + 24 * rows ≤ 1024 else slot + rows ≤ 64) →
      let raw := if src then (bankLines bank line (24 * rows)).flatMap fun a => (s.block p).spad.bytes a 64
        else (s.block p).eng.rawRows slot rows
      let held : List Held := (List.range rows).map fun i =>
        { pkt := reducePkt (s.block p).stride cq tag i (sliceZ raw (1536 * i) 1536), idx := dest, origin := .engine }
      ∃ t σ sl, exec (.combine p .none) s = .next t ∧
        (∀ i n, n < 64 → mget apZero sl (64 * i + n) =
          if src = false ∧ keep = false ∧ slot ≤ i ∧ i < slot + rows then Ap.zero else (s.block p).eng.slot i n) ∧
        s.BlockBecomes p [BLK_DRG_STATUS.off]
          { (s.block p).started s.now { (s.block p).eng with slots := sl } σ with
            mesh := { (s.block p).mesh with sendq := (s.block p).mesh.sendq ++ held } } t) ∧
    (∀ q field setp pred, (s.block p).Starts (.waittag q field setp pred) → q < 240 → (s.block p).qKind q = 1 →
      ((s.block p).node? ((s.block p).qNode q)).map NodeRec.kind = some 4 →
      (((s.block p).complete ((s.block p).qNode q) (formTag (s.block p).stride field) = false →
        ∃ t, exec (.waittag p .none) s = .next t ∧ s.BlockBecomes p [BLK_DRG_STATUS.off] (s.block p) t ∧
          (t.block p).get BLK_DRG_STATUS.state = 2) ∧
      ∀ x, (s.block p).complete ((s.block p).qNode q) (formTag (s.block p).stride field) = true →
        (s.block p).inputEntry ((s.block p).qNode q) 0 (formTag (s.block p).stride field) = some x → x.isData = false →
        ∃ t, exec (.waittag p .none) s = .next t ∧ (t.block p).eng.next = (s.block p).eng.next + 1 ∧
          (t.block p).eng.slots = (s.block p).eng.slots ∧ (t.block p).spad = (s.block p).spad ∧
          (∀ i < 4, (t.block p).eng.preds.getLsbD i =
            if setp = true ∧ i = pred then decide (leAt x.bytes 0 1 % 2 = 1) else (s.block p).eng.preds.getLsbD i) ∧
          s.OnlyBlock p t ∧ ∀ y ∈ (t.block p).queue, ¬ (y.q = x.q ∧ y.e = x.e)))

/-- R87, R88: for every stride-program operation, a word that encodes none stops the sequencer with code 0x06; so does an error that the
hardware finds while a NOP runs, with its own code. The block fences itself, BLK_DRG_FAULT names the code and the word, and slots,
anchors and predicates stay. A corrected error counts in BLK_DRG_ECC and the operation runs. -/
def Obligations.StrideStopsFenceTheBlock : Prop :=
  ∀ (p : PBlk) (s : State), (s.block p).working = true → (s.block p).fenced = false → (s.block p).get BLK_DRG_STATUS.state ≠ 5 →
    (∀ w c, (s.block p).program[(s.block p).eng.next]? = some w → SOp.decode w = none →
      c ∈ ([.nop p .none, .loadw p .none, .stream p .none, .drain p .none, .anchor p .none, .convert p .none, .strideSend p .none,
        .combine p .none, .strideTally p .none, .waittag p .none, .splice p .none] : List Instr) →
      ∃ t, exec c s = .next t ∧ s.OnlyBlock p t ∧ (t.block p).fenced = true ∧ (t.block p).fenceCode = 0x06 ∧
        (t.block p).get BLK_DRG_STATUS.state = 5 ∧ (t.block p).get BLK_DRG_FAULT.code = 0x06 ∧
        (t.block p).get BLK_DRG_FAULT.word = (s.block p).eng.next % 4096 ∧ (t.block p).eng = (s.block p).eng ∧
        (t.block p).spad = (s.block p).spad) ∧
    (∀ w n code col done, (s.block p).program[(s.block p).eng.next]? = some w → SOp.decode w = some (.nop n) → code < 256 →
      ∃ t, exec (.nop p (.stop code col done)) s = .next t ∧ s.OnlyBlock p t ∧ (t.block p).fenced = true ∧
        (t.block p).fenceCode = code ∧ (t.block p).get BLK_DRG_STATUS.state = 5 ∧ (t.block p).get BLK_DRG_FAULT.code = code ∧
        (t.block p).get BLK_DRG_FAULT.lasting = 1 ∧ (t.block p).eng = (s.block p).eng ∧ (t.block p).spad = (s.block p).spad) ∧
    (∀ w n col, (s.block p).program[(s.block p).eng.next]? = some w → SOp.decode w = some (.nop n) →
      ∃ t, exec (.nop p (.ecc col)) s = .next t ∧ s.OnlyBlock p t ∧ (t.block p).fenced = false ∧
        (t.block p).eng.next = (s.block p).eng.next + 1 ∧
        (t.block p).get BLK_DRG_ECC.count = min BLK_DRG_ECC.count.top ((s.block p).get BLK_DRG_ECC.count + 1) ∧
        (t.block p).get BLK_DRG_FAULT.lasting = 0)

/-- R120, R123, R126, R127: HANDLE READ, HANDLE REF, POLL, BALKCHK query and RAND put their value into register a and nothing else; YIELD
without the end bit writes no register. g0 stays zero, the thread goes on with its next instruction, and nothing else of the block
changes.
Its conclusion is that `exec` answers a next state, under conditions on state and operands alone, for rand, poll, handleRead, handleRef, balkchkQuery
and yieldTurn. -/
def Obligations.GroomResultRegister : Prop :=
  ∀ (p : PBlk) (t : Thr) (s : State), (s.block p).canIssue t = true →
    let b := s.block p
    let th := b.thread t
    (∀ a rb : GReg, ∃ u, exec (.handleRead p t a rb) s = .next u ∧
      s.BlockBecomes p (b.groomRegs t) (b.retiredAs t (th.wr a (b.word (HDL_CTL.off (bitsOf (th.rd rb) 5 0))))) u) ∧
    (∀ a rb : GReg, ∃ u, exec (.handleRef p t a rb) s = .next u ∧
      s.BlockBecomes p (b.groomRegs t) (b.retiredAs t (th.wr a (BitVec.ofNat 64
        (bitsOf (th.rd rb) 5 0 + 256 * b.get (HDL_CTL.gen (bitsOf (th.rd rb) 5 0)))))) u) ∧
    (∀ (a rb : GReg) (imm : BitVec 7), ∃ u, exec (.poll p t a rb imm) s = .next u ∧
      let q := bitsOf (th.rd rb) 7 0
      let waiting := b.queue.filter fun x => x.q == q && (!(imm.getLsbD 0) || x.tag == bitsOf (th.rd rb) 31 8)
      let n := if q < 240 ∧ b.qKind q = 2 ∧ b.get (BLK_Q_CFG.closed q) = 0 then waiting.length else 0
      s.BlockBecomes p (b.groomRegs t) (b.retiredAs t (th.wr a (BitVec.ofNat 64 n))) u) ∧
    (∀ a rb : GReg, ∃ u, exec (.balkchkQuery p t a rb) s = .next u ∧
      let slot := th.slot (bitsOf (th.rd rb) 1 0)
      s.BlockBecomes p (b.groomRegs t)
        (b.retiredAs t (th.wr a (BitVec.ofNat 64 (slot.status + (if slot.st = 0 then 0 else 256))))) u) ∧
    (∀ (rd ra : GReg) (seed3 : Bool), ∃ u, exec (.rand p t rd ra seed3) s = .next u ∧
      s.BlockBecomes p (b.groomRegs t) (b.retiredAs t (th.wr rd (randWord
        (mget chipReset s.regs (CAD_SEED.off (if seed3 then 3 else 2))) th.stride b.lblock (0x400 + th.task)
        ((th.rd ra).toNat % 2 ^ 40)))) u) ∧
    ∃ u, exec (.yieldTurn p t) s = .next u ∧ s.BlockBecomes p (b.groomRegs t) (b.retiredAs t th) u

/-- R126, R227, R230, R231: OPEN sets the window bit of a handle with mg and wr that lies on the device and is not closing; CLOSE of an
open window sets closing and moves the generation on; REBIND and BUMP of a handle that is not exposed move the generation on modulo 256,
and REBIND sets HDL_BASE. Each returns 0, and HANDLE_DENIED (6) without mg. No other bit of the entry and nothing else of the block
changes.
Its conclusion is that `exec` answers a next state, under conditions on state and operands alone, for handleOpen, handleClose, handleRebind and
handleBump. -/
def Obligations.GroomHandleOperations : Prop :=
  ∀ (p : PBlk) (t : Thr) (a rb rc : GReg) (s : State), (s.block p).canIssue t = true →
    let b := s.block p
    let th := b.thread t
    let h := bitsOf (th.rd rb) 5 0
    let ctl := b.word (HDL_CTL.off h)
    let next := putBits ctl 7 0 (b.get (HDL_CTL.gen h) + 1)
    (b.get (HDL_CTL.mg h) = 0 → ∀ c ∈ ([.handleOpen p t a rb, .handleClose p t a rb, .handleRebind p t a rb rc,
        .handleBump p t a rb] : List Instr),
      ∃ u, exec c s = .next u ∧ s.BlockBecomes p (b.groomRegs t) (b.retiredAs t (th.wr a 6)) u) ∧
    (b.get (HDL_CTL.mg h) = 1 → b.get (HDL_CTL.wr h) = 1 → b.get (HDL_CTL.tier h) ≠ 3 → b.get (HDL_CTL.closing h) = 0 →
      ∃ u, exec (.handleOpen p t a rb) s = .next u ∧ (u.block p).word (HDL_CTL.off h) = putBits ctl 59 59 1 ∧
        s.BlockBecomes p (HDL_CTL.off h :: b.groomRegs t) (b.retiredAs t (th.wr a 0)) u) ∧
    (b.get (HDL_CTL.mg h) = 1 → b.get (HDL_CTL.window h) = 1 → b.get (HDL_CTL.closing h) = 0 →
      ∃ u, exec (.handleClose p t a rb) s = .next u ∧ (u.block p).word (HDL_CTL.off h) = putBits next 58 58 1 ∧
        s.BlockBecomes p (HDL_CTL.off h :: b.groomRegs t) { b.retiredAs t (th.wr a 0) with closeAt := mset natZero b.closeAt h s.now } u) ∧
    (b.get (HDL_CTL.mg h) = 1 → b.exposed h = false →
      (∃ u, exec (.handleRebind p t a rb rc) s = .next u ∧ (u.block p).word (HDL_CTL.off h) = next ∧
        (u.block p).get (HDL_BASE.addr h) = (th.rd rc).toNat % 2 ^ 48 ∧
        s.BlockBecomes p (HDL_CTL.off h :: HDL_BASE.off h :: b.groomRegs t) (b.retiredAs t (th.wr a 0)) u) ∧
      ∃ u, exec (.handleBump p t a rb) s = .next u ∧ (u.block p).word (HDL_CTL.off h) = next ∧
        s.BlockBecomes p (HDL_CTL.off h :: b.groomRegs t) (b.retiredAs t (th.wr a 0)) u)

/-- R122, R128 to R132: a naturally aligned load puts the bytes that the groom sees, gathered bytes before the bank's, into its register,
sign-extended where asked; a naturally aligned store enters the gatherer, the bank is untouched, and a groom then sees the stored bytes
there and every other byte as before. A misaligned access, or one at or above 0x8_0000, is program fault 0x22.
Its conclusion is that `exec` answers a next state, under conditions on state and operands alone, for groomLoad and groomStore. -/
def Obligations.GroomLoadStore : Prop :=
  ∀ (p : PBlk) (t : Thr) (size : GSize) (s : State), (s.block p).canIssue t = true →
    let b := s.block p
    let th := b.thread t
    (∀ (sgn : Bool) (rd ra : GReg) (off : Word), (th.rd ra + off).toNat % size.bytes = 0 → (th.rd ra + off).toNat < 0x80000 →
      let v := leNat ((List.range size.bytes).map fun i => b.groomByte ((th.rd ra + off).toNat + i))
      ∃ u, exec (.groomLoad p t size sgn rd ra off .none) s = .next u ∧
        s.BlockBecomes p (b.groomRegs t) (b.retiredAs t (if size = .b16 then th.wrV rd (BitVec.ofNat 128 v)
          else th.wr rd (if sgn then BitVec.ofInt 64 (signed (8 * size.bytes) v) else BitVec.ofNat 64 v))) u) ∧
    (∀ (rs ra : GReg) (off : Word), (th.rd ra + off).toNat % size.bytes = 0 → (th.rd ra + off).toNat < 0x80000 →
      (∀ e ∈ b.gather, spadAddr e.bank e.line ≠ (th.rd ra + off).toNat / 64 * 64) →
      (b.gather.filter fun e => e.bank == (th.rd ra + off).toNat / 65536).length < 16 →
      ∃ u g, exec (.groomStore p t size rs ra off .none) s = .next u ∧
        s.BlockBecomes p (b.groomRegs t) { b.retiredAs t th with gather := g } u ∧
        ∀ x, (u.block p).groomByte x =
          if (th.rd ra + off).toNat ≤ x ∧ x < (th.rd ra + off).toNat + size.bytes
          then (th.stored size rs).getD (x - (th.rd ra + off).toNat) 0 else b.groomByte x) ∧
    (∀ (sgn : Bool) (r ra : GReg) (off : Word),
      (th.rd ra + off).toNat % size.bytes ≠ 0 ∨ 0x80000 ≤ (th.rd ra + off).toNat →
      ∀ c ∈ ([.groomLoad p t size sgn r ra off .none, .groomStore p t size r ra off .none] : List Instr),
        ∃ u, exec c s = .next u ∧ (u.block p).get (BLK_GRM_STATE.fault t) = 0x22 ∧
          s.BlockBecomes p (b.faultRegs t) (b.faultedAs t 0x22) u)

/-- R137, R128: an access through a reference to an entry that is not valid, or whose generation differs, or without the permission, or
out of range, is program fault 0x23, and one that is not naturally aligned 0x22. R136, R145: a load through a scratch handle gives the bytes
that the groom sees at the handle's places, a store there enters the gatherer; through any other tier a load sends a MEM_READ for each line
that it takes bytes of and the thread waits for the answers, a store sends byte-masked MEM_WRITEs and the thread goes on. A remote tier goes
to the endpoint of a fabric port (R242).
Its conclusion is that `exec` answers a next state, under conditions on state and operands alone, for handleAccess. -/
def Obligations.GroomHandleAccess : Prop :=
  ∀ (p : PBlk) (t : Thr) (size : GSize) (r ref ra : GReg) (off : Word) (s : State), (s.block p).canIssue t = true →
    let b := s.block p
    let th := b.thread t
    let rf := (th.rd ref).toNat
    let h := nbits rf 5 0
    let o := (th.rd ra + off).toNat
    let n := size.bytes
    let tier := b.get (HDL_CTL.tier h)
    let denied := fun write : Bool => b.get (HDL_CTL.valid h) = 0 ∨ b.get (HDL_CTL.gen h) ≠ nbits rf 15 8 ∨
      (if write then b.get (HDL_CTL.wr h) else b.get (HDL_CTL.rd h)) = 0 ∨ b.get (HDL_LEN.length h) < o + n
    let q := b.hdlMap h o
    let a := b.get (HDL_BASE.addr h) + q
    let cut := 64 - a % 64
    let pieces : List (Nat × Nat) := if n ≤ cut then [(0, n)] else [(0, cut), (cut, n - cut)]
    let id := fun i => (b.nextReq + i) % 2 ^ 24
    let ids := (List.range pieces.length).map id
    let line := fun (k : Pkt) (pos i : Nat) =>
      let x := (a + pos) / 64 * 64
      ({ pkt := { k with tag := id i, addr := x, parts := if tier = 3 then b.get (HDL_CTL.node h) else k.parts }
         idx := if tier = 3 then 1376 + s.remotePort.getD 0 else memEndpoint tier (p.val % 40) x
         owner := .mem (id i) } : Held)
    let bytes := th.stored size r
    let masked := fun (x : Nat × Nat) => maskedPkt (List.replicate ((a + x.1) % 64) 0 ++ sliceZ bytes x.1 x.2)
      ((2 ^ x.2 - 1) * 2 ^ ((a + x.1) % 64))
    (∀ write : Bool, denied write →
      ∃ u, exec (.handleAccess p t write size r ref ra off) s = .next u ∧ (u.block p).get (BLK_GRM_STATE.fault t) = 0x23 ∧
        s.BlockBecomes p (b.faultRegs t) (b.faultedAs t 0x23) u) ∧
    (∀ write : Bool, ¬ denied write → o % n ≠ 0 →
      ∃ u, exec (.handleAccess p t write size r ref ra off) s = .next u ∧ (u.block p).get (BLK_GRM_STATE.fault t) = 0x22 ∧
        s.BlockBecomes p (b.faultRegs t) (b.faultedAs t 0x22) u) ∧
    (¬ denied false → o % n = 0 → tier = 0 →
      ∃ u, exec (.handleAccess p t false size r ref ra off) s = .next u ∧
        s.BlockBecomes p (b.groomRegs t)
          (b.retiredAs t (th.load size false r ((List.range n).map fun i => b.groomByte (b.hdlScratch h (q + i))))) u) ∧
    (¬ denied true → o % n = 0 → tier = 0 → q % 64 + n ≤ 64 →
      (∀ e ∈ b.gather, spadAddr e.bank e.line ≠ b.hdlScratch h q / 64 * 64) →
      (b.gather.filter fun e => e.bank == b.hdlScratch h q / 65536).length < 16 →
      ∃ u g, exec (.handleAccess p t true size r ref ra off) s = .next u ∧
        s.BlockBecomes p (b.groomRegs t) { b.retiredAs t th with gather := g } u ∧
        ∀ x, (u.block p).groomByte x =
          if b.hdlScratch h q ≤ x ∧ x < b.hdlScratch h q + n then bytes.getD (x - b.hdlScratch h q) 0 else b.groomByte x) ∧
    (¬ denied false → o % n = 0 → tier ≠ 0 →
      ∃ u, exec (.handleAccess p t false size r ref ra off) s = .next u ∧
        s.BlockBecomes p (BLK_GRM_STATE.off t :: b.waitRegs t)
          { b.turned t with
            threads := mset threadIdle b.threads t { th with state := 3, wait := .handle ids r size (List.replicate n 0) },
            nextReq := b.nextReq + pieces.length,
            reqs := b.reqs ++ (pieces.zipIdx.map fun (x, i) => ⟨id i, .load t x.1 ((a + x.1) % 64) x.2⟩),
            mesh := { b.mesh with sendq := b.mesh.sendq ++ pieces.zipIdx.map fun (x, i) => line readPkt x.1 i } } u) ∧
    (¬ denied true → o % n = 0 → tier ≠ 0 →
      ∃ u, exec (.handleAccess p t true size r ref ra off) s = .next u ∧
        s.BlockBecomes p (b.groomRegs t)
          { b.retiredAs t { th with stores := th.stores ++ ids } with
            nextReq := b.nextReq + pieces.length,
            reqs := b.reqs ++ (pieces.zipIdx.map fun (_, i) => ⟨id i, .store t⟩),
            mesh := { b.mesh with sendq := b.mesh.sendq ++ pieces.zipIdx.map fun (x, i) => line (masked x) x.1 i } } u)

/-- R224: retry on a slot that holds a balked message starts the offer cycle anew, with the time of now as its start, no offer counted
and the message offered again, and the thread waits for that slot's answer as after a SEND; discard frees the slot and returns OK. On a
slot that holds no balked message both return EMPTY (8) and nothing else changes.
Its conclusion is that `exec` answers a next state, under conditions on state and operands alone, for balkchkRetry and balkchkDiscard. -/
def Obligations.BalkchkRetryDiscard : Prop :=
  ∀ (p : PBlk) (t : Thr) (a rb : GReg) (s : State), (s.block p).canIssue t = true → (s.block p).gather = [] →
    let b := s.block p
    let th := b.thread t
    let i := bitsOf (th.rd rb) 1 0
    ((th.slot i).st ≠ 3 → ∀ c ∈ ([.balkchkRetry p t a rb, .balkchkDiscard p t a rb] : List Instr),
      ∃ u, exec c s = .next u ∧ s.BlockBecomes p (b.groomRegs t) (b.retiredAs t (th.wr a 8)) u) ∧
    ((th.slot i).st = 3 →
      (∃ u, exec (.balkchkRetry p t a rb) s = .next u ∧ ((u.block p).thread t).wait = .send i ∧
        ((u.block p).thread t).slot i =
          ({ th.slot i with
             st := 1, offers := 0, refused := 0, start := s.now, rd := a, mutualBalk := false,
             patience := 1000 * b.get (BLK_GRM_PATIENCE.limit t) } : OutSlot) ∧
        (∀ j, j ≠ i → ((u.block p).thread t).slot j = th.slot j) ∧
        (∃ h, (u.block p).mesh = { b.mesh with sendq := b.mesh.sendq ++ [h] } ∧ h.owner = .outbox t i ∧
          h.idx = (SendDest.ofWord (th.slot i).dst).dest ∧ h.pkt.qid = (SendDest.ofWord (th.slot i).dst).queue ∧
          h.pkt.tag = (SendDest.ofWord (th.slot i).dst).tag) ∧
        (u.block p).spad = b.spad ∧ (u.block p).queue = b.queue ∧ s.OnlyBlock p u) ∧
      (∃ u, exec (.balkchkDiscard p t a rb) s = .next u ∧
        s.BlockBecomes p (b.groomRegs t) (b.retiredAs t ((th.setSlot i {}).wr a 0)) u))

/-- R125, R212: a SEND with no free slot returns OUTBOX_FULL (9), and one whose source is misaligned MISALIGNED (10), and nothing is sent.
R211, R213, R214: a checked SEND takes the lowest free slot and waits for it: where an arc of the task names its pair, it spends the arc's
credit and hands over one TOKEN, or waits for the credit with nothing sent; else it hands one MESSAGE, or one WINDOW_WRITE, with the tag,
queue and incarnation of its destination word to the local port. R125, R218, R220: a RECV takes the oldest message that
matches, copies its lines to the destination and frees the entry; with none it waits, or returns EMPTY (8) under no wait; of a closed
queue it returns QUEUE_CLOSED (3). R222: a re-offer that is due offers the slot's message again and counts.
Its conclusion is that `exec` answers a next state, under conditions on state and operands alone, for groomSend, recv, credit and reoffer. -/
def Obligations.GroomMessages : Prop :=
  ∀ (p : PBlk) (t : Thr) (a rb rc : GReg) (imm : BitVec 7) (s : State), (s.block p).gather = [] →
    let b := s.block p
    let th := b.thread t
    let d := SendDest.ofWord (th.rd rb)
    let w := SendSrc.ofWord (th.rd rc)
    let mc := imm.getLsbD 1
    let win := imm.getLsbD 2
    let lines := (List.range w.lines).flatMap (fun j => b.spad.bytes ((w.src + 64 * j) % 0x80000) 64)
    let named := if mc then d.dest < 64 ∧ s.groupOk p d.dest = true else d.dest < 1200
    (b.canIssue t = true → (∀ i < 4, (th.slot i).st ≠ 0) →
      ∃ u, exec (.groomSend p t a rb rc imm) s = .next u ∧
        s.BlockBecomes p (b.groomRegs t) (b.retiredAs t (th.wr a 9)) u) ∧
    (∀ i < 4, b.canIssue t = true → (th.slot i).st = 0 → (w.src % 64 ≠ 0 ∨ (win = true ∧ w.woff % 64 ≠ 0)) →
      ∃ u, exec (.groomSend p t a rb rc imm) s = .next u ∧
        s.BlockBecomes p (b.groomRegs t) (b.retiredAs t (th.wr a 10)) u) ∧
    (∀ i < 4, b.canIssue t = true → (th.slot i).st = 0 → (∀ j < i, (th.slot j).st ≠ 0) → w.src % 64 = 0 → named →
      (win = true → mc = false ∧ w.woff % 64 = 0) → (win = false → b.taskArc th mc d = none) →
      ∃ u h, exec (.groomSend p t a rb rc imm) s = .next u ∧ (u.block p).mesh = { b.mesh with sendq := b.mesh.sendq ++ [h] } ∧
        h.owner = .outbox t i ∧ h.idx = d.dest ∧ h.pkt.kind = (if win then kWINDOW_WRITE else kMESSAGE) ∧ h.pkt.mcast = mc ∧
        h.pkt.tag = d.tag ∧ h.pkt.qid = d.queue ∧ h.pkt.incarn = d.incarn ∧
        h.pkt.vc = (if win then 0 else if imm.getLsbD 0 then 1 else 0) ∧ h.pkt.addr = (if win then w.woff else 0) ∧
        h.pkt.payload = lines ∧
        ((u.block p).thread t).wait = .send i ∧ ((u.block p).thread t).pc = th.pc ∧ (((u.block p).thread t).slot i).st = 1 ∧
        (((u.block p).thread t).slot i).patience = (if imm.getLsbD 3 then 0 else 1000 * b.get (BLK_GRM_PATIENCE.limit t)) ∧
        (u.block p).spad = b.spad ∧ (u.block p).queue = b.queue ∧ (u.block p).spent = b.spent ∧ s.OnlyBlock p u) ∧
    (∀ i < 4, ∀ arc, b.canIssue t = true → (th.slot i).st = 0 → (∀ j < i, (th.slot j).st ≠ 0) → w.src % 64 = 0 → named →
      win = false → b.taskArc th mc d = some arc →
      (b.mayEmit arc = true →
        ∃ u h, exec (.groomSend p t a rb rc imm) s = .next u ∧ (u.block p).mesh = { b.mesh with sendq := b.mesh.sendq ++ [h] } ∧
          h.owner = .outbox t i ∧ h.idx = d.dest ∧ h.pkt.kind = kTOKEN ∧ h.pkt.mcast = mc ∧ h.pkt.tag = d.tag ∧
          h.pkt.qid = d.queue ∧ h.pkt.payload = (if s.isCtlq d.dest d.queue then sliceZ lines 0 8 else lines) ∧
          (u.block p).spent = (if b.arcFree arc then b.spent
            else mset natZero b.spent arc ((mget natZero b.spent arc + 1) % 65536)) ∧
          ((u.block p).thread t).wait = .send i ∧ (((u.block p).thread t).slot i).st = 1 ∧
          (u.block p).spad = b.spad ∧ (u.block p).queue = b.queue ∧ s.OnlyBlock p u) ∧
      (b.mayEmit arc = false →
        ∃ u, exec (.groomSend p t a rb rc imm) s = .next u ∧ (u.block p).mesh = b.mesh ∧ (u.block p).spent = b.spent ∧
          (u.block p).thread t = { th with state := 2, wait := .credit arc } ∧ (waitThread t, arc) ∈ (u.block p).waits ∧
          (u.block p).get BLK_DF_CREDITWAIT.count = (if (waitThread t, arc) ∈ b.waits then b.get BLK_DF_CREDITWAIT.count
            else min BLK_DF_CREDITWAIT.count.top (b.get BLK_DF_CREDITWAIT.count + 1)) ∧
          (u.block p).spad = b.spad ∧ (u.block p).queue = b.queue ∧ s.OnlyBlock p u)) ∧
    (b.canIssue t = true → (th.rd rc).toNat % 64 = 0 → (th.rd rc).toNat < 0x80000 → b.mqOpen (bitsOf (th.rd rb) 7 0) = false →
      ∃ u, exec (.recv p t a rb rc imm) s = .next u ∧
        s.BlockBecomes p (b.groomRegs t) (b.retiredAs t (th.wr a 3)) u) ∧
    (b.canIssue t = true → (th.rd rc).toNat % 64 = 0 → (th.rd rc).toNat < 0x80000 → b.mqOpen (bitsOf (th.rd rb) 7 0) = true →
      b.messages (bitsOf (th.rd rb) 7 0) (bitsOf (th.rd rb) 31 8) (imm.getLsbD 0) = [] →
      ∃ u, exec (.recv p t a rb rc imm) s = .next u ∧
        if imm.getLsbD 1 then s.BlockBecomes p (b.groomRegs t) (b.retiredAs t (th.wr a 8)) u
        else s.BlockBecomes p (BLK_GRM_STATE.off t :: b.waitRegs t) { b.turned t with threads := mset threadIdle b.threads t { th with
          state := 2, wait := .recv (bitsOf (th.rd rb) 7 0) (bitsOf (th.rd rb) 31 8) (imm.getLsbD 0) (th.rd rc).toNat a } } u) ∧
    (∀ x xs, b.canIssue t = true → (th.rd rc).toNat % 64 = 0 → (th.rd rc).toNat < 0x80000 →
      b.mqOpen (bitsOf (th.rd rb) 7 0) = true →
      b.messages (bitsOf (th.rd rb) 7 0) (bitsOf (th.rd rb) 31 8) (imm.getLsbD 0) = x :: xs →
      ∃ u m, exec (.recv p t a rb rc imm) s = .next u ∧
        m = b.spad.putLines (lineWrites ((List.range x.lines).map fun i => ((th.rd rc).toNat + 64 * i) % 0x80000)
          ((b.entryAddrs x.q x.e x.lines).flatMap fun l => b.spad.bytes l 64)) ∧
        s.BlockBecomes p (b.groomRegs t) { b.retiredAs t (th.wr a (BitVec.ofNat 64
          ((x.lines - 1) * 2 ^ 8 + x.src % 2048 * 2 ^ 13 + x.tag % 2 ^ 24 * 2 ^ 24))) with
          spad := m, queue := b.queue.erase x } u) ∧
    ∀ slot : Fin 4, b.halted = false → (th.slot slot).st = 2 → (th.slot slot).due ≤ s.now →
      ∃ u h, exec (.reoffer p t slot) s = .next u ∧ (u.block p).mesh = { b.mesh with sendq := b.mesh.sendq ++ [h] } ∧
        h.owner = .outbox t slot ∧ h.idx = (SendDest.ofWord (th.slot slot).dst).dest ∧
        (((u.block p).thread t).slot slot).st = 1 ∧ (((u.block p).thread t).slot slot).offers = (th.slot slot).offers ∧
        (u.block p).get BLK_GRM_REOFFER.count = min BLK_GRM_REOFFER.count.top (b.get BLK_GRM_REOFFER.count + 1) ∧ s.OnlyBlock p u

/-- R127, R131: FENCEWAIT writes the thread's gathered bytes back where bit 0 is asked for, goes on once its conditions hold, and waits in
state 4 until then. YIELD with the end bit waits in the same way; then the thread is idle, with nothing of the task left, and the unit has
made progress. TALLY adds the CRC-64 of its lines to the block tally, or to the tally of the free nodes for a task that is not listed.
Its conclusion is that `exec` answers a next state, under conditions on state and operands alone, for groomTally, yieldEnd and fencewait. -/
def Obligations.GroomFenceEndTally : Prop :=
  ∀ (p : PBlk) (t : Thr) (s : State), (s.block p).canIssue t = true → (s.block p).gather = [] →
    let b := s.block p
    let th := b.thread t
    let waits := fun (imm n : Nat) => imm % 16 = 0 ∨ nbit imm n = true
    let unsent := ∃ h ∈ b.mesh.sendq, ∃ i, h.owner = .outbox t i
    (∀ imm : BitVec 7, ((waits imm.toNat 1 → th.stores = []) ∧ (waits imm.toNat 2 → ¬ unsent) ∧ (waits imm.toNat 3 → th.posted = []) →
        ∃ u, exec (.fencewait p t imm) s = .next u ∧ s.BlockBecomes p (b.groomRegs t) (b.retiredAs t th) u) ∧
      ((waits imm.toNat 1 ∧ th.stores ≠ []) ∨ (waits imm.toNat 2 ∧ unsent) ∨ (waits imm.toNat 3 ∧ th.posted ≠ []) →
        ∃ u, exec (.fencewait p t imm) s = .next u ∧ s.BlockBecomes p (BLK_GRM_STATE.off t :: b.waitRegs t)
          { b.turned t with threads := mset threadIdle b.threads t { th with state := 4, wait := .fence imm.toNat } } u)) ∧
    (th.stores = [] → ¬ unsent → th.posted = [] →
      ∃ u, exec (.yieldEnd p t) s = .next u ∧ (u.block p).thread t = {} ∧ (∀ j, j ≠ t.val → (u.block p).thread j = b.thread j) ∧
        (u.block p).progressAt = s.now ∧ (u.block p).spad = b.spad ∧ s.OnlyBlock p u ∧
        (th.held = [] → s.BlockBecomes p (b.groomRegs t)
          { b.turned t with threads := mset threadIdle b.threads t {}, progressAt := s.now } u)) ∧
    (th.stores ≠ [] ∨ unsent ∨ th.posted ≠ [] →
      ∃ u, exec (.yieldEnd p t) s = .next u ∧ s.BlockBecomes p (BLK_GRM_STATE.off t :: b.waitRegs t)
        { b.turned t with threads := mset threadIdle b.threads t { th with state := 4, wait := .ending } } u) ∧
    ∀ rb rc : GReg, (th.rd rb).toNat % 64 = 0 → (th.rd rb).toNat + 64 * (th.rd rc).toNat ≤ 0x80000 → (th.rd rb).toNat < 0x80000 →
      let term := tallyTerm 2 th.task th.tag th.tallies
        ((List.range (th.rd rc).toNat).flatMap fun i => b.spad.bytes ((th.rd rb).toNat + 64 * i) 64)
      ∃ u, exec (.groomTally p t rb rc) s = .next u ∧
        s.BlockBecomes p (b.groomRegs t) { b.retiredAs t { th with tallies := th.tallies + 1 } with
          tally := if th.listed then b.tally + term else b.tally,
          freeTally := if th.listed then b.freeTally else b.freeTally + term } u

/-- R122: an integer instruction puts its 64-bit result into rd, division and remainder by zero give all ones; a taken branch or a jump
sets the pc, and a jump and link its register too; a read of a block register puts it into rd, and a write of BLK_GRM_PATIENCE sets
the patience. R128: an unused opcode, or a write of a
register outside PKH_ and BLK_GRM_, is program fault 0x21; a double-bit error of the register file stops the groom with 0x25 and the
block fences itself.
Its conclusion is that `exec` answers a next state, under conditions on state and operands alone, for groomInstruction. -/
def Obligations.GroomInstruction : Prop :=
  ∀ (p : PBlk) (t : Thr) (s : State), (s.block p).canIssue t = true →
    let b := s.block p
    let th := b.thread t
    let runs := fun (op : GroomOp) (th' : Thread) => ∃ u, exec (.groomInstruction p t op .none) s = .next u ∧
      s.BlockBecomes p (b.groomRegs t) { b.turned t with threads := mset threadIdle b.threads t th' } u
    (∀ rd ra rb : GReg, let x := th.rd ra
      let y := th.rd rb
      runs (.int .add rd ra (.reg rb)) (th.wr rd (x + y)).step ∧ runs (.int .sub rd ra (.reg rb)) (th.wr rd (x - y)).step ∧
      runs (.int .mul rd ra (.reg rb)) (th.wr rd (x * y)).step ∧
      runs (.int .ltu rd ra (.reg rb)) (th.wr rd (if x.toNat < y.toNat then 1 else 0)).step ∧
      (y = 0 → runs (.int .div rd ra (.reg rb)) (th.wr rd (BitVec.allOnes 64)).step ∧
        runs (.int .rem rd ra (.reg rb)) (th.wr rd (BitVec.allOnes 64)).step) ∧
      (y ≠ 0 → runs (.int .divu rd ra (.reg rb)) (th.wr rd (BitVec.ofNat 64 (x.toNat / y.toNat))).step ∧
        runs (.int .remu rd ra (.reg rb)) (th.wr rd (BitVec.ofNat 64 (x.toNat % y.toNat))).step) ∧
      (y.toNat < 64 → runs (.int .shl rd ra (.reg rb)) (th.wr rd (x <<< y.toNat)).step)) ∧
    (∀ (ra rb : GReg) (target : Fin 4096),
      runs (.branch .eq ra rb target) (if th.rd ra = th.rd rb then { th with pc := target } else th.step) ∧
      runs (.branch .lt ra rb target) (if (th.rd ra).toInt < (th.rd rb).toInt then { th with pc := target } else th.step) ∧
      runs (.jump target) { th with pc := target } ∧
      runs (.jumpLink ra target) { th.wr ra (BitVec.ofNat 64 ((th.pc + 1) % 4096)) with pc := target }) ∧
    (∀ (rd : GReg) (off : Fin 65536), off.val < 0x4000 → off.val % 8 = 0 →
      runs (.regRead rd off) (th.wr rd (s.readBlk p off)).step) ∧
    (∀ (off : Fin 65536) (ra : GReg), off.val % 8 = 0 → ¬ (0x2000 ≤ off.val ∧ off.val < 0x2028) →
      ¬ (0x2800 ≤ off.val ∧ off.val < 0x2880) → ¬ (0x2900 ≤ off.val ∧ off.val < 0x2948) →
      ∀ op ∈ ([.unused, .regWrite off ra] : List GroomOp),
        ∃ u, exec (.groomInstruction p t op .none) s = .next u ∧ (u.block p).get (BLK_GRM_STATE.fault t) = 0x21 ∧
          s.BlockBecomes p (b.faultRegs t) (b.faultedAs t 0x21) u) ∧
    (∀ (off : Fin 65536) (v : Thr) (ra : GReg), off.val = BLK_GRM_PATIENCE.off v →
      ∃ u, exec (.groomInstruction p t (.regWrite off ra) .none) s = .next u ∧
        (u.block p).get (BLK_GRM_PATIENCE.limit v) = bitsOf (th.rd ra) 19 0 ∧
        s.BlockBecomes p (off.val :: b.groomRegs t) { b.turned t with threads := mset threadIdle b.threads t th.step } u) ∧
    ∀ op, ∃ u, exec (.groomInstruction p t op .double) s = .next u ∧ (u.block p).fenced = true ∧ (u.block p).fenceCode = 0x25 ∧
      ((u.block p).thread t).state = 5 ∧ (u.block p).spad = b.spad ∧ s.OnlyBlock p u

/-- R140: advancing PKH_HEAD of a served ring by one posts that descriptor with the stride count of now. R143: a ring descriptor that
fails a check starts and moves nothing. R141: a FILL of one line of a scratch handle writes its pattern to the places that the line maps to
and nowhere else, and a COPY of one line between scratch handles writes what the source's places hold. R144: a completed ring descriptor has
its status and count in its bytes 56 and 58 to 63 and leaves the list, PKH_TAIL advances and PKH_BYTES counts its bytes. R146: the Rider driver writes a handle
register only in Held and Ready, and a write to the base, length, shape or copy of a valid entry moves its generation on.
Its conclusion is that `exec` answers a next state, under conditions on state and operands alone, for hdlWrite, pkhHeadWrite, descriptorStart and
descriptorComplete. -/
def Obligations.PackhorseAndHandleTable : Prop :=
  ∀ (p : PBlk) (s : State), (s.block p).halted = false → (s.block p).gather = [] →
    let b := s.block p
    (∀ v : Word, b.ringServed = true → bitsOf v 7 0 = (b.get PKH_HEAD.index + 1) % b.ringSize → b.get PKH_HEAD.index < b.ringSize →
      ∃ u, exec (.pkhHeadWrite p none v) s = .next u ∧ (u.block p).get PKH_HEAD.index = bitsOf v 7 0 ∧
        s.BlockBecomes p [PKH_HEAD.off] { b with jobs := b.jobs ++
          [{ fromRing := true, index := b.get PKH_HEAD.index, desc := Desc.ofBytes [], stride := b.stride.toNat }] } u) ∧
    (∀ (ring : Bool) (j : PJob), b.jobs.find? (fun x => x.fromRing == ring && x.started && !x.stopped && x.rowsLeft != 0) = none →
      b.nextJob ring = some j →
      (b.descStatus j.desc ≠ 0 →
        ∃ u, exec (.descriptorStart p ring 0) s = .next u ∧ u.hbm = s.hbm ∧ u.ddr = s.ddr ∧ (u.block p).spad = b.spad ∧
          (u.block p).jobs = (b.setJob { j with started := true, status := b.descStatus j.desc }).jobs ∧
          (∀ q, q ≠ p.val → u.block q = s.block q)) ∧
      (b.descStatus j.desc = 0 → b.isCall j.desc = false → j.desc.op = 0 ∨ j.desc.op = 1 → j.desc.rows = 1 → j.desc.rowBytes = 64 →
        j.status = 0 → b.get (HDL_CTL.tier (nbits j.desc.dst 5 0)) = 0 →
        (j.desc.op = 0 → b.get (HDL_CTL.tier (nbits j.desc.src 5 0)) = 0) →
        let bytes := if j.desc.op = 1 then fillLine j.desc.pattern
          else (b.handleRuns (nbits j.desc.src 5 0) j.desc.srcOff 64).flatMap fun x => b.spad.bytes x.1 x.2
        ∃ u, exec (.descriptorStart p ring 0) s = .next u ∧ u.hbm = s.hbm ∧ u.ddr = s.ddr ∧
          (u.block p).spad = (splitRuns (b.handleRuns (nbits j.desc.dst 5 0) j.desc.dstOff 64) bytes).foldl
            (fun m x => m.puts x.1 x.2) b.spad ∧
          (u.block p).jobs = (b.setJob { j with started := true, done := 1, bytes := 64, pendingIds := [] }).jobs ∧
          (∀ q, q ≠ p.val → u.block q = s.block q))) ∧
    (∀ j, b.readyJob true = some j → j.desc.token = false →
      ∃ u, exec (.descriptorComplete p true) s = .next u ∧
        (u.block p).jobs = b.jobs.filter (fun x => !(x.fromRing == true && x.index == j.index)) ∧
        (u.block p).get PKH_TAIL.index = (j.index + 1) % b.ringSize % 256 ∧
        (u.block p).get PKH_BYTES.count = min PKH_BYTES.count.top (b.get PKH_BYTES.count + j.bytes) ∧
        (let line := b.spad.bytes (b.ringAddr j.index) 64
         (u.block p).spad = b.spad.puts (b.ringAddr j.index)
          (line.take 56 ++ leBytes 1 j.status ++ (line.drop 57).take 1 ++ leBytes 6 j.done)) ∧ (u.block p).progressAt = s.now ∧
        u.hbm = s.hbm ∧ u.ddr = s.ddr ∧ (∀ q, q ≠ p.val → u.block q = s.block q)) ∧
    ∀ (h : Hdl) (v : Word),
      (s.dev = dHeld ∨ s.dev = dReady →
        (∃ u, exec (.hdlWrite p h 1 v) s = .next u ∧ (u.block p).get (HDL_BASE.addr h) = bitsOf v 47 0 ∧
          (u.block p).get (HDL_CTL.gen h) =
            (if b.get (HDL_CTL.valid h) = 1 then (b.get (HDL_CTL.gen h) + 1) % 256 else b.get (HDL_CTL.gen h)) ∧
          s.BlockBecomes p [HDL_BASE.off h, HDL_CTL.off h] b u) ∧
        ∃ u, exec (.hdlWrite p h 0 v) s = .next u ∧ (u.block p).get (HDL_CTL.valid h) = bitsOf v 63 63 ∧
          (u.block p).get (HDL_CTL.gen h) = b.get (HDL_CTL.gen h) ∧ (u.block p).get (HDL_CTL.window h) = b.get (HDL_CTL.window h) ∧
          s.BlockBecomes p [HDL_CTL.off h] b u) ∧
      (¬ (s.dev = dHeld ∨ s.dev = dReady) → ∀ which : Fin 5,
        ∃ u, exec (.hdlWrite p h which v) s = .next u ∧ s.BlockBecomes p [BLK_CNT.off 45] b u)

/-- R148, R150: the oldest token of a block's inbox takes a free entry of its arc queue, its lines are written there (an input of the
same tag already waiting marks the token as matched, and the context then holds that input too; else it takes a free context, or waits
unmatched and counts), and it leaves the inbox; with no free entry nothing changes. R151, R170: a token for a queue id that is no arc queue,
of the wrong kind, too long, or of the node, input and tag of one that waits already is dataflow fault 0x41: the firing scheduler stops and
the job is to end. R162, R194: a CREDIT sets the returned total of the arc that it names, on top of the totals before the last restart, and
the credits held are the share less what is spent and not returned, modulo 65,536; R201, R202: one that carries an echo counts it too.
Its conclusion is that `exec` answers a next state, under conditions on state and operands alone, for tokenArrive and credit. -/
def Obligations.TokensAndCreditsArrive : Prop :=
  ∀ (p : PBlk) (k : Pkt) (rest : List Pkt) (s : State), (s.block p).mesh.inbox = k :: rest → (s.block p).gather = [] →
    let b := s.block p
    let m : MeshUnit := { b.mesh with inbox := rest }
    let lines := if k.isData then ceilDiv k.payload.length 64 else 0
    let bad := b.qKind k.qid ≠ 1 ∨ b.qCtl k.qid = k.isData ∨ (k.isData = true ∧ b.qLines k.qid < lines) ∨
      ∃ x ∈ b.queue, x.taken = false ∧ x.tag = k.tag ∧ b.qKind x.q = 1 ∧ b.qNode x.q = b.qNode k.qid ∧ b.qInput x.q = b.qInput k.qid
    (b.halted = false → k.kind = kTOKEN → k.qid < 240 →
      (bad → ∃ u, exec (.tokenArrive p) s = .next u ∧ (u.block p).get BLK_DF_FAULT.code = 0x41 ∧
        (u.block p).get BLK_DF_FAULT.queue = k.qid ∧ (u.block p).get BLK_DF_STATUS.state = 5 ∧
        s.BlockBecomes p [BLK_DF_FAULT.off, BLK_DF_STATUS.off, BLK_CNT.off 45]
          { b with mesh := m, jobFault := b.jobFault <|> some (11, 0x41) } u) ∧
      (¬ bad → b.freeEntryOf k.qid = none → ∃ u, exec (.tokenArrive p) s = .next u ∧ s.BlockBecomes p [] b u) ∧
      ∀ e, ¬ bad → b.freeEntryOf k.qid = some e →
        let spad := if k.isData then b.spad.putLines (lineWrites (b.entryAddrs k.qid e lines) k.payload) else b.spad
        let entry : Bool → QEntry := fun matched => ⟨k.qid, e, k.tag, k.isData, lines, k.src,
          if k.isData then [] else sliceZ k.payload 0 8, b.inboundArc k.qid k.srcidx, matched, false⟩
        let mine := fun (c : Ctx) => c.node == b.qNode k.qid && c.tag == k.tag
        (b.ctxs.any mine = true → ∃ u, exec (.tokenArrive p) s = .next u ∧
          s.BlockBecomes p [] { b with
            mesh := m, spad := spad, queue := b.queue ++ [entry true],
            ctxs := b.ctxs.map fun c => if mine c then { c with inputs := c.inputs ||| 2 ^ b.qInput k.qid } else c } u) ∧
        (∀ n reserved i, b.ctxs.any mine = false → b.node? (b.qNode k.qid) = some n → b.freeCtx (b.qNode k.qid) n = some (reserved, i) →
          ∃ u, exec (.tokenArrive p) s = .next u ∧
            s.BlockBecomes p [] { b with
              mesh := m, spad := spad, queue := b.queue ++ [entry true],
              ctxs := b.ctxs ++ [⟨i, b.qNode k.qid, k.tag, 2 ^ b.qInput k.qid, n.kind == 3, reserved⟩] } u) ∧
        (b.ctxs.any mine = false → (∀ n, b.node? (b.qNode k.qid) = some n → b.freeCtx (b.qNode k.qid) n = none) →
          ∃ u, exec (.tokenArrive p) s = .next u ∧
          (u.block p).get BLK_DF_UNMATCHED.count = min BLK_DF_UNMATCHED.count.top (b.get BLK_DF_UNMATCHED.count + 1) ∧
          s.BlockBecomes p [BLK_DF_UNMATCHED.off] { b with mesh := m, spad := spad, queue := b.queue ++ [entry false] } u)) ∧
    (k.kind = kCREDIT →
      let i := leAt k.payload 0 2
      let key := match b.arcs[i]? with | some a => returnKey a i k.srcidx | none => i
      let total := (mget natZero b.bases key + k.seq) % 65536
      (nbit (leAt k.payload 2 1) 1 = false →
        ∃ u, exec (.credit p) s = .next u ∧
          s.BlockBecomes p [] { b with mesh := m, returned := mset natZero b.returned key total } u ∧
          ∀ a, b.arcs[i]? = some a → a.mcast = false →
            (u.block p).creditsHeld i = a.share - (mget natZero b.spent i + 65536 - total) % 65536) ∧
      (nbit (leAt k.payload 2 1) 1 = true →
        ∃ u, exec (.credit p) s = .next u ∧ (u.block p).returned = mset natZero b.returned key total ∧
          (u.block p).mesh.inbox = rest ∧ (u.block p).get MSH_ECHOES.count = min MSH_ECHOES.count.top (b.get MSH_ECHOES.count + 1) ∧
          (u.block p).get MSH_RATE.halved = 1 ∧ (u.block p).spent = b.spent ∧ s.OnlyBlock p u))

/-- R153, R120, R157: in Collected gait the next fire-list entry whose task node is complete starts on the lowest idle thread of
its groom, with the tag in g9 and the stride in g10; one that is not complete holds up the list. R155, R158: a complete free move node
posts its descriptor with offsets scaled by the tag. R159, R161: a free steer point in GATE discards its input where the predicate is 0,
frees both entries and sends nothing; where it passes it hands its input with its tag to its output arc and spends one credit, and its
entries stay taken until the router has the token; with no credit held the firing has started all the same and waits (R156, R163). Each
firing counts in BLK_DF_FIRES.
Its conclusion is that `exec` answers a next state, under conditions on state and operands alone, for fireListEntryStart, freeNodeFire and
reinSelection. -/
def Obligations.FiringsAndRein : Prop :=
  ∀ (p : PBlk) (s : State), (s.block p).schedulerRuns = true →
    let b := s.block p
    (∀ node field, b.working = true → b.extended = false → b.fireList[b.flPos]? = some (node, field) →
      let tag := formTag b.stride field
      (b.complete node tag = false → ∃ u, exec (.fireListEntryStart p) s = .next u ∧ s.BlockBecomes p [] b u) ∧
      ∀ n tr t, b.complete node tag = true → b.node? node = some n → n.kind = 1 → b.tasks[n.ref]? = some tr → tr.groom < 2 →
        b.idleThread tr.groom = some t →
        ∃ u th, exec (.fireListEntryStart p) s = .next u ∧ th = (u.block p).thread t ∧ th.state = 1 ∧ th.pc = tr.entry ∧
          th.task = n.ref ∧ th.node = node ∧ th.tag = tag ∧ th.stride = b.stride ∧ th.listed = true ∧ th.wait = .none ∧
          th.rd 9 = BitVec.ofNat 64 tag ∧ th.rd 10 = b.stride ∧ (∀ j < 8, j ≠ t → (u.block p).thread j = b.thread j) ∧
          (u.block p).flDone = b.flPos :: b.flDone ∧ (u.block p).progressAt = s.now ∧ (u.block p).spad = b.spad ∧
          (u.block p).get BLK_DF_FIRES.count = min BLK_DF_FIRES.count.top (b.get BLK_DF_FIRES.count + 1) ∧ s.OnlyBlock p u) ∧
    (∀ (c : Ctx) r d, b.ctxs = [c] → b.complete c.node c.tag = true → b.isListed c.node = false → b.node? c.node = some r →
      (r.kind = 2 → b.freeTime = true → b.templates[r.ref]? = some d → b.activeJobs < 4 →
        ∃ u, exec (.freeNodeFire p) s = .next u ∧
          (u.block p).jobs = b.jobs ++ [{
            fromRing := false, index := b.posted, node := c.node, tag := c.tag, stride := b.stride.toNat,
            held := (b.inputs c.node c.tag r.inputs).filterMap fun x => x.map fun x => (x.q, x.e),
            desc := { d with
              srcOff := (d.srcOff + c.tag % 65536 * r.srcIndex) % 2 ^ 64, dstOff := (d.dstOff + c.tag % 65536 * r.dstIndex) % 2 ^ 64 } }] ∧
          (u.block p).posted = b.posted + 1 ∧ (u.block p).spad = b.spad ∧ (u.block p).threads = b.threads ∧
          (u.block p).get BLK_DF_FIRES.count = min BLK_DF_FIRES.count.top (b.get BLK_DF_FIRES.count + 1) ∧ s.OnlyBlock p u) ∧
      ∀ x y, r.kind = 3 → r.ref < 64 → 2 ≤ r.inputs → b.freeTime = true → b.reinJob = none →
        b.inputEntry c.node 0 c.tag = some x → x.isData = false →
        b.inputEntry c.node 1 c.tag = some y → y.isData = false → r.mode = 1 →
        let held := (b.inputs c.node c.tag r.inputs).filterMap fun z => z.map fun z => (z.q, z.e)
        let fired := fun (u : State) => exec (.reinSelection p) s = .next u ∧
          (u.block p).get BLK_DF_FIRES.count = min BLK_DF_FIRES.count.top (b.get BLK_DF_FIRES.count + 1) ∧
          (u.block p).spad = b.spad ∧ (u.block p).threads = b.threads ∧ s.OnlyBlock p u
        (leAt x.bytes 0 1 % 2 = 0 →
          ∃ u, fired u ∧ (∀ z ∈ (u.block p).queue, ¬ (z.q = x.q ∧ z.e = x.e) ∧ ¬ (z.q = y.q ∧ z.e = y.e)) ∧
            (u.block p).get BLK_DF_DISCARD.count = min BLK_DF_DISCARD.count.top (b.get BLK_DF_DISCARD.count + 1) ∧
            (u.block p).spent = b.spent) ∧
        ∀ arc a, leAt x.bytes 0 1 % 2 = 1 → b.outputArc c.node 0 = some arc → b.arcs[arc]? = some a →
          (b.mayEmit arc = true → a.dest ≠ b.lblock ∨ a.mcast = true →
            ∃ u, fired u ∧ (u.block p).reinJob = none ∧
              (u.block p).mesh.sendq = b.mesh.sendq ++ [{
                pkt := { kind := kTOKEN, vc := a.vc, tag := c.tag, qid := a.queue, mcast := a.mcast, payload := y.bytes },
                idx := a.dest, origin := .entries held false : Held }] ∧
              (u.block p).spent = (if b.arcFree arc then b.spent
                else mset natZero b.spent arc ((mget natZero b.spent arc + 1) % 65536)) ∧
              ∃ z ∈ (u.block p).queue, z.q = x.q ∧ z.e = x.e ∧ z.taken = true) ∧
          (b.mayEmit arc = false →
            ∃ u, fired u ∧ (u.block p).reinJob = some ⟨c.node, c.tag, y, held, 0, false⟩ ∧
              (u.block p).mesh.sendq = b.mesh.sendq ∧ (u.block p).spent = b.spent ∧ (waitRein, arc) ∈ (u.block p).waits))

/-- R167, R168: a contribution to an anchored combining queue opens the slot of its key with its values, or adds them to the slot, and
counts; a loose sum counts in CAD_LOOSE_COUNT (R49). R170: a contribution of the wrong size, or to a queue that is off, is fault 0x44; one
to a slot that another key holds is 0x42; one beyond the slot's count is 0x43. R169: a complete slot is forwarded as a token with the key
as its tag on the queue's outbound arc, its values as they stand or converted: one credit is spent, the slot is marked as sent until the
router has the token, and a queue that tallies adds its lines to the block tally.
Its conclusion is that `exec` answers a next state, under conditions on state and operands alone, for cqContribute and cqForward. -/
def Obligations.CombiningQueues : Prop :=
  ∀ (p : PBlk) (c : Fin 16) (s : State), (s.block p).halted = false → (s.block p).gather = [] →
    let b := s.block p
    (∀ k rest, b.mesh.inbox = k :: rest → (k.kind = kREDUCE ∨ k.kind = kTOKEN) → k.qid = 240 + c.val →
      let parts := if k.kind = kREDUCE then k.parts else 1
      let slot := (k.tag % 65536 + 65536 - b.get (BLK_CQ_FWD.key_base c)) % 65536 % zeroMeans (b.get (BLK_CQ_CFG.slots c)) 256
      let lines := if b.get (BLK_CQ_CFG.mode c) = 0 then 24 else 4
      let addrs := (List.range lines).map fun j =>
        maskLine (b.get (BLK_CQ_CFG.mask c)) (b.get (BLK_CQ_CFG.line c)) (slot * lines + j)
      let stops := fun code => ∃ u, exec (.cqContribute p) s = .next u ∧ (u.block p).get BLK_DF_FAULT.code = code ∧
        (u.block p).get BLK_DF_STATUS.state = 5 ∧ (u.block p).jobFault = (b.jobFault <|> some (11, code)) ∧
        (u.block p).spad = b.spad ∧ (u.block p).cqs = b.cqs ∧ (u.block p).mesh.inbox = rest ∧ s.OnlyBlockAnd p [CAD_LOOSE_COUNT.off] u
      let leaves := fun (n : Nat) (x : CqSlot) (bytes : List Byte) => ∃ u, exec (.cqContribute p) s = .next u ∧
        (u.block p).spad = b.spad.putLines (lineWrites addrs bytes) ∧
        (u.block p).cqs = (b.cqs.filter fun y => !(y.cq == c.val && y.slot == slot)) ++ [x] ∧
        (u.block p).mesh.inbox = rest ∧ (u.block p).threads = b.threads ∧ (u.block p).queue = b.queue ∧
        u.get CAD_LOOSE_COUNT.count = min CAD_LOOSE_COUNT.count.top (s.get CAD_LOOSE_COUNT.count + n) ∧ s.OnlyBlockAnd p [CAD_LOOSE_COUNT.off] u
      (b.get (BLK_CQ_CFG.enable c) = 0 ∨ ceilDiv k.payload.length 64 ≠ lines → stops 0x44) ∧
      (b.get (BLK_CQ_CFG.enable c) = 1 → ceilDiv k.payload.length 64 = lines →
        ((b.cqs.find? fun x => x.cq == c.val && x.slot == slot) = none →
          (b.get (BLK_CQ_FWD.count c) < parts → stops 0x43) ∧
          (parts ≤ b.get (BLK_CQ_FWD.count c) → leaves 0 ⟨c, slot, k.tag, parts, false⟩
            (if b.get (BLK_CQ_CFG.mode c) = 0 then Ap.rowBytes (Ap.rowOfBytes 64 k.payload) else k.payload))) ∧
        ∀ x, (b.cqs.find? fun x => x.cq == c.val && x.slot == slot) = some x →
          let held := addrs.flatMap fun a => b.spad.bytes a 64
          (x.key ≠ k.tag → stops 0x42) ∧
          (x.key = k.tag → b.get (BLK_CQ_FWD.count c) < x.count + parts → stops 0x43) ∧
          (x.key = k.tag → x.count + parts ≤ b.get (BLK_CQ_FWD.count c) →
            if b.get (BLK_CQ_CFG.mode c) = 0 then leaves 0 ⟨c, slot, k.tag, x.count + parts, false⟩
              (Ap.rowBytes (Ap.addRow (Ap.rowOfBytes 64 held) (Ap.rowOfBytes 64 k.payload)))
            else leaves 1 ⟨c, slot, k.tag, x.count + parts, false⟩ ((List.range 64).flatMap fun i =>
              leBytes 4 (looseAdd (leAt held (4 * i) 4) (leAt k.payload (4 * i) 4)))))) ∧
    ∀ x arc a, (b.cqs.find? fun x => x.cq == c.val && x.count == b.get (BLK_CQ_FWD.count c) && !x.sent) = some x →
      b.outputArc 0x8001 c = some arc → b.arcs[arc]? = some a → a.dest ≠ b.lblock ∨ a.mcast = true → b.mayEmit arc = true →
      let raw := (b.cqAddrs c x.slot).flatMap fun l => b.spad.bytes l 64
      let bit := fun f => b.get f == 1
      let params := if bit (BLK_CQ_CFG.clip c) || bit (BLK_CQ_CFG.scale c) || bit (BLK_CQ_CFG.bias c) then
        (bankLines (b.get (BLK_CQ_CFG.pbank c)) (b.get (BLK_CQ_CFG.pline c)) 9).flatMap fun l => b.spad.bytes l 64 else []
      let out := fun f => pipelineRow f (bit (BLK_CQ_CFG.clip c))
        (colParam (bit (BLK_CQ_CFG.clip c)) (bit (BLK_CQ_CFG.scale c)) (bit (BLK_CQ_CFG.bias c)) params)
        (fun n => roundMode (bit (BLK_CQ_CFG.sr c)) (mget chipReset s.regs (CAD_SEED.off 0)) (keyStride b.stride x.key) b.lblock
          (0x800 + c) (64 * x.key + n)) (Ap.rowOfBytes 64 raw)
      ∀ bytes, ((b.get (BLK_CQ_CFG.mode c) = 1 ∨ b.get (BLK_CQ_CFG.convert c) = 0) ∧ bytes = raw) ∨
          (b.get (BLK_CQ_CFG.mode c) = 0 ∧ b.get (BLK_CQ_CFG.convert c) = 1 ∧
            ∃ f, Fmt.ofCode (b.get (BLK_CQ_CFG.ofmt c)) = some f ∧ bytes = (out f).1 ++ padTo 64 (out f).2) →
        let held : Held := {
          pkt := { kind := kTOKEN, vc := a.vc, isData := true, tag := x.key, qid := a.queue, mcast := a.mcast,
                   length := ceilDiv bytes.length 64 - 1, payload := bytes }, idx := a.dest, origin := .cqSlot c x.slot }
        ∃ u, exec (.cqForward p c) s = .next u ∧
          s.BlockBecomes p [] { b with
            cqs := b.cqs.map fun y => if y == x then { y with sent := true } else y,
            mesh := { b.mesh with sendq := b.mesh.sendq ++ [held] },
            spent := if b.arcFree arc then b.spent else mset natZero b.spent arc ((mget natZero b.spent arc + 1) % 65536),
            waits := b.waits.filter fun w => w != (waitCq c, arc),
            tally := if b.get (BLK_CQ_CFG.tally c) = 1 then b.tally + tallyTerm 3 c x.key 0 bytes else b.tally } u

/-- R217, R219: a message for a queue that is not an open message queue is answered QUEUE_CLOSED (3) and counted in BLK_GRM_MQCLOSED; one
of another incarnation, but for a multicast, STALE (2) and BLK_GRM_MQSTALE; one too long for an entry BAD (7) and BLK_GRM_MQBAD; one that finds no free entry
FULL (1) and BLK_GRM_MQFULL; any other is written into the free entry and answered OK. R228: a window write to a handle that is no open
window of its generation is answered 4, one without the permission 6, one out of range 7, each counted in BLK_GRM_WINREF and written
nowhere; R229: any other goes to the
window byte by byte where its handle maps it: into the scratchpad at once, and it is answered OK; to a DRAM tier by a request whose reply the answer
awaits.
Its conclusion is that `exec` answers a next state, under conditions on state and operands alone, for messageArrive and windowWriteArrive. -/
def Obligations.MessagesAndWindowWritesArrive : Prop :=
  ∀ (p : PBlk) (k : Pkt) (rest : List Pkt) (s : State), (s.block p).mesh.inbox = k :: rest → (s.block p).halted = false →
    (s.block p).gather = [] →
    let b := s.block p
    let lines := if k.isData then k.length + 1 else 1
    let refused := fun (c : Instr) (st gen : Nat) (f : Fld) => ∃ u, exec c s = .next u ∧ (u.block p).get f = min f.top (b.get f + 1) ∧
      (u.block p).mesh = ({ b.mesh with inbox := rest } : MeshUnit).answered k st gen ∧
      (u.block p).queue = b.queue ∧ (u.block p).spad = b.spad ∧ (∀ a, a ≠ f.off → (u.block p).word a = b.word a) ∧ s.OnlyBlock p u
    (k.kind = kMESSAGE → k.qid < 256 →
      let inc := b.get (BLK_Q_CFG.incarn k.qid)
      (b.mqOpen k.qid = false → refused (.messageArrive p) 3 inc BLK_GRM_MQCLOSED.count) ∧
      (b.mqOpen k.qid = true →
        (k.mcast = false → k.incarn ≠ inc → refused (.messageArrive p) 2 inc BLK_GRM_MQSTALE.count) ∧
        (k.mcast = true ∨ k.incarn = inc → b.qLines k.qid < lines → refused (.messageArrive p) 7 inc BLK_GRM_MQBAD.count) ∧
        (k.mcast = true ∨ k.incarn = inc → lines ≤ b.qLines k.qid → b.freeEntryOf k.qid = none →
          refused (.messageArrive p) 1 inc BLK_GRM_MQFULL.count) ∧
        ∀ e, k.mcast = true ∨ k.incarn = inc → lines ≤ b.qLines k.qid → b.freeEntryOf k.qid = some e →
          ∃ u, exec (.messageArrive p) s = .next u ∧
            s.BlockBecomes p [] { b with
              mesh := ({ b.mesh with inbox := rest } : MeshUnit).answered k 0 0, spad := b.spad.putLines (lineWrites (b.entryAddrs k.qid e lines) k.payload),
              queue := b.queue ++ [⟨k.qid, e, k.tag, true, lines, k.src, [], none, true, false⟩] } u)) ∧
    (k.kind = kWINDOW_WRITE → k.qid < 64 →
      let h := k.qid
      let isOpen := b.get (HDL_CTL.valid h) = 1 ∧ b.get (HDL_CTL.window h) = 1 ∧ b.get (HDL_CTL.closing h) = 0 ∧
        k.incarn = b.get (HDL_CTL.gen h)
      let inRange := k.addr + 64 * (k.length + 1) ≤ b.get (HDL_LEN.length h)
      let gen := b.get (HDL_CTL.gen h)
      (¬ isOpen → refused (.windowWriteArrive p) 4 gen BLK_GRM_WINREF.count) ∧
      (isOpen → b.get (HDL_CTL.wr h) = 0 → refused (.windowWriteArrive p) 6 gen BLK_GRM_WINREF.count) ∧
      (isOpen → b.get (HDL_CTL.wr h) = 1 → ¬ inRange → refused (.windowWriteArrive p) 7 gen BLK_GRM_WINREF.count) ∧
      (isOpen → b.get (HDL_CTL.wr h) = 1 → inRange → b.get (HDL_CTL.tier h) = 0 →
        ∃ u, exec (.windowWriteArrive p) s = .next u ∧
          s.BlockBecomes p [] { b with
            mesh := ({ b.mesh with inbox := rest } : MeshUnit).answered k 0 0,
            spad := ((List.range (k.length + 1)).flatMap fun i =>
              splitRuns (b.handleRuns h (k.addr + 64 * i) 64) (sliceZ k.payload (64 * i) 64)).foldl
                (fun m w => m.puts w.1 w.2) b.spad } u) ∧
      (∀ a, isOpen → b.get (HDL_CTL.wr h) = 1 → inRange → b.get (HDL_CTL.tier h) = 1 ∨ b.get (HDL_CTL.tier h) = 2 → k.length = 0 →
        b.handleRuns h k.addr 64 = [(a, 64)] →
        let id := b.nextReq % 2 ^ 24
        let held : Held := {
          pkt := { linesPkt (sliceZ k.payload 0 64) with tag := id, addr := a / 64 * 64 },
          idx := memEndpoint (b.get (HDL_CTL.tier h)) (p.val % 40) (a / 64 * 64), owner := .mem id }
        ∃ u, exec (.windowWriteArrive p) s = .next u ∧
          s.BlockBecomes p [] { b with
            mesh := { b.mesh with inbox := rest, sendq := b.mesh.sendq ++ [held] },
            nextReq := b.nextReq + 1, reqs := b.reqs ++ [⟨id, .window h k.src k.vc k.seq⟩] } u))

/-- R220: the close of an open message queue frees its entries and counts them in BLK_GRM_MQCLOSED, with result 0; reopening gives it its
next incarnation; each on a queue that is so already, changes only the result 0, and on a queue id that is no message queue only the
result 7. R230: the second phase of a close ends once no accepted write is on its way to its tier: the window and closing bits are 0.
While one is, event 0xB4 after 1 ms, and the block keeps waiting.
Its conclusion is that `exec` answers a next state, under conditions on state and operands alone, for queueClose, queueReopen, windowCloseComplete and
windowCloseTimeout. -/
def Obligations.QueuesAndWindowsClose : Prop :=
  ∀ (p : PBlk) (s : State),
    let b := s.block p
    (∀ q : Fin 256,
      let result := fun (c : Instr) (v : Nat) => ∃ u, exec c s = .next u ∧ (u.block p).get BLK_GRM_QCTL.result = v ∧
        s.BlockBecomes p [BLK_GRM_QCTL.off] b u
      (240 ≤ q.val ∨ b.qKind q ≠ 2 → result (.queueClose p q) 7 ∧ result (.queueReopen p q) 7) ∧
      (q.val < 240 → b.qKind q = 2 →
        (b.get (BLK_Q_CFG.closed q) = 1 → result (.queueClose p q) 0 ∧
          ∃ u, exec (.queueReopen p q) s = .next u ∧ (u.block p).get BLK_GRM_QCTL.result = 0 ∧
            (u.block p).get (BLK_Q_CFG.closed q) = 0 ∧
            (u.block p).get (BLK_Q_CFG.incarn q) = (b.get (BLK_Q_CFG.incarn q) + 1) % 256 ∧
            s.BlockBecomes p [BLK_GRM_QCTL.off, BLK_Q_CFG.off q] b u) ∧
        (b.get (BLK_Q_CFG.closed q) = 0 → result (.queueReopen p q) 0 ∧
          ∃ u, exec (.queueClose p q) s = .next u ∧ (u.block p).get BLK_GRM_QCTL.result = 0 ∧
            (u.block p).get (BLK_Q_CFG.closed q) = 1 ∧ (∀ x ∈ (u.block p).queue, x.q ≠ q.val) ∧
            (u.block p).get BLK_GRM_MQCLOSED.count =
              min BLK_GRM_MQCLOSED.count.top (b.get BLK_GRM_MQCLOSED.count + (b.queue.filter fun x => x.q == q.val).length) ∧
            (∀ t : Thr, (∀ q' tg m d a, (b.thread t).wait ≠ .recv q' tg m d a) → (u.block p).thread t = b.thread t) ∧
            (u.block p).spad = b.spad ∧ s.OnlyBlock p u))) ∧
    ∀ h : Hdl, b.get (HDL_CTL.closing h) = 1 →
      (b.windowPending h = false → ∃ u, exec (.windowCloseComplete p h) s = .next u ∧
        (u.block p).word (HDL_CTL.off h) = putBits (putBits (b.word (HDL_CTL.off h)) 59 59 0) 58 58 0 ∧
        s.BlockBecomes p [HDL_CTL.off h] b u) ∧
      (b.windowPending h = true → (∃ u, exec (.windowCloseComplete p h) s = .next u ∧ s.BlockBecomes p [] b u) ∧
        (mget natZero b.closeAt h + 1000000 ≤ s.now → ∃ u, exec (.windowCloseTimeout p h) s = .next u ∧
          (u.block p).get (BLK_CNT.count 45) = min (BLK_CNT.count 45).top (b.get (BLK_CNT.count 45) + 1) ∧
          (u.block p).get (HDL_CTL.closing h) = 1 ∧ s.BlockBecomes p [BLK_CNT.off 45] b u))

/-- R178, R208: a sound flit of the packet that is arriving on a port and channel is received, and the sender's retry store keeps its last
4 flits; one with a check error is refused with event 0x61 and counted in MSH_LINK_RETRY, and no flit is received; a corrected single-bit
error is event 0x64 and the flit is received. A double-bit error (0x65), or a second check error on the same flit (0x62), which also stops
its link, fails the router: it goes to straight bypass (R197), discards and counts what it holds of the current epoch, and the block fences
itself with that code. A stopped link brings nothing.
Its conclusion is that `exec` answers a next state, under conditions on state and operands alone, for flitReceive. -/
def Obligations.FlitsBetweenRouters : Prop :=
  ∀ (p : PBlk) (port : Fin 6) (vc : Fin 2) (i : InBuf) (s : State),
    ((s.block p).router.buf.find? fun i => i.port == port.val && i.vc == vc.val && decide (i.got < i.pkt.flits)) = some i →
    let b := s.block p
    let kept := fun (q : Nat) => mget (fun _ => []) (s.block q).router.retry (oppPort port) ++ [i.pkt.flitBytes.getD i.got []]
    let after := fun (regs : List Nat) (j : InBuf) (u : State) =>
      (∃ m ev co, u.block p = { b with
        router := { b.router with buf := b.router.buf.map fun x => if x == i then j else x }, regs := m, ev := ev, coalesced := co }) ∧
      (∀ a, a ∉ regs → (u.block p).word a = b.word a) ∧
      (∀ q, neighbour p port = some q → u.block q = if i.refused then s.block q else
        { s.block q with router := { (s.block q).router with
          retry := mset (fun _ => []) (s.block q).router.retry (oppPort port) ((kept q).drop ((kept q).length - 4)) } }) ∧
      (∀ x, x ≠ p.val → neighbour p port ≠ some x → u.block x = s.block x) ∧ u.endpoints = s.endpoints ∧ u.hbm = s.hbm ∧ u.ddr = s.ddr
    let fails := fun (hw : Fin 5) (code : Nat) (dead : List Nat) =>
      ∃ u, exec (.flitReceive p port vc hw) s = .next u ∧ (u.block p).fenced = true ∧
        (u.block p).fenceCode = code ∧ (u.block p).get MSH_FAULT.code = code ∧ (u.block p).get MSH_CTL.mode = 2 ∧
        (u.block p).get MSH_DISCARD.count = min MSH_DISCARD.count.top (b.get MSH_DISCARD.count +
          ((b.router.buf.filter fun x => x.pkt.epoch == s.epoch).length + b.router.merge.length + b.router.repl.length)) ∧
        (u.block p).get MSH_LINK_RETRY.count = b.get MSH_LINK_RETRY.count ∧
        (u.block p).router = { b.router with
          buf := b.router.buf.filter (fun x => x.pkt.epoch != s.epoch), merge := [], repl := [], failEpoch := s.epoch, deadLinks := dead } ∧
        (u.block p).spad = b.spad ∧ (u.block p).threads = b.threads ∧ s.OnlyBlock p u
    (b.router.deadLinks.contains port.val = true → ∀ hw, exec (.flitReceive p port vc hw) s = .next s) ∧
    (b.router.deadLinks.contains port.val = false →
      (∃ u, exec (.flitReceive p port vc 0) s = .next u ∧ after [] { i with got := i.got + 1, refused := false } u) ∧
      (i.refused = false → ∃ u, exec (.flitReceive p port vc 1) s = .next u ∧
        (u.block p).get MSH_LINK_RETRY.count = min MSH_LINK_RETRY.count.top (b.get MSH_LINK_RETRY.count + 1) ∧
        (u.block p).get MSH_FAULT.code = 0x61 ∧
        after [MSH_LINK_RETRY.off, MSH_FAULT.off, BLK_CNT.off 45, BLK_CNT.off 46] { i with refused := true } u) ∧
      (∃ u, exec (.flitReceive p port vc 2) s = .next u ∧ (u.block p).get MSH_FAULT.code = 0x64 ∧
        after [MSH_FAULT.off, BLK_CNT.off 45, BLK_CNT.off 46] { i with got := i.got + 1, refused := false } u) ∧
      (b.fenced = false → b.get MSH_CTL.mode ≠ 2 →
        fails 3 0x65 b.router.deadLinks ∧ fails 4 0x62 (b.router.deadLinks ++ [port.val]) ∧
        (i.refused = true → fails 1 0x62 (b.router.deadLinks ++ [port.val]))))

/-- R185: in Extended gait the header of a unicast packet whose path is used up goes to the local port of the destination's router; one with
a path goes to the neighbour that the first segment names, with the segment one shorter, where that neighbour's buffer has room and no
stored copy waits for the output (R179, R204), marked where the buffer is filled above the threshold (R200); where it cannot go it waits.
R183: one with a wrong header CRC is discarded with event 0x63. R208: one that has nowhere to go is discarded with 0x66, and its source
repeats it. R207: a bundled reduce packet that meets an unscheduled entry for its sum is added to it. Each flit switched counts in
MSH_FLITS.
Its conclusion is that `exec` answers a next state, under conditions on state and operands alone, for packetHeaderArrive. -/
def Obligations.HeaderArrives : Prop :=
  ∀ (p : PBlk) (port : Fin 6) (vc : Fin 2) (i : InBuf) (s : State),
    ((s.block p).router.buf.find? fun i => i.port == port.val && i.vc == vc.val) = some i →
    1 ≤ i.got → (s.block p).extended = true → i.pkt.mcast = false → (s.block p).get MSH_CTL.mode = 0 →
    (s.block p).router.deadLinks.contains port.val = false → s.taps p = [] →
    let b := s.block p
    let k := i.pkt
    let r := { b.router with buf := b.router.buf.erase i }
    let d := normPath 6 k.path % 4
    (∃ u, exec (.packetHeaderArrive p port vc false) s = .next u ∧ (u.block p).get MSH_FAULT.code = 0x63 ∧
      (u.block p).get MSH_DISCARD.count = min MSH_DISCARD.count.top (b.get MSH_DISCARD.count + 1) ∧
      s.BlockBecomes p [MSH_DISCARD.off, MSH_FAULT.off, BLK_CNT.off 45] { b with router := r } u) ∧
    (normPath 6 k.path = 0 → k.dest = p.val → k.kind ≠ kREDUCE →
      (s.clear p 4 k = false → exec (.packetHeaderArrive p port vc true) s = .next s) ∧
      (s.clear p 4 k = true → ∃ u, exec (.packetHeaderArrive p port vc true) s = .next u ∧
        (u.block p).get MSH_FLITS.count = min MSH_FLITS.count.top (b.get MSH_FLITS.count + k.flits) ∧
        s.BlockBecomes p [MSH_FLITS.off] { b with
          router := r, mesh := { b.mesh with arrived := b.mesh.arrived ++ [{ k with path := 0 }] } } u)) ∧
    (normPath 6 k.path = 0 → k.dest ≠ p.val → k.dest < 1280 → kindSequenced k.kind = true → b.router.fault66 = [] →
      ∃ u, exec (.packetHeaderArrive p port vc true) s = .next u ∧ (u.block p).get MSH_FAULT.code = 0x66 ∧
        (u.block p).get MSH_DISCARD.count = min MSH_DISCARD.count.top (b.get MSH_DISCARD.count + 1) ∧
        s.BlockBecomes p [MSH_DISCARD.off, MSH_FAULT.off, BLK_CNT.off 45]
          { b with router := { r with fault66 := [(k.src, k.dest, k.vc, k.tag, s.now)] } } u) ∧
    (∀ q, normPath 6 k.path ≠ 0 → neighbour p d = some q → k.kind ≠ kREDUCE →
      let filled := (s.block q).router.fill (oppPort d) k.vc
      let marked := decide (min 100 (max 1 (b.get MSH_THRESH.mark_pct)) * 20 < filled * 100)
      (s.clear p d k = false → exec (.packetHeaderArrive p port vc true) s = .next s) ∧
      (s.clear p d k = true →
        filled + k.flits ≤ 20 ∧
        ∃ u, exec (.packetHeaderArrive p port vc true) s = .next u ∧ (u.block p).router = r ∧ (u.block p).mesh = b.mesh ∧
          (u.block p).spad = b.spad ∧ (u.block p).get MSH_FLITS.count = min MSH_FLITS.count.top (b.get MSH_FLITS.count + k.flits) ∧
          (u.block p).get MSH_MARKS.count = (if marked = true ∧ k.cmark = false then
            min MSH_MARKS.count.top (b.get MSH_MARKS.count + 1) else b.get MSH_MARKS.count) ∧
          u.block q = { s.block q with
            router := { (s.block q).router with
              buf := (s.block q).router.buf ++ [{
                port := oppPort d, vc := k.vc, pkt := { k with path := normPath 6 k.path - 4, cmark := k.cmark || marked } }] } } ∧
          (∀ x, x ≠ p.val → x ≠ q → u.block x = s.block x) ∧ u.endpoints = s.endpoints ∧ u.hbm = s.hbm ∧ u.ddr = s.ddr)) ∧
    ∀ out path e, routeStep p k.path k.dest = some (out, path) → k.kind = kREDUCE → k.rop = 1 →
      (b.router.merge.find? fun e => mergeable e.pkt { k with path := path } && e.want == 0) = some e →
      let sum : Pkt := { e.pkt with
        parts := e.pkt.parts + k.parts, cmark := e.pkt.cmark || k.cmark,
        payload := Ap.rowBytes (Ap.addRow (Ap.rowOfBytes 64 e.pkt.payload) (Ap.rowOfBytes 64 k.payload)) }
      ∃ u, exec (.packetHeaderArrive p port vc true) s = .next u ∧
        (u.block p).get MSH_MERGES.count = min MSH_MERGES.count.top (b.get MSH_MERGES.count + 1) ∧
        s.BlockBecomes p [MSH_MERGES.off] { b with
          router := { r with merge := b.router.merge.map fun x => if x == e then { e with pkt := sum, have_ := e.have_ + 1 } else x } } u

/-- R206, R207: a merge entry leaves on its output, here the local port, once its count has met and the output can take it, and stays until
then; after a scheduled one the next gait entry is in turn. R36, R277: in Collected gait the packet of the gait-table entry in turn goes once
all its flits have arrived, and the next entry follows once the entry's flits have been served; one whose flits were refused is passed over.
R204: a stored multicast copy goes to an output that it has still to leave on, and is freed with its last.
Its conclusion is that `exec` answers a next state, under conditions on state and operands alone, for mergeEntryLeave, gaitEntryServe and
multicastBranchSend. -/
def Obligations.RouterEntriesLeave : Prop :=
  ∀ (p : PBlk) (s : State), (s.block p).get MSH_CTL.mode = 0 → s.taps p = [] →
    let b := s.block p
    let lands := fun (c : Instr) (r : Router) (k : Pkt) => ∃ u, exec c s = .next u ∧
      (u.block p).get MSH_FLITS.count = min MSH_FLITS.count.top (b.get MSH_FLITS.count + k.flits) ∧
      s.BlockBecomes p [MSH_FLITS.off] { b with router := r, mesh := { b.mesh with arrived := b.mesh.arrived ++ [k] } } u
    (∀ (i : Fin 8) e, b.router.merge[i.val]? = some e →
      (e.have_ < e.want ∨ s.clear p e.out e.pkt = false → exec (.mergeEntryLeave p i) s = .next s) ∧
      (e.want ≤ e.have_ → e.out = 4 → s.clear p 4 e.pkt = true →
        lands (.mergeEntryLeave p i) { b.router with
          merge := b.router.merge.erase e, gaitPos := if e.want = 0 then b.router.gaitPos else b.router.gaitPos + 1,
          gaitGot := if e.want = 0 then b.router.gaitGot else 0 } e.pkt)) ∧
    (∀ g i, b.extended = false → b.router.gait[b.router.gaitPos]? = some g → g.merge = false →
      (b.router.buf.find? fun i => i.port == g.inp && i.vc == g.vc && i.pkt.tag == formTag b.stride g.tag &&
        (if i.pkt.mcast then (treeOutputs p i.port i.pkt.targets).contains g.out && !i.gone.contains g.out
         else gaitOut p i.pkt == some g.out || gaitOut p i.pkt == none)) = some i → i.pkt.mcast = false →
      (i.refused = true → ∃ u, exec (.gaitEntryServe p) s = .next u ∧
        s.BlockBecomes p [] { b with router := { b.router with gaitPos := b.router.gaitPos + 1, gaitGot := 0 } } u) ∧
      (i.refused = false → i.got < i.pkt.flits → exec (.gaitEntryServe p) s = .next s) ∧
      (i.refused = false → i.pkt.flits ≤ i.got → normPath 6 i.pkt.path = 0 → i.pkt.dest = p.val →
        (s.clear p 4 i.pkt = false → exec (.gaitEntryServe p) s = .next s) ∧
        (s.clear p 4 i.pkt = true →
          let got := b.router.gaitGot + i.pkt.flits
          lands (.gaitEntryServe p)
            { b.router with
              buf := b.router.buf.erase i, gaitPos := if g.count ≤ got then b.router.gaitPos + 1 else b.router.gaitPos,
              gaitGot := if g.count ≤ got then 0 else got } { i.pkt with path := 0 }))) ∧
    ∀ (vc : Fin 2) e, (b.router.repl.find? fun e => e.pkt.vc == vc.val && e.outs.contains 4) = some e →
      (s.room p 4 e.pkt = false → exec (.multicastBranchSend p vc 4) s = .next s) ∧
      (s.room p 4 e.pkt = true →
        lands (.multicastBranchSend p vc 4) { b.router with
          repl := (b.router.repl.map fun x => if x == e then { e with outs := e.outs.filter (· != 4) } else x).filter
            fun x => !x.outs.isEmpty } e.pkt)

/-- R187, R190, R192: the first packet that waits at an open local port enters its router with the path and destination of the current
epoch's route entry and its stream's next number, and stands in the resend store. R208: with no valid entry it stays there, failed, with
event 0x66. R190, R191: the next packet of a stream is taken, and its acknowledgement is owed, to be sent once the family that answers later
has answered; one further ahead is answered NACK with the number wanted, and not taken. R191, R229: what acknowledges a run of answered
packets of a peer's stream is handed over for injection on VC1, with an echo owed to that peer.
Its conclusion is that `exec` answers a next state, under conditions on state and operands alone, for packetInject, packetAccept and ackSend. -/
def Obligations.InjectAcceptAcknowledge : Prop :=
  (∀ (p : PBlk) (u : MUnit) (h : Held) (rest : List Held) (s : State), u.val = p.val → (s.block p).mesh.sendq = h :: rest →
    (∀ x ∈ rest, x.pkt.vc % 2 = 1) → s.portOpen p = true → s.tableOf p = p → h.id = 0 → h.injected = false → h.failed = false →
    h.origin = .other → (h.pkt.kind = kTOKEN → h.owner = .none) → h.pkt.mcast = false → h.pkt.vc = 1 → kindSequenced h.pkt.kind = true →
    s.streamWaits p h = false → (s.block p).mesh.storeRoom h.pkt = true → (s.block p).router.fill 4 1 + h.pkt.flits ≤ 20 →
    let b := s.block p
    let w := if h.idx = b.lblock then 2 ^ 63 + p.val * 2 ^ 50 else s.route p s.epoch h.idx
    (nbit w 63 = true →
      let seq := mget natZero b.mesh.txSeq (nbits w 60 50 * 2 + 1)
      let k : Pkt := { h.pkt with
        epoch := s.epoch, src := p.val, srcidx := b.lblock, dest := nbits w 60 50, path := nbits w 47 0, seq := seq }
      ∃ t, exec (.packetInject u) s = .next t ∧ s.BlockBecomes p [] { b with
        progressAt := s.now, router := { b.router with buf := b.router.buf ++ [{ port := 4, vc := 1, pkt := k }] },
        mesh := { b.mesh with
          sendq := rest, nextId := b.mesh.nextId + 1,
          resend := b.mesh.resend ++ [{ h with pkt := k, injected := true, sentAt := s.now, id := b.mesh.nextId }],
          txSeq := mset natZero b.mesh.txSeq (nbits w 60 50 * 2 + 1) ((seq + 1) % 65536) } } t) ∧
    (nbit w 63 = false →
      ∃ t, exec (.packetInject u) s = .next t ∧ (t.block p).get MSH_FAULT.code = 0x66 ∧
        (t.block p).get MSH_DISCARD.count = min MSH_DISCARD.count.top (b.get MSH_DISCARD.count + 1) ∧
        s.BlockBecomes p [MSH_DISCARD.off, MSH_FAULT.off, BLK_CNT.off 45] { b with
          mesh := { b.mesh with
            sendq := rest, nextId := b.mesh.nextId + 1,
            resend := b.mesh.resend ++ [{ h with failed := true, sentAt := s.now, id := b.mesh.nextId }] } } t)) ∧
  (∀ (p : PBlk) (u : MUnit) (k : Pkt) (rest : List Pkt) (s : State), u.val = p.val → (s.block p).mesh.arrived = k :: rest →
    s.portOpen p = true → s.discards p = false → k.mcast = false → k.cmark = false → kindSequenced k.kind = true →
    let b := s.block p
    let m : MeshUnit := { b.mesh with arrived := rest }
    let want := mget natZero m.rxSeq (k.src * 2 + k.vc)
    (seqAhead k.seq want = 0 →
      ∃ t, exec (.packetAccept u) s = .next t ∧ s.BlockBecomes p [] { b with
        progressAt := s.now,
        mesh := ({ m with
          inbox := m.inbox ++ [k], rxSeq := mset natZero m.rxSeq (k.src * 2 + k.vc) ((want + 1) % 65536) } : MeshUnit).owe
            (ackFor s.now k (!ackLater k.kind)) } t) ∧
    (0 < seqAhead k.seq want → seqAhead k.seq want < 32768 →
      ∃ t, exec (.packetAccept u) s = .next t ∧ s.BlockBecomes p [] { b with
        progressAt := s.now, mesh := m.owe { ackFor s.now k true with seq := want, nack := true } } t)) ∧
  ∀ (u peer : MUnit) (vc : Fin 2) (a : AckOwed) (run : List AckOwed) (s : State), (s.unit u).nextAck peer vc = some (a, run) →
    let m := s.unit u
    let flags := b2n a.nack + 2 * b2n (m.echoes.any fun e => e.1 == peer.val) + 4 * b2n a.mcast + 8 * b2n a.moved + 16 * a.vc
    ∃ t, exec (.ackSend u peer vc) s = .next t ∧ t = s.setUnit u (t.unit u) ∧
      (t.unit u).acks = m.acks.filter (fun x => !run.contains x) ∧ (t.unit u).echoes = m.echoes.filter (fun e => e.1 != peer.val) ∧
      (t.unit u).sendq = m.sendq ++ [{
        pkt := { kind := kACK, vc := 1, seq := a.seq,
                 payload := leBytes 1 a.status ++ leBytes 1 flags ++ leBytes 1 a.byte2 }, idx := a.peerIdx }] ∧
      (t.unit u).resend = m.resend ∧ (t.unit u).inbox = m.inbox ∧ (∀ x, x ≠ u.val → t.unit x = s.unit x)

/-- R192, R191: an ACK releases the packet that it names, and nothing else; R214: a message's owner gets its result word, with the status,
the generation and the slot, and its thread goes on with the slot free. A NACK resends from its number and counts in MSH_RESENDS. R201,
R202: an echo settles the allowance and halves the injection rate, at least 1, once in a stride. R192: a packet unacknowledged for the
timeout is resent once, and after a second timeout waits for the next flip.
Its conclusion is that `exec` answers a next state, under conditions on state and operands alone, for ackReceive, echoReceive and resendTimeout. -/
def Obligations.SenderHearsBack : Prop :=
  ∀ (p : PBlk) (u : MUnit) (s : State), u.val = p.val →
    let b := s.block p
    let others := fun (h : Held) => b.mesh.sendq.filter fun x => x.id == 0 || !([h.id].contains x.id)
    (∀ k rest h, b.mesh.acksIn = k :: rest → b.mesh.resend = [h] → h.pkt.mcast = false → h.pkt.dest = k.src → h.injected = true →
      h.pkt.vc < 2 → h.part = 0 →
      (leAt k.payload 1 1 = 16 * h.pkt.vc → h.pkt.seq = k.seq → ackCovers h.pkt.kind = true →
        let m : MeshUnit := { b.mesh with acksIn := rest, resend := [] }
        (h.owner = .none → ∃ t, exec (.ackReceive u) s = .next t ∧ s.BlockBecomes p [] { b with mesh := m } t) ∧
        ∀ (t : Thr) (i : Fin 4), h.owner = .outbox t i →
          let th := b.thread t
          let x := th.slot i
          let status := leAt k.payload 0 1
          let gen := if status = 2 ∨ status = 4 then leAt k.payload 2 1 else 0
          x.st = 1 → nbit x.imm 1 = false → th.wait = .send i → status ≠ 1 →
            ∃ v, exec (.ackReceive u) s = .next v ∧ s.BlockBecomes p [BLK_GRM_STATE.off t, BLK_CNT.off (27 + t)]
              { b with
                mesh := m
                threads := mset threadIdle b.threads t { (th.setSlot i { x with st := 0, status := status }).wr x.rd
                  (BitVec.ofNat 64 (x.refused % 65536 * 2 ^ 32 + gen % 256 * 2 ^ 16 + i.val * 2 ^ 8 + status % 256)) with
                    pc := (th.pc + 1) % 4096, state := 1, wait := .none } } v) ∧
      (leAt k.payload 1 1 = 16 * h.pkt.vc + 1 → seqAhead h.pkt.seq k.seq < 32768 →
        ∃ t, exec (.ackReceive u) s = .next t ∧
          (t.block p).get MSH_RESENDS.count = min MSH_RESENDS.count.top (b.get MSH_RESENDS.count + 1) ∧
          s.BlockBecomes p [MSH_RESENDS.off] { b with
            mesh := { b.mesh with
              acksIn := rest, sendq := { h with waitFlip := false } :: others h,
              resend := [{ h with sentAt := s.now, waitFlip := false }] } } t)) ∧
    (∀ k, (b.mesh.acksIn.find? fun k => nbit (leAt k.payload 1 1) 1) = some k →
      ∃ t l, exec (.echoReceive p) s = .next t ∧
        (t.block p).get MSH_ECHOES.count = min MSH_ECHOES.count.top (b.get MSH_ECHOES.count + 1) ∧
        (t.block p).get MSH_RATE.halved = 1 ∧
        (t.block p).get MSH_RATE.rate =
          (if b.get MSH_RATE.halved = 1 then b.get MSH_RATE.rate else max 1 (b.get MSH_RATE.rate / 2)) ∧
        s.BlockBecomes p [MSH_RATE.off, MSH_ECHOES.off] { b with
          mesh := { b.mesh with acksIn := l, echoSeen := true, allowance := b.allowance (s.env p), allowAt := s.now } } t) ∧
    ∀ (dest : MUnit) (vc : Fin 2) h, b.mesh.resend = [h] → h.pkt.mcast = false → h.injected = true → h.waitFlip = false →
      h.pkt.dest = dest.val → h.pkt.vc = vc.val →
      let limit := 1000 * max 1 (b.get MSH_THRESH.timeout)
      (s.now < h.sentAt + limit → exec (.resendTimeout u dest vc) s = .next s) ∧
      (h.sentAt + limit ≤ s.now → h.tries = 0 → ∃ t, exec (.resendTimeout u dest vc) s = .next t ∧
        (t.block p).get MSH_RESENDS.count = min MSH_RESENDS.count.top (b.get MSH_RESENDS.count + 1) ∧
        s.BlockBecomes p [MSH_RESENDS.off] { b with
          mesh := { b.mesh with sendq := { h with tries := 1 } :: others h, resend := [{ h with tries := 1, sentAt := s.now }] } } t) ∧
      (h.sentAt + limit ≤ s.now → 1 ≤ h.tries → ∃ t, exec (.resendTimeout u dest vc) s = .next t ∧
        s.BlockBecomes p [] { b with mesh := { b.mesh with resend := [{ h with waitFlip := true }] } } t)

/-- R195: a region steward whose entries can be formed takes the flip lease once the last flip has drained and no other region holds it, and
then the flip is pending in every region and the other epoch's tables are a copy with the changed entries computed anew; R199: while another
region holds it the request waits. A pending flip that nothing withholds makes the next beat the flip beat; the leases are released in every
region once no router holds a packet of the other epoch. R198: 1 ms after the flip beat with packets undrained there is an event 0xB3, and
the lease is kept.
Its conclusion is that `exec` answers a next state, under conditions on state and operands alone, for epochFlipStart, epochFlipRequest, flipDrained
and flipDrainTimeout. -/
def Obligations.EpochFlips : Prop :=
  ∀ s : State,
    (∀ r : Rgn, s.tablesForm = true → s.rget r RGN_EPOCH.pending ≠ 1 →
      ((∃ q < 16, s.rget q RGN_EPOCH.lease = 1) → s.cad.flipWaits.contains r.val = false →
        exec (.epochFlipStart r) s = .next { s with cad := { s.cad with flipWaits := s.cad.flipWaits ++ [r.val] } }) ∧
      ((∀ q < 16, s.rget q RGN_EPOCH.lease ≠ 1) → s.drain = 0 → s.rget r RGN_EPOCH.drained ≠ 0 → s.cad.flipBeat = false →
        s.leaseFree 6 0 = true →
        ∃ t, exec (.epochFlipStart r) s = .next t ∧ t.rget r RGN_EPOCH.lease = 1 ∧ (∀ q < 16, t.rget q RGN_EPOCH.pending = 1) ∧
          (∀ q < 16, t.rget q RGN_EPOCH.epoch = s.rget q RGN_EPOCH.epoch) ∧
          t.leases.held = s.leases.held ++ [{ code := 6, res := 0, since := s.now }] ∧ t.leases.waiting = s.leases.waiting ∧
          (t.routes, t.groups, true) = s.movedTables s.epoch (1 - s.epoch) s.moves ∧
          (∀ a, a ≠ LSE_HELD.off → a ≠ LSE_WAITING.off → mget chipReset t.regs a = mget chipReset s.regs a) ∧
          t.blocks = s.blocks ∧ t.rmt = s.rmt ∧ t.cad = s.cad ∧ t.hbm = s.hbm ∧ t.ddr = s.ddr ∧ t.endpoints = s.endpoints)) ∧
    (let held := s.rget 0 RGN_EPOCH.pending = 0 ∨ (s.rcv.active = true ∧ s.blocks.any (fun x => x.2.owes) = true) ∨
        (s.screen.plans ≠ [] ∧ s.rcv.active = false);
      (held → exec .epochFlipRequest s = .next s) ∧
      (¬ held → exec .epochFlipRequest s = .next { s with cad := { s.cad with flipBeat := true } })) ∧
    (s.drain = 0 → s.rget 0 RGN_EPOCH.pending = 0 → s.cad.flipBeat = false → s.rget 0 RGN_EPOCH.drained = 0 → s.cad.flipWaits = [] →
      ∃ t, exec .flipDrained s = .next t ∧ (∀ q < 16, t.rget q RGN_EPOCH.drained = 1 ∧ t.rget q RGN_EPOCH.lease = 0) ∧
        (∀ q < 16, t.rget q RGN_EPOCH.epoch = s.rget q RGN_EPOCH.epoch) ∧
        t.leases.held = s.leases.held.filter (fun l => l.code != 2 && l.code != 6) ∧ t.leases.waiting = s.leases.waiting ∧
        (∀ q, (t.block q).mesh = (s.block q).mesh ∧ (t.block q).regs = (s.block q).regs ∧
          (t.block q).router = { (s.block q).router with
            failEpoch := if (s.block q).get MSH_CTL.mode = 2 ∧ (s.block q).router.failEpoch ≠ s.epoch then 2
              else (s.block q).router.failEpoch }) ∧ t.cad = s.cad ∧ t.hbm = s.hbm ∧ t.ddr = s.ddr) ∧
    ∀ r : Rgn, s.rget r RGN_EPOCH.lease = 1 → (∀ q < r.val, s.rget q RGN_EPOCH.lease = 0) → s.rget r RGN_EPOCH.drained = 0 →
      s.drain ≠ 0 → s.cad.flipAt + 1000000 ≤ s.now →
      ∃ e, exec (.flipDrainTimeout) s = .next { s with ev := s.ev ++ [e] } ∧ e.code = 0xB3 ∧ e.level = 1 ∧ e.place = r.val ∧
        e.detail = s.drain

/-- R238: a request whose address is not aligned, or whose lines cross 4 KiB, is answered 2; one out of range or for another unit 1; a write
to a signed range 4; an uncorrectable read 3; a read answers OK with the lines of its address, and a write OK with the lines written (a
masked one only the bytes of its mask) and no other byte changed. The reply goes back with the request's tag. A block that waits for a load
gets its bytes and goes on; a refused status is program fault 0x23; with status 3 it keeps waiting. R191: the reply is the request's
acknowledgement. R257: a line that the read corrects counts in the tier's register of corrected errors.
Its conclusion is that `exec` answers a next state, under conditions on state and operands alone, for memRead, memWrite and memReply. -/
def Obligations.MemoryRequests : Prop :=
  (∀ (u : MUnit) (tier unit : Nat) (k : Pkt) (rest : List Pkt) (s : State), endpointTier u = some (tier, unit) →
    (s.unit u).inbox = k :: rest →
    let m : MeshUnit := { s.unit u with inbox := rest }
    let answered := fun (t : State) (st : Nat) (bytes : List Byte) => (∀ x, x ≠ u.val → t.unit x = s.unit x) ∧
      t.unit u = { m.replied k st with sendq := (m.replied k st).sendq ++ [replyTo k st bytes] }
    let answers := fun (c : Instr) (st : Nat) (bytes : List Byte) => ∃ t, exec c s = .next t ∧ t = { s with endpoints := t.endpoints } ∧
      answered t st bytes
    let n := if k.kind = kMEM_READ then leAt k.payload 0 1 % 32 + 1 else if k.isData then k.length + 1 else 1
    let misplaced := k.addr % 64 ≠ 0 ∨ 4096 < k.addr % 4096 + 64 * n
    let absent := s.tiers.inRange tier k.addr = false ∨ s.tiers.inRange tier (k.addr + 64 * n - 1) = false ∨
      namesUnit tier unit k.addr = false
    let guarded := tier = 1 ∧ ∃ i < n, s.tiers.isSigned (hbmKey (k.addr + 64 * i)) = true
    (k.kind = kMEM_READ →
      (misplaced → ∀ hw, answers (.memRead u hw) 2 []) ∧
      (¬ misplaced → absent → ∀ hw, answers (.memRead u hw) 1 []) ∧
      (¬ misplaced → ¬ absent →
        answers (.memRead u .uncorrectable) 3 [] ∧ answers (.memRead u .none) 0 (s.tiers.lines tier k.addr n) ∧
        ∃ t, exec (.memRead u .corrected) s = .next t ∧ answered t 0 (s.tiers.lines tier k.addr n) ∧
          t = { s with endpoints := t.endpoints, regs := t.regs } ∧
          (tier = 1 → t.get (MGR_ECC_CE.count unit) = min (MGR_ECC_CE.count unit).top (s.get (MGR_ECC_CE.count unit) + 1) ∧
            t.get (MGR_ERR_ADDR.kind unit) = 1) ∧
          (tier = 2 → t.get (DDR_ECC_CE.count unit) = min (DDR_ECC_CE.count unit).top (s.get (DDR_ECC_CE.count unit) + 1) ∧
            t.get (DDR_ERR_ADDR.kind unit) = 1))) ∧
    (k.kind = kMEM_WRITE →
      (misplaced → ∀ hw, answers (.memWrite u hw) 2 []) ∧
      (¬ misplaced → absent → ∀ hw, answers (.memWrite u hw) 1 []) ∧
      (¬ misplaced → ¬ absent → guarded → ∀ hw, answers (.memWrite u hw) 4 []) ∧
      (¬ misplaced → ¬ absent → ¬ guarded →
        let key := fun i => if tier = 1 then hbmKey (k.addr + 64 * i) else ddrKey (k.addr + 64 * i)
        let bytesAt := fun (x : State) a => if tier = 1 then x.hbm.byte a else x.ddr.byte a
        (k.isData = false → answers (.memWrite u .uncorrectable) 3 []) ∧
        ∃ t, exec (.memWrite u .none) s = .next t ∧ answered t 0 [] ∧
          (∀ q, t.block q = s.block q) ∧ t.regs = s.regs ∧ (if tier = 1 then t.ddr = s.ddr else t.hbm = s.hbm) ∧
          (∀ a, (∀ i < n, a < key i ∨ key i + 64 ≤ a) → bytesAt t a = bytesAt s a) ∧
          (k.isData = true → t.tiers.lines tier k.addr n = sliceZ k.payload 0 (64 * n)) ∧
          (k.isData = false → ∀ j < 64, bytesAt t (key 0 + j) =
            if nbit (leAt k.payload 64 8) j then (sliceZ k.payload 0 64).getD j 0 else bytesAt s (key 0 + j))))) ∧
  ∀ (p : PBlk) (u : MUnit) (t : Thr) (rd pos off len : Nat) (size : GSize) (got : List Byte) (k : Pkt) (rest : List Pkt) (s : State),
    u.val = p.val →
    (s.block p).mesh.inbox = k :: rest → k.kind = kMEM_REPLY →
    let b := s.block p
    let th := b.thread t
    let m : MeshUnit := { b.mesh with inbox := rest, resend := b.mesh.resend.filter fun h => h.owner != .mem k.tag }
    (b.reqs.find? fun r => r.id == k.tag) = some ⟨k.tag, .load t pos off len⟩ → th.wait = .handle [k.tag] rd size got →
    let gone := b.reqs.filter fun x => x.id != k.tag
    (k.qid = 0 → ∃ v, exec (.memReply u) s = .next v ∧ s.BlockBecomes p [BLK_GRM_STATE.off t, BLK_CNT.off (27 + t)]
      { b with
        mesh := m, reqs := gone,
        threads := mset threadIdle b.threads t { th.load size false rd (putAt got pos (sliceZ k.payload off len)) with
          pc := (th.pc + 1) % 4096, state := 1, wait := .none } } v) ∧
    (k.qid = 3 → ∃ v, exec (.memReply u) s = .next v ∧ s.BlockBecomes p [] { b with mesh := m } v) ∧
    (k.qid ≠ 0 → k.qid ≠ 3 → ∃ v, exec (.memReply u) s = .next v ∧ (v.block p).get (BLK_GRM_STATE.fault t) = 0x23 ∧
      s.BlockBecomes p [BLK_GRM_STATE.off t, BLK_CNT.off 45] { b with
        mesh := m, reqs := gone, threads := mset threadIdle b.threads t { th with state := 5 },
        jobFault := b.jobFault <|> some (10, 0x23) } v)

/-- R247, R254: a call that fails a check, or whose pair of engines is fenced, is answered OUT_OF_RANGE (7); a call to a full queue waits.
R249 to R251: an engine computes the rows of the call at the head of its queue; a GEMV row is the sum over k of vector times weight at the
call's anchor, the last row of an attention the sums of its weights, a gathered row the bytes that its index names, written to the stack
in mode 1. R254: a corrected store or a step that
repeats changes no result; a lasting fault fences the engine and moves its calls to the partner. R248: a completed call's rows go back in order with
rising tags, and enter the caller's queue.
Its conclusion is that `exec` answers a next state, under conditions on state and operands alone, for mgrCall, gemv, decodeAttend, gather,
mgrCallComplete and mgrResult. -/
def Obligations.MangerCalls : Prop :=
  (∀ (k : Stk) (c : Chn) (x : Call) (rest : List Call) (s : State), s.queueOf (32 * k.val + c.val) = x :: rest →
    let e := 32 * k.val + c.val
    let r := x.record
    let l := x.line
    let ch := k.val * 2 ^ 36 + x.chan * 2 ^ 31
    let computes := fun (c : Instr) (out : List (List Byte)) (steps : Nat) =>
      ∃ t, exec c s = .next t ∧ s.ChipBecomes [TST_CHP_TRANSIENT.off] (s.setQueue e ({ x with rows := some out, steps := steps } :: rest)) t
    (x.rows = none → s.fencedEngine k c = false →
      (r.op = 1 → ∀ hw, hw ≠ .lasting → ∃ out, computes (.gemv k c hw) out (l.g * r.k * ceilDiv r.n 128) ∧ out.length = l.g * ceilDiv r.n 64 ∧
        ∀ v < l.g, ∀ j < ceilDiv r.n 64, out[v * ceilDiv r.n 64 + j]? = some (Ap.rowBytes ((List.range 64).map fun i =>
          if r.n ≤ 64 * j + i then Ap.zero
          else (List.range r.k).foldl (fun a q => a.add (Ap.ofProduct (BitVec.ofNat 16 (if nbit l.flags 1 then l.a1 else r.anchor))
            ((vecElem (fmtOr r.afmt) r.k x.vec v q).mul (gemvWeight s.hbm ch r l q (64 * j + i))))) Ap.zero))) ∧
      (r.op = 2 → ∀ hw, hw ≠ .lasting → ∃ out, computes (.decodeAttend k c hw) out (l.g * l.count * (r.k / 64) + ceilDiv (l.g * l.count) 16) ∧
        out.length = l.g * (r.k / 64) + 1 ∧
        out[l.g * (r.k / 64)]? = some (Ap.rowBytes ((List.range 64).map fun i =>
          (List.range (if i < l.g then l.count else 0)).foldl (fun a q => a.add (Ap.ofProduct
            (BitVec.ofNat 16 (if nbit l.flags 1 then l.a3 else r.anchor)) (attendP s.hbm ch r l x.vec i q))) Ap.zero))) ∧
      (r.op = 3 → ∀ hw, hw ≠ .lasting →
        let row := fun i => s.hbm.bytes (ch + r.base + l.off + leAt x.vec (4 * i) 4 * r.rowStep) (64 * r.n)
        (r.mode = 0 → ∃ out, computes (.gather k c hw) out 0 ∧ out.length = l.count ∧ ∀ i < l.count, out[i]? = some (row i)) ∧
        (r.mode = 1 → ∃ t, exec (.gather k c hw) s = .next t ∧ t.queueOf e = { x with rows := some [] } :: rest ∧
          (∀ i < l.count, t.hbm.bytes (k.val * 2 ^ 36 + l.off2 + 64 * r.n * i) (64 * r.n) = row i) ∧
          (∀ a, a < k.val * 2 ^ 36 + l.off2 ∨ k.val * 2 ^ 36 + l.off2 + 64 * r.n * l.count ≤ a → t.hbm.byte a = s.hbm.byte a) ∧
          s.ChipBecomes [TST_CHP_TRANSIENT.off] { s with hbm := t.hbm, calls := t.calls } t)) ∧
      (1 ≤ r.op → r.op ≤ 3 → s.fencedEngine k (c.val ^^^ 1) = false →
        ∃ t, exec (if r.op = 1 then .gemv k c .lasting else if r.op = 2 then .decodeAttend k c .lasting else .gather k c .lasting) s = .next t ∧ t.fencedEngine k c = true ∧ t.queueOf e = [] ∧
          t.queueOf (32 * k.val + (c.val ^^^ 1)) = s.queueOf (32 * k.val + (c.val ^^^ 1)) ++
            (x :: rest).map (fun y => { y with rows := none }) ∧ t.hbm = s.hbm ∧ t.ddr = s.ddr ∧ (∀ q, t.block q = s.block q))) ∧
    (∀ rows, x.rows = some rows → ∃ t, exec (.mgrCallComplete k c) s = .next t ∧ t.queueOf e = rest ∧
      t.get (MGR_CALLS.count k) = min (MGR_CALLS.count k).top (s.get (MGR_CALLS.count k) + 1) ∧
      t.get (MGR_STEPS.count k) = min (MGR_STEPS.count k).top (s.get (MGR_STEPS.count k) + x.steps) ∧ t.hbm = s.hbm ∧
      (t.unit x.port).sendq = (s.unit x.port).sendq ++ rows.zipIdx.map fun (row, i) => {
        pkt := { kind := kMGR_RESULT, vc := 1, isData := true, qid := l.rq, length := row.length / 64 - 1,
                 tag := l.tag / 65536 * 65536 + (l.tag + i) % 65536, payload := row }, idx := x.srcidx })) ∧
  (∀ (u : MUnit) (k : Nat) (q : Pkt) (rest : List Pkt) (s : State), endpointTier u = some (1, k) → (s.unit u).inbox = q :: rest →
    q.kind = kMGR_CALL →
    let c := nbits q.addr 35 31
    let run := if s.fencedEngine k c then c ^^^ 1 else c
    let answers := fun (t : State) (st : Nat) => t.unit u = ({ s.unit u with inbox := rest } : MeshUnit).answered q st 0 ∧
      t.hbm = s.hbm ∧ t.regs = s.regs
    (s.fencedEngine k c = true → s.fencedEngine k (c ^^^ 1) = true →
      ∃ t, exec (.mgrCall u) s = .next t ∧ answers t 7 ∧ t.calls = s.calls) ∧
    (s.fencedEngine k run = false → 8 ≤ (s.queueOf (32 * k + run)).length → exec (.mgrCall u) s = .next s) ∧
    (s.fencedEngine k run = false → (s.queueOf (32 * k + run)).length < 8 →
      let l := CallLine.ofBytes (sliceZ q.payload 0 64)
      let r := MgrRec.ofBytes (sliceZ (mget (fun _ => []) s.mgrProg (k % 8)) (64 * (l.prog % 64)) 64)
      nbit l.flags 0 = false →
      if q.addr < 2 ^ 41 ∧ nbit q.addr 40 = true ∧ nbit q.addr 39 = false ∧ nbits q.addr 38 36 = k ∧
          callOk r l (q.payload.drop 64) (q.payload.length - 64) (s.tiers.protectedIn k) = true
      then ∃ t, exec (.mgrCall u) s = .next t ∧ answers t 0 ∧ t.queueOf (32 * k + run) = s.queueOf (32 * k + run) ++
        [{ record := r, chan := c, line := l, vec := q.payload.drop 64, srcidx := q.srcidx, port := u }]
      else ∃ t, exec (.mgrCall u) s = .next t ∧ answers t 7 ∧ t.calls = s.calls)) ∧
  ∀ (p : PBlk) (k : Pkt) (rest : List Pkt) (s : State), (s.block p).mesh.inbox = k :: rest → k.kind = kMGR_RESULT →
    (s.block p).gather = [] →
    let b := s.block p
    (b.halted = false → b.tokenBad k.qid k.tag (ceilDiv k.payload.length 64) true = false →
      (b.freeEntryOf k.qid = none → ∃ t, exec (.mgrResult p) s = .next t ∧ s.BlockBecomes p [] b t) ∧
      ∀ e, b.freeEntryOf k.qid = some e → ∃ t matched, exec (.mgrResult p) s = .next t ∧
        (t.block p).queue = b.queue ++ [⟨k.qid, e, k.tag, true, ceilDiv k.payload.length 64, k.src, [], b.mangerArc k.qid, matched, false⟩] ∧
        (t.block p).spad = b.spad.putLines (lineWrites (b.entryAddrs k.qid e (ceilDiv k.payload.length 64)) k.payload) ∧
        (t.block p).mesh = { b.mesh with inbox := rest } ∧ (t.block p).threads = b.threads ∧ s.OnlyBlock p t)

/-- R239, R241: a refresh records the die's temperature and follows it with the rate. R258: with scrubbing off nothing happens; a corrected
line counts in MGR_ECC_CE and stands in MGR_ERR_ADDR, and the channel is done; the last of a stack's 32 channels completes a pass; a
DDR5 line in DDR_ECC_CE and DDR_ERR_ADDR. R259:
enable protects a range that is not signed yet; clearing it clears signed at once; ROWSIG puts the CRC-64 of every unit into the table and
sets signed, and no other byte changes. R356: a retraining that was asked for ends the lease of its channel.
Its conclusion is that `exec` answers a next state, under conditions on state and operands alone, for refresh, scrubBurst, sigRangeEnable,
sigRangeDisable, rowsigComplete and ddr5Retraining. -/
def Obligations.RefreshScrubSign : Prop :=
  ∀ s : State,
    (∀ (k : Stk) (temp : BitVec 8), ∃ t, exec (.refresh ⟨k.val, by omega⟩ temp) s = .next t ∧ t.get (MGR_STATUS.temp k) = temp.toNat ∧
      t.get (MGR_STATUS.refresh k) = (if temp.toNat ≤ 85 then 0 else if temp.toNat ≤ 95 then 1 else 2) ∧
      s.ChipBecomes [MGR_STATUS.off k] s t) ∧
    (∀ (c : DCh) (temp : BitVec 8), ∃ t, exec (.refresh ⟨8 + c.val, by omega⟩ temp) s = .next t ∧
      t.get (DDR_STATUS.temp c) = temp.toNat ∧ t.get (DDR_STATUS.refresh c) = (if temp.toNat ≤ 85 then 0 else 1) ∧
      s.ChipBecomes [DDR_STATUS.off c] s t) ∧
    (∀ (k : Stk) (c : Chn), (s.get (MGR_CTL.scrub_en k) = 0 → ∀ bad, exec (.scrubBurst (some k) c bad) s = .next s) ∧
      (s.get (MGR_CTL.scrub_en k) = 1 → s.leaseFree 3 (32 * k.val + c.val) = true → s.sigMiss k c = [] →
        let done := mget natZero s.scrubbed k ||| 2 ^ c.val
        let next := fun (n : Nat) => { s with scrubbed := mset natZero s.scrubbed k n }
        (done ≠ 2 ^ 32 - 1 → exec (.scrubBurst (some k) c none) s = .next (next done)) ∧
        (done = 2 ^ 32 - 1 → ∃ t, exec (.scrubBurst (some k) c none) s = .next t ∧
          t.get (MGR_STATUS.passes k) = min (MGR_STATUS.passes k).top (s.get (MGR_STATUS.passes k) + 1) ∧ s.ChipBecomes [MGR_STATUS.off k] (next 0) t) ∧
        ∀ a, done ≠ 2 ^ 32 - 1 → ∃ t, exec (.scrubBurst (some k) c (some a)) s = .next t ∧
          t.get (MGR_ECC_CE.count k) = min (MGR_ECC_CE.count k).top (s.get (MGR_ECC_CE.count k) + 1) ∧ t.get (MGR_ERR_ADDR.valid k) = 1 ∧
          t.get (MGR_ERR_ADDR.kind k) = 1 ∧
          t.get (MGR_ERR_ADDR.addr k) = k.val * 2 ^ 36 + c.val * 2 ^ 31 + a % 2 ^ 31 / 64 * 64 ∧
          s.ChipBecomes [MGR_ECC_CE.off k, MGR_ERR_ADDR.off k] (next done) t)) ∧
    (∀ (c : Chn) (a : Nat), c.val < 12 → s.get (DDR_STATUS.trained c) = 1 → ∃ t, exec (.scrubBurst none c (some a)) s = .next t ∧
      t.get (DDR_ECC_CE.count c) = min (DDR_ECC_CE.count c).top (s.get (DDR_ECC_CE.count c) + 1) ∧ t.get (DDR_ERR_ADDR.valid c) = 1 ∧
      t.get (DDR_ERR_ADDR.kind c) = 1 ∧ t.get (DDR_ERR_ADDR.addr c) = c.val * 2 ^ 38 + a % 2 ^ 38 / 64 * 64 ∧
      s.ChipBecomes [DDR_ECC_CE.off c, DDR_ERR_ADDR.off c] s t) ∧
    (∀ (k : Stk) (j : Fin 16),
      (s.get (MGR_SIG_RANGE.enable k j) = 0 → ∃ t, exec (.sigRangeEnable k j) s = .next t ∧ t.get (MGR_SIG_RANGE.enable k j) = 1 ∧
        t.get (MGR_SIG_RANGE.signed k j) = 0 ∧ s.ChipBecomes [MGR_SIG_RANGE.off k j] s t) ∧
      (∃ t, exec (.sigRangeDisable k j) s = .next t ∧ t.get (MGR_SIG_RANGE.enable k j) = 0 ∧ t.get (MGR_SIG_RANGE.signed k j) = 0 ∧
        s.ChipBecomes [MGR_SIG_RANGE.off k j] s t) ∧
      (s.get (MGR_SIG_RANGE.enable k j) = 1 → s.get (MGR_SIG_RANGE.signed k j) = 0 →
        let base := k.val * 2 ^ 36 + s.get (MGR_SIG_RANGE.base k j) * 1024
        let table := k.val * 2 ^ 36 + s.get (MGR_SIG_TABLE.addr k j)
        let units := s.get (MGR_SIG_RANGE.units k j)
        table + 8 * units ≤ base ∨ base + 1024 * units ≤ table →
        ∃ t, exec (.rowsigComplete k j) s = .next t ∧ t.get (MGR_SIG_RANGE.signed k j) = 1 ∧
          (∀ i < units, leNat (t.hbm.bytes (table + 8 * i) 8) = (crc64 (t.hbm.bytes (base + 1024 * i) 1024)).toNat) ∧
          (∀ a, a < table ∨ table + 8 * units ≤ a → t.hbm.byte a = s.hbm.byte a) ∧
          s.ChipBecomes [MGR_SIG_RANGE.off k j] { s with hbm := t.hbm } t)) ∧
    ∀ c : DCh, s.get (DDR_STATUS.trained c) = 1 → s.leaseHeld 5 c = true →
      ∃ t, exec (.ddr5Retraining c) s = .next t ∧ t.leaseHeld 5 c = false ∧
        mget natZero t.trainTemp c = s.get (DDR_STATUS.temp c) ∧
        s.ChipBecomes [LSE_HELD.off, LSE_WAITING.off] { s with trainTemp := t.trainTemp, leases := t.leases } t

/-- R257, R260: an uncorrectable HBM4 line counts in MGR_ECC_UE, a signature mismatch in MGR_SIGMISS, a DDR5 line in DDR_ECC_UE; its linear
address stands in the error register, and the row enters the stud book. Outside every area of the committed image that is all (the model's choice,
log entry 31). In a signed area the ranges that cover the line, or whose table does, start ROWSIG again; in an area whose loss cannot be
made good, the job of a device without a twin is to end with MEMORY_LOST.
Its conclusion is that `exec` answers a next state, under conditions on state and operands alone, for uncorrectableError. -/
def Obligations.UncorrectableErrors : Prop :=
  ∀ (addr : Nat) (s : State), s.released = true → s.stud.length < studRoom →
    let a := addr / 64 * 64
    (hbmOk a = true →
      let k := nbits a 38 36
      let booked := { s with stud := s.stud ++ [⟨4, a, 1, s.now⟩] }
      let marks := fun (t : State) (kind : Nat) => t.get (MGR_ERR_ADDR.valid k) = 1 ∧ t.get (MGR_ERR_ADDR.kind k) = kind ∧
        t.get (MGR_ERR_ADDR.addr k) = hbmKey a
      (s.areaOf 1 a = none →
        (∃ t, exec (.uncorrectableError false addr false none) s = .next t ∧ marks t 2 ∧
          t.get (MGR_ECC_UE.count k) = min (MGR_ECC_UE.count k).top (s.get (MGR_ECC_UE.count k) + 1) ∧
          s.ChipBecomes [MGR_ECC_UE.off k, MGR_ERR_ADDR.off k] booked t) ∧
        ∃ t, exec (.uncorrectableError false addr true none) s = .next t ∧ marks t 3 ∧
          t.get (MGR_SIGMISS.count k) = min (MGR_SIGMISS.count k).top (s.get (MGR_SIGMISS.count k) + 1) ∧
          s.ChipBecomes [MGR_SIGMISS.off k, MGR_ERR_ADDR.off k] booked t) ∧
      ∀ x, s.areaOf 1 a = some x → ∀ miss,
        (x.cls = 1 → s.twinned = false → s.hasJob = true → s.jobFault = none →
          ∃ t, exec (.uncorrectableError false addr miss none) s = .next t ∧ t.jobFault = some (stMEMORY_LOST, 0xBE) ∧
            t.stud = booked.stud ∧ t.hbm = s.hbm ∧ t.ddr = s.ddr ∧ ∀ q, t.block q = s.block q) ∧
        (x.cls = 3 → ∃ t, exec (.uncorrectableError false addr miss none) s = .next t ∧ t.stud = booked.stud ∧ t.hbm = s.hbm ∧
          ∀ j : Fin 16,
            let o := hbmKey a % 2 ^ 36
            let base := s.get (MGR_SIG_RANGE.base k j) * 1024
            let table := s.get (MGR_SIG_TABLE.addr k j)
            let n := s.get (MGR_SIG_RANGE.units k j)
            t.get (MGR_SIG_RANGE.signed k j) =
              if (base ≤ o ∧ o < base + 1024 * n) ∨ (table ≤ o ∧ o < table + 8 * n) then 0 else s.get (MGR_SIG_RANGE.signed k j))) ∧
    (s.tiers.ddrOk a = true → (ddrPlace a).1 < 12 → s.areaOf 2 a = none →
      ∃ t i, exec (.uncorrectableError true addr false none) s = .next t ∧
        t.get (DDR_ECC_UE.count (ddrPlace a).1) = min (DDR_ECC_UE.count (ddrPlace a).1).top (s.get (DDR_ECC_UE.count (ddrPlace a).1) + 1) ∧
        t.get (DDR_ERR_ADDR.kind (ddrPlace a).1) = 2 ∧ t.get (DDR_ERR_ADDR.addr (ddrPlace a).1) = ddrKey a ∧
        s.ChipBecomes [DDR_ECC_UE.off (ddrPlace a).1, DDR_ERR_ADDR.off (ddrPlace a).1]
          { s with stud := s.stud ++ [⟨4, 2 ^ 44 + a, 1, s.now⟩], images := i } t)

/-- R278, R282: op 1 is accepted in Held and Ready with nothing being read and a staging address that is a multiple of 4,096 and installed:
the committed image is withdrawn, no block is in service, and the new image is read, hold code 0x01. Busy is result 2, the wrong state 1, a
bad address 3, and then nothing else changes. R279: a load whose checks failed, or whose resident copy could not be read (0x40, every line
zero, R484), leaves the device Held with its code and detail. R278, R47: a load that passes in Held ends Ready with its sequence, seeds,
epoch 0, the period, outside synchronisation at least the least one of its regions' voltages, and the voltages that it names waiting for
the next checkpoint stride (R31). R282: op 4 withdraws in Ready, hold code 0x02; R32: with no image the period is 4,000 ns.
Its conclusion is that `exec` answers a next state, under conditions on state and operands alone, for imageLoad, imageCommit and imageWithdraw. -/
def Obligations.ImageLoadAndCommit : Prop :=
  ∀ s : State,
    let refuses := fun (c : Instr) (r : Nat) => ∃ t, exec c s = .next t ∧ t.get CHP_IMG_STATUS.op_result = r ∧
      s.ChipBecomes [CHP_IMG_CTL.off, CHP_IMG_STATUS.off] s t
    let empty := fun (t : State) => t.dev = 2 ∧ t.images.committed = none ∧ t.images.staged = none ∧
      t.get CHP_IMG_SEQ.sequence = 0 ∧ t.get CHP_IMG_STATUS.stage = 0 ∧ t.get CHP_IMG_STATUS.op_result = 0 ∧
      t.get CAD_PERIOD.current = (if s.synced = true then s.get CAD_PERIOD.current else 4000) ∧
      (∀ p < 1280, (t.rmtOf p).state ≠ 0 ∧ (t.rmtOf p).lblock = 0x7FF) ∧ t.hbm = s.hbm ∧ t.ddr = s.ddr
    (s.imgBusy = true → refuses .imageLoad 2 ∧ refuses .imageWithdraw 2) ∧
    (s.imgBusy = false →
      (s.dev ≠ 2 ∧ s.dev ≠ 3 → refuses .imageLoad 1) ∧ (s.dev ≠ 3 → refuses .imageWithdraw 1) ∧
      (s.dev = 3 → ∃ t, exec .imageWithdraw s = .next t ∧ empty t ∧ t.images.loading = none ∧ t.get CHP_HOLD_REASON.code = 0x02) ∧
      ((s.dev = 2 ∨ s.dev = 3) →
        (s.imgAddrOk = false → refuses .imageLoad 3) ∧
        (s.imgAddrOk = true → ∃ t bad, exec .imageLoad s = .next t ∧ empty t ∧ t.get CHP_IMG_STATUS.load = 1 ∧
          t.get CHP_HOLD_REASON.code = 0x01 ∧
          t.images.loading = some (Img.read s.tiers (s.get CHP_IMG_ADDR.addr), bad)))) ∧
    (∀ i bad, s.dev = 2 → s.images.loading = some (i, bad) →
      let refused := fun (f : Option (LBlk × Hdl)) (h : Hold) (blocks : Cells Block) => ∃ t, exec (.imageCommit f) s = .next t ∧
        t.get CHP_IMG_STATUS.load = 3 ∧ t.get CHP_HOLD_REASON.code = h.code % 256 ∧ t.get CHP_HOLD_REASON.sub = h.sub % 256 ∧
        t.get CHP_HOLD_REASON.section = h.dirIdx % 256 ∧ t.get CHP_HOLD_REASON.lblock = h.lblock % 4096 ∧
        t.get CHP_HOLD_REASON.index = h.index % 65536 ∧
        s.ChipBecomes [CHP_HOLD_REASON.off, CHP_IMG_STATUS.off] { s with
          images := { s.images with loading := none }, blocks := blocks } t
      (∀ f h, bad = some h → refused f h s.blocks) ∧
      (bad = none →
        (∀ (l : LBlk) (h : Hdl), refused (some (l, h)) { code := 0x40, lblock := l, index := h }
          (s.blocks.map fun (p, b) => (p, { b with spad := [], gather := [] }))) ∧
        ((s.installImage i (s.place i fun _ => 0).2).1 = none →
          ∃ t, exec (.imageCommit none) s = .next t ∧ t.dev = 3 ∧ t.images.committed = some i ∧ t.images.loading = none ∧
            t.get CHP_IMG_STATUS.load = 2 ∧ t.get CHP_HOLD_REASON.code = 0 ∧ t.get CHP_IMG_SEQ.sequence = i.sequence % 2 ^ 64 ∧
            (∀ j < 4, t.get (CAD_SEED.seed j) = leAt (i.part 3 0 0xFFFF) (8 * j) 8 % 2 ^ 64) ∧
            (∀ r < 16, t.rget r RGN_EPOCH.epoch = 0) ∧
            t.get CAD_PERIOD.required_min = i.minPeriod s.volt % 2 ^ 20 ∧
            t.get CAD_PERIOD.current = (if s.synced = true then i.period else max i.period (i.minPeriod s.volt)) % 2 ^ 20 ∧
            t.power = { s.power with load := some ((List.range 16).map (s.imageVolt i)) } ∧ t.hbm = s.hbm ∧ t.ddr = s.ddr)))

/-- R283: op 2 is accepted in Ready and Running and reads the new image while the committed one stays; staging ends staged, or with the
code of the check that failed. R284: op 3 drops a staged image until the quiet wait begins. R284, R285: with every acknowledgement of the
stride before the swap's in, the swap lease is taken and the quiet wait begins; without quiet nothing happens for 1 ms, then the swap is
put off by 256 strides, and the third time it ends with 0x55.
Its conclusion is that `exec` answers a next state, under conditions on state and operands alone, for imageStage, stageComplete, stageCancel,
swapQuietWait and swapQuietTimeout. -/
def Obligations.StagedSwaps : Prop :=
  ∀ s : State,
    let refuses := fun (c : Instr) (r : Nat) => ∃ t, exec c s = .next t ∧ t.get CHP_IMG_STATUS.op_result = r ∧
      s.ChipBecomes [CHP_IMG_CTL.off, CHP_IMG_STATUS.off] s t
    (s.imgBusy = true → refuses .imageStage 2 ∧ refuses .stageCancel 2) ∧
    (s.imgBusy = false →
      (s.dev ≠ 3 → s.dev ≠ 4 → ∃ t, exec .imageStage s = .next t ∧ t.get CHP_IMG_STATUS.op_result = 1 ∧
        t.get CHP_SWAP_STATUS.result = 0x50 ∧ s.ChipBecomes [CHP_IMG_CTL.off, CHP_IMG_STATUS.off, CHP_SWAP_STATUS.off] s t) ∧
      (s.dev = 3 ∨ s.dev = 4 → 3 ≤ s.get CHP_IMG_STATUS.stage → refuses .imageStage 2) ∧
      (s.dev = 3 ∨ s.dev = 4 → s.get CHP_IMG_STATUS.stage < 3 →
        (s.imgAddrOk = false → refuses .imageStage 3) ∧
        (s.imgAddrOk = true → ∃ t bad, exec .imageStage s = .next t ∧ t.get CHP_IMG_STATUS.op_result = 0 ∧
          t.get CHP_IMG_STATUS.stage = 1 ∧ t.get CHP_SWAP_STATUS.deferrals = 0 ∧
          s.ChipBecomes [CHP_IMG_CTL.off, CHP_IMG_STATUS.off, CHP_SWAP_STATUS.off] { s with
            images := { s.images with staging := some (Img.read s.tiers (s.get CHP_IMG_ADDR.addr), bad), staged := none } } t)) ∧
      (s.get CHP_IMG_STATUS.stage = 2 → ∃ t, exec .stageCancel s = .next t ∧ t.get CHP_IMG_STATUS.op_result = 0 ∧
        t.get CHP_IMG_STATUS.stage = 0 ∧ t.get CHP_SWAP_STATUS.result = 0x56 ∧
        s.ChipBecomes [CHP_IMG_CTL.off, CHP_IMG_STATUS.off, CHP_SWAP_STATUS.off]
          { s with images := { s.images with staged := none, swapTick := none } } t) ∧
      (s.get CHP_IMG_STATUS.stage ≠ 2 → refuses .stageCancel 1)) ∧
    (∀ i bad, s.images.staging = some (i, bad) → ∃ t, exec .stageComplete s = .next t ∧
      t.get CHP_IMG_STATUS.stage = (if bad = none then 2 else 0) ∧
      t.get CHP_SWAP_STATUS.result = ((bad.map Hold.code).getD 0) % 256 ∧
      s.ChipBecomes [CHP_IMG_STATUS.off, CHP_SWAP_STATUS.off]
        { s with images := { s.images with staging := none, staged := if bad = none then some i else none } } t) ∧
    (s.cad.done = false → exec .swapQuietWait s = .next s) ∧
    (s.pairedIn 1 = false → s.cad.done = true → s.get CAD_CTL.phase = 0 → s.dev ≠ 5 → s.get CHP_IMG_STATUS.stage = 2 →
      s.get CHP_SWAP_AT.stride = s.nextStride → s.nextStride ≠ 0 → s.leaseFree 10 0 = true →
      ∃ t, exec .swapQuietWait s = .next t ∧ t.get CHP_IMG_STATUS.stage = 3 ∧ t.leaseHeld 10 0 = true ∧
        s.ChipBecomes [CHP_IMG_STATUS.off, LSE_HELD.off, LSE_WAITING.off]
          { s with leases := t.leases, images := { s.images with quietAt := s.now } } t) ∧
    (s.get CHP_IMG_STATUS.stage = 3 →
      (s.now < s.images.quietAt + 1000000 → exec .swapQuietTimeout s = .next s) ∧
      (s.images.quietAt + 1000000 ≤ s.now →
        (s.get CHP_SWAP_STATUS.deferrals ≠ 2 → s.get CHP_SWAP_STATUS.deferrals < 255 →
          ∃ t, exec .swapQuietTimeout s = .next t ∧ t.get CHP_IMG_STATUS.stage = 2 ∧
            t.get CHP_SWAP_AT.stride = (s.get CHP_SWAP_AT.stride + 256) % 2 ^ 64 ∧
            t.get CHP_SWAP_STATUS.deferrals = s.get CHP_SWAP_STATUS.deferrals + 1 ∧ t.leaseHeld 10 0 = false ∧
            s.ChipBecomes [CHP_IMG_STATUS.off, CHP_SWAP_AT.off, CHP_SWAP_STATUS.off, LSE_HELD.off, LSE_WAITING.off]
              { s with leases := t.leases, images := { s.images with swapTick := none } } t) ∧
        (s.get CHP_SWAP_STATUS.deferrals = 2 → ∃ t, exec .swapQuietTimeout s = .next t ∧ t.get CHP_IMG_STATUS.stage = 0 ∧
          t.get CHP_SWAP_STATUS.result = 0x55 ∧ t.images.staged = none ∧ t.leaseHeld 10 0 = false ∧
          s.ChipBecomes [CHP_IMG_STATUS.off, CHP_SWAP_STATUS.off, LSE_HELD.off, LSE_WAITING.off]
            { s with leases := t.leases, images := t.images } t)))

/-- R285, R286: while a block holds work, or before the quiet wait, SWAP_QUIET changes nothing. Once quiet in a device that is no Mirror
twin, the staged image is loaded while the beat waits: stage 4, and its beat is due at the first tick 6 ms on or after the load, whose length
is free (log entry 14); the image takes effect with that beat (log entry 11). An image whose tables cannot be formed ends the swap with its
code (R279). R427: an activation that waits for quiet holds the beat for 5 ms.
Its conclusion is that `exec` answers a next state, under conditions on state and operands alone, for swapQuiet. -/
def Obligations.SwapLoads : Prop :=
  ∀ s : State,
    (s.swapIsQuiet = false → exec .swapQuiet s = .next s) ∧
    (s.get CHP_IMG_STATUS.stage ≠ 3 → s.far.actStage ≠ 1 → exec .swapQuiet s = .next s) ∧
    (s.swapIsQuiet = true → s.pairedIn 1 = false →
      (∀ i, s.get CHP_IMG_STATUS.stage = 3 → s.images.staged = some i →
        ((s.installImage i (s.place i fun _ => 0).2).1 = none →
          let us := Config.swapLoadUs s.freeCtr
          let tick := s.tickOf (s.nextStride + ceilDiv 6000000 (s.get CAD_PERIOD.current))
          ∃ t, exec .swapQuiet s = .next t ∧ t.get CHP_IMG_STATUS.stage = 4 ∧ t.get CHP_SWAP_STATUS.load_us = min us 65535 ∧
            s.ChipBecomes [CHP_IMG_STATUS.off, CHP_SWAP_STATUS.off] { s with
              freeCtr := s.freeCtr + 1,
              images := { s.images with swapTick := some (max tick (s.now + 1000 * us)), swapDue := tick } } t) ∧
        ∀ h, (s.installImage i (s.place i fun _ => 0).2).1 = some h →
          ∃ t, exec .swapQuiet s = .next t ∧ t.get CHP_IMG_STATUS.stage = 0 ∧ t.get CHP_SWAP_STATUS.result = h.code % 256 ∧
            t.leaseHeld 10 0 = false ∧
            s.ChipBecomes [CHP_IMG_STATUS.off, CHP_SWAP_STATUS.off, CHP_HOLD_REASON.off, LSE_HELD.off, LSE_WAITING.off]
              { s with leases := t.leases, images := { s.images with staged := none, swapTick := none } } t) ∧
      (s.get CHP_IMG_STATUS.stage ≠ 3 → s.far.actStage = 1 →
        exec .swapQuiet s = .next { s with
          far := { s.far with actStage := 2 },
          cad := { s.cad with hold := some (s.tickOf (s.nextStride + ceilDiv 5000000 (s.get CAD_PERIOD.current))) } }))

/-- R308, R310: in a region whose voltage or junction does not fit no slice starts; else an idle spare that is due starts the slice whose pass
time is oldest, under its BIST lease; slices 20 to 23 run the active pack's records (R322). R307, R308: a slice whose conditions have failed is
discarded; R309: one that passes, with its records, sets its pass time to its start; one that fails runs again, and one that fails again puts the block in quarantine (R326), fenced. R305: a tested bank is zero at the end.
R327 to R329: a diagnostic run without a failure counts, the sixteenth in a row makes the block a spare again; a failure that no spare line
can replace retires it.
Its conclusion is that `exec` answers a next state, under conditions on state and operands alone, for bistSliceStart, bistSliceEnd and
diagnosticRunEnd. -/
def Obligations.SlicesOfASpare : Prop :=
  ∀ (p : PBlk) (s : State),
    let r := regionOf p
    let b := s.block p
    (s.sliceFit r = false → exec (.bistSliceStart p) s = .next s) ∧
    ((s.rmtOf p).state = 1 → b.slice = none → s.dev = dReady → s.rget r TST_RGN_CFG.bist_en = 1 → 1 ≤ s.stage p → s.sliceFit r = true →
      s.leaseFree 0 p = true → ∃ k t, exec (.bistSliceStart p) s = .next t ∧
        k < 24 ∧ (∀ j < 24, mget natZero b.passTimes k ≤ mget natZero b.passTimes j) ∧
        t.block p = { b.set TST_BLK_STATE.slice k with
          slice := some (k, s.now, false), sliceSpoilt := false, recordBad := if 20 ≤ k then packFails s.far.pack k else none } ∧ (t.rmtOf p).state = 6 ∧
        t.leaseHeld 0 p = true ∧ ∀ q, q ≠ p.val → t.block q = s.block q ∧ t.rmtOf q = s.rmtOf q) ∧
    (∀ k start again place, b.slice = some (k, start, again) → k < 24 → (s.rmtOf p).state = 6 → (s.rmtOf p).lblock = 0x7FF →
      let ended := fun (t : State) (result : Nat) => (t.block p).get TST_BLK_RESULT.result = result ∧ (t.block p).get TST_BLK_RESULT.slice = k ∧
        (t.block p).get TST_BLK_RESULT.attempt = b2n again ∧ (t.block p).slice = none ∧ (t.block p).get TST_BLK_STATE.slice = 31 ∧
        t.leaseHeld 0 p = false ∧ (∀ q, q ≠ p.val → t.block q = s.block q ∧ t.rmtOf q = s.rmtOf q) ∧
        (k < 8 → ∀ a, (t.block p).spad.byte a = if 65536 * k ≤ a ∧ a < 65536 * (k + 1) then 0 else b.spad.byte a)
      (s.sliceVoid p k start = true → ∀ ok, ∃ t, exec (.bistSliceEnd p ok place) s = .next t ∧ ended t 3 ∧ (t.rmtOf p).state = 1 ∧
        (t.block p).passTimes = b.passTimes ∧ t.rget r TST_RGN_DISCARDED.count = min TST_RGN_DISCARDED.count.top (s.rget r TST_RGN_DISCARDED.count + 1)) ∧
      (s.sliceVoid p k start = false → ∀ pass,
        let ok : Bool := pass && b.recordBad.isNone
        (ok = true → ∃ t, exec (.bistSliceEnd p pass place) s = .next t ∧ ended t 1 ∧ (t.rmtOf p).state = 1 ∧
          (∀ j, mget natZero (t.block p).passTimes j = if j = k then start else mget natZero b.passTimes j) ∧
          t.get TST_CHP_TRANSIENT.count = (if again then
            min TST_CHP_TRANSIENT.count.top (s.get TST_CHP_TRANSIENT.count + 1) else s.get TST_CHP_TRANSIENT.count)) ∧
        (ok = false → again = false → ∃ t, exec (.bistSliceEnd p pass place) s = .next t ∧ (t.block p).get TST_BLK_RESULT.result = 2 ∧
          (t.block p).slice = some (k, start, true) ∧ (t.block p).spad = b.spad ∧ t.rmt = s.rmt ∧ t.leases = s.leases) ∧
        (ok = false → again = true → ∃ t, exec (.bistSliceEnd p pass place) s = .next t ∧ ended t 2 ∧ (t.rmtOf p).state = 3 ∧
          (t.block p).fenced = true ∧ t.get TST_CHP_LASTING.count = min TST_CHP_LASTING.count.top (s.get TST_CHP_LASTING.count + 1)))) ∧
    ((s.rmtOf p).state = 3 → 24 ≤ b.diag.length →
      let n := b.get TST_BLK_STATE.clean_runs
      ((∀ d ∈ b.diag, d.2.1 = true) → n < 15 → ∃ t, exec (.diagnosticRunEnd p) s = .next t ∧ t.rmtOf p = s.rmtOf p ∧
        t.block p = { b.set TST_BLK_STATE.clean_runs (n + 1) with diag := [] }) ∧
      ((∀ d ∈ b.diag, d.2.1 = true) → n = 15 → ∃ t, exec (.diagnosticRunEnd p) s = .next t ∧ (t.rmtOf p).state = 1 ∧
        (t.rmtOf p).lblock = 0x7FF ∧ (t.block p).fenced = false ∧ (t.block p).get MSH_CTL.mode = 0 ∧ (t.block p).get TST_BLK_STATE.clean_runs = 16) ∧
      ((∃ d ∈ b.diag, d.2.1 = false ∧ failBank d.2.2 = none) → ∃ t, exec (.diagnosticRunEnd p) s = .next t ∧ (t.rmtOf p).state = 4 ∧
        (t.rmtOf p).lblock = 0x7FF ∧ (t.block p).get TST_BLK_STATE.health = 3))

/-- R316: at a time when it may run, a slice of an engine that passes sets its pass time to the present; two failures, or a record of the pack that does not pass
(R322), fence the engine; of a
fenced engine R330 counts the slices that pass in order, and starts again after a failure. R314: a unit whose test has lapsed is reported
once. R331: with every unit inside its deadline, no lasting fault in the sweep's time and no record in the last minute, the sweep enters the stud book
with its duration; else only TST_CHP_SWEEP follows.
Its conclusion is that `exec` answers a next state, under conditions on state and operands alone, for mangerSlice, testLapsed and chipSweepRecord. -/
def Obligations.EnginesAndSweep : Prop :=
  ∀ s : State,
    (∀ (k : Stk) (c : Chn) (j : Fin 4), let e := 32 * k.val + c.val
      let temp := signed 32 (s.sensor (112 + k.val))
      s.leaseFree 4 e = true → 0 ≤ temp → temp ≤ 1600 →
      let records := j.val = 3 → packFails s.far.pack 3 = none
      (s.fencedEngine k c = false → s.fencedEngine k (c.val ^^^ 1) = false → 2 ≤ stageOf (s.engineAge e) (s.deadline 0) →
        (records → ∃ t, exec (.mangerSlice k c j true false) s = .next t ∧ t = { s with screen := { s.screen with engines := t.screen.engines } } ∧
          ∀ i, mget natZero t.screen.engines i = if i = 4 * e + j.val then s.now else mget natZero s.screen.engines i) ∧
        (records → ∃ t, exec (.mangerSlice k c j false true) s = .next t ∧ mget natZero t.screen.engines (4 * e + j.val) = s.now ∧
          t.get TST_CHP_TRANSIENT.count = min TST_CHP_TRANSIENT.count.top (s.get TST_CHP_TRANSIENT.count + 1) ∧
          t.fencedEngine k c = false) ∧
        ∀ ok1 ok2, (ok1 = false ∧ ok2 = false ∨ ¬ records) → ∃ t, exec (.mangerSlice k c j ok1 ok2) s = .next t ∧ t.fencedEngine k c = true ∧
          t.screen = { s.screen with lastingAt := some s.now } ∧
          t.get TST_CHP_LASTING.count = min TST_CHP_LASTING.count.top (s.get TST_CHP_LASTING.count + 1)) ∧
      (s.fencedEngine k c = true → (∀ x ∈ s.stud, ¬ (x.kind = 5 ∧ x.place = e ∧ x.info = 2)) → mget natZero s.screen.clean e < 64 →
        mget natZero s.screen.clean e % 4 = j.val →
        (records → ∃ t, exec (.mangerSlice k c j true true) s = .next t ∧ mget natZero t.screen.clean e = mget natZero s.screen.clean e + 1 ∧
          t.fencedEngine k c = true) ∧
        ∃ t, exec (.mangerSlice k c j false false) s = .next t ∧ mget natZero t.screen.clean e = 0 ∧ t.fencedEngine k c = true)) ∧
    (∀ u : Fin 1536, u.val ∈ s.screen.lapsed → exec (.testLapsed u) s = .next s) ∧
    (∀ u : Fin 1536, u.val ∉ s.screen.lapsed →
      (if u.val < 1280 then s.stage u = 4 ∧ (s.rmtOf u).state ≠ 3 ∧ (s.rmtOf u).state ≠ 4
        else stageOf (s.engineAge (u.val - 1280)) (s.deadline 0) = 4) →
      ∃ t e, exec (.testLapsed u) s = .next t ∧ t.screen = { s.screen with lapsed := u.val :: s.screen.lapsed } ∧
        t.ev = s.ev ++ [e] ∧ e.code = 0xB5 ∧ e.detail = 1 ∧ e.detail2 = u.val) ∧
    (let us := s.sweepUnits
     let d := us.foldl (fun a x => max a x.1) 0
     us ≠ [] → ∃ t, exec .chipSweepRecord s = .next t ∧
      (t.get TST_CHP_SWEEP.coverage_bp = 10000 ↔ ∀ x ∈ us, x.1 < x.2) ∧ t.get TST_CHP_SWEEP.duration_ms = min 0xFFFFFFFF (d / 1000000) ∧
      ((∀ x ∈ us, x.1 < x.2) → (∀ x ∈ s.stud, x.kind = 7 → x.at_ + 60000000000 ≤ s.now) → (∀ at_, s.screen.lastingAt = some at_ → at_ + d < s.now) →
        s.stud.length < 131072 → d ≤ s.now →
        t.stud = s.stud ++ [⟨7, 0, d, s.now⟩] ∧ t.screen.sweepAt = some (s.now - d)) ∧
      ((∃ x ∈ us, x.2 ≤ x.1) → t.stud = s.stud ∧ t.screen = s.screen))

/-- R312, R315: the block of a region that comes first gets a free spare of its region, whose age is below half the deadline, for the next
checkpoint stride, and the swap counts; with no spare, or where the tables of its flip cannot be formed, it waits. R313: an overdue block with no spare is tested in place at a checkpoint stride whose beat then waits for the
programmed tick of S + ⌈2,000,000 / P⌉; while synchronised the device only raises an event. R319, R333: a sample that agrees counts and frees its
spare; a retry that agrees is a transient, and a block whose own value has changed becomes the suspect; no answer within 1 ms has no effect
yet.
Its conclusion is that `exec` answers a next state, under conditions on state and operands alone, for plannedSwap, preemptInPlace and shadowVerdict. -/
def Obligations.SwapsAndShadows : Prop :=
  ∀ (p : PBlk) (s : State), let r := regionOf p
    (s.dev = dRunning → (s.rmtOf p).state = 0 → 2 ≤ s.stage p → s.screen.plans = [] → s.swapFirst p = true →
      s.leaseFree 2 r = true → s.leaseFree 6 0 = true →
      (s.swapSpare p = none → exec (.plannedSwap p) s = .next s) ∧
      ∀ q, s.swapSpare p = some q → regionOf q = r ∧ q < 1280 ∧ (s.rmtOf q).lblock = 0x7FF ∧ s.stage q < 2 ∧
        let ready := ((s.acquire { code := 2, res := r } true).1.remountTo p q (s.lblockAt p)).tablesForm
        (ready = false → exec (.plannedSwap p) s = .next s) ∧
        (ready = true → ∃ t, exec (.plannedSwap p) s = .next t ∧ t.screen.plans = [⟨p, some q, (s.get CAD_STRIDE.stride / 256 + 1) * 256⟩] ∧
          (t.rmtOf q).pending = true ∧ (t.rmtOf q).next = (s.rmtOf p).lblock ∧ (∀ x, x ≠ q → t.rmtOf x = s.rmtOf x) ∧
          t.leaseHeld 2 r = true ∧ t.rget r TST_RGN_SWAPS.count = min TST_RGN_SWAPS.count.top (s.rget r TST_RGN_SWAPS.count + 1))) ∧
    (s.dev = dRunning → (s.rmtOf p).state = 0 → 3 ≤ s.stage p → s.swapSpare p = none →
      let c := s.get CAD_STRIDE.stride + 1
      let at_ := s.cad.anchorAt + (c + ceilDiv 2000000 (s.get CAD_PERIOD.current) - s.cad.anchorStride) * s.get CAD_PERIOD.current
      (s.get CAD_SYNC_CTL.enable = 1 → s.get TST_CHP_PREEMPT_AT.stride ≠ c → ∀ ok, ∃ e,
        exec (.preemptInPlace p ok) s = .next { s with ev := s.ev ++ [e] } ∧ e.code = 0xB5 ∧ e.detail2 = p.val) ∧
      (s.get CAD_SYNC_CTL.enable = 0 → c % 256 ≠ 0 → ∀ ok, exec (.preemptInPlace p ok) s = .next s) ∧
      (s.get CAD_SYNC_CTL.enable = 0 → c % 256 = 0 → s.cad.done = true → s.cad.hold = none → mget natZero s.screen.preempted r = 0 →
        s.sliceFit r = true → (∀ q ∈ s.inService, s.age q ≤ s.age p) →
        (20 ≤ (s.block p).oldestSlice → packFails s.far.pack (s.block p).oldestSlice = none) →
        ∃ t k, exec (.preemptInPlace p true) s = .next t ∧ t.cad = { s.cad with hold := some at_ } ∧ t.dev = s.dev ∧ t.rmt = s.rmt ∧
          k < 24 ∧ (∀ j < 24, mget natZero (s.block p).passTimes k ≤ mget natZero (s.block p).passTimes j) ∧
          (∀ j, mget natZero (t.block p).passTimes j = if j = k then s.now else mget natZero (s.block p).passTimes j) ∧
          (t.block p).lblock = (s.block p).lblock ∧ (∀ q, q ≠ p.val → t.block q = s.block q) ∧ mget natZero t.screen.preempted r = c ∧
          t.rget r TST_RGN_PREEMPTS.count = min TST_RGN_PREEMPTS.count.top (s.rget r TST_RGN_PREEMPTS.count + 1))) ∧
    (s.twin.bad = none → ∀ w, (s.screen.shadows.find? fun w => w.block == p.val) = some w → w.spare ≠ p.val →
      let tal := mget (fun _ => 0) (s.block p).tallies w.stride
      let freed := fun (t : State) => t.screen.shadows = s.screen.shadows.erase w ∧ ((s.rmtOf w.spare).state = 5 → (t.rmtOf w.spare).state = 1) ∧
        t.block p = s.block p ∧ t.rget r TST_RGN_SHADOWS.count = min TST_RGN_SHADOWS.count.top (s.rget r TST_RGN_SHADOWS.count + 1)
      let x := s.block w.spare
      let finished := x.stride.toNat = w.stride ∧ x.working = true ∧ x.workDone = true ∧ x.halted = false
      (w.ackAt = none → ∀ u, exec (.shadowVerdict p u) s = .next s) ∧
      ∀ ack, w.ackAt = some ack → (¬ finished → s.now < ack + 1000000 → ∀ u, exec (.shadowVerdict p u) s = .next s) ∧
        ∀ u, finished → u.getD x.tally = tal →
          (w.first = none → ∃ t, exec (.shadowVerdict p u) s = .next t ∧ freed t ∧ mget natZero t.screen.cleanAt p = w.stride) ∧
          ∀ u0 tal0, w.first = some (u0, tal0) → ∃ t, exec (.shadowVerdict p u) s = .next t ∧ freed t ∧
            t.get TST_CHP_TRANSIENT.count = min TST_CHP_TRANSIENT.count.top (s.get TST_CHP_TRANSIENT.count + 1) ∧
            (tal.toNat ≠ tal0 → t.get TST_CHP_SUSPECT.valid = 1 ∧ t.get TST_CHP_SUSPECT.lasting = 0 ∧ t.get TST_CHP_SUSPECT.pblock = p.val))

/-- R338: a completed saddlebag is written whole into its half and valid (R340, R361), and the checkpoint lease of a region ends with its last
one (R356); what has not completed 256 strides after its checkpoint is invalid. R346: a block restores the lines that its saddlebag carries,
takes its logical block and is no longer fenced; step 5 follows the last. R353: outside a job a region that is not down is cleared, and no
other.
Its conclusion is that `exec` answers a next state, under conditions on state and operands alone, for saddlebagComplete, saddlebagInvalid,
blockRestore and regionRecovery. -/
def Obligations.SaddlebagsAndRestores : Prop :=
  ∀ s : State,
    (∀ (p : PBlk) (c : Nat) (bs : List Byte), (s.block p).saddle = some (c, bs) → s.twState ≠ twPAIRED → s.twin.copying = false →
      let l := (s.block p).lblock
      ∃ t, exec (.saddlebagComplete p) s = .next t ∧ (t.block p).saddle = none ∧ t.saddleState l c = 2 ∧
        t.hbm = (s.tiers.putLines 1 (s.saddleAddr l c) (padTo 64 bs)).hbm ∧ t.ddr = s.ddr ∧ (∀ q, q ≠ p.val → t.block q = s.block q) ∧
        ((∀ q ∈ regionBlocks (regionOf p), q ≠ p.val → (s.block q).saddle = none) → t.leaseHeld 11 (regionOf p) = false)) ∧
    (∃ t, exec .saddlebagInvalid s = .next t ∧ t.hbm = s.hbm ∧ t.ddr = s.ddr ∧
      (∀ p, (p ∈ s.inService ∧ ∃ c bs, (s.block p).saddle = some (c, bs) ∧ c + 256 ≤ s.get CAD_STRIDE.stride) → (t.block p).saddle = none ∧
        ∀ c bs, (s.block p).saddle = some (c, bs) →
          (∀ q ∈ s.inService, q ≠ p → (s.block q).lblock ≠ (s.block p).lblock) → t.saddleState (s.block p).lblock c = 3) ∧
      ∀ p, ¬ (p ∈ s.inService ∧ ∃ c bs, (s.block p).saddle = some (c, bs) ∧ c + 256 ≤ s.get CAD_STRIDE.stride) → t.block p = s.block p) ∧
    (∀ p : PBlk, s.rcv.active = true → s.rcv.replaying = false → (s.block p).owes = true →
      (∀ w ∈ s.screen.shadows, w.block ≠ p.val) →
      let x := s.rmtOf p
      let l := if x.pending then x.next else x.lblock
      let bs := s.saddleBytes l s.rcv.from_
      let mapAt := 64 + ceilDiv (leAt bs 32 4) 64 * 64
      ∃ t, exec (.blockRestore p) s = .next t ∧ (t.block p).owes = false ∧ (t.block p).fenced = false ∧ (t.block p).lblock = l ∧
        (t.block p).stride = BitVec.ofNat 64 (leAt bs 8 8) - 1 ∧ (∀ q, q ≠ p.val → t.block q = s.block q) ∧ t.rmt = s.rmt ∧
        (∀ i line, ((List.range 8192).filter fun l => nbit (leAt bs mapAt 1024) l)[i]? = some line →
          (t.block p).spad.bytes (64 * line) 64 = sliceZ bs (mapAt + 1024 + 64 * i) 64) ∧
        ((∃ q, q ≠ p.val ∧ (s.block q).owes = true) → t.regs = s.regs) ∧
        (mwf blockInit s.blocks = true → (∀ x ∈ s.blocks, x.1 ≠ p.val → x.2.owes = false) → t.get CHP_RCV_STATUS.step = 5)) ∧
    ∀ (r : Rgn) (lost : Bool), (s.rget r RGN_RCV.down = 1 → exec (.regionRecovery r lost) s = .next s) ∧
      (s.rget r RGN_RCV.down = 0 → s.inJob = false → ∃ t, exec (.regionRecovery r lost) s = .next t ∧ t.rmt = s.rmt ∧ t.hbm = s.hbm ∧
        (∀ p, regionOf p ≠ r.val → t.block p = s.block p) ∧ (∀ q, q ≠ r.val → t.region q = s.region q) ∧
        (t.region r).regs = (s.region r).regs ∧ (t.region r).acked = [] ∧
        ∀ p : PBlk, regionOf p = r.val → (t.block p).fenced = !s.healthy p ∧
          (s.healthy p = true → (t.block p).get MSH_CTL.mode = 0))

/-- R358: a request that conflicts with no holder and no request is held at once; another is LEASE_BUSY where it would not wait, and else
joins the queue; the first request that no holder and no earlier request conflicts with is granted; one that has waited 10 s is reported
once. LSE_HELD and LSE_WAITING follow (R363). R343, R344: a recovery fixes the fault stride and C0, and every block in service owes its restore;
a lasting block is in quarantine first.
Its conclusion is that `exec` answers a next state, under conditions on state and operands alone, for recoveryStart, leaseAcquire, leaseGrant,
leaseRelease and leaseStarved. -/
def Obligations.LeasesAndRecoveryStart : Prop :=
  ∀ s : State,
    (∀ (code : Fin 16) (res : Nat), code.val < 12 →
      let l : Lease := { code := code, res := res, since := s.now }
      let shows := fun (c : Instr) (held waiting : List Lease) => ∃ t, exec c s = .next t ∧ t.leases = { held := held, waiting := waiting } ∧
        t.get LSE_HELD.codes = leaseCodes held ∧ t.get LSE_WAITING.codes = leaseCodes waiting ∧ s.ChipBecomes [LSE_HELD.off, LSE_WAITING.off] { s with leases := t.leases } t
      let keep := fun (x : Lease) => !(x.code == code.val && x.res == res)
      (s.leaseFree code res = true → ∀ nw, shows (.leaseAcquire code res nw) (s.leases.held ++ [l]) s.leases.waiting) ∧
      (s.leaseFree code res = false → shows (.leaseAcquire code res false) s.leases.held (s.leases.waiting ++ [l]) ∧
        ∃ t, exec (.leaseAcquire code res true) s = .next t ∧ t.leases = s.leases ∧
          t.get LSE_BUSY.count = min LSE_BUSY.count.top (s.get LSE_BUSY.count + 1) ∧ s.ChipBecomes [LSE_BUSY.off] s t) ∧
      shows (.leaseRelease code res) (s.leases.held.filter keep) (s.leases.waiting.filter keep)) ∧
    (∀ i l, s.leases.waiting[i]? = some l → l.clashes (s.leases.held ++ s.leases.waiting.take i) = false →
      (∀ j x, j < i → s.leases.waiting[j]? = some x → x.clashes (s.leases.held ++ s.leases.waiting.take j) = true) →
      ∃ t, exec .leaseGrant s = .next t ∧ t.leases = { held := s.leases.held ++ [l], waiting := s.leases.waiting.eraseIdx i } ∧
        (l.by_ = 1 → t.get LSE_STATUS.state = 2) ∧ (l.by_ = 2 → t.get FAR_MBX_STATUS.busy = 0)) ∧
    ((∀ l ∈ s.leases.waiting, s.now < l.since + 10000000000 ∨ l.starved = true) → exec .leaseStarved s = .next s) ∧
    (∀ l ls, s.leases.waiting = l :: ls → l.starved = false → l.since + 10000000000 ≤ s.now →
      ∃ t e, exec .leaseStarved s = .next t ∧ t.ev = s.ev ++ [e] ∧ e.code = 0xB7 ∧ e.detail = l.code ∧ t.leases.held = s.leases.held ∧
        t.leases.waiting = ({ l with starved := true } : Lease) :: ls.map fun x => if x = l then { x with starved := true } else x) ∧
    (∀ p : PBlk, s.dev = dRunning → s.rcv.active = false → (s.rmtOf p).state = 0 → (s.block p).fenced = true → (s.rmtOf p).lblock ≠ 0x7FF →
      s.twState ≠ twPAIRED → (∀ l ∈ s.leases.held, 2 ≤ l.code) → ∃ t, exec (.recoveryStart (.block p)) s = .next t ∧
        (t.rmtOf p).state = 3 ∧ (t.block p).fenced = true ∧ t.get TST_CHP_LASTING.count = min TST_CHP_LASTING.count.top (s.get TST_CHP_LASTING.count + 1) ∧
        (s.replayPoint = none → t.dev = dReady ∧ t.dispatch.job = none)) ∧
    ∀ (p : PBlk) (w : Shadow) (c : Nat), w ∈ s.screen.shadows → w.block = p.val → w.first.isSome = true → s.dev = dRunning →
      s.rcv.active = false → s.twState ≠ twPAIRED → s.replayPoint = some c → s.tablesForm = true → s.leases.held = [] →
      s.get CHP_IMG_STATUS.stage < 3 → (∀ x ∈ s.screen.shadows, (s.rmtOf x.block).state = 0) → (∀ x ∈ s.rmt, x.2.lblock = 0x7FF ∨ x.2.state = 0) →
      ∃ t, exec (.recoveryStart (.shadow p)) s = .next t ∧ t.dev = dRecovering ∧ t.rcv.active = true ∧ t.rcv.from_ = c ∧
        t.rcv.fault = s.get CAD_STRIDE.stride ∧ t.get CHP_RCV_FAULT.stride = s.get CAD_STRIDE.stride ∧ t.get CHP_RCV_FROM.stride = c % 2 ^ 64 ∧
        t.get CAD_CTL.phase = 1 ∧ t.get CHP_RCV_STATUS.step = 4 ∧ t.get CHP_RCV_STATUS.kind = 3 ∧ t.leaseHeld 2 (regionOf p) = true ∧
        (∀ q : PBlk, (s.rmtOf q).state = 0 → (t.block q).owes = true ∧ (t.block q).working = false ∧ (t.block q).mesh.sendq = []) ∧
        t.rmt = s.rmt ∧ t.dispatch.job = s.dispatch.job

/-- R171: a scan that finds another one busy ends with 1, of a block that has not stopped (or that only its steward may scan) with 4. R172:
a scan out writes the image to HBM4 and shows its length; R176: the block is stopped meanwhile. R175: a scan in checks the image, and an
image that fails its form changes nothing; one that passes sets every thread from its record. The scan's end shows the result.
Its conclusion is that `exec` answers a next state, under conditions on state and operands alone, for scanOut, scanIn and scanDone. -/
def Obligations.Scans : Prop :=
  ∀ (p : PBlk) (st : Bool) (s : State),
    let b := s.block p
    let ends := fun (i : Instr) (r : Nat) => ∃ t, exec i s = .next t ∧ (t.block p).get BLK_SCAN_STATUS.result = r ∧
      (t.block p).get BLK_SCAN_STATUS.length = 0 ∧ (t.block p).get BLK_SCAN_STATUS.busy = b.get BLK_SCAN_STATUS.busy ∧
      s.BlockBecomes p [BLK_SCAN_STATUS.off] b t
    let allowed := st = true ∨ b.fenced = true ∨ (s.rmtOf p).state = 3 ∨ s.dev = dHeld
    let busy := fun (t : State) (r n : Nat) => (t.block p).scan = some (r, n) ∧ (t.block p).get BLK_SCAN_STATUS.busy = 1 ∧
      (t.block p).get BLK_DF_STATUS.state = 4 ∧ ∀ q, q ≠ p.val → t.block q = s.block q
    (b.scan ≠ none → ends (.scanOut p st) 1 ∧ ends (.scanIn p st) 1) ∧
    (b.scan = none → (s.stopped p = false ∨ ¬ allowed) → ends (.scanOut p st) 4 ∧ ends (.scanIn p st) 4) ∧
    (b.scan = none → s.stopped p = true → allowed →
      (let img := b.scanImage p (b.get BLK_SCAN_CTL.reason) (s.get CHP_IMG_SEQ.sequence)
       let a := b.get BLK_SCAN_ADDR.addr
       (hbmOk a = true → hbmOk (a + img.length) = true → leAt img 0 4 = 0x4E414353 ∧ leAt img 24 8 = img.length % 2 ^ 64 ∧
         ∃ t, exec (.scanOut p st) s = .next t ∧ busy t 0 img.length ∧ t.ddr = s.ddr ∧
           t.hbm = (s.tiers.putLines 1 (a / 64 * 64) (padTo 64 img)).hbm) ∧
       (hbmOk a = false → ∃ t, exec (.scanOut p st) s = .next t ∧ busy t 2 0 ∧ t.hbm = s.hbm)) ∧
      (let a := b.get BLK_SCAN_ADDR.addr / 64 * 64
       let len := leAt (s.tiers.bytesAt 1 a 64) 24 8
       let img := s.tiers.bytesAt 1 a (if hbmOk (a + len) then len else 64)
       let r := b.scanCheck img (s.get CHP_IMG_SEQ.sequence)
       (leAt img 0 4 ≠ 0x4E414353 → r = 2) ∧
       (hbmOk a = true → r ≠ 0 → ∃ t, exec (.scanIn p st) s = .next t ∧ busy t r (min len 0xFFFFFFFF) ∧ t.hbm = s.hbm ∧
         s.BlockBecomes p [BLK_SCAN_STATUS.off, BLK_DF_STATUS.off] { b with scan := some (r, min len 0xFFFFFFFF) } t) ∧
       (hbmOk a = true → r = 0 → ∃ t, exec (.scanIn p st) s = .next t ∧ busy t 0 (min len 0xFFFFFFFF) ∧ t.hbm = s.hbm ∧
         (t.block p).spad = b.spad ∧ (t.block p).queue.length = (scanPart img 3).length ∧
         ∀ i rec, (scanPart img 6)[i]? = some rec → (t.block p).thread i = threadOf rec))) ∧
    ∀ r n, b.scan = some (r, n) → ∃ t, exec (.scanDone p) s = .next t ∧ (t.block p).get BLK_SCAN_STATUS.busy = 0 ∧
      (t.block p).get BLK_SCAN_STATUS.result = r % 16 ∧ (t.block p).get BLK_SCAN_STATUS.length = n % 2 ^ 32 ∧
      (t.block p).get BLK_DF_STATUS.state = (if b.fenced = true ∨ b.jobFault ≠ none then 5 else b2n b.working) ∧
      s.BlockBecomes p [BLK_SCAN_STATUS.off, BLK_DF_STATUS.off] { b with scan := none } t

/-- R440: a request that is not allowed answers 1 and does nothing; else the reset runs and answers 0. R441: one that would reach the limit of its
window escalates instead, with 2: a block goes into quarantine, a region goes down, the module goes out of service with cause 7. R439: a
block reset leaves its threads idle; a chip (warm) reset starts bring-up at W1 and clears CHP_RST itself. R437: ten missed probes reset
the steward's domain.
Its conclusion is that `exec` answers a next state, under conditions on state and operands alone, for watchdogProbeMissed, blockResetRequest,
regionResetRequest and chipResetRequest. -/
def Obligations.ResetsAndTheirLimits : Prop :=
  ∀ s : State,
    let answers := fun (t : State) (op target r : Nat) => t.get CHP_RST.op = op ∧ t.get CHP_RST.target = target ∧ t.get CHP_RST.result = r
    let mayReset := s.dev = dHeld ∨ s.dev = dReady ∨ s.dev = dRunning ∨ s.dev = dRecovering
    let idle := s.dev = dHeld ∨ s.dev = dReady
    let alive := s.dev = dHeld ∨ s.dev = dReady ∨ s.dev = dRunning ∨ s.dev = dRecovering
    (∀ p : PBlk,
      let old := inWindow s.now (s.get CHP_ESC.blk_window_s) (s.block p).resets
      let limit := max 1 (s.get CHP_ESC.blk_count)
      let wasReset := fun (t : State) => (t.block p).resets = old ++ [s.now] ∧ (t.block p).threads = [] ∧ (t.block p).queue = [] ∧
        (t.block p).get (BLK_CNT.count 47) = min (BLK_CNT.count 47).top ((s.block p).get (BLK_CNT.count 47) + 1) ∧ t.rmt = s.rmt ∧ t.dev = s.dev ∧
        ∀ q, q ≠ p.val → t.block q = s.block q
      (¬ mayReset → ∃ t, exec (.blockResetRequest p) s = .next t ∧ answers t 1 p 1 ∧ s.ChipBecomes [CHP_RST.off] s t) ∧
      ((s.rmtOf p).lblock = 0x7FF → (s.rmtOf p).state = 1 →
        (mayReset → old.length + 1 < limit → ∃ t, exec (.blockResetRequest p) s = .next t ∧ answers t 1 p 0 ∧ wasReset t) ∧
        (mayReset → limit ≤ old.length + 1 → ∃ t, exec (.blockResetRequest p) s = .next t ∧ answers t 1 p 2 ∧ (t.rmtOf p).state = 3 ∧
          (t.block p).fenced = true) ∧
        (alive → old.length + 1 < limit → ∃ t, exec (.watchdogProbeMissed ⟨p.val, by omega⟩) s = .next t ∧ wasReset t))) ∧
    (∀ r : Rgn,
      let old := inWindow s.now (s.get CHP_ESC.rgn_window_s) (s.region r).resets
      let limit := max 1 (s.get CHP_ESC.rgn_count)
      let wasReset := fun (t : State) => (t.region r).resets = old ++ [s.now] ∧ (t.region r).acked = [] ∧
        (∀ p : PBlk, regionOf p = r.val → (t.block p).threads = [] ∨ (s.rmtOf p).state = 0) ∧ t.rmt = s.rmt ∧ t.dev = s.dev ∧
        ∀ p, regionOf p ≠ r.val → t.block p = s.block p
      ((¬ mayReset ∨ s.rget r RGN_RCV.down = 1) → ∃ t, exec (.regionResetRequest r) s = .next t ∧ answers t 2 r 1 ∧
        s.ChipBecomes [CHP_RST.off] s t) ∧
      (idle → s.rget r RGN_RCV.down = 0 →
        (old.length + 1 < limit → ∃ t, exec (.regionResetRequest r) s = .next t ∧ answers t 2 r 0 ∧ wasReset t) ∧
        (limit ≤ old.length + 1 → ∃ t, exec (.regionResetRequest r) s = .next t ∧ answers t 2 r 2 ∧ t.rget r RGN_RCV.down = 1 ∧ t.dev = dHeld) ∧
        (old.length + 1 < limit → ∃ t, exec (.watchdogProbeMissed ⟨1280 + r.val, by omega⟩) s = .next t ∧ wasReset t))) ∧
    (let old := inWindow s.now (s.get CHP_ESC.chip_window_s) s.chipResets
     let limit := max 1 (s.get CHP_ESC.chip_count)
     let wasReset := fun (t : State) => t.dev = dBringup ∧ t.get CHP_BRINGUP.step = 12 ∧ t.get CHP_RST.op = 0 ∧
       t.get CHP_STATE.warm_resets = min 65535 (s.get CHP_STATE.warm_resets + 1) ∧ t.chipResets = old ++ [s.now] ∧ t.hbm = s.hbm ∧
       t.ddr = s.ddr ∧ t.fuses = s.fuses ∧ t.stud = s.stud ∧ t.images = {} ∧ t.dispatch = {}
     ((s.dev = dOff ∨ s.dev = dOos) → ∃ t, exec .chipResetRequest s = .next t ∧ answers t 3 0 1 ∧ s.ChipBecomes [CHP_RST.off] s t) ∧
     (alive → old.length + 1 < limit → (∃ t, exec .chipResetRequest s = .next t ∧ wasReset t) ∧
       (s.far.awake = true → ∃ t, exec (.watchdogProbeMissed ⟨1296, by omega⟩) s = .next t ∧ wasReset t)) ∧
     (alive → limit ≤ old.length + 1 → ∃ t, exec .chipResetRequest s = .next t ∧ answers t 3 0 2 ∧ t.dev = dOos ∧
       t.get CHP_STATE.oos_cause = 7))

/-- R448, R449: a wait of a selected kind that lasted long enough is recorded and counted; one that finds 64 records is lost, and counted. A full
buffer goes to the ring, and the pointer moves on or wraps; a refused store drops it and turns the trace off. R428, R465: four
instructions of the port are always taken, IDCODE reads 1DB12F9Bh, others only once scan is open.
Its conclusion is that `exec` answers a next state, under conditions on state and operands alone, for traceRecord, traceStore and tapInstruction. -/
def Obligations.TracesAndTap : Prop :=
  (∀ (p : PBlk) (kind unit source tag idx start dur : Nat) (s : State),
    let b := s.block p
    let c : Instr := .traceRecord p kind unit source tag idx start dur
    let selected := b.get BLK_TRC_CTL.enable = 1 ∧ kind ≤ 11 ∧ unit ≤ 13 ∧ nbit (b.get BLK_TRC_CTL.kinds) kind = true ∧
      b.get BLK_TRC_CTL.min_ns ≤ dur
    (¬ selected → ∃ t, exec c s = .next t ∧ s.BlockBecomes p [] b t) ∧
    (selected → b.trace.length < 64 → ∃ t, exec c s = .next t ∧
      (t.block p).get (BLK_CNT.count 49) = min (BLK_CNT.count 49).top (b.get (BLK_CNT.count 49) + 1) ∧ s.BlockBecomes p [BLK_CNT.off 49]
        { b with trace := b.trace ++ [(tag % 2 ^ 24 * 2 ^ 40 + source % 2048 * 2 ^ 29 + kind * 2 ^ 24 + min dur 0xFFFFFF,
          unit * 2 ^ 56 + idx % 4096 * 2 ^ 44 + min start 0xFFFFF * 2 ^ 24 + b.stride.toNat % 2 ^ 24)] } t) ∧
    (selected → 64 ≤ b.trace.length → ∃ t, exec c s = .next t ∧
      (t.block p).get (BLK_CNT.count 50) = min (BLK_CNT.count 50).top (b.get (BLK_CNT.count 50) + 1) ∧ s.BlockBecomes p [BLK_CNT.off 50] b t)) ∧
  (∀ (p : PBlk) (s : State),
    let b := s.block p
    let due := b.trace.length = 64 ∨ (b.stride.toNat % 256 = 0 ∧ b.trace ≠ [])
    let i := b.get BLK_TRC_PTR.next
    (¬ due → ∃ t, exec (.traceStore p) s = .next t ∧ s.BlockBecomes p [] b t) ∧
    (due → b.traceMay = false → ∃ t, exec (.traceStore p) s = .next t ∧ (t.block p).get BLK_TRC_CTL.enable = 0 ∧
      s.BlockBecomes p [BLK_TRC_CTL.off, BLK_CNT.off 45] { b with trace := [] } t) ∧
    (due → b.traceMay = true → ∃ t, exec (.traceStore p) s = .next t ∧ (t.block p).trace = [] ∧
      (t.block p).get BLK_TRC_PTR.next = (if i + 64 = b.traceRing then 0 else i + 64) % 2 ^ 32 ∧
      (t.block p).get BLK_TRC_PTR.wraps = (if i + 64 = b.traceRing then min BLK_TRC_PTR.wraps.top (b.get BLK_TRC_PTR.wraps + 1)
        else b.get BLK_TRC_PTR.wraps) ∧
      ∀ q, q ≠ p.val → t.block q = s.block q)) ∧
  ∀ (i : TapInstr) (s : State), let taken : State := { s with pins := { s.pins with tap := i } }
    (i = .idcode → exec (.tapInstruction i) s = .next { taken with out := s.out ++ [.idcode 0x1DB12F9B] }) ∧
    (i = .bypass ∨ i = .samplePreload ∨ i = .extest → exec (.tapInstruction i) s = .next taken) ∧
    ∀ n, i = .other n → (s.get FAR_SCAN.openS = 1 → exec (.tapInstruction i) s = .next taken) ∧
      (s.get FAR_SCAN.openS = 0 → exec (.tapInstruction i) s = .next s)

/-- R37: no beat issues while the Cadence does not run, an acknowledgement is out, or the programmed tick has not come. A beat carries the next
stride; R38: one before which the last acknowledgement came after its tick is a stumble, counted with its lateness. R56: the job begins at
its stride, in the image's gait. R286: the beat of a swap commits the staged image. R33: a block counts the beat, and an error in it fences the block. R35: a block that may acknowledges, and its tally is fixed. R304: a region's tally
is the sum of B_n times 2 times lblock plus 1, the chip's the sum of the regions'. R39, R436: a block that has not acknowledged in time
is reset, and a job with no replay point ends. R46: a rejoin is given up after 65,536 strides.
Its conclusion is that `exec` answers a next state, under conditions on state and operands alone, for beatIssue, beatArrive, strideAck, regionAck,
tetherTimeout and rejoinFailed. -/
def Obligations.BeatsAndAcknowledgements : Prop :=
  (∀ s : State, s.rcv.active = false →
    let n := (s.get CAD_STRIDE.stride + 1) % 2 ^ 64
    ((s.get CAD_CTL.run = 0 ∨ s.cad.done = false ∨ (s.ticked = true ∧ s.now < s.dueTick)) → exec .beatIssue s = .next s) ∧
    (s.beatReady = true → s.cad.flipBeat = false → s.images.swapTick = none → s.cad.hold = none →
      (n % 256 ≠ 0 → (∀ j, s.dispatch.job = some j → j.begun = true ∨ j.start ≠ n) → ∃ t, exec .beatIssue s = .next t ∧
        t.get CAD_STRIDE.stride = n ∧ t.cad.beatAt = s.now ∧ t.cad.acked = [] ∧ (∀ r, (t.region r).acked = []) ∧ t.dev = s.dev ∧
        t.dispatch.job = s.dispatch.job ∧ t.hbm = s.hbm ∧ t.ddr = s.ddr ∧
        (if 0 < s.lateness then
          t.get CAD_STUMBLE.count = min CAD_STUMBLE.count.top (s.get CAD_STUMBLE.count + 1) ∧
            t.get CAD_STUMBLE_LAST.late_ns = min s.lateness 65535 ∧ t.get CAD_STUMBLE_LAST.region = s.cad.lastRegion % 16
        else t.get CAD_STUMBLE.count = s.get CAD_STUMBLE.count ∧ t.blocks = s.blocks)) ∧
      (∀ j i, n % 256 = 0 → s.dispatch.job = some j → j.begun = false → j.start = n → s.dev = dReady → s.images.committed = some i →
        s.get CAD_CTL.phase = 0 → s.twin.rejoinAt = none → s.far.activating = none → s.screen.plans = [] → ∃ t, exec .beatIssue s = .next t ∧ t.dev = dRunning ∧
          t.get CAD_STRIDE.stride = n ∧ t.get CAD_CTL.gait = i.gait % 2 ∧ t.dispatch.job = some { j with begun := true })) ∧
    (∀ i tick, s.beatReady = true → s.cad.flipBeat = false → n % 256 = 0 → s.images.swapTick = some tick → s.images.staged = some i →
      (s.installImage i (s.place i fun _ => 0).2).1 = none → s.dispatch.job = none → s.dev = dReady → s.get CAD_CTL.phase = 0 →
      s.far.activating = none → s.screen.plans = [] → s.twin.rejoinAt = none → ∃ t, exec .beatIssue s = .next t ∧
        t.get CAD_STRIDE.stride = n ∧ t.images.committed = some i ∧ t.images.staged = none ∧ t.images.swapTick = none ∧
        t.get CHP_IMG_STATUS.stage = 0 ∧ t.get CHP_SWAP_STATUS.result = 0 ∧ t.get CHP_IMG_SEQ.sequence = i.sequence % 2 ^ 64 ∧
        t.cad.hold = none ∧ t.hbm = s.hbm ∧ t.ddr = s.ddr)) ∧
  (∀ (p : PBlk) (carried : BitVec 16) (parity : Bool) (s : State), s.rcv.active = false → s.get CAD_CTL.run = 1 →
    (s.block p).stride.toNat ≠ s.get CAD_STRIDE.stride → (s.rmtOf p).state ≠ 5 → (s.block p).scan = none →
    let n := (s.block p).stride + 1
    let works := s.jobRuns = true ∧ (s.rmtOf p).state = 0 ∧ (s.block p).fenced = false
    ∃ t, exec (.beatArrive p carried parity) s = .next t ∧ (t.block p).stride = n ∧ (t.block p).beatAt = s.now ∧
      (∀ q, q ≠ p.val → t.block q = s.block q) ∧
      (if parity = false ∨ carried.toNat ≠ n.toNat % 65536 then (t.block p).fenced = true ∧ (t.block p).working = false
      else (t.block p).fenced = (s.block p).fenced ∧ ((t.block p).working = true ↔ works) ∧ (works → (t.block p).tally = 0 ∧
        (t.block p).get BLK_TETHER.state = 1 ∧ (t.block p).get BLK_DF_STATUS.state = (if (s.block p).jobFault ≠ none then 5 else if (s.block p).fireList = [] then 3 else 2)))) ∧
  (∀ (p : PBlk) (s : State), let b := s.block p
    let x := s.region (regionOf p)
    b.stride.toNat = s.get CAD_STRIDE.stride → (s.rmtOf p).state = 0 → p.val ∉ x.acked →
    (b.mayAck = false → exec (.strideAck p) s = .next s) ∧
    (b.mayAck = true → ∃ t, exec (.strideAck p) s = .next t ∧ t.region (regionOf p) = { x with acked := p.val :: x.acked, lastAck := p } ∧
      (t.block p).get TST_BLK_TALLY.tally = b.tally.toNat ∧ (t.block p).get TST_BLK_FREE.tally = b.freeTally.toNat ∧
      (t.block p).get BLK_TETHER.state = 0 ∧ (t.block p).get (BLK_CNT.count 43) = min (BLK_CNT.count 43).top (b.get (BLK_CNT.count 43) + 1) ∧
      (b.working = true → mget (fun _ => 0) (t.block p).tallies b.stride.toNat = b.tally) ∧
      (∀ q, q ≠ p.val → t.block q = s.block q) ∧ (∀ r, r ≠ regionOf p → t.region r = s.region r) ∧ t.regs = s.regs)) ∧
  (∀ (r : Rgn) (s : State), s.rcv.active = false → s.cad.done = false → r.val ∉ s.cad.acked →
    let m := s.inService.filter fun p => regionOf p == r.val
    (¬ (∀ p ∈ m, p ∈ (s.region r).acked) → exec (.regionAck r) s = .next s) ∧
    (m ≠ [] → (∀ p ∈ m, p ∈ (s.region r).acked) → s.jobRuns = false → ∃ t, exec (.regionAck r) s = .next t ∧
      t.rget r TST_RGN_TALLY.tally = (m.foldl (fun (a : Word) p => a + (s.block p).tally * BitVec.ofNat 64 (2 * s.lblockAt p + 1)) 0).toNat ∧
      t.cad.acked = r.val :: s.cad.acked ∧ t.cad.lastAckAt = s.now ∧ t.blocks = s.blocks ∧
      ((∃ q ∈ s.maskRegions, q ≠ r.val ∧ q ∉ s.cad.acked) → t.cad.done = false ∧ t.regs = s.regs) ∧
      ((∀ q ∈ s.maskRegions, q = r.val ∨ q ∈ s.cad.acked) → t.cad.done = true ∧ t.get TST_CHP_TALLY_AT.value = s.get CAD_STRIDE.stride ∧
        t.get TST_CHP_TALLY.value =
          (s.maskRegions.foldl (fun (a : Word) q => a + BitVec.ofNat 64 (t.rget q TST_RGN_TALLY.tally)) 0).toNat))) ∧
  (∀ (p : PBlk) (s : State), let b := s.block p
    let late := if s.ticked then s.tickOf (s.get CAD_STRIDE.stride + 1) + 64 * s.get CAD_PERIOD.current ≤ s.now
      else b.progressAt + 2000000 ≤ s.now
    let old := inWindow s.now (s.get CHP_ESC.blk_window_s) b.resets
    (¬ late → exec (.tetherTimeout p) s = .next s) ∧
    (late → b.get BLK_TETHER.state = 1 → p.val ∉ (s.region (regionOf p)).acked → b.fenced = false → b.scan = none → (s.rmtOf p).state = 0 →
      (s.rmtOf p).lblock ≠ 0x7FF → s.dev = dRunning → s.rcv.active = false → s.rcv.tether = [] → s.twState ≠ twPAIRED →
      old.length + 1 < max 1 (s.get CHP_ESC.blk_count) →
      let wasReset := fun (t : State) => (t.block p).resets = old ++ [s.now] ∧
        (t.block p).get (BLK_CNT.count 47) = min (BLK_CNT.count 47).top (b.get (BLK_CNT.count 47) + 1)
      (s.replayPoint = none → ∃ t, exec (.tetherTimeout p) s = .next t ∧ wasReset t ∧ t.dev = dReady ∧ t.dispatch.job = none) ∧
      ∀ c, s.replayPoint = some c → s.tablesForm = true → b.get MSH_CTL.mode = 0 → (∀ x ∈ s.rmt, x.2.lblock = 0x7FF ∨ x.2.state = 0) →
        (∀ w ∈ s.screen.shadows, (s.rmtOf w.block).state = 0) →
        ∃ t, exec (.tetherTimeout p) s = .next t ∧ wasReset t ∧ t.dev = dRecovering ∧ t.rcv.from_ = c ∧
          (t.block p).owes = true ∧ (s.rmtOf p).lblock ∈ t.rcv.tether)) ∧
  ∀ (f : Nat) (s : State), s.rcv.rejoin = some f → s.get CAD_CTL.phase = 2 → s.rcv.longer = false →
    (s.get CAD_STRIDE.stride < f + 65536 → exec .rejoinFailed s = .next s) ∧
    (f + 65536 ≤ s.get CAD_STRIDE.stride → ∃ e, e.code = 0xB0 ∧
      exec .rejoinFailed s = .next { s with rcv := { s.rcv with longer := true }, ev := s.ev ++ [e] })

/-- R52, R53: a follower's exchange sets the offset ((t2 − t1) − (t4 − t3)) / 2 less the asymmetry, and the delay; two in a row that are off
drop the lock, and with fewer than eight good ones in a row it is not gained; the rate, a
free value (log entry 9), is held within 200 ppm while Running. R54: a source answers each request over a port that is up, once the device may send (R25); a follower whose
port goes drops its lock. R48, R55, R56: a period from 500 to 1,000,000 is held for its stride; one out of range, or a stride that is
no later checkpoint, is refused.
Its conclusion is that `exec` answers a next state, under conditions on state and operands alone, for syncExchange, syncAnswer, portStateChange and
cadPeriodWrite. -/
def Obligations.SynchronisationAndPeriod : Prop :=
  (∀ (t1 t2 t3 t4 : Nat) (s : State),
    let n := s.get CAD_STRIDE.stride
    let c : Instr := .syncExchange t1 t2 t3 t4
    ((s.get CAD_SYNC_CTL.enable = 0 ∨ s.get CAD_SYNC_CTL.role = 1 ∨ s.get CAD_SYNC_STATUS.noport = 1 ∨ n % 256 ≠ 0 ∨ s.cad.syncAt = some n) →
      exec c s = .next s) ∧
    (s.get CAD_SYNC_CTL.enable = 1 → s.get CAD_SYNC_CTL.role = 0 → s.get CAD_SYNC_STATUS.noport = 0 → s.carriesSync (s.get CAD_SYNC_CTL.port) = true →
      n % 256 = 0 → s.cad.syncAt ≠ some n →
      let offset : Int := (((t2 : Int) - t1) - ((t4 : Int) - t3)) / 2 - signed 16 (s.get CAD_SYNC_CTL.asym)
      let near := offset.natAbs ≤ 20
      ∃ t, exec c s = .next t ∧ t.get CAD_SYNC_STATUS.offset = unsigned 32 offset ∧
        t.get CAD_SYNC_STATUS.delay = min 65535 ((((t2 : Int) - t1) + ((t4 : Int) - t3)) / 2).toNat ∧ t.cad.syncAt = some n ∧
        t.cad.rate = (if s.dev = dRunning then max (-200) (min 200 (Config.rateOf s.freeCtr)) else Config.rateOf s.freeCtr) ∧
        t.cad.good = (if near then min 8 (s.cad.good + 1) else 0) ∧
        (s.get CAD_SYNC_STATUS.locked = 0 → (¬ near ∨ s.cad.good < 7) → t.get CAD_SYNC_STATUS.locked = 0) ∧
        (s.get CAD_SYNC_STATUS.locked = 0 → near → s.cad.good = 7 → s.dev = dRunning → s.twin.attested = false → t.get CAD_SYNC_STATUS.locked = 1) ∧
        (s.get CAD_SYNC_STATUS.locked = 1 → near → t.get CAD_SYNC_STATUS.locked = 1) ∧
        (s.get CAD_SYNC_STATUS.locked = 1 → ¬ near → s.cad.bad = 1 → t.get CAD_SYNC_STATUS.locked = 0 ∧ t.get CAD_SYNC_STATUS.lost = 1))) ∧
  (∀ (port : FPort) (peer : BitVec 16) (t2 t3 : Nat) (s : State),
    (s.get CAD_SYNC_CTL.enable = 0 ∨ s.get CAD_SYNC_CTL.role = 0 → exec (.syncAnswer port peer t2 t3) s = .next s) ∧
    (s.get CAD_SYNC_CTL.enable = 1 → s.get CAD_SYNC_CTL.role = 1 → s.carriesSync port = true →
      let x := s.port port
      let seq := (mget natZero x.tx peer.toNat + 1) % 2 ^ 32
      let frame := fabBytes (s.get CMD_NODE.node) peer.toNat 11 seq (mget natZero x.rx peer.toNat) 0 0 (leBytes 8 t2 ++ leBytes 8 t3)
      ∃ t, exec (.syncAnswer port peer t2 t3) s = .next t ∧ t.out = s.out ++ (if s.mayEmit 11 then [.frame port frame] else []) ∧
        mget natZero (t.port port).tx peer.toNat = seq ∧
        (t.port port).unacked = x.unacked ++ [{ peer := peer.toNat, seq := seq, bytes := frame, sentAt := s.now, sends := b2n (s.mayEmit 11) }] ∧
        (∀ i, i ≠ port.val → t.port i = s.port i) ∧ t.regs = s.regs)) ∧
  (∀ (port : FPort) (s : State),
    (∀ up, (s.port port).up = up → exec (.portStateChange port up) s = .next s) ∧
    (port.val < 8 → (s.port port).up = false → ∃ t, exec (.portStateChange port true) s = .next t ∧
      t.port port = { s.port port with up := true } ∧ (∀ i, i ≠ port.val → t.port i = s.port i) ∧
      t.get CAD_SYNC_STATUS.noport = (if port.val = s.get CAD_SYNC_CTL.port ∧ s.get (CMD_TRACE_CTL.mode port) = 0 ∧
        s.get (CMD_TRACE_CTL.enable port) = 1 then 0 else s.get CAD_SYNC_STATUS.noport) ∧
      s.ChipBecomes [CAD_SYNC_STATUS.off] { s with ports := t.ports } t) ∧
    (port.val < 8 → (s.port port).up = true → ∃ t, exec (.portStateChange port false) s = .next t ∧
      t.port port = { s.port port with up := false } ∧ (∀ i, i ≠ port.val → t.port i = s.port i) ∧
      (s.get CAD_SYNC_CTL.enable = 1 → s.get CAD_SYNC_CTL.role = 0 → s.get CAD_SYNC_CTL.port = port.val → s.get CAD_SYNC_STATUS.noport = 0 →
        t.get CAD_SYNC_STATUS.noport = 1 ∧ t.get CAD_SYNC_STATUS.locked = 0))) ∧
  ∀ (v : Word) (s : State),
    let n := v.toNat
    let per := bitsOf v 40 21
    let refused := fun (t : State) => t.get CAD_PERIOD.next_refused = 1 ∧ t.get CAD_PERIOD.period_next = 0 ∧ t.get CAD_PERIOD_AT.stride = 0
    let becomes := fun (t : State) => t.get CAD_PERIOD.current = s.get CAD_PERIOD.current ∧ s.ChipBecomes [CAD_PERIOD.off, CAD_PERIOD_AT.off] s t
    ((n = 0 ∨ (n % 256 = 0 ∧ s.begun < n)) →
      ∃ t, exec (.cadPeriodWrite true v) s = .next t ∧ t.get CAD_PERIOD_AT.stride = n ∧ becomes t) ∧
    (n ≠ 0 → (n % 256 ≠ 0 ∨ n ≤ s.begun) → ∃ t, exec (.cadPeriodWrite true v) s = .next t ∧ refused t ∧ becomes t) ∧
    let past := s.get CAD_PERIOD_AT.stride ≠ 0 ∧ s.get CAD_PERIOD_AT.stride ≤ s.begun
    ((per = 0 ∨ (500 ≤ per ∧ per ≤ 1000000 ∧ ¬ past)) → ∃ t, exec (.cadPeriodWrite false v) s = .next t ∧ t.get CAD_PERIOD.period_next = per ∧
      t.get CAD_PERIOD.next_refused = (if v.getLsbD 61 then 0 else s.get CAD_PERIOD.next_refused) ∧ becomes t) ∧
    (per ≠ 0 → (per < 500 ∨ 1000000 < per ∨ past) → ∃ t, exec (.cadPeriodWrite false v) s = .next t ∧ refused t ∧ becomes t)

/-- R289: with the input in range, MODULE_EN high and RESET_N high the module leaves Off on the cold path, from step 1, once its rails are down; R299, R439,
R462: losing one of them leads to Off from every state, with all but flash and fuses lost. R290, R292: the steps of the cold
path follow each other; a failure leads out of service with its cause (R24); the known-answer run ends in Held. R291: the Rider boots once
its partition is tested. R409: a restart of the Farrier ends sessions and the mailbox operation, and the compute die carries on.
Its conclusion is that `exec` answers a next state, under conditions on state and operands alone, for inputInRange, inputOutOfRange, moduleEnRise,
moduleEnFall, resetNAssert, resetNRelease, bringupStepComplete, farrierRestart, railsOff, riderBootStart and farrierRestartDone. -/
def Obligations.PowerAndBringup : Prop :=
  ∀ s : State,
    (∀ (c : Instr) (pins : Pins), (c, pins) ∈ ([(.inputInRange, { s.pins with input := true }), (.moduleEnRise, { s.pins with moduleEn := true }),
        (.resetNRelease, { s.pins with resetN := true })] : List (Instr × Pins)) →
      let wanted := pins.input = true ∧ pins.moduleEn = true ∧ pins.resetN = true
      ((¬ wanted ∨ s.dev ≠ dOff) → exec c s = .next { s with pins := pins }) ∧
      (wanted → s.dev = dOff → s.pins.railsUp = true → exec c s = .next { s with pins := { pins with enAgain := true } }) ∧
      (wanted → s.dev = dOff → s.pins.railsUp = false → ∃ t, exec c s = .next t ∧ t.dev = dBringup ∧ t.get CHP_BRINGUP.step = 1 ∧
        t.get CHP_BRINGUP.path = 0 ∧ t.pins = { pins with railsUp := true, enAgain := false } ∧ t.hbm = [] ∧ t.ddr = [] ∧ t.blocks = [] ∧
        t.stud = s.stud ∧ t.fuses = s.fuses ∧ t.far.log = s.far.log.take s.far.inFlash)) ∧
    (∀ c ∈ ([.inputOutOfRange, .moduleEnFall, .resetNAssert 10000] : List Instr), s.dev ≠ dOff → ∃ t, exec c s = .next t ∧ t.dev = dOff ∧
      t.pins.powerGood = false ∧ t.pins.railsUp = s.pins.railsUp ∧ t.hbm = [] ∧ t.ddr = [] ∧ t.blocks = [] ∧ t.dispatch = {} ∧ t.images = {} ∧
      t.stud = s.stud ∧ t.fuses = s.fuses ∧ t.pins.input = (s.pins.input && decide (c ≠ .inputOutOfRange)) ∧
      t.pins.moduleEn = (s.pins.moduleEn && decide (c ≠ .moduleEnFall)) ∧ t.pins.resetN = (s.pins.resetN && decide (c ≠ .resetNAssert 10000)) ∧
      (c ≠ .inputOutOfRange → s.far.awake = true → s.far.log.length ≤ 1048576 → t.far.log = s.far.log)) ∧
    (∀ ns, ns < 1000 → exec (.resetNAssert ns) s = .next { s with freeCtr := s.freeCtr + 1 }) ∧
    (s.dev ≠ dOff → exec .railsOff s = .next s) ∧
    (s.dev = dOff → s.pins.enAgain = false → exec .railsOff s = .next { s with pins := { s.pins with railsUp := false } }) ∧
    (s.dev = dOff → s.pins.enAgain = true → s.pins.input = true → s.pins.moduleEn = true → s.pins.resetN = true →
      ∃ t, exec .railsOff s = .next t ∧ t.dev = dBringup ∧ t.get CHP_BRINGUP.step = 1) ∧
    (∀ r : StepReport, let c : Instr := .bringupStepComplete r
      let n := s.get CHP_BRINGUP.step
      let ends := fun (m : Nat) => ∃ t, exec c s = .next t ∧ t.dev = dBringup ∧ t.get CHP_BRINGUP.step = m
      let stops := fun (cause : Nat) => ∃ t, exec c s = .next t ∧ t.dev = dOos ∧ t.get CHP_STATE.oos_cause = cause
      (s.dev ≠ dBringup → exec c s = .next s) ∧
      (s.dev = dBringup →
        (n = 1 → ends 2) ∧ (n = 2 → r.slotsOk = 0 → stops 1) ∧ (n = 2 → r.slotsOk ≠ 0 → if r.fuseOk then ends 3 else stops 5) ∧
        (n = 3 → if r.ok then ends 4 else stops 2) ∧ (n = 4 → if r.ok then ends 5 else stops 4) ∧
        (n = 5 → if r.badStacks = [] then ends 6 else stops 3) ∧ (n = 6 → ends 7) ∧ (n = 7 → ends 8) ∧ (n = 8 → r.badLinks = [] → ends 9) ∧
        (n = 9 → r.failedTwice = [] → r.badEngines = [] → r.badRouters = [] → ends 10) ∧
        (n = 12 → ends (if s.get CHP_BRINGUP.path = 2 then 13 else 4)) ∧ (n = 13 → ends 14) ∧
        (n = 14 → ends (if r.selfRefreshOk then 15 else 5)) ∧ (n = 15 → ends (if r.selfRefreshOk then 16 else 5)) ∧ (n = 16 → ends 17) ∧
        (n = 17 → r.badLinks = [] → ends 18) ∧
        ((n = 10 ∨ n = 18) → packFailsAny s.far.pack false = none → packFailsAny s.far.pack true = none → r.failedOnce = [] →
          r.failedTwice = [] → r.badEngines = [] → ∃ t, exec c s = .next t ∧ t.dev = dHeld ∧
          t.get CHP_READY.kar = 1 ∧ t.get CHP_HOLD_REASON.code = 0 ∧ t.get CHP_BRINGUP.step = n + 1 ∧ t.far.pack = s.far.newestPack) ∧
        (n = 3 → r.ok = true → ∃ t, exec c s = .next t ∧ t.pins = { s.pins with powerGood := true }) ∧
        (n = 4 → r.ok = true → (∀ x ∈ s.stud, x.kind = 5 → x.place < 256) → ∃ t, exec c s = .next t ∧ t.get CAD_PERIOD.current = 4000 ∧ t.get CAD_CTL.gait = 0 ∧ t.get CAD_CTL.run = 1) ∧
        (n = 5 → r.badStacks = [] → ∃ t, exec c s = .next t ∧ t.hbm = [] ∧ t.get CHP_READY.hbm = 255) ∧
        (n = 6 → ∃ t, exec c s = .next t ∧ t.ddr = []))) ∧
    (s.bring.rider = false → s.riderFits = true ∨ s.get CHP_BRINGUP.step = 6 → s.dev = dHeld ∨ s.dev = dBringup ∧ 6 ≤ s.get CHP_BRINGUP.step ∧ s.get CHP_BRINGUP.step ≠ 12 →
      exec .riderBootStart s = .next ({ s with bring := { s.bring with rider := true, beatAt := none } } : State).riderStarts) ∧
    (s.dev = dOff ∨ s.dev = dOos → exec .riderBootStart s = .next s) ∧
    (s.far.awake = true → ∃ t, exec .farrierRestart s = .next t ∧ t.far.awake = false ∧ t.far.sessions = [] ∧ t.far.collections = [] ∧
      (s.get FAR_MBX_STATUS.busy = 1 → t.get FAR_MBX_STATUS.result = 1) ∧ t.blocks = s.blocks ∧ t.regions = s.regions ∧ t.dev = s.dev ∧
      t.dispatch = s.dispatch ∧ t.cad = s.cad ∧ t.hbm = s.hbm ∧ t.ddr = s.ddr ∧ t.leases.held = s.leases.held) ∧
    (s.far.awake = true → exec .farrierRestartDone s = .next s) ∧
    (s.far.awake = false → s.dev ≠ dOff → s.dev ≠ dBringup → ∃ t, exec .farrierRestartDone s = .next t ∧ t.far.awake = true ∧
      t.far.next = s.far.mark ∧ t.far.rom = false ∧ t.blocks = s.blocks ∧ t.dev = s.dev ∧ t.hbm = s.hbm ∧ t.ddr = s.ddr)

/-- R367: pairing starts in Ready with a committed image, and ends at once with NO_PEER where no yoke is up or no partner is powered; a HELLO is
kept, and answered with a nonce while pairing; a signature uses one attestation index; one that does not verify ends with ATTEST, an image that differs with IMAGE; else
R368 chooses the role. A timeout ends with NO_PEER or SYNC. R379: unpairing returns the module to Solo. R377, R378, R380: a twin that detaches is
detached with its cause, one whose partner has gone runs on alone, and an off twin takes the near role. R383: an off twin that recovers keeps the loss for the
end of its recovery.
Its conclusion is that `exec` answers a next state, under conditions on state and operands alone, for twinPair, pairingTimeout, twinUnpair,
twinRejoin, twnPartnerDown, detachSelf, hello, yokeAttest and yokeState. -/
def Obligations.PairingAndDetaching : Prop :=
  ∀ s : State,
    let st := s.twState
    let shows := fun (c : Instr) (state result : Nat) => ∃ t, exec c s = .next t ∧ t.get TWN_STATUS.state = state ∧ t.get TWN_STATUS.result = result
    let alone := fun (c : Instr) (cause : Nat) => ∃ t, exec c s = .next t ∧ t.get TWN_STATUS.state = twALONE ∧
      t.get TWN_STATUS.detach_cause = cause ∧ t.get TWN_STATUS.mode = 0 ∧ t.get TWN_DETACHES.count = min TWN_DETACHES.count.top (s.get TWN_DETACHES.count + 1) ∧
      (let over_ := s.get TWN_STATUS.role = 2 ∧ (s.get TWN_STATUS.mode = 1 ∨ s.get TWN_STATUS.mode = 2)
       t.get TWN_STATUS.role = (if over_ then 1 else s.get TWN_STATUS.role) ∧
         (over_ → t.get TWN_FAILOVERS.count = min TWN_FAILOVERS.count.top (s.get TWN_FAILOVERS.count + 1)) ∧
         (¬ over_ → t.get TWN_FAILOVERS.count = s.get TWN_FAILOVERS.count))
    let detached := fun (c : Instr) (cause : Nat) => ∃ t, exec c s = .next t ∧ t.get TWN_STATUS.state = twDETACHED ∧
      t.get TWN_STATUS.detach_cause = cause ∧ t.get TWN_STATUS.mode = 0 ∧ t.get TWN_DETACHES.count = min TWN_DETACHES.count.top (s.get TWN_DETACHES.count + 1) ∧
      (∀ i, (t.port i).held = [])
    let pairing := st = twPAIRING ∨ st = twREJOINING
    ((s.dev ≠ dReady ∨ s.images.committed = none ∨ st = twPAIRING ∨ st = twPAIRED ∨ st = twREJOINING) → exec .twinPair s = .next s) ∧
    (s.dev = dReady → s.images.committed ≠ none → (st = twUNPAIRED ∨ st = twALONE ∨ st = twDETACHED) → s.get FAR_SCAN.openS = 0 →
      ((s.yokes = [] ∨ s.twin.det = 0) → shows .twinPair st 1) ∧
      (s.yokes ≠ [] → s.twin.det ≠ 0 → ∃ t, exec .twinPair s = .next t ∧ t.get TWN_STATUS.state = twPAIRING ∧ t.get TWN_STATUS.result = 0 ∧
        t.twin.before = st ∧ t.twin.since = s.now ∧ t.twin.attested = false)) ∧
    (s.images.committed ≠ none → s.get FAR_SCAN.openS = 0 → ((st = twDETACHED ∧ s.dev = dReady) ∨ (st = twALONE ∧ (s.dev = dReady ∨ s.dev = dRunning))) →
      ((s.yokes = [] ∨ s.twin.det = 0) → shows .twinRejoin st 1) ∧
      (s.yokes ≠ [] → s.twin.det ≠ 0 → ∃ t, exec .twinRejoin s = .next t ∧ t.get TWN_STATUS.state = twREJOINING ∧ t.get TWN_STATUS.result = 0 ∧
        t.twin.before = st ∧ t.twin.since = s.now)) ∧
    ((st = twUNPAIRED ∨ st = twPAIRED) → exec .twinRejoin s = .next s) ∧
    (∀ m : HelloMsg, ∃ t p, exec (.hello m) s = .next t ∧ t.twin.peer = some p ∧ p.identity = m.identity.toNat ∧ p.sequence = m.sequence.toNat ∧
      p.digest = m.digest ∧ t.get TWN_PEER.value = m.identity.toNat ∧ t.get TWN_STATUS.state = st ∧
      (¬ pairing → s.ChipBecomes [TWN_PEER.off] { s with twin := { s.twin with peer := some p } } t) ∧ (pairing → t.twin.nonceSent = true)) ∧
    (¬ pairing → (∀ n bytes ok, exec (.yokeAttest n bytes ok) s = .next s) ∧ exec .pairingTimeout s = .next s) ∧
    (pairing →
      (∀ bytes, shows (.yokeAttest false bytes false) (s.twin.before % 8) 2) ∧
      (s.far.seedGone = true → ∀ bytes ok, shows (.yokeAttest true bytes ok) (s.twin.before % 8) 2) ∧
      (s.far.seedGone = false → 0 < s.far.reserved → s.fuses.lms < 1024 → s.fuses.lms * 2 ^ 20 + s.far.flashCount - s.far.reserved < 2 ^ 30 →
        ∀ bytes ok, ∃ t, exec (.yokeAttest true bytes ok) s = .next t ∧ t.twin.nonceGot = sliceZ bytes 0 32 ∧
          t.far.reserved = s.far.reserved - 1 ∧ t.get TWN_STATUS.state = st) ∧
      (∀ p i bytes, s.twin.peer = some p → s.images.committed = some i → p.sequence ≠ s.get CHP_IMG_SEQ.sequence →
        shows (.yokeAttest false bytes true) (s.twin.before % 8) 3) ∧
      (∀ p i bytes r, s.twin.peer = some p → s.images.committed = some i → p.sequence = s.get CHP_IMG_SEQ.sequence → p.digest = beNat i.digest →
        p.twin = s.twinSection → leAt p.twin 0 1 ≠ 0 → st = twPAIRING → s.dev = dReady → p.ready = true →
        chooseRole (s.get TWN_CTL.role_pref) p.pref (decide (Config.identity.toNat < p.identity)) = some r → 1 ≤ r → r ≤ 2 →
        ∃ t, exec (.yokeAttest false bytes true) s = .next t ∧ t.get TWN_STATUS.role = r ∧ t.get TWN_STATUS.state = st ∧ t.twin.attested = true ∧
          t.twin.since = s.now ∧ t.get CAD_SYNC_CTL.enable = 1 ∧ t.get CAD_SYNC_CTL.role = (if r = 1 then 1 else 0)) ∧
      (s.twin.copying = false → s.twin.rejoinAt = none →
        (s.twin.attested = true → s.twin.since + 10000000000 ≤ s.now → shows .pairingTimeout (s.twin.before % 8) 7) ∧
        (s.twin.attested = false → s.twin.peer = none → s.twin.since + 1000000000 ≤ s.now → shows .pairingTimeout (s.twin.before % 8) 1) ∧
        (s.now < s.twin.since + 1000000000 → exec .pairingTimeout s = .next s)) ∧
      ((s.dev = dReady ∨ s.dev = dRunning ∨ s.dev = dRecovering) → shows .twinUnpair (s.twin.before % 8) 8) ∧
      (∀ done, shows (.yokeState .unpair done) (s.twin.before % 8) 8)) ∧
    (s.dev = dReady → s.hasJob = false → (st = twPAIRED ∨ st = twALONE ∨ st = twDETACHED) → ∃ t, exec .twinUnpair s = .next t ∧
      t.get TWN_STATUS.state = twUNPAIRED ∧ t.get TWN_STATUS.role = 0 ∧ t.get TWN_STATUS.mode = 0 ∧ t.get TWN_STATUS.checked = 0) ∧
    (st ≠ twPAIRED → exec .twnPartnerDown s = .next s ∧ exec .detachSelf s = .next s) ∧
    (st = twPAIRED → detached .detachSelf 5 ∧
      (s.twin.guilty = none → ¬ (s.get TWN_STATUS.role = 2 ∧ s.dev = dRecovering) → alone .twnPartnerDown 6) ∧
      (s.get TWN_STATUS.role = 2 → s.dev = dRecovering →
        exec .twnPartnerDown s = .next { s with twin := { s.twin with gone := s.twin.gone <|> some 6 } })) ∧
    (st = twPAIRED → s.get TWN_STATUS.role ≠ 2 → s.twin.guilty = none → ∀ done, alone (.yokeState .detach done) 6 ∧ alone (.yokeState .down done) 6) ∧
    (s.get TWN_STATUS.role ≠ 2 → ∀ done, exec (.yokeState .recovering done) s =
      .next { s with twin := { s.twin with peerDone := done.toNat, peerRecovering := true } })

/-- R372, R373: a partner's tally is kept for its stride; where both are present and equal the comparison is complete, and an off twin drops what the
near twin has released. R375: a mismatch counts. R371: an off twin keeps the partner's admissions and inputs. R370: in Standby an off twin takes lines
and saddlebags to the same addresses. R377, R378: a comparison that does not complete in time ends the pair; a lost port is recorded, and the mode does not
change (R365); with every yoke down and the partner's power gone the partner is down.
Its conclusion is that `exec` answers a next state, under conditions on state and operands alone, for yokeTally, yokeAdmit, yokeInput, yokeWrite,
save, btally, quiet, comparisonTimeout, yokePortLost and twinDetChange. -/
def Obligations.FromThePartner : Prop :=
  ∀ s : State,
    let off := s.get TWN_STATUS.role = 2
    (∀ (n tally done : Word) (flags : BitVec 8), let c : Instr := .yokeTally n tally done flags
      (s.pairedIn 1 = false → s.twState ≠ twREJOINING → exec c s = .next s) ∧
      (s.pairedIn 1 = true → s.get CAD_STRIDE.stride ≤ n.toNat + 1024 →
        (tallyOf s.twin.mine n.toNat = none → ∃ t, exec c s = .next t ∧ tallyOf t.twin.theirs n.toNat = some tally ∧ t.twin.peerDone = done.toNat ∧
          t.twin.peerRecovering = flags.getLsbD 1 ∧ t.get TWN_CMP.value = s.get TWN_CMP.value ∧
          (off → t.get TWN_DONE.value = done.toNat ∧ ∀ i, (t.port i).held = (s.port i).held.filter fun f => decide (done.toNat < f.stride))) ∧
        (tallyOf s.twin.mine n.toNat = some tally → s.twin.bad = none → s.twin.rejoinAt = none → (∀ m, s.twin.compared = some m → m < n.toNat) →
          ∃ t, exec c s = .next t ∧ t.get TWN_CMP.value = n.toNat ∧ t.twin.compared = some n.toNat ∧
            t.get TWN_MISMATCH.count = s.get TWN_MISMATCH.count) ∧
        (∀ other, tallyOf s.twin.mine n.toNat = some other → other ≠ tally → s.rcv.active = false →
          ∃ t, exec c s = .next t ∧ t.get TWN_MISMATCH.count = min TWN_MISMATCH.count.top (s.get TWN_MISMATCH.count + 1)))) ∧
    (∀ (ident stride : Word) (length : Nat) (crc : Word), let c : Instr := .yokeAdmit ident stride length crc
      (s.isOff = true → exec c s = .next { s with twin := { s.twin with admits :=
        (s.twin.admits.filter fun x => x.ident != ident.toNat) ++ [⟨ident.toNat, stride.toNat, length, crc.toNat⟩] } }) ∧
      (s.twState = twUNPAIRED → exec c s = .next s)) ∧
    (∀ (ident : Word) (bs : List Byte), bs ≠ [] → (s.isOff = true → ∃ t, exec (.yokeInput ident bs) s = .next t ∧
        t.twin.inputs = (s.twin.inputs.filter fun x => x.1 != ident.toNat) ++ [(ident.toNat, bs)] ∧ t.twin.wanted = s.twin.wanted.erase ident.toNat ∧
        ∀ tier a, s.inputSlot s.twin.inputs.length = some (tier, a) → s.tiers.inRange tier (a + 2047) = true →
          t.hbm = (s.tiers.putLines tier a (padTo 64 (bs.take 2048))).hbm ∧ t.ddr = (s.tiers.putLines tier a (padTo 64 (bs.take 2048))).ddr) ∧
      (s.isOff = false → s.twState ≠ twREJOINING → exec (.yokeInput ident bs) s = .next s)) ∧
    (∀ (ident : Word) (x : Cmd × Nat), (s.dispatch.log.find? fun x => x.1.ident == ident.toNat) = some x →
      ∃ t, exec (.yokeInput ident []) s = .next t ∧ t.twin = s.twin ∧ t.dispatch = s.dispatch ∧ t.hbm = s.hbm ∧ t.ddr = s.ddr ∧
        (s.yokes = [] → t = s)) ∧
    (∀ (ddr : Bool) (a : Nat) (lines : List Byte), let c : Instr := .yokeWrite ddr a lines
      let tier := if ddr then 2 else 1
      (s.pairedIn 2 = true → off → a % 64 = 0 → s.tiers.inRange tier a = true → s.tiers.inRange tier (a + lines.length - 1) = true →
        ∃ t, exec c s = .next t ∧ t.hbm = (s.tiers.putLines tier a (padTo 64 lines)).hbm ∧ t.ddr = (s.tiers.putLines tier a (padTo 64 lines)).ddr ∧
          t.blocks = s.blocks) ∧
      (a % 64 ≠ 0 → exec c s = .next s) ∧ (s.pairedIn 2 = false → s.twState ≠ twREJOINING → exec c s = .next s)) ∧
    (∀ (l : LBlk) (c : Word) (bs : List Byte),
      ((131072 < bs.length ∨ c.toNat % 256 ≠ 0) → exec (.save l c bs) s = .next s) ∧
      (bs.length ≤ 131072 → c.toNat % 256 = 0 → s.pairedIn 2 = true → off → s.hasSaddle l = true → ∃ t, exec (.save l c bs) s = .next t ∧
        t.saddleState l c.toNat = 2 ∧ (l.val, c.toNat) ∈ t.twin.saves ∧
        t.hbm = (s.tiers.putLines 1 (s.saddleAddr l c.toNat) (padTo 64 bs)).hbm ∧ t.ddr = s.ddr ∧ t.blocks = s.blocks)) ∧
    (∀ words, (s.pairedIn 1 = false → exec (.btally words) s = .next s) ∧
      (s.pairedIn 1 = true → s.twin.bad = none → exec (.btally words) s = .next { s with twin := { s.twin with btally := words.map BitVec.toNat } })) ∧
    (∀ n : Word, exec (.quiet n) s = .next { s with twin := { s.twin with peerQuiet := some n.toNat } }) ∧
    (let late := s.tickOf (s.compareNext + 2) + max 1 (s.get TWN_CFG.wait_ms) * 1000000 ≤ s.now
     let ends := fun (state : Nat) => ∃ t, exec .comparisonTimeout s = .next t ∧ t.get TWN_STATUS.state = state ∧ t.get TWN_STATUS.detach_cause = 2
     ((s.pairedIn 1 = false ∨ s.jobRuns = false ∨ s.twin.gone ≠ none ∨ ¬ late) → exec .comparisonTimeout s = .next s) ∧
     (s.pairedIn 1 = true → s.jobRuns = true → late → s.twin.gone = none → s.twin.bad = none →
       (s.dev = dRecovering → ends twDETACHED) ∧ (s.dev = dRunning → (s.twin.peerRecovering = true ∨ ¬ off) → s.twin.guilty = none → ends twALONE) ∧
       (s.dev = dRunning → s.twin.peerRecovering = false → off → exec .comparisonTimeout s = .next s))) ∧
    (∀ j : Fin 2, ((s.port (8 + j.val)).up = false → exec (.yokePortLost j) s = .next s) ∧
      ((s.port (8 + j.val)).up = true → ∃ t, exec (.yokePortLost j) s = .next t ∧ t.port (8 + j.val) = { s.port (8 + j.val) with up := false } ∧
        t.get TWN_YOKE.lost = s.get TWN_YOKE.lost ||| 2 ^ j.val ∧ (∀ i, i ≠ 8 + j.val → t.port i = s.port i) ∧
        t.get TWN_STATUS.state = s.twState ∧ t.get TWN_STATUS.mode = s.get TWN_STATUS.mode)) ∧
    ∀ (j : Fin 2) (on : Bool), s.twin.det < 4 → ∃ t, exec (.twinDetChange j on) s = .next t ∧
      nbit t.twin.det j = on ∧ nbit t.twin.det (1 - j.val) = nbit s.twin.det (1 - j.val) ∧ t.get TWN_YOKE.det = t.twin.det ∧
      ((s.yokes ≠ [] ∨ t.twin.det ≠ 0 ∨ s.twState ≠ twPAIRED) → t.get TWN_STATUS.state = s.twState) ∧
      (s.yokes = [] → t.twin.det = 0 → s.twState = twPAIRED → s.twin.guilty = none → ¬ (s.get TWN_STATUS.role = 2 ∧ s.dev = dRecovering) →
        t.get TWN_STATUS.state = twALONE ∧ t.get TWN_STATUS.detach_cause = 6)

/-- R390: the entry with the expected number is accepted, one that lies behind it counts as a duplicate, and another stalls its ring. R392:
each command that cannot run completes with the first refusal that holds; a LAUNCH becomes the job, an ADMIT takes its stride or the present one plus
the lead, an END bounds the job, a WAIT waits. R394: an admitted input goes out when its stride is reached. R393: the job ends when the outputs of END's stride have
left, or with the fault that ended it. R391, R396: completions are posted in order. R397, R399, R401: queries, rings, steps. R387, R438: the Rider's heartbeat, and its silence.
Its conclusion is that `exec` answers a next state, under conditions on state and operands alone, for commandFetch, cmdNop, launch, admitJob,
admitDeliver, endCmd, waitCmd, jobEnd, completionPost, commandQuery, stepGrant, ringEnable, heartbeat and riderSilent. -/
def Obligations.DispatchCommands : Prop :=
  ∀ s : State,
    let d := s.dispatch
    let now := s.begun
    let completes := fun (c : Instr) (w : Work) (status detail stride : Nat) => ∃ t, exec c s = .next t ∧
      t.dispatch.done = d.done ++ [⟨w.cmd.ring, w.cmd.seq, w.cmd.op, status, detail, (d.cpl + 1) % 2 ^ 64, stride, w.cmd.ident⟩] ∧
      t.dispatch.work = d.work.erase w ∧ t.dispatch.job = d.job ∧ t.dispatch.cpl = (d.cpl + 1) % 2 ^ 64 ∧
      t = { s with dispatch := t.dispatch, regs := t.regs } ∧ ∀ a, a ≠ CMD_LAST_DONE.off w.cmd.ring → mget chipReset t.regs a = mget chipReset s.regs a
    let takes := fun (t : State) (w w' : Work) => t.dispatch.work = d.work.map fun x => if x = w then w' else x
    ((s.dev = dOff ∨ s.cplFull = true ∨ 4096 ≤ d.work.length) → exec .commandFetch s = .next s) ∧
    (∀ r : Ring, s.dev ≠ dOff → s.cplFull = false → d.work.length < 4096 → d.turn = r.val → s.canFetch r = true →
      let n := s.cmdSize r
      let tail := s.get (CMD_RING_TAIL.index r) % n
      let e := Cmd.ofEntry r (s.tiers.bytesAt 2 (s.get (CMD_RING_CTL.base r) + 64 * tail) 64)
      let want := nextSeq (s.get (CMD_LAST_ACCEPTED.seq r))
      (e.seq = want → e.bad = false → ∃ t, exec .commandFetch s = .next t ∧ t.dispatch.work = d.work ++ [{ cmd := e }] ∧ t.dispatch.done = d.done ∧
        t.get (CMD_RING_TAIL.index r) = (tail + 1) % n ∧ t.get (CMD_LAST_ACCEPTED.seq r) = want ∧ t.dispatch.turn = (r.val + 1) % 4) ∧
      (e.seq = want → e.bad = true → ∃ t c, exec .commandFetch s = .next t ∧ t.dispatch.done = d.done ++ [c] ∧ c.seq = want ∧ c.ring = r.val ∧
        c.status = 5 ∧ t.get (CMD_RING_TAIL.index r) = (tail + 1) % n) ∧
      (e.seq ≠ want → e.seq ≠ 0 → 1 ≤ seqBehind want e.seq → seqBehind want e.seq ≤ 2 ^ 31 → ∃ t, exec .commandFetch s = .next t ∧
        t.get (CMD_RING_CTL.dups r) = min 7 (s.get (CMD_RING_CTL.dups r) + 1) ∧ t.get (CMD_RING_TAIL.index r) = (tail + 1) % n ∧
        t.dispatch.work = d.work) ∧
      (e.seq ≠ want → (e.seq = 0 ∨ seqBehind want e.seq = 0 ∨ 2 ^ 31 < seqBehind want e.seq) → ∃ t, exec .commandFetch s = .next t ∧
        t.get (CMD_RING_CTL.gap r) = 1 ∧ t.get (CMD_RING_TAIL.index r) = s.get (CMD_RING_TAIL.index r) ∧ t.dispatch.work = d.work)) ∧
    (∀ w, s.nextWork 0 = some w → completes .cmdNop w 0 0 0) ∧
    (∀ w, s.nextWork 1 = some w → let n := w.cmd.stride
      (s.dev ≠ dReady → completes .launch w 1 0 0) ∧
      (s.dev = dReady → d.job ≠ none → completes .launch w 5 0 0) ∧
      (s.dev = dReady → d.job = none →
        (n % 256 ≠ 0 → completes .launch w 2 0 0) ∧ (n % 256 = 0 → n ≤ s.get CAD_STRIDE.stride → completes .launch w 3 0 0) ∧
        (n % 256 = 0 → s.get CAD_STRIDE.stride < n → w.cmd.multi = true → s.syncReady = false → completes .launch w 4 0 0) ∧
        (n % 256 = 0 → s.get CAD_STRIDE.stride < n → (w.cmd.multi = false ∨ s.syncReady = true) → ∃ t, exec .launch s = .next t ∧
          takes t w { w with step := 1 } ∧ t.dispatch.job = 
            some { ring := w.cmd.ring, seq := w.cmd.seq, ident := w.cmd.ident, multi := w.cmd.multi, start := n } ∧
          t.get CMD_JOB.state = 1 ∧ t.dev = s.dev ∧ t.dispatch.done = d.done ∧
          (∀ p ∈ s.inService, (t.block p).queue = [] ∧ (t.block p).ctxs = [] ∧ (t.block p).get MSH_RATE.rate = 64)))) ∧
    (∀ w, s.nextWork 2 = some w → let a := w.cmd.stride
      (d.job = none → completes .admitJob w 6 0 0) ∧
      (d.job ≠ none → w.cmd.admitOk = false → completes .admitJob w 5 0 0) ∧
      (d.job ≠ none → w.cmd.admitOk = true → s.twState = twUNPAIRED →
        (a ≠ 0 → a ≤ now → completes .admitJob w 7 0 0) ∧ (now + 200 < a → completes .admitJob w 5 0 0) ∧
        ((a = 0 ∨ (now < a ∧ a ≤ now + 200)) → ∃ t, exec .admitJob s = .next t ∧ t = { s with dispatch := t.dispatch } ∧
          takes t w { w with step := 1, a := if a = 0 then now + max 2 (s.get TWN_CFG.lead) else a }))) ∧
    (∀ w p, d.again = [] → s.twin.admits = [] → s.twState = twUNPAIRED → d.log.length < 65536 →
      (d.work.find? fun w => w.cmd.op == 2 && w.step == 1 && w.a != 0 && s.reached w.a) = some w → s.pblockOf w.cmd.lblock = some p →
      let bytes := s.tiers.lines w.cmd.tier w.cmd.addr w.cmd.lines
      let there := s.tiers.inRange w.cmd.tier w.cmd.addr = true ∧ s.tiers.inRange w.cmd.tier (w.cmd.addr + 64 * w.cmd.lines - 1) = true
      (there → ∃ t h, exec .admitDeliver s = .next t ∧ takes t w { w with step := 2 } ∧ (t.unit 1400).sendq = (s.unit 1400).sendq ++ [h] ∧
        h.pkt.payload = bytes ∧ h.pkt.qid = w.cmd.queue ∧ h.pkt.tag = w.a % 256 * 65536 + w.cmd.tag ∧ h.idx = w.cmd.lblock) ∧
      (¬ there → completes .admitDeliver w 8 7 0)) ∧
    (∀ w, s.nextWork 3 = some w → let e := w.cmd.stride
      (d.job = none → completes .endCmd w 6 0 0) ∧
      ∀ j, d.job = some j →
        ((if j.begun then e < now else e < j.start) → completes .endCmd w 7 0 0) ∧
        (¬ (if j.begun then e < now else e < j.start) → ∃ t, exec .endCmd s = .next t ∧ takes t w { w with step := 1 } ∧
          t.dispatch.job = some { j with endAt := some (min (j.endAt.getD e) e) } ∧ t.get CMD_JOB.state = (if j.begun then 3 else 1))) ∧
    (∀ w, s.nextWork 4 = some w → (d.job = none → completes .waitCmd w 6 0 0) ∧
      (∀ j, d.job = some j → (j.begun = false ∨ ∀ m, d.acked = some m → m < w.cmd.stride) → ∃ t, exec .waitCmd s = .next t ∧
        t = { s with dispatch := t.dispatch } ∧ takes t w { w with step := 1 }) ∧
      (∀ j m, d.job = some j → j.begun = true → d.acked = some m → w.cmd.stride ≤ m → completes .waitCmd w 0 0 w.cmd.stride)) ∧
    (∀ j e w, d.job = some j → j.begun = true → j.endAt = some e → s.jobFaultOf = none → s.inJob = true → s.launchWork = some w →
      (s.get CHP_RCV_RELEASED.stride < e → exec .jobEnd s = .next s) ∧
      (e ≤ s.get CHP_RCV_RELEASED.stride → ∃ t c, exec .jobEnd s = .next t ∧ t.dispatch.job = none ∧ t.dev = dReady ∧ c ∈ t.dispatch.done ∧
        c.seq = w.cmd.seq ∧ c.ring = w.cmd.ring ∧ c.status = 0 ∧ c.stride = e ∧ c.ident = w.cmd.ident)) ∧
    (∀ j status code l w, d.job = some j → s.jobFaultOf = some (status, code, l) → s.inJob = true → s.launchWork = some w →
      ∃ t c, exec .jobEnd s = .next t ∧ t.dispatch.job = none ∧ t.dev = dReady ∧ t.jobFault = none ∧ c ∈ t.dispatch.done ∧
        c.seq = w.cmd.seq ∧ c.status = status ∧ c.detail = code ∧ c.stride = now ∧ c.ident = l % 2048) ∧
    (∀ c rest, d.done = c :: rest → s.dev ≠ dOff →
      let n := s.cplSize
      let head := s.get CMD_CPL_HEAD.index % n
      let a := s.get CMD_CPL_CTL.base + 64 * head
      (s.cplFull = true → exec .completionPost s = .next s) ∧
      (s.cplFull = false → ∃ t, exec .completionPost s = .next t ∧ t.dispatch = { d with done := rest } ∧
        t.get CMD_CPL_HEAD.index = (head + 1) % n ∧ t.get CMD_CPL_SEQ.seq = c.cpl % 2 ^ 64 ∧ t.hbm = s.hbm ∧
        (s.tiers.ddrOk a = true → t.ddr = (s.tiers.putLines 2 a c.bytes).ddr) ∧ s.dev = t.dev)) ∧
    (∀ v : Word, ∃ t, exec (.commandQuery v) s = .next t ∧ t.get CMD_QUERY.ring = bitsOf v 33 32 ∧ t.get CMD_QUERY.seq = bitsOf v 31 0 ∧
      (v.getLsbD 63 = false → t.get CMD_QUERY_RESULT.state = s.get CMD_QUERY_RESULT.state) ∧
      (v.getLsbD 63 = true → ∀ c, (d.history.find? fun c => c.ring == bitsOf v 33 32 && c.seq == bitsOf v 31 0) = some c →
        t.get CMD_QUERY_RESULT.state = 3 ∧ t.get CMD_QUERY_RESULT.status = c.status % 256 ∧ t.get CMD_QUERY_RESULT.cpl_seq = c.cpl % 2 ^ 48) ∧
      s.ChipBecomes [CMD_QUERY.off, CMD_QUERY_RESULT.off] s t) ∧
    (∀ r : Ring, (s.get (CMD_RING_CTL.step r) = 0 → exec (.stepGrant r) s = .next s) ∧
      (s.get (CMD_RING_CTL.step r) = 1 → r.val ∉ d.granted →
        exec (.stepGrant r) s = .next { s with dispatch := { d with granted := r.val :: d.granted } })) ∧
    (∀ (r : Fin 4) (v : Word), ∃ t, exec (.ringEnable ⟨r.val, by omega⟩ v) s = .next t ∧ t.get (CMD_RING_CTL.enable r) = bitsOf v 63 63 ∧
      t.get (CMD_RING_CTL.step r) = bitsOf v 62 62 ∧
      (s.get (CMD_RING_CTL.enable r) = 1 → t.get (CMD_RING_CTL.lg_size r) = s.get (CMD_RING_CTL.lg_size r) ∧
        t.get (CMD_RING_CTL.base r) = s.get (CMD_RING_CTL.base r) ∧ t.get (CMD_RING_HEAD.index r) = s.get (CMD_RING_HEAD.index r)) ∧
      (s.get (CMD_RING_CTL.enable r) = 0 → t.get (CMD_RING_CTL.lg_size r) = bitsOf v 55 52 ∧ t.get (CMD_RING_CTL.base r) = bitsOf v 42 0 ∧
        (v.getLsbD 63 = true → t.get (CMD_RING_HEAD.index r) = 0 ∧ t.get (CMD_RING_TAIL.index r) = 0)) ∧
      (bitsOf v 58 56 = 0 → t.get (CMD_RING_CTL.dups r) = 0) ∧
      s.ChipBecomes [CMD_RING_CTL.off r, CMD_RING_HEAD.off r, CMD_RING_TAIL.off r] { s with dispatch := t.dispatch } t) ∧
    (∀ v : Word, ∃ t, exec (.ringEnable 4 v) s = .next t ∧ t.get CMD_CPL_CTL.enable = bitsOf v 63 63 ∧
      (s.get CMD_CPL_CTL.enable = 0 → t.get CMD_CPL_CTL.lg_size = bitsOf v 55 52 ∧ t.get CMD_CPL_CTL.base = bitsOf v 42 0 ∧
        (v.getLsbD 63 = true → t.get CMD_CPL_HEAD.index = 0 ∧ t.get CMD_CPL_TAIL.index = 0)) ∧
      s.ChipBecomes [CMD_CPL_CTL.off, CMD_CPL_HEAD.off, CMD_CPL_TAIL.off] s t) ∧
    (∀ v : Word, ∃ t, exec (.ringEnable 5 v) s = .next t ∧ t.get CMD_EVT_CTL.enable = bitsOf v 63 63 ∧
      (s.get CMD_EVT_CTL.enable = 0 → t.get CMD_EVT_CTL.lg_size = bitsOf v 55 52 ∧ t.get CMD_EVT_CTL.base = bitsOf v 42 0 ∧
        (v.getLsbD 63 = true → t.get CMD_EVT_HEAD.index = 0 ∧ t.get CMD_EVT_TAIL.index = 0)) ∧
      s.ChipBecomes [CMD_EVT_CTL.off, CMD_EVT_HEAD.off, CMD_EVT_TAIL.off] s t) ∧
    (∀ v : Word, s.dev ≠ dOff → ∃ t, exec (.heartbeat v) s = .next t ∧ t.get CMD_HEARTBEAT.beat = v.toNat ∧ t.get CHP_READY.rider = 1 ∧
      t.bring.beatAt = some s.now ∧ s.ChipBecomes [CMD_HEARTBEAT.off, CHP_READY.off] { s with bring := t.bring } t) ∧
    (∀ at_, s.bring.beatAt = some at_ → (s.now < at_ + 3000000000 → exec .riderSilent s = .next s) ∧
      (at_ + 3000000000 ≤ s.now → s.far.awake = true → s.get CHP_READY.rider = 1 → ∃ t, exec .riderSilent s = .next t ∧
        t.get CHP_READY.rider = 0 ∧ t.bring.beatAt = none ∧ t.riderReqs = [] ∧ t.dispatch = d ∧ t.blocks = s.blocks))

/-- R402: a port's mode changes only in Held or Ready, and else is refused; R404: enabling, or naming a table, reads the templates. R403: a frame received goes
to the ring, and one with a bad check or no room is dropped and counted; the transmit ring's next slot leaves. R404, R372: an output message becomes its frame,
which leaves, or is held while its stride may not be released (R28: also in recovery). R405: a peer's frames are taken in their order and acknowledged, an oldest frame
unanswered for 10 µs goes again unless the gate of R25 holds it, and after 8 sends the peer is dead on the port; a remote access is refused. R407, R443: a PEER_RESET of the running
job resets the chip.
Its conclusion is that `exec` answers a next state, under conditions on state and operands alone, for traceCtlWrite, templateReload, frameReceive,
frameTransmit, outputFrame, fabricFrameReceive, fabricRetransmit, remoteRequest and peerReset. -/
def Obligations.PortsAndFabric : Prop :=
  (∀ (p : TPort) (v : Word) (s : State),
    let may := s.dev = dHeld ∨ s.dev = dReady
    let mode := bitsOf v 62 62
    let was := s.get (CMD_TRACE_CTL.mode p)
    (∃ t, exec (.traceCtlWrite p v) s = .next t ∧ t.get (CMD_TRACE_CTL.enable p) = bitsOf v 63 63 ∧
      t.get (CMD_TRACE_CTL.lg_size p) = bitsOf v 55 52 ∧ t.get (CMD_TRACE_CTL.rx_base p) = bitsOf v 42 0 ∧
      t.get (CMD_TRACE_CTL.mode p) = (if may then mode else was) ∧
      (¬ may → mode ≠ was → t.get (CMD_TRACE_CTL.mode_refused p) = 1) ∧
      ((may ∨ mode = was) → t.get (CMD_TRACE_CTL.mode_refused p) = if v.getLsbD 61 then 0 else s.get (CMD_TRACE_CTL.mode_refused p)) ∧
      (s.get (CMD_TRACE_CTL.enable p) = 0 → v.getLsbD 63 = true → (t.port p).templates = s.tiers.bytesAt 2 (s.get (CMD_TRACE_TPL.addr p)) 8192) ∧
      (∀ i, i ≠ p.val → t.port i = s.port i) ∧ t.hbm = s.hbm ∧ t.ddr = s.ddr) ∧
    ∃ t, exec (.templateReload p v) s = .next t ∧ t.get (CMD_TRACE_TPL.addr p) = bitsOf v 42 0 ∧
      t.port p = { s.port p with templates := s.tiers.bytesAt 2 (bitsOf v 42 0) 8192 } ∧ (∀ i, i ≠ p.val → t.port i = s.port i) ∧
      s.ChipBecomes [CMD_TRACE_TPL.off p] { s with ports := t.ports } t) ∧
  (∀ (p : TPort) (bytes : List Byte) (s : State),
    let serves := s.get (CMD_TRACE_CTL.enable p) = 1 ∧ s.get (CMD_TRACE_CTL.mode p) = 1 ∧ (s.port p).up = true
    let n := ringSize 6 14 (s.get (CMD_TRACE_CTL.lg_size p))
    let head := s.get (CMD_TRACE_RXHEAD.index p)
    let full := n = 0 ∨ (head + 1) % n = s.get (CMD_TRACE_RXTAIL.index p) % n
    let dropped := fun (ok : Bool) => ∃ t, exec (.frameReceive p bytes ok) s = .next t ∧
      t.get (CMD_TRACE_DROP.count p) = min (CMD_TRACE_DROP.count p).top (s.get (CMD_TRACE_DROP.count p) + 1) ∧ s.ChipBecomes [CMD_TRACE_DROP.off p] s t
    (¬ serves → ∀ ok, exec (.frameReceive p bytes ok) s = .next s) ∧
    (serves → dropped false) ∧ (serves → (bytes.length < 64 ∨ 9216 < bytes.length) → exec (.frameReceive p bytes true) s = .next s) ∧
     (serves → 64 ≤ bytes.length → bytes.length ≤ 9216 → full → dropped true) ∧
    (serves → 64 ≤ bytes.length → bytes.length ≤ 9216 → ¬ full →
      let a := s.get (CMD_TRACE_CTL.rx_base p) + head % n * 10240
      let slot := leBytes 2 bytes.length ++ List.replicate 6 0 ++ leBytes 8 s.now ++ leBytes 8 (s.get CAD_STRIDE.stride) ++ List.replicate 40 0 ++ bytes
      s.tiers.ddrOk a = true → ∃ t, exec (.frameReceive p bytes true) s = .next t ∧ t.get (CMD_TRACE_RXHEAD.index p) = (head + 1) % n ∧
        t.ddr = (s.tiers.putLines 2 a (padTo 64 slot)).ddr ∧ t.hbm = s.hbm ∧ t.get (CMD_TRACE_DROP.count p) = s.get (CMD_TRACE_DROP.count p))) ∧
  (∀ (p : TPort) (s : State),
    let n := ringSize 6 14 (s.get (CMD_TRACE_TX.lg_size p))
    let tail := s.get (CMD_TRACE_TXTAIL.index p)
    let waits := n ≠ 0 ∧ tail % n ≠ s.get (CMD_TRACE_TXHEAD.index p) % n
    let serves := s.gated = false ∧ s.get (CMD_TRACE_CTL.enable p) = 1 ∧ s.get (CMD_TRACE_CTL.mode p) = 1 ∧ (s.port p).up = true ∧
      s.get (CMD_TRACE_TX.enable p) = 1
    let slot := s.tiers.bytesAt 2 (s.get (CMD_TRACE_TX.base p) + tail % n * 10240) 10240
    (¬ (serves ∧ waits) → exec (.frameTransmit p) s = .next s) ∧
    (serves → waits → ∃ t, exec (.frameTransmit p) s = .next t ∧ t.get (CMD_TRACE_TXTAIL.index p) = (tail + 1) % n ∧
      t.out = s.out ++ [.frame p (sliceZ slot 64 (min (leAt slot 0 2) 9216))] ∧ s.ChipBecomes [CMD_TRACE_TXTAIL.off p] { s with out := t.out } t)) ∧
  (∀ (p : TPort) (s : State), let u := 1376 + p.val
    let m := s.unit u
    (takeFirst (fun k : Pkt => k.kind == kMESSAGE) m.inbox = none → exec (.outputFrame p) s = .next s) ∧
    (s.gated = true → exec (.outputFrame p) s = .next s) ∧
    ∀ k rest, takeFirst (fun k : Pkt => k.kind == kMESSAGE) m.inbox = some (k, rest) → s.get (CMD_TRACE_CTL.enable p) = 1 → (s.port p).up = true →
      s.twState = twUNPAIRED → s.get TWN_STATUS.checked = 0 →
      (s.outFrame p k = none → s.gated = false → ∃ t, exec (.outputFrame p) s = .next t ∧ (t.unit u).inbox = rest) ∧
      ∀ f, s.outFrame p k = some f → (s.hasJob = true → s.get CHP_RCV_RELEASED.stride < f.stride) →
        (s.dev = dRecovering → ∃ t, exec (.outputFrame p) s = .next t ∧ (t.unit u).inbox = rest ∧ (t.port p).held = (s.port p).held ++ [f] ∧
          t.out = s.out) ∧
        (s.dev = dReady → s.jobFault = none → s.dispatch.acked = none → (∀ i, (s.port i).held = []) → (s.port p).skip = [] → f.fabric = false →
          f.stampAt = none → ∃ t, exec (.outputFrame p) s = .next t ∧ (t.unit u).inbox = rest ∧
            t.out = s.out ++ [.frame p (fillFrame f.bytes f.flags f.ip)] ∧ (t.port p).sent = (s.port p).sent ++ [f])) ∧
  (∀ (port : FPort) (bytes : List Byte) (s : State),
    (s.carriesSync port = false → ∀ ok, exec (.fabricFrameReceive port bytes ok) s = .next s) ∧
    (s.carriesSync port = true → port.val < 8 → ∃ t, exec (.fabricFrameReceive port bytes false) s = .next t ∧
      t.get (CMD_TRACE_DROP.count port.val) = min (CMD_TRACE_DROP.count port.val).top (s.get (CMD_TRACE_DROP.count port.val) + 1)) ∧
    ∀ type src dst seq ack ident payload, s.carriesSync port = true → fabParse bytes = some (type, src, dst, seq, ack, ident, payload) →
      let x := s.port port
      let want := (mget natZero x.rx src + 1) % 2 ^ 32
      (dst ≠ s.get CMD_NODE.node → exec (.fabricFrameReceive port bytes true) s = .next s) ∧
      (dst = s.get CMD_NODE.node → type = 21 → ∃ t, exec (.fabricFrameReceive port bytes true) s = .next t ∧ t.out = s.out ∧
        (t.port port).unacked = x.unacked.filter fun f => !(f.peer == src && decide ((ack + 2 ^ 32 - f.seq) % 2 ^ 32 < 2 ^ 31))) ∧
      (dst = s.get CMD_NODE.node → type ≠ 21 → type ≠ 18 → ∃ t, exec (.fabricFrameReceive port bytes true) s = .next t ∧
        mget natZero (t.port port).rx src = (if seq = want then seq else mget natZero x.rx src) ∧ t.out.length = s.out.length + (if s.mayEmit type then 1 else 0) ∧
        (t.port port).inbox = x.inbox ++ (if seq = want ∧ (type = 16 ∨ type = 17 ∨ type = 20) then [⟨type, src, ident, payload⟩] else []))) ∧
  (∀ (port : FPort) (peer : BitVec 16) (s : State), let x := s.port port
    ((∀ f ∈ x.unacked, f.peer ≠ peer.toNat) → exec (.fabricRetransmit port peer) s = .next s) ∧
    ∀ f, (x.unacked.find? fun f => f.peer == peer.toNat) = some f →
      ((s.now < f.sentAt + 10000 ∨ x.up = false ∨ s.mayEmit (leAt f.bytes 15 1) = false) → exec (.fabricRetransmit port peer) s = .next s) ∧
      (f.sentAt + 10000 ≤ s.now → x.up = true → s.mayEmit (leAt f.bytes 15 1) = true → f.sends < 8 → ∃ t, exec (.fabricRetransmit port peer) s = .next t ∧ t.out = s.out ++ [.frame port f.bytes] ∧
        t.port port = { x with unacked := x.unacked.map fun y => if y = f then { y with sends := y.sends + 1, sentAt := s.now } else y } ∧
        ∀ i, i ≠ port.val → t.port i = s.port i) ∧
      (f.sentAt + 10000 ≤ s.now → x.up = true → s.mayEmit (leAt f.bytes 15 1) = true → 8 ≤ f.sends → x.remote = [] → ∃ t, exec (.fabricRetransmit port peer) s = .next t ∧ t.out = s.out ∧
        t.port port = { x with unacked := x.unacked.filter fun y => y.peer != peer.toNat, dead := peer.toNat :: x.dead })) ∧
  (∀ (port : FPort) (s : State), let x := s.port port
    (takeFirst (fun f : FabIn => f.type == 16 || f.type == 17) x.inbox = none → exec (.remoteRequest port) s = .next s) ∧
    ∀ f rest, takeFirst (fun f : FabIn => f.type == 16 || f.type == 17) x.inbox = some (f, rest) → x.up = true →
      ∃ t y, exec (.remoteRequest port) s = .next t ∧ (t.port port).inbox = rest ∧ (t.port port).unacked = x.unacked ++ [y] ∧ y.peer = f.src ∧
        t.out = s.out ++ (if s.mayEmit 18 then [.frame port y.bytes] else []) ∧ leAt y.bytes 15 1 = 18 ∧ t.hbm = s.hbm ∧ t.ddr = s.ddr) ∧
  ∀ (s : State), (s.peerResetFrame = none → exec .peerReset s = .next s) ∧
    ∀ i f, s.peerResetFrame = some (i, f) →
      (s.dispatch.job = none → ∃ t, exec .peerReset s = .next t ∧ t.port i = { s.port i with inbox := (s.port i).inbox.erase f } ∧
        t = { s with ports := t.ports }) ∧
      ∀ j, s.dispatch.job = some j → j.begun = true → j.ident % 2 ^ 32 = f.ident % 2 ^ 32 → s.inJob = true → ∃ t, exec .peerReset s = .next t ∧
        t.dev = dBringup ∧ t.dispatch = {} ∧ t.get CHP_STATE.prev = s.dev ∧ t.get CHP_STATE.warm_resets = min 65535 (s.get CHP_STATE.warm_resets + 1) ∧ t.chipResets =
          inWindow s.now (s.get CHP_ESC.chip_window_s) s.chipResets ∧ t.hbm = s.hbm ∧ t.ddr = s.ddr

/-- R413, R414: a record takes the next number and is kept; a flush puts every buffered one into flash. R416, R419: a reading is kept with its time, and one at the trip
temperature takes the module out of service with cause 2. R420: a session opens on the lowest free place, under the anchor where one is installed; a closed one answers nothing, and one not under an
anchor only STATE. R415, R421: the reports, the log, the stud book and the sensors are read out; R411: a value in its range is taken, another refused; R289, R295: a clear starts the path of
its cause.
Its conclusion is that `exec` answers a next state, under conditions on state and operands alone, for eventRecordIntake, logFlush, sensorRead,
sessionOpen, getState, subscribe, logRead, sensors, studRead, setConfig, outOfService, clear and partnerDown. -/
def Obligations.FarrierLogAndSessions : Prop :=
  ∀ s : State,
    (s.far.awake = false → exec .eventRecordIntake s = .next s ∧ exec .logFlush s = .next s ∧ (∀ i v, exec (.sensorRead i v) s = .next s) ∧
      ∀ ok, exec (.sessionOpen ok) s = .next s) ∧
    (∀ e rest, s.far.awake = true → s.ev = e :: rest → s.far.log.length < 1048576 → ∃ t, exec .eventRecordIntake s = .next t ∧
      t.far.log = s.far.log ++ [(s.far.next, e)] ∧ t.far.next = s.far.next + 1 ∧
      t.far.mark = (if s.far.mark ≤ s.far.next then s.far.mark + 65536 else s.far.mark) ∧ t.far.inFlash = if s.far.inFlash + 256 ≤ s.far.log.length + 1 then s.far.log.length + 1 else s.far.inFlash) ∧
    (s.far.awake = true → s.far.log.length ≤ 1048576 → ∃ t, exec .logFlush s = .next t ∧ t.far.log = s.far.log ∧ t.far.inFlash = s.far.log.length ∧
      t.far.flushAt = s.now ∧ (∀ x ∈ s.far.log.getLast?, t.get FAR_LOG_NEWEST.seq = x.1 % 2 ^ 64) ∧
      ∀ x ∈ s.far.log.head?, t.get FAR_LOG_OLDEST.seq = x.1 % 2 ^ 64) ∧
    (∀ (i : BitVec 8) (v : BitVec 32), s.far.awake = true → s.far.reading = true → sensorUsed i.toNat = true → ∃ t, exec (.sensorRead i v) s = .next t ∧
      t.sensor i.toNat = v.toNat ∧ (∀ j, j ≠ i.toNat → t.sensor j = s.sensor j) ∧
      (i.toNat = 98 → t.far.samplesW = s.far.samplesW + 1 ∧ t.far.sumW = s.far.sumW + v.toNat ∧ t.get FAR_PWR.input_w = min v.toNat 65535) ∧
      (s.tripping i.toNat (signed 32 v.toNat) = true → s.tripping i.toNat (signed 32 (s.sensor i.toNat)) = false → s.dev ≠ dOff → s.dev ≠ dOos →
        t.dev = dOos ∧ t.get CHP_STATE.oos_cause = 2 ∧ t.pins.powerGood = false ∧ t.far.railBreak = true)) ∧
    (∀ ok, s.far.awake = true → s.get FAR_SCAN.openS = 0 →
      (s.far.anchor ≠ none → ok = false → exec (.sessionOpen ok) s = .next s) ∧
      (s.far.anchor = none ∨ ok = true → ∀ i, i < 4 → (mget sessionInit s.far.sessions i).open_ = false →
        (∀ j, j < i → (mget sessionInit s.far.sessions j).open_ = true) → ∃ t, exec (.sessionOpen ok) s = .next t ∧
          mget sessionInit t.far.sessions i = { open_ := true, anchored := s.far.anchor.isSome } ∧
          (∀ j, j ≠ i → mget sessionInit t.far.sessions j = mget sessionInit s.far.sessions j) ∧ t = { s with far := { s.far with sessions := t.far.sessions } })) ∧
    ∀ (i : Fin 4) (n : BitVec 32),
      let x := mget sessionInit s.far.sessions i
      let commands : List Instr := [.getState i n, .subscribe i n 0, .logRead i n 0, .sensors i n, .studRead i n 0, .setConfig i n (.mgmtCapW 0),
        .outOfService i n, .clear i n, .partnerDown i n, .packPush i n [], .fwStage i n [], .fwActivate i n 2 0, .fwCommit i n 2, .installKey i n [],
        .removeKey i n [], .attest i n [], .scanUnlock i n false]
      let answers := fun (c : Instr) (r : MgmtResult) (bytes : List Byte) => exec c s = .next { s with out := s.out ++ [.answer i n.toNat r bytes] }
      (s.far.awake = false ∨ s.get FAR_SCAN.openS = 1 ∨ x.open_ = false → ∀ c ∈ commands, exec c s = .next s) ∧
      (s.far.awake = true → s.get FAR_SCAN.openS = 0 → x.open_ = true →
        (x.anchored = false → ∀ c ∈ commands, answers c .state []) ∧
        (x.anchored = true → s.far.rom = false →
          answers (.getState i n) .ok s.stateReport ∧
          (∀ seq : Word, answers (.logRead i n seq) (s.logLookup seq.toNat).1 (s.logLookup seq.toNat).2) ∧
          (∀ index, answers (.studRead i n index) .ok ((s.stud.drop index).flatMap Stud.bytes)) ∧
          answers (.sensors i n) .ok (((List.range 134).filter fun j => mget natZero s.far.sensAt j != 0).flatMap fun j => leBytes 1 j ++ leBytes 4 (s.sensor j)) ∧
          (∀ start : Word, s.far.next ≤ start.toNat + 65537 → ∃ t, exec (.subscribe i n start) s = .next t ∧
            t.out = s.out ++ [.answer i n.toNat .ok []] ++ (s.far.log.filter fun y => decide (start.toNat ≤ y.1)).map (fun y => .record i (y.2.bytes y.1)) ∧
            mget sessionInit t.far.sessions i = { x with next := some (max start.toNat s.far.next) }) ∧
          (∀ start : Word, start.toNat + 65537 < s.far.next → ∃ t, exec (.subscribe i n start) s = .next t ∧
            t.out = s.out ++ [.answer i n.toNat .ok [], .lag i start.toNat] ∧ mget sessionInit t.far.sessions i = { x with next := none }) ∧
          (∀ v, (16 ≤ v ∧ v ≤ 1024 ∧ v % 16 = 0) → exec (.setConfig i n (.riderGib v)) s =
            .next { s with far := { s.far with riderGib := v }, out := s.out ++ [.answer i n.toNat .ok []] }) ∧
          (∀ v, ¬ (16 ≤ v ∧ v ≤ 1024 ∧ v % 16 = 0) → answers (.setConfig i n (.riderGib v)) .refused []) ∧
          (∀ bs, exec (.setConfig i n (.mgmtAddr bs)) s =
            .next { s with far := { s.far with mgmtAddr := bs }, out := s.out ++ [.answer i n.toNat .ok []] }) ∧
          (∀ v, (v = 0 ∨ (s.fuses.capW ≤ 2 * v ∧ v ≤ s.fuses.capW)) → ∃ t, exec (.setConfig i n (.mgmtCapW v)) s = .next t ∧ t.far.mgmtCap = v ∧
            t.get FAR_PWR.cap_w = t.cap % 65536) ∧
          (∀ v, ¬ (v = 0 ∨ (s.fuses.capW ≤ 2 * v ∧ v ≤ s.fuses.capW)) → answers (.setConfig i n (.mgmtCapW v)) .refused []) ∧
          (∀ v, 100 ≤ v → v ≤ 110 → ∃ t, exec (.setConfig i n (.thermalTripC v)) s = .next t ∧ t.far.tripC = v) ∧
          (∀ v, (v < 100 ∨ 110 < v) → answers (.setConfig i n (.thermalTripC v)) .refused []) ∧
          (s.dev ≠ dOff → s.dev ≠ dOos → ∃ t, exec (.outOfService i n) s = .next t ∧ t.dev = dOos ∧ t.get CHP_STATE.oos_cause = 6 ∧
            (s.twState ≠ twPAIRED → t.out = s.out ++ [.answer i n.toNat .ok []])) ∧
          (s.dev ≠ dOos → answers (.clear i n) .state []) ∧
          (s.dev = dOos → let cold := s.get CHP_STATE.oos_cause = 1 ∨ s.get CHP_STATE.oos_cause = 2 ∨ s.get CHP_STATE.oos_cause = 5
            ∃ t, exec (.clear i n) s = .next t ∧ t.dev = dBringup ∧ t.get CHP_BRINGUP.step = (if cold then 1 else 12) ∧ t.stud = s.stud ∧
              t.fuses = s.fuses ∧ t.out = s.out ++ [.answer i n.toNat .ok []]) ∧
          (s.twState ≠ twPAIRED → answers (.partnerDown i n) .ok []) ∧
          (s.twState = twPAIRED → s.twin.guilty = none → ¬ (s.get TWN_STATUS.role = 2 ∧ s.dev = dRecovering) → ∃ t, exec (.partnerDown i n) s = .next t ∧ t.get TWN_STATUS.state = twALONE ∧
            t.get TWN_STATUS.detach_cause = 6)))

/-- R300, R323: a pack that passes becomes the active one, in bring-up only from Held on. R426: an image that passes its checks goes into the slot not in use. R427: activation changes the slot in use, at once or from the next Rider boot, and is refused while another runs; a commit raises the rollback floor and never
lowers it. R420, R423: an anchor is installed, and at most 8 signing keys; one with the identifier of another replaces it. R424: each attestation uses one index; R429: opening scan destroys the seed, ends
every session, and takes the module out of service. R431: the mailbox takes an operation while it is not busy, and shows its result.
Its conclusion is that `exec` answers a next state, under conditions on state and operands alone, for packPush, fwStage, fwActivate, fwCommit,
installAnchor, installKey, removeKey, attest, scanUnlock, mbxLogRead, mbxStudRead, mbxLease and mbxPartnerDown. -/
def Obligations.FirmwareKeysAndMailbox : Prop :=
  ∀ s : State,
    (∀ (i : Fin 4) (n : BitVec 32),
      let x := mget sessionInit s.far.sessions i
      let says_ := fun (r : MgmtResult) (bytes : List Byte) => s.out ++ [Output.answer i n.toNat r bytes]
      let answers := fun (c : Instr) (r : MgmtResult) => exec c s = .next { s with out := says_ r [] }
      s.far.awake = true → s.get FAR_SCAN.openS = 0 → x.open_ = true → x.anchored = true → s.far.rom = false →
        (∀ bs, let r := s.packCheck bs
          ∃ t, exec (.packPush i n bs) s = .next t ∧ t.get TST_CHP_PACK_STATUS.last_result = r ∧ 
            t.far.pack = (if r = 0 ∧ s.dev ≠ dBringup then bs else s.far.pack) ∧
            t.far.packNext = (if r = 0 ∧ s.dev = dBringup then bs else s.far.packNext) ∧
            t.out = says_ (.pack r) [] ∧ (r = 0 → leAt s.far.newestPack 8 8 < leAt bs 8 8)) ∧
        (∀ bs, s.far.activating ≠ none → answers (.fwStage i n bs) .fwBusy) ∧
        (∀ bs, s.far.activating = none → s.fwCheck bs ≠ .ok → answers (.fwStage i n bs) (s.fwCheck bs)) ∧
        (∀ bs, s.far.activating = none → s.fwCheck bs = .ok → ∃ t, exec (.fwStage i n bs) s = .next t ∧
          (let w := s.fw (leAt bs 4 1)
           (t.fw (leAt bs 4 1)).other = bs ∧ (t.fw (leAt bs 4 1)).used = w.used ∧ (t.fw (leAt bs 4 1)).active = w.active) ∧
          (t.fw (leAt bs 4 1)).staged = true ∧ t.out = says_ .ok [] ∧ ∀ c, c ≠ leAt bs 4 1 → t.fw c = s.fw c) ∧
        (∀ (c : Fin 6) at_, s.far.activating = none → ((s.fw c).staged = false ∧ (s.fw c).fresh = false ∨ c.val = 0) →
          answers (.fwActivate i n c at_) .state) ∧
        (∀ at_, s.far.activating = none → (s.fw 2).staged = true → ∃ t, exec (.fwActivate i n 2 at_) s = .next t ∧
          t.fw 2 = { s.fw 2 with active := 1 - (s.fw 2).active, staged := true, fresh := false, waits := true } ∧ t.out = says_ .ok []) ∧
        (∀ (c : Fin 6) at_, s.far.activating ≠ none → answers (.fwActivate i n c at_) .fwBusy) ∧
        (∀ (c : Fin 6) at_, (c.val = 3 ∨ c.val = 4) → s.far.activating = none → (s.fw c).staged = true → (s.dev = dHeld ∨ s.dev = dReady) →
          (Config.karPasses s.freeCtr = true → ∃ t, exec (.fwActivate i n c at_) s = .next t ∧
            t.fw c = { s.fw c with active := 1 - (s.fw c).active, staged := true, fresh := true } ∧ t.out = says_ .ok []) ∧
          (Config.karPasses s.freeCtr = false → ∃ t, exec (.fwActivate i n c at_) s = .next t ∧ t.fw c = s.fw c ∧ t.out = says_ .fwKarFailed [])) ∧
        (∀ c : Fin 6, (s.fw c).fresh = false → answers (.fwCommit i n c) .state) ∧
        (∀ c : Fin 6, (s.fw c).fresh = true → ∃ t, exec (.fwCommit i n c) s = .next t ∧ t.fw c = { s.fw c with fresh := false, staged := false } ∧
          mget natZero t.fuses.rollback c = max (leAt (s.fw c).used 6 1) (mget natZero s.fuses.rollback c) ∧ t.out = says_ .ok []) ∧
        (∀ cert, ∃ t, exec (.installAnchor i n cert) s = .next t ∧ t.far.anchor = some cert ∧ t.out = says_ .ok [] ∧
          (s.stud.length < 131072 → t.stud = s.stud ++ [⟨9, 0, 0, s.now⟩])) ∧
        (∀ key, let rest := s.signKeys.filter fun k => sliceZ k 8 16 != sliceZ key 8 16
          (keyForm key = false ∨ 8 ≤ rest.length → answers (.installKey i n key) .refused) ∧
          (keyForm key = true → rest.length < 8 → exec (.installKey i n key) s = .next { s with signKeys := rest ++ [key], out := says_ .ok [] })) ∧
        (∀ ident, let rest := s.signKeys.filter fun k => sliceZ k 8 16 != sliceZ ident 0 16
          (rest = s.signKeys → answers (.removeKey i n ident) .refused) ∧
          (rest ≠ s.signKeys → exec (.removeKey i n ident) s = .next { s with signKeys := rest, out := says_ .ok [] })) ∧
        (∀ nonce, (s.far.seedGone = true → answers (.attest i n nonce) .attestLocked) ∧
          (s.far.seedGone = false → 0 < s.far.reserved → s.fuses.lms < 1024 → s.fuses.lms * 2 ^ 20 + s.far.flashCount - s.far.reserved < 2 ^ 30 →
            ∃ t sig, exec (.attest i n nonce) s = .next t ∧ t.out = says_ .ok sig ∧ t.far.reserved = s.far.reserved - 1 ∧
              t.far.flashCount = s.far.flashCount ∧ t.fuses = s.fuses)) ∧
        (∀ scrub, (s.dev ≠ dHeld → s.dev ≠ dOos → answers (.scanUnlock i n scrub) .state) ∧
          ((s.dev = dHeld ∨ s.dev = dOos) → ∃ t, exec (.scanUnlock i n scrub) s = .next t ∧ t.dev = dOos ∧
            (s.dev = dHeld → t.get CHP_STATE.oos_cause = 6) ∧ t.far.seedGone = true ∧ t.far.sessions = [] ∧ t.get FAR_SCAN.openS = 1 ∧
            t.get FAR_SCAN.scrubbed = b2n scrub ∧ (scrub = true → ∀ q, (t.block q).spad = []) ∧ (s.twState ≠ twPAIRED → t.out = says_ .ok [])))) ∧
    ((s.far.awake = false ∨ s.get FAR_MBX_STATUS.busy = 1) →
      ∀ c ∈ ([.mbxLogRead, .mbxStudRead, .mbxLease, .mbxPartnerDown] : List Instr), exec c s = .next s) ∧
    (s.far.awake = true → s.get FAR_MBX_STATUS.busy = 0 →
      let arg := s.get FAR_MBX_ARG.arg
      let ends := fun (c : Instr) (op r : Nat) => ∃ t, exec c s = .next t ∧ t.get FAR_MBX_CMD.op = op ∧ t.get FAR_MBX_STATUS.result = r ∧
        t.get FAR_MBX_STATUS.busy = 0
      (∀ seq e, (s.far.log.take s.far.inFlash).find? (fun x => x.1 == arg) = some (seq, e) → (∀ x ∈ (s.far.log.take s.far.inFlash).head?, x.1 ≤ arg) →
        (∀ x ∈ (s.far.log.take s.far.inFlash).getLast?, arg ≤ x.1) → ends .mbxLogRead 1 0 ∧
          ∃ t, exec .mbxLogRead s = .next t ∧ ∀ k < 8, t.get (FAR_MBX_BUF.data k) = leAt (e.bytes arg) (8 * k) 8) ∧
      ((∀ x ∈ (s.far.log.take s.far.inFlash).getLast?, x.1 < arg) → ends .mbxLogRead 1 3) ∧
      (∀ x, s.stud[arg]? = some x → ends .mbxStudRead 2 0 ∧ ∃ t, exec .mbxStudRead s = .next t ∧
        ∀ k < 4, t.get (FAR_MBX_BUF.data k) = leAt x.bytes (8 * k) 8) ∧
      (s.stud[arg]? = none → ends .mbxStudRead 2 5) ∧
      (arg / 2 ^ 61 % 4 = 1 → arg / 2 ^ 56 % 16 = 8 → s.leaseFree 8 (arg % 65536) = true → ends .mbxLease 3 0 ∧
        ∃ t, exec .mbxLease s = .next t ∧ t.leases.held = s.leases.held ++ [{ code := 8, res := arg % 65536, by_ := 2, since := s.now }]) ∧
      (arg / 2 ^ 61 % 4 = 1 → arg / 2 ^ 56 % 16 = 8 → s.leaseFree 8 (arg % 65536) = false → arg / 2 ^ 60 % 2 = 1 → ends .mbxLease 3 6) ∧
      (s.twState ≠ twPAIRED → ends .mbxPartnerDown 4 0) ∧
      (s.twState = twPAIRED → s.twin.guilty = none → ¬ (s.get TWN_STATUS.role = 2 ∧ s.dev = dRecovering) → ends .mbxPartnerDown 4 0 ∧
        ∃ t, exec .mbxPartnerDown s = .next t ∧ t.get TWN_STATUS.state = twALONE))

/-- R474: an access to an address outside every region of R473, or to a place of the control space that no table lists, completes: a read returns zero,
a write changes nothing, and event 0xBD with reason 2 at level 2 is recorded. It is so for the access named as such, for an access by a core to a line outside
every region, and for a 64-bit register write to an unlisted place. In Off nothing of the module runs (R4), and no access happens.
Its conclusion is that `exec` answers a next state, under conditions on state and operands alone, for riderWindowAccess and unmappedAccess. -/
def Obligations.UnmappedAccesses : Prop :=
  ∀ (a : Nat) (s : State), a < 2 ^ 48 →
    ¬ a < s.far.riderNow * 2 ^ 30 → ¬ (0x200000000000 ≤ a ∧ a < 0x210000000000) → ¬ (0x300000000000 ≤ a ∧ a < 0x380000000000) →
    ¬ 0xF00000000000 ≤ a → (inControl a = true → listed a = false) → s.dev ≠ dOff →
    let e : Ev := { level := 2, code := 0xBD, detail := a, detail2 := 2, stride := s.get CAD_STRIDE.stride, beatNs := s.cad.beatAt, subNs := min (s.now - s.cad.beatAt) 0xFFFFFFFF }
    let wrote : State := { s with ev := s.ev ++ [e] }
    let read : State := { s with ev := s.ev ++ [e], out := s.out ++ [.readZero a] }
    exec (.unmappedAccess a false) s = .next read ∧ exec (.unmappedAccess a true) s = .next wrote ∧
      (inControl a = false → ∀ (core : Fin 16) (size : Nat), 0 < size → a % 64 + size ≤ 64 →
        exec (.riderWindowAccess core a size none) s = .next read ∧ ∀ bytes, exec (.riderWindowAccess core a size (some bytes)) s = .next wrote) ∧
      (inControl a = true → a % 8 = 0 → ∀ v, exec (.registerWrite a v) s = .next wrote)

/-- R475: an access of a window becomes one request for each aligned line it touches, which leaves at the core's port for the tier address
of R473; R477: in other states than Held, Ready, Running and Recovering none does. R5: a narrow or unaligned register access reads zero or is ignored, with event
0xBD and reason 1. R6: a write sets an rw field, leaves an ro field, clears a w1c bit that is written 1 and a count that is written zero, and leaves an
rwl field while its lock is engaged.
Its conclusion is that `exec` answers a next state, under conditions on state and operands alone, for riderWindowAccess, unmappedAccess,
narrowRegisterAccess and registerWrite. -/
def Obligations.RiderAccesses : Prop :=
  (∀ s : State, s.dev = dOff → (∀ core a size data, exec (.riderWindowAccess core a size data) s = .next s) ∧
    (∀ a write, exec (.unmappedAccess a write) s = .next s) ∧ (∀ a size write, exec (.narrowRegisterAccess a size write) s = .next s) ∧
    ∀ a v, exec (.registerWrite a v) s = .next s) ∧
  (∀ (core : Fin 16) (a size : Nat) (data : Option (List Byte)) (s : State) (tier t : Nat), s.far.riderNow ≤ 1024 → 0 < size →
    (tier = 1 ∧ 0x200000000000 ≤ a ∧ a + size ≤ 0x210000000000 ∧ t = a - 0x200000000000) ∨
      (tier = 2 ∧ 0x300000000000 ≤ a ∧ a + size ≤ 0x380000000000 ∧ t = a - 0x300000000000) ∨
      (tier = 2 ∧ a + size ≤ s.far.riderNow * 2 ^ 30 ∧ t = 2 ^ 42 + a) →
    ((s.dev = dBringup ∨ s.dev = dOos) → exec (.riderWindowAccess core a size data) s = .next s) ∧
    ((s.dev = dHeld ∨ s.dev = dReady ∨ s.dev = dRunning ∨ s.dev = dRecovering) →
      ∃ r, exec (.riderWindowAccess core a size data) s = .next r ∧ r.riderReqs.length = s.riderReqs.length + (a % 64 + size + 63) / 64 ∧
        r.hbm = s.hbm ∧ r.ddr = s.ddr ∧ r.regs = s.regs ∧ r.out = s.out ∧ r.ev = s.ev ∧
        (∀ u, u ≠ 1392 + core.val % 2 → r.unit u = s.unit u) ∧
        (a % 64 + size ≤ 64 → (∀ bytes ∈ data, bytes.length = size) → let u := 1392 + core.val % 2
          let id := s.freeCtr % 2 ^ 24
          r.riderReqs = s.riderReqs ++ [⟨id, core.val % 2, core, t, size, data.isSome⟩] ∧
          let k : Pkt := { (riderPkt a size data) with tag := id, addr := t / 64 * 64 }
          (r.unit u).sendq = (s.unit u).sendq ++ [{ pkt := k, idx := memEndpoint tier (routerOf u % 40) t, owner := .mem id }]))) ∧
  (∀ (a size : Nat) (write : Bool) (s : State), s.dev ≠ dOff → inControl a = true → listed a = true →
    (size = 8 → a % 8 = 0 → exec (.narrowRegisterAccess a size write) s = .next s) ∧
    (¬ (size = 8 ∧ a % 8 = 0) →
      exec (.narrowRegisterAccess a size write) s =
        .next { s with ev := s.ev ++ [s.stamp { level := 2, code := 0xBD, detail := a, detail2 := 1 }], out := s.out ++ (if write then [] else [.readZero a]) })) ∧
  (∀ (a : Nat) (v : Word) (s : State), (a % 8 ≠ 0 ∨ inControl a = false ∨ (0x100030000000 ≤ a ∧ listed a = true ∧ s.far.awake = false) ∨
      (a < 0x100030000000 ∧ listed a = true ∧ s.released = false)) → exec (.registerWrite a v) s = .next s) ∧
  ∀ (v : Word) (s : State), s.released = true →
    (∃ t, exec (.registerWrite TWN_CFG.off v) s = .next t ∧ t.get TWN_CFG.wait_ms = bitsOf v 63 48 ∧ t.get TWN_CFG.lead = bitsOf v 47 40 ∧
      t.get TWN_CFG.copy_pct = bitsOf v 39 32 ∧ s.ChipBecomes [TWN_CFG.off] s t) ∧
    (∃ t, exec (.registerWrite TWN_PEER.off v) s = .next t ∧ s.ChipBecomes [] s t) ∧
    (∃ t, exec (.registerWrite TST_CHP_SUSPECT.off v) s = .next t ∧
      t.get TST_CHP_SUSPECT.valid = (if v.getLsbD 63 then 0 else s.get TST_CHP_SUSPECT.valid) ∧
      t.get TST_CHP_SUSPECT.lblock = s.get TST_CHP_SUSPECT.lblock ∧ t.get TST_CHP_SUSPECT.unit = s.get TST_CHP_SUSPECT.unit ∧
      s.ChipBecomes [TST_CHP_SUSPECT.off] s t) ∧
    (∃ t, exec (.registerWrite LSE_BUSY.off v) s = .next t ∧ t.get LSE_BUSY.count = (if v = 0 then 0 else s.get LSE_BUSY.count) ∧
      s.ChipBecomes [LSE_BUSY.off] s t) ∧
    (∃ t, exec (.registerWrite CMD_NODE.off v) s = .next t ∧ t.get CMD_NODE.node = (if s.hasJob then s.get CMD_NODE.node else bitsOf v 15 0) ∧
      s.ChipBecomes [CMD_NODE.off] s t) ∧
    ∃ t, exec (.registerWrite FAR_SENS_SEL.off v) s = .next t ∧
      t.get FAR_SENS_SEL.index = (if s.far.awake then bitsOf v 7 0 else s.get FAR_SENS_SEL.index) ∧ s.ChipBecomes [FAR_SENS_SEL.off] s t
end

