-- ==== Sys2Proof/Laws/Sparse.lean ====
section
/-! SUPPORT. Sparse tables and byte memories: read after write, and the canonical form that every write keeps. -/

namespace Sys2Proof.Machine

variable {α : Type}

@[simp] theorem mget_nil (d : Nat → α) (k : Nat) : mget d [] k = d k := rfl

/-- Listing a value makes its key read it. -/
theorem mget_mins_same (d : Nat → α) (k : Nat) (v : α) (m : Cells α) : mget d (mins k v m) k = v := by
  induction m with
  | nil => simp [mins, mget]
  | cons e m ih =>
    obtain ⟨a, w⟩ := e
    by_cases h1 : k < a
    · simp [mins, mget, h1]
    · by_cases h2 : k = a
      · simp [mins, mget, h2]
      · simp [mins, mget, h1, h2, Ne.symm h2, ih]

/-- Listing a value leaves every other key as it reads. -/
theorem mget_mins_ne (d : Nat → α) {k j : Nat} (v : α) (h : j ≠ k) (m : Cells α) :
    mget d (mins k v m) j = mget d m j := by
  induction m with
  | nil => simp [mins, mget, Ne.symm h]
  | cons e m ih =>
    obtain ⟨a, w⟩ := e
    by_cases h1 : k < a
    · simp [mins, mget, h1, Ne.symm h]
    · by_cases h2 : k = a
      · subst h2
        simp [mins, mget, Ne.symm h]
      · simp only [mins, h1, h2, if_false, mget, ih]

/-- A removed key reads as its default. -/
theorem mget_mdel_same (d : Nat → α) (k : Nat) (m : Cells α) : mget d (mdel k m) k = d k := by
  induction m with
  | nil => rfl
  | cons e m ih =>
    obtain ⟨a, w⟩ := e
    by_cases h : a = k
    · simpa [mdel, h] using ih
    · simpa [mdel, h, mget] using ih

/-- Removing a key leaves every other key as it reads. -/
theorem mget_mdel_ne (d : Nat → α) {k j : Nat} (h : j ≠ k) (m : Cells α) : mget d (mdel k m) j = mget d m j := by
  induction m with
  | nil => rfl
  | cons e m ih =>
    obtain ⟨a, w⟩ := e
    by_cases ha : a = k
    · subst ha
      simpa [mdel, mget, Ne.symm h] using ih
    · by_cases hj : a = j
      · simp [mdel, mget, hj, h]
      · simpa [mdel, ha, mget, hj] using ih

/-- A key reads what was written to it. -/
@[simp] theorem mget_mset_same [DecidableEq α] (d : Nat → α) (m : Cells α) (k : Nat) (v : α) :
    mget d (mset d m k v) k = v := by
  unfold mset
  split
  · next h => rw [mget_mdel_same, h]
  · exact mget_mins_same d k v m

/-- A write leaves every other key as it reads. -/
theorem mget_mset_ne [DecidableEq α] (d : Nat → α) (m : Cells α) {k j : Nat} (v : α) (h : j ≠ k) :
    mget d (mset d m k v) j = mget d m j := by
  unfold mset
  split
  · exact mget_mdel_ne d h m
  · exact mget_mins_ne d v h m

/-- Every key after a write. -/
theorem mget_mset [DecidableEq α] (d : Nat → α) (m : Cells α) (k j : Nat) (v : α) :
    mget d (mset d m k v) j = if j = k then v else mget d m j := by
  by_cases h : j = k
  · simp [h]
  · simp [h, mget_mset_ne d m v h]

/-- A cleared range reads as its defaults. -/
theorem mget_mclear_in (d : Nat → α) {lo hi k : Nat} (h1 : lo ≤ k) (h2 : k < hi) (m : Cells α) :
    mget d (mclear lo hi m) k = d k := by
  induction m with
  | nil => rfl
  | cons e m ih =>
    obtain ⟨a, w⟩ := e
    by_cases ha : a < lo ∨ hi ≤ a
    · have : a ≠ k := by omega
      have hb : (decide (a < lo) || decide (hi ≤ a)) = true := by simpa using ha
      simp only [mclear, List.filter_cons, hb, if_true, mget, this, if_false]
      exact ih
    · have hb : (decide (a < lo) || decide (hi ≤ a)) = false := by simpa using ha
      simp only [mclear, List.filter_cons, hb]
      exact ih

/-- A key outside a cleared range reads as before. -/
theorem mget_mclear_out (d : Nat → α) {lo hi k : Nat} (h : k < lo ∨ hi ≤ k) (m : Cells α) :
    mget d (mclear lo hi m) k = mget d m k := by
  induction m with
  | nil => rfl
  | cons x m ih =>
    obtain ⟨a, v⟩ := x
    by_cases c : a < lo ∨ hi ≤ a
    · rw [mclear, List.filter_cons_of_pos (by simpa using c)]
      show (if a = k then v else mget d (mclear lo hi m) k) = (if a = k then v else mget d m k)
      rw [ih]
    · rw [mclear, List.filter_cons_of_neg (by simpa using c)]
      show mget d (mclear lo hi m) k = (if a = k then v else mget d m k)
      rw [if_neg (by omega), ih]

/-- A lower bound may be lowered. -/
theorem mwfFrom_mono [DecidableEq α] (d : Nat → α) {lo lo' : Nat} (h : lo' ≤ lo) {m : Cells α}
    (w : mwfFrom d lo m = true) : mwfFrom d lo' m = true := by
  cases m with
  | nil => rfl
  | cons e m =>
    obtain ⟨a, v⟩ := e
    simp only [mwfFrom, Bool.and_eq_true, decide_eq_true_eq] at w ⊢
    exact ⟨⟨by omega, w.1.2⟩, w.2⟩

/-- Filtering keeps the canonical form. -/
theorem mwfFrom_filter [DecidableEq α] (d : Nat → α) (f : Nat × α → Bool) (m : Cells α) :
    ∀ lo, mwfFrom d lo m = true → mwfFrom d lo (m.filter f) = true := by
  induction m with
  | nil => intro lo w; exact w
  | cons e m ih =>
    intro lo w
    obtain ⟨a, v⟩ := e
    simp only [mwfFrom, Bool.and_eq_true, decide_eq_true_eq] at w
    by_cases h : f (a, v) = true
    · simp only [List.filter_cons, h, if_true, mwfFrom, Bool.and_eq_true, decide_eq_true_eq]
      exact ⟨w.1, ih _ w.2⟩
    · simp only [List.filter_cons, h]
      exact mwfFrom_mono d (by omega) (ih _ w.2)

/-- Listing a value other than the default keeps the canonical form. -/
theorem mwfFrom_mins [DecidableEq α] (d : Nat → α) {k : Nat} {v : α} (hv : v ≠ d k) (m : Cells α) :
    ∀ lo, lo ≤ k → mwfFrom d lo m = true → mwfFrom d lo (mins k v m) = true := by
  induction m with
  | nil => intro lo hk _; simp [mins, mwfFrom, hk, hv]
  | cons e m ih =>
    intro lo hk w
    obtain ⟨a, u⟩ := e
    simp only [mwfFrom, Bool.and_eq_true, decide_eq_true_eq] at w
    by_cases h1 : k < a
    · simp only [mins, h1, if_true, mwfFrom, Bool.and_eq_true, decide_eq_true_eq]
      exact ⟨⟨hk, hv⟩, ⟨by omega, w.1.2⟩, w.2⟩
    · by_cases h2 : k = a
      · subst h2
        simp only [mins, Nat.lt_irrefl, if_false, if_true, mwfFrom, Bool.and_eq_true, decide_eq_true_eq]
        exact ⟨⟨hk, hv⟩, w.2⟩
      · simp only [mins, h1, h2, if_false, mwfFrom, Bool.and_eq_true, decide_eq_true_eq]
        exact ⟨w.1, ih _ (by omega) w.2⟩

/-- A write keeps the canonical form. -/
theorem mwf_mset [DecidableEq α] (d : Nat → α) {m : Cells α} (k : Nat) (v : α) (w : mwf d m = true) :
    mwf d (mset d m k v) = true := by
  unfold mwf at *
  unfold mset
  split
  · exact mwfFrom_filter d _ m 0 w
  · next h => exact mwfFrom_mins d h m 0 (Nat.zero_le _) w

/-- Clearing a range keeps the canonical form. -/
theorem mwf_mclear [DecidableEq α] (d : Nat → α) {m : Cells α} (lo hi : Nat) (w : mwf d m = true) :
    mwf d (mclear lo hi m) = true := mwfFrom_filter d _ m 0 w

/-- A byte reads what was written to it. -/
@[simp] theorem Memory.byte_put_same (m : Memory) (a : Nat) (b : Byte) : (m.put a b).byte a = b :=
  mget_mset_same byteZero m a b

/-- A write leaves every other byte as it reads. -/
theorem Memory.byte_put_ne (m : Memory) {a x : Nat} (b : Byte) (h : x ≠ a) : (m.put a b).byte x = m.byte x :=
  mget_mset_ne byteZero m b h

/-- A memory in which nothing is listed reads zero. -/
@[simp] theorem Memory.byte_nil (a : Nat) : Memory.byte [] a = 0 := rfl

/-- Every write of a byte keeps the canonical form. -/
theorem Memory.put_wf {m : Memory} (a : Nat) (b : Byte) (w : m.wf = true) : (m.put a b).wf = true :=
  mwf_mset byteZero a b w

/-- Bytes below a run of writes are left as they were. -/
theorem Memory.byte_puts_below (bs : List Byte) : ∀ (m : Memory) (a x : Nat), x < a → (m.puts a bs).byte x = m.byte x := by
  induction bs with
  | nil => intro m a x _; rfl
  | cons b bs ih =>
    intro m a x h
    rw [Memory.puts, ih _ _ _ (by omega), Memory.byte_put_ne m b (by omega)]

/-- What a run of writes leaves in its own bytes. -/
theorem Memory.byte_puts_in (bs : List Byte) : ∀ (m : Memory) (a i : Nat), (h : i < bs.length) →
    (m.puts a bs).byte (a + i) = bs[i] := by
  induction bs with
  | nil => intro m a i h; simp at h
  | cons b bs ih =>
    intro m a i h
    cases i with
    | zero =>
      rw [Memory.puts, Memory.byte_puts_below bs _ _ _ (by omega)]
      exact Memory.byte_put_same m a b
    | succ i =>
      have h' : i < bs.length := by simpa using h
      rw [Memory.puts, show a + (i + 1) = a + 1 + i by omega, ih _ _ i h']
      rfl

/-- Bytes outside a run of writes are left as they were. -/
theorem Memory.byte_puts_out (bs : List Byte) : ∀ (m : Memory) (a x : Nat), x < a ∨ a + bs.length ≤ x →
    (m.puts a bs).byte x = m.byte x := by
  induction bs with
  | nil => intro m a x _; rfl
  | cons b bs ih =>
    intro m a x h
    have hl : (b :: bs).length = bs.length + 1 := rfl
    rw [Memory.puts, ih _ _ _ (by omega), Memory.byte_put_ne m b (by omega)]

/-- A run of writes keeps the canonical form. -/
theorem Memory.puts_wf (bs : List Byte) : ∀ {m : Memory} (a : Nat), m.wf = true → (m.puts a bs).wf = true := by
  induction bs with
  | nil => intro m a w; exact w
  | cons b bs ih => intro m a w; exact ih (a + 1) (Memory.put_wf a b w)

/-- A masked run of writes keeps the canonical form. -/
theorem Memory.putsMasked_wf (bs : List (Byte × Bool)) : ∀ {m : Memory} (a : Nat), m.wf = true →
    (m.putsMasked a bs).wf = true := by
  induction bs with
  | nil => intro m a w; exact w
  | cons e bs ih =>
    intro m a w
    obtain ⟨b, k⟩ := e
    cases k with
    | false => exact ih (a + 1) w
    | true => exact ih (a + 1) (Memory.put_wf a b w)

/-- Bytes outside a masked run of writes are left as they were. -/
theorem Memory.byte_putsMasked_out (bs : List (Byte × Bool)) : ∀ (m : Memory) (a x : Nat),
    x < a ∨ a + bs.length ≤ x → (m.putsMasked a bs).byte x = m.byte x := by
  induction bs with
  | nil => intro m a x _; rfl
  | cons e bs ih =>
    intro m a x h
    obtain ⟨b, k⟩ := e
    have hl : ((b, k) :: bs).length = bs.length + 1 := rfl
    cases k with
    | false => rw [Memory.putsMasked, ih _ _ _ (by omega)]
    | true => rw [Memory.putsMasked, ih _ _ _ (by omega), Memory.byte_put_ne m b (by omega)]

/-- A run of bytes read. -/
theorem Memory.bytes_length (m : Memory) : ∀ (n a : Nat), (m.bytes a n).length = n
  | 0, _ => rfl
  | n + 1, a => by simp [Memory.bytes, Memory.bytes_length m n]

end Sys2Proof.Machine
end

