-- ==== Sys2Proof/Laws/Regs.lean ====
section
/-! SUPPORT. Register fields: a field reads what was set in it, and every other field is left alone. -/

namespace Sys2Proof.Machine

/-- A bit of a mask of bits [hi:lo]. -/
theorem maskOf_getLsbD {hi lo : Nat} (h : lo ≤ hi) (i : Nat) :
    (maskOf hi lo).getLsbD i = (decide (i < 64) && decide (lo ≤ i) && decide (i ≤ hi)) := by
  rw [maskOf, BitVec.getLsbD_ofNat, Nat.testBit_shiftLeft, Nat.testBit_two_pow_sub_one]
  by_cases h1 : lo ≤ i
  · by_cases h2 : i ≤ hi
    · simp [h1, h2, show i - lo < hi + 1 - lo by omega]
    · simp [h1, h2, show ¬ i - lo < hi + 1 - lo by omega]
  · simp [h1]

/-- A bit of a word after bits [hi:lo] are replaced. -/
theorem putBits_getLsbD {hi lo : Nat} (h : lo ≤ hi) (w : Word) (v i : Nat) :
    (putBits w hi lo v).getLsbD i =
      if lo ≤ i ∧ i ≤ hi then decide (i < 64) && v.testBit (i - lo) else w.getLsbD i := by
  rw [putBits, BitVec.getLsbD_or, BitVec.getLsbD_and, BitVec.getLsbD_not, BitVec.getLsbD_and, maskOf_getLsbD h,
    BitVec.getLsbD_ofNat, Nat.testBit_shiftLeft]
  by_cases h1 : lo ≤ i
  · by_cases h2 : i ≤ hi
    · by_cases h3 : i < 64 <;> simp [h1, h2, h3]
    · by_cases h3 : i < 64
      · simp [h1, h2, h3]
      · simp [h1, h2, h3, BitVec.getLsbD_of_ge w i (by omega)]
  · by_cases h3 : i < 64
    · simp [h1, h3]
    · simp [h1, h3, BitVec.getLsbD_of_ge w i (by omega)]

/-- A bit of the number in bits [hi:lo]. -/
theorem bitsOf_testBit {hi lo : Nat} (h : lo ≤ hi) (w : Word) (i : Nat) :
    (bitsOf w hi lo).testBit i = (decide (i ≤ hi - lo) && w.getLsbD (lo + i)) := by
  rw [bitsOf, Nat.testBit_mod_two_pow, Nat.testBit_shiftRight, BitVec.getLsbD]
  by_cases h1 : i ≤ hi - lo
  · simp [h1, show i < hi + 1 - lo by omega]
  · simp [h1, show ¬ i < hi + 1 - lo by omega]

/-- Bits [hi:lo] hold less than two to their number. -/
theorem bitsOf_lt (w : Word) (hi lo : Nat) : bitsOf w hi lo < 2 ^ (hi + 1 - lo) :=
  Nat.mod_lt _ (Nat.two_pow_pos _)

/-- Replaced bits read as the value that replaced them. -/
theorem bitsOf_putBits_same {hi lo : Nat} (h : lo ≤ hi) (hh : hi < 64) (w : Word) (v : Nat) :
    bitsOf (putBits w hi lo v) hi lo = v % 2 ^ (hi + 1 - lo) := by
  apply Nat.eq_of_testBit_eq
  intro i
  rw [bitsOf_testBit h, putBits_getLsbD h, Nat.testBit_mod_two_pow]
  by_cases h1 : i ≤ hi - lo
  · simp [h1, show i < hi + 1 - lo by omega, show lo + i ≤ hi by omega, show lo + i < 64 by omega]
  · simp [h1, show ¬ i < hi + 1 - lo by omega]

/-- Bits apart from the replaced ones read as before. -/
theorem bitsOf_putBits_apart {hi lo hi' lo' : Nat} (h : lo ≤ hi) (h' : lo' ≤ hi') (a : hi < lo' ∨ hi' < lo) (w : Word)
    (v : Nat) : bitsOf (putBits w hi lo v) hi' lo' = bitsOf w hi' lo' := by
  apply Nat.eq_of_testBit_eq
  intro i
  rw [bitsOf_testBit h', bitsOf_testBit h', putBits_getLsbD h]
  by_cases h1 : i ≤ hi' - lo'
  · rw [if_neg (by omega)]
  · simp [h1]

/-- A field as the tables hold them: bits within a word, highest first. -/
abbrev Fld.ok (f : Fld) : Prop := f.lo ≤ f.hi ∧ f.hi < 64

/-- Two fields that share no bit of one register. -/
abbrev Fld.apart (f g : Fld) : Prop := f.off ≠ g.off ∨ f.hi < g.lo ∨ g.hi < f.lo

/-- A field reads what was set in it, modulo its width. -/
theorem Regs.get_set_same (d : Nat → Word) (m : Regs) {f : Fld} (h : f.ok) (v : Nat) :
    Regs.get d (Regs.set d m f v) f = v % 2 ^ f.width := by
  rw [Regs.get, Regs.set, mget_mset_same, bitsOf_putBits_same h.1 h.2]
  rfl

/-- A field of another register, or of other bits of the same register, reads as before. -/
theorem Regs.get_set_apart (d : Nat → Word) (m : Regs) {f g : Fld} (hf : f.lo ≤ f.hi) (hg : g.lo ≤ g.hi)
    (h : f.apart g) (v : Nat) : Regs.get d (Regs.set d m f v) g = Regs.get d m g := by
  rw [Regs.get, Regs.get, Regs.set, mget_mset]
  by_cases e : g.off = f.off
  · rw [if_pos e, e, bitsOf_putBits_apart hf hg]
    rcases h with h | h | h
    · exact absurd e.symm h
    · exact Or.inl h
    · exact Or.inr h
  · rw [if_neg e]

/-- A register other than the set field's reads as before. -/
theorem Regs.word_set_ne (d : Nat → Word) (m : Regs) (f : Fld) (v : Nat) {a : Nat} (h : a ≠ f.off) :
    mget d (Regs.set d m f v) a = mget d m a := mget_mset_ne d m _ h

/-- Setting a field keeps the canonical form of a register file. -/
theorem Regs.set_wf (d : Nat → Word) {m : Regs} (f : Fld) (v : Nat) (w : mwf d m = true) :
    mwf d (Regs.set d m f v) = true := mwf_mset d _ _ w

end Sys2Proof.Machine
end

