-- ==== Sys2Proof/Laws/State.lean ====
section
/-! SUPPORT. The small lemmas of State: each field after each of the shared updates, and what the accessors read after them. -/

namespace Sys2Proof.Machine

@[simp] theorem State.set_pending (s : State) (f : Fld) (v : Nat) : (s.set f v).pending = s.pending := rfl
@[simp] theorem State.set_now (s : State) (f : Fld) (v : Nat) : (s.set f v).now = s.now := rfl
@[simp] theorem State.set_freeCtr (s : State) (f : Fld) (v : Nat) : (s.set f v).freeCtr = s.freeCtr := rfl
@[simp] theorem State.set_dev (s : State) (f : Fld) (v : Nat) : (s.set f v).dev = s.dev := rfl
@[simp] theorem State.set_pins (s : State) (f : Fld) (v : Nat) : (s.set f v).pins = s.pins := rfl
@[simp] theorem State.set_blocks (s : State) (f : Fld) (v : Nat) : (s.set f v).blocks = s.blocks := rfl
@[simp] theorem State.set_regions (s : State) (f : Fld) (v : Nat) : (s.set f v).regions = s.regions := rfl
@[simp] theorem State.set_endpoints (s : State) (f : Fld) (v : Nat) : (s.set f v).endpoints = s.endpoints := rfl
@[simp] theorem State.set_routes (s : State) (f : Fld) (v : Nat) : (s.set f v).routes = s.routes := rfl
@[simp] theorem State.set_groups (s : State) (f : Fld) (v : Nat) : (s.set f v).groups = s.groups := rfl
@[simp] theorem State.set_rmt (s : State) (f : Fld) (v : Nat) : (s.set f v).rmt = s.rmt := rfl
@[simp] theorem State.set_cad (s : State) (f : Fld) (v : Nat) : (s.set f v).cad = s.cad := rfl
@[simp] theorem State.set_sens (s : State) (f : Fld) (v : Nat) : (s.set f v).sens = s.sens := rfl
@[simp] theorem State.set_mgrProg (s : State) (f : Fld) (v : Nat) : (s.set f v).mgrProg = s.mgrProg := rfl
@[simp] theorem State.set_restarts (s : State) (f : Fld) (v : Nat) : (s.set f v).restarts = s.restarts := rfl
@[simp] theorem State.set_fresh (s : State) (f : Fld) (v : Nat) : (s.set f v).fresh = s.fresh := rfl
@[simp] theorem State.set_leases (s : State) (f : Fld) (v : Nat) : (s.set f v).leases = s.leases := rfl
@[simp] theorem State.set_calls (s : State) (f : Fld) (v : Nat) : (s.set f v).calls = s.calls := rfl
@[simp] theorem State.set_scrubbed (s : State) (f : Fld) (v : Nat) : (s.set f v).scrubbed = s.scrubbed := rfl
@[simp] theorem State.set_trainTemp (s : State) (f : Fld) (v : Nat) : (s.set f v).trainTemp = s.trainTemp := rfl
@[simp] theorem State.set_riderReqs (s : State) (f : Fld) (v : Nat) : (s.set f v).riderReqs = s.riderReqs := rfl
@[simp] theorem State.set_jobFault (s : State) (f : Fld) (v : Nat) : (s.set f v).jobFault = s.jobFault := rfl
@[simp] theorem State.set_dispatch (s : State) (f : Fld) (v : Nat) : (s.set f v).dispatch = s.dispatch := rfl
@[simp] theorem State.set_ports (s : State) (f : Fld) (v : Nat) : (s.set f v).ports = s.ports := rfl
@[simp] theorem State.set_twin (s : State) (f : Fld) (v : Nat) : (s.set f v).twin = s.twin := rfl
@[simp] theorem State.set_rcv (s : State) (f : Fld) (v : Nat) : (s.set f v).rcv = s.rcv := rfl
@[simp] theorem State.set_screen (s : State) (f : Fld) (v : Nat) : (s.set f v).screen = s.screen := rfl
@[simp] theorem State.set_far (s : State) (f : Fld) (v : Nat) : (s.set f v).far = s.far := rfl
@[simp] theorem State.set_bring (s : State) (f : Fld) (v : Nat) : (s.set f v).bring = s.bring := rfl
@[simp] theorem State.set_chipResets (s : State) (f : Fld) (v : Nat) : (s.set f v).chipResets = s.chipResets := rfl
@[simp] theorem State.set_stud (s : State) (f : Fld) (v : Nat) : (s.set f v).stud = s.stud := rfl
@[simp] theorem State.set_fuses (s : State) (f : Fld) (v : Nat) : (s.set f v).fuses = s.fuses := rfl
@[simp] theorem State.set_images (s : State) (f : Fld) (v : Nat) : (s.set f v).images = s.images := rfl
@[simp] theorem State.set_power (s : State) (f : Fld) (v : Nat) : (s.set f v).power = s.power := rfl
@[simp] theorem State.set_signKeys (s : State) (f : Fld) (v : Nat) : (s.set f v).signKeys = s.signKeys := rfl
@[simp] theorem State.set_hbm (s : State) (f : Fld) (v : Nat) : (s.set f v).hbm = s.hbm := rfl
@[simp] theorem State.set_ddr (s : State) (f : Fld) (v : Nat) : (s.set f v).ddr = s.ddr := rfl
@[simp] theorem State.set_ev (s : State) (f : Fld) (v : Nat) : (s.set f v).ev = s.ev := rfl
@[simp] theorem State.set_evCoalesced (s : State) (f : Fld) (v : Nat) : (s.set f v).evCoalesced = s.evCoalesced := rfl
@[simp] theorem State.set_out (s : State) (f : Fld) (v : Nat) : (s.set f v).out = s.out := rfl

@[simp] theorem State.setBlock_pending (s : State) (p : Nat) (b : Block) : (s.setBlock p b).pending = s.pending := rfl
@[simp] theorem State.setBlock_now (s : State) (p : Nat) (b : Block) : (s.setBlock p b).now = s.now := rfl
@[simp] theorem State.setBlock_freeCtr (s : State) (p : Nat) (b : Block) : (s.setBlock p b).freeCtr = s.freeCtr := rfl
@[simp] theorem State.setBlock_dev (s : State) (p : Nat) (b : Block) : (s.setBlock p b).dev = s.dev := rfl
@[simp] theorem State.setBlock_pins (s : State) (p : Nat) (b : Block) : (s.setBlock p b).pins = s.pins := rfl
@[simp] theorem State.setBlock_regs (s : State) (p : Nat) (b : Block) : (s.setBlock p b).regs = s.regs := rfl
@[simp] theorem State.setBlock_regions (s : State) (p : Nat) (b : Block) : (s.setBlock p b).regions = s.regions := rfl
@[simp] theorem State.setBlock_endpoints (s : State) (p : Nat) (b : Block) : (s.setBlock p b).endpoints = s.endpoints := rfl
@[simp] theorem State.setBlock_routes (s : State) (p : Nat) (b : Block) : (s.setBlock p b).routes = s.routes := rfl
@[simp] theorem State.setBlock_groups (s : State) (p : Nat) (b : Block) : (s.setBlock p b).groups = s.groups := rfl
@[simp] theorem State.setBlock_rmt (s : State) (p : Nat) (b : Block) : (s.setBlock p b).rmt = s.rmt := rfl
@[simp] theorem State.setBlock_cad (s : State) (p : Nat) (b : Block) : (s.setBlock p b).cad = s.cad := rfl
@[simp] theorem State.setBlock_sens (s : State) (p : Nat) (b : Block) : (s.setBlock p b).sens = s.sens := rfl
@[simp] theorem State.setBlock_mgrProg (s : State) (p : Nat) (b : Block) : (s.setBlock p b).mgrProg = s.mgrProg := rfl
@[simp] theorem State.setBlock_restarts (s : State) (p : Nat) (b : Block) : (s.setBlock p b).restarts = s.restarts := rfl
@[simp] theorem State.setBlock_fresh (s : State) (p : Nat) (b : Block) : (s.setBlock p b).fresh = s.fresh := rfl
@[simp] theorem State.setBlock_leases (s : State) (p : Nat) (b : Block) : (s.setBlock p b).leases = s.leases := rfl
@[simp] theorem State.setBlock_calls (s : State) (p : Nat) (b : Block) : (s.setBlock p b).calls = s.calls := rfl
@[simp] theorem State.setBlock_scrubbed (s : State) (p : Nat) (b : Block) : (s.setBlock p b).scrubbed = s.scrubbed := rfl
@[simp] theorem State.setBlock_trainTemp (s : State) (p : Nat) (b : Block) : (s.setBlock p b).trainTemp = s.trainTemp := rfl
@[simp] theorem State.setBlock_riderReqs (s : State) (p : Nat) (b : Block) : (s.setBlock p b).riderReqs = s.riderReqs := rfl
@[simp] theorem State.setBlock_jobFault (s : State) (p : Nat) (b : Block) : (s.setBlock p b).jobFault = s.jobFault := rfl
@[simp] theorem State.setBlock_dispatch (s : State) (p : Nat) (b : Block) : (s.setBlock p b).dispatch = s.dispatch := rfl
@[simp] theorem State.setBlock_ports (s : State) (p : Nat) (b : Block) : (s.setBlock p b).ports = s.ports := rfl
@[simp] theorem State.setBlock_twin (s : State) (p : Nat) (b : Block) : (s.setBlock p b).twin = s.twin := rfl
@[simp] theorem State.setBlock_rcv (s : State) (p : Nat) (b : Block) : (s.setBlock p b).rcv = s.rcv := rfl
@[simp] theorem State.setBlock_screen (s : State) (p : Nat) (b : Block) : (s.setBlock p b).screen = s.screen := rfl
@[simp] theorem State.setBlock_far (s : State) (p : Nat) (b : Block) : (s.setBlock p b).far = s.far := rfl
@[simp] theorem State.setBlock_bring (s : State) (p : Nat) (b : Block) : (s.setBlock p b).bring = s.bring := rfl
@[simp] theorem State.setBlock_chipResets (s : State) (p : Nat) (b : Block) : (s.setBlock p b).chipResets = s.chipResets := rfl
@[simp] theorem State.setBlock_stud (s : State) (p : Nat) (b : Block) : (s.setBlock p b).stud = s.stud := rfl
@[simp] theorem State.setBlock_fuses (s : State) (p : Nat) (b : Block) : (s.setBlock p b).fuses = s.fuses := rfl
@[simp] theorem State.setBlock_images (s : State) (p : Nat) (b : Block) : (s.setBlock p b).images = s.images := rfl
@[simp] theorem State.setBlock_power (s : State) (p : Nat) (b : Block) : (s.setBlock p b).power = s.power := rfl
@[simp] theorem State.setBlock_signKeys (s : State) (p : Nat) (b : Block) : (s.setBlock p b).signKeys = s.signKeys := rfl
@[simp] theorem State.setBlock_hbm (s : State) (p : Nat) (b : Block) : (s.setBlock p b).hbm = s.hbm := rfl
@[simp] theorem State.setBlock_ddr (s : State) (p : Nat) (b : Block) : (s.setBlock p b).ddr = s.ddr := rfl
@[simp] theorem State.setBlock_ev (s : State) (p : Nat) (b : Block) : (s.setBlock p b).ev = s.ev := rfl
@[simp] theorem State.setBlock_evCoalesced (s : State) (p : Nat) (b : Block) : (s.setBlock p b).evCoalesced = s.evCoalesced := rfl
@[simp] theorem State.setBlock_out (s : State) (p : Nat) (b : Block) : (s.setBlock p b).out = s.out := rfl

@[simp] theorem State.setRegion_pending (s : State) (r : Nat) (x : Region) : (s.setRegion r x).pending = s.pending := rfl
@[simp] theorem State.setRegion_now (s : State) (r : Nat) (x : Region) : (s.setRegion r x).now = s.now := rfl
@[simp] theorem State.setRegion_freeCtr (s : State) (r : Nat) (x : Region) : (s.setRegion r x).freeCtr = s.freeCtr := rfl
@[simp] theorem State.setRegion_dev (s : State) (r : Nat) (x : Region) : (s.setRegion r x).dev = s.dev := rfl
@[simp] theorem State.setRegion_pins (s : State) (r : Nat) (x : Region) : (s.setRegion r x).pins = s.pins := rfl
@[simp] theorem State.setRegion_regs (s : State) (r : Nat) (x : Region) : (s.setRegion r x).regs = s.regs := rfl
@[simp] theorem State.setRegion_blocks (s : State) (r : Nat) (x : Region) : (s.setRegion r x).blocks = s.blocks := rfl
@[simp] theorem State.setRegion_endpoints (s : State) (r : Nat) (x : Region) : (s.setRegion r x).endpoints = s.endpoints := rfl
@[simp] theorem State.setRegion_routes (s : State) (r : Nat) (x : Region) : (s.setRegion r x).routes = s.routes := rfl
@[simp] theorem State.setRegion_groups (s : State) (r : Nat) (x : Region) : (s.setRegion r x).groups = s.groups := rfl
@[simp] theorem State.setRegion_rmt (s : State) (r : Nat) (x : Region) : (s.setRegion r x).rmt = s.rmt := rfl
@[simp] theorem State.setRegion_cad (s : State) (r : Nat) (x : Region) : (s.setRegion r x).cad = s.cad := rfl
@[simp] theorem State.setRegion_sens (s : State) (r : Nat) (x : Region) : (s.setRegion r x).sens = s.sens := rfl
@[simp] theorem State.setRegion_mgrProg (s : State) (r : Nat) (x : Region) : (s.setRegion r x).mgrProg = s.mgrProg := rfl
@[simp] theorem State.setRegion_restarts (s : State) (r : Nat) (x : Region) : (s.setRegion r x).restarts = s.restarts := rfl
@[simp] theorem State.setRegion_fresh (s : State) (r : Nat) (x : Region) : (s.setRegion r x).fresh = s.fresh := rfl
@[simp] theorem State.setRegion_leases (s : State) (r : Nat) (x : Region) : (s.setRegion r x).leases = s.leases := rfl
@[simp] theorem State.setRegion_calls (s : State) (r : Nat) (x : Region) : (s.setRegion r x).calls = s.calls := rfl
@[simp] theorem State.setRegion_scrubbed (s : State) (r : Nat) (x : Region) : (s.setRegion r x).scrubbed = s.scrubbed := rfl
@[simp] theorem State.setRegion_trainTemp (s : State) (r : Nat) (x : Region) : (s.setRegion r x).trainTemp = s.trainTemp := rfl
@[simp] theorem State.setRegion_riderReqs (s : State) (r : Nat) (x : Region) : (s.setRegion r x).riderReqs = s.riderReqs := rfl
@[simp] theorem State.setRegion_jobFault (s : State) (r : Nat) (x : Region) : (s.setRegion r x).jobFault = s.jobFault := rfl
@[simp] theorem State.setRegion_dispatch (s : State) (r : Nat) (x : Region) : (s.setRegion r x).dispatch = s.dispatch := rfl
@[simp] theorem State.setRegion_ports (s : State) (r : Nat) (x : Region) : (s.setRegion r x).ports = s.ports := rfl
@[simp] theorem State.setRegion_twin (s : State) (r : Nat) (x : Region) : (s.setRegion r x).twin = s.twin := rfl
@[simp] theorem State.setRegion_rcv (s : State) (r : Nat) (x : Region) : (s.setRegion r x).rcv = s.rcv := rfl
@[simp] theorem State.setRegion_screen (s : State) (r : Nat) (x : Region) : (s.setRegion r x).screen = s.screen := rfl
@[simp] theorem State.setRegion_far (s : State) (r : Nat) (x : Region) : (s.setRegion r x).far = s.far := rfl
@[simp] theorem State.setRegion_bring (s : State) (r : Nat) (x : Region) : (s.setRegion r x).bring = s.bring := rfl
@[simp] theorem State.setRegion_chipResets (s : State) (r : Nat) (x : Region) : (s.setRegion r x).chipResets = s.chipResets := rfl
@[simp] theorem State.setRegion_stud (s : State) (r : Nat) (x : Region) : (s.setRegion r x).stud = s.stud := rfl
@[simp] theorem State.setRegion_fuses (s : State) (r : Nat) (x : Region) : (s.setRegion r x).fuses = s.fuses := rfl
@[simp] theorem State.setRegion_images (s : State) (r : Nat) (x : Region) : (s.setRegion r x).images = s.images := rfl
@[simp] theorem State.setRegion_power (s : State) (r : Nat) (x : Region) : (s.setRegion r x).power = s.power := rfl
@[simp] theorem State.setRegion_signKeys (s : State) (r : Nat) (x : Region) : (s.setRegion r x).signKeys = s.signKeys := rfl
@[simp] theorem State.setRegion_hbm (s : State) (r : Nat) (x : Region) : (s.setRegion r x).hbm = s.hbm := rfl
@[simp] theorem State.setRegion_ddr (s : State) (r : Nat) (x : Region) : (s.setRegion r x).ddr = s.ddr := rfl
@[simp] theorem State.setRegion_ev (s : State) (r : Nat) (x : Region) : (s.setRegion r x).ev = s.ev := rfl
@[simp] theorem State.setRegion_evCoalesced (s : State) (r : Nat) (x : Region) : (s.setRegion r x).evCoalesced = s.evCoalesced := rfl
@[simp] theorem State.setRegion_out (s : State) (r : Nat) (x : Region) : (s.setRegion r x).out = s.out := rfl

@[simp] theorem State.rset_pending (s : State) (r : Nat) (f : Fld) (v : Nat) : (s.rset r f v).pending = s.pending := rfl
@[simp] theorem State.rset_now (s : State) (r : Nat) (f : Fld) (v : Nat) : (s.rset r f v).now = s.now := rfl
@[simp] theorem State.rset_freeCtr (s : State) (r : Nat) (f : Fld) (v : Nat) : (s.rset r f v).freeCtr = s.freeCtr := rfl
@[simp] theorem State.rset_dev (s : State) (r : Nat) (f : Fld) (v : Nat) : (s.rset r f v).dev = s.dev := rfl
@[simp] theorem State.rset_pins (s : State) (r : Nat) (f : Fld) (v : Nat) : (s.rset r f v).pins = s.pins := rfl
@[simp] theorem State.rset_regs (s : State) (r : Nat) (f : Fld) (v : Nat) : (s.rset r f v).regs = s.regs := rfl
@[simp] theorem State.rset_blocks (s : State) (r : Nat) (f : Fld) (v : Nat) : (s.rset r f v).blocks = s.blocks := rfl
@[simp] theorem State.rset_endpoints (s : State) (r : Nat) (f : Fld) (v : Nat) : (s.rset r f v).endpoints = s.endpoints := rfl
@[simp] theorem State.rset_routes (s : State) (r : Nat) (f : Fld) (v : Nat) : (s.rset r f v).routes = s.routes := rfl
@[simp] theorem State.rset_groups (s : State) (r : Nat) (f : Fld) (v : Nat) : (s.rset r f v).groups = s.groups := rfl
@[simp] theorem State.rset_rmt (s : State) (r : Nat) (f : Fld) (v : Nat) : (s.rset r f v).rmt = s.rmt := rfl
@[simp] theorem State.rset_cad (s : State) (r : Nat) (f : Fld) (v : Nat) : (s.rset r f v).cad = s.cad := rfl
@[simp] theorem State.rset_sens (s : State) (r : Nat) (f : Fld) (v : Nat) : (s.rset r f v).sens = s.sens := rfl
@[simp] theorem State.rset_mgrProg (s : State) (r : Nat) (f : Fld) (v : Nat) : (s.rset r f v).mgrProg = s.mgrProg := rfl
@[simp] theorem State.rset_restarts (s : State) (r : Nat) (f : Fld) (v : Nat) : (s.rset r f v).restarts = s.restarts := rfl
@[simp] theorem State.rset_fresh (s : State) (r : Nat) (f : Fld) (v : Nat) : (s.rset r f v).fresh = s.fresh := rfl
@[simp] theorem State.rset_leases (s : State) (r : Nat) (f : Fld) (v : Nat) : (s.rset r f v).leases = s.leases := rfl
@[simp] theorem State.rset_calls (s : State) (r : Nat) (f : Fld) (v : Nat) : (s.rset r f v).calls = s.calls := rfl
@[simp] theorem State.rset_scrubbed (s : State) (r : Nat) (f : Fld) (v : Nat) : (s.rset r f v).scrubbed = s.scrubbed := rfl
@[simp] theorem State.rset_trainTemp (s : State) (r : Nat) (f : Fld) (v : Nat) : (s.rset r f v).trainTemp = s.trainTemp := rfl
@[simp] theorem State.rset_riderReqs (s : State) (r : Nat) (f : Fld) (v : Nat) : (s.rset r f v).riderReqs = s.riderReqs := rfl
@[simp] theorem State.rset_jobFault (s : State) (r : Nat) (f : Fld) (v : Nat) : (s.rset r f v).jobFault = s.jobFault := rfl
@[simp] theorem State.rset_dispatch (s : State) (r : Nat) (f : Fld) (v : Nat) : (s.rset r f v).dispatch = s.dispatch := rfl
@[simp] theorem State.rset_ports (s : State) (r : Nat) (f : Fld) (v : Nat) : (s.rset r f v).ports = s.ports := rfl
@[simp] theorem State.rset_twin (s : State) (r : Nat) (f : Fld) (v : Nat) : (s.rset r f v).twin = s.twin := rfl
@[simp] theorem State.rset_rcv (s : State) (r : Nat) (f : Fld) (v : Nat) : (s.rset r f v).rcv = s.rcv := rfl
@[simp] theorem State.rset_screen (s : State) (r : Nat) (f : Fld) (v : Nat) : (s.rset r f v).screen = s.screen := rfl
@[simp] theorem State.rset_far (s : State) (r : Nat) (f : Fld) (v : Nat) : (s.rset r f v).far = s.far := rfl
@[simp] theorem State.rset_bring (s : State) (r : Nat) (f : Fld) (v : Nat) : (s.rset r f v).bring = s.bring := rfl
@[simp] theorem State.rset_chipResets (s : State) (r : Nat) (f : Fld) (v : Nat) : (s.rset r f v).chipResets = s.chipResets := rfl
@[simp] theorem State.rset_stud (s : State) (r : Nat) (f : Fld) (v : Nat) : (s.rset r f v).stud = s.stud := rfl
@[simp] theorem State.rset_fuses (s : State) (r : Nat) (f : Fld) (v : Nat) : (s.rset r f v).fuses = s.fuses := rfl
@[simp] theorem State.rset_images (s : State) (r : Nat) (f : Fld) (v : Nat) : (s.rset r f v).images = s.images := rfl
@[simp] theorem State.rset_power (s : State) (r : Nat) (f : Fld) (v : Nat) : (s.rset r f v).power = s.power := rfl
@[simp] theorem State.rset_signKeys (s : State) (r : Nat) (f : Fld) (v : Nat) : (s.rset r f v).signKeys = s.signKeys := rfl
@[simp] theorem State.rset_hbm (s : State) (r : Nat) (f : Fld) (v : Nat) : (s.rset r f v).hbm = s.hbm := rfl
@[simp] theorem State.rset_ddr (s : State) (r : Nat) (f : Fld) (v : Nat) : (s.rset r f v).ddr = s.ddr := rfl
@[simp] theorem State.rset_ev (s : State) (r : Nat) (f : Fld) (v : Nat) : (s.rset r f v).ev = s.ev := rfl
@[simp] theorem State.rset_evCoalesced (s : State) (r : Nat) (f : Fld) (v : Nat) : (s.rset r f v).evCoalesced = s.evCoalesced := rfl
@[simp] theorem State.rset_out (s : State) (r : Nat) (f : Fld) (v : Nat) : (s.rset r f v).out = s.out := rfl

@[simp] theorem State.setRmt_pending (s : State) (p : Nat) (x : Rmt) : (s.setRmt p x).pending = s.pending := rfl
@[simp] theorem State.setRmt_now (s : State) (p : Nat) (x : Rmt) : (s.setRmt p x).now = s.now := rfl
@[simp] theorem State.setRmt_freeCtr (s : State) (p : Nat) (x : Rmt) : (s.setRmt p x).freeCtr = s.freeCtr := rfl
@[simp] theorem State.setRmt_dev (s : State) (p : Nat) (x : Rmt) : (s.setRmt p x).dev = s.dev := rfl
@[simp] theorem State.setRmt_pins (s : State) (p : Nat) (x : Rmt) : (s.setRmt p x).pins = s.pins := rfl
@[simp] theorem State.setRmt_regs (s : State) (p : Nat) (x : Rmt) : (s.setRmt p x).regs = s.regs := rfl
@[simp] theorem State.setRmt_blocks (s : State) (p : Nat) (x : Rmt) : (s.setRmt p x).blocks = s.blocks := rfl
@[simp] theorem State.setRmt_regions (s : State) (p : Nat) (x : Rmt) : (s.setRmt p x).regions = s.regions := rfl
@[simp] theorem State.setRmt_endpoints (s : State) (p : Nat) (x : Rmt) : (s.setRmt p x).endpoints = s.endpoints := rfl
@[simp] theorem State.setRmt_routes (s : State) (p : Nat) (x : Rmt) : (s.setRmt p x).routes = s.routes := rfl
@[simp] theorem State.setRmt_groups (s : State) (p : Nat) (x : Rmt) : (s.setRmt p x).groups = s.groups := rfl
@[simp] theorem State.setRmt_cad (s : State) (p : Nat) (x : Rmt) : (s.setRmt p x).cad = s.cad := rfl
@[simp] theorem State.setRmt_sens (s : State) (p : Nat) (x : Rmt) : (s.setRmt p x).sens = s.sens := rfl
@[simp] theorem State.setRmt_mgrProg (s : State) (p : Nat) (x : Rmt) : (s.setRmt p x).mgrProg = s.mgrProg := rfl
@[simp] theorem State.setRmt_restarts (s : State) (p : Nat) (x : Rmt) : (s.setRmt p x).restarts = s.restarts := rfl
@[simp] theorem State.setRmt_fresh (s : State) (p : Nat) (x : Rmt) : (s.setRmt p x).fresh = s.fresh := rfl
@[simp] theorem State.setRmt_leases (s : State) (p : Nat) (x : Rmt) : (s.setRmt p x).leases = s.leases := rfl
@[simp] theorem State.setRmt_calls (s : State) (p : Nat) (x : Rmt) : (s.setRmt p x).calls = s.calls := rfl
@[simp] theorem State.setRmt_scrubbed (s : State) (p : Nat) (x : Rmt) : (s.setRmt p x).scrubbed = s.scrubbed := rfl
@[simp] theorem State.setRmt_trainTemp (s : State) (p : Nat) (x : Rmt) : (s.setRmt p x).trainTemp = s.trainTemp := rfl
@[simp] theorem State.setRmt_riderReqs (s : State) (p : Nat) (x : Rmt) : (s.setRmt p x).riderReqs = s.riderReqs := rfl
@[simp] theorem State.setRmt_jobFault (s : State) (p : Nat) (x : Rmt) : (s.setRmt p x).jobFault = s.jobFault := rfl
@[simp] theorem State.setRmt_dispatch (s : State) (p : Nat) (x : Rmt) : (s.setRmt p x).dispatch = s.dispatch := rfl
@[simp] theorem State.setRmt_ports (s : State) (p : Nat) (x : Rmt) : (s.setRmt p x).ports = s.ports := rfl
@[simp] theorem State.setRmt_twin (s : State) (p : Nat) (x : Rmt) : (s.setRmt p x).twin = s.twin := rfl
@[simp] theorem State.setRmt_rcv (s : State) (p : Nat) (x : Rmt) : (s.setRmt p x).rcv = s.rcv := rfl
@[simp] theorem State.setRmt_screen (s : State) (p : Nat) (x : Rmt) : (s.setRmt p x).screen = s.screen := rfl
@[simp] theorem State.setRmt_far (s : State) (p : Nat) (x : Rmt) : (s.setRmt p x).far = s.far := rfl
@[simp] theorem State.setRmt_bring (s : State) (p : Nat) (x : Rmt) : (s.setRmt p x).bring = s.bring := rfl
@[simp] theorem State.setRmt_chipResets (s : State) (p : Nat) (x : Rmt) : (s.setRmt p x).chipResets = s.chipResets := rfl
@[simp] theorem State.setRmt_stud (s : State) (p : Nat) (x : Rmt) : (s.setRmt p x).stud = s.stud := rfl
@[simp] theorem State.setRmt_fuses (s : State) (p : Nat) (x : Rmt) : (s.setRmt p x).fuses = s.fuses := rfl
@[simp] theorem State.setRmt_images (s : State) (p : Nat) (x : Rmt) : (s.setRmt p x).images = s.images := rfl
@[simp] theorem State.setRmt_power (s : State) (p : Nat) (x : Rmt) : (s.setRmt p x).power = s.power := rfl
@[simp] theorem State.setRmt_signKeys (s : State) (p : Nat) (x : Rmt) : (s.setRmt p x).signKeys = s.signKeys := rfl
@[simp] theorem State.setRmt_hbm (s : State) (p : Nat) (x : Rmt) : (s.setRmt p x).hbm = s.hbm := rfl
@[simp] theorem State.setRmt_ddr (s : State) (p : Nat) (x : Rmt) : (s.setRmt p x).ddr = s.ddr := rfl
@[simp] theorem State.setRmt_ev (s : State) (p : Nat) (x : Rmt) : (s.setRmt p x).ev = s.ev := rfl
@[simp] theorem State.setRmt_evCoalesced (s : State) (p : Nat) (x : Rmt) : (s.setRmt p x).evCoalesced = s.evCoalesced := rfl
@[simp] theorem State.setRmt_out (s : State) (p : Nat) (x : Rmt) : (s.setRmt p x).out = s.out := rfl

@[simp] theorem State.setPort_pending (s : State) (i : Nat) (x : Port) : (s.setPort i x).pending = s.pending := rfl
@[simp] theorem State.setPort_now (s : State) (i : Nat) (x : Port) : (s.setPort i x).now = s.now := rfl
@[simp] theorem State.setPort_freeCtr (s : State) (i : Nat) (x : Port) : (s.setPort i x).freeCtr = s.freeCtr := rfl
@[simp] theorem State.setPort_dev (s : State) (i : Nat) (x : Port) : (s.setPort i x).dev = s.dev := rfl
@[simp] theorem State.setPort_pins (s : State) (i : Nat) (x : Port) : (s.setPort i x).pins = s.pins := rfl
@[simp] theorem State.setPort_regs (s : State) (i : Nat) (x : Port) : (s.setPort i x).regs = s.regs := rfl
@[simp] theorem State.setPort_blocks (s : State) (i : Nat) (x : Port) : (s.setPort i x).blocks = s.blocks := rfl
@[simp] theorem State.setPort_regions (s : State) (i : Nat) (x : Port) : (s.setPort i x).regions = s.regions := rfl
@[simp] theorem State.setPort_endpoints (s : State) (i : Nat) (x : Port) : (s.setPort i x).endpoints = s.endpoints := rfl
@[simp] theorem State.setPort_routes (s : State) (i : Nat) (x : Port) : (s.setPort i x).routes = s.routes := rfl
@[simp] theorem State.setPort_groups (s : State) (i : Nat) (x : Port) : (s.setPort i x).groups = s.groups := rfl
@[simp] theorem State.setPort_rmt (s : State) (i : Nat) (x : Port) : (s.setPort i x).rmt = s.rmt := rfl
@[simp] theorem State.setPort_cad (s : State) (i : Nat) (x : Port) : (s.setPort i x).cad = s.cad := rfl
@[simp] theorem State.setPort_sens (s : State) (i : Nat) (x : Port) : (s.setPort i x).sens = s.sens := rfl
@[simp] theorem State.setPort_mgrProg (s : State) (i : Nat) (x : Port) : (s.setPort i x).mgrProg = s.mgrProg := rfl
@[simp] theorem State.setPort_restarts (s : State) (i : Nat) (x : Port) : (s.setPort i x).restarts = s.restarts := rfl
@[simp] theorem State.setPort_fresh (s : State) (i : Nat) (x : Port) : (s.setPort i x).fresh = s.fresh := rfl
@[simp] theorem State.setPort_leases (s : State) (i : Nat) (x : Port) : (s.setPort i x).leases = s.leases := rfl
@[simp] theorem State.setPort_calls (s : State) (i : Nat) (x : Port) : (s.setPort i x).calls = s.calls := rfl
@[simp] theorem State.setPort_scrubbed (s : State) (i : Nat) (x : Port) : (s.setPort i x).scrubbed = s.scrubbed := rfl
@[simp] theorem State.setPort_trainTemp (s : State) (i : Nat) (x : Port) : (s.setPort i x).trainTemp = s.trainTemp := rfl
@[simp] theorem State.setPort_riderReqs (s : State) (i : Nat) (x : Port) : (s.setPort i x).riderReqs = s.riderReqs := rfl
@[simp] theorem State.setPort_jobFault (s : State) (i : Nat) (x : Port) : (s.setPort i x).jobFault = s.jobFault := rfl
@[simp] theorem State.setPort_dispatch (s : State) (i : Nat) (x : Port) : (s.setPort i x).dispatch = s.dispatch := rfl
@[simp] theorem State.setPort_twin (s : State) (i : Nat) (x : Port) : (s.setPort i x).twin = s.twin := rfl
@[simp] theorem State.setPort_rcv (s : State) (i : Nat) (x : Port) : (s.setPort i x).rcv = s.rcv := rfl
@[simp] theorem State.setPort_screen (s : State) (i : Nat) (x : Port) : (s.setPort i x).screen = s.screen := rfl
@[simp] theorem State.setPort_far (s : State) (i : Nat) (x : Port) : (s.setPort i x).far = s.far := rfl
@[simp] theorem State.setPort_bring (s : State) (i : Nat) (x : Port) : (s.setPort i x).bring = s.bring := rfl
@[simp] theorem State.setPort_chipResets (s : State) (i : Nat) (x : Port) : (s.setPort i x).chipResets = s.chipResets := rfl
@[simp] theorem State.setPort_stud (s : State) (i : Nat) (x : Port) : (s.setPort i x).stud = s.stud := rfl
@[simp] theorem State.setPort_fuses (s : State) (i : Nat) (x : Port) : (s.setPort i x).fuses = s.fuses := rfl
@[simp] theorem State.setPort_images (s : State) (i : Nat) (x : Port) : (s.setPort i x).images = s.images := rfl
@[simp] theorem State.setPort_power (s : State) (i : Nat) (x : Port) : (s.setPort i x).power = s.power := rfl
@[simp] theorem State.setPort_signKeys (s : State) (i : Nat) (x : Port) : (s.setPort i x).signKeys = s.signKeys := rfl
@[simp] theorem State.setPort_hbm (s : State) (i : Nat) (x : Port) : (s.setPort i x).hbm = s.hbm := rfl
@[simp] theorem State.setPort_ddr (s : State) (i : Nat) (x : Port) : (s.setPort i x).ddr = s.ddr := rfl
@[simp] theorem State.setPort_ev (s : State) (i : Nat) (x : Port) : (s.setPort i x).ev = s.ev := rfl
@[simp] theorem State.setPort_evCoalesced (s : State) (i : Nat) (x : Port) : (s.setPort i x).evCoalesced = s.evCoalesced := rfl
@[simp] theorem State.setPort_out (s : State) (i : Nat) (x : Port) : (s.setPort i x).out = s.out := rfl

@[simp] theorem State.drainEv_pending (s : State) (p : Nat) : (s.drainEv p).pending = s.pending := rfl
@[simp] theorem State.drainEv_now (s : State) (p : Nat) : (s.drainEv p).now = s.now := rfl
@[simp] theorem State.drainEv_freeCtr (s : State) (p : Nat) : (s.drainEv p).freeCtr = s.freeCtr := rfl
@[simp] theorem State.drainEv_dev (s : State) (p : Nat) : (s.drainEv p).dev = s.dev := rfl
@[simp] theorem State.drainEv_pins (s : State) (p : Nat) : (s.drainEv p).pins = s.pins := rfl
@[simp] theorem State.drainEv_endpoints (s : State) (p : Nat) : (s.drainEv p).endpoints = s.endpoints := rfl
@[simp] theorem State.drainEv_routes (s : State) (p : Nat) : (s.drainEv p).routes = s.routes := rfl
@[simp] theorem State.drainEv_groups (s : State) (p : Nat) : (s.drainEv p).groups = s.groups := rfl
@[simp] theorem State.drainEv_rmt (s : State) (p : Nat) : (s.drainEv p).rmt = s.rmt := rfl
@[simp] theorem State.drainEv_cad (s : State) (p : Nat) : (s.drainEv p).cad = s.cad := rfl
@[simp] theorem State.drainEv_sens (s : State) (p : Nat) : (s.drainEv p).sens = s.sens := rfl
@[simp] theorem State.drainEv_mgrProg (s : State) (p : Nat) : (s.drainEv p).mgrProg = s.mgrProg := rfl
@[simp] theorem State.drainEv_restarts (s : State) (p : Nat) : (s.drainEv p).restarts = s.restarts := rfl
@[simp] theorem State.drainEv_fresh (s : State) (p : Nat) : (s.drainEv p).fresh = s.fresh := rfl
@[simp] theorem State.drainEv_leases (s : State) (p : Nat) : (s.drainEv p).leases = s.leases := rfl
@[simp] theorem State.drainEv_calls (s : State) (p : Nat) : (s.drainEv p).calls = s.calls := rfl
@[simp] theorem State.drainEv_scrubbed (s : State) (p : Nat) : (s.drainEv p).scrubbed = s.scrubbed := rfl
@[simp] theorem State.drainEv_trainTemp (s : State) (p : Nat) : (s.drainEv p).trainTemp = s.trainTemp := rfl
@[simp] theorem State.drainEv_riderReqs (s : State) (p : Nat) : (s.drainEv p).riderReqs = s.riderReqs := rfl
@[simp] theorem State.drainEv_jobFault (s : State) (p : Nat) : (s.drainEv p).jobFault = s.jobFault := rfl
@[simp] theorem State.drainEv_dispatch (s : State) (p : Nat) : (s.drainEv p).dispatch = s.dispatch := rfl
@[simp] theorem State.drainEv_ports (s : State) (p : Nat) : (s.drainEv p).ports = s.ports := rfl
@[simp] theorem State.drainEv_twin (s : State) (p : Nat) : (s.drainEv p).twin = s.twin := rfl
@[simp] theorem State.drainEv_rcv (s : State) (p : Nat) : (s.drainEv p).rcv = s.rcv := rfl
@[simp] theorem State.drainEv_screen (s : State) (p : Nat) : (s.drainEv p).screen = s.screen := rfl
@[simp] theorem State.drainEv_far (s : State) (p : Nat) : (s.drainEv p).far = s.far := rfl
@[simp] theorem State.drainEv_bring (s : State) (p : Nat) : (s.drainEv p).bring = s.bring := rfl
@[simp] theorem State.drainEv_chipResets (s : State) (p : Nat) : (s.drainEv p).chipResets = s.chipResets := rfl
@[simp] theorem State.drainEv_stud (s : State) (p : Nat) : (s.drainEv p).stud = s.stud := rfl
@[simp] theorem State.drainEv_fuses (s : State) (p : Nat) : (s.drainEv p).fuses = s.fuses := rfl
@[simp] theorem State.drainEv_images (s : State) (p : Nat) : (s.drainEv p).images = s.images := rfl
@[simp] theorem State.drainEv_power (s : State) (p : Nat) : (s.drainEv p).power = s.power := rfl
@[simp] theorem State.drainEv_signKeys (s : State) (p : Nat) : (s.drainEv p).signKeys = s.signKeys := rfl
@[simp] theorem State.drainEv_hbm (s : State) (p : Nat) : (s.drainEv p).hbm = s.hbm := rfl
@[simp] theorem State.drainEv_ddr (s : State) (p : Nat) : (s.drainEv p).ddr = s.ddr := rfl
@[simp] theorem State.drainEv_out (s : State) (p : Nat) : (s.drainEv p).out = s.out := rfl

@[simp] theorem State.onBlock_pending (s : State) (p : Nat) (f : Block → Env → Block) : (s.onBlock p f).pending = s.pending := rfl
@[simp] theorem State.onBlock_now (s : State) (p : Nat) (f : Block → Env → Block) : (s.onBlock p f).now = s.now := rfl
@[simp] theorem State.onBlock_dev (s : State) (p : Nat) (f : Block → Env → Block) : (s.onBlock p f).dev = s.dev := rfl
@[simp] theorem State.onBlock_pins (s : State) (p : Nat) (f : Block → Env → Block) : (s.onBlock p f).pins = s.pins := rfl
@[simp] theorem State.onBlock_endpoints (s : State) (p : Nat) (f : Block → Env → Block) : (s.onBlock p f).endpoints = s.endpoints := rfl
@[simp] theorem State.onBlock_routes (s : State) (p : Nat) (f : Block → Env → Block) : (s.onBlock p f).routes = s.routes := rfl
@[simp] theorem State.onBlock_groups (s : State) (p : Nat) (f : Block → Env → Block) : (s.onBlock p f).groups = s.groups := rfl
@[simp] theorem State.onBlock_rmt (s : State) (p : Nat) (f : Block → Env → Block) : (s.onBlock p f).rmt = s.rmt := rfl
@[simp] theorem State.onBlock_cad (s : State) (p : Nat) (f : Block → Env → Block) : (s.onBlock p f).cad = s.cad := rfl
@[simp] theorem State.onBlock_sens (s : State) (p : Nat) (f : Block → Env → Block) : (s.onBlock p f).sens = s.sens := rfl
@[simp] theorem State.onBlock_mgrProg (s : State) (p : Nat) (f : Block → Env → Block) : (s.onBlock p f).mgrProg = s.mgrProg := rfl
@[simp] theorem State.onBlock_restarts (s : State) (p : Nat) (f : Block → Env → Block) : (s.onBlock p f).restarts = s.restarts := rfl
@[simp] theorem State.onBlock_fresh (s : State) (p : Nat) (f : Block → Env → Block) : (s.onBlock p f).fresh = s.fresh := rfl
@[simp] theorem State.onBlock_leases (s : State) (p : Nat) (f : Block → Env → Block) : (s.onBlock p f).leases = s.leases := rfl
@[simp] theorem State.onBlock_calls (s : State) (p : Nat) (f : Block → Env → Block) : (s.onBlock p f).calls = s.calls := rfl
@[simp] theorem State.onBlock_scrubbed (s : State) (p : Nat) (f : Block → Env → Block) : (s.onBlock p f).scrubbed = s.scrubbed := rfl
@[simp] theorem State.onBlock_trainTemp (s : State) (p : Nat) (f : Block → Env → Block) : (s.onBlock p f).trainTemp = s.trainTemp := rfl
@[simp] theorem State.onBlock_riderReqs (s : State) (p : Nat) (f : Block → Env → Block) : (s.onBlock p f).riderReqs = s.riderReqs := rfl
@[simp] theorem State.onBlock_jobFault (s : State) (p : Nat) (f : Block → Env → Block) : (s.onBlock p f).jobFault = s.jobFault := rfl
@[simp] theorem State.onBlock_dispatch (s : State) (p : Nat) (f : Block → Env → Block) : (s.onBlock p f).dispatch = s.dispatch := rfl
@[simp] theorem State.onBlock_ports (s : State) (p : Nat) (f : Block → Env → Block) : (s.onBlock p f).ports = s.ports := rfl
@[simp] theorem State.onBlock_twin (s : State) (p : Nat) (f : Block → Env → Block) : (s.onBlock p f).twin = s.twin := rfl
@[simp] theorem State.onBlock_rcv (s : State) (p : Nat) (f : Block → Env → Block) : (s.onBlock p f).rcv = s.rcv := rfl
@[simp] theorem State.onBlock_screen (s : State) (p : Nat) (f : Block → Env → Block) : (s.onBlock p f).screen = s.screen := rfl
@[simp] theorem State.onBlock_far (s : State) (p : Nat) (f : Block → Env → Block) : (s.onBlock p f).far = s.far := rfl
@[simp] theorem State.onBlock_bring (s : State) (p : Nat) (f : Block → Env → Block) : (s.onBlock p f).bring = s.bring := rfl
@[simp] theorem State.onBlock_chipResets (s : State) (p : Nat) (f : Block → Env → Block) : (s.onBlock p f).chipResets = s.chipResets := rfl
@[simp] theorem State.onBlock_stud (s : State) (p : Nat) (f : Block → Env → Block) : (s.onBlock p f).stud = s.stud := rfl
@[simp] theorem State.onBlock_fuses (s : State) (p : Nat) (f : Block → Env → Block) : (s.onBlock p f).fuses = s.fuses := rfl
@[simp] theorem State.onBlock_images (s : State) (p : Nat) (f : Block → Env → Block) : (s.onBlock p f).images = s.images := rfl
@[simp] theorem State.onBlock_power (s : State) (p : Nat) (f : Block → Env → Block) : (s.onBlock p f).power = s.power := rfl
@[simp] theorem State.onBlock_signKeys (s : State) (p : Nat) (f : Block → Env → Block) : (s.onBlock p f).signKeys = s.signKeys := rfl
@[simp] theorem State.onBlock_hbm (s : State) (p : Nat) (f : Block → Env → Block) : (s.onBlock p f).hbm = s.hbm := rfl
@[simp] theorem State.onBlock_ddr (s : State) (p : Nat) (f : Block → Env → Block) : (s.onBlock p f).ddr = s.ddr := rfl
@[simp] theorem State.onBlock_out (s : State) (p : Nat) (f : Block → Env → Block) : (s.onBlock p f).out = s.out := rfl

@[simp] theorem State.onBlock_freeCtr (s : State) (p : Nat) (f : Block → Env → Block) :
    (s.onBlock p f).freeCtr = s.freeCtr + 1 := rfl

/-- A register field reads what was set, modulo its width. -/
theorem State.get_set_same (s : State) {f : Fld} (h : f.ok) (v : Nat) : (s.set f v).get f = v % 2 ^ f.width :=
  Regs.get_set_same chipReset s.regs h v

/-- A field apart from the one set reads as before. -/
theorem State.get_set_apart (s : State) {f g : Fld} (hf : f.lo ≤ f.hi) (hg : g.lo ≤ g.hi) (h : f.apart g) (v : Nat) :
    (s.set f v).get g = s.get g := Regs.get_set_apart chipReset s.regs hf hg h v

@[simp] theorem State.block_setBlock_same (s : State) (p : Nat) (b : Block) : (s.setBlock p b).block p = b :=
  mget_mset_same blockInit s.blocks p b

theorem State.block_setBlock_ne (s : State) {p q : Nat} (b : Block) (h : q ≠ p) : (s.setBlock p b).block q = s.block q :=
  mget_mset_ne blockInit s.blocks b h

@[simp] theorem State.region_setRegion_same (s : State) (r : Nat) (x : Region) : (s.setRegion r x).region r = x :=
  mget_mset_same regionInit s.regions r x

theorem State.region_setRegion_ne (s : State) {r q : Nat} (x : Region) (h : q ≠ r) : (s.setRegion r x).region q = s.region q :=
  mget_mset_ne regionInit s.regions x h

@[simp] theorem State.rmtOf_setRmt_same (s : State) (p : Nat) (x : Rmt) : (s.setRmt p x).rmtOf p = x :=
  mget_mset_same rmtInit s.rmt p x

theorem State.rmtOf_setRmt_ne (s : State) {p q : Nat} (x : Rmt) (h : q ≠ p) : (s.setRmt p x).rmtOf q = s.rmtOf q :=
  mget_mset_ne rmtInit s.rmt x h

@[simp] theorem State.port_setPort_same (s : State) (i : Nat) (x : Port) : (s.setPort i x).port i = x :=
  mget_mset_same portInit s.ports i x

theorem State.port_setPort_ne (s : State) {i j : Nat} (x : Port) (h : j ≠ i) : (s.setPort i x).port j = s.port j :=
  mget_mset_ne portInit s.ports x h

@[simp] theorem State.block_set (s : State) (f : Fld) (v p : Nat) : (s.set f v).block p = s.block p := rfl
@[simp] theorem State.region_set (s : State) (f : Fld) (v r : Nat) : (s.set f v).region r = s.region r := rfl
@[simp] theorem State.rmtOf_set (s : State) (f : Fld) (v p : Nat) : (s.set f v).rmtOf p = s.rmtOf p := rfl
@[simp] theorem State.port_set (s : State) (f : Fld) (v i : Nat) : (s.set f v).port i = s.port i := rfl
@[simp] theorem State.get_setBlock (s : State) (p : Nat) (b : Block) (f : Fld) : (s.setBlock p b).get f = s.get f := rfl
@[simp] theorem State.get_setRegion (s : State) (r : Nat) (x : Region) (f : Fld) : (s.setRegion r x).get f = s.get f := rfl
@[simp] theorem State.get_setRmt (s : State) (p : Nat) (x : Rmt) (f : Fld) : (s.setRmt p x).get f = s.get f := rfl
@[simp] theorem State.get_setPort (s : State) (i : Nat) (x : Port) (f : Fld) : (s.setPort i x).get f = s.get f := rfl
/-- A step of one block leaves the module's register words alone, but for the count of transient faults (R324). -/
theorem State.word_onBlock (s : State) (p : Nat) (f : Block → Env → Block) {a : Nat} (h : a ≠ TST_CHP_TRANSIENT.off) :
    mget chipReset (s.onBlock p f).regs a = mget chipReset s.regs a := Regs.word_set_ne _ _ _ _ h

/-- A field of another word than the count of transient faults reads as before. -/
theorem State.get_onBlock (s : State) (p : Nat) (f : Block → Env → Block) {g : Fld} (h : g.off ≠ TST_CHP_TRANSIENT.off) :
    (s.onBlock p f).get g = s.get g := by
  rw [State.get, State.get, Regs.get, Regs.get, s.word_onBlock p f h]
@[simp] theorem State.block_setRegion (s : State) (r : Nat) (x : Region) (p : Nat) : (s.setRegion r x).block p = s.block p := rfl
@[simp] theorem State.region_setBlock (s : State) (p : Nat) (b : Block) (r : Nat) : (s.setBlock p b).region r = s.region r := rfl

/-- A block's field reads what was set, modulo its width. -/
theorem Block.get_set_same (b : Block) {f : Fld} (h : f.ok) (v : Nat) : (b.set f v).get f = v % 2 ^ f.width :=
  Regs.get_set_same blkReset b.regs h v

/-- A field of a block apart from the one set reads as before. -/
theorem Block.get_set_apart (b : Block) {f g : Fld} (hf : f.lo ≤ f.hi) (hg : g.lo ≤ g.hi) (h : f.apart g) (v : Nat) :
    (b.set f v).get g = b.get g := Regs.get_set_apart blkReset b.regs hf hg h v

/-- A counting field that stops at its maximum stays within its width (R6). -/
theorem Fld.min_top_mod (f : Fld) (n : Nat) : min f.top n % 2 ^ f.width = min f.top n :=
  Nat.mod_eq_of_lt (by
    have := Nat.two_pow_pos f.width
    have := Nat.min_le_left f.top n
    rw [Fld.top] at *
    omega)

/-- A counter after some more, up to its maximum (R6). -/
theorem State.get_count_same (s : State) {f : Fld} (h : f.ok) (n : Nat) : (s.count f n).get f = min f.top (s.get f + n) := by
  rw [State.count, State.get_set_same s h, Fld.min_top_mod]

/-- A counter of a block after some more, up to its maximum (R6). -/
theorem Block.get_count_same (b : Block) {f : Fld} (h : f.ok) (n : Nat) : (b.count f n).get f = min f.top (b.get f + n) := by
  rw [Block.count, Block.get_set_same b h, Fld.min_top_mod]

end Sys2Proof.Machine
end

