-- ==== Sys2Proof/Laws/Block.lean ====
section
/-! SUPPORT. The small lemmas of a block's updates, and of a step of one block: what it leaves alone. -/

namespace Sys2Proof.Machine

@[simp] theorem Block.set_spad (b : Block) (f : Fld) (v : Nat) : (b.set f v).spad = b.spad := rfl
@[simp] theorem Block.set_lblock (b : Block) (f : Fld) (v : Nat) : (b.set f v).lblock = b.lblock := rfl
@[simp] theorem Block.set_stride (b : Block) (f : Fld) (v : Nat) : (b.set f v).stride = b.stride := rfl
@[simp] theorem Block.set_beatAt (b : Block) (f : Fld) (v : Nat) : (b.set f v).beatAt = b.beatAt := rfl
@[simp] theorem Block.set_working (b : Block) (f : Fld) (v : Nat) : (b.set f v).working = b.working := rfl
@[simp] theorem Block.set_waitQuiet (b : Block) (f : Fld) (v : Nat) : (b.set f v).waitQuiet = b.waitQuiet := rfl
@[simp] theorem Block.set_extended (b : Block) (f : Fld) (v : Nat) : (b.set f v).extended = b.extended := rfl
@[simp] theorem Block.set_fenced (b : Block) (f : Fld) (v : Nat) : (b.set f v).fenced = b.fenced := rfl
@[simp] theorem Block.set_fenceCode (b : Block) (f : Fld) (v : Nat) : (b.set f v).fenceCode = b.fenceCode := rfl
@[simp] theorem Block.set_progressAt (b : Block) (f : Fld) (v : Nat) : (b.set f v).progressAt = b.progressAt := rfl
@[simp] theorem Block.set_tally (b : Block) (f : Fld) (v : Nat) : (b.set f v).tally = b.tally := rfl
@[simp] theorem Block.set_freeTally (b : Block) (f : Fld) (v : Nat) : (b.set f v).freeTally = b.freeTally := rfl
@[simp] theorem Block.set_tallies (b : Block) (f : Fld) (v : Nat) : (b.set f v).tallies = b.tallies := rfl
@[simp] theorem Block.set_ev (b : Block) (f : Fld) (v : Nat) : (b.set f v).ev = b.ev := rfl
@[simp] theorem Block.set_coalesced (b : Block) (f : Fld) (v : Nat) : (b.set f v).coalesced = b.coalesced := rfl
@[simp] theorem Block.set_firstSlack (b : Block) (f : Fld) (v : Nat) : (b.set f v).firstSlack = b.firstSlack := rfl
@[simp] theorem Block.set_program (b : Block) (f : Fld) (v : Nat) : (b.set f v).program = b.program := rfl
@[simp] theorem Block.set_eng (b : Block) (f : Fld) (v : Nat) : (b.set f v).eng = b.eng := rfl
@[simp] theorem Block.set_code (b : Block) (f : Fld) (v : Nat) : (b.set f v).code = b.code := rfl
@[simp] theorem Block.set_tasks (b : Block) (f : Fld) (v : Nat) : (b.set f v).tasks = b.tasks := rfl
@[simp] theorem Block.set_threads (b : Block) (f : Fld) (v : Nat) : (b.set f v).threads = b.threads := rfl
@[simp] theorem Block.set_turns (b : Block) (f : Fld) (v : Nat) : (b.set f v).turns = b.turns := rfl
@[simp] theorem Block.set_gather (b : Block) (f : Fld) (v : Nat) : (b.set f v).gather = b.gather := rfl
@[simp] theorem Block.set_jobs (b : Block) (f : Fld) (v : Nat) : (b.set f v).jobs = b.jobs := rfl
@[simp] theorem Block.set_posted (b : Block) (f : Fld) (v : Nat) : (b.set f v).posted = b.posted := rfl
@[simp] theorem Block.set_reqs (b : Block) (f : Fld) (v : Nat) : (b.set f v).reqs = b.reqs := rfl
@[simp] theorem Block.set_nextReq (b : Block) (f : Fld) (v : Nat) : (b.set f v).nextReq = b.nextReq := rfl
@[simp] theorem Block.set_nodes (b : Block) (f : Fld) (v : Nat) : (b.set f v).nodes = b.nodes := rfl
@[simp] theorem Block.set_fireList (b : Block) (f : Fld) (v : Nat) : (b.set f v).fireList = b.fireList := rfl
@[simp] theorem Block.set_flPos (b : Block) (f : Fld) (v : Nat) : (b.set f v).flPos = b.flPos := rfl
@[simp] theorem Block.set_flDone (b : Block) (f : Fld) (v : Nat) : (b.set f v).flDone = b.flDone := rfl
@[simp] theorem Block.set_arcs (b : Block) (f : Fld) (v : Nat) : (b.set f v).arcs = b.arcs := rfl
@[simp] theorem Block.set_templates (b : Block) (f : Fld) (v : Nat) : (b.set f v).templates = b.templates := rfl
@[simp] theorem Block.set_queue (b : Block) (f : Fld) (v : Nat) : (b.set f v).queue = b.queue := rfl
@[simp] theorem Block.set_ctxs (b : Block) (f : Fld) (v : Nat) : (b.set f v).ctxs = b.ctxs := rfl
@[simp] theorem Block.set_cqs (b : Block) (f : Fld) (v : Nat) : (b.set f v).cqs = b.cqs := rfl
@[simp] theorem Block.set_spent (b : Block) (f : Fld) (v : Nat) : (b.set f v).spent = b.spent := rfl
@[simp] theorem Block.set_returned (b : Block) (f : Fld) (v : Nat) : (b.set f v).returned = b.returned := rfl
@[simp] theorem Block.set_bases (b : Block) (f : Fld) (v : Nat) : (b.set f v).bases = b.bases := rfl
@[simp] theorem Block.set_totals (b : Block) (f : Fld) (v : Nat) : (b.set f v).totals = b.totals := rfl
@[simp] theorem Block.set_waits (b : Block) (f : Fld) (v : Nat) : (b.set f v).waits = b.waits := rfl
@[simp] theorem Block.set_closeAt (b : Block) (f : Fld) (v : Nat) : (b.set f v).closeAt = b.closeAt := rfl
@[simp] theorem Block.set_reinJob (b : Block) (f : Fld) (v : Nat) : (b.set f v).reinJob = b.reinJob := rfl
@[simp] theorem Block.set_jobFault (b : Block) (f : Fld) (v : Nat) : (b.set f v).jobFault = b.jobFault := rfl
@[simp] theorem Block.set_portSchedule (b : Block) (f : Fld) (v : Nat) : (b.set f v).portSchedule = b.portSchedule := rfl
@[simp] theorem Block.set_mesh (b : Block) (f : Fld) (v : Nat) : (b.set f v).mesh = b.mesh := rfl
@[simp] theorem Block.set_router (b : Block) (f : Fld) (v : Nat) : (b.set f v).router = b.router := rfl
@[simp] theorem Block.set_passTimes (b : Block) (f : Fld) (v : Nat) : (b.set f v).passTimes = b.passTimes := rfl
@[simp] theorem Block.set_slice (b : Block) (f : Fld) (v : Nat) : (b.set f v).slice = b.slice := rfl
@[simp] theorem Block.set_diag (b : Block) (f : Fld) (v : Nat) : (b.set f v).diag = b.diag := rfl
@[simp] theorem Block.set_trace (b : Block) (f : Fld) (v : Nat) : (b.set f v).trace = b.trace := rfl
@[simp] theorem Block.set_resets (b : Block) (f : Fld) (v : Nat) : (b.set f v).resets = b.resets := rfl
@[simp] theorem Block.set_scan (b : Block) (f : Fld) (v : Nat) : (b.set f v).scan = b.scan := rfl
@[simp] theorem Block.set_saddle (b : Block) (f : Fld) (v : Nat) : (b.set f v).saddle = b.saddle := rfl
@[simp] theorem Block.set_owes (b : Block) (f : Fld) (v : Nat) : (b.set f v).owes = b.owes := rfl
@[simp] theorem Block.set_replayIdle (b : Block) (f : Fld) (v : Nat) : (b.set f v).replayIdle = b.replayIdle := rfl
@[simp] theorem Block.set_recordBad (b : Block) (f : Fld) (v : Nat) : (b.set f v).recordBad = b.recordBad := rfl
@[simp] theorem Block.set_sliceSpoilt (b : Block) (f : Fld) (v : Nat) : (b.set f v).sliceSpoilt = b.sliceSpoilt := rfl

@[simp] theorem Block.count_spad (b : Block) (f : Fld) (n : Nat) : (b.count f n).spad = b.spad := rfl
@[simp] theorem Block.count_lblock (b : Block) (f : Fld) (n : Nat) : (b.count f n).lblock = b.lblock := rfl
@[simp] theorem Block.count_stride (b : Block) (f : Fld) (n : Nat) : (b.count f n).stride = b.stride := rfl
@[simp] theorem Block.count_beatAt (b : Block) (f : Fld) (n : Nat) : (b.count f n).beatAt = b.beatAt := rfl
@[simp] theorem Block.count_working (b : Block) (f : Fld) (n : Nat) : (b.count f n).working = b.working := rfl
@[simp] theorem Block.count_waitQuiet (b : Block) (f : Fld) (n : Nat) : (b.count f n).waitQuiet = b.waitQuiet := rfl
@[simp] theorem Block.count_extended (b : Block) (f : Fld) (n : Nat) : (b.count f n).extended = b.extended := rfl
@[simp] theorem Block.count_fenced (b : Block) (f : Fld) (n : Nat) : (b.count f n).fenced = b.fenced := rfl
@[simp] theorem Block.count_fenceCode (b : Block) (f : Fld) (n : Nat) : (b.count f n).fenceCode = b.fenceCode := rfl
@[simp] theorem Block.count_progressAt (b : Block) (f : Fld) (n : Nat) : (b.count f n).progressAt = b.progressAt := rfl
@[simp] theorem Block.count_tally (b : Block) (f : Fld) (n : Nat) : (b.count f n).tally = b.tally := rfl
@[simp] theorem Block.count_freeTally (b : Block) (f : Fld) (n : Nat) : (b.count f n).freeTally = b.freeTally := rfl
@[simp] theorem Block.count_tallies (b : Block) (f : Fld) (n : Nat) : (b.count f n).tallies = b.tallies := rfl
@[simp] theorem Block.count_ev (b : Block) (f : Fld) (n : Nat) : (b.count f n).ev = b.ev := rfl
@[simp] theorem Block.count_coalesced (b : Block) (f : Fld) (n : Nat) : (b.count f n).coalesced = b.coalesced := rfl
@[simp] theorem Block.count_firstSlack (b : Block) (f : Fld) (n : Nat) : (b.count f n).firstSlack = b.firstSlack := rfl
@[simp] theorem Block.count_program (b : Block) (f : Fld) (n : Nat) : (b.count f n).program = b.program := rfl
@[simp] theorem Block.count_eng (b : Block) (f : Fld) (n : Nat) : (b.count f n).eng = b.eng := rfl
@[simp] theorem Block.count_code (b : Block) (f : Fld) (n : Nat) : (b.count f n).code = b.code := rfl
@[simp] theorem Block.count_tasks (b : Block) (f : Fld) (n : Nat) : (b.count f n).tasks = b.tasks := rfl
@[simp] theorem Block.count_threads (b : Block) (f : Fld) (n : Nat) : (b.count f n).threads = b.threads := rfl
@[simp] theorem Block.count_turns (b : Block) (f : Fld) (n : Nat) : (b.count f n).turns = b.turns := rfl
@[simp] theorem Block.count_gather (b : Block) (f : Fld) (n : Nat) : (b.count f n).gather = b.gather := rfl
@[simp] theorem Block.count_jobs (b : Block) (f : Fld) (n : Nat) : (b.count f n).jobs = b.jobs := rfl
@[simp] theorem Block.count_posted (b : Block) (f : Fld) (n : Nat) : (b.count f n).posted = b.posted := rfl
@[simp] theorem Block.count_reqs (b : Block) (f : Fld) (n : Nat) : (b.count f n).reqs = b.reqs := rfl
@[simp] theorem Block.count_nextReq (b : Block) (f : Fld) (n : Nat) : (b.count f n).nextReq = b.nextReq := rfl
@[simp] theorem Block.count_nodes (b : Block) (f : Fld) (n : Nat) : (b.count f n).nodes = b.nodes := rfl
@[simp] theorem Block.count_fireList (b : Block) (f : Fld) (n : Nat) : (b.count f n).fireList = b.fireList := rfl
@[simp] theorem Block.count_flPos (b : Block) (f : Fld) (n : Nat) : (b.count f n).flPos = b.flPos := rfl
@[simp] theorem Block.count_flDone (b : Block) (f : Fld) (n : Nat) : (b.count f n).flDone = b.flDone := rfl
@[simp] theorem Block.count_arcs (b : Block) (f : Fld) (n : Nat) : (b.count f n).arcs = b.arcs := rfl
@[simp] theorem Block.count_templates (b : Block) (f : Fld) (n : Nat) : (b.count f n).templates = b.templates := rfl
@[simp] theorem Block.count_queue (b : Block) (f : Fld) (n : Nat) : (b.count f n).queue = b.queue := rfl
@[simp] theorem Block.count_ctxs (b : Block) (f : Fld) (n : Nat) : (b.count f n).ctxs = b.ctxs := rfl
@[simp] theorem Block.count_cqs (b : Block) (f : Fld) (n : Nat) : (b.count f n).cqs = b.cqs := rfl
@[simp] theorem Block.count_spent (b : Block) (f : Fld) (n : Nat) : (b.count f n).spent = b.spent := rfl
@[simp] theorem Block.count_returned (b : Block) (f : Fld) (n : Nat) : (b.count f n).returned = b.returned := rfl
@[simp] theorem Block.count_bases (b : Block) (f : Fld) (n : Nat) : (b.count f n).bases = b.bases := rfl
@[simp] theorem Block.count_totals (b : Block) (f : Fld) (n : Nat) : (b.count f n).totals = b.totals := rfl
@[simp] theorem Block.count_waits (b : Block) (f : Fld) (n : Nat) : (b.count f n).waits = b.waits := rfl
@[simp] theorem Block.count_closeAt (b : Block) (f : Fld) (n : Nat) : (b.count f n).closeAt = b.closeAt := rfl
@[simp] theorem Block.count_reinJob (b : Block) (f : Fld) (n : Nat) : (b.count f n).reinJob = b.reinJob := rfl
@[simp] theorem Block.count_jobFault (b : Block) (f : Fld) (n : Nat) : (b.count f n).jobFault = b.jobFault := rfl
@[simp] theorem Block.count_portSchedule (b : Block) (f : Fld) (n : Nat) : (b.count f n).portSchedule = b.portSchedule := rfl
@[simp] theorem Block.count_mesh (b : Block) (f : Fld) (n : Nat) : (b.count f n).mesh = b.mesh := rfl
@[simp] theorem Block.count_router (b : Block) (f : Fld) (n : Nat) : (b.count f n).router = b.router := rfl
@[simp] theorem Block.count_passTimes (b : Block) (f : Fld) (n : Nat) : (b.count f n).passTimes = b.passTimes := rfl
@[simp] theorem Block.count_slice (b : Block) (f : Fld) (n : Nat) : (b.count f n).slice = b.slice := rfl
@[simp] theorem Block.count_diag (b : Block) (f : Fld) (n : Nat) : (b.count f n).diag = b.diag := rfl
@[simp] theorem Block.count_trace (b : Block) (f : Fld) (n : Nat) : (b.count f n).trace = b.trace := rfl
@[simp] theorem Block.count_resets (b : Block) (f : Fld) (n : Nat) : (b.count f n).resets = b.resets := rfl
@[simp] theorem Block.count_scan (b : Block) (f : Fld) (n : Nat) : (b.count f n).scan = b.scan := rfl
@[simp] theorem Block.count_saddle (b : Block) (f : Fld) (n : Nat) : (b.count f n).saddle = b.saddle := rfl
@[simp] theorem Block.count_owes (b : Block) (f : Fld) (n : Nat) : (b.count f n).owes = b.owes := rfl
@[simp] theorem Block.count_replayIdle (b : Block) (f : Fld) (n : Nat) : (b.count f n).replayIdle = b.replayIdle := rfl
@[simp] theorem Block.count_recordBad (b : Block) (f : Fld) (n : Nat) : (b.count f n).recordBad = b.recordBad := rfl
@[simp] theorem Block.count_sliceSpoilt (b : Block) (f : Fld) (n : Nat) : (b.count f n).sliceSpoilt = b.sliceSpoilt := rfl

@[simp] theorem Block.cnt_spad (b : Block) (i n : Nat) : (b.cnt i n).spad = b.spad := rfl
@[simp] theorem Block.cnt_lblock (b : Block) (i n : Nat) : (b.cnt i n).lblock = b.lblock := rfl
@[simp] theorem Block.cnt_stride (b : Block) (i n : Nat) : (b.cnt i n).stride = b.stride := rfl
@[simp] theorem Block.cnt_beatAt (b : Block) (i n : Nat) : (b.cnt i n).beatAt = b.beatAt := rfl
@[simp] theorem Block.cnt_working (b : Block) (i n : Nat) : (b.cnt i n).working = b.working := rfl
@[simp] theorem Block.cnt_waitQuiet (b : Block) (i n : Nat) : (b.cnt i n).waitQuiet = b.waitQuiet := rfl
@[simp] theorem Block.cnt_extended (b : Block) (i n : Nat) : (b.cnt i n).extended = b.extended := rfl
@[simp] theorem Block.cnt_fenced (b : Block) (i n : Nat) : (b.cnt i n).fenced = b.fenced := rfl
@[simp] theorem Block.cnt_fenceCode (b : Block) (i n : Nat) : (b.cnt i n).fenceCode = b.fenceCode := rfl
@[simp] theorem Block.cnt_progressAt (b : Block) (i n : Nat) : (b.cnt i n).progressAt = b.progressAt := rfl
@[simp] theorem Block.cnt_tally (b : Block) (i n : Nat) : (b.cnt i n).tally = b.tally := rfl
@[simp] theorem Block.cnt_freeTally (b : Block) (i n : Nat) : (b.cnt i n).freeTally = b.freeTally := rfl
@[simp] theorem Block.cnt_tallies (b : Block) (i n : Nat) : (b.cnt i n).tallies = b.tallies := rfl
@[simp] theorem Block.cnt_ev (b : Block) (i n : Nat) : (b.cnt i n).ev = b.ev := rfl
@[simp] theorem Block.cnt_coalesced (b : Block) (i n : Nat) : (b.cnt i n).coalesced = b.coalesced := rfl
@[simp] theorem Block.cnt_firstSlack (b : Block) (i n : Nat) : (b.cnt i n).firstSlack = b.firstSlack := rfl
@[simp] theorem Block.cnt_program (b : Block) (i n : Nat) : (b.cnt i n).program = b.program := rfl
@[simp] theorem Block.cnt_eng (b : Block) (i n : Nat) : (b.cnt i n).eng = b.eng := rfl
@[simp] theorem Block.cnt_code (b : Block) (i n : Nat) : (b.cnt i n).code = b.code := rfl
@[simp] theorem Block.cnt_tasks (b : Block) (i n : Nat) : (b.cnt i n).tasks = b.tasks := rfl
@[simp] theorem Block.cnt_threads (b : Block) (i n : Nat) : (b.cnt i n).threads = b.threads := rfl
@[simp] theorem Block.cnt_turns (b : Block) (i n : Nat) : (b.cnt i n).turns = b.turns := rfl
@[simp] theorem Block.cnt_gather (b : Block) (i n : Nat) : (b.cnt i n).gather = b.gather := rfl
@[simp] theorem Block.cnt_jobs (b : Block) (i n : Nat) : (b.cnt i n).jobs = b.jobs := rfl
@[simp] theorem Block.cnt_posted (b : Block) (i n : Nat) : (b.cnt i n).posted = b.posted := rfl
@[simp] theorem Block.cnt_reqs (b : Block) (i n : Nat) : (b.cnt i n).reqs = b.reqs := rfl
@[simp] theorem Block.cnt_nextReq (b : Block) (i n : Nat) : (b.cnt i n).nextReq = b.nextReq := rfl
@[simp] theorem Block.cnt_nodes (b : Block) (i n : Nat) : (b.cnt i n).nodes = b.nodes := rfl
@[simp] theorem Block.cnt_fireList (b : Block) (i n : Nat) : (b.cnt i n).fireList = b.fireList := rfl
@[simp] theorem Block.cnt_flPos (b : Block) (i n : Nat) : (b.cnt i n).flPos = b.flPos := rfl
@[simp] theorem Block.cnt_flDone (b : Block) (i n : Nat) : (b.cnt i n).flDone = b.flDone := rfl
@[simp] theorem Block.cnt_arcs (b : Block) (i n : Nat) : (b.cnt i n).arcs = b.arcs := rfl
@[simp] theorem Block.cnt_templates (b : Block) (i n : Nat) : (b.cnt i n).templates = b.templates := rfl
@[simp] theorem Block.cnt_queue (b : Block) (i n : Nat) : (b.cnt i n).queue = b.queue := rfl
@[simp] theorem Block.cnt_ctxs (b : Block) (i n : Nat) : (b.cnt i n).ctxs = b.ctxs := rfl
@[simp] theorem Block.cnt_cqs (b : Block) (i n : Nat) : (b.cnt i n).cqs = b.cqs := rfl
@[simp] theorem Block.cnt_spent (b : Block) (i n : Nat) : (b.cnt i n).spent = b.spent := rfl
@[simp] theorem Block.cnt_returned (b : Block) (i n : Nat) : (b.cnt i n).returned = b.returned := rfl
@[simp] theorem Block.cnt_bases (b : Block) (i n : Nat) : (b.cnt i n).bases = b.bases := rfl
@[simp] theorem Block.cnt_totals (b : Block) (i n : Nat) : (b.cnt i n).totals = b.totals := rfl
@[simp] theorem Block.cnt_waits (b : Block) (i n : Nat) : (b.cnt i n).waits = b.waits := rfl
@[simp] theorem Block.cnt_closeAt (b : Block) (i n : Nat) : (b.cnt i n).closeAt = b.closeAt := rfl
@[simp] theorem Block.cnt_reinJob (b : Block) (i n : Nat) : (b.cnt i n).reinJob = b.reinJob := rfl
@[simp] theorem Block.cnt_jobFault (b : Block) (i n : Nat) : (b.cnt i n).jobFault = b.jobFault := rfl
@[simp] theorem Block.cnt_portSchedule (b : Block) (i n : Nat) : (b.cnt i n).portSchedule = b.portSchedule := rfl
@[simp] theorem Block.cnt_mesh (b : Block) (i n : Nat) : (b.cnt i n).mesh = b.mesh := rfl
@[simp] theorem Block.cnt_router (b : Block) (i n : Nat) : (b.cnt i n).router = b.router := rfl
@[simp] theorem Block.cnt_passTimes (b : Block) (i n : Nat) : (b.cnt i n).passTimes = b.passTimes := rfl
@[simp] theorem Block.cnt_slice (b : Block) (i n : Nat) : (b.cnt i n).slice = b.slice := rfl
@[simp] theorem Block.cnt_diag (b : Block) (i n : Nat) : (b.cnt i n).diag = b.diag := rfl
@[simp] theorem Block.cnt_trace (b : Block) (i n : Nat) : (b.cnt i n).trace = b.trace := rfl
@[simp] theorem Block.cnt_resets (b : Block) (i n : Nat) : (b.cnt i n).resets = b.resets := rfl
@[simp] theorem Block.cnt_scan (b : Block) (i n : Nat) : (b.cnt i n).scan = b.scan := rfl
@[simp] theorem Block.cnt_saddle (b : Block) (i n : Nat) : (b.cnt i n).saddle = b.saddle := rfl
@[simp] theorem Block.cnt_owes (b : Block) (i n : Nat) : (b.cnt i n).owes = b.owes := rfl
@[simp] theorem Block.cnt_replayIdle (b : Block) (i n : Nat) : (b.cnt i n).replayIdle = b.replayIdle := rfl
@[simp] theorem Block.cnt_recordBad (b : Block) (i n : Nat) : (b.cnt i n).recordBad = b.recordBad := rfl
@[simp] theorem Block.cnt_sliceSpoilt (b : Block) (i n : Nat) : (b.cnt i n).sliceSpoilt = b.sliceSpoilt := rfl

@[simp] theorem Block.setThread_spad (b : Block) (t : Nat) (th : Thread) : (b.setThread t th).spad = b.spad := rfl
@[simp] theorem Block.setThread_lblock (b : Block) (t : Nat) (th : Thread) : (b.setThread t th).lblock = b.lblock := rfl
@[simp] theorem Block.setThread_stride (b : Block) (t : Nat) (th : Thread) : (b.setThread t th).stride = b.stride := rfl
@[simp] theorem Block.setThread_beatAt (b : Block) (t : Nat) (th : Thread) : (b.setThread t th).beatAt = b.beatAt := rfl
@[simp] theorem Block.setThread_working (b : Block) (t : Nat) (th : Thread) : (b.setThread t th).working = b.working := rfl
@[simp] theorem Block.setThread_waitQuiet (b : Block) (t : Nat) (th : Thread) : (b.setThread t th).waitQuiet = b.waitQuiet := rfl
@[simp] theorem Block.setThread_extended (b : Block) (t : Nat) (th : Thread) : (b.setThread t th).extended = b.extended := rfl
@[simp] theorem Block.setThread_fenced (b : Block) (t : Nat) (th : Thread) : (b.setThread t th).fenced = b.fenced := rfl
@[simp] theorem Block.setThread_fenceCode (b : Block) (t : Nat) (th : Thread) : (b.setThread t th).fenceCode = b.fenceCode := rfl
@[simp] theorem Block.setThread_progressAt (b : Block) (t : Nat) (th : Thread) : (b.setThread t th).progressAt = b.progressAt := rfl
@[simp] theorem Block.setThread_tally (b : Block) (t : Nat) (th : Thread) : (b.setThread t th).tally = b.tally := rfl
@[simp] theorem Block.setThread_freeTally (b : Block) (t : Nat) (th : Thread) : (b.setThread t th).freeTally = b.freeTally := rfl
@[simp] theorem Block.setThread_tallies (b : Block) (t : Nat) (th : Thread) : (b.setThread t th).tallies = b.tallies := rfl
@[simp] theorem Block.setThread_ev (b : Block) (t : Nat) (th : Thread) : (b.setThread t th).ev = b.ev := rfl
@[simp] theorem Block.setThread_coalesced (b : Block) (t : Nat) (th : Thread) : (b.setThread t th).coalesced = b.coalesced := rfl
@[simp] theorem Block.setThread_firstSlack (b : Block) (t : Nat) (th : Thread) : (b.setThread t th).firstSlack = b.firstSlack := rfl
@[simp] theorem Block.setThread_program (b : Block) (t : Nat) (th : Thread) : (b.setThread t th).program = b.program := rfl
@[simp] theorem Block.setThread_eng (b : Block) (t : Nat) (th : Thread) : (b.setThread t th).eng = b.eng := rfl
@[simp] theorem Block.setThread_code (b : Block) (t : Nat) (th : Thread) : (b.setThread t th).code = b.code := rfl
@[simp] theorem Block.setThread_tasks (b : Block) (t : Nat) (th : Thread) : (b.setThread t th).tasks = b.tasks := rfl
@[simp] theorem Block.setThread_turns (b : Block) (t : Nat) (th : Thread) : (b.setThread t th).turns = b.turns := rfl
@[simp] theorem Block.setThread_gather (b : Block) (t : Nat) (th : Thread) : (b.setThread t th).gather = b.gather := rfl
@[simp] theorem Block.setThread_jobs (b : Block) (t : Nat) (th : Thread) : (b.setThread t th).jobs = b.jobs := rfl
@[simp] theorem Block.setThread_posted (b : Block) (t : Nat) (th : Thread) : (b.setThread t th).posted = b.posted := rfl
@[simp] theorem Block.setThread_reqs (b : Block) (t : Nat) (th : Thread) : (b.setThread t th).reqs = b.reqs := rfl
@[simp] theorem Block.setThread_nextReq (b : Block) (t : Nat) (th : Thread) : (b.setThread t th).nextReq = b.nextReq := rfl
@[simp] theorem Block.setThread_nodes (b : Block) (t : Nat) (th : Thread) : (b.setThread t th).nodes = b.nodes := rfl
@[simp] theorem Block.setThread_fireList (b : Block) (t : Nat) (th : Thread) : (b.setThread t th).fireList = b.fireList := rfl
@[simp] theorem Block.setThread_flPos (b : Block) (t : Nat) (th : Thread) : (b.setThread t th).flPos = b.flPos := rfl
@[simp] theorem Block.setThread_flDone (b : Block) (t : Nat) (th : Thread) : (b.setThread t th).flDone = b.flDone := rfl
@[simp] theorem Block.setThread_arcs (b : Block) (t : Nat) (th : Thread) : (b.setThread t th).arcs = b.arcs := rfl
@[simp] theorem Block.setThread_templates (b : Block) (t : Nat) (th : Thread) : (b.setThread t th).templates = b.templates := rfl
@[simp] theorem Block.setThread_queue (b : Block) (t : Nat) (th : Thread) : (b.setThread t th).queue = b.queue := rfl
@[simp] theorem Block.setThread_ctxs (b : Block) (t : Nat) (th : Thread) : (b.setThread t th).ctxs = b.ctxs := rfl
@[simp] theorem Block.setThread_cqs (b : Block) (t : Nat) (th : Thread) : (b.setThread t th).cqs = b.cqs := rfl
@[simp] theorem Block.setThread_spent (b : Block) (t : Nat) (th : Thread) : (b.setThread t th).spent = b.spent := rfl
@[simp] theorem Block.setThread_returned (b : Block) (t : Nat) (th : Thread) : (b.setThread t th).returned = b.returned := rfl
@[simp] theorem Block.setThread_bases (b : Block) (t : Nat) (th : Thread) : (b.setThread t th).bases = b.bases := rfl
@[simp] theorem Block.setThread_totals (b : Block) (t : Nat) (th : Thread) : (b.setThread t th).totals = b.totals := rfl
@[simp] theorem Block.setThread_waits (b : Block) (t : Nat) (th : Thread) : (b.setThread t th).waits = b.waits := rfl
@[simp] theorem Block.setThread_closeAt (b : Block) (t : Nat) (th : Thread) : (b.setThread t th).closeAt = b.closeAt := rfl
@[simp] theorem Block.setThread_reinJob (b : Block) (t : Nat) (th : Thread) : (b.setThread t th).reinJob = b.reinJob := rfl
@[simp] theorem Block.setThread_jobFault (b : Block) (t : Nat) (th : Thread) : (b.setThread t th).jobFault = b.jobFault := rfl
@[simp] theorem Block.setThread_portSchedule (b : Block) (t : Nat) (th : Thread) : (b.setThread t th).portSchedule = b.portSchedule := rfl
@[simp] theorem Block.setThread_mesh (b : Block) (t : Nat) (th : Thread) : (b.setThread t th).mesh = b.mesh := rfl
@[simp] theorem Block.setThread_router (b : Block) (t : Nat) (th : Thread) : (b.setThread t th).router = b.router := rfl
@[simp] theorem Block.setThread_passTimes (b : Block) (t : Nat) (th : Thread) : (b.setThread t th).passTimes = b.passTimes := rfl
@[simp] theorem Block.setThread_slice (b : Block) (t : Nat) (th : Thread) : (b.setThread t th).slice = b.slice := rfl
@[simp] theorem Block.setThread_diag (b : Block) (t : Nat) (th : Thread) : (b.setThread t th).diag = b.diag := rfl
@[simp] theorem Block.setThread_trace (b : Block) (t : Nat) (th : Thread) : (b.setThread t th).trace = b.trace := rfl
@[simp] theorem Block.setThread_resets (b : Block) (t : Nat) (th : Thread) : (b.setThread t th).resets = b.resets := rfl
@[simp] theorem Block.setThread_scan (b : Block) (t : Nat) (th : Thread) : (b.setThread t th).scan = b.scan := rfl
@[simp] theorem Block.setThread_saddle (b : Block) (t : Nat) (th : Thread) : (b.setThread t th).saddle = b.saddle := rfl
@[simp] theorem Block.setThread_owes (b : Block) (t : Nat) (th : Thread) : (b.setThread t th).owes = b.owes := rfl
@[simp] theorem Block.setThread_replayIdle (b : Block) (t : Nat) (th : Thread) : (b.setThread t th).replayIdle = b.replayIdle := rfl
@[simp] theorem Block.setThread_recordBad (b : Block) (t : Nat) (th : Thread) : (b.setThread t th).recordBad = b.recordBad := rfl
@[simp] theorem Block.setThread_sliceSpoilt (b : Block) (t : Nat) (th : Thread) : (b.setThread t th).sliceSpoilt = b.sliceSpoilt := rfl

@[simp] theorem Block.progress_regs (b : Block) (env : Env) : (b.progress env).regs = b.regs := rfl
@[simp] theorem Block.progress_spad (b : Block) (env : Env) : (b.progress env).spad = b.spad := rfl
@[simp] theorem Block.progress_lblock (b : Block) (env : Env) : (b.progress env).lblock = b.lblock := rfl
@[simp] theorem Block.progress_stride (b : Block) (env : Env) : (b.progress env).stride = b.stride := rfl
@[simp] theorem Block.progress_beatAt (b : Block) (env : Env) : (b.progress env).beatAt = b.beatAt := rfl
@[simp] theorem Block.progress_working (b : Block) (env : Env) : (b.progress env).working = b.working := rfl
@[simp] theorem Block.progress_waitQuiet (b : Block) (env : Env) : (b.progress env).waitQuiet = b.waitQuiet := rfl
@[simp] theorem Block.progress_extended (b : Block) (env : Env) : (b.progress env).extended = b.extended := rfl
@[simp] theorem Block.progress_fenced (b : Block) (env : Env) : (b.progress env).fenced = b.fenced := rfl
@[simp] theorem Block.progress_fenceCode (b : Block) (env : Env) : (b.progress env).fenceCode = b.fenceCode := rfl
@[simp] theorem Block.progress_tally (b : Block) (env : Env) : (b.progress env).tally = b.tally := rfl
@[simp] theorem Block.progress_freeTally (b : Block) (env : Env) : (b.progress env).freeTally = b.freeTally := rfl
@[simp] theorem Block.progress_tallies (b : Block) (env : Env) : (b.progress env).tallies = b.tallies := rfl
@[simp] theorem Block.progress_ev (b : Block) (env : Env) : (b.progress env).ev = b.ev := rfl
@[simp] theorem Block.progress_coalesced (b : Block) (env : Env) : (b.progress env).coalesced = b.coalesced := rfl
@[simp] theorem Block.progress_firstSlack (b : Block) (env : Env) : (b.progress env).firstSlack = b.firstSlack := rfl
@[simp] theorem Block.progress_program (b : Block) (env : Env) : (b.progress env).program = b.program := rfl
@[simp] theorem Block.progress_eng (b : Block) (env : Env) : (b.progress env).eng = b.eng := rfl
@[simp] theorem Block.progress_code (b : Block) (env : Env) : (b.progress env).code = b.code := rfl
@[simp] theorem Block.progress_tasks (b : Block) (env : Env) : (b.progress env).tasks = b.tasks := rfl
@[simp] theorem Block.progress_threads (b : Block) (env : Env) : (b.progress env).threads = b.threads := rfl
@[simp] theorem Block.progress_turns (b : Block) (env : Env) : (b.progress env).turns = b.turns := rfl
@[simp] theorem Block.progress_gather (b : Block) (env : Env) : (b.progress env).gather = b.gather := rfl
@[simp] theorem Block.progress_jobs (b : Block) (env : Env) : (b.progress env).jobs = b.jobs := rfl
@[simp] theorem Block.progress_posted (b : Block) (env : Env) : (b.progress env).posted = b.posted := rfl
@[simp] theorem Block.progress_reqs (b : Block) (env : Env) : (b.progress env).reqs = b.reqs := rfl
@[simp] theorem Block.progress_nextReq (b : Block) (env : Env) : (b.progress env).nextReq = b.nextReq := rfl
@[simp] theorem Block.progress_nodes (b : Block) (env : Env) : (b.progress env).nodes = b.nodes := rfl
@[simp] theorem Block.progress_fireList (b : Block) (env : Env) : (b.progress env).fireList = b.fireList := rfl
@[simp] theorem Block.progress_flPos (b : Block) (env : Env) : (b.progress env).flPos = b.flPos := rfl
@[simp] theorem Block.progress_flDone (b : Block) (env : Env) : (b.progress env).flDone = b.flDone := rfl
@[simp] theorem Block.progress_arcs (b : Block) (env : Env) : (b.progress env).arcs = b.arcs := rfl
@[simp] theorem Block.progress_templates (b : Block) (env : Env) : (b.progress env).templates = b.templates := rfl
@[simp] theorem Block.progress_queue (b : Block) (env : Env) : (b.progress env).queue = b.queue := rfl
@[simp] theorem Block.progress_ctxs (b : Block) (env : Env) : (b.progress env).ctxs = b.ctxs := rfl
@[simp] theorem Block.progress_cqs (b : Block) (env : Env) : (b.progress env).cqs = b.cqs := rfl
@[simp] theorem Block.progress_spent (b : Block) (env : Env) : (b.progress env).spent = b.spent := rfl
@[simp] theorem Block.progress_returned (b : Block) (env : Env) : (b.progress env).returned = b.returned := rfl
@[simp] theorem Block.progress_bases (b : Block) (env : Env) : (b.progress env).bases = b.bases := rfl
@[simp] theorem Block.progress_totals (b : Block) (env : Env) : (b.progress env).totals = b.totals := rfl
@[simp] theorem Block.progress_waits (b : Block) (env : Env) : (b.progress env).waits = b.waits := rfl
@[simp] theorem Block.progress_closeAt (b : Block) (env : Env) : (b.progress env).closeAt = b.closeAt := rfl
@[simp] theorem Block.progress_reinJob (b : Block) (env : Env) : (b.progress env).reinJob = b.reinJob := rfl
@[simp] theorem Block.progress_jobFault (b : Block) (env : Env) : (b.progress env).jobFault = b.jobFault := rfl
@[simp] theorem Block.progress_portSchedule (b : Block) (env : Env) : (b.progress env).portSchedule = b.portSchedule := rfl
@[simp] theorem Block.progress_mesh (b : Block) (env : Env) : (b.progress env).mesh = b.mesh := rfl
@[simp] theorem Block.progress_router (b : Block) (env : Env) : (b.progress env).router = b.router := rfl
@[simp] theorem Block.progress_passTimes (b : Block) (env : Env) : (b.progress env).passTimes = b.passTimes := rfl
@[simp] theorem Block.progress_slice (b : Block) (env : Env) : (b.progress env).slice = b.slice := rfl
@[simp] theorem Block.progress_diag (b : Block) (env : Env) : (b.progress env).diag = b.diag := rfl
@[simp] theorem Block.progress_trace (b : Block) (env : Env) : (b.progress env).trace = b.trace := rfl
@[simp] theorem Block.progress_resets (b : Block) (env : Env) : (b.progress env).resets = b.resets := rfl
@[simp] theorem Block.progress_scan (b : Block) (env : Env) : (b.progress env).scan = b.scan := rfl
@[simp] theorem Block.progress_saddle (b : Block) (env : Env) : (b.progress env).saddle = b.saddle := rfl
@[simp] theorem Block.progress_owes (b : Block) (env : Env) : (b.progress env).owes = b.owes := rfl
@[simp] theorem Block.progress_replayIdle (b : Block) (env : Env) : (b.progress env).replayIdle = b.replayIdle := rfl
@[simp] theorem Block.progress_recordBad (b : Block) (env : Env) : (b.progress env).recordBad = b.recordBad := rfl
@[simp] theorem Block.progress_sliceSpoilt (b : Block) (env : Env) : (b.progress env).sliceSpoilt = b.sliceSpoilt := rfl

@[simp] theorem Block.thread_setThread_same (b : Block) (t : Nat) (th : Thread) : (b.setThread t th).thread t = th :=
  mget_mset_same threadIdle b.threads t th

theorem Block.thread_setThread_ne (b : Block) {t u : Nat} (th : Thread) (h : u ≠ t) : (b.setThread t th).thread u = b.thread u :=
  mget_mset_ne threadIdle b.threads th h

/-- A step of one block leaves every other block as it was. -/
theorem State.onBlock_block_ne (s : State) {p q : Nat} (f : Block → Env → Block) (h : q ≠ p) :
    (s.onBlock p f).block q = s.block q := by
  show mget blockInit (mset blockInit (mset blockInit s.blocks p _) p _) q = mget blockInit s.blocks q
  rw [mget_mset_ne _ _ _ h, mget_mset_ne _ _ _ h]

/-- A step of one block leaves every other region as it was. -/
theorem State.onBlock_region_ne (s : State) {p r : Nat} (f : Block → Env → Block) (h : r ≠ regionOf p) :
    (s.onBlock p f).region r = s.region r := by
  show mget regionInit (mset regionInit (mset regionInit s.regions (regionOf p) _) (regionOf p) _) r = mget regionInit s.regions r
  rw [mget_mset_ne _ _ _ h, mget_mset_ne _ _ _ h]

/-- What a step of one block leaves in that block: what the step made of it, but for the records that have gone up the Halter. -/
theorem State.onBlock_block_same (s : State) (p : Nat) (f : Block → Env → Block) :
    ∃ ev co, (s.onBlock p f).block p = { f (s.block p) (s.env p) with ev := ev, coalesced := co } := by
  refine ⟨((s.onBlock p f).block p).ev, ((s.onBlock p f).block p).coalesced, ?_⟩
  have h : (((({ s with freeCtr := s.freeCtr + 1 } : State).setBlock p (f (s.block p) (s.env p)))).block p) = f (s.block p) (s.env p) :=
    mget_mset_same blockInit s.blocks p _
  have e : (s.onBlock p f).block p =
      { ((({ s with freeCtr := s.freeCtr + 1 } : State).setBlock p (f (s.block p) (s.env p))).block p) with
        ev := ((s.onBlock p f).block p).ev, coalesced := ((s.onBlock p f).block p).coalesced } := by
    have k : ∃ ev co, (s.onBlock p f).block p =
        { ((({ s with freeCtr := s.freeCtr + 1 } : State).setBlock p (f (s.block p) (s.env p))).block p) with
          ev := ev, coalesced := co } := ⟨_, _, mget_mset_same blockInit _ p _⟩
    obtain ⟨ev, co, k⟩ := k
    rw [k]
  rw [h] at e
  exact e

@[simp] theorem State.onBlock_block_regs (s : State) (p : Nat) (f : Block → Env → Block) :
    ((s.onBlock p f).block p).regs = (f (s.block p) (s.env p)).regs := by
  obtain ⟨_, _, h⟩ := s.onBlock_block_same p f
  rw [h]

@[simp] theorem State.onBlock_block_spad (s : State) (p : Nat) (f : Block → Env → Block) :
    ((s.onBlock p f).block p).spad = (f (s.block p) (s.env p)).spad := by
  obtain ⟨_, _, h⟩ := s.onBlock_block_same p f
  rw [h]

@[simp] theorem State.onBlock_block_lblock (s : State) (p : Nat) (f : Block → Env → Block) :
    ((s.onBlock p f).block p).lblock = (f (s.block p) (s.env p)).lblock := by
  obtain ⟨_, _, h⟩ := s.onBlock_block_same p f
  rw [h]

@[simp] theorem State.onBlock_block_stride (s : State) (p : Nat) (f : Block → Env → Block) :
    ((s.onBlock p f).block p).stride = (f (s.block p) (s.env p)).stride := by
  obtain ⟨_, _, h⟩ := s.onBlock_block_same p f
  rw [h]

@[simp] theorem State.onBlock_block_beatAt (s : State) (p : Nat) (f : Block → Env → Block) :
    ((s.onBlock p f).block p).beatAt = (f (s.block p) (s.env p)).beatAt := by
  obtain ⟨_, _, h⟩ := s.onBlock_block_same p f
  rw [h]

@[simp] theorem State.onBlock_block_working (s : State) (p : Nat) (f : Block → Env → Block) :
    ((s.onBlock p f).block p).working = (f (s.block p) (s.env p)).working := by
  obtain ⟨_, _, h⟩ := s.onBlock_block_same p f
  rw [h]

@[simp] theorem State.onBlock_block_waitQuiet (s : State) (p : Nat) (f : Block → Env → Block) :
    ((s.onBlock p f).block p).waitQuiet = (f (s.block p) (s.env p)).waitQuiet := by
  obtain ⟨_, _, h⟩ := s.onBlock_block_same p f
  rw [h]

@[simp] theorem State.onBlock_block_extended (s : State) (p : Nat) (f : Block → Env → Block) :
    ((s.onBlock p f).block p).extended = (f (s.block p) (s.env p)).extended := by
  obtain ⟨_, _, h⟩ := s.onBlock_block_same p f
  rw [h]

@[simp] theorem State.onBlock_block_fenced (s : State) (p : Nat) (f : Block → Env → Block) :
    ((s.onBlock p f).block p).fenced = (f (s.block p) (s.env p)).fenced := by
  obtain ⟨_, _, h⟩ := s.onBlock_block_same p f
  rw [h]

@[simp] theorem State.onBlock_block_fenceCode (s : State) (p : Nat) (f : Block → Env → Block) :
    ((s.onBlock p f).block p).fenceCode = (f (s.block p) (s.env p)).fenceCode := by
  obtain ⟨_, _, h⟩ := s.onBlock_block_same p f
  rw [h]

@[simp] theorem State.onBlock_block_progressAt (s : State) (p : Nat) (f : Block → Env → Block) :
    ((s.onBlock p f).block p).progressAt = (f (s.block p) (s.env p)).progressAt := by
  obtain ⟨_, _, h⟩ := s.onBlock_block_same p f
  rw [h]

@[simp] theorem State.onBlock_block_tally (s : State) (p : Nat) (f : Block → Env → Block) :
    ((s.onBlock p f).block p).tally = (f (s.block p) (s.env p)).tally := by
  obtain ⟨_, _, h⟩ := s.onBlock_block_same p f
  rw [h]

@[simp] theorem State.onBlock_block_freeTally (s : State) (p : Nat) (f : Block → Env → Block) :
    ((s.onBlock p f).block p).freeTally = (f (s.block p) (s.env p)).freeTally := by
  obtain ⟨_, _, h⟩ := s.onBlock_block_same p f
  rw [h]

@[simp] theorem State.onBlock_block_tallies (s : State) (p : Nat) (f : Block → Env → Block) :
    ((s.onBlock p f).block p).tallies = (f (s.block p) (s.env p)).tallies := by
  obtain ⟨_, _, h⟩ := s.onBlock_block_same p f
  rw [h]

@[simp] theorem State.onBlock_block_firstSlack (s : State) (p : Nat) (f : Block → Env → Block) :
    ((s.onBlock p f).block p).firstSlack = (f (s.block p) (s.env p)).firstSlack := by
  obtain ⟨_, _, h⟩ := s.onBlock_block_same p f
  rw [h]

@[simp] theorem State.onBlock_block_program (s : State) (p : Nat) (f : Block → Env → Block) :
    ((s.onBlock p f).block p).program = (f (s.block p) (s.env p)).program := by
  obtain ⟨_, _, h⟩ := s.onBlock_block_same p f
  rw [h]

@[simp] theorem State.onBlock_block_eng (s : State) (p : Nat) (f : Block → Env → Block) :
    ((s.onBlock p f).block p).eng = (f (s.block p) (s.env p)).eng := by
  obtain ⟨_, _, h⟩ := s.onBlock_block_same p f
  rw [h]

@[simp] theorem State.onBlock_block_code (s : State) (p : Nat) (f : Block → Env → Block) :
    ((s.onBlock p f).block p).code = (f (s.block p) (s.env p)).code := by
  obtain ⟨_, _, h⟩ := s.onBlock_block_same p f
  rw [h]

@[simp] theorem State.onBlock_block_tasks (s : State) (p : Nat) (f : Block → Env → Block) :
    ((s.onBlock p f).block p).tasks = (f (s.block p) (s.env p)).tasks := by
  obtain ⟨_, _, h⟩ := s.onBlock_block_same p f
  rw [h]

@[simp] theorem State.onBlock_block_threads (s : State) (p : Nat) (f : Block → Env → Block) :
    ((s.onBlock p f).block p).threads = (f (s.block p) (s.env p)).threads := by
  obtain ⟨_, _, h⟩ := s.onBlock_block_same p f
  rw [h]

@[simp] theorem State.onBlock_block_turns (s : State) (p : Nat) (f : Block → Env → Block) :
    ((s.onBlock p f).block p).turns = (f (s.block p) (s.env p)).turns := by
  obtain ⟨_, _, h⟩ := s.onBlock_block_same p f
  rw [h]

@[simp] theorem State.onBlock_block_gather (s : State) (p : Nat) (f : Block → Env → Block) :
    ((s.onBlock p f).block p).gather = (f (s.block p) (s.env p)).gather := by
  obtain ⟨_, _, h⟩ := s.onBlock_block_same p f
  rw [h]

@[simp] theorem State.onBlock_block_jobs (s : State) (p : Nat) (f : Block → Env → Block) :
    ((s.onBlock p f).block p).jobs = (f (s.block p) (s.env p)).jobs := by
  obtain ⟨_, _, h⟩ := s.onBlock_block_same p f
  rw [h]

@[simp] theorem State.onBlock_block_posted (s : State) (p : Nat) (f : Block → Env → Block) :
    ((s.onBlock p f).block p).posted = (f (s.block p) (s.env p)).posted := by
  obtain ⟨_, _, h⟩ := s.onBlock_block_same p f
  rw [h]

@[simp] theorem State.onBlock_block_reqs (s : State) (p : Nat) (f : Block → Env → Block) :
    ((s.onBlock p f).block p).reqs = (f (s.block p) (s.env p)).reqs := by
  obtain ⟨_, _, h⟩ := s.onBlock_block_same p f
  rw [h]

@[simp] theorem State.onBlock_block_nextReq (s : State) (p : Nat) (f : Block → Env → Block) :
    ((s.onBlock p f).block p).nextReq = (f (s.block p) (s.env p)).nextReq := by
  obtain ⟨_, _, h⟩ := s.onBlock_block_same p f
  rw [h]

@[simp] theorem State.onBlock_block_nodes (s : State) (p : Nat) (f : Block → Env → Block) :
    ((s.onBlock p f).block p).nodes = (f (s.block p) (s.env p)).nodes := by
  obtain ⟨_, _, h⟩ := s.onBlock_block_same p f
  rw [h]

@[simp] theorem State.onBlock_block_fireList (s : State) (p : Nat) (f : Block → Env → Block) :
    ((s.onBlock p f).block p).fireList = (f (s.block p) (s.env p)).fireList := by
  obtain ⟨_, _, h⟩ := s.onBlock_block_same p f
  rw [h]

@[simp] theorem State.onBlock_block_flPos (s : State) (p : Nat) (f : Block → Env → Block) :
    ((s.onBlock p f).block p).flPos = (f (s.block p) (s.env p)).flPos := by
  obtain ⟨_, _, h⟩ := s.onBlock_block_same p f
  rw [h]

@[simp] theorem State.onBlock_block_flDone (s : State) (p : Nat) (f : Block → Env → Block) :
    ((s.onBlock p f).block p).flDone = (f (s.block p) (s.env p)).flDone := by
  obtain ⟨_, _, h⟩ := s.onBlock_block_same p f
  rw [h]

@[simp] theorem State.onBlock_block_arcs (s : State) (p : Nat) (f : Block → Env → Block) :
    ((s.onBlock p f).block p).arcs = (f (s.block p) (s.env p)).arcs := by
  obtain ⟨_, _, h⟩ := s.onBlock_block_same p f
  rw [h]

@[simp] theorem State.onBlock_block_templates (s : State) (p : Nat) (f : Block → Env → Block) :
    ((s.onBlock p f).block p).templates = (f (s.block p) (s.env p)).templates := by
  obtain ⟨_, _, h⟩ := s.onBlock_block_same p f
  rw [h]

@[simp] theorem State.onBlock_block_queue (s : State) (p : Nat) (f : Block → Env → Block) :
    ((s.onBlock p f).block p).queue = (f (s.block p) (s.env p)).queue := by
  obtain ⟨_, _, h⟩ := s.onBlock_block_same p f
  rw [h]

@[simp] theorem State.onBlock_block_ctxs (s : State) (p : Nat) (f : Block → Env → Block) :
    ((s.onBlock p f).block p).ctxs = (f (s.block p) (s.env p)).ctxs := by
  obtain ⟨_, _, h⟩ := s.onBlock_block_same p f
  rw [h]

@[simp] theorem State.onBlock_block_cqs (s : State) (p : Nat) (f : Block → Env → Block) :
    ((s.onBlock p f).block p).cqs = (f (s.block p) (s.env p)).cqs := by
  obtain ⟨_, _, h⟩ := s.onBlock_block_same p f
  rw [h]

@[simp] theorem State.onBlock_block_spent (s : State) (p : Nat) (f : Block → Env → Block) :
    ((s.onBlock p f).block p).spent = (f (s.block p) (s.env p)).spent := by
  obtain ⟨_, _, h⟩ := s.onBlock_block_same p f
  rw [h]

@[simp] theorem State.onBlock_block_returned (s : State) (p : Nat) (f : Block → Env → Block) :
    ((s.onBlock p f).block p).returned = (f (s.block p) (s.env p)).returned := by
  obtain ⟨_, _, h⟩ := s.onBlock_block_same p f
  rw [h]

@[simp] theorem State.onBlock_block_bases (s : State) (p : Nat) (f : Block → Env → Block) :
    ((s.onBlock p f).block p).bases = (f (s.block p) (s.env p)).bases := by
  obtain ⟨_, _, h⟩ := s.onBlock_block_same p f
  rw [h]

@[simp] theorem State.onBlock_block_totals (s : State) (p : Nat) (f : Block → Env → Block) :
    ((s.onBlock p f).block p).totals = (f (s.block p) (s.env p)).totals := by
  obtain ⟨_, _, h⟩ := s.onBlock_block_same p f
  rw [h]

@[simp] theorem State.onBlock_block_waits (s : State) (p : Nat) (f : Block → Env → Block) :
    ((s.onBlock p f).block p).waits = (f (s.block p) (s.env p)).waits := by
  obtain ⟨_, _, h⟩ := s.onBlock_block_same p f
  rw [h]

@[simp] theorem State.onBlock_block_closeAt (s : State) (p : Nat) (f : Block → Env → Block) :
    ((s.onBlock p f).block p).closeAt = (f (s.block p) (s.env p)).closeAt := by
  obtain ⟨_, _, h⟩ := s.onBlock_block_same p f
  rw [h]

@[simp] theorem State.onBlock_block_reinJob (s : State) (p : Nat) (f : Block → Env → Block) :
    ((s.onBlock p f).block p).reinJob = (f (s.block p) (s.env p)).reinJob := by
  obtain ⟨_, _, h⟩ := s.onBlock_block_same p f
  rw [h]

@[simp] theorem State.onBlock_block_jobFault (s : State) (p : Nat) (f : Block → Env → Block) :
    ((s.onBlock p f).block p).jobFault = (f (s.block p) (s.env p)).jobFault := by
  obtain ⟨_, _, h⟩ := s.onBlock_block_same p f
  rw [h]

@[simp] theorem State.onBlock_block_portSchedule (s : State) (p : Nat) (f : Block → Env → Block) :
    ((s.onBlock p f).block p).portSchedule = (f (s.block p) (s.env p)).portSchedule := by
  obtain ⟨_, _, h⟩ := s.onBlock_block_same p f
  rw [h]

@[simp] theorem State.onBlock_block_mesh (s : State) (p : Nat) (f : Block → Env → Block) :
    ((s.onBlock p f).block p).mesh = (f (s.block p) (s.env p)).mesh := by
  obtain ⟨_, _, h⟩ := s.onBlock_block_same p f
  rw [h]

@[simp] theorem State.onBlock_block_router (s : State) (p : Nat) (f : Block → Env → Block) :
    ((s.onBlock p f).block p).router = (f (s.block p) (s.env p)).router := by
  obtain ⟨_, _, h⟩ := s.onBlock_block_same p f
  rw [h]

@[simp] theorem State.onBlock_block_passTimes (s : State) (p : Nat) (f : Block → Env → Block) :
    ((s.onBlock p f).block p).passTimes = (f (s.block p) (s.env p)).passTimes := by
  obtain ⟨_, _, h⟩ := s.onBlock_block_same p f
  rw [h]

@[simp] theorem State.onBlock_block_slice (s : State) (p : Nat) (f : Block → Env → Block) :
    ((s.onBlock p f).block p).slice = (f (s.block p) (s.env p)).slice := by
  obtain ⟨_, _, h⟩ := s.onBlock_block_same p f
  rw [h]

@[simp] theorem State.onBlock_block_diag (s : State) (p : Nat) (f : Block → Env → Block) :
    ((s.onBlock p f).block p).diag = (f (s.block p) (s.env p)).diag := by
  obtain ⟨_, _, h⟩ := s.onBlock_block_same p f
  rw [h]

@[simp] theorem State.onBlock_block_trace (s : State) (p : Nat) (f : Block → Env → Block) :
    ((s.onBlock p f).block p).trace = (f (s.block p) (s.env p)).trace := by
  obtain ⟨_, _, h⟩ := s.onBlock_block_same p f
  rw [h]

@[simp] theorem State.onBlock_block_resets (s : State) (p : Nat) (f : Block → Env → Block) :
    ((s.onBlock p f).block p).resets = (f (s.block p) (s.env p)).resets := by
  obtain ⟨_, _, h⟩ := s.onBlock_block_same p f
  rw [h]

@[simp] theorem State.onBlock_block_scan (s : State) (p : Nat) (f : Block → Env → Block) :
    ((s.onBlock p f).block p).scan = (f (s.block p) (s.env p)).scan := by
  obtain ⟨_, _, h⟩ := s.onBlock_block_same p f
  rw [h]

@[simp] theorem State.onBlock_block_saddle (s : State) (p : Nat) (f : Block → Env → Block) :
    ((s.onBlock p f).block p).saddle = (f (s.block p) (s.env p)).saddle := by
  obtain ⟨_, _, h⟩ := s.onBlock_block_same p f
  rw [h]

@[simp] theorem State.onBlock_block_owes (s : State) (p : Nat) (f : Block → Env → Block) :
    ((s.onBlock p f).block p).owes = (f (s.block p) (s.env p)).owes := by
  obtain ⟨_, _, h⟩ := s.onBlock_block_same p f
  rw [h]

@[simp] theorem State.onBlock_block_replayIdle (s : State) (p : Nat) (f : Block → Env → Block) :
    ((s.onBlock p f).block p).replayIdle = (f (s.block p) (s.env p)).replayIdle := by
  obtain ⟨_, _, h⟩ := s.onBlock_block_same p f
  rw [h]

@[simp] theorem State.onBlock_block_recordBad (s : State) (p : Nat) (f : Block → Env → Block) :
    ((s.onBlock p f).block p).recordBad = (f (s.block p) (s.env p)).recordBad := by
  obtain ⟨_, _, h⟩ := s.onBlock_block_same p f
  rw [h]

@[simp] theorem State.onBlock_block_sliceSpoilt (s : State) (p : Nat) (f : Block → Env → Block) :
    ((s.onBlock p f).block p).sliceSpoilt = (f (s.block p) (s.env p)).sliceSpoilt := by
  obtain ⟨_, _, h⟩ := s.onBlock_block_same p f
  rw [h]

/-- A field of the block after a step. -/
@[simp] theorem State.onBlock_block_get (s : State) (p : Nat) (f : Block → Env → Block) (g : Fld) :
    ((s.onBlock p f).block p).get g = (f (s.block p) (s.env p)).get g := by
  simp only [Block.get, State.onBlock_block_regs]

/-- A thread of the block after a step. -/
@[simp] theorem State.onBlock_block_thread (s : State) (p : Nat) (f : Block → Env → Block) (t : Nat) :
    ((s.onBlock p f).block p).thread t = (f (s.block p) (s.env p)).thread t := by
  simp only [Block.thread, State.onBlock_block_threads]

/-- A step of one block leaves the registers of every region as they were. -/
@[simp] theorem State.onBlock_rget (s : State) (p : Nat) (f : Block → Env → Block) (r : Nat) (g : Fld) :
    (s.onBlock p f).rget r g = s.rget r g := by
  by_cases h : r = regionOf p
  · subst h
    show Regs.get rgnReset (mget regionInit (mset regionInit (mset regionInit s.regions (regionOf p) _) (regionOf p) _) (regionOf p)).regs g = _
    rw [mget_mset_same]
    show Regs.get rgnReset (mget regionInit (mset regionInit s.regions (regionOf p) _) (regionOf p)).regs g = _
    rw [mget_mset_same]
    rfl
  · rw [State.rget, State.onBlock_region_ne s f h]
    rfl

end Sys2Proof.Machine
end

