-- ==== Sys2Proof/Laws/Frame.lean ====
section
/-! SUPPORT. What a step of one block leaves alone. -/

namespace Sys2Proof.Machine

/-- The block's own region keeps all but its records. -/
theorem State.onBlock_region_same (s : State) (p : Nat) (f : Block → Env → Block) :
    ∃ ev, (s.onBlock p f).region (regionOf p) = { s.region (regionOf p) with ev := ev } := by
  have h : ∃ e1 e2, (s.onBlock p f).region (regionOf p) =
      { mget regionInit (mset regionInit s.regions (regionOf p) { s.region (regionOf p) with ev := e1 }) (regionOf p)
        with ev := e2 } := ⟨_, _, mget_mset_same regionInit _ _ _⟩
  obtain ⟨e1, e2, h⟩ := h
  exact ⟨e2, by rw [h, mget_mset_same]⟩

/-- A step of one block changes that block only, but for the records that go up the Halter. -/
theorem State.onBlock_only (s : State) (p : Nat) (f : Block → Env → Block) : s.OnlyBlock p (s.onBlock p f) where
  others _ h := s.onBlock_block_ne f h
  regions _ h := s.onBlock_region_ne f h
  home := s.onBlock_region_same p f
  words _ h := s.word_onBlock p f h
  rest := ⟨_, _, _, _, _, _, rfl⟩

/-- What a step of one block makes of the module, from what it makes of the block. -/
theorem State.onBlock_becomes (s : State) (p : Nat) {f : Block → Env → Block} {regs : List Nat} {b : Block}
    (h : ∃ m ev co, f (s.block p) (s.env p) = { b with regs := m, ev := ev, coalesced := co })
    (k : ∀ a, a ∉ regs → (f (s.block p) (s.env p)).word a = (s.block p).word a) :
    s.BlockBecomes p regs b (s.onBlock p f) := by
  obtain ⟨ev, co, e⟩ := s.onBlock_block_same p f
  refine ⟨s.onBlock_only p f, ?_, fun a ha => ?_⟩
  · obtain ⟨m, ev', co', h⟩ := h
    exact ⟨m, ev, co, by rw [e, h]⟩
  · rw [← k a ha, e]
    rfl

end Sys2Proof.Machine
end

