-- ==== Sys2Proof/Laws/Lines.lean ====
section
/-! SUPPORT. The lines that a block's units read and write: what a read gives with the gatherer empty, and what stands in the
scratchpad after a write. -/

namespace Sys2Proof.Machine

/-- With the gatherer empty nothing is written back. -/
theorem Block.flushLine_of_empty {b : Block} (h : b.gather = []) (a : Nat) : b.flushLine a = b := by
  rw [Block.flushLine, h]
  rfl

/-- With the gatherer empty nothing is written back. -/
theorem Block.flushLines_of_empty {b : Block} (h : b.gather = []) (as : List Nat) : b.flushLines as = b := by
  induction as with
  | nil => rfl
  | cons a as ih => rw [Block.flushLines, Block.flushLine_of_empty h, ih]

/-- With the gatherer empty a read changes nothing and gives the bytes of the lines. -/
theorem Block.readLines_of_empty {b : Block} (h : b.gather = []) (as : List Nat) :
    b.readLines as = (b, as.flatMap fun a => b.spad.bytes a 64) := by
  rw [Block.readLines]
  simp only [Block.flushLines_of_empty h]

/-- With the gatherer empty a write changes the scratchpad only. -/
theorem Block.writeLines_of_empty {b : Block} (h : b.gather = []) (ws : List (Nat × List Byte)) :
    b.writeLines ws = { b with spad := b.spad.putLines ws } := by
  induction ws generalizing b with
  | nil => rfl
  | cons w ws ih =>
    obtain ⟨a, bs⟩ := w
    rw [Block.writeLines, Block.flushLine_of_empty h, ih (b := { b with spad := b.spad.puts a (sliceZ bs 0 64) }) h]
    rfl

/-- A slice has the length asked for. -/
@[simp] theorem sliceZ_length (bs : List Byte) (a n : Nat) : (sliceZ bs a n).length = n := by
  simp only [sliceZ, List.length_append, List.length_take, List.length_drop, List.length_replicate]
  omega

/-- The whole of a byte string is its slice. -/
theorem sliceZ_self {bs : List Byte} {n : Nat} (h : bs.length = n) : sliceZ bs 0 n = bs := by
  subst h
  simp [sliceZ]

/-- Bytes written read back. -/
theorem Memory.bytes_puts_same (m : Memory) (a : Nat) (bs : List Byte) : (m.puts a bs).bytes a bs.length = bs := by
  apply List.ext_getElem
  · rw [Memory.bytes_length]
  · intro i h1 h2
    have : ∀ (n : Nat) (m : Memory) (a i : Nat) (h : i < (m.bytes a n).length), (m.bytes a n)[i] = m.byte (a + i) := by
      intro n
      induction n with
      | zero => intro m a i h; simp [Memory.bytes] at h
      | succ n ih =>
        intro m a i h
        cases i with
        | zero => simp [Memory.bytes]
        | succ i =>
          simp only [Memory.bytes, List.getElem_cons_succ]
          rw [ih]
          congr 1
          omega
    rw [this, Memory.byte_puts_in bs m a i h2]

/-- Bytes apart from those written read as before. -/
theorem Memory.bytes_puts_apart (m : Memory) {a x : Nat} (bs : List Byte) (n : Nat) (h : x + n ≤ a ∨ a + bs.length ≤ x) :
    (m.puts a bs).bytes x n = m.bytes x n := by
  induction n generalizing x with
  | zero => rfl
  | succ n ih =>
    rw [Memory.bytes, Memory.bytes, ih (by omega), Memory.byte_puts_out bs m a x (by omega)]

/-- A byte outside the written lines reads as before. -/
theorem Memory.byte_putLines_out (ws : List (Nat × List Byte)) : ∀ (m : Memory) (x : Nat),
    (∀ w ∈ ws, x < w.1 ∨ w.1 + 64 ≤ x) → (m.putLines ws).byte x = m.byte x := by
  induction ws with
  | nil => intro m x _; rfl
  | cons w ws ih =>
    intro m x h
    obtain ⟨a, bs⟩ := w
    rw [Memory.putLines, ih _ _ fun w hw => h w (List.mem_cons_of_mem _ hw),
      Memory.byte_puts_out _ _ _ _ (by simpa using h (a, bs) List.mem_cons_self)]

/-- A line apart from the written ones reads as before. -/
theorem Memory.bytes_putLines_out (ws : List (Nat × List Byte)) (m : Memory) (x : Nat)
    (h : ∀ w ∈ ws, x + 64 ≤ w.1 ∨ w.1 + 64 ≤ x) : (m.putLines ws).bytes x 64 = m.bytes x 64 := by
  induction ws generalizing m with
  | nil => rfl
  | cons w ws ih =>
    obtain ⟨a, bs⟩ := w
    rw [Memory.putLines, ih _ fun w hw => h w (List.mem_cons_of_mem _ hw),
      Memory.bytes_puts_apart _ _ _ (by simpa using h (a, bs) List.mem_cons_self)]

/-- A written line reads back, where no two written lines share a byte. -/
theorem Memory.bytes_putLines_in (ws : List (Nat × List Byte)) : ∀ (m : Memory) (i : Nat) (h : i < ws.length),
    ws.Pairwise (fun u v => u.1 + 64 ≤ v.1 ∨ v.1 + 64 ≤ u.1) →
      (m.putLines ws).bytes ws[i].1 64 = sliceZ ws[i].2 0 64 := by
  induction ws with
  | nil => intro m i h; simp at h
  | cons w ws ih =>
    intro m i h hp
    obtain ⟨a, bs⟩ := w
    rw [List.pairwise_cons] at hp
    cases i with
    | zero =>
      show (Memory.putLines (m.puts a (sliceZ bs 0 64)) ws).bytes a 64 = sliceZ bs 0 64
      rw [Memory.bytes_putLines_out _ _ _ fun w hw => hp.1 w hw]
      have := Memory.bytes_puts_same m a (sliceZ bs 0 64)
      rwa [sliceZ_length] at this
    | succ i => exact ih _ i (by simpa using h) hp.2

/-- Two different lines share no byte. -/
theorem spadAddr_apart {b c l m : Nat} (h : b % 8 ≠ c % 8 ∨ l % 1024 ≠ m % 1024) :
    spadAddr b l + 64 ≤ spadAddr c m ∨ spadAddr c m + 64 ≤ spadAddr b l := by
  simp only [spadAddr]
  omega

/-- The banks of a mask are below 8. -/
theorem maskBanks_lt {mask b : Nat} (h : b ∈ maskBanks mask) : b < 8 := by
  rw [maskBanks, List.mem_filter, List.mem_range] at h
  exact h.1

/-- No bank is named twice. -/
theorem maskBanks_nodup (mask : Nat) : (maskBanks mask).Nodup := List.Pairwise.filter _ List.nodup_range

/-- Two different lines of an operation that stays within its banks share no byte (R73). -/
theorem maskLine_apart {mask line n i j : Nat} (hb : maskBanks mask ≠ [])
    (h : line + ceilDiv n (maskBanks mask).length ≤ 1024) (hi : i < n) (hj : j < n) (hij : i ≠ j) :
    maskLine mask line i + 64 ≤ maskLine mask line j ∨ maskLine mask line j + 64 ≤ maskLine mask line i := by
  have hn : 0 < (maskBanks mask).length := List.length_pos_iff.2 hb
  have hd : ∀ k, k < n → line + k / (maskBanks mask).length < 1024 := by
    intro k hk
    have : k / (maskBanks mask).length < ceilDiv n (maskBanks mask).length := by
      rw [ceilDiv, Nat.div_lt_iff_lt_mul hn]
      have := Nat.div_add_mod (n + (maskBanks mask).length - 1) (maskBanks mask).length
      have hm := Nat.mod_lt (n + (maskBanks mask).length - 1) hn
      rw [Nat.mul_comm] at this
      omega
    omega
  refine spadAddr_apart ?_
  by_cases e : i % (maskBanks mask).length = j % (maskBanks mask).length
  · right
    have h1 := hd i hi
    have h2 := hd j hj
    intro k
    rw [Nat.mod_eq_of_lt h1, Nat.mod_eq_of_lt h2] at k
    apply hij
    rw [← Nat.div_add_mod i (maskBanks mask).length, ← Nat.div_add_mod j (maskBanks mask).length, e]
    congr 2
    omega
  · left
    have h1 := Nat.mod_lt i hn
    have h2 := Nat.mod_lt j hn
    simp only [List.getD_eq_getElem?_getD, List.getElem?_eq_getElem h1, List.getElem?_eq_getElem h2, Option.getD_some]
    rw [Nat.mod_eq_of_lt (maskBanks_lt (List.getElem_mem h1)), Nat.mod_eq_of_lt (maskBanks_lt (List.getElem_mem h2))]
    have hp := List.pairwise_iff_getElem.1 (maskBanks_nodup mask)
    rcases Nat.lt_or_gt_of_ne e with k | k
    · exact hp _ _ h1 h2 k
    · exact (hp _ _ h2 h1 k).symm

/-- The lines that bytes are cut into. -/
theorem lineWrites_length (as : List Nat) (bs : List Byte) : (lineWrites as bs).length = as.length := by
  simp [lineWrites]

/-- One of the lines that bytes are cut into. -/
theorem lineWrites_getElem (as : List Nat) (bs : List Byte) (j : Nat) (h : j < (lineWrites as bs).length) :
    (lineWrites as bs)[j] = (as[j]'(by rwa [lineWrites_length] at h), sliceZ bs (64 * j) 64) := by
  simp [lineWrites]

/-- What a run of whole lines leaves in a memory, line `j` of `n` going to `addr j`: each line reads back, and every other byte is as
it was. -/
theorem Memory.putLines_run (m : Memory) {n : Nat} {addr : Nat → Nat} (bs : List Byte)
    (h : ∀ i j, i < n → j < n → i ≠ j → addr i + 64 ≤ addr j ∨ addr j + 64 ≤ addr i) :
    (∀ j < n, (m.putLines (lineWrites ((List.range n).map addr) bs)).bytes (addr j) 64 = sliceZ bs (64 * j) 64) ∧
    (∀ x, (∀ j < n, x < addr j ∨ addr j + 64 ≤ x) →
      (m.putLines (lineWrites ((List.range n).map addr) bs)).byte x = m.byte x) := by
  have hl : (lineWrites ((List.range n).map addr) bs).length = n := by simp [lineWrites_length]
  constructor
  · intro j hj
    have hw := lineWrites_getElem ((List.range n).map addr) bs j (by rwa [hl])
    have := Memory.bytes_putLines_in (lineWrites ((List.range n).map addr) bs) m j (by rwa [hl]) (by
      rw [List.pairwise_iff_getElem]
      intro a b ha hb hab
      rw [hl] at ha hb
      rw [lineWrites_getElem, lineWrites_getElem]
      simpa using h a b ha hb (by omega))
    rw [hw] at this
    simp only [List.getElem_map, List.getElem_range] at this
    rw [this, sliceZ_self (sliceZ_length _ _ _)]
  · intro x hx
    apply Memory.byte_putLines_out
    intro w hw
    obtain ⟨j, hj, e⟩ := List.getElem_of_mem hw
    rw [hl] at hj
    rw [← e, lineWrites_getElem]
    simpa using hx j hj

end Sys2Proof.Machine
end

