-- ==== Sys2Proof/Laws/Engine.lean ====
section
/-! SUPPORT. What an operation of the stride program does when it starts, from what its own meaning does. -/

namespace Sys2Proof.Machine

/-- The word that a starting operation is read from. -/
theorem Block.Starts.nextWord {b : Block} {op : SOp} (h : b.Starts op) : ∃ w, b.nextWord = some w ∧ SOp.decode w = some op := by
  obtain ⟨h1, h2, h3, w, h4, h5⟩ := h
  exact ⟨w, by rw [Block.nextWord, if_pos (by simp [h1, h2, h3]), h4], h5⟩

/-- An operation that starts with nothing wrong in the hardware advances the sequencer. -/
theorem Block.engine_ran {b b' : Block} {env : Env} {op : SOp} {isOp : SOp → Bool} {run : Block → SOp → Nat → EngOut} {h : Holds}
    {c : Nat} (hs : b.Starts op) (ho : isOp op = true) (hr : run b op 1000000 = .ran b' h c) :
    b.engine env .none isOp run = b'.advance env (b.engState b') h c := by
  obtain ⟨w, h1, h2⟩ := hs.nextWord
  simp only [Block.engine, h1, h2, ho, Bool.not_true, Bool.false_eq_true, ↓reduceIte, hr]

/-- The registers of a block apart from BLK_DRG_STATUS do not change when the sequencer advances. -/
theorem Block.advance_word (b : Block) (env : Env) (st : Nat) (h : Holds) (c : Nat) {a : Nat} (ha : a ≠ BLK_DRG_STATUS.off) :
    (b.advance env st h c).word a = b.word a := by
  show mget blkReset (Regs.set blkReset (Regs.set blkReset b.regs BLK_DRG_STATUS.pc _) BLK_DRG_STATUS.state _) a = _
  rw [Regs.word_set_ne _ _ _ _ (by exact ha), Regs.word_set_ne _ _ _ _ (by exact ha)]
  rfl

/-- What the advance of the sequencer changes besides BLK_DRG_STATUS. -/
theorem Block.advance_eq (b : Block) (env : Env) (st : Nat) (h : Holds) (c : Nat) :
    ∃ m, b.advance env st h c =
      { b with regs := m, eng := { b.eng with next := b.eng.next + 1, sched := b.eng.sched.run h c }, progressAt := env.now } :=
  ⟨_, rfl⟩

/-- What the module becomes when block `p` runs an operation whose own meaning is `run` with nothing wrong in the hardware. -/
theorem State.engine_becomes {s : State} {p : Nat} {regs : List Nat} {op : SOp} {isOp : SOp → Bool} {h : Holds} {c : Nat}
    {run : Env → Block → SOp → Nat → EngOut} {b : Block} (hs : (s.block p).Starts op) (ho : isOp op = true)
    (hr : run (s.env p) (s.block p) op 1000000 = .ran b h c) (hw : ∀ a, a ≠ BLK_DRG_STATUS.off → a ∉ regs → b.word a = (s.block p).word a) :
    s.BlockBecomes p (BLK_DRG_STATUS.off :: regs)
      { b with eng := { b.eng with next := b.eng.next + 1, sched := b.eng.sched.run h c }, progressAt := s.now }
      (s.onBlock p fun b env => b.engine env .none isOp (run env)) := by
  apply State.onBlock_becomes
  · rw [Block.engine_ran hs ho hr]
    obtain ⟨m, h⟩ := b.advance_eq (s.env p) _ h c
    exact ⟨m, b.ev, b.coalesced, h⟩
  · intro a ha
    rw [List.mem_cons, not_or] at ha
    rw [Block.engine_ran hs ho hr, Block.advance_word _ _ _ _ _ ha.1, hw a ha.1 ha.2]

/-- The slots after some rows are emptied. -/
theorem Engine.slot_emptySlots (e : Engine) (s rows i : Nat) {n : Nat} (hn : n < 64) :
    (e.emptySlots s rows).slot i n = if s ≤ i ∧ i < s + rows then Ap.zero else e.slot i n := by
  split
  · exact mget_mclear_in _ (by omega) (by omega) _
  · exact mget_mclear_out _ (by omega) _

/-- The anchors after one write to each column. -/
theorem foldl_mset_anchor (f : Nat → BitVec 16) (k : Nat) : ∀ (m : Cells (BitVec 16)) (n : Nat), n < k →
    mget anchorZero ((List.range k).foldl (fun m n => mset anchorZero m n (f n)) m) n = f n := by
  induction k with
  | zero => intro m n h; omega
  | succ k ih =>
    intro m n h
    rw [List.range_succ, List.foldl_append]
    show mget anchorZero (mset anchorZero _ k (f k)) n = f n
    rw [mget_mset]
    split
    · next e => rw [e]
    · exact ih m n (by omega)

/-- A record leaves every register but the block counters as it was. -/
theorem Block.note_get (b : Block) (env : Env) (e : Ev) (f : Fld) (h : f.off < 0x3D00) (hl : f.lo ≤ f.hi) : (b.note env e).get f = b.get f := by
  have hc : ∀ (b : Block) i n, i < 64 → (b.cnt i n).get f = b.get f := by
    intro b i n hi
    rw [Block.cnt, Block.count, Block.get_set_apart]
    · show (0:Nat) ≤ 63; omega
    · exact hl
    · left; show 0x3D00 + _ ≠ _; omega
  rw [Block.note]
  extract_lets
  split
  · rw [hc _ _ _ (by omega)]; rfl
  · rw [hc _ _ _ (by omega)]; rfl

/-- A record leaves the engine, the scratchpad and the fence as they were. -/
theorem Block.note_fields (b : Block) (env : Env) (e : Ev) : (b.note env e).eng = b.eng ∧ (b.note env e).spad = b.spad ∧ (b.note env e).fenced = b.fenced ∧ (b.note env e).fenceCode = b.fenceCode := by
  rw [Block.note]
  extract_lets
  split
  · exact ⟨rfl, rfl, rfl, rfl⟩
  · exact ⟨rfl, rfl, rfl, rfl⟩

/-- What a fence leaves of a block that was not fenced: it is fenced with the code, and its queue of packets is gone (R88). -/
theorem Block.fence_spec (b : Block) (code : Nat) (hf : b.fenced = false) :
    (b.fence code).fenced = true ∧ (b.fence code).fenceCode = code ∧ (b.fence code).working = false ∧
      (b.fence code).mesh.sendq = [] ∧ (b.fence code).eng = b.eng ∧ (b.fence code).spad = b.spad := by
  rw [Block.fence, hf]
  exact ⟨rfl, rfl, rfl, rfl, by simp only [Bool.false_eq_true, ↓reduceIte]; split <;> split <;> rfl,
    by simp only [Bool.false_eq_true, ↓reduceIte]; split <;> split <;> rfl⟩

/-- A fence leaves the fields of every register word but the engine's status and the router's control alone. -/
theorem Block.fence_get (b : Block) (code : Nat) {g : Fld} (h1 : g.off ≠ BLK_DRG_STATUS.off) (h2 : g.off ≠ MSH_CTL.off)
    (hl : g.lo ≤ g.hi) : (b.fence code).get g = b.get g := by
  have h3 : BLK_DRG_STATUS.state.apart g := Or.inl (Ne.symm h1)
  have h4 : MSH_CTL.mode.apart g := Or.inl (Ne.symm h2)
  rw [Block.fence]
  split
  · rfl
  · show Block.get _ g = _
    extract_lets x y
    show y.get g = _
    have hx : x.get g = b.get g := by
      simp only [x]
      split
      · exact Block.get_set_apart b (by decide) hl h3 _
      · rfl
    simp only [y]
    split
    · rw [Block.get_set_apart x (by decide) hl h4, hx]
    · exact hx

/-- A fence leaves the engine's status field at 5 where the stop has set it. -/
theorem Block.fence_state (b : Block) (code : Nat) (h : b.get BLK_DRG_STATUS.state = 5) :
    (b.fence code).get BLK_DRG_STATUS.state = 5 := by
  rw [Block.fence]
  split
  · exact h
  · show Block.get _ _ = _
    extract_lets x y
    show y.get _ = _
    have hx : x.get BLK_DRG_STATUS.state = 5 := by
      simp only [x]
      split
      · rw [Block.get_set_same b (by decide)]; rfl
      · exact h
    simp only [y]
    split
    · rw [Block.get_set_apart x (by decide) (by decide) (by decide), hx]
    · exact hx

/-- What a stop of the sequencer leaves (R87 to R89). -/
theorem Block.engineStop_spec (b : Block) (env : Env) (code col att : Nat) (hf : b.fenced = false) (hc : code < 256) :
   let x := b.engineStop env code col att
   x.fenced = true ∧ x.fenceCode = code ∧ x.get BLK_DRG_STATUS.state = 5 ∧ x.get BLK_DRG_FAULT.code = code ∧ x.get BLK_DRG_FAULT.lasting = 1 ∧
   x.get BLK_DRG_FAULT.word = b.eng.next % 4096 ∧ x.eng = b.eng ∧ x.spad = b.spad := by
  intro x
  have hx : ∃ b1 e, x = (b1.note env e).fence code ∧ b1 = ((b.drgFault code col att true).set BLK_DRG_STATUS.pc b.eng.next).set BLK_DRG_STATUS.state 5 := ⟨_, _, rfl, rfl⟩
  obtain ⟨b1, e, hx, h1⟩ := hx
  have hf1 : b1.fenced = false := by rw [h1]; exact hf
  obtain ⟨f1, f2, -, -, f3, f4⟩ := (b1.note env e).fence_spec code (by rw [(Block.note_fields b1 env e).2.2.1, hf1])
  have hn : ∀ f : Fld, f.off < 0x3D00 → f.lo ≤ f.hi → (b1.note env e).get f = b1.get f := Block.note_get b1 env e
  have hg : ∀ f : Fld, f.off < 0x3D00 → f.lo ≤ f.hi → f.off ≠ BLK_DRG_STATUS.off → f.off ≠ MSH_CTL.off → x.get f = b1.get f := by
    intro f h k h1 h2; rw [hx, Block.fence_get _ _ h1 h2 k, hn f h k]
  refine ⟨by rw [hx, f1], by rw [hx, f2], ?_, ?_, ?_, ?_, ?_, ?_⟩
  · rw [hx]
    apply Block.fence_state
    rw [hn _ (by decide) (by decide), h1, Block.get_set_same _ (by decide)]; rfl
  · rw [hg _ (by decide) (by decide) (by decide) (by decide), h1, Block.drgFault]
    simp (disch := decide) only [Block.get_set_same, Block.get_set_apart]
    exact Nat.mod_eq_of_lt hc
  · rw [hg _ (by decide) (by decide) (by decide) (by decide), h1, Block.drgFault]
    simp (disch := decide) only [Block.get_set_same, Block.get_set_apart]
    rfl
  · rw [hg _ (by decide) (by decide) (by decide) (by decide), h1, Block.drgFault]
    simp (disch := decide) only [Block.get_set_same, Block.get_set_apart]
    rfl
  · rw [hx, f3, (Block.note_fields b1 env e).1, h1]; rfl
  · rw [hx, f4, (Block.note_fields b1 env e).2.1, h1]; rfl

end Sys2Proof.Machine
end

