-- ==== Sys2Proof/Laws/Groom.lean ====
section
/-! SUPPORT. What the retirement of a groom instruction and a program fault do to the block. -/

namespace Sys2Proof.Machine

/-- Replacing a thread changes the thread and its state register only. -/
theorem Block.setThread_eq (b : Block) (t : Nat) (th : Thread) :
    ∃ m, b.setThread t th = { b with threads := mset threadIdle b.threads t th, regs := m } := ⟨_, rfl⟩

/-- The registers apart from the thread's state register. -/
theorem Block.setThread_word (b : Block) (t : Nat) (th : Thread) {a : Nat} (h : a ≠ BLK_GRM_STATE.off t) :
    (b.setThread t th).word a = b.word a := by
  show mget blkReset (Regs.set blkReset (Regs.set blkReset (Regs.set blkReset b.regs _ _) _ _) _ _) a = _
  rw [Regs.word_set_ne _ _ _ _ (by exact h), Regs.word_set_ne _ _ _ _ (by exact h), Regs.word_set_ne _ _ _ _ (by exact h)]
  rfl

/-- A register other than the set field's reads as before. -/
theorem Block.word_set_ne (b : Block) (f : Fld) (v : Nat) {a : Nat} (h : a ≠ f.off) : (b.set f v).word a = b.word a :=
  Regs.word_set_ne _ _ _ _ h

/-- The word of a set field. -/
theorem Block.word_set_same (b : Block) (f : Fld) (v : Nat) : (b.set f v).word f.off = putBits (b.word f.off) f.hi f.lo v :=
  mget_mset_same _ _ _ _

/-- Counting in the counters of some threads changes register words only. -/
theorem Block.countWaits_eq (us : List Nat) : ∀ b : Block, ∃ m, us.foldl (fun b u => b.cnt (35 + u) 1) b = { b with regs := m } := by
  induction us with
  | nil => exact fun b => ⟨b.regs, rfl⟩
  | cons u us ih =>
    intro b
    obtain ⟨m, h⟩ := ih (b.cnt (35 + u) 1)
    exact ⟨m, by rw [List.foldl_cons, h]; rfl⟩

/-- Counting in the counters of some threads leaves the other words alone. -/
theorem Block.countWaits_word (us : List Nat) : ∀ (b : Block) {a : Nat}, a ∉ us.map (fun u => BLK_CNT.off (35 + u)) →
    (us.foldl (fun b u => b.cnt (35 + u) 1) b).word a = b.word a := by
  induction us with
  | nil => exact fun _ _ _ => rfl
  | cons u us ih =>
    intro b a h
    rw [List.map_cons, List.mem_cons, not_or] at h
    rw [List.foldl_cons, ih _ h.2, Block.cnt, Block.count, Block.word_set_ne _ _ _ (by exact h.1)]

/-- The issue of an instruction takes the turn and counts the step for the threads that wait; it changes nothing else. -/
theorem Block.issued_eq (b : Block) (t : Nat) : ∃ m, b.issued t = { b.turned t with regs := m } :=
  Block.countWaits_eq _ _

/-- The registers apart from those that the issue of an instruction changes. -/
theorem Block.issued_word (b : Block) (t : Nat) {a : Nat} (h : a ∉ b.waitRegs t) : (b.issued t).word a = b.word a :=
  Block.countWaits_word _ _ h

/-- A field of a register that is no block counter reads as before the issue. -/
theorem Block.issued_get (b : Block) (t : Nat) {f : Fld} (h : f.off < 0x3D00) : (b.issued t).get f = b.get f := by
  have k : f.off ∉ b.waitRegs t := by
    intro m
    rw [Block.waitRegs, List.mem_map] at m
    obtain ⟨u, -, e⟩ := m
    rw [← e] at h
    simp only [BLK_CNT.off] at h
    omega
  have e := b.issued_word t k
  simp only [Block.get, Regs.get]
  simp only [Block.word] at e
  rw [e]

/-- An instruction that issues with nothing wrong in the hardware runs after the issue. -/
theorem Block.issue_runs {b : Block} {t : Nat} (h : b.canIssue t = true) (env : Env) (c : Bool) (run : Block → Block) :
    b.issue env t (GroomHw.on .none c) run = run (b.issued t) := by
  rw [Block.issue, if_pos h]
  rfl

@[simp] theorem Block.issued_spad (b : Block) (t : Nat) : (b.issued t).spad = b.spad := by
  obtain ⟨m, h⟩ := b.issued_eq t
  rw [h]
  rfl

@[simp] theorem Block.issued_lblock (b : Block) (t : Nat) : (b.issued t).lblock = b.lblock := by
  obtain ⟨m, h⟩ := b.issued_eq t
  rw [h]
  rfl

@[simp] theorem Block.issued_stride (b : Block) (t : Nat) : (b.issued t).stride = b.stride := by
  obtain ⟨m, h⟩ := b.issued_eq t
  rw [h]
  rfl

@[simp] theorem Block.issued_beatAt (b : Block) (t : Nat) : (b.issued t).beatAt = b.beatAt := by
  obtain ⟨m, h⟩ := b.issued_eq t
  rw [h]
  rfl

@[simp] theorem Block.issued_working (b : Block) (t : Nat) : (b.issued t).working = b.working := by
  obtain ⟨m, h⟩ := b.issued_eq t
  rw [h]
  rfl

@[simp] theorem Block.issued_waitQuiet (b : Block) (t : Nat) : (b.issued t).waitQuiet = b.waitQuiet := by
  obtain ⟨m, h⟩ := b.issued_eq t
  rw [h]
  rfl

@[simp] theorem Block.issued_extended (b : Block) (t : Nat) : (b.issued t).extended = b.extended := by
  obtain ⟨m, h⟩ := b.issued_eq t
  rw [h]
  rfl

@[simp] theorem Block.issued_fenced (b : Block) (t : Nat) : (b.issued t).fenced = b.fenced := by
  obtain ⟨m, h⟩ := b.issued_eq t
  rw [h]
  rfl

@[simp] theorem Block.issued_fenceCode (b : Block) (t : Nat) : (b.issued t).fenceCode = b.fenceCode := by
  obtain ⟨m, h⟩ := b.issued_eq t
  rw [h]
  rfl

@[simp] theorem Block.issued_progressAt (b : Block) (t : Nat) : (b.issued t).progressAt = b.progressAt := by
  obtain ⟨m, h⟩ := b.issued_eq t
  rw [h]
  rfl

@[simp] theorem Block.issued_tally (b : Block) (t : Nat) : (b.issued t).tally = b.tally := by
  obtain ⟨m, h⟩ := b.issued_eq t
  rw [h]
  rfl

@[simp] theorem Block.issued_freeTally (b : Block) (t : Nat) : (b.issued t).freeTally = b.freeTally := by
  obtain ⟨m, h⟩ := b.issued_eq t
  rw [h]
  rfl

@[simp] theorem Block.issued_tallies (b : Block) (t : Nat) : (b.issued t).tallies = b.tallies := by
  obtain ⟨m, h⟩ := b.issued_eq t
  rw [h]
  rfl

@[simp] theorem Block.issued_ev (b : Block) (t : Nat) : (b.issued t).ev = b.ev := by
  obtain ⟨m, h⟩ := b.issued_eq t
  rw [h]
  rfl

@[simp] theorem Block.issued_coalesced (b : Block) (t : Nat) : (b.issued t).coalesced = b.coalesced := by
  obtain ⟨m, h⟩ := b.issued_eq t
  rw [h]
  rfl

@[simp] theorem Block.issued_firstSlack (b : Block) (t : Nat) : (b.issued t).firstSlack = b.firstSlack := by
  obtain ⟨m, h⟩ := b.issued_eq t
  rw [h]
  rfl

@[simp] theorem Block.issued_program (b : Block) (t : Nat) : (b.issued t).program = b.program := by
  obtain ⟨m, h⟩ := b.issued_eq t
  rw [h]
  rfl

@[simp] theorem Block.issued_eng (b : Block) (t : Nat) : (b.issued t).eng = b.eng := by
  obtain ⟨m, h⟩ := b.issued_eq t
  rw [h]
  rfl

@[simp] theorem Block.issued_code (b : Block) (t : Nat) : (b.issued t).code = b.code := by
  obtain ⟨m, h⟩ := b.issued_eq t
  rw [h]
  rfl

@[simp] theorem Block.issued_tasks (b : Block) (t : Nat) : (b.issued t).tasks = b.tasks := by
  obtain ⟨m, h⟩ := b.issued_eq t
  rw [h]
  rfl

@[simp] theorem Block.issued_threads (b : Block) (t : Nat) : (b.issued t).threads = b.threads := by
  obtain ⟨m, h⟩ := b.issued_eq t
  rw [h]
  rfl

@[simp] theorem Block.issued_gather (b : Block) (t : Nat) : (b.issued t).gather = b.gather := by
  obtain ⟨m, h⟩ := b.issued_eq t
  rw [h]
  rfl

@[simp] theorem Block.issued_jobs (b : Block) (t : Nat) : (b.issued t).jobs = b.jobs := by
  obtain ⟨m, h⟩ := b.issued_eq t
  rw [h]
  rfl

@[simp] theorem Block.issued_posted (b : Block) (t : Nat) : (b.issued t).posted = b.posted := by
  obtain ⟨m, h⟩ := b.issued_eq t
  rw [h]
  rfl

@[simp] theorem Block.issued_reqs (b : Block) (t : Nat) : (b.issued t).reqs = b.reqs := by
  obtain ⟨m, h⟩ := b.issued_eq t
  rw [h]
  rfl

@[simp] theorem Block.issued_nextReq (b : Block) (t : Nat) : (b.issued t).nextReq = b.nextReq := by
  obtain ⟨m, h⟩ := b.issued_eq t
  rw [h]
  rfl

@[simp] theorem Block.issued_nodes (b : Block) (t : Nat) : (b.issued t).nodes = b.nodes := by
  obtain ⟨m, h⟩ := b.issued_eq t
  rw [h]
  rfl

@[simp] theorem Block.issued_fireList (b : Block) (t : Nat) : (b.issued t).fireList = b.fireList := by
  obtain ⟨m, h⟩ := b.issued_eq t
  rw [h]
  rfl

@[simp] theorem Block.issued_flPos (b : Block) (t : Nat) : (b.issued t).flPos = b.flPos := by
  obtain ⟨m, h⟩ := b.issued_eq t
  rw [h]
  rfl

@[simp] theorem Block.issued_flDone (b : Block) (t : Nat) : (b.issued t).flDone = b.flDone := by
  obtain ⟨m, h⟩ := b.issued_eq t
  rw [h]
  rfl

@[simp] theorem Block.issued_arcs (b : Block) (t : Nat) : (b.issued t).arcs = b.arcs := by
  obtain ⟨m, h⟩ := b.issued_eq t
  rw [h]
  rfl

@[simp] theorem Block.issued_templates (b : Block) (t : Nat) : (b.issued t).templates = b.templates := by
  obtain ⟨m, h⟩ := b.issued_eq t
  rw [h]
  rfl

@[simp] theorem Block.issued_queue (b : Block) (t : Nat) : (b.issued t).queue = b.queue := by
  obtain ⟨m, h⟩ := b.issued_eq t
  rw [h]
  rfl

@[simp] theorem Block.issued_ctxs (b : Block) (t : Nat) : (b.issued t).ctxs = b.ctxs := by
  obtain ⟨m, h⟩ := b.issued_eq t
  rw [h]
  rfl

@[simp] theorem Block.issued_cqs (b : Block) (t : Nat) : (b.issued t).cqs = b.cqs := by
  obtain ⟨m, h⟩ := b.issued_eq t
  rw [h]
  rfl

@[simp] theorem Block.issued_spent (b : Block) (t : Nat) : (b.issued t).spent = b.spent := by
  obtain ⟨m, h⟩ := b.issued_eq t
  rw [h]
  rfl

@[simp] theorem Block.issued_returned (b : Block) (t : Nat) : (b.issued t).returned = b.returned := by
  obtain ⟨m, h⟩ := b.issued_eq t
  rw [h]
  rfl

@[simp] theorem Block.issued_bases (b : Block) (t : Nat) : (b.issued t).bases = b.bases := by
  obtain ⟨m, h⟩ := b.issued_eq t
  rw [h]
  rfl

@[simp] theorem Block.issued_totals (b : Block) (t : Nat) : (b.issued t).totals = b.totals := by
  obtain ⟨m, h⟩ := b.issued_eq t
  rw [h]
  rfl

@[simp] theorem Block.issued_waits (b : Block) (t : Nat) : (b.issued t).waits = b.waits := by
  obtain ⟨m, h⟩ := b.issued_eq t
  rw [h]
  rfl

@[simp] theorem Block.issued_closeAt (b : Block) (t : Nat) : (b.issued t).closeAt = b.closeAt := by
  obtain ⟨m, h⟩ := b.issued_eq t
  rw [h]
  rfl

@[simp] theorem Block.issued_reinJob (b : Block) (t : Nat) : (b.issued t).reinJob = b.reinJob := by
  obtain ⟨m, h⟩ := b.issued_eq t
  rw [h]
  rfl

@[simp] theorem Block.issued_jobFault (b : Block) (t : Nat) : (b.issued t).jobFault = b.jobFault := by
  obtain ⟨m, h⟩ := b.issued_eq t
  rw [h]
  rfl

@[simp] theorem Block.issued_portSchedule (b : Block) (t : Nat) : (b.issued t).portSchedule = b.portSchedule := by
  obtain ⟨m, h⟩ := b.issued_eq t
  rw [h]
  rfl

@[simp] theorem Block.issued_mesh (b : Block) (t : Nat) : (b.issued t).mesh = b.mesh := by
  obtain ⟨m, h⟩ := b.issued_eq t
  rw [h]
  rfl

@[simp] theorem Block.issued_router (b : Block) (t : Nat) : (b.issued t).router = b.router := by
  obtain ⟨m, h⟩ := b.issued_eq t
  rw [h]
  rfl

@[simp] theorem Block.issued_passTimes (b : Block) (t : Nat) : (b.issued t).passTimes = b.passTimes := by
  obtain ⟨m, h⟩ := b.issued_eq t
  rw [h]
  rfl

@[simp] theorem Block.issued_slice (b : Block) (t : Nat) : (b.issued t).slice = b.slice := by
  obtain ⟨m, h⟩ := b.issued_eq t
  rw [h]
  rfl

@[simp] theorem Block.issued_diag (b : Block) (t : Nat) : (b.issued t).diag = b.diag := by
  obtain ⟨m, h⟩ := b.issued_eq t
  rw [h]
  rfl

@[simp] theorem Block.issued_trace (b : Block) (t : Nat) : (b.issued t).trace = b.trace := by
  obtain ⟨m, h⟩ := b.issued_eq t
  rw [h]
  rfl

@[simp] theorem Block.issued_resets (b : Block) (t : Nat) : (b.issued t).resets = b.resets := by
  obtain ⟨m, h⟩ := b.issued_eq t
  rw [h]
  rfl

@[simp] theorem Block.issued_scan (b : Block) (t : Nat) : (b.issued t).scan = b.scan := by
  obtain ⟨m, h⟩ := b.issued_eq t
  rw [h]
  rfl

@[simp] theorem Block.issued_saddle (b : Block) (t : Nat) : (b.issued t).saddle = b.saddle := by
  obtain ⟨m, h⟩ := b.issued_eq t
  rw [h]
  rfl

@[simp] theorem Block.issued_owes (b : Block) (t : Nat) : (b.issued t).owes = b.owes := by
  obtain ⟨m, h⟩ := b.issued_eq t
  rw [h]
  rfl

@[simp] theorem Block.issued_replayIdle (b : Block) (t : Nat) : (b.issued t).replayIdle = b.replayIdle := by
  obtain ⟨m, h⟩ := b.issued_eq t
  rw [h]
  rfl

@[simp] theorem Block.issued_recordBad (b : Block) (t : Nat) : (b.issued t).recordBad = b.recordBad := by
  obtain ⟨m, h⟩ := b.issued_eq t
  rw [h]
  rfl

@[simp] theorem Block.issued_sliceSpoilt (b : Block) (t : Nat) : (b.issued t).sliceSpoilt = b.sliceSpoilt := by
  obtain ⟨m, h⟩ := b.issued_eq t
  rw [h]
  rfl

@[simp] theorem Block.issued_thread (b : Block) (t u : Nat) : (b.issued t).thread u = b.thread u := by
  rw [Block.thread, Block.issued_threads]
  rfl

/-- What the retirement of an instruction changes. -/
theorem Block.retire_eq (b : Block) (t : Nat) (th : Thread) :
    ∃ m, (b.issued t).retire t th = { b.retiredAs t th with regs := m } := by
  obtain ⟨m, h⟩ := b.issued_eq t
  exact ⟨_, by rw [h]; rfl⟩

/-- The registers apart from those that a retirement changes. -/
theorem Block.retire_word (b : Block) (t : Nat) (th : Thread) {a : Nat} (h : a ∉ b.groomRegs t) :
    ((b.issued t).retire t th).word a = b.word a := by
  simp only [Block.groomRegs, List.mem_cons, not_or] at h
  rw [Block.retire, Block.cnt, Block.count, Block.word_set_ne _ _ _ (by exact h.2.1), Block.setThread_word _ _ _ h.1,
    Block.issued_word _ _ h.2.2]

/-- The parts of a program fault: the thread stops, the fault register names the code, a record goes up, and the job is to end. -/
theorem Block.programFault_parts (b : Block) (env : Env) (t code : Nat) :
    ∃ b1 e, b.programFault env t code = { b1.note env e with jobFault := (b1.note env e).jobFault <|> some (10, code) } ∧
      b1 = (b.setThread t { b.thread t with state := 5 }).set (BLK_GRM_STATE.fault t) code ∧ e.outcome = 3 :=
  ⟨_, _, rfl, rfl, rfl⟩

/-- What a record changes. -/
theorem Block.note_eq (b : Block) (env : Env) (e : Ev) :
    ∃ m ev co, b.note env e = { b with regs := m, ev := ev, coalesced := co } := by
  rw [Block.note]
  extract_lets
  split
  · exact ⟨_, _, _, rfl⟩
  · exact ⟨_, _, _, rfl⟩

/-- What a program fault changes. -/
theorem Block.programFault_eq (b : Block) (env : Env) (t code : Nat) :
    ∃ m ev co, (b.issued t).programFault env t code = { b.faultedAs t code with regs := m, ev := ev, coalesced := co } := by
  obtain ⟨r, hi⟩ := b.issued_eq t
  obtain ⟨b1, e, h, h1, -⟩ := (b.issued t).programFault_parts env t code
  obtain ⟨m, ev, co, h2⟩ := b1.note_eq env e
  exact ⟨m, ev, co, by rw [h, h2, h1, hi]; rfl⟩

/-- A record leaves every register word but the two counters of records as it was. -/
theorem Block.note_word (b : Block) (env : Env) (e : Ev) {a : Nat} (h : a ≠ BLK_CNT.off 45) (h' : a ≠ BLK_CNT.off 46) :
    (b.note env e).word a = b.word a := by
  rw [Block.note]
  extract_lets
  split
  · rw [Block.cnt, Block.count, Block.word_set_ne _ _ _ (by exact h')]; rfl
  · rw [Block.cnt, Block.count, Block.word_set_ne _ _ _ (by exact h)]; rfl

/-- A record that is not of a corrected error is kept whatever is held already. -/
theorem Block.note_kept (b : Block) (env : Env) {e : Ev} (h : e.outcome ≠ 0) {a : Nat} (ha : a ≠ BLK_CNT.off 45) :
    (b.note env e).word a = b.word a := by
  rw [Block.note]
  extract_lets
  split
  · next c => simp [Ev.corrected, h] at c
  · rw [Block.cnt, Block.count, Block.word_set_ne _ _ _ (by exact ha)]; rfl

/-- The registers apart from those that a program fault changes. -/
theorem Block.programFault_word (b : Block) (env : Env) (t code : Nat) {a : Nat} (h : a ∉ b.faultRegs t) :
    ((b.issued t).programFault env t code).word a = b.word a := by
  simp only [Block.faultRegs, List.mem_cons, not_or] at h
  obtain ⟨b1, e, h0, h1, h2⟩ := (b.issued t).programFault_parts env t code
  have : ((b.issued t).programFault env t code).word a = (b1.note env e).word a := by rw [h0]; rfl
  rw [this, Block.note_kept _ _ (by omega) h.2.1, h1, Block.word_set_ne _ _ _ (by exact h.1), Block.setThread_word _ _ _ h.1,
    Block.issued_word _ _ h.2.2]

/-- The fault register after a program fault. -/
theorem Block.programFault_code (b : Block) (env : Env) {t : Nat} (code : Nat) (ht : t < 8) (hc : code < 256) :
    (b.programFault env t code).get (BLK_GRM_STATE.fault t) = code := by
  obtain ⟨b1, e, h0, h1, h2⟩ := b.programFault_parts env t code
  have : (b.programFault env t code).get (BLK_GRM_STATE.fault t) = (b1.note env e).get (BLK_GRM_STATE.fault t) := by rw [h0]; rfl
  rw [this, Block.note_get _ _ _ _ (by show 0x2800 + 8 * t < _; omega) (by show (8 : Nat) ≤ 15; omega), h1,
    Block.get_set_same _ ⟨by show (8 : Nat) ≤ 15; omega, by show (15 : Nat) < 64; omega⟩]
  exact Nat.mod_eq_of_lt hc

/-- What the module becomes when thread `t` retires an instruction and no more. -/
theorem State.retire_becomes {s : State} {p t : Nat} {f : Block → Env → Block} {th : Thread}
    (h : f (s.block p) (s.env p) = ((s.block p).issued t).retire t th) :
    s.BlockBecomes p ((s.block p).groomRegs t) ((s.block p).retiredAs t th) (s.onBlock p f) := by
  apply State.onBlock_becomes
  · obtain ⟨m, e⟩ := (s.block p).retire_eq t th
    exact ⟨m, (s.block p).ev, (s.block p).coalesced, by rw [h, e]; rfl⟩
  · intro a ha
    rw [h, Block.retire_word _ _ _ ha]

/-- What the module becomes when thread `t` meets a program fault. -/
theorem State.fault_becomes {s : State} {p t code : Nat} {f : Block → Env → Block}
    (h : f (s.block p) (s.env p) = ((s.block p).issued t).programFault (s.env p) t code) :
    s.BlockBecomes p ((s.block p).faultRegs t) ((s.block p).faultedAs t code) (s.onBlock p f) := by
  apply State.onBlock_becomes
  · rw [h]
    exact (s.block p).programFault_eq (s.env p) t code
  · intro a ha
    rw [h, Block.programFault_word _ _ _ _ ha]

end Sys2Proof.Machine
end

