-- ==== Sys2Proof/Laws/Keeps.lean ====
section
/-! SUPPORT. What every operation of the machine keeps, and the canonical form of the DRAM under the operations that write it. -/

namespace Sys2Proof.Machine

set_option linter.unusedTactic false
set_option linter.unreachableTactic false

/-- What no command may do to the rest of the state: the queue, the time, the free values already drawn, the seven device states, the
canonical form of the DRAM, the blown fuses (R424, R426) and the permanent stud-book records (R430) all hold on to `t`. -/
structure Keeps (s t : State) : Prop where
  pending : t.pending = s.pending
  now : t.now = s.now
  free : s.freeCtr ≤ t.freeCtr
  dev : s.dev ≤ 6 → t.dev ≤ 6
  dram : s.memoryWf → t.memoryWf
  lms : s.fuses.lms ≤ t.fuses.lms
  blown : ∀ c, mget natZero s.fuses.rollback c ≤ mget natZero t.fuses.rollback c
  stud : ∀ x ∈ s.stud, x.permanent = true → x ∈ t.stud

/-- Nothing done. -/
theorem Keeps.refl (s : State) : Keeps s s :=
  ⟨rfl, rfl, Nat.le_refl _, id, id, Nat.le_refl _, fun _ => Nat.le_refl _, fun _ h _ => h⟩

/-- One thing after another. -/
theorem Keeps.trans {a b c : State} (h : Keeps a b) (k : Keeps b c) : Keeps a c :=
  ⟨k.pending.trans h.pending, k.now.trans h.now, Nat.le_trans h.free k.free, k.dev ∘ h.dev, k.dram ∘ h.dram,
    Nat.le_trans h.lms k.lms, fun x => Nat.le_trans (h.blown x) (k.blown x),
    fun x m p => k.stud x (h.stud x m p) p⟩

/-- A change of any other field. -/
theorem Keeps.upd {a s t : State} (h : Keeps a s) (e1 : t.pending = s.pending) (e2 : t.now = s.now)
    (e3 : s.freeCtr ≤ t.freeCtr) (e4 : t.dev = s.dev) (e5 : t.hbm = s.hbm) (e6 : t.ddr = s.ddr)
    (e7 : t.fuses = s.fuses) (e8 : t.stud = s.stud) : Keeps a t :=
  h.trans ⟨e1, e2, e3, fun d => e4 ▸ d, fun w => ⟨e5 ▸ w.1, e6 ▸ w.2⟩, Nat.le_of_eq (e7 ▸ rfl),
    fun _ => Nat.le_of_eq (e7 ▸ rfl), fun _ m _ => e8 ▸ m⟩

/-- A record update of any other field, as it stands in a definition. -/
theorem Keeps.put {a s : State} (h : Keeps a s) {freeCtr' : Nat} (hf : s.freeCtr ≤ freeCtr') (pins' : Pins) (regs' : Regs) (blocks' : Cells Block) (regions' : Cells Region) (endpoints' : Cells MeshUnit) (routes' : Cells Nat) (groups' : Cells Nat) (rmt' : Cells Rmt) (cad' : Cadence) (sens' : Cells Nat) (mgrProg' : Cells (List Byte)) (restarts' : List Nat) (fresh' : List Nat) (leases' : Leases) (calls' : Cells (List Call)) (scrubbed' : Cells Nat) (trainTemp' : Cells Nat) (riderReqs' : List RiderReq) (jobFault' : Option (Nat × Nat)) (dispatch' : Dispatch) (ports' : Cells Port) (twin' : Twin) (rcv' : Recovery) (screen' : Screen) (far' : Farrier) (bring' : Bringup) (chipResets' : List Nat) (images' : Images) (power' : Power) (signKeys' : List (List Byte)) (ev' : List Ev) (evCoalesced' : Cells Nat) (out' : List Output) :
    Keeps a { pending := s.pending, now := s.now, freeCtr := freeCtr', dev := s.dev, pins := pins', regs := regs', blocks := blocks', regions := regions', endpoints := endpoints', routes := routes', groups := groups', rmt := rmt', cad := cad', sens := sens', mgrProg := mgrProg', restarts := restarts', fresh := fresh', leases := leases', calls := calls', scrubbed := scrubbed', trainTemp := trainTemp', riderReqs := riderReqs', jobFault := jobFault', dispatch := dispatch', ports := ports', twin := twin', rcv := rcv', screen := screen', far := far', bring := bring', chipResets := chipResets', stud := s.stud, fuses := s.fuses, images := images', power := power', signKeys := signKeys', hbm := s.hbm, ddr := s.ddr, ev := ev', evCoalesced := evCoalesced', out := out' } :=
  h.upd rfl rfl hf rfl rfl rfl rfl rfl

/-- One of two things done. -/
theorem Keeps.ite {a s t : State} {c : Prop} [Decidable c] (h : Keeps a s) (k : Keeps a t) : Keeps a (if c then s else t) := by
  split
  · exact h
  · exact k

/-- The same thing done for every item of a list. -/
theorem Keeps.foldl {α : Type} {a s : State} {f : State → α → State} {xs : List α} (h : Keeps a s)
    (k : ∀ t x, Keeps a t → Keeps a (f t x)) : Keeps a (xs.foldl f s) := by
  induction xs generalizing s with
  | nil => exact h
  | cons x xs ih => exact ih (k s x h)

/-- A state that comes with something more. -/
theorem Keeps.of_fst {α : Type} {a t : State} {x : α} {p : State × α} (e : p = (t, x)) (h : Keeps a p.1) : Keeps a t := by
  subst e; exact h

/-- The same, the state second. -/
theorem Keeps.of_snd {α : Type} {a t : State} {x : α} {p : α × State} (e : p = (x, t)) (h : Keeps a p.2) : Keeps a t := by
  subst e; exact h

/-- Stud-book records added, no permanent one lost. -/
theorem Keeps.of_book {a s : State} (h : Keeps a s) {xs : List Stud} (k : ∀ x ∈ s.stud, x.permanent = true → x ∈ xs) :
    Keeps a { s with stud := xs } :=
  h.trans ⟨rfl, rfl, Nat.le_refl _, id, id, Nat.le_refl _, fun _ => Nat.le_refl _, k⟩

/-- Fuses blown. -/
theorem Keeps.of_fuses {a s : State} (h : Keeps a s) {f : Fuses} (k : s.fuses.lms ≤ f.lms)
    (b : ∀ c, mget natZero s.fuses.rollback c ≤ mget natZero f.rollback c) : Keeps a { s with fuses := f } :=
  h.trans ⟨rfl, rfl, Nat.le_refl _, id, id, k, b, fun _ m _ => m⟩

/-- DRAM written. -/
theorem Keeps.of_dram {a s : State} (h : Keeps a s) {m d : Memory} (k : s.memoryWf → m.wf = true ∧ d.wf = true) :
    Keeps a { s with hbm := m, ddr := d } :=
  h.trans ⟨rfl, rfl, Nat.le_refl _, id, k, Nat.le_refl _, fun _ => Nat.le_refl _, fun _ m _ => m⟩

/-- The rewrite of a full book keeps every permanent record (R430). -/
theorem studRewrite_permanent {x : Stud} (p : x.permanent = true) : ∀ {xs : List Stud}, x ∈ xs → x ∈ studRewrite xs := by
  intro xs
  induction xs with
  | nil => exact id
  | cons y ys ih =>
    intro m
    rw [studRewrite]
    rcases List.mem_cons.mp m with rfl | m
    · rw [if_pos (by simp [p])]
      exact List.mem_cons_self
    · split
      · exact List.mem_cons_of_mem _ (ih m)
      · exact ih m

/-- Both tiers are in canonical form. -/
def Tiers.wf (t : Tiers) : Prop := Memory.wf t.hbm = true ∧ Memory.wf t.ddr = true

/-- A line written to a tier. -/
theorem Tiers.putLine_wf {t : Tiers} (w : t.wf) (tier a : Nat) (bs : List Byte) : (t.putLine tier a bs).wf := by
  unfold Tiers.putLine
  dsimp only
  split
  · exact ⟨Memory.puts_wf _ _ w.1, w.2⟩
  · exact ⟨w.1, Memory.puts_wf _ _ w.2⟩

/-- A masked line written to a tier. -/
theorem Tiers.putMasked_wf {t : Tiers} (w : t.wf) (tier a : Nat) (bs : List Byte) (m : Nat) : (t.putMasked tier a bs m).wf := by
  unfold Tiers.putMasked
  dsimp only
  split
  · exact ⟨Memory.putsMasked_wf _ _ w.1, w.2⟩
  · exact ⟨w.1, Memory.putsMasked_wf _ _ w.2⟩

/-- Writes one after another. -/
theorem Tiers.foldl_wf {α : Type} {f : Tiers → α → Tiers} (k : ∀ t x, t.wf → (f t x).wf) (xs : List α) :
    ∀ {t : Tiers}, t.wf → (xs.foldl f t).wf := by
  induction xs with
  | nil => intro t w; exact w
  | cons x xs ih => intro t w; exact ih (k t x w)

/-- Lines written to a tier. -/
theorem Tiers.putLines_wf {t : Tiers} (w : t.wf) (tier a : Nat) (bs : List Byte) : (t.putLines tier a bs).wf :=
  Tiers.foldl_wf (fun _ _ w => Tiers.putLine_wf w _ _ _) _ w

/-- The module's tiers. -/
theorem State.tiers_wf {s : State} (w : s.memoryWf) : s.tiers.wf := w

/-- Row signatures written. -/
theorem signUnits_wf {m : Memory} (w : m.wf = true) (base table : Nat) : ∀ n, (signUnits m base table n).wf = true
  | 0 => w
  | n + 1 => Memory.puts_wf _ _ (signUnits_wf w base table n)

/-- The tiers of a transfer are in canonical form. -/
def Move.wf (m : Move) : Prop := m.t.wf

/-- Steps of a transfer one after another. -/
theorem Move.foldl_wf {α : Type} {f : Move → α → Move} (k : ∀ m x, m.wf → (f m x).wf) (xs : List α) :
    ∀ {m : Move}, m.wf → (xs.foldl f m).wf := by
  induction xs with
  | nil => intro t w; exact w
  | cons x xs ih => intro t w; exact ih (k t x w)

/-- Bytes read. -/
theorem Move.load_wf {m : Move} (w : m.wf) (tier : Nat) : ∀ rs, (m.load tier rs).1.wf
  | [] => w
  | (a, n) :: rs => by
    unfold Move.load
    split
    · exact Move.load_wf w tier rs
    · exact w

/-- A line fetched. -/
theorem Move.fetch_wf {m : Move} (w : m.wf) (h o : Nat) : (m.fetch h o).1.wf := by
  unfold Move.fetch
  dsimp only
  split
  · exact w
  · exact Move.load_wf w _ _

/-- Bytes written. -/
theorem Move.put_wf {m : Move} (w : m.wf) (tier a : Nat) (bs : List Byte) : (m.put tier a bs).wf := by
  unfold Move.put
  split
  · exact w
  · split
    · exact Tiers.putMasked_wf w _ _ _ _
    · exact w

/-- Bytes sent to a remote node. -/
theorem Move.sendOut_wf {m : Move} (w : m.wf) (env : Env) (r : Nat → Nat) (ring : Bool) (i h a : Nat) (bs : List Byte) :
    (m.sendOut env r ring i h a bs).wf := by
  unfold Move.sendOut
  generalize m.b.lineRequest env (r (m.b.get (HDL_CTL.node h))) h (a / 64 * 64) (.copyWrite i ring) (bytesPkt a bs) = x
  exact w

/-- A line stored. -/
theorem Move.store_wf {m : Move} (w : m.wf) (env : Env) (r : Nat → Nat) (ring : Bool) (i h o : Nat) (l : List Byte) :
    (m.store env r ring i h o l).wf := by
  unfold Move.store
  dsimp only
  split
  · exact w
  · split
    · exact Move.foldl_wf (fun _ _ w => Move.sendOut_wf w _ _ _ _ _ _ _) _ w
    · exact Move.foldl_wf (fun _ _ w => Move.put_wf w _ _ _) _ w

/-- A line asked of a remote node. -/
theorem Move.ask_wf {m : Move} (w : m.wf) (env : Env) (r : Nat → Nat) (ring : Bool) (i h o dh doff : Nat) :
    (m.ask env r ring i h o dh doff).wf := by
  have k : ∀ (rs : List (Nat × Nat)) (x : Move × Nat), x.1.wf → (rs.foldl (fun (x : Move × Nat) r' =>
      let (b, id) := x.1.b.lineRequest env (r (x.1.b.get (HDL_CTL.node h))) h (r'.1 / 64 * 64)
        (.copyRead i ring dh (doff + x.2) (r'.1 % 64) r'.2) readPkt
      ({ x.1 with b := b, ids := x.1.ids ++ [id] }, x.2 + r'.2)) x).1.wf := by
    intro rs
    induction rs with
    | nil => exact fun _ w => w
    | cons a as ih => exact fun x w => ih _ w
  exact k _ _ w

/-- A line moved. -/
theorem Move.line_wf {m : Move} (w : m.wf) (env : Env) (r : Nat → Nat) (ring : Bool) (i : Nat) (d : Desc) (so o : Nat) :
    (m.line env r ring i d so o).wf := by
  unfold Move.line
  dsimp only
  split
  · exact w
  · split
    · exact Move.store_wf w _ _ _ _ _ _ _
    · split
      · exact Move.ask_wf w _ _ _ _ _ _ _ _
      · have := Move.fetch_wf w (nbits d.src 5 0) so
        split
        · exact this
        · exact Move.store_wf this _ _ _ _ _ _ _

/-- A row moved. -/
theorem Move.row_wf {m : Move} (w : m.wf) (env : Env) (r : Nat → Nat) (ring : Bool) (i : Nat) (d : Desc) (n : Nat) :
    (m.row env r ring i d n).wf := Move.foldl_wf (fun _ _ w => Move.line_wf w _ _ _ _ _ _ _) _ w

/-- Rows moved. -/
theorem Move.rows_wf (env : Env) (r : Nat → Nat) (ring : Bool) (i : Nat) (d : Desc) : ∀ (n : Nat) {m : Move}, m.wf →
    (Move.rows env r ring i d n m).1.wf
  | 0, _, w => w
  | n + 1, m, w => by
    have ih := Move.rows_wf env r ring i d n w
    unfold Move.rows
    dsimp only
    split
    · exact ih
    · exact Move.row_wf ih _ _ _ _ _ _

/-- A resident handle reloaded. -/
theorem Move.reload_wf {m : Move} (w : m.wf) (h : Nat) : (m.reload h).wf := by
  refine Move.foldl_wf (fun m x w => ?_) _ w
  dsimp only
  split
  · exact w
  · split <;> exact Move.load_wf w _ _

/-- A descriptor carried out. -/
theorem Block.runDesc_wf {o : Outside} (w : o.tiers.wf) (b : Block) (env : Env) (j : PJob) : (b.runDesc env o j).2.1.wf := by
  unfold Block.runDesc
  dsimp only
  split
  · exact w
  · split
    · exact w
    · split
      · exact Move.reload_wf (m := { b := b, t := o.tiers }) w _
      · exact Move.rows_wf _ _ _ _ _ _ (m := { b := b, t := o.tiers }) w

/-- A descriptor started. -/
theorem Block.doDescriptor_wf {o : Outside} (w : o.tiers.wf) (b : Block) (env : Env) (ring : Bool) (hw : Nat) :
    (b.doDescriptor env o ring hw).2.wf := by
  unfold Block.doDescriptor
  split
  · exact w
  · split
    · exact w
    · split
      · exact w
      · dsimp only
        repeat' split
        all_goals first | exact w | exact Block.runDesc_wf w _ _ _

/-- A reply to a descriptor. -/
theorem Block.jobReply_wf {o : Outside} (w : o.tiers.wf) (b : Block) (env : Env) (use : ReqUse) (id st : Nat) (bs : List Byte) :
    (b.jobReply env o use id st bs).2.wf := by
  unfold Block.jobReply
  dsimp only
  split
  · split
    · exact w
    · split
      · exact w
      · split
        · exact w
        · exact Move.store_wf (m := { b := b, t := o.tiers }) w _ _ _ _ _ _ _
  · split
    · exact w
    · split <;> exact w
  · split
    · exact w
    · split
      · exact w
      · split <;> exact w
  · split <;> exact w
  · exact w

/-- Trace records stored. -/
theorem Block.traceStore_wf {t : Tiers} (w : t.wf) (b : Block) (env : Env) : (b.traceStore env t).2.wf := by
  unfold Block.traceStore
  dsimp only
  split
  · exact w
  · split
    · exact w
    · have := Move.foldl_wf (f := fun (m : Move) j =>
        m.store env (fun _ => 0) false 0 (b.get BLK_TRC_CTL.handle) (16 * b.get BLK_TRC_PTR.next + 64 * j)
          (sliceZ (traceBytes b.trace) (64 * j) 64)) (fun _ _ w => Move.store_wf w _ _ _ _ _ _ _) (List.range 16)
        (m := { b := { b with trace := [] }, t := t }) w
      split <;> exact this

end Sys2Proof.Machine
end

