-- ==== Sys2Proof/Laws/KeepsOps.lean ====
section
/-! SUPPORT. Every operation on registers, blocks, regions, events, jobs and the fabric keeps what Keeps names; one lemma for each. -/

namespace Sys2Proof.Machine

set_option linter.unusedTactic false
set_option linter.unreachableTactic false

theorem State.set_keeps {s0 s : State} (h : Keeps s0 s) (f : Fld) (v : Nat) :
    Keeps s0 (s.set f v) := by
  unfold State.set
  repeat' first
    | with_reducible assumption
    | (with_reducible refine Keeps.put ?_ ?_ .. <;>
        first
        | exact Nat.le_refl _
        | exact Nat.le_succ _
        | with_reducible assumption)

theorem State.count_keeps {s0 s : State} (h : Keeps s0 s) (f : Fld) (n : Nat) :
    Keeps s0 (s.count f n) := by
  unfold State.count
  repeat' first
    | with_reducible assumption
    | with_reducible apply State.set_keeps

theorem State.setBlock_keeps {s0 s : State} (h : Keeps s0 s) (p : Nat) (b : Block) :
    Keeps s0 (s.setBlock p b) := by
  unfold State.setBlock
  repeat' first
    | with_reducible assumption
    | (with_reducible refine Keeps.put ?_ ?_ .. <;>
        first
        | exact Nat.le_refl _
        | exact Nat.le_succ _
        | with_reducible assumption)

theorem State.setRegion_keeps {s0 s : State} (h : Keeps s0 s) (r : Nat) (x : Region) :
    Keeps s0 (s.setRegion r x) := by
  unfold State.setRegion
  repeat' first
    | with_reducible assumption
    | (with_reducible refine Keeps.put ?_ ?_ .. <;>
        first
        | exact Nat.le_refl _
        | exact Nat.le_succ _
        | with_reducible assumption)

theorem State.rset_keeps {s0 s : State} (h : Keeps s0 s) (r : Nat) (f : Fld) (v : Nat) :
    Keeps s0 (s.rset r f v) := by
  unfold State.rset
  repeat' first
    | with_reducible assumption
    | with_reducible apply State.setRegion_keeps
    | with_reducible apply State.set_keeps
    | (with_reducible refine Keeps.put ?_ ?_ .. <;>
        first
        | exact Nat.le_refl _
        | exact Nat.le_succ _
        | with_reducible assumption
        | with_reducible apply State.setRegion_keeps
        | with_reducible apply State.set_keeps)
    | dsimp only

theorem State.rcount_keeps {s0 s : State} (h : Keeps s0 s) (r : Nat) (f : Fld) (n : Nat) :
    Keeps s0 (s.rcount r f n) := by
  unfold State.rcount
  repeat' first
    | with_reducible assumption
    | with_reducible apply State.rset_keeps

theorem State.setUnit_keeps {s0 s : State} (h : Keeps s0 s) (u : Nat) (m : MeshUnit) :
    Keeps s0 (s.setUnit u m) := by
  unfold State.setUnit
  repeat' first
    | with_reducible assumption
    | with_reducible apply State.setBlock_keeps
    | (with_reducible refine Keeps.put ?_ ?_ .. <;>
        first
        | exact Nat.le_refl _
        | exact Nat.le_succ _
        | with_reducible assumption
        | with_reducible apply State.setBlock_keeps)
    | with_reducible refine Keeps.ite ?_ ?_
    | split
    | dsimp only

theorem State.sendFrom_keeps {s0 s : State} (h : Keeps s0 s) (u : Nat) (h : Held) :
    Keeps s0 (s.sendFrom u h) := by
  unfold State.sendFrom
  repeat' first
    | with_reducible assumption
    | with_reducible apply State.setUnit_keeps
    | (with_reducible refine Keeps.put ?_ ?_ .. <;>
        first
        | exact Nat.le_refl _
        | exact Nat.le_succ _
        | with_reducible assumption
        | with_reducible apply State.setUnit_keeps)
    | dsimp only

theorem State.chipRecord_keeps {s0 s : State} (h : Keeps s0 s) (e : Ev) :
    Keeps s0 (s.chipRecord e) := by
  unfold State.chipRecord
  repeat' first
    | with_reducible assumption
    | with_reducible apply State.corrected_keeps
    | (with_reducible refine Keeps.put ?_ ?_ .. <;>
        first
        | exact Nat.le_refl _
        | exact Nat.le_succ _
        | with_reducible assumption
        | with_reducible apply State.corrected_keeps)
    | with_reducible refine Keeps.ite ?_ ?_
    | split
    | dsimp only

theorem State.raise_keeps {s0 s : State} (h : Keeps s0 s) (level place : Nat) (e : Ev) :
    Keeps s0 (s.raise level place e) := by
  unfold State.raise
  repeat' first
    | with_reducible assumption
    | with_reducible apply State.chipRecord_keeps
    | (with_reducible refine Keeps.put ?_ ?_ .. <;>
        first
        | exact Nat.le_refl _
        | exact Nat.le_succ _
        | with_reducible assumption
        | with_reducible apply State.chipRecord_keeps)

theorem State.raiseRegion_keeps {s0 s : State} (h : Keeps s0 s) (r : Nat) (e : Ev) :
    Keeps s0 (s.raiseRegion r e) := by
  unfold State.raiseRegion
  repeat' first
    | with_reducible assumption
    | with_reducible apply State.chipRecord_keeps
    | (with_reducible refine Keeps.put ?_ ?_ .. <;>
        first
        | exact Nat.le_refl _
        | exact Nat.le_succ _
        | with_reducible assumption
        | with_reducible apply State.chipRecord_keeps)

theorem State.drainRegion_keeps {s0 s : State} (h : Keeps s0 s) (r : Nat) :
    Keeps s0 (s.drainRegion r) := by
  unfold State.drainRegion
  repeat' first
    | with_reducible assumption
    | with_reducible apply State.setRegion_keeps
    | (with_reducible refine Keeps.put ?_ ?_ .. <;>
        first
        | exact Nat.le_refl _
        | exact Nat.le_succ _
        | with_reducible assumption
        | with_reducible apply State.setRegion_keeps)
    | with_reducible refine Keeps.ite ?_ ?_
    | split
    | dsimp only

theorem State.drainEv_keeps {s0 s : State} (h : Keeps s0 s) (p : Nat) :
    Keeps s0 (s.drainEv p) := by
  unfold State.drainEv
  repeat' first
    | with_reducible assumption
    | with_reducible apply State.setBlock_keeps
    | with_reducible apply State.count_keeps
    | with_reducible apply State.setRegion_keeps
    | with_reducible apply State.drainRegion_keeps
    | (with_reducible refine Keeps.put ?_ ?_ .. <;>
        first
        | exact Nat.le_refl _
        | exact Nat.le_succ _
        | with_reducible assumption
        | with_reducible apply State.setBlock_keeps
        | with_reducible apply State.count_keeps
        | with_reducible apply State.setRegion_keeps
        | with_reducible apply State.drainRegion_keeps)
    | with_reducible refine Keeps.ite ?_ ?_
    | split
    | dsimp only

theorem State.goTo_keeps {s0 s : State} (h : Keeps s0 s) (d : Nat) (hd : d ≤ 6) : Keeps s0 (s.goTo d) := by
  unfold State.goTo
  split
  · exact h
  · refine State.set_keeps (State.set_keeps ?_ _ _) _ _
    exact h.trans ⟨rfl, rfl, Nat.le_refl _, fun _ => hd, id, Nat.le_refl _, fun _ => Nat.le_refl _, fun _ m _ => m⟩

theorem State.setRmt_keeps {s0 s : State} (h : Keeps s0 s) (p : Nat) (x : Rmt) :
    Keeps s0 (s.setRmt p x) := by
  unfold State.setRmt
  repeat' first
    | with_reducible assumption
    | (with_reducible refine Keeps.put ?_ ?_ .. <;>
        first
        | exact Nat.le_refl _
        | exact Nat.le_succ _
        | with_reducible assumption)

theorem State.onBlock_keeps {s0 s : State} (h : Keeps s0 s) (p : Nat) (f : Block → Env → Block) :
    Keeps s0 (s.onBlock p f) := by
  unfold State.onBlock
  repeat' first
    | with_reducible assumption
    | with_reducible apply State.setBlock_keeps
    | with_reducible apply State.drainEv_keeps
    | (with_reducible refine Keeps.put ?_ ?_ .. <;>
        first
        | exact Nat.le_refl _
        | exact Nat.le_succ _
        | with_reducible assumption
        | with_reducible apply State.setBlock_keeps
        | with_reducible apply State.drainEv_keeps)
    | dsimp only

theorem State.onBlocks_keeps {s0 s : State} (h : Keeps s0 s) (f : Block → Env → Block) (ps : List Nat) :
    Keeps s0 (s.onBlocks f ps) := by
  unfold State.onBlocks
  repeat' first
    | with_reducible assumption
    | with_reducible apply State.onBlock_keeps
    | (with_reducible refine Keeps.foldl ?_ (fun t x k => ?_))
    | dsimp only

theorem State.setPort_keeps {s0 s : State} (h : Keeps s0 s) (i : Nat) (x : Port) :
    Keeps s0 (s.setPort i x) := by
  unfold State.setPort
  repeat' first
    | with_reducible assumption
    | (with_reducible refine Keeps.put ?_ ?_ .. <;>
        first
        | exact Nat.le_refl _
        | exact Nat.le_succ _
        | with_reducible assumption)

theorem State.book_keeps {s0 s : State} (h : Keeps s0 s) (kind place info : Nat) : Keeps s0 (s.book kind place info) := by
  refine Keeps.of_book h fun x m p => List.mem_append_left _ ?_
  split
  · exact studRewrite_permanent p m
  · exact m

theorem State.setDispatch_keeps {s0 s : State} (h : Keeps s0 s) (d : Dispatch) :
    Keeps s0 (s.setDispatch d) := by
  unfold State.setDispatch
  repeat' first
    | with_reducible assumption
    | (with_reducible refine Keeps.put ?_ ?_ .. <;>
        first
        | exact Nat.le_refl _
        | exact Nat.le_succ _
        | with_reducible assumption)

theorem State.doneFloor_keeps {s0 s : State} (h : Keeps s0 s) (r : Nat) :
    Keeps s0 (s.doneFloor r) := by
  unfold State.doneFloor
  repeat' first
    | with_reducible assumption
    | with_reducible apply State.set_keeps
    | (with_reducible refine Keeps.put ?_ ?_ .. <;>
        first
        | exact Nat.le_refl _
        | exact Nat.le_succ _
        | with_reducible assumption
        | with_reducible apply State.set_keeps)
    | with_reducible refine Keeps.ite ?_ ?_
    | split
    | dsimp only

theorem State.finish_keeps {s0 s : State} (h : Keeps s0 s) (w : Work) (status detail stride ident : Nat) :
    Keeps s0 (s.finish w status detail stride ident) := by
  unfold State.finish
  repeat' first
    | with_reducible assumption
    | with_reducible apply State.setDispatch_keeps
    | with_reducible apply State.doneFloor_keeps
    | (with_reducible refine Keeps.put ?_ ?_ .. <;>
        first
        | exact Nat.le_refl _
        | exact Nat.le_succ _
        | with_reducible assumption
        | with_reducible apply State.setDispatch_keeps
        | with_reducible apply State.doneFloor_keeps)
    | dsimp only
    | dsimp only [id]

theorem State.reply_keeps {s0 s : State} (h : Keeps s0 s) (w : Work) (status stride : Nat) :
    Keeps s0 (s.reply w status stride) := by
  unfold State.reply
  repeat' first
    | with_reducible assumption
    | with_reducible apply State.finish_keeps

theorem State.setWork_keeps {s0 s : State} (h : Keeps s0 s) (w w' : Work) :
    Keeps s0 (s.setWork w w') := by
  unfold State.setWork
  repeat' first
    | with_reducible assumption
    | with_reducible apply State.setDispatch_keeps
    | (with_reducible refine Keeps.put ?_ ?_ .. <;>
        first
        | exact Nat.le_refl _
        | exact Nat.le_succ _
        | with_reducible assumption
        | with_reducible apply State.setDispatch_keeps)
    | with_reducible refine Keeps.ite ?_ ?_
    | split
    | dsimp only

theorem State.showJob_keeps {s0 s : State} (h : Keeps s0 s) :
    Keeps s0 (s.showJob ) := by
  unfold State.showJob
  repeat' first
    | with_reducible assumption
    | with_reducible apply State.set_keeps
    | (with_reducible refine Keeps.put ?_ ?_ .. <;>
        first
        | exact Nat.le_refl _
        | exact Nat.le_succ _
        | with_reducible assumption
        | with_reducible apply State.set_keeps)
    | with_reducible refine Keeps.ite ?_ ?_
    | split
    | dsimp only

theorem State.finishAll_keeps {s0 s : State} (h : Keeps s0 s) (ops : List Nat) (status : Nat) :
    Keeps s0 (s.finishAll ops status) := by
  unfold State.finishAll
  repeat' first
    | with_reducible assumption
    | with_reducible apply State.finish_keeps
    | (with_reducible refine Keeps.foldl ?_ (fun t x k => ?_))
    | dsimp only

theorem State.stopWork_keeps {s0 s : State} (h : Keeps s0 s) :
    Keeps s0 (s.stopWork ) := by
  unfold State.stopWork
  repeat' first
    | with_reducible assumption
    | (with_reducible refine Keeps.put ?_ ?_ .. <;>
        first
        | exact Nat.le_refl _
        | exact Nat.le_succ _
        | with_reducible assumption)
    | with_reducible refine Keeps.ite ?_ ?_
    | split
    | dsimp only

theorem State.dropJob_keeps {s0 s : State} (h : Keeps s0 s) :
    Keeps s0 (s.dropJob ) := by
  unfold State.dropJob
  repeat' first
    | with_reducible assumption
    | with_reducible apply State.setDispatch_keeps
    | with_reducible apply State.showJob_keeps
    | with_reducible apply State.stopWork_keeps
    | (with_reducible refine Keeps.put ?_ ?_ .. <;>
        first
        | exact Nat.le_refl _
        | exact Nat.le_succ _
        | with_reducible assumption
        | with_reducible apply State.setDispatch_keeps
        | with_reducible apply State.showJob_keeps
        | with_reducible apply State.stopWork_keeps)
    | dsimp only

theorem State.closeJob_keeps {s0 s : State} (h : Keeps s0 s) (status code lblock : Nat) :
    Keeps s0 (s.closeJob status code lblock) := by
  unfold State.closeJob
  repeat' first
    | with_reducible assumption
    | with_reducible apply State.finish_keeps
    | with_reducible apply State.finishAll_keeps
    | with_reducible apply State.dropJob_keeps
    | (with_reducible refine Keeps.put ?_ ?_ .. <;>
        first
        | exact Nat.le_refl _
        | exact Nat.le_succ _
        | with_reducible assumption
        | with_reducible apply State.finish_keeps
        | with_reducible apply State.finishAll_keeps
        | with_reducible apply State.dropJob_keeps)
    | with_reducible refine Keeps.ite ?_ ?_
    | split
    | dsimp only

theorem State.endJob_keeps {s0 s : State} (h : Keeps s0 s) (status code lblock : Nat) :
    Keeps s0 (s.endJob status code lblock) := by
  unfold State.endJob
  repeat' first
    | with_reducible assumption
    | decide
    | with_reducible apply State.closeJob_keeps
    | with_reducible apply State.goTo_keeps
    | with_reducible refine Keeps.ite ?_ ?_
    | split
    | dsimp only

theorem State.failJob_keeps {s0 s : State} (h : Keeps s0 s) (status code : Nat) :
    Keeps s0 (s.failJob status code) := by
  unfold State.failJob
  repeat' first
    | with_reducible assumption
    | (with_reducible refine Keeps.put ?_ ?_ .. <;>
        first
        | exact Nat.le_refl _
        | exact Nat.le_succ _
        | with_reducible assumption)
    | with_reducible refine Keeps.ite ?_ ?_
    | split
    | dsimp only

theorem State.forgetJob_keeps {s0 s : State} (h : Keeps s0 s) :
    Keeps s0 (s.forgetJob ) := by
  unfold State.forgetJob
  repeat' first
    | with_reducible assumption
    | with_reducible apply State.setDispatch_keeps
    | with_reducible apply State.stopWork_keeps
    | (with_reducible refine Keeps.put ?_ ?_ .. <;>
        first
        | exact Nat.le_refl _
        | exact Nat.le_succ _
        | with_reducible assumption
        | with_reducible apply State.setDispatch_keeps
        | with_reducible apply State.stopWork_keeps)

theorem State.admitAnswer_keeps {s0 s : State} (h : Keeps s0 s) (ring seq status : Nat) :
    Keeps s0 (s.admitAnswer ring seq status) := by
  unfold State.admitAnswer
  repeat' first
    | with_reducible assumption
    | with_reducible apply State.setDispatch_keeps
    | with_reducible apply State.finish_keeps
    | (with_reducible refine Keeps.put ?_ ?_ .. <;>
        first
        | exact Nat.le_refl _
        | exact Nat.le_succ _
        | with_reducible assumption
        | with_reducible apply State.setDispatch_keeps
        | with_reducible apply State.finish_keeps)
    | with_reducible refine Keeps.ite ?_ ?_
    | split
    | dsimp only

theorem State.takeGait_keeps {s0 s : State} (h : Keeps s0 s) (gait : Nat) :
    Keeps s0 (s.takeGait gait) := by
  unfold State.takeGait
  repeat' first
    | with_reducible assumption
    | with_reducible apply State.set_keeps

theorem State.emit_keeps {s0 s : State} (h : Keeps s0 s) (i : Nat) (bytes : List Byte) :
    Keeps s0 (s.emit i bytes) := by
  unfold State.emit
  repeat' first
    | with_reducible assumption
    | (with_reducible refine Keeps.put ?_ ?_ .. <;>
        first
        | exact Nat.le_refl _
        | exact Nat.le_succ _
        | with_reducible assumption)

theorem State.fabSend_keeps {s0 s : State} (h : Keeps s0 s) (i peer type stamp ident : Nat) (payload : List Byte) :
    Keeps s0 (s.fabSend i peer type stamp ident payload) := by
  unfold State.fabSend
  repeat' first
    | with_reducible assumption
    | with_reducible apply State.setPort_keeps
    | with_reducible apply State.emit_keeps
    | (with_reducible refine Keeps.put ?_ ?_ .. <;>
        first
        | exact Nat.le_refl _
        | exact Nat.le_succ _
        | with_reducible assumption
        | with_reducible apply State.setPort_keeps
        | with_reducible apply State.emit_keeps)
    | with_reducible refine Keeps.ite ?_ ?_
    | split
    | dsimp only
    | dsimp only [id]

theorem State.fabAck_keeps {s0 s : State} (h : Keeps s0 s) (i peer type : Nat) :
    Keeps s0 (s.fabAck i peer type) := by
  unfold State.fabAck
  repeat' first
    | with_reducible assumption
    | with_reducible apply State.emit_keeps
    | with_reducible refine Keeps.ite ?_ ?_
    | split
    | dsimp only

theorem State.yokeSend_keeps {s0 s : State} (h : Keeps s0 s) (code : Nat) (words : List Nat) (bytes : List Byte) :
    Keeps s0 (s.yokeSend code words bytes) := by
  unfold State.yokeSend
  repeat' first
    | with_reducible assumption
    | with_reducible apply State.fabSend_keeps
    | (with_reducible refine Keeps.foldl ?_ (fun t x k => ?_))
    | (with_reducible refine Keeps.put ?_ ?_ .. <;>
        first
        | exact Nat.le_refl _
        | exact Nat.le_succ _
        | with_reducible assumption
        | with_reducible apply State.fabSend_keeps
        | (with_reducible refine Keeps.foldl ?_ (fun t x k => ?_)))
    | with_reducible refine Keeps.ite ?_ ?_
    | split
    | dsimp only

theorem State.say_keeps {s0 s : State} (h : Keeps s0 s) (what stride : Nat) :
    Keeps s0 (s.say what stride) := by
  unfold State.say
  repeat' first
    | with_reducible assumption
    | with_reducible apply State.yokeSend_keeps

theorem State.sayDown_keeps {s0 s : State} (h : Keeps s0 s) :
    Keeps s0 (s.sayDown ) := by
  unfold State.sayDown
  repeat' first
    | with_reducible assumption
    | with_reducible apply State.say_keeps
    | with_reducible refine Keeps.ite ?_ ?_
    | split
    | dsimp only

theorem State.forwardLine_keeps {s0 s : State} (h : Keeps s0 s) (tier a : Nat) :
    Keeps s0 (s.forwardLine tier a) := by
  unfold State.forwardLine
  repeat' first
    | with_reducible assumption
    | with_reducible apply State.yokeSend_keeps
    | (with_reducible refine Keeps.put ?_ ?_ .. <;>
        first
        | exact Nat.le_refl _
        | exact Nat.le_succ _
        | with_reducible assumption
        | with_reducible apply State.yokeSend_keeps)
    | with_reducible refine Keeps.ite ?_ ?_
    | split
    | dsimp only

theorem State.setTiers_keeps {s0 s : State} (h : Keeps s0 s) (t : Tiers) (w : s.memoryWf → t.wf) : Keeps s0 (s.setTiers t) :=
  Keeps.foldl (Keeps.of_dram h w) fun _ _ k => State.forwardLine_keeps k _ _

end Sys2Proof.Machine
end

