-- ==== Sys2Proof/Laws/KeepsMesh.lean ====
section
/-! SUPPORT. Every operation on the mesh, the grooms and the leases keeps what Keeps names; one lemma for each. -/

namespace Sys2Proof.Machine

set_option linter.unusedTactic false
set_option linter.unreachableTactic false

theorem State.pass_keeps {s0 s : State} (h : Keeps s0 s) (p out : Nat) (k : Pkt) :
    Keeps s0 (s.pass p out k) := by
  unfold State.pass
  repeat' first
    | with_reducible assumption
    | with_reducible apply State.onBlock_keeps
    | with_reducible apply State.count_keeps
    | with_reducible apply State.setUnit_keeps
    | with_reducible apply State.setBlock_keeps
    | (with_reducible refine Keeps.foldl ?_ (fun t x k => ?_))
    | (with_reducible refine Keeps.put ?_ ?_ .. <;>
        first
        | exact Nat.le_refl _
        | exact Nat.le_succ _
        | with_reducible assumption
        | with_reducible apply State.onBlock_keeps
        | with_reducible apply State.count_keeps
        | with_reducible apply State.setUnit_keeps
        | with_reducible apply State.setBlock_keeps
        | (with_reducible refine Keeps.foldl ?_ (fun t x k => ?_)))
    | with_reducible refine Keeps.ite ?_ ?_
    | split
    | dsimp only

theorem State.mark_keeps {s0 s : State} (h : Keeps s0 s) (p out : Nat) (k : Pkt) : Keeps s0 (s.mark p out k).1 := by
  unfold State.mark
  dsimp only
  repeat' split
  all_goals dsimp only
  all_goals first | exact State.onBlock_keeps h _ _ | exact h

theorem State.switch_keeps {s0 s : State} (h : Keeps s0 s) (p out : Nat) (k : Pkt) :
    Keeps s0 (s.switch p out k) := by
  unfold State.switch
  repeat' first
    | with_reducible assumption
    | with_reducible apply State.mark_keeps
    | with_reducible apply State.pass_keeps
    | (refine Keeps.of_fst ‹_ = (_, _)› ?_)
    | (refine Keeps.of_snd ‹_ = (_, _)› ?_)
    | with_reducible refine Keeps.ite ?_ ?_
    | split
    | dsimp only

theorem State.unbuf_keeps {s0 s : State} (h : Keeps s0 s) (p : Nat) (i : InBuf) :
    Keeps s0 (s.unbuf p i) := by
  unfold State.unbuf
  repeat' first
    | with_reducible assumption
    | with_reducible apply State.setBlock_keeps
    | (with_reducible refine Keeps.put ?_ ?_ .. <;>
        first
        | exact Nat.le_refl _
        | exact Nat.le_succ _
        | with_reducible assumption
        | with_reducible apply State.setBlock_keeps)
    | dsimp only

theorem State.rebuf_keeps {s0 s : State} (h : Keeps s0 s) (p : Nat) (i j : InBuf) :
    Keeps s0 (s.rebuf p i j) := by
  unfold State.rebuf
  repeat' first
    | with_reducible assumption
    | with_reducible apply State.setBlock_keeps
    | (with_reducible refine Keeps.put ?_ ?_ .. <;>
        first
        | exact Nat.le_refl _
        | exact Nat.le_succ _
        | with_reducible assumption
        | with_reducible apply State.setBlock_keeps)
    | with_reducible refine Keeps.ite ?_ ?_
    | split
    | dsimp only

theorem State.failRouter_keeps {s0 s : State} (h : Keeps s0 s) (p code : Nat) :
    Keeps s0 (s.failRouter p code) := by
  unfold State.failRouter
  repeat' first
    | with_reducible assumption
    | with_reducible apply State.onBlock_keeps
    | with_reducible apply State.set_keeps
    | with_reducible apply State.count_keeps
    | (with_reducible refine Keeps.put ?_ ?_ .. <;>
        first
        | exact Nat.le_refl _
        | exact Nat.le_succ _
        | with_reducible assumption
        | with_reducible apply State.onBlock_keeps
        | with_reducible apply State.set_keeps
        | with_reducible apply State.count_keeps)
    | with_reducible refine Keeps.ite ?_ ?_
    | split
    | dsimp only

theorem State.keepFlit_keeps {s0 s : State} (h : Keeps s0 s) (p port : Nat) (i : InBuf) :
    Keeps s0 (s.keepFlit p port i) := by
  unfold State.keepFlit
  repeat' first
    | with_reducible assumption
    | with_reducible apply State.setBlock_keeps
    | (with_reducible refine Keeps.put ?_ ?_ .. <;>
        first
        | exact Nat.le_refl _
        | exact Nat.le_succ _
        | with_reducible assumption
        | with_reducible apply State.setBlock_keeps)
    | with_reducible refine Keeps.ite ?_ ?_
    | split
    | dsimp only

theorem State.flitReceive_keeps {s0 s : State} (h : Keeps s0 s) (p port vc hw : Nat) :
    Keeps s0 (s.flitReceive p port vc hw) := by
  unfold State.flitReceive
  repeat' first
    | with_reducible assumption
    | with_reducible apply State.onBlock_keeps
    | with_reducible apply State.failRouter_keeps
    | with_reducible apply State.keepFlit_keeps
    | with_reducible apply State.count_keeps
    | with_reducible apply State.rebuf_keeps
    | (with_reducible refine Keeps.put ?_ ?_ .. <;>
        first
        | exact Nat.le_refl _
        | exact Nat.le_succ _
        | with_reducible assumption
        | with_reducible apply State.onBlock_keeps
        | with_reducible apply State.failRouter_keeps
        | with_reducible apply State.keepFlit_keeps
        | with_reducible apply State.count_keeps
        | with_reducible apply State.rebuf_keeps)
    | with_reducible refine Keeps.ite ?_ ?_
    | split
    | dsimp only

theorem State.bypassDrop_keeps {s0 s : State} (h : Keeps s0 s) (p : Nat) (k : Pkt) :
    Keeps s0 (s.bypassDrop p k) := by
  unfold State.bypassDrop
  repeat' first
    | with_reducible assumption
    | with_reducible apply State.onBlock_keeps
    | with_reducible apply State.count_keeps
    | with_reducible apply State.setUnit_keeps
    | (with_reducible refine Keeps.put ?_ ?_ .. <;>
        first
        | exact Nat.le_refl _
        | exact Nat.le_succ _
        | with_reducible assumption
        | with_reducible apply State.onBlock_keeps
        | with_reducible apply State.count_keeps
        | with_reducible apply State.setUnit_keeps)
    | with_reducible refine Keeps.ite ?_ ?_
    | split
    | dsimp only

theorem State.straightDrop_keeps {s0 s : State} (h : Keeps s0 s) (p : Nat) :
    Keeps s0 (s.straightDrop p) := by
  unfold State.straightDrop
  repeat' first
    | with_reducible assumption
    | with_reducible apply State.onBlock_keeps
    | with_reducible apply State.count_keeps
    | dsimp only

theorem State.crcDrop_keeps {s0 s : State} (h : Keeps s0 s) (p : Nat) (i : InBuf) :
    Keeps s0 (s.crcDrop p i) := by
  unfold State.crcDrop
  repeat' first
    | with_reducible assumption
    | with_reducible apply State.unbuf_keeps
    | with_reducible apply State.onBlock_keeps
    | with_reducible apply State.count_keeps
    | dsimp only

theorem State.discard66_keeps {s0 s : State} (h : Keeps s0 s) (p : Nat) (i : InBuf) :
    Keeps s0 (s.discard66 p i) := by
  unfold State.discard66
  repeat' first
    | with_reducible assumption
    | with_reducible apply State.unbuf_keeps
    | with_reducible apply State.onBlock_keeps
    | with_reducible apply State.count_keeps
    | with_reducible apply State.raiseRegion_keeps
    | (with_reducible refine Keeps.put ?_ ?_ .. <;>
        first
        | exact Nat.le_refl _
        | exact Nat.le_succ _
        | with_reducible assumption
        | with_reducible apply State.unbuf_keeps
        | with_reducible apply State.onBlock_keeps
        | with_reducible apply State.count_keeps
        | with_reducible apply State.raiseRegion_keeps)
    | with_reducible refine Keeps.ite ?_ ?_
    | split
    | dsimp only
    | dsimp only [id]

theorem State.openBranches_keeps {s0 s : State} (h : Keeps s0 s) (p : Nat) (i : InBuf) : Keeps s0 (s.openBranches p i).1 := by
  unfold State.openBranches
  dsimp only
  split
  · dsimp only
    split
    · exact State.bypassDrop_keeps h _ _
    · exact h
  · split
    · dsimp only
      split
      · exact h
      · exact State.straightDrop_keeps h _
    · exact h

theorem State.branches_keeps (p : Nat) (k : Pkt) : ∀ (os : List Nat) {s0 s : State}, Keeps s0 s →
    Keeps s0 (s.branches p k os).1
  | [], _, _, h => h
  | o :: os, s0, s, h => by
    unfold State.branches
    dsimp only
    refine State.branches_keeps p k os ?_
    split
    · exact State.pass_keeps (State.mark_keeps h _ _ _) _ _ _
    · exact h

theorem State.multicastArrive_keeps {s0 s : State} (h : Keeps s0 s) (p : Nat) (i : InBuf) :
    Keeps s0 (s.multicastArrive p i) := by
  unfold State.multicastArrive
  repeat' first
    | with_reducible assumption
    | with_reducible apply State.openBranches_keeps
    | with_reducible apply State.unbuf_keeps
    | with_reducible apply State.branches_keeps
    | with_reducible apply State.onBlock_keeps
    | with_reducible apply State.count_keeps
    | (refine Keeps.of_fst ‹_ = (_, _)› ?_)
    | (refine Keeps.of_snd ‹_ = (_, _)› ?_)
    | (with_reducible refine Keeps.put ?_ ?_ .. <;>
        first
        | exact Nat.le_refl _
        | exact Nat.le_succ _
        | with_reducible assumption
        | with_reducible apply State.openBranches_keeps
        | with_reducible apply State.unbuf_keeps
        | with_reducible apply State.branches_keeps
        | with_reducible apply State.onBlock_keeps
        | with_reducible apply State.count_keeps
        | (refine Keeps.of_fst ‹_ = (_, _)› ?_))
    | with_reducible refine Keeps.ite ?_ ?_
    | split
    | dsimp only

theorem State.branchSend_keeps {s0 s : State} (h : Keeps s0 s) (p vc out : Nat) :
    Keeps s0 (s.branchSend p vc out) := by
  unfold State.branchSend
  repeat' first
    | with_reducible assumption
    | with_reducible apply State.onBlock_keeps
    | with_reducible apply State.bypassDrop_keeps
    | with_reducible apply State.switch_keeps
    | (with_reducible refine Keeps.put ?_ ?_ .. <;>
        first
        | exact Nat.le_refl _
        | exact Nat.le_succ _
        | with_reducible assumption
        | with_reducible apply State.onBlock_keeps
        | with_reducible apply State.bypassDrop_keeps
        | with_reducible apply State.switch_keeps)
    | with_reducible refine Keeps.ite ?_ ?_
    | split
    | dsimp only

theorem State.mergeInto_keeps {s0 s : State} (h : Keeps s0 s) (p : Nat) (e : MergeEntry) (k : Pkt) :
    Keeps s0 (s.mergeInto p e k) := by
  unfold State.mergeInto
  repeat' first
    | with_reducible assumption
    | with_reducible apply State.onBlock_keeps
    | with_reducible apply State.count_keeps
    | (with_reducible refine Keeps.put ?_ ?_ .. <;>
        first
        | exact Nat.le_refl _
        | exact Nat.le_succ _
        | with_reducible assumption
        | with_reducible apply State.onBlock_keeps
        | with_reducible apply State.count_keeps)
    | with_reducible refine Keeps.ite ?_ ?_
    | split
    | dsimp only

theorem State.unicastArrive_keeps {s0 s : State} (h : Keeps s0 s) (p : Nat) (i : InBuf) :
    Keeps s0 (s.unicastArrive p i) := by
  unfold State.unicastArrive
  repeat' first
    | with_reducible assumption
    | with_reducible apply State.unbuf_keeps
    | with_reducible apply State.straightDrop_keeps
    | with_reducible apply State.discard66_keeps
    | with_reducible apply State.bypassDrop_keeps
    | with_reducible apply State.mergeInto_keeps
    | with_reducible apply State.switch_keeps
    | with_reducible apply State.onBlock_keeps
    | (with_reducible refine Keeps.put ?_ ?_ .. <;>
        first
        | exact Nat.le_refl _
        | exact Nat.le_succ _
        | with_reducible assumption
        | with_reducible apply State.unbuf_keeps
        | with_reducible apply State.straightDrop_keeps
        | with_reducible apply State.discard66_keeps
        | with_reducible apply State.bypassDrop_keeps
        | with_reducible apply State.mergeInto_keeps
        | with_reducible apply State.switch_keeps
        | with_reducible apply State.onBlock_keeps)
    | with_reducible refine Keeps.ite ?_ ?_
    | split
    | dsimp only

theorem State.headerArrive_keeps {s0 s : State} (h : Keeps s0 s) (p port vc : Nat) (crcOk : Bool) :
    Keeps s0 (s.headerArrive p port vc crcOk) := by
  unfold State.headerArrive
  repeat' first
    | with_reducible assumption
    | with_reducible apply State.onBlock_keeps
    | with_reducible apply State.crcDrop_keeps
    | with_reducible apply State.multicastArrive_keeps
    | with_reducible apply State.unicastArrive_keeps
    | (with_reducible refine Keeps.put ?_ ?_ .. <;>
        first
        | exact Nat.le_refl _
        | exact Nat.le_succ _
        | with_reducible assumption
        | with_reducible apply State.onBlock_keeps
        | with_reducible apply State.crcDrop_keeps
        | with_reducible apply State.multicastArrive_keeps
        | with_reducible apply State.unicastArrive_keeps)
    | with_reducible refine Keeps.ite ?_ ?_
    | split
    | dsimp only

theorem State.gaitNext_keeps {s0 s : State} (h : Keeps s0 s) (p : Nat) :
    Keeps s0 (s.gaitNext p) := by
  unfold State.gaitNext
  repeat' first
    | with_reducible assumption
    | with_reducible apply State.onBlock_keeps
    | (with_reducible refine Keeps.put ?_ ?_ .. <;>
        first
        | exact Nat.le_refl _
        | exact Nat.le_succ _
        | with_reducible assumption
        | with_reducible apply State.onBlock_keeps)
    | dsimp only

theorem State.gaitServed_keeps {s0 s : State} (h : Keeps s0 s) (p : Nat) (g : GaitEntry) (n : Nat) :
    Keeps s0 (s.gaitServed p g n) := by
  unfold State.gaitServed
  repeat' first
    | with_reducible assumption
    | with_reducible apply State.count_keeps
    | with_reducible apply State.gaitNext_keeps
    | with_reducible apply State.onBlock_keeps
    | (with_reducible refine Keeps.put ?_ ?_ .. <;>
        first
        | exact Nat.le_refl _
        | exact Nat.le_succ _
        | with_reducible assumption
        | with_reducible apply State.count_keeps
        | with_reducible apply State.gaitNext_keeps
        | with_reducible apply State.onBlock_keeps)
    | with_reducible refine Keeps.ite ?_ ?_
    | split
    | dsimp only

theorem State.mergeLeave_keeps {s0 s : State} (h : Keeps s0 s) (p i : Nat) :
    Keeps s0 (s.mergeLeave p i) := by
  unfold State.mergeLeave
  repeat' first
    | with_reducible assumption
    | with_reducible apply State.onBlock_keeps
    | with_reducible apply State.gaitNext_keeps
    | with_reducible apply State.bypassDrop_keeps
    | with_reducible apply State.switch_keeps
    | (with_reducible refine Keeps.put ?_ ?_ .. <;>
        first
        | exact Nat.le_refl _
        | exact Nat.le_succ _
        | with_reducible assumption
        | with_reducible apply State.onBlock_keeps
        | with_reducible apply State.gaitNext_keeps
        | with_reducible apply State.bypassDrop_keeps
        | with_reducible apply State.switch_keeps)
    | with_reducible refine Keeps.ite ?_ ?_
    | split
    | dsimp only

theorem State.gaitMerge_keeps {s0 s : State} (h : Keeps s0 s) (p : Nat) (g : GaitEntry) (tag : Nat) (crcOk : Bool) :
    Keeps s0 (s.gaitMerge p g tag crcOk) := by
  unfold State.gaitMerge
  repeat' first
    | with_reducible assumption
    | with_reducible apply State.crcDrop_keeps
    | with_reducible apply State.discard66_keeps
    | with_reducible apply State.unbuf_keeps
    | with_reducible apply State.mergeInto_keeps
    | with_reducible apply State.onBlock_keeps
    | with_reducible apply State.count_keeps
    | (with_reducible refine Keeps.put ?_ ?_ .. <;>
        first
        | exact Nat.le_refl _
        | exact Nat.le_succ _
        | with_reducible assumption
        | with_reducible apply State.crcDrop_keeps
        | with_reducible apply State.discard66_keeps
        | with_reducible apply State.unbuf_keeps
        | with_reducible apply State.mergeInto_keeps
        | with_reducible apply State.onBlock_keeps
        | with_reducible apply State.count_keeps)
    | with_reducible refine Keeps.ite ?_ ?_
    | split
    | dsimp only

theorem State.gaitBranch_keeps {s0 s : State} (h : Keeps s0 s) (p : Nat) (g : GaitEntry) (i : InBuf) :
    Keeps s0 (s.gaitBranch p g i) := by
  unfold State.gaitBranch
  repeat' first
    | with_reducible assumption
    | with_reducible apply State.unbuf_keeps
    | with_reducible apply State.rebuf_keeps
    | with_reducible apply State.gaitServed_keeps
    | with_reducible apply State.bypassDrop_keeps
    | with_reducible apply State.switch_keeps
    | (with_reducible refine Keeps.put ?_ ?_ .. <;>
        first
        | exact Nat.le_refl _
        | exact Nat.le_succ _
        | with_reducible assumption
        | with_reducible apply State.unbuf_keeps
        | with_reducible apply State.rebuf_keeps
        | with_reducible apply State.gaitServed_keeps
        | with_reducible apply State.bypassDrop_keeps
        | with_reducible apply State.switch_keeps)
    | with_reducible refine Keeps.ite ?_ ?_
    | split
    | dsimp only

theorem State.gaitServe_keeps {s0 s : State} (h : Keeps s0 s) (p : Nat) (crcOk : Bool) :
    Keeps s0 (s.gaitServe p crcOk) := by
  unfold State.gaitServe
  repeat' first
    | with_reducible assumption
    | with_reducible apply State.gaitMerge_keeps
    | with_reducible apply State.gaitNext_keeps
    | with_reducible apply State.crcDrop_keeps
    | with_reducible apply State.gaitServed_keeps
    | with_reducible apply State.gaitBranch_keeps
    | with_reducible apply State.discard66_keeps
    | with_reducible apply State.unbuf_keeps
    | with_reducible apply State.bypassDrop_keeps
    | with_reducible apply State.switch_keeps
    | (with_reducible refine Keeps.put ?_ ?_ .. <;>
        first
        | exact Nat.le_refl _
        | exact Nat.le_succ _
        | with_reducible assumption
        | with_reducible apply State.gaitMerge_keeps
        | with_reducible apply State.gaitNext_keeps
        | with_reducible apply State.crcDrop_keeps
        | with_reducible apply State.gaitServed_keeps
        | with_reducible apply State.gaitBranch_keeps
        | with_reducible apply State.discard66_keeps
        | with_reducible apply State.unbuf_keeps
        | with_reducible apply State.bypassDrop_keeps
        | with_reducible apply State.switch_keeps)
    | with_reducible refine Keeps.ite ?_ ?_
    | split
    | dsimp only

theorem State.injectFail_keeps {s0 s : State} (h : Keeps s0 s) (u : Nat) (h : Held) :
    Keeps s0 (s.injectFail u h) := by
  unfold State.injectFail
  repeat' first
    | with_reducible assumption
    | with_reducible apply State.setUnit_keeps
    | with_reducible apply State.onBlock_keeps
    | with_reducible apply State.count_keeps
    | with_reducible apply State.raise_keeps
    | (with_reducible refine Keeps.put ?_ ?_ .. <;>
        first
        | exact Nat.le_refl _
        | exact Nat.le_succ _
        | with_reducible assumption
        | with_reducible apply State.setUnit_keeps
        | with_reducible apply State.onBlock_keeps
        | with_reducible apply State.count_keeps
        | with_reducible apply State.raise_keeps)
    | with_reducible refine Keeps.ite ?_ ?_
    | split
    | dsimp only

theorem State.enterRouter_keeps {s0 s : State} (h : Keeps s0 s) (u : Nat) (k : Pkt) :
    Keeps s0 (s.enterRouter u k) := by
  unfold State.enterRouter
  repeat' first
    | with_reducible assumption
    | with_reducible apply State.onBlock_keeps
    | (with_reducible refine Keeps.put ?_ ?_ .. <;>
        first
        | exact Nat.le_refl _
        | exact Nat.le_succ _
        | with_reducible assumption
        | with_reducible apply State.onBlock_keeps)
    | with_reducible refine Keeps.ite ?_ ?_
    | split
    | dsimp only

theorem State.start_keeps {s0 s : State} (h : Keeps s0 s) (u : Nat) (m : MeshUnit) (h : Held) :
    Keeps s0 (s.start u m h) := by
  unfold State.start
  repeat' first
    | with_reducible assumption
    | with_reducible apply State.setUnit_keeps
    | with_reducible apply State.onBlock_keeps
    | with_reducible apply State.enterRouter_keeps
    | (with_reducible refine Keeps.put ?_ ?_ .. <;>
        first
        | exact Nat.le_refl _
        | exact Nat.le_succ _
        | with_reducible assumption
        | with_reducible apply State.setUnit_keeps
        | with_reducible apply State.onBlock_keeps
        | with_reducible apply State.enterRouter_keeps)
    | with_reducible refine Keeps.ite ?_ ?_
    | split
    | dsimp only
    | dsimp only [id]

theorem State.inject_keeps {s0 s : State} (h : Keeps s0 s) (u : Nat) (bad : Bool) :
    Keeps s0 (s.inject u bad) := by
  unfold State.inject
  repeat' first
    | with_reducible assumption
    | with_reducible apply State.setUnit_keeps
    | with_reducible apply State.onBlock_keeps
    | with_reducible apply State.injectFail_keeps
    | with_reducible apply State.start_keeps
    | (with_reducible refine Keeps.put ?_ ?_ .. <;>
        first
        | exact Nat.le_refl _
        | exact Nat.le_succ _
        | with_reducible assumption
        | with_reducible apply State.setUnit_keeps
        | with_reducible apply State.onBlock_keeps
        | with_reducible apply State.injectFail_keeps
        | with_reducible apply State.start_keeps)
    | with_reducible refine Keeps.ite ?_ ?_
    | split
    | dsimp only

theorem State.resendAll_keeps {s0 s : State} (h : Keeps s0 s) (u : Nat) (hs : List Held) :
    Keeps s0 (s.resendAll u hs) := by
  unfold State.resendAll
  repeat' first
    | with_reducible assumption
    | with_reducible apply State.setUnit_keeps
    | with_reducible apply State.onBlock_keeps
    | with_reducible apply State.count_keeps
    | (with_reducible refine Keeps.put ?_ ?_ .. <;>
        first
        | exact Nat.le_refl _
        | exact Nat.le_succ _
        | with_reducible assumption
        | with_reducible apply State.setUnit_keeps
        | with_reducible apply State.onBlock_keeps
        | with_reducible apply State.count_keeps)
    | with_reducible refine Keeps.ite ?_ ?_
    | split
    | dsimp only
    | dsimp only [id]

theorem State.packetAccept_keeps {s0 s : State} (h : Keeps s0 s) (u : Nat) :
    Keeps s0 (s.packetAccept u) := by
  unfold State.packetAccept
  repeat' first
    | with_reducible assumption
    | with_reducible apply State.setUnit_keeps
    | with_reducible apply State.onBlock_keeps
    | (with_reducible refine Keeps.put ?_ ?_ .. <;>
        first
        | exact Nat.le_refl _
        | exact Nat.le_succ _
        | with_reducible assumption
        | with_reducible apply State.setUnit_keeps
        | with_reducible apply State.onBlock_keeps)
    | with_reducible refine Keeps.ite ?_ ?_
    | split
    | dsimp only

theorem State.ackSend_keeps {s0 s : State} (h : Keeps s0 s) (u peer vc : Nat) :
    Keeps s0 (s.ackSend u peer vc) := by
  unfold State.ackSend
  repeat' first
    | with_reducible assumption
    | with_reducible apply State.setUnit_keeps

theorem State.onPackhorse_keeps {s0 s : State} (h : Keeps s0 s) (p : Nat) (f : Block → Env → Outside → Block × Tiers)
    (w : ∀ b env (o : Outside), o.tiers.wf → (f b env o).2.wf) : Keeps s0 (s.onPackhorse p f) := by
  unfold State.onPackhorse
  have k := fun m : s.memoryWf => w (s.block p) (s.env p) s.outside (State.tiers_wf m)
  revert k
  generalize f (s.block p) (s.env p) s.outside = x
  obtain ⟨b, t⟩ := x
  intro k
  dsimp only
  have k1 : Keeps s0 { s with freeCtr := s.freeCtr + 1 } := h.upd rfl rfl (Nat.le_succ _) rfl rfl rfl rfl rfl
  refine State.drainEv_keeps (State.setBlock_keeps ?_ _ _) _
  split
  · exact State.setTiers_keeps k1 _ fun m => k m
  · exact k1

theorem State.acked_keeps {s0 s : State} (h : Keeps s0 s) (u : Nat) (h : Held) (status gen : Nat) :
    Keeps s0 (s.acked u h status gen) := by
  unfold State.acked
  repeat' first
    | with_reducible assumption
    | with_reducible apply State.admitAnswer_keeps
    | with_reducible apply State.onBlock_keeps
    | with_reducible apply State.answer_keeps
    | with_reducible apply State.onPackhorse_keeps
    | (intro w; exact Tiers.putLines_wf (State.tiers_wf w) _ _ _)
    | (intro w; exact Tiers.putLine_wf (State.tiers_wf w) _ _ _)
    | (intro b env o w; exact Block.jobReply_wf w _ _ _ _ _ _)
    | (with_reducible refine Keeps.put ?_ ?_ .. <;>
        first
        | exact Nat.le_refl _
        | exact Nat.le_succ _
        | with_reducible assumption
        | with_reducible apply State.admitAnswer_keeps
        | with_reducible apply State.onBlock_keeps
        | with_reducible apply State.answer_keeps
        | with_reducible apply State.onPackhorse_keeps)
    | with_reducible refine Keeps.ite ?_ ?_
    | split
    | dsimp only
    | dsimp only [id]

theorem State.memberAcked_keeps {s0 s : State} (h : Keeps s0 s) (u : Nat) (h : Held) (src status : Nat) :
    Keeps s0 (s.memberAcked u h src status) := by
  unfold State.memberAcked
  repeat' first
    | with_reducible assumption
    | with_reducible apply State.onBlock_keeps
    | with_reducible apply State.setUnit_keeps
    | with_reducible apply State.acked_keeps
    | (with_reducible refine Keeps.put ?_ ?_ .. <;>
        first
        | exact Nat.le_refl _
        | exact Nat.le_succ _
        | with_reducible assumption
        | with_reducible apply State.onBlock_keeps
        | with_reducible apply State.setUnit_keeps
        | with_reducible apply State.acked_keeps)
    | with_reducible refine Keeps.ite ?_ ?_
    | split
    | dsimp only

theorem State.heldAcked_keeps {s0 s : State} (h : Keeps s0 s) (u : Nat) (h : Held) (src status gen : Nat) :
    Keeps s0 (s.heldAcked u h src status gen) := by
  unfold State.heldAcked
  repeat' first
    | with_reducible assumption
    | with_reducible apply State.acked_keeps
    | with_reducible apply State.memberAcked_keeps
    | (with_reducible refine Keeps.put ?_ ?_ .. <;>
        first
        | exact Nat.le_refl _
        | exact Nat.le_succ _
        | with_reducible assumption
        | with_reducible apply State.acked_keeps
        | with_reducible apply State.memberAcked_keeps)
    | with_reducible refine Keeps.ite ?_ ?_
    | split
    | dsimp only

theorem State.ackReceive_keeps {s0 s : State} (h : Keeps s0 s) (u : Nat) :
    Keeps s0 (s.ackReceive u) := by
  unfold State.ackReceive
  repeat' first
    | with_reducible assumption
    | with_reducible apply State.setUnit_keeps
    | with_reducible apply State.onBlock_keeps
    | with_reducible apply State.resendAll_keeps
    | with_reducible apply State.memberAcked_keeps
    | with_reducible apply State.heldAcked_keeps
    | (with_reducible refine Keeps.foldl ?_ (fun t x k => ?_))
    | (with_reducible refine Keeps.put ?_ ?_ .. <;>
        first
        | exact Nat.le_refl _
        | exact Nat.le_succ _
        | with_reducible assumption
        | with_reducible apply State.setUnit_keeps
        | with_reducible apply State.onBlock_keeps
        | with_reducible apply State.resendAll_keeps
        | with_reducible apply State.memberAcked_keeps
        | with_reducible apply State.heldAcked_keeps
        | (with_reducible refine Keeps.foldl ?_ (fun t x k => ?_)))
    | with_reducible refine Keeps.ite ?_ ?_
    | split
    | dsimp only

theorem State.echoReceive_keeps {s0 s : State} (h : Keeps s0 s) (p : Nat) :
    Keeps s0 (s.echoReceive p) := by
  unfold State.echoReceive
  repeat' first
    | with_reducible assumption
    | with_reducible apply State.setUnit_keeps
    | with_reducible apply State.onBlock_keeps
    | (with_reducible refine Keeps.put ?_ ?_ .. <;>
        first
        | exact Nat.le_refl _
        | exact Nat.le_succ _
        | with_reducible assumption
        | with_reducible apply State.setUnit_keeps
        | with_reducible apply State.onBlock_keeps)
    | with_reducible refine Keeps.ite ?_ ?_
    | split
    | dsimp only

theorem State.resendTimeout_keeps {s0 s : State} (h : Keeps s0 s) (u dest vc : Nat) :
    Keeps s0 (s.resendTimeout u dest vc) := by
  unfold State.resendTimeout
  repeat' first
    | with_reducible assumption
    | with_reducible apply State.setUnit_keeps
    | with_reducible apply State.resendAll_keeps
    | (with_reducible refine Keeps.put ?_ ?_ .. <;>
        first
        | exact Nat.le_refl _
        | exact Nat.le_succ _
        | with_reducible assumption
        | with_reducible apply State.setUnit_keeps
        | with_reducible apply State.resendAll_keeps)
    | with_reducible refine Keeps.ite ?_ ?_
    | split
    | dsimp only

theorem State.allRegions_keeps {s0 s : State} (h : Keeps s0 s) (f : Fld) (v : Nat) :
    Keeps s0 (s.allRegions f v) := by
  unfold State.allRegions
  repeat' first
    | with_reducible assumption
    | with_reducible apply State.rset_keeps
    | (with_reducible refine Keeps.foldl ?_ (fun t x k => ?_))
    | dsimp only

theorem State.flipRequest_keeps {s0 s : State} (h : Keeps s0 s) :
    Keeps s0 (s.flipRequest ) := by
  unfold State.flipRequest
  repeat' first
    | with_reducible assumption
    | (with_reducible refine Keeps.put ?_ ?_ .. <;>
        first
        | exact Nat.le_refl _
        | exact Nat.le_succ _
        | with_reducible assumption)
    | with_reducible refine Keeps.ite ?_ ?_
    | split
    | dsimp only

theorem State.flipUnit_keeps {s0 s : State} (h : Keeps s0 s) (u : Nat) (fresh : List Nat) :
    Keeps s0 (s.flipUnit u fresh) := by
  unfold State.flipUnit
  repeat' first
    | with_reducible assumption
    | with_reducible apply State.setUnit_keeps
    | with_reducible apply State.resendAll_keeps
    | (with_reducible refine Keeps.put ?_ ?_ .. <;>
        first
        | exact Nat.le_refl _
        | exact Nat.le_succ _
        | with_reducible assumption
        | with_reducible apply State.setUnit_keeps
        | with_reducible apply State.resendAll_keeps)
    | with_reducible refine Keeps.ite ?_ ?_
    | split
    | dsimp only

theorem State.flip_keeps {s0 s : State} (h : Keeps s0 s) :
    Keeps s0 (s.flip ) := by
  unfold State.flip
  repeat' first
    | with_reducible assumption
    | with_reducible apply State.setRmt_keeps
    | with_reducible apply State.allRegions_keeps
    | with_reducible apply State.rcount_keeps
    | with_reducible apply State.rset_keeps
    | with_reducible apply State.flipUnit_keeps
    | with_reducible apply State.setBlock_keeps
    | with_reducible apply State.onBlocks_keeps
    | (with_reducible refine Keeps.foldl ?_ (fun t x k => ?_))
    | (with_reducible refine Keeps.put ?_ ?_ .. <;>
        first
        | exact Nat.le_refl _
        | exact Nat.le_succ _
        | with_reducible assumption
        | with_reducible apply State.setRmt_keeps
        | with_reducible apply State.allRegions_keeps
        | with_reducible apply State.rcount_keeps
        | with_reducible apply State.rset_keeps
        | with_reducible apply State.flipUnit_keeps
        | with_reducible apply State.setBlock_keeps
        | with_reducible apply State.onBlocks_keeps
        | (with_reducible refine Keeps.foldl ?_ (fun t x k => ?_)))
    | (extract_lets +onlyGivenNames x
       first
       | (have k : Keeps s0 x := by
            repeat' first
              | with_reducible assumption
              | with_reducible apply State.setRmt_keeps
              | with_reducible apply State.allRegions_keeps
              | with_reducible apply State.rcount_keeps
              | with_reducible apply State.rset_keeps
              | with_reducible apply State.flipUnit_keeps
              | with_reducible apply State.setBlock_keeps
              | with_reducible apply State.onBlocks_keeps
              | (with_reducible refine Keeps.foldl ?_ (fun t x k => ?_))
              | (with_reducible refine Keeps.put ?_ ?_ .. <;>
                  first
                  | exact Nat.le_refl _
                  | exact Nat.le_succ _
                  | with_reducible assumption
                  | with_reducible apply State.setRmt_keeps
                  | with_reducible apply State.allRegions_keeps
                  | with_reducible apply State.rcount_keeps
                  | with_reducible apply State.rset_keeps
                  | with_reducible apply State.flipUnit_keeps
                  | with_reducible apply State.setBlock_keeps
                  | with_reducible apply State.onBlocks_keeps
                  | (with_reducible refine Keeps.foldl ?_ (fun t x k => ?_)))
              | with_reducible refine Keeps.ite ?_ ?_
              | split
              | dsimp only
          clear_value x)
       | subst x)
    | with_reducible refine Keeps.ite ?_ ?_
    | split
    | dsimp only

theorem State.flipDrained_keeps {s0 s : State} (h : Keeps s0 s) :
    Keeps s0 (s.flipDrained ) := by
  unfold State.flipDrained
  repeat' first
    | with_reducible assumption
    | with_reducible apply State.allRegions_keeps
    | (with_reducible refine Keeps.put ?_ ?_ .. <;>
        first
        | exact Nat.le_refl _
        | exact Nat.le_succ _
        | with_reducible assumption
        | with_reducible apply State.allRegions_keeps)
    | with_reducible refine Keeps.ite ?_ ?_
    | split
    | dsimp only

theorem State.flipDrainTimeout_keeps {s0 s : State} (h : Keeps s0 s) :
    Keeps s0 (s.flipDrainTimeout ) := by
  unfold State.flipDrainTimeout
  repeat' first
    | with_reducible assumption
    | with_reducible apply State.raiseRegion_keeps
    | (with_reducible refine Keeps.put ?_ ?_ .. <;>
        first
        | exact Nat.le_refl _
        | exact Nat.le_succ _
        | with_reducible assumption
        | with_reducible apply State.raiseRegion_keeps)
    | with_reducible refine Keeps.ite ?_ ?_
    | split
    | dsimp only

theorem State.groomInstruction_keeps {s0 s : State} (h : Keeps s0 s) (p t : Nat) (op : GroomOp) (hw : GroomHw) :
    Keeps s0 (s.groomInstruction p t op hw) := by
  unfold State.groomInstruction
  repeat' first
    | with_reducible assumption
    | with_reducible apply State.onBlock_keeps
    | with_reducible apply State.issue_keeps
    | with_reducible apply State.raise_keeps
    | (with_reducible refine Keeps.put ?_ ?_ .. <;>
        first
        | exact Nat.le_refl _
        | exact Nat.le_succ _
        | with_reducible assumption
        | with_reducible apply State.onBlock_keeps
        | with_reducible apply State.issue_keeps
        | with_reducible apply State.raise_keeps)
    | with_reducible refine Keeps.ite ?_ ?_
    | split
    | dsimp only

theorem State.groomSend_keeps {s0 s : State} (h : Keeps s0 s) (p t a rb rc imm : Nat) (hw : GroomHw) :
    Keeps s0 (s.groomSend p t a rb rc imm hw) := by
  unfold State.groomSend
  repeat' first
    | with_reducible assumption
    | with_reducible apply State.onBlock_keeps
    | dsimp only

theorem State.cqContribute_keeps {s0 s : State} (h : Keeps s0 s) (p : Nat) (bad : Bool) :
    Keeps s0 (s.cqContribute p bad) := by
  unfold State.cqContribute
  repeat' first
    | with_reducible assumption
    | with_reducible apply State.setBlock_keeps
    | with_reducible apply State.drainEv_keeps
    | with_reducible apply State.count_keeps
    | with_reducible refine Keeps.ite ?_ ?_
    | split
    | dsimp only

theorem State.setLeases_keeps {s0 s : State} (h : Keeps s0 s) (l : Leases) :
    Keeps s0 (s.setLeases l) := by
  unfold State.setLeases
  repeat' first
    | with_reducible assumption
    | with_reducible apply State.set_keeps
    | (with_reducible refine Keeps.put ?_ ?_ .. <;>
        first
        | exact Nat.le_refl _
        | exact Nat.le_succ _
        | with_reducible assumption
        | with_reducible apply State.set_keeps)

theorem State.acquire_keeps {s0 s : State} (h : Keeps s0 s) (l : Lease) (nowait : Bool) : Keeps s0 (s.acquire l nowait).1 := by
  unfold State.acquire
  dsimp only
  split
  · exact State.setLeases_keeps h _
  · split
    · exact State.count_keeps h _ _
    · exact State.setLeases_keeps h _

theorem State.release_keeps {s0 s : State} (h : Keeps s0 s) (code res : Nat) :
    Keeps s0 (s.release code res) := by
  unfold State.release
  repeat' first
    | with_reducible assumption
    | with_reducible apply State.setLeases_keeps
    | with_reducible refine Keeps.ite ?_ ?_
    | split
    | dsimp only

theorem State.onScreen_keeps {s0 s : State} (h : Keeps s0 s) (f : Screen → Screen) :
    Keeps s0 (s.onScreen f) := by
  unfold State.onScreen
  repeat' first
    | with_reducible assumption
    | (with_reducible refine Keeps.put ?_ ?_ .. <;>
        first
        | exact Nat.le_refl _
        | exact Nat.le_succ _
        | with_reducible assumption)

theorem State.shadowOver_keeps {s0 s : State} (h : Keeps s0 s) (w : Shadow) :
    Keeps s0 (s.shadowOver w) := by
  unfold State.shadowOver
  repeat' first
    | with_reducible assumption
    | with_reducible apply State.onScreen_keeps
    | with_reducible apply State.release_keeps
    | with_reducible apply State.setRmt_keeps
    | with_reducible apply State.setBlock_keeps
    | with_reducible apply State.set_keeps
    | (with_reducible refine Keeps.put ?_ ?_ .. <;>
        first
        | exact Nat.le_refl _
        | exact Nat.le_succ _
        | with_reducible assumption
        | with_reducible apply State.onScreen_keeps
        | with_reducible apply State.release_keeps
        | with_reducible apply State.setRmt_keeps
        | with_reducible apply State.setBlock_keeps
        | with_reducible apply State.set_keeps)
    | with_reducible refine Keeps.ite ?_ ?_
    | split
    | dsimp only

theorem State.shadowDrop_keeps {s0 s : State} (h : Keeps s0 s) (w : Shadow) :
    Keeps s0 (s.shadowDrop w) := by
  unfold State.shadowDrop
  repeat' first
    | with_reducible assumption
    | with_reducible apply State.rcount_keeps
    | with_reducible apply State.count_keeps
    | with_reducible apply State.shadowOver_keeps

theorem State.sliceDrop_keeps {s0 s : State} (h : Keeps s0 s) (p : Nat) :
    Keeps s0 (s.sliceDrop p) := by
  unfold State.sliceDrop
  repeat' first
    | with_reducible assumption
    | with_reducible apply State.setBlock_keeps
    | with_reducible apply State.rcount_keeps
    | with_reducible apply State.count_keeps
    | with_reducible apply State.setRmt_keeps
    | (with_reducible refine Keeps.put ?_ ?_ .. <;>
        first
        | exact Nat.le_refl _
        | exact Nat.le_succ _
        | with_reducible assumption
        | with_reducible apply State.setBlock_keeps
        | with_reducible apply State.rcount_keeps
        | with_reducible apply State.count_keeps
        | with_reducible apply State.setRmt_keeps)
    | with_reducible refine Keeps.ite ?_ ?_
    | split
    | dsimp only

theorem State.abandon_keeps {s0 s : State} (h : Keeps s0 s) (l : Lease) :
    Keeps s0 (s.abandon l) := by
  unfold State.abandon
  repeat' first
    | with_reducible assumption
    | with_reducible apply State.count_keeps
    | with_reducible apply State.sliceDrop_keeps
    | with_reducible apply State.shadowDrop_keeps
    | (with_reducible refine Keeps.foldl ?_ (fun t x k => ?_))
    | with_reducible refine Keeps.ite ?_ ?_
    | split
    | dsimp only

theorem State.force_keeps {s0 s : State} (h : Keeps s0 s) (code res : Nat) :
    Keeps s0 (s.force code res) := by
  unfold State.force
  repeat' first
    | with_reducible assumption
    | with_reducible apply State.abandon_keeps
    | with_reducible apply State.setLeases_keeps
    | (with_reducible refine Keeps.foldl ?_ (fun t x k => ?_))
    | dsimp only

theorem State.leaseAcquire_keeps {s0 s : State} (h : Keeps s0 s) (code res : Nat) (nowait : Bool) :
    Keeps s0 (s.leaseAcquire code res nowait) := by
  unfold State.leaseAcquire
  repeat' first
    | with_reducible assumption
    | with_reducible apply State.acquire_keeps
    | (refine Keeps.of_fst ‹_ = (_, _)› ?_)
    | (refine Keeps.of_snd ‹_ = (_, _)› ?_)
    | with_reducible refine Keeps.ite ?_ ?_
    | split
    | dsimp only

theorem State.leaseGrant_keeps {s0 s : State} (h : Keeps s0 s) :
    Keeps s0 (s.leaseGrant ) := by
  unfold State.leaseGrant
  repeat' first
    | with_reducible assumption
    | with_reducible apply State.setLeases_keeps
    | with_reducible apply State.set_keeps
    | (with_reducible refine Keeps.put ?_ ?_ .. <;>
        first
        | exact Nat.le_refl _
        | exact Nat.le_succ _
        | with_reducible assumption
        | with_reducible apply State.setLeases_keeps
        | with_reducible apply State.set_keeps)
    | with_reducible refine Keeps.ite ?_ ?_
    | split
    | dsimp only

theorem State.leaseStarved_keeps {s0 s : State} (h : Keeps s0 s) :
    Keeps s0 (s.leaseStarved ) := by
  unfold State.leaseStarved
  repeat' first
    | with_reducible assumption
    | with_reducible apply State.setLeases_keeps
    | with_reducible apply State.raise_keeps
    | (with_reducible refine Keeps.put ?_ ?_ .. <;>
        first
        | exact Nat.le_refl _
        | exact Nat.le_succ _
        | with_reducible assumption
        | with_reducible apply State.setLeases_keeps
        | with_reducible apply State.raise_keeps)
    | with_reducible refine Keeps.ite ?_ ?_
    | split
    | dsimp only

theorem State.leaseRequest_keeps {s0 s : State} (h : Keeps s0 s) (by_ : Nat) (v : Word) : Keeps s0 (s.leaseRequest by_ v).1 := by
  unfold State.leaseRequest
  dsimp only
  split
  · split
    · exact h
    · exact State.acquire_keeps h _ _
  · split
    · exact State.release_keeps h _ _
    · exact h

end Sys2Proof.Machine
end

