-- ==== Sys2Proof/Laws/KeepsMemory.lean ====
section
/-! SUPPORT. Every operation on memory requests, manger calls, loads and scans keeps what Keeps names; one lemma for each. -/

namespace Sys2Proof.Machine

set_option linter.unusedTactic false
set_option linter.unreachableTactic false

theorem State.remoteOut_keeps {s0 s : State} (h : Keeps s0 s) (i : Nat) (r : FabReq) :
    Keeps s0 (s.remoteOut i r) := by
  unfold State.remoteOut
  repeat' first
    | with_reducible assumption
    | with_reducible apply State.setPort_keeps
    | with_reducible apply State.fabSend_keeps
    | (with_reducible refine Keeps.put ?_ ?_ .. <;>
        first
        | exact Nat.le_refl _
        | exact Nat.le_succ _
        | with_reducible assumption
        | with_reducible apply State.setPort_keeps
        | with_reducible apply State.fabSend_keeps)
    | with_reducible refine Keeps.ite ?_ ?_
    | split
    | dsimp only

theorem State.remoteOr_keeps {s0 s : State} (h : Keeps s0 s) (i : Nat) (r : FabReq) :
    Keeps s0 (s.remoteOr i r) := by
  unfold State.remoteOr
  repeat' first
    | with_reducible assumption
    | with_reducible apply State.remoteOut_keeps
    | with_reducible apply State.failJob_keeps
    | (with_reducible refine Keeps.put ?_ ?_ .. <;>
        first
        | exact Nat.le_refl _
        | exact Nat.le_succ _
        | with_reducible assumption
        | with_reducible apply State.remoteOut_keeps
        | with_reducible apply State.failJob_keeps)
    | with_reducible refine Keeps.ite ?_ ?_
    | split
    | dsimp only

theorem State.remoteForward_keeps {s0 s : State} (h : Keeps s0 s) (u kind : Nat) :
    Keeps s0 (s.remoteForward u kind) := by
  unfold State.remoteForward
  repeat' first
    | with_reducible assumption
    | with_reducible apply State.setUnit_keeps
    | with_reducible apply State.remoteOr_keeps
    | (with_reducible refine Keeps.put ?_ ?_ .. <;>
        first
        | exact Nat.le_refl _
        | exact Nat.le_succ _
        | with_reducible assumption
        | with_reducible apply State.setUnit_keeps
        | with_reducible apply State.remoteOr_keeps)
    | with_reducible refine Keeps.ite ?_ ?_
    | split
    | dsimp only

theorem State.memAnswer_keeps {s0 s : State} (h : Keeps s0 s) (u : Nat) (k : Pkt) (status : Nat) (bytes : List Byte) :
    Keeps s0 (s.memAnswer u k status bytes) := by
  unfold State.memAnswer
  repeat' first
    | with_reducible assumption
    | with_reducible apply State.setUnit_keeps
    | with_reducible apply State.sendFrom_keeps

theorem State.remoteBack_keeps {s0 s : State} (h : Keeps s0 s) (i node status : Nat) (payload : List Byte) :
    Keeps s0 (s.remoteBack i node status payload) := by
  unfold State.remoteBack
  repeat' first
    | with_reducible assumption
    | with_reducible apply State.setPort_keeps
    | with_reducible apply State.memAnswer_keeps
    | with_reducible apply State.setTiers_keeps
    | with_reducible apply State.failJob_keeps
    | (intro w; exact Tiers.putLines_wf (State.tiers_wf w) _ _ _)
    | (intro w; exact Tiers.putLine_wf (State.tiers_wf w) _ _ _)
    | (with_reducible refine Keeps.put ?_ ?_ .. <;>
        first
        | exact Nat.le_refl _
        | exact Nat.le_succ _
        | with_reducible assumption
        | with_reducible apply State.setPort_keeps
        | with_reducible apply State.memAnswer_keeps
        | with_reducible apply State.setTiers_keeps
        | with_reducible apply State.failJob_keeps)
    | with_reducible refine Keeps.ite ?_ ?_
    | split
    | dsimp only

theorem State.noteStackError_keeps {s0 s : State} (h : Keeps s0 s) (k kind addr : Nat) :
    Keeps s0 (s.noteStackError k kind addr) := by
  unfold State.noteStackError
  repeat' first
    | with_reducible assumption
    | with_reducible apply State.set_keeps

theorem State.noteChannelError_keeps {s0 s : State} (h : Keeps s0 s) (c kind addr : Nat) :
    Keeps s0 (s.noteChannelError c kind addr) := by
  unfold State.noteChannelError
  repeat' first
    | with_reducible assumption
    | with_reducible apply State.set_keeps

theorem State.corrected_keeps {s0 s : State} (h : Keeps s0 s) (tier a : Nat) :
    Keeps s0 (s.corrected tier a) := by
  unfold State.corrected
  repeat' first
    | with_reducible assumption
    | with_reducible apply State.count_keeps
    | with_reducible apply State.noteStackError_keeps
    | with_reducible apply State.noteChannelError_keeps
    | with_reducible refine Keeps.ite ?_ ?_
    | split
    | dsimp only

theorem State.memRead_keeps {s0 s : State} (h : Keeps s0 s) (u : Nat) (hw : DramHw) :
    Keeps s0 (s.memRead u hw) := by
  unfold State.memRead
  repeat' first
    | with_reducible assumption
    | with_reducible apply State.remoteForward_keeps
    | with_reducible apply State.setUnit_keeps
    | with_reducible apply State.memAnswer_keeps
    | with_reducible apply State.corrected_keeps
    | (with_reducible refine Keeps.put ?_ ?_ .. <;>
        first
        | exact Nat.le_refl _
        | exact Nat.le_succ _
        | with_reducible assumption
        | with_reducible apply State.remoteForward_keeps
        | with_reducible apply State.setUnit_keeps
        | with_reducible apply State.memAnswer_keeps
        | with_reducible apply State.corrected_keeps)
    | with_reducible refine Keeps.ite ?_ ?_
    | split
    | dsimp only

theorem State.memWrite_keeps {s0 s : State} (h : Keeps s0 s) (u : Nat) (hw : DramHw) :
    Keeps s0 (s.memWrite u hw) := by
  unfold State.memWrite
  repeat' first
    | with_reducible assumption
    | with_reducible apply State.remoteForward_keeps
    | with_reducible apply State.setUnit_keeps
    | with_reducible apply State.memAnswer_keeps
    | with_reducible apply State.setTiers_keeps
    | with_reducible apply State.corrected_keeps
    | (intro w; exact Tiers.putLines_wf (State.tiers_wf w) _ _ _)
    | (intro w; exact Tiers.putLine_wf (State.tiers_wf w) _ _ _)
    | (intro w; exact Tiers.putMasked_wf (State.tiers_wf w) _ _ _ _)
    | (with_reducible refine Keeps.put ?_ ?_ .. <;>
        first
        | exact Nat.le_refl _
        | exact Nat.le_succ _
        | with_reducible assumption
        | with_reducible apply State.remoteForward_keeps
        | with_reducible apply State.setUnit_keeps
        | with_reducible apply State.memAnswer_keeps
        | with_reducible apply State.setTiers_keeps
        | with_reducible apply State.corrected_keeps)
    | with_reducible refine Keeps.ite ?_ ?_
    | split
    | dsimp only

theorem State.riderReply_keeps {s0 s : State} (h : Keeps s0 s) (u : Nat) (k : Pkt) :
    Keeps s0 (s.riderReply u k) := by
  unfold State.riderReply
  repeat' first
    | with_reducible assumption
    | with_reducible apply State.raise_keeps
    | (with_reducible refine Keeps.put ?_ ?_ .. <;>
        first
        | exact Nat.le_refl _
        | exact Nat.le_succ _
        | with_reducible assumption
        | with_reducible apply State.raise_keeps)
    | with_reducible refine Keeps.ite ?_ ?_
    | split
    | dsimp only

theorem State.memReply_keeps {s0 s : State} (h : Keeps s0 s) (u : Nat) :
    Keeps s0 (s.memReply u) := by
  unfold State.memReply
  repeat' first
    | with_reducible assumption
    | with_reducible apply State.setUnit_keeps
    | with_reducible apply State.riderReply_keeps
    | with_reducible apply State.onBlock_keeps
    | with_reducible apply State.onPackhorse_keeps
    | (intro w; exact Tiers.putLines_wf (State.tiers_wf w) _ _ _)
    | (intro w; exact Tiers.putLine_wf (State.tiers_wf w) _ _ _)
    | (intro b env o w; exact Block.jobReply_wf w _ _ _ _ _ _)
    | (with_reducible refine Keeps.put ?_ ?_ .. <;>
        first
        | exact Nat.le_refl _
        | exact Nat.le_succ _
        | with_reducible assumption
        | with_reducible apply State.setUnit_keeps
        | with_reducible apply State.riderReply_keeps
        | with_reducible apply State.onBlock_keeps
        | with_reducible apply State.onPackhorse_keeps)
    | with_reducible refine Keeps.ite ?_ ?_
    | split
    | dsimp only

theorem State.setQueue_keeps {s0 s : State} (h : Keeps s0 s) (e : Nat) (q : List Call) :
    Keeps s0 (s.setQueue e q) := by
  unfold State.setQueue
  repeat' first
    | with_reducible assumption
    | (with_reducible refine Keeps.put ?_ ?_ .. <;>
        first
        | exact Nat.le_refl _
        | exact Nat.le_succ _
        | with_reducible assumption)
    | dsimp only

theorem State.mgrCall_keeps {s0 s : State} (h : Keeps s0 s) (u : Nat) :
    Keeps s0 (s.mgrCall u) := by
  unfold State.mgrCall
  repeat' first
    | with_reducible assumption
    | with_reducible apply State.setUnit_keeps
    | with_reducible apply State.setQueue_keeps
    | (with_reducible refine Keeps.put ?_ ?_ .. <;>
        first
        | exact Nat.le_refl _
        | exact Nat.le_succ _
        | with_reducible assumption
        | with_reducible apply State.setUnit_keeps
        | with_reducible apply State.setQueue_keeps)
    | with_reducible refine Keeps.ite ?_ ?_
    | split
    | dsimp only

theorem State.suspect_keeps {s0 s : State} (h : Keeps s0 s) (lasting : Bool) (unit l p from_ to_ : Nat) :
    Keeps s0 (s.suspect lasting unit l p from_ to_) := by
  unfold State.suspect
  repeat' first
    | with_reducible assumption
    | with_reducible apply State.set_keeps
    | with_reducible apply State.lasting_keeps
    | with_reducible apply State.raise_keeps
    | (with_reducible refine Keeps.foldl ?_ (fun t x k => ?_))
    | with_reducible refine Keeps.ite ?_ ?_
    | split
    | dsimp only

theorem State.lasting_keeps {s0 s : State} (h : Keeps s0 s) (unit p code : Nat) :
    Keeps s0 (s.lasting unit p code) := by
  unfold State.lasting
  repeat' first
    | with_reducible assumption
    | with_reducible apply State.count_keeps
    | with_reducible apply State.book_keeps
    | with_reducible apply State.onScreen_keeps
    | with_reducible apply State.suspect_keeps
    | (with_reducible refine Keeps.put ?_ ?_ .. <;>
        first
        | exact Nat.le_refl _
        | exact Nat.le_succ _
        | with_reducible assumption
        | with_reducible apply State.count_keeps
        | with_reducible apply State.book_keeps
        | with_reducible apply State.onScreen_keeps
        | with_reducible apply State.suspect_keeps)
    | with_reducible refine Keeps.ite ?_ ?_
    | split
    | dsimp only

theorem State.transient_keeps {s0 s : State} (h : Keeps s0 s) :
    Keeps s0 (s.transient ) := by
  unfold State.transient
  repeat' first
    | with_reducible assumption
    | with_reducible apply State.count_keeps

theorem State.mangerFault_keeps {s0 s : State} (h : Keeps s0 s) (k c : Nat) :
    Keeps s0 (s.mangerFault k c) := by
  unfold State.mangerFault
  repeat' first
    | with_reducible assumption
    | with_reducible apply State.set_keeps
    | with_reducible apply State.book_keeps
    | with_reducible apply State.lasting_keeps
    | with_reducible apply State.raise_keeps
    | with_reducible apply State.setQueue_keeps
    | with_reducible apply State.failJob_keeps
    | (with_reducible refine Keeps.put ?_ ?_ .. <;>
        first
        | exact Nat.le_refl _
        | exact Nat.le_succ _
        | with_reducible assumption
        | with_reducible apply State.set_keeps
        | with_reducible apply State.book_keeps
        | with_reducible apply State.lasting_keeps
        | with_reducible apply State.raise_keeps
        | with_reducible apply State.setQueue_keeps
        | with_reducible apply State.failJob_keeps)
    | with_reducible refine Keeps.ite ?_ ?_
    | split
    | dsimp only

theorem State.laneEvent_keeps {s0 s : State} (h : Keeps s0 s) (e : Nat) (hw : LaneHw) : Keeps s0 (s.laneEvent e hw) := by
  cases hw
  · exact h
  · exact State.raise_keeps h _ _ _
  · exact State.transient_keeps (State.raise_keeps h _ _ _)
  · exact h

theorem State.compute_keeps {s0 s : State} (h : Keeps s0 s) (k c op : Nat) (hw : LaneHw)
    (rows : Memory → Nat → MgrRec → CallLine → List Byte → List (List Byte)) : Keeps s0 (s.compute k c op hw rows) := by
  unfold State.compute
  dsimp only
  split
  · exact h
  · split
    · exact h
    · split
      · exact State.mangerFault_keeps h _ _
      · have k1 := State.laneEvent_keeps h (32 * k + c) hw
        revert k1
        generalize s.laneEvent (32 * k + c) hw = t
        intro k1
        split
        · exact State.setQueue_keeps (Keeps.of_dram k1 fun w => ⟨Memory.puts_wf _ _ w.1, w.2⟩) _ _
        · exact State.setQueue_keeps k1 _ _

theorem State.callComplete_keeps {s0 s : State} (h : Keeps s0 s) (k c : Nat) :
    Keeps s0 (s.callComplete k c) := by
  unfold State.callComplete
  repeat' first
    | with_reducible assumption
    | with_reducible apply State.setQueue_keeps
    | with_reducible apply State.count_keeps
    | with_reducible apply State.sendFrom_keeps
    | (with_reducible refine Keeps.foldl ?_ (fun t x k => ?_))
    | (with_reducible refine Keeps.put ?_ ?_ .. <;>
        first
        | exact Nat.le_refl _
        | exact Nat.le_succ _
        | with_reducible assumption
        | with_reducible apply State.setQueue_keeps
        | with_reducible apply State.count_keeps
        | with_reducible apply State.sendFrom_keeps
        | (with_reducible refine Keeps.foldl ?_ (fun t x k => ?_)))
    | with_reducible refine Keeps.ite ?_ ?_
    | split
    | dsimp only
    | dsimp only [id]

theorem State.refresh_keeps {s0 s : State} (h : Keeps s0 s) (unit temp : Nat) :
    Keeps s0 (s.refresh unit temp) := by
  unfold State.refresh
  repeat' first
    | with_reducible assumption
    | with_reducible apply State.set_keeps
    | with_reducible refine Keeps.ite ?_ ?_
    | split
    | dsimp only

theorem State.scrub_keeps {s0 s : State} (h : Keeps s0 s) (k c : Nat) (bad : Option Nat) :
    Keeps s0 (s.scrub k c bad) := by
  unfold State.scrub
  repeat' first
    | with_reducible assumption
    | with_reducible apply State.corrected_keeps
    | with_reducible apply State.count_keeps
    | (with_reducible refine Keeps.put ?_ ?_ .. <;>
        first
        | exact Nat.le_refl _
        | exact Nat.le_succ _
        | with_reducible assumption
        | with_reducible apply State.corrected_keeps
        | with_reducible apply State.count_keeps)
    | with_reducible refine Keeps.ite ?_ ?_
    | split
    | dsimp only

theorem State.scrubDdr_keeps {s0 s : State} (h : Keeps s0 s) (c : Nat) (bad : Option Nat) :
    Keeps s0 (s.scrubDdr c bad) := by
  unfold State.scrubDdr
  repeat' first
    | with_reducible assumption
    | with_reducible apply State.corrected_keeps
    | (with_reducible refine Keeps.put ?_ ?_ .. <;>
        first
        | exact Nat.le_refl _
        | exact Nat.le_succ _
        | with_reducible assumption
        | with_reducible apply State.corrected_keeps)
    | with_reducible refine Keeps.ite ?_ ?_
    | split
    | dsimp only

theorem State.sigEnable_keeps {s0 s : State} (h : Keeps s0 s) (k j : Nat) :
    Keeps s0 (s.sigEnable k j) := by
  unfold State.sigEnable
  repeat' first
    | with_reducible assumption
    | with_reducible apply State.set_keeps
    | with_reducible refine Keeps.ite ?_ ?_
    | split
    | dsimp only

theorem State.sigDisable_keeps {s0 s : State} (h : Keeps s0 s) (k j : Nat) :
    Keeps s0 (s.sigDisable k j) := by
  unfold State.sigDisable
  repeat' first
    | with_reducible assumption
    | with_reducible apply State.set_keeps

theorem State.rowsig_keeps {s0 s : State} (h : Keeps s0 s) (k j : Nat) : Keeps s0 (s.rowsig k j) := by
  unfold State.rowsig
  split
  · exact h
  · exact State.set_keeps (Keeps.of_dram h fun w => ⟨signUnits_wf w.1 _ _ _, w.2⟩) _ _

theorem State.retrain_keeps {s0 s : State} (h : Keeps s0 s) (c : Nat) :
    Keeps s0 (s.retrain c) := by
  unfold State.retrain
  repeat' first
    | with_reducible assumption
    | with_reducible apply State.release_keeps
    | (with_reducible refine Keeps.put ?_ ?_ .. <;>
        first
        | exact Nat.le_refl _
        | exact Nat.le_succ _
        | with_reducible assumption
        | with_reducible apply State.release_keeps)
    | with_reducible refine Keeps.ite ?_ ?_
    | split
    | dsimp only

theorem State.copyTables_keeps {s0 s : State} (h : Keeps s0 s) :
    Keeps s0 (s.copyTables ) := by
  unfold State.copyTables
  repeat' first
    | with_reducible assumption
    | (with_reducible refine Keeps.put ?_ ?_ .. <;>
        first
        | exact Nat.le_refl _
        | exact Nat.le_succ _
        | with_reducible assumption)
    | with_reducible refine Keeps.ite ?_ ?_
    | split
    | dsimp only

theorem State.flipStart_keeps {s0 s : State} (h : Keeps s0 s) (r : Nat) :
    Keeps s0 (s.flipStart r) := by
  unfold State.flipStart
  repeat' first
    | with_reducible assumption
    | with_reducible apply State.copyTables_keeps
    | with_reducible apply State.force_keeps
    | with_reducible apply State.rset_keeps
    | with_reducible apply State.allRegions_keeps
    | (with_reducible refine Keeps.put ?_ ?_ .. <;>
        first
        | exact Nat.le_refl _
        | exact Nat.le_succ _
        | with_reducible assumption
        | with_reducible apply State.copyTables_keeps
        | with_reducible apply State.force_keeps
        | with_reducible apply State.rset_keeps
        | with_reducible apply State.allRegions_keeps)
    | with_reducible refine Keeps.ite ?_ ?_
    | split
    | dsimp only

theorem State.holdReason_keeps {s0 s : State} (h : Keeps s0 s) (h : Hold) :
    Keeps s0 (s.holdReason h) := by
  unfold State.holdReason
  repeat' first
    | with_reducible assumption
    | with_reducible apply State.set_keeps

theorem State.placeBlocks_keeps {s0 s : State} (h : Keeps s0 s) (at_ : List (Nat × Nat)) :
    Keeps s0 (s.placeBlocks at_) := by
  unfold State.placeBlocks
  repeat' first
    | with_reducible assumption
    | with_reducible apply State.setRmt_keeps
    | with_reducible apply State.rset_keeps
    | (with_reducible refine Keeps.foldl ?_ (fun t x k => ?_))
    | (with_reducible refine Keeps.put ?_ ?_ .. <;>
        first
        | exact Nat.le_refl _
        | exact Nat.le_succ _
        | with_reducible assumption
        | with_reducible apply State.setRmt_keeps
        | with_reducible apply State.rset_keeps
        | (with_reducible refine Keeps.foldl ?_ (fun t x k => ?_)))
    | with_reducible refine Keeps.ite ?_ ?_
    | split
    | dsimp only

theorem State.epochZero_keeps {s0 s : State} (h : Keeps s0 s) :
    Keeps s0 (s.epochZero ) := by
  unfold State.epochZero
  repeat' first
    | with_reducible assumption
    | with_reducible apply State.allRegions_keeps
    | (with_reducible refine Keeps.put ?_ ?_ .. <;>
        first
        | exact Nat.le_refl _
        | exact Nat.le_succ _
        | with_reducible assumption
        | with_reducible apply State.allRegions_keeps)
    | dsimp only

theorem State.setVolts_keeps {s0 s : State} (h : Keeps s0 s) (v : Nat → Nat) :
    Keeps s0 (s.setVolts v) := by
  unfold State.setVolts
  repeat' first
    | with_reducible assumption
    | (with_reducible refine Keeps.foldl ?_ (fun t x k => ?_))
    | (with_reducible refine Keeps.put ?_ ?_ .. <;>
        first
        | exact Nat.le_refl _
        | exact Nat.le_succ _
        | with_reducible assumption
        | (with_reducible refine Keeps.foldl ?_ (fun t x k => ?_)))
    | with_reducible refine Keeps.ite ?_ ?_
    | split
    | dsimp only

theorem State.reAnchor_keeps {s0 s : State} (h : Keeps s0 s) :
    Keeps s0 (s.reAnchor ) := by
  unfold State.reAnchor
  repeat' first
    | with_reducible assumption
    | (with_reducible refine Keeps.put ?_ ?_ .. <;>
        first
        | exact Nat.le_refl _
        | exact Nat.le_succ _
        | with_reducible assumption)

theorem State.fitPeriod_keeps {s0 s : State} (h : Keeps s0 s) :
    Keeps s0 (s.fitPeriod ) := by
  unfold State.fitPeriod
  repeat' first
    | with_reducible assumption
    | with_reducible apply State.set_keeps
    | with_reducible apply State.raise_keeps
    | with_reducible refine Keeps.ite ?_ ?_
    | split
    | dsimp only

theorem State.loadPeriod_keeps {s0 s : State} (h : Keeps s0 s) :
    Keeps s0 (s.loadPeriod ) := by
  unfold State.loadPeriod
  repeat' first
    | with_reducible assumption
    | with_reducible apply State.set_keeps
    | with_reducible apply State.fitPeriod_keeps
    | with_reducible refine Keeps.ite ?_ ?_
    | split
    | dsimp only

theorem State.anchorIf_keeps {s0 s : State} (h : Keeps s0 s) (was : Nat) :
    Keeps s0 (s.anchorIf was) := by
  unfold State.anchorIf
  repeat' first
    | with_reducible assumption
    | with_reducible apply State.reAnchor_keeps
    | with_reducible refine Keeps.ite ?_ ?_
    | split
    | dsimp only

theorem State.mountImage_keeps {s0 s : State} (h : Keeps s0 s) (i : Img) (at_ : List (Nat × Nat)) (moves : List Moved) :
    Keeps s0 (s.mountImage i at_ moves) := by
  unfold State.mountImage
  repeat' first
    | with_reducible assumption
    | with_reducible apply State.set_keeps
    | with_reducible apply State.setBlock_keeps
    | with_reducible apply State.epochZero_keeps
    | with_reducible apply State.setRegion_keeps
    | with_reducible apply State.start_keeps
    | with_reducible apply State.takeGait_keeps
    | (with_reducible refine Keeps.foldl ?_ (fun t x k => ?_))
    | (with_reducible refine Keeps.put ?_ ?_ .. <;>
        first
        | exact Nat.le_refl _
        | exact Nat.le_succ _
        | with_reducible assumption
        | with_reducible apply State.set_keeps
        | with_reducible apply State.setBlock_keeps
        | with_reducible apply State.epochZero_keeps
        | with_reducible apply State.setRegion_keeps
        | with_reducible apply State.start_keeps
        | with_reducible apply State.takeGait_keeps
        | (with_reducible refine Keeps.foldl ?_ (fun t x k => ?_)))
    | with_reducible refine Keeps.ite ?_ ?_
    | split
    | dsimp only

theorem State.installImage_keeps {s0 s : State} (h : Keeps s0 s) (i : Img) (at_ : List (Nat × Nat)) :
    Keeps s0 (s.installImage i at_).2 := by
  unfold State.installImage
  extract_lets moves
  clear_value moves
  split
  next routes groups e =>
  extract_lets t1
  have k1 : Keeps s0 t1 := by with_reducible refine Keeps.put (State.placeBlocks_keeps h at_) (Nat.le_refl _) ..
  clear_value t1
  split
  next r0 g0 ok0 e0 =>
  extract_lets t2
  have k2 : Keeps s0 t2 := by with_reducible refine Keeps.put k1 (Nat.le_refl _) ..
  clear_value t2
  split
  next r1 g1 ok1 e1 =>
  extract_lets t3
  have k3 : Keeps s0 t3 := by with_reducible refine Keeps.put k2 (Nat.le_refl _) ..
  clear_value t3
  split
  · exact k3
  · exact State.mountImage_keeps k3 _ _ _

theorem State.commitImage_keeps {s0 s : State} (h : Keeps s0 s) (i : Img) :
    Keeps s0 (s.commitImage i) := by
  unfold State.commitImage
  repeat' first
    | with_reducible assumption
    | with_reducible apply State.set_keeps
    | with_reducible apply State.holdReason_keeps
    | (with_reducible refine Keeps.put ?_ ?_ .. <;>
        first
        | exact Nat.le_refl _
        | exact Nat.le_succ _
        | with_reducible assumption
        | with_reducible apply State.set_keeps
        | with_reducible apply State.holdReason_keeps)
    | dsimp only

theorem State.withdraw_keeps {s0 s : State} (h : Keeps s0 s) :
    Keeps s0 (s.withdraw ) := by
  unfold State.withdraw
  repeat' first
    | with_reducible assumption
    | with_reducible apply State.placeBlocks_keeps
    | with_reducible apply State.fitPeriod_keeps
    | with_reducible apply State.anchorIf_keeps
    | with_reducible apply State.set_keeps
    | (with_reducible refine Keeps.put ?_ ?_ .. <;>
        first
        | exact Nat.le_refl _
        | exact Nat.le_succ _
        | with_reducible assumption
        | with_reducible apply State.placeBlocks_keeps
        | with_reducible apply State.fitPeriod_keeps
        | with_reducible apply State.anchorIf_keeps
        | with_reducible apply State.set_keeps)
    | with_reducible refine Keeps.ite ?_ ?_
    | split
    | dsimp only

theorem State.imgResult_keeps {s0 s : State} (h : Keeps s0 s) (r : Nat) :
    Keeps s0 (s.imgResult r) := by
  unfold State.imgResult
  repeat' first
    | with_reducible assumption
    | with_reducible apply State.set_keeps

theorem State.imageLoad_keeps {s0 s : State} (h : Keeps s0 s) :
    Keeps s0 (s.imageLoad ) := by
  unfold State.imageLoad
  repeat' first
    | with_reducible assumption
    | decide
    | with_reducible apply State.set_keeps
    | with_reducible apply State.imgResult_keeps
    | with_reducible apply State.goTo_keeps
    | with_reducible apply State.withdraw_keeps
    | with_reducible apply State.holdReason_keeps
    | (with_reducible refine Keeps.put ?_ ?_ .. <;>
        first
        | exact Nat.le_refl _
        | exact Nat.le_succ _
        | with_reducible assumption
        | with_reducible apply State.set_keeps
        | with_reducible apply State.imgResult_keeps
        | with_reducible apply State.goTo_keeps
        | with_reducible apply State.withdraw_keeps
        | with_reducible apply State.holdReason_keeps)
    | with_reducible refine Keeps.ite ?_ ?_
    | split
    | dsimp only

theorem State.refuseLoad_keeps {s0 s : State} (h : Keeps s0 s) (h : Hold) :
    Keeps s0 (s.refuseLoad h) := by
  unfold State.refuseLoad
  repeat' first
    | with_reducible assumption
    | with_reducible apply State.holdReason_keeps
    | with_reducible apply State.set_keeps
    | (with_reducible refine Keeps.put ?_ ?_ .. <;>
        first
        | exact Nat.le_refl _
        | exact Nat.le_succ _
        | with_reducible assumption
        | with_reducible apply State.holdReason_keeps
        | with_reducible apply State.set_keeps)
    | dsimp only

theorem State.imageCommit_keeps {s0 s : State} (h : Keeps s0 s) (fault : Option (Nat × Nat)) :
    Keeps s0 (s.imageCommit fault) := by
  unfold State.imageCommit
  repeat' first
    | with_reducible assumption
    | decide
    | with_reducible apply State.refuseLoad_keeps
    | with_reducible apply State.installImage_keeps
    | with_reducible apply State.commitImage_keeps
    | with_reducible apply State.loadPeriod_keeps
    | with_reducible apply State.anchorIf_keeps
    | with_reducible apply State.goTo_keeps
    | (refine Keeps.of_fst ‹_ = (_, _)› ?_)
    | (refine Keeps.of_snd ‹_ = (_, _)› ?_)
    | (with_reducible refine Keeps.put ?_ ?_ .. <;>
        first
        | exact Nat.le_refl _
        | exact Nat.le_succ _
        | with_reducible assumption
        | with_reducible apply State.refuseLoad_keeps
        | with_reducible apply State.installImage_keeps
        | with_reducible apply State.commitImage_keeps
        | with_reducible apply State.loadPeriod_keeps
        | with_reducible apply State.anchorIf_keeps
        | with_reducible apply State.goTo_keeps
        | (refine Keeps.of_fst ‹_ = (_, _)› ?_))
    | with_reducible refine Keeps.ite ?_ ?_
    | split
    | dsimp only

theorem State.imageWithdraw_keeps {s0 s : State} (h : Keeps s0 s) :
    Keeps s0 (s.imageWithdraw ) := by
  unfold State.imageWithdraw
  repeat' first
    | with_reducible assumption
    | decide
    | with_reducible apply State.set_keeps
    | with_reducible apply State.imgResult_keeps
    | with_reducible apply State.goTo_keeps
    | with_reducible apply State.withdraw_keeps
    | with_reducible apply State.holdReason_keeps
    | with_reducible refine Keeps.ite ?_ ?_
    | split
    | dsimp only

theorem State.imageStage_keeps {s0 s : State} (h : Keeps s0 s) :
    Keeps s0 (s.imageStage ) := by
  unfold State.imageStage
  repeat' first
    | with_reducible assumption
    | with_reducible apply State.set_keeps
    | with_reducible apply State.imgResult_keeps
    | (with_reducible refine Keeps.put ?_ ?_ .. <;>
        first
        | exact Nat.le_refl _
        | exact Nat.le_succ _
        | with_reducible assumption
        | with_reducible apply State.set_keeps
        | with_reducible apply State.imgResult_keeps)
    | with_reducible refine Keeps.ite ?_ ?_
    | split
    | dsimp only

theorem State.stageComplete_keeps {s0 s : State} (h : Keeps s0 s) :
    Keeps s0 (s.stageComplete ) := by
  unfold State.stageComplete
  repeat' first
    | with_reducible assumption
    | with_reducible apply State.set_keeps
    | (with_reducible refine Keeps.put ?_ ?_ .. <;>
        first
        | exact Nat.le_refl _
        | exact Nat.le_succ _
        | with_reducible assumption
        | with_reducible apply State.set_keeps)
    | with_reducible refine Keeps.ite ?_ ?_
    | split
    | dsimp only

theorem State.holdDetail_keeps {s0 s : State} (h : Keeps s0 s) (h : Hold) :
    Keeps s0 (s.holdDetail h) := by
  unfold State.holdDetail
  repeat' first
    | with_reducible assumption
    | with_reducible apply State.set_keeps

theorem State.dropStaged_keeps {s0 s : State} (h : Keeps s0 s) (code : Nat) :
    Keeps s0 (s.dropStaged code) := by
  unfold State.dropStaged
  repeat' first
    | with_reducible assumption
    | with_reducible apply State.set_keeps
    | (with_reducible refine Keeps.put ?_ ?_ .. <;>
        first
        | exact Nat.le_refl _
        | exact Nat.le_succ _
        | with_reducible assumption
        | with_reducible apply State.set_keeps)
    | dsimp only

theorem State.swapDefer_keeps {s0 s : State} (h : Keeps s0 s) :
    Keeps s0 (s.swapDefer ) := by
  unfold State.swapDefer
  repeat' first
    | with_reducible assumption
    | with_reducible apply State.set_keeps
    | with_reducible apply State.release_keeps
    | with_reducible apply State.dropStaged_keeps
    | with_reducible apply State.raise_keeps
    | (with_reducible refine Keeps.put ?_ ?_ .. <;>
        first
        | exact Nat.le_refl _
        | exact Nat.le_succ _
        | with_reducible assumption
        | with_reducible apply State.set_keeps
        | with_reducible apply State.release_keeps
        | with_reducible apply State.dropStaged_keeps
        | with_reducible apply State.raise_keeps)
    | with_reducible refine Keeps.ite ?_ ?_
    | split
    | dsimp only

theorem State.stageCancel_keeps {s0 s : State} (h : Keeps s0 s) :
    Keeps s0 (s.stageCancel ) := by
  unfold State.stageCancel
  repeat' first
    | with_reducible assumption
    | with_reducible apply State.set_keeps
    | with_reducible apply State.imgResult_keeps
    | with_reducible apply State.dropStaged_keeps
    | with_reducible refine Keeps.ite ?_ ?_
    | split
    | dsimp only

theorem State.imageOp_keeps {s0 s : State} (h : Keeps s0 s) (op : Nat) :
    Keeps s0 (s.imageOp op) := by
  unfold State.imageOp
  repeat' first
    | with_reducible assumption
    | with_reducible apply State.imageLoad_keeps
    | with_reducible apply State.imageStage_keeps
    | with_reducible apply State.stageCancel_keeps
    | with_reducible apply State.imageWithdraw_keeps
    | (with_reducible refine Keeps.put ?_ ?_ .. <;>
        first
        | exact Nat.le_refl _
        | exact Nat.le_succ _
        | with_reducible assumption
        | with_reducible apply State.imageLoad_keeps
        | with_reducible apply State.imageStage_keeps
        | with_reducible apply State.stageCancel_keeps
        | with_reducible apply State.imageWithdraw_keeps)
    | with_reducible refine Keeps.ite ?_ ?_
    | split
    | dsimp only

theorem State.writeSwapAt_keeps {s0 s : State} (h : Keeps s0 s) (v : Nat) :
    Keeps s0 (s.writeSwapAt v) := by
  unfold State.writeSwapAt
  repeat' first
    | with_reducible assumption
    | with_reducible apply State.set_keeps
    | with_reducible apply State.dropStaged_keeps
    | with_reducible refine Keeps.ite ?_ ?_
    | split
    | dsimp only

theorem State.scanEnd_keeps {s0 s : State} (h : Keeps s0 s) (p result length : Nat) :
    Keeps s0 (s.scanEnd p result length) := by
  unfold State.scanEnd
  repeat' first
    | with_reducible assumption
    | with_reducible apply State.setBlock_keeps
    | with_reducible apply State.set_keeps

theorem State.scanStart_keeps {s0 s : State} (h : Keeps s0 s) (p result length : Nat) :
    Keeps s0 (s.scanStart p result length) := by
  unfold State.scanStart
  repeat' first
    | with_reducible assumption
    | with_reducible apply State.set_keeps
    | with_reducible apply State.setBlock_keeps
    | (with_reducible refine Keeps.put ?_ ?_ .. <;>
        first
        | exact Nat.le_refl _
        | exact Nat.le_succ _
        | with_reducible assumption
        | with_reducible apply State.set_keeps
        | with_reducible apply State.setBlock_keeps)
    | dsimp only

theorem State.scanOut_keeps {s0 s : State} (h : Keeps s0 s) (p : Nat) (bySteward : Bool) :
    Keeps s0 (s.scanOut p bySteward) := by
  unfold State.scanOut
  repeat' first
    | with_reducible assumption
    | with_reducible apply State.setTiers_keeps
    | with_reducible apply State.scanStart_keeps
    | with_reducible apply State.scanEnd_keeps
    | (intro w; exact Tiers.putLines_wf (State.tiers_wf w) _ _ _)
    | (intro w; exact Tiers.putLine_wf (State.tiers_wf w) _ _ _)
    | (with_reducible refine Keeps.put ?_ ?_ .. <;>
        first
        | exact Nat.le_refl _
        | exact Nat.le_succ _
        | with_reducible assumption
        | with_reducible apply State.setTiers_keeps
        | with_reducible apply State.scanStart_keeps
        | with_reducible apply State.scanEnd_keeps)
    | with_reducible refine Keeps.ite ?_ ?_
    | split
    | dsimp only

theorem State.scanIn_keeps {s0 s : State} (h : Keeps s0 s) (p : Nat) (bySteward : Bool) :
    Keeps s0 (s.scanIn p bySteward) := by
  unfold State.scanIn
  repeat' first
    | with_reducible assumption
    | with_reducible apply State.setBlock_keeps
    | with_reducible apply State.scanStart_keeps
    | with_reducible apply State.scanEnd_keeps
    | (with_reducible refine Keeps.put ?_ ?_ .. <;>
        first
        | exact Nat.le_refl _
        | exact Nat.le_succ _
        | with_reducible assumption
        | with_reducible apply State.setBlock_keeps
        | with_reducible apply State.scanStart_keeps
        | with_reducible apply State.scanEnd_keeps)
    | with_reducible refine Keeps.ite ?_ ?_
    | split
    | dsimp only

theorem State.scanDone_keeps {s0 s : State} (h : Keeps s0 s) (p : Nat) :
    Keeps s0 (s.scanDone p) := by
  unfold State.scanDone
  repeat' first
    | with_reducible assumption
    | with_reducible apply State.set_keeps
    | with_reducible apply State.setBlock_keeps
    | (with_reducible refine Keeps.put ?_ ?_ .. <;>
        first
        | exact Nat.le_refl _
        | exact Nat.le_succ _
        | with_reducible assumption
        | with_reducible apply State.set_keeps
        | with_reducible apply State.setBlock_keeps)
    | with_reducible refine Keeps.ite ?_ ?_
    | split
    | dsimp only

theorem State.setSaddle_keeps {s0 s : State} (h : Keeps s0 s) (l c st : Nat) :
    Keeps s0 (s.setSaddle l c st) := by
  unfold State.setSaddle
  repeat' first
    | with_reducible assumption
    | with_reducible apply State.rset_keeps
    | with_reducible refine Keeps.ite ?_ ?_
    | split
    | dsimp only

theorem State.saddleWrite_keeps {s0 s : State} (h : Keeps s0 s) (l c : Nat) (bs : List Byte) :
    Keeps s0 (s.saddleWrite l c bs) := by
  unfold State.saddleWrite
  repeat' first
    | with_reducible assumption
    | with_reducible apply State.setTiers_keeps
    | with_reducible apply State.setSaddle_keeps
    | (intro w; exact Tiers.putLines_wf (State.tiers_wf w) _ _ _)
    | (intro w; exact Tiers.putLine_wf (State.tiers_wf w) _ _ _)

theorem State.saddleTake_keeps {s0 s : State} (h : Keeps s0 s) (p c : Nat) :
    Keeps s0 (s.saddleTake p c) := by
  unfold State.saddleTake
  repeat' first
    | with_reducible assumption
    | with_reducible apply State.setBlock_keeps
    | with_reducible apply State.setSaddle_keeps
    | with_reducible apply State.onBlock_keeps
    | (with_reducible refine Keeps.put ?_ ?_ .. <;>
        first
        | exact Nat.le_refl _
        | exact Nat.le_succ _
        | with_reducible assumption
        | with_reducible apply State.setBlock_keeps
        | with_reducible apply State.setSaddle_keeps
        | with_reducible apply State.onBlock_keeps)
    | with_reducible refine Keeps.ite ?_ ?_
    | split
    | dsimp only

theorem State.saddleComplete_keeps {s0 s : State} (h : Keeps s0 s) (p : Nat) :
    Keeps s0 (s.saddleComplete p) := by
  unfold State.saddleComplete
  repeat' first
    | with_reducible assumption
    | with_reducible apply State.setBlock_keeps
    | with_reducible apply State.saddleWrite_keeps
    | with_reducible apply State.release_keeps
    | (with_reducible refine Keeps.put ?_ ?_ .. <;>
        first
        | exact Nat.le_refl _
        | exact Nat.le_succ _
        | with_reducible assumption
        | with_reducible apply State.setBlock_keeps
        | with_reducible apply State.saddleWrite_keeps
        | with_reducible apply State.release_keeps)
    | with_reducible refine Keeps.ite ?_ ?_
    | split
    | dsimp only

theorem State.saddleExpire_keeps {s0 s : State} (h : Keeps s0 s) :
    Keeps s0 (s.saddleExpire ) := by
  unfold State.saddleExpire
  repeat' first
    | with_reducible assumption
    | with_reducible apply State.setBlock_keeps
    | with_reducible apply State.setSaddle_keeps
    | (with_reducible refine Keeps.foldl ?_ (fun t x k => ?_))
    | (with_reducible refine Keeps.put ?_ ?_ .. <;>
        first
        | exact Nat.le_refl _
        | exact Nat.le_succ _
        | with_reducible assumption
        | with_reducible apply State.setBlock_keeps
        | with_reducible apply State.setSaddle_keeps
        | (with_reducible refine Keeps.foldl ?_ (fun t x k => ?_)))
    | with_reducible refine Keeps.ite ?_ ?_
    | split
    | dsimp only

end Sys2Proof.Machine
end

