-- ==== Sys2Proof/Laws/KeepsRecovery.lean ====
section
/-! SUPPORT. Every operation on resets and recovery keeps what Keeps names; one lemma for each. -/

namespace Sys2Proof.Machine

set_option linter.unusedTactic false
set_option linter.unreachableTactic false

theorem State.clearBlock_keeps {s0 s : State} (h : Keeps s0 s) (p : Nat) (mask : Nat → Word) :
    Keeps s0 (s.clearBlock p mask) := by
  unfold State.clearBlock
  repeat' first
    | with_reducible assumption
    | with_reducible apply State.set_keeps
    | with_reducible apply State.count_keeps
    | with_reducible apply State.setBlock_keeps
    | (with_reducible refine Keeps.put ?_ ?_ .. <;>
        first
        | exact Nat.le_refl _
        | exact Nat.le_succ _
        | with_reducible assumption
        | with_reducible apply State.set_keeps
        | with_reducible apply State.count_keeps
        | with_reducible apply State.setBlock_keeps)
    | with_reducible refine Keeps.ite ?_ ?_
    | split
    | dsimp only

theorem State.showSample_keeps {s0 s : State} (h : Keeps s0 s) :
    Keeps s0 (s.showSample ) := by
  unfold State.showSample
  repeat' first
    | with_reducible assumption
    | with_reducible apply State.set_keeps
    | (with_reducible refine Keeps.put ?_ ?_ .. <;>
        first
        | exact Nat.le_refl _
        | exact Nat.le_succ _
        | with_reducible assumption
        | with_reducible apply State.set_keeps)
    | with_reducible refine Keeps.ite ?_ ?_
    | split
    | dsimp only

theorem State.collect_keeps {s0 s : State} (h : Keeps s0 s) (kind : Nat) (first : List Nat) (mine : Nat → Bool) :
    Keeps s0 (s.collect kind first mine) := by
  unfold State.collect
  repeat' first
    | with_reducible assumption
    | with_reducible apply State.set_keeps
    | with_reducible apply State.showSample_keeps
    | (with_reducible refine Keeps.put ?_ ?_ .. <;>
        first
        | exact Nat.le_refl _
        | exact Nat.le_succ _
        | with_reducible assumption
        | with_reducible apply State.set_keeps
        | with_reducible apply State.showSample_keeps)
    | with_reducible refine Keeps.ite ?_ ?_
    | split
    | dsimp only

theorem State.outOfService_keeps {s0 s : State} (h : Keeps s0 s) (cause : Nat) :
    Keeps s0 (s.outOfService cause) := by
  unfold State.outOfService
  repeat' first
    | with_reducible assumption
    | decide
    | with_reducible apply State.sayDown_keeps
    | with_reducible apply State.forgetJob_keeps
    | with_reducible apply State.showJob_keeps
    | with_reducible apply State.set_keeps
    | with_reducible apply State.goTo_keeps
    | (with_reducible refine Keeps.put ?_ ?_ .. <;>
        first
        | exact Nat.le_refl _
        | exact Nat.le_succ _
        | with_reducible assumption
        | with_reducible apply State.sayDown_keeps
        | with_reducible apply State.forgetJob_keeps
        | with_reducible apply State.showJob_keeps
        | with_reducible apply State.set_keeps
        | with_reducible apply State.goTo_keeps)
    | with_reducible refine Keeps.ite ?_ ?_
    | split
    | dsimp only

theorem State.clearDie_keeps {s0 s : State} (h : Keeps s0 s) :
    Keeps s0 (s.clearDie ) := by
  unfold State.clearDie
  repeat' first
    | with_reducible assumption
    | (with_reducible refine Keeps.put ?_ ?_ .. <;>
        first
        | exact Nat.le_refl _
        | exact Nat.le_succ _
        | with_reducible assumption)
    | with_reducible refine Keeps.ite ?_ ?_
    | split
    | dsimp only

theorem State.takePack_keeps {s0 s : State} (h : Keeps s0 s) :
    Keeps s0 (s.takePack ) := by
  unfold State.takePack
  repeat' first
    | with_reducible assumption
    | with_reducible apply State.set_keeps
    | (with_reducible refine Keeps.put ?_ ?_ .. <;>
        first
        | exact Nat.le_refl _
        | exact Nat.le_succ _
        | with_reducible assumption
        | with_reducible apply State.set_keeps)
    | dsimp only

theorem State.startWarm_keeps {s0 s : State} (h : Keeps s0 s) :
    Keeps s0 (s.startWarm ) := by
  unfold State.startWarm
  repeat' first
    | with_reducible assumption
    | decide
    | with_reducible apply State.takePack_keeps
    | with_reducible apply State.goTo_keeps
    | with_reducible apply State.set_keeps
    | (with_reducible refine Keeps.put ?_ ?_ .. <;>
        first
        | exact Nat.le_refl _
        | exact Nat.le_succ _
        | with_reducible assumption
        | with_reducible apply State.takePack_keeps
        | with_reducible apply State.goTo_keeps
        | with_reducible apply State.set_keeps)
    | with_reducible refine Keeps.ite ?_ ?_
    | split
    | dsimp only

theorem State.coldClear_keeps {s0 s : State} (h : Keeps s0 s) : Keeps s0 s.coldClear :=
  h.trans ⟨rfl, rfl, Nat.le_refl _, id, fun _ => ⟨rfl, rfl⟩, Nat.le_refl _, fun _ => Nat.le_refl _, fun _ m _ => m⟩

theorem State.startCold_keeps {s0 s : State} (h : Keeps s0 s) :
    Keeps s0 (s.startCold ) := by
  unfold State.startCold
  repeat' first
    | with_reducible assumption
    | decide
    | with_reducible apply State.coldClear_keeps
    | with_reducible apply State.goTo_keeps
    | with_reducible apply State.set_keeps
    | (with_reducible refine Keeps.put ?_ ?_ .. <;>
        first
        | exact Nat.le_refl _
        | exact Nat.le_succ _
        | with_reducible assumption
        | with_reducible apply State.coldClear_keeps
        | with_reducible apply State.goTo_keeps
        | with_reducible apply State.set_keeps)
    | dsimp only

theorem State.escalate_keeps {s0 s : State} (h : Keeps s0 s) (kind place level : Nat) :
    Keeps s0 (s.escalate kind place level) := by
  unfold State.escalate
  repeat' first
    | with_reducible assumption
    | with_reducible apply State.set_keeps
    | with_reducible apply State.raise_keeps

theorem State.warmReset_keeps {s0 s : State} (h : Keeps s0 s) (cause : Nat) :
    Keeps s0 (s.warmReset cause) := by
  unfold State.warmReset
  repeat' first
    | with_reducible assumption
    | with_reducible apply State.escalate_keeps
    | with_reducible apply State.outOfService_keeps
    | with_reducible apply State.sayDown_keeps
    | with_reducible apply State.collect_keeps
    | with_reducible apply State.raise_keeps
    | with_reducible apply State.clearDie_keeps
    | with_reducible apply State.count_keeps
    | with_reducible apply State.set_keeps
    | with_reducible apply State.startWarm_keeps
    | (with_reducible refine Keeps.put ?_ ?_ .. <;>
        first
        | exact Nat.le_refl _
        | exact Nat.le_succ _
        | with_reducible assumption
        | with_reducible apply State.escalate_keeps
        | with_reducible apply State.outOfService_keeps
        | with_reducible apply State.sayDown_keeps
        | with_reducible apply State.collect_keeps
        | with_reducible apply State.raise_keeps
        | with_reducible apply State.clearDie_keeps
        | with_reducible apply State.count_keeps
        | with_reducible apply State.set_keeps
        | with_reducible apply State.startWarm_keeps)
    | with_reducible refine Keeps.ite ?_ ?_
    | split
    | dsimp only

theorem State.onTwin_keeps {s0 s : State} (h : Keeps s0 s) (f : Twin → Twin) :
    Keeps s0 (s.onTwin f) := by
  unfold State.onTwin
  repeat' first
    | with_reducible assumption
    | (with_reducible refine Keeps.put ?_ ?_ .. <;>
        first
        | exact Nat.le_refl _
        | exact Nat.le_succ _
        | with_reducible assumption)

theorem State.twinEvent_keeps {s0 s : State} (h : Keeps s0 s) (cause : Nat) :
    Keeps s0 (s.twinEvent cause) := by
  unfold State.twinEvent
  repeat' first
    | with_reducible assumption
    | with_reducible apply State.raise_keeps

theorem State.solo_keeps {s0 s : State} (h : Keeps s0 s) (state : Nat) :
    Keeps s0 (s.solo state) := by
  unfold State.solo
  repeat' first
    | with_reducible assumption
    | with_reducible apply State.set_keeps
    | (with_reducible refine Keeps.put ?_ ?_ .. <;>
        first
        | exact Nat.le_refl _
        | exact Nat.le_succ _
        | with_reducible assumption
        | with_reducible apply State.set_keeps)
    | dsimp only

theorem State.relaunch_keeps {s0 s : State} (h : Keeps s0 s) (c : Nat) :
    Keeps s0 (s.relaunch c) := by
  unfold State.relaunch
  repeat' first
    | with_reducible assumption
    | with_reducible apply State.setDispatch_keeps
    | with_reducible apply State.setBlock_keeps
    | with_reducible apply State.onTwin_keeps
    | with_reducible apply State.set_keeps
    | with_reducible apply State.showJob_keeps
    | (with_reducible refine Keeps.foldl ?_ (fun t x k => ?_))
    | (with_reducible refine Keeps.put ?_ ?_ .. <;>
        first
        | exact Nat.le_refl _
        | exact Nat.le_succ _
        | with_reducible assumption
        | with_reducible apply State.setDispatch_keeps
        | with_reducible apply State.setBlock_keeps
        | with_reducible apply State.onTwin_keeps
        | with_reducible apply State.set_keeps
        | with_reducible apply State.showJob_keeps
        | (with_reducible refine Keeps.foldl ?_ (fun t x k => ?_)))
    | with_reducible refine Keeps.ite ?_ ?_
    | split
    | dsimp only
    | dsimp only [id]

theorem State.standbyStart_keeps {s0 s : State} (h : Keeps s0 s) :
    Keeps s0 (s.standbyStart ) := by
  unfold State.standbyStart
  repeat' first
    | with_reducible assumption
    | with_reducible apply State.relaunch_keeps
    | (with_reducible refine Keeps.foldl ?_ (fun t x k => ?_))
    | (with_reducible refine Keeps.put ?_ ?_ .. <;>
        first
        | exact Nat.le_refl _
        | exact Nat.le_succ _
        | with_reducible assumption
        | with_reducible apply State.relaunch_keeps
        | (with_reducible refine Keeps.foldl ?_ (fun t x k => ?_)))
    | with_reducible refine Keeps.ite ?_ ?_
    | split
    | dsimp only

theorem State.alone_keeps {s0 s : State} (h : Keeps s0 s) (cause : Nat) :
    Keeps s0 (s.alone cause) := by
  unfold State.alone
  repeat' first
    | with_reducible assumption
    | with_reducible apply State.solo_keeps
    | with_reducible apply State.set_keeps
    | with_reducible apply State.count_keeps
    | with_reducible apply State.twinEvent_keeps
    | with_reducible apply State.onTwin_keeps
    | with_reducible apply State.standbyStart_keeps
    | (with_reducible refine Keeps.put ?_ ?_ .. <;>
        first
        | exact Nat.le_refl _
        | exact Nat.le_succ _
        | with_reducible assumption
        | with_reducible apply State.solo_keeps
        | with_reducible apply State.set_keeps
        | with_reducible apply State.count_keeps
        | with_reducible apply State.twinEvent_keeps
        | with_reducible apply State.onTwin_keeps
        | with_reducible apply State.standbyStart_keeps)
    | with_reducible refine Keeps.ite ?_ ?_
    | split
    | dsimp only

theorem State.detach_keeps {s0 s : State} (h : Keeps s0 s) (cause : Nat) :
    Keeps s0 (s.detach cause) := by
  unfold State.detach
  repeat' first
    | with_reducible assumption
    | with_reducible apply State.say_keeps
    | with_reducible apply State.solo_keeps
    | with_reducible apply State.set_keeps
    | with_reducible apply State.count_keeps
    | with_reducible apply State.twinEvent_keeps
    | with_reducible apply State.failJob_keeps
    | (with_reducible refine Keeps.put ?_ ?_ .. <;>
        first
        | exact Nat.le_refl _
        | exact Nat.le_succ _
        | with_reducible assumption
        | with_reducible apply State.say_keeps
        | with_reducible apply State.solo_keeps
        | with_reducible apply State.set_keeps
        | with_reducible apply State.count_keeps
        | with_reducible apply State.twinEvent_keeps
        | with_reducible apply State.failJob_keeps)
    | with_reducible refine Keeps.ite ?_ ?_
    | split
    | dsimp only

theorem State.sweepCounts_keeps {s0 s : State} (h : Keeps s0 s) :
    Keeps s0 (s.sweepCounts ) := by
  unfold State.sweepCounts
  repeat' first
    | with_reducible assumption
    | with_reducible apply State.set_keeps
    | with_reducible apply State.rset_keeps
    | (with_reducible refine Keeps.foldl ?_ (fun t x k => ?_))
    | dsimp only

theorem State.quarantine_keeps {s0 s : State} (h : Keeps s0 s) (p code : Nat) :
    Keeps s0 (s.quarantine p code) := by
  unfold State.quarantine
  repeat' first
    | with_reducible assumption
    | with_reducible apply State.set_keeps
    | with_reducible apply State.setBlock_keeps
    | with_reducible apply State.setRmt_keeps
    | with_reducible apply State.book_keeps
    | with_reducible apply State.sweepCounts_keeps
    | (with_reducible refine Keeps.put ?_ ?_ .. <;>
        first
        | exact Nat.le_refl _
        | exact Nat.le_succ _
        | with_reducible assumption
        | with_reducible apply State.set_keeps
        | with_reducible apply State.setBlock_keeps
        | with_reducible apply State.setRmt_keeps
        | with_reducible apply State.book_keeps
        | with_reducible apply State.sweepCounts_keeps)
    | with_reducible refine Keeps.ite ?_ ?_
    | split
    | dsimp only

theorem State.regionDown_keeps {s0 s : State} (h : Keeps s0 s) (r : Nat) :
    Keeps s0 (s.regionDown r) := by
  unfold State.regionDown
  repeat' first
    | with_reducible assumption
    | decide
    | with_reducible apply State.rset_keeps
    | with_reducible apply State.closeJob_keeps
    | with_reducible apply State.withdraw_keeps
    | with_reducible apply State.setRmt_keeps
    | with_reducible apply State.set_keeps
    | with_reducible apply State.goTo_keeps
    | with_reducible apply State.holdReason_keeps
    | (with_reducible refine Keeps.foldl ?_ (fun t x k => ?_))
    | (with_reducible refine Keeps.put ?_ ?_ .. <;>
        first
        | exact Nat.le_refl _
        | exact Nat.le_succ _
        | with_reducible assumption
        | with_reducible apply State.rset_keeps
        | with_reducible apply State.closeJob_keeps
        | with_reducible apply State.withdraw_keeps
        | with_reducible apply State.setRmt_keeps
        | with_reducible apply State.set_keeps
        | with_reducible apply State.goTo_keeps
        | with_reducible apply State.holdReason_keeps
        | (with_reducible refine Keeps.foldl ?_ (fun t x k => ?_)))
    | with_reducible refine Keeps.ite ?_ ?_
    | split
    | dsimp only

theorem State.shadowsOff_keeps {s0 s : State} (h : Keeps s0 s) (p : Nat) :
    Keeps s0 (s.shadowsOff p) := by
  unfold State.shadowsOff
  repeat' first
    | with_reducible assumption
    | with_reducible apply State.shadowDrop_keeps
    | (with_reducible refine Keeps.foldl ?_ (fun t x k => ?_))
    | dsimp only

theorem State.shadowRestore_keeps {s0 s : State} (h : Keeps s0 s) (w : Shadow) (bs : List Byte) :
    Keeps s0 (s.shadowRestore w bs) := by
  unfold State.shadowRestore
  repeat' first
    | with_reducible assumption
    | with_reducible apply State.setBlock_keeps
    | (with_reducible refine Keeps.put ?_ ?_ .. <;>
        first
        | exact Nat.le_refl _
        | exact Nat.le_succ _
        | with_reducible assumption
        | with_reducible apply State.setBlock_keeps)
    | with_reducible refine Keeps.ite ?_ ?_
    | split
    | dsimp only

theorem State.freeSpare_keeps {s0 s : State} (h : Keeps s0 s) (q : Nat) :
    Keeps s0 (s.freeSpare q) := by
  unfold State.freeSpare
  repeat' first
    | with_reducible assumption
    | with_reducible apply State.abandon_keeps
    | with_reducible apply State.setLeases_keeps
    | (with_reducible refine Keeps.foldl ?_ (fun t x k => ?_))
    | (with_reducible refine Keeps.put ?_ ?_ .. <;>
        first
        | exact Nat.le_refl _
        | exact Nat.le_succ _
        | with_reducible assumption
        | with_reducible apply State.abandon_keeps
        | with_reducible apply State.setLeases_keeps
        | (with_reducible refine Keeps.foldl ?_ (fun t x k => ?_)))
    | dsimp only

theorem State.remountTo_keeps {s0 s : State} (h : Keeps s0 s) (p q l : Nat) :
    Keeps s0 (s.remountTo p q l) := by
  unfold State.remountTo
  repeat' first
    | with_reducible assumption
    | with_reducible apply State.freeSpare_keeps
    | with_reducible apply State.setRmt_keeps
    | with_reducible apply State.rcount_keeps
    | with_reducible apply State.count_keeps
    | with_reducible apply State.onScreen_keeps
    | (with_reducible refine Keeps.put ?_ ?_ .. <;>
        first
        | exact Nat.le_refl _
        | exact Nat.le_succ _
        | with_reducible assumption
        | with_reducible apply State.freeSpare_keeps
        | with_reducible apply State.setRmt_keeps
        | with_reducible apply State.rcount_keeps
        | with_reducible apply State.count_keeps
        | with_reducible apply State.onScreen_keeps)
    | with_reducible refine Keeps.ite ?_ ?_
    | split
    | dsimp only

theorem State.remount_keeps {s0 s : State} (h : Keeps s0 s) (p : Nat) :
    Keeps s0 (s.remount p) := by
  unfold State.remount
  repeat' first
    | with_reducible assumption
    | with_reducible apply State.remountTo_keeps
    | with_reducible apply State.regionDown_keeps
    | (with_reducible refine Keeps.put ?_ ?_ .. <;>
        first
        | exact Nat.le_refl _
        | exact Nat.le_succ _
        | with_reducible assumption
        | with_reducible apply State.remountTo_keeps
        | with_reducible apply State.regionDown_keeps)
    | with_reducible refine Keeps.ite ?_ ?_
    | split
    | dsimp only

theorem State.blockReset_keeps {s0 s : State} (h : Keeps s0 s) (p cause : Nat) : Keeps s0 (s.blockReset p cause).1 := by
  unfold State.blockReset
  dsimp only
  split
  · exact State.quarantine_keeps (State.escalate_keeps h _ _ _) _ _
  · exact State.setBlock_keeps (State.clearBlock_keeps (State.onBlock_keeps (State.collect_keeps h _ _ _) _ _) _ _) _ _

theorem State.stopAll_keeps {s0 s : State} (h : Keeps s0 s) :
    Keeps s0 (s.stopAll ) := by
  unfold State.stopAll
  repeat' first
    | with_reducible assumption
    | with_reducible apply State.stopWork_keeps
    | with_reducible apply State.setBlock_keeps
    | (with_reducible refine Keeps.foldl ?_ (fun t x k => ?_))
    | (with_reducible refine Keeps.put ?_ ?_ .. <;>
        first
        | exact Nat.le_refl _
        | exact Nat.le_succ _
        | with_reducible assumption
        | with_reducible apply State.stopWork_keeps
        | with_reducible apply State.setBlock_keeps
        | (with_reducible refine Keeps.foldl ?_ (fun t x k => ?_)))
    | with_reducible refine Keeps.ite ?_ ?_
    | split
    | dsimp only

theorem State.showRecovery_keeps {s0 s : State} (h : Keeps s0 s) (kind restarts : Nat) :
    Keeps s0 (s.showRecovery kind restarts) := by
  unfold State.showRecovery
  repeat' first
    | with_reducible assumption
    | with_reducible apply State.set_keeps
    | dsimp only

theorem State.noReplay_keeps {s0 s : State} (h : Keeps s0 s) :
    Keeps s0 (s.noReplay ) := by
  unfold State.noReplay
  repeat' first
    | with_reducible assumption
    | with_reducible apply State.set_keeps
    | with_reducible apply State.detach_keeps
    | with_reducible apply State.endJob_keeps
    | (with_reducible refine Keeps.put ?_ ?_ .. <;>
        first
        | exact Nat.le_refl _
        | exact Nat.le_succ _
        | with_reducible assumption
        | with_reducible apply State.set_keeps
        | with_reducible apply State.detach_keeps
        | with_reducible apply State.endJob_keeps)
    | with_reducible refine Keeps.ite ?_ ?_
    | split
    | dsimp only

theorem State.clearRegion_keeps {s0 s : State} (h : Keeps s0 s) (r : Nat) :
    Keeps s0 (s.clearRegion r) := by
  unfold State.clearRegion
  repeat' first
    | with_reducible assumption
    | with_reducible apply State.clearBlock_keeps
    | with_reducible apply State.setRegion_keeps
    | (with_reducible refine Keeps.foldl ?_ (fun t x k => ?_))
    | (with_reducible refine Keeps.put ?_ ?_ .. <;>
        first
        | exact Nat.le_refl _
        | exact Nat.le_succ _
        | with_reducible assumption
        | with_reducible apply State.clearBlock_keeps
        | with_reducible apply State.setRegion_keeps
        | (with_reducible refine Keeps.foldl ?_ (fun t x k => ?_)))
    | dsimp only

theorem State.placeRegion_keeps {s0 s : State} (h : Keeps s0 s) (r : Nat) :
    Keeps s0 (s.placeRegion r) := by
  unfold State.placeRegion
  repeat' first
    | with_reducible assumption
    | with_reducible apply State.remount_keeps
    | (with_reducible refine Keeps.foldl ?_ (fun t x k => ?_))
    | dsimp only

theorem State.formTables_keeps {s0 s : State} (h : Keeps s0 s) (r : Nat) :
    Keeps s0 (s.formTables r) := by
  unfold State.formTables
  repeat' first
    | with_reducible assumption
    | with_reducible apply State.clearRegion_keeps
    | with_reducible apply State.placeRegion_keeps
    | with_reducible apply State.regionDown_keeps
    | with_reducible refine Keeps.ite ?_ ?_
    | split
    | dsimp only

theorem State.recoverFrom_keeps {s0 s : State} (h : Keeps s0 s) (kind restarts r : Nat) :
    Keeps s0 (s.recoverFrom kind restarts r) := by
  unfold State.recoverFrom
  repeat' first
    | with_reducible assumption
    | with_reducible apply State.noReplay_keeps
    | with_reducible apply State.remount_keeps
    | with_reducible apply State.shadowsOff_keeps
    | with_reducible apply State.formTables_keeps
    | with_reducible apply State.stopAll_keeps
    | with_reducible apply State.setDispatch_keeps
    | with_reducible apply State.showRecovery_keeps
    | with_reducible apply State.set_keeps
    | with_reducible apply State.say_keeps
    | with_reducible apply State.force_keeps
    | with_reducible apply State.flipStart_keeps
    | (with_reducible refine Keeps.foldl ?_ (fun t x k => ?_))
    | (with_reducible refine Keeps.put ?_ ?_ .. <;>
        first
        | exact Nat.le_refl _
        | exact Nat.le_succ _
        | with_reducible assumption
        | with_reducible apply State.noReplay_keeps
        | with_reducible apply State.remount_keeps
        | with_reducible apply State.shadowsOff_keeps
        | with_reducible apply State.formTables_keeps
        | with_reducible apply State.stopAll_keeps
        | with_reducible apply State.setDispatch_keeps
        | with_reducible apply State.showRecovery_keeps
        | with_reducible apply State.set_keeps
        | with_reducible apply State.say_keeps
        | with_reducible apply State.force_keeps
        | with_reducible apply State.flipStart_keeps
        | (with_reducible refine Keeps.foldl ?_ (fun t x k => ?_)))
    | with_reducible refine Keeps.ite ?_ ?_
    | split
    | dsimp only

theorem State.deferHolders_keeps {s0 s : State} (h : Keeps s0 s) :
    Keeps s0 (s.deferHolders ) := by
  unfold State.deferHolders
  repeat' first
    | with_reducible assumption
    | with_reducible apply State.count_keeps
    | with_reducible apply State.swapDefer_keeps
    | (with_reducible refine Keeps.put ?_ ?_ .. <;>
        first
        | exact Nat.le_refl _
        | exact Nat.le_succ _
        | with_reducible assumption
        | with_reducible apply State.count_keeps
        | with_reducible apply State.swapDefer_keeps)
    | with_reducible refine Keeps.ite ?_ ?_
    | split
    | dsimp only

theorem State.startRecovery_keeps {s0 s : State} (h : Keeps s0 s) (f : RcvFault) (r : Nat) (prep : State → State)
    (hp : ∀ t, Keeps s0 t → Keeps s0 (prep t)) : Keeps s0 (s.startRecovery f r prep) := by
  unfold State.startRecovery
  extract_lets n again restarts t1 t2 rc t3 t4 t5 t6
  split
  · exact hp s h
  · split
    · exact State.warmReset_keeps h _
    · have k2 : Keeps s0 t2 := State.deferHolders_keeps (State.goTo_keeps h _ (by decide))
      clear_value t2
      have k3 : Keeps s0 t3 := by with_reducible refine Keeps.put k2 (Nat.le_refl _) ..
      clear_value t3
      have k4 : Keeps s0 t4 := State.set_keeps (State.set_keeps k3 _ _) _ _
      clear_value t4
      have k5 : Keeps s0 t5 := by
        unfold t5
        split
        · exact State.say_keeps k4 _ _
        · exact k4
      clear_value t5
      have k6 : Keeps s0 t6 := hp _ k5
      clear_value t6
      split
      · exact k6
      · exact State.recoverFrom_keeps k6 _ _ _

theorem State.blockFault_keeps {s0 s : State} (h : Keeps s0 s) (p code : Nat) :
    Keeps s0 (s.blockFault p code) := by
  unfold State.blockFault
  repeat' first
    | with_reducible assumption
    | with_reducible apply State.lasting_keeps
    | with_reducible apply State.quarantine_keeps
    | with_reducible apply State.startRecovery_keeps
    | (intro t k)
    | with_reducible refine Keeps.ite ?_ ?_
    | split
    | dsimp only

theorem State.tetherFault_keeps {s0 s : State} (h : Keeps s0 s) (p cause : Nat) :
    Keeps s0 (s.tetherFault p cause) := by
  unfold State.tetherFault
  repeat' first
    | with_reducible assumption
    | with_reducible apply State.blockFault_keeps
    | with_reducible apply State.blockReset_keeps
    | with_reducible apply State.startRecovery_keeps
    | (refine Keeps.of_fst ‹_ = (_, _)› ?_)
    | (refine Keeps.of_snd ‹_ = (_, _)› ?_)
    | (intro t k)
    | (with_reducible refine Keeps.put ?_ ?_ .. <;>
        first
        | exact Nat.le_refl _
        | exact Nat.le_succ _
        | with_reducible assumption
        | with_reducible apply State.blockFault_keeps
        | with_reducible apply State.blockReset_keeps
        | with_reducible apply State.startRecovery_keeps
        | (refine Keeps.of_fst ‹_ = (_, _)› ?_))
    | with_reducible refine Keeps.ite ?_ ?_
    | split
    | dsimp only

theorem State.regionRecovery_keeps {s0 s : State} (h : Keeps s0 s) (r : Nat) (tackLost : Bool) :
    Keeps s0 (s.regionRecovery r tackLost) := by
  unfold State.regionRecovery
  repeat' first
    | with_reducible assumption
    | with_reducible apply State.clearRegion_keeps
    | with_reducible apply State.regionDown_keeps
    | with_reducible apply State.placeRegion_keeps
    | with_reducible apply State.startRecovery_keeps
    | (intro t k)
    | (with_reducible refine Keeps.put ?_ ?_ .. <;>
        first
        | exact Nat.le_refl _
        | exact Nat.le_succ _
        | with_reducible assumption
        | with_reducible apply State.clearRegion_keeps
        | with_reducible apply State.regionDown_keeps
        | with_reducible apply State.placeRegion_keeps
        | with_reducible apply State.startRecovery_keeps)
    | with_reducible refine Keeps.ite ?_ ?_
    | split
    | dsimp only

theorem State.regionReset_keeps {s0 s : State} (h : Keeps s0 s) (r cause : Nat) (tackLost : Bool) :
    Keeps s0 (s.regionReset r cause tackLost).1 := by
  unfold State.regionReset
  dsimp only
  split
  · exact State.regionDown_keeps (State.escalate_keeps h _ _ _) _
  · exact State.regionRecovery_keeps (State.setRegion_keeps (State.raiseRegion_keeps (State.collect_keeps h _ _ _) _ _) _ _) _ _

theorem State.routerFault_keeps {s0 s : State} (h : Keeps s0 s) (p code : Nat) :
    Keeps s0 (s.routerFault p code) := by
  unfold State.routerFault
  repeat' first
    | with_reducible assumption
    | with_reducible apply State.failRouter_keeps
    | with_reducible apply State.startRecovery_keeps
    | with_reducible apply State.lasting_keeps
    | with_reducible apply State.quarantine_keeps
    | with_reducible apply State.clearRegion_keeps
    | with_reducible apply State.placeRegion_keeps
    | with_reducible apply State.blockFault_keeps
    | (intro t k)
    | with_reducible refine Keeps.ite ?_ ?_
    | split
    | dsimp only

theorem State.recoveryStart_keeps {s0 s : State} (h : Keeps s0 s) (c : Fault1) : Keeps s0 (s.recoveryStart c) := by
  unfold State.recoveryStart
  split
  · split
    · exact State.blockFault_keeps h _ _
    · exact h
  · exact State.routerFault_keeps h _ _
  · split
    · exact State.tetherFault_keeps h _ _
    · exact h
  · split
    · exact State.startRecovery_keeps h _ _ _ fun _ k => k
    · exact h
  · split
    · exact State.startRecovery_keeps h _ _ _ fun _ k => k
    · exact h

theorem State.shadowAgain_keeps {s0 s : State} (h : Keeps s0 s) (p : Nat) (bs : List Byte) :
    Keeps s0 (s.shadowAgain p bs) := by
  unfold State.shadowAgain
  repeat' first
    | with_reducible assumption
    | with_reducible apply State.shadowDrop_keeps
    | with_reducible apply State.onScreen_keeps
    | with_reducible apply State.shadowRestore_keeps
    | (with_reducible refine Keeps.foldl ?_ (fun t x k => ?_))
    | (with_reducible refine Keeps.put ?_ ?_ .. <;>
        first
        | exact Nat.le_refl _
        | exact Nat.le_succ _
        | with_reducible assumption
        | with_reducible apply State.shadowDrop_keeps
        | with_reducible apply State.onScreen_keeps
        | with_reducible apply State.shadowRestore_keeps
        | (with_reducible refine Keeps.foldl ?_ (fun t x k => ?_)))
    | with_reducible refine Keeps.ite ?_ ?_
    | split
    | dsimp only

theorem State.blockRestore_keeps {s0 s : State} (h : Keeps s0 s) (p : Nat) :
    Keeps s0 (s.blockRestore p) := by
  unfold State.blockRestore
  repeat' first
    | with_reducible assumption
    | with_reducible apply State.set_keeps
    | with_reducible apply State.setBlock_keeps
    | with_reducible apply State.shadowAgain_keeps
    | with_reducible apply State.flipRequest_keeps
    | (with_reducible refine Keeps.put ?_ ?_ .. <;>
        first
        | exact Nat.le_refl _
        | exact Nat.le_succ _
        | with_reducible assumption
        | with_reducible apply State.set_keeps
        | with_reducible apply State.setBlock_keeps
        | with_reducible apply State.shadowAgain_keeps
        | with_reducible apply State.flipRequest_keeps)
    | with_reducible refine Keeps.ite ?_ ?_
    | split
    | dsimp only

end Sys2Proof.Machine
end

