-- ==== Sys2Proof/Laws/KeepsScreening.lean ====
section
/-! SUPPORT. Every operation on screening and the ports keeps what Keeps names; one lemma for each. -/

namespace Sys2Proof.Machine

set_option linter.unusedTactic false
set_option linter.unreachableTactic false

theorem State.showTest_keeps {s0 s : State} (h : Keeps s0 s) (p : Nat) :
    Keeps s0 (s.showTest p) := by
  unfold State.showTest
  repeat' first
    | with_reducible assumption
    | with_reducible apply State.set_keeps
    | with_reducible apply State.setBlock_keeps
    | with_reducible refine Keeps.ite ?_ ?_
    | split
    | dsimp only

theorem State.showRegionTest_keeps {s0 s : State} (h : Keeps s0 s) (r : Nat) :
    Keeps s0 (s.showRegionTest r) := by
  unfold State.showRegionTest
  repeat' first
    | with_reducible assumption
    | with_reducible apply State.rset_keeps
    | with_reducible refine Keeps.ite ?_ ?_
    | split
    | dsimp only

theorem State.sliceStart_keeps {s0 s : State} (h : Keeps s0 s) (p : Nat) :
    Keeps s0 (s.sliceStart p) := by
  unfold State.sliceStart
  repeat' first
    | with_reducible assumption
    | with_reducible apply State.acquire_keeps
    | with_reducible apply State.collect_keeps
    | with_reducible apply State.setBlock_keeps
    | with_reducible apply State.set_keeps
    | with_reducible apply State.setRmt_keeps
    | (refine Keeps.of_fst ‹_ = (_, _)› ?_)
    | (refine Keeps.of_snd ‹_ = (_, _)› ?_)
    | (with_reducible refine Keeps.put ?_ ?_ .. <;>
        first
        | exact Nat.le_refl _
        | exact Nat.le_succ _
        | with_reducible assumption
        | with_reducible apply State.acquire_keeps
        | with_reducible apply State.collect_keeps
        | with_reducible apply State.setBlock_keeps
        | with_reducible apply State.set_keeps
        | with_reducible apply State.setRmt_keeps
        | (refine Keeps.of_fst ‹_ = (_, _)› ?_))
    | with_reducible refine Keeps.ite ?_ ?_
    | split
    | dsimp only

theorem State.reloadAfter_keeps {s0 s : State} (h : Keeps s0 s) (p k : Nat) :
    Keeps s0 (s.reloadAfter p k) := by
  unfold State.reloadAfter
  repeat' first
    | with_reducible assumption
    | with_reducible apply State.setBlock_keeps
    | (with_reducible refine Keeps.put ?_ ?_ .. <;>
        first
        | exact Nat.le_refl _
        | exact Nat.le_succ _
        | with_reducible assumption
        | with_reducible apply State.setBlock_keeps)
    | with_reducible refine Keeps.ite ?_ ?_
    | split
    | dsimp only

theorem State.zeroTables_keeps {s0 s : State} (h : Keeps s0 s) (p e : Nat) :
    Keeps s0 (s.zeroTables p e) := by
  unfold State.zeroTables
  repeat' first
    | with_reducible assumption
    | (with_reducible refine Keeps.put ?_ ?_ .. <;>
        first
        | exact Nat.le_refl _
        | exact Nat.le_succ _
        | with_reducible assumption)
    | dsimp only

theorem State.spoilSlices_keeps {s0 s : State} (h : Keeps s0 s) (r : Nat) :
    Keeps s0 (s.spoilSlices r) := by
  unfold State.spoilSlices
  repeat' first
    | with_reducible assumption
    | with_reducible apply State.setBlock_keeps
    | (with_reducible refine Keeps.foldl ?_ (fun t x k => ?_))
    | (with_reducible refine Keeps.put ?_ ?_ .. <;>
        first
        | exact Nat.le_refl _
        | exact Nat.le_succ _
        | with_reducible assumption
        | with_reducible apply State.setBlock_keeps
        | (with_reducible refine Keeps.foldl ?_ (fun t x k => ?_)))
    | with_reducible refine Keeps.ite ?_ ?_
    | split
    | dsimp only

theorem State.sliceOver_keeps {s0 s : State} (h : Keeps s0 s) (p k : Nat) :
    Keeps s0 (s.sliceOver p k) := by
  unfold State.sliceOver
  repeat' first
    | with_reducible assumption
    | with_reducible apply State.setBlock_keeps
    | with_reducible apply State.release_keeps
    | with_reducible apply State.zeroTables_keeps
    | with_reducible apply State.setRmt_keeps
    | with_reducible apply State.reloadAfter_keeps
    | with_reducible apply State.showTest_keeps
    | (with_reducible refine Keeps.put ?_ ?_ .. <;>
        first
        | exact Nat.le_refl _
        | exact Nat.le_succ _
        | with_reducible assumption
        | with_reducible apply State.setBlock_keeps
        | with_reducible apply State.release_keeps
        | with_reducible apply State.zeroTables_keeps
        | with_reducible apply State.setRmt_keeps
        | with_reducible apply State.reloadAfter_keeps
        | with_reducible apply State.showTest_keeps)
    | with_reducible refine Keeps.ite ?_ ?_
    | split
    | dsimp only

theorem State.sliceEvent_keeps {s0 s : State} (h : Keeps s0 s) (p outcome attempt : Nat) (place : Word) :
    Keeps s0 (s.sliceEvent p outcome attempt place) := by
  unfold State.sliceEvent
  repeat' first
    | with_reducible assumption
    | with_reducible apply State.onBlock_keeps
    | dsimp only

theorem State.diagKeep_keeps {s0 s : State} (h : Keeps s0 s) (p k : Nat) (pass : Bool) (place : Word) :
    Keeps s0 (s.diagKeep p k pass place) := by
  unfold State.diagKeep
  repeat' first
    | with_reducible assumption
    | with_reducible apply State.setBlock_keeps
    | (with_reducible refine Keeps.put ?_ ?_ .. <;>
        first
        | exact Nat.le_refl _
        | exact Nat.le_succ _
        | with_reducible assumption
        | with_reducible apply State.setBlock_keeps)
    | with_reducible refine Keeps.ite ?_ ?_
    | split
    | dsimp only

theorem State.sliceEnd_keeps {s0 s : State} (h : Keeps s0 s) (p : Nat) (pass : Bool) (place : Word) :
    Keeps s0 (s.sliceEnd p pass place) := by
  unfold State.sliceEnd
  repeat' first
    | with_reducible assumption
    | with_reducible apply State.setBlock_keeps
    | with_reducible apply State.rcount_keeps
    | with_reducible apply State.count_keeps
    | with_reducible apply State.sliceOver_keeps
    | with_reducible apply State.transient_keeps
    | with_reducible apply State.diagKeep_keeps
    | with_reducible apply State.sliceEvent_keeps
    | with_reducible apply State.blockFault_keeps
    | (with_reducible refine Keeps.put ?_ ?_ .. <;>
        first
        | exact Nat.le_refl _
        | exact Nat.le_succ _
        | with_reducible assumption
        | with_reducible apply State.setBlock_keeps
        | with_reducible apply State.rcount_keeps
        | with_reducible apply State.count_keeps
        | with_reducible apply State.sliceOver_keeps
        | with_reducible apply State.transient_keeps
        | with_reducible apply State.diagKeep_keeps
        | with_reducible apply State.sliceEvent_keeps
        | with_reducible apply State.blockFault_keeps)
    | with_reducible refine Keeps.ite ?_ ?_
    | split
    | dsimp only

theorem State.repairOne_keeps {s0 s t : State} (h : Keeps s0 s) (p : Nat) (w : Word) (e : s.repairOne p w = some t) : Keeps s0 t := by
  unfold State.repairOne at e
  split at e
  · exact absurd e (by simp)
  · split at e
    · exact Option.some.inj e ▸ State.book_keeps h _ _ _
    · split at e
      · exact Option.some.inj e ▸ State.book_keeps h _ _ _
      · exact absurd e (by simp)

theorem State.repair_keeps {s0 s t : State} (h : Keeps s0 s) (p : Nat) (fails : List Word) (e : s.repair p fails = some t) :
    Keeps s0 t := by
  have k : ∀ (ws : List Word) (o : Option State), (∀ t, o = some t → Keeps s0 t) →
      ∀ t, ws.foldl (fun o w => o.bind fun s => s.repairOne p w) o = some t → Keeps s0 t := by
    intro ws
    induction ws with
    | nil => exact fun o k t e => k t e
    | cons w ws ih =>
      refine fun o k => ih _ fun t e => ?_
      obtain ⟨x, hx, e⟩ := Option.bind_eq_some_iff.mp e
      exact State.repairOne_keeps (k x hx) p w e
  exact k fails (some s) (fun t e => Option.some.inj e ▸ h) t e

theorem State.diagEnd_keeps {s0 s : State} (h : Keeps s0 s) (p : Nat) : Keeps s0 (s.diagEnd p) := by
  unfold State.diagEnd
  extract_lets b x fails b1 n b2 t1 t2
  split
  · exact h
  · split
    · split
      · exact State.setBlock_keeps h _ _
      · exact State.showTest_keeps (State.sweepCounts_keeps (State.book_keeps (State.setRmt_keeps (State.setBlock_keeps h _ _) _ _) _ _ _)) _
    · split
      · next t e =>
        exact State.blockReset_keeps (State.setBlock_keeps (State.repair_keeps (State.setBlock_keeps h _ _) _ _ e) _ _) _ _
      · exact State.showTest_keeps (State.sweepCounts_keeps (State.book_keeps (State.setRmt_keeps (State.setBlock_keeps h _ _) _ _) _ _ _)) _

theorem State.engineEvent_keeps {s0 s : State} (h : Keeps s0 s) (e slice outcome attempt record : Nat) :
    Keeps s0 (s.engineEvent e slice outcome attempt record) := by
  unfold State.engineEvent
  repeat' first
    | with_reducible assumption
    | with_reducible apply State.raise_keeps

theorem State.engineDiag_keeps {s0 s : State} (h : Keeps s0 s) (k c slice : Nat) (ok : Bool) :
    Keeps s0 (s.engineDiag k c slice ok) := by
  unfold State.engineDiag
  repeat' first
    | with_reducible assumption
    | with_reducible apply State.book_keeps
    | with_reducible apply State.onScreen_keeps
    | (with_reducible refine Keeps.put ?_ ?_ .. <;>
        first
        | exact Nat.le_refl _
        | exact Nat.le_succ _
        | with_reducible assumption
        | with_reducible apply State.book_keeps
        | with_reducible apply State.onScreen_keeps)
    | with_reducible refine Keeps.ite ?_ ?_
    | split
    | dsimp only

theorem State.releaseEngines_keeps {s0 s : State} (h : Keeps s0 s) :
    Keeps s0 (s.releaseEngines ) := by
  unfold State.releaseEngines
  repeat' first
    | with_reducible assumption
    | with_reducible apply State.onScreen_keeps
    | with_reducible apply State.set_keeps
    | with_reducible apply State.book_keeps
    | (with_reducible refine Keeps.foldl ?_ (fun t x k => ?_))
    | (with_reducible refine Keeps.put ?_ ?_ .. <;>
        first
        | exact Nat.le_refl _
        | exact Nat.le_succ _
        | with_reducible assumption
        | with_reducible apply State.onScreen_keeps
        | with_reducible apply State.set_keeps
        | with_reducible apply State.book_keeps
        | (with_reducible refine Keeps.foldl ?_ (fun t x k => ?_)))
    | dsimp only

theorem State.mangerSlice_keeps {s0 s : State} (h : Keeps s0 s) (k c slice : Nat) (ok1 ok2 : Bool) :
    Keeps s0 (s.mangerSlice k c slice ok1 ok2) := by
  unfold State.mangerSlice
  repeat' first
    | with_reducible assumption
    | with_reducible apply State.engineDiag_keeps
    | with_reducible apply State.engineEvent_keeps
    | with_reducible apply State.transient_keeps
    | with_reducible apply State.onScreen_keeps
    | with_reducible apply State.mangerFault_keeps
    | (with_reducible refine Keeps.put ?_ ?_ .. <;>
        first
        | exact Nat.le_refl _
        | exact Nat.le_succ _
        | with_reducible assumption
        | with_reducible apply State.engineDiag_keeps
        | with_reducible apply State.engineEvent_keeps
        | with_reducible apply State.transient_keeps
        | with_reducible apply State.onScreen_keeps
        | with_reducible apply State.mangerFault_keeps)
    | with_reducible refine Keeps.ite ?_ ?_
    | split
    | dsimp only

theorem State.testLapsed_keeps {s0 s : State} (h : Keeps s0 s) (u : Nat) :
    Keeps s0 (s.testLapsed u) := by
  unfold State.testLapsed
  repeat' first
    | with_reducible assumption
    | with_reducible apply State.onScreen_keeps
    | with_reducible apply State.raise_keeps
    | with_reducible apply State.showTest_keeps
    | with_reducible apply State.showRegionTest_keeps
    | (with_reducible refine Keeps.put ?_ ?_ .. <;>
        first
        | exact Nat.le_refl _
        | exact Nat.le_succ _
        | with_reducible assumption
        | with_reducible apply State.onScreen_keeps
        | with_reducible apply State.raise_keeps
        | with_reducible apply State.showTest_keeps
        | with_reducible apply State.showRegionTest_keeps)
    | with_reducible refine Keeps.ite ?_ ?_
    | split
    | dsimp only

theorem State.plannedSwap_keeps {s0 s : State} (h : Keeps s0 s) (p : Nat) : Keeps s0 (s.plannedSwap p) := by
  unfold State.plannedSwap
  extract_lets r at_ t1
  split
  · exact h
  · split
    · exact h
    · next q _ =>
      have k1 : Keeps s0 ((s.acquire { code := 2, res := r } true).1.remountTo p q (s.lblockAt p)) :=
        State.remountTo_keeps (State.acquire_keeps h _ _) _ _ _
      revert k1
      generalize (s.acquire { code := 2, res := r } true).1.remountTo p q (s.lblockAt p) = t
      intro k1
      dsimp only
      split
      · exact h
      · exact State.flipStart_keeps (State.onScreen_keeps (State.rcount_keeps k1 _ _ _) _) _

theorem State.runSwaps_keeps {s0 s : State} (h : Keeps s0 s) (c : Nat) :
    Keeps s0 (s.runSwaps c) := by
  unfold State.runSwaps
  repeat' first
    | with_reducible assumption
    | with_reducible apply State.onScreen_keeps
    | with_reducible apply State.shadowsOff_keeps
    | with_reducible apply State.saddleWrite_keeps
    | with_reducible apply State.setBlock_keeps
    | with_reducible apply State.set_keeps
    | (with_reducible refine Keeps.foldl ?_ (fun t x k => ?_))
    | (with_reducible refine Keeps.put ?_ ?_ .. <;>
        first
        | exact Nat.le_refl _
        | exact Nat.le_succ _
        | with_reducible assumption
        | with_reducible apply State.onScreen_keeps
        | with_reducible apply State.shadowsOff_keeps
        | with_reducible apply State.saddleWrite_keeps
        | with_reducible apply State.setBlock_keeps
        | with_reducible apply State.set_keeps
        | (with_reducible refine Keeps.foldl ?_ (fun t x k => ?_)))
    | with_reducible refine Keeps.ite ?_ ?_
    | split
    | dsimp only

theorem State.preempt_keeps {s0 s : State} (h : Keeps s0 s) (p : Nat) (pass : Bool) :
    Keeps s0 (s.preempt p pass) := by
  unfold State.preempt
  repeat' first
    | with_reducible assumption
    | with_reducible apply State.raise_keeps
    | with_reducible apply State.saddleWrite_keeps
    | with_reducible apply State.rcount_keeps
    | with_reducible apply State.count_keeps
    | with_reducible apply State.onScreen_keeps
    | with_reducible apply State.set_keeps
    | with_reducible apply State.setBlock_keeps
    | with_reducible apply State.reloadAfter_keeps
    | with_reducible apply State.showTest_keeps
    | with_reducible apply State.sliceEvent_keeps
    | with_reducible apply State.blockFault_keeps
    | (with_reducible refine Keeps.put ?_ ?_ .. <;>
        first
        | exact Nat.le_refl _
        | exact Nat.le_succ _
        | with_reducible assumption
        | with_reducible apply State.raise_keeps
        | with_reducible apply State.saddleWrite_keeps
        | with_reducible apply State.rcount_keeps
        | with_reducible apply State.count_keeps
        | with_reducible apply State.onScreen_keeps
        | with_reducible apply State.set_keeps
        | with_reducible apply State.setBlock_keeps
        | with_reducible apply State.reloadAfter_keeps
        | with_reducible apply State.showTest_keeps
        | with_reducible apply State.sliceEvent_keeps
        | with_reducible apply State.blockFault_keeps)
    | with_reducible refine Keeps.ite ?_ ?_
    | split
    | dsimp only

theorem State.shadowSamples_keeps {s0 s : State} (h : Keeps s0 s) (r c : Nat) :
    Keeps s0 (s.shadowSamples r c) := by
  unfold State.shadowSamples
  repeat' first
    | with_reducible assumption
    | with_reducible apply State.onScreen_keeps
    | with_reducible apply State.rcount_keeps
    | with_reducible apply State.count_keeps
    | with_reducible apply State.saddleWrite_keeps
    | with_reducible apply State.setBlock_keeps
    | with_reducible apply State.acquire_keeps
    | with_reducible apply State.shadowRestore_keeps
    | with_reducible apply State.setRmt_keeps
    | (refine Keeps.of_fst ‹_ = (_, _)› ?_)
    | (refine Keeps.of_snd ‹_ = (_, _)› ?_)
    | (with_reducible refine Keeps.foldl ?_ (fun t x k => ?_))
    | (with_reducible refine Keeps.put ?_ ?_ .. <;>
        first
        | exact Nat.le_refl _
        | exact Nat.le_succ _
        | with_reducible assumption
        | with_reducible apply State.onScreen_keeps
        | with_reducible apply State.rcount_keeps
        | with_reducible apply State.count_keeps
        | with_reducible apply State.saddleWrite_keeps
        | with_reducible apply State.setBlock_keeps
        | with_reducible apply State.acquire_keeps
        | with_reducible apply State.shadowRestore_keeps
        | with_reducible apply State.setRmt_keeps
        | (with_reducible refine Keeps.foldl ?_ (fun t x k => ?_))
        | (refine Keeps.of_fst ‹_ = (_, _)› ?_))
    | with_reducible refine Keeps.ite ?_ ?_
    | split
    | dsimp only

theorem State.shadowVerdict_keeps {s0 s : State} (h : Keeps s0 s) (p : Nat) (u : Option Word) :
    Keeps s0 (s.shadowVerdict p u) := by
  unfold State.shadowVerdict
  repeat' first
    | with_reducible assumption
    | with_reducible apply State.rcount_keeps
    | with_reducible apply State.count_keeps
    | with_reducible apply State.onScreen_keeps
    | with_reducible apply State.shadowOver_keeps
    | with_reducible apply State.startRecovery_keeps
    | with_reducible apply State.transient_keeps
    | with_reducible apply State.suspect_keeps
    | with_reducible apply State.lasting_keeps
    | with_reducible apply State.quarantine_keeps
    | with_reducible apply State.blockFault_keeps
    | (intro t k)
    | (with_reducible refine Keeps.put ?_ ?_ .. <;>
        first
        | exact Nat.le_refl _
        | exact Nat.le_succ _
        | with_reducible assumption
        | with_reducible apply State.rcount_keeps
        | with_reducible apply State.count_keeps
        | with_reducible apply State.onScreen_keeps
        | with_reducible apply State.shadowOver_keeps
        | with_reducible apply State.startRecovery_keeps
        | with_reducible apply State.transient_keeps
        | with_reducible apply State.suspect_keeps
        | with_reducible apply State.lasting_keeps
        | with_reducible apply State.quarantine_keeps
        | with_reducible apply State.blockFault_keeps)
    | with_reducible refine Keeps.ite ?_ ?_
    | split
    | dsimp only
    | dsimp only [id]

theorem State.showSweep_keeps {s0 s : State} (h : Keeps s0 s) :
    Keeps s0 (s.showSweep ) := by
  unfold State.showSweep
  repeat' first
    | with_reducible assumption
    | with_reducible apply State.set_keeps
    | (with_reducible refine Keeps.foldl ?_ (fun t x k => ?_))
    | with_reducible refine Keeps.ite ?_ ?_
    | split
    | dsimp only

theorem State.cleanSweep_keeps {s0 s : State} (h : Keeps s0 s) (start : Nat) :
    Keeps s0 (s.cleanSweep start) := by
  unfold State.cleanSweep
  repeat' first
    | with_reducible assumption
    | with_reducible apply State.book_keeps
    | with_reducible apply State.onScreen_keeps
    | (with_reducible refine Keeps.put ?_ ?_ .. <;>
        first
        | exact Nat.le_refl _
        | exact Nat.le_succ _
        | with_reducible assumption
        | with_reducible apply State.book_keeps
        | with_reducible apply State.onScreen_keeps)
    | dsimp only

theorem State.sweepRecord_keeps {s0 s : State} (h : Keeps s0 s) :
    Keeps s0 (s.sweepRecord ) := by
  unfold State.sweepRecord
  repeat' first
    | with_reducible assumption
    | with_reducible apply State.showSweep_keeps
    | with_reducible apply State.cleanSweep_keeps
    | (with_reducible refine Keeps.foldl ?_ (fun t x k => ?_))
    | (with_reducible refine Keeps.put ?_ ?_ .. <;>
        first
        | exact Nat.le_refl _
        | exact Nat.le_succ _
        | with_reducible assumption
        | with_reducible apply State.showSweep_keeps
        | with_reducible apply State.cleanSweep_keeps
        | (with_reducible refine Keeps.foldl ?_ (fun t x k => ?_)))
    | with_reducible refine Keeps.ite ?_ ?_
    | split
    | dsimp only

theorem State.onPort_keeps {s0 s : State} (h : Keeps s0 s) (i : Nat) (f : Port → Port) :
    Keeps s0 (s.onPort i f) := by
  unfold State.onPort
  repeat' first
    | with_reducible assumption
    | with_reducible apply State.setPort_keeps

theorem State.sendFrame_keeps {s0 s : State} (h : Keeps s0 s) (i : Nat) (f : OutFrame) :
    Keeps s0 (s.sendFrame i f) := by
  unfold State.sendFrame
  repeat' first
    | with_reducible assumption
    | with_reducible apply State.setPort_keeps
    | with_reducible apply State.fabSend_keeps
    | with_reducible apply State.emit_keeps
    | (with_reducible refine Keeps.put ?_ ?_ .. <;>
        first
        | exact Nat.le_refl _
        | exact Nat.le_succ _
        | with_reducible assumption
        | with_reducible apply State.setPort_keeps
        | with_reducible apply State.fabSend_keeps
        | with_reducible apply State.emit_keeps)
    | with_reducible refine Keeps.ite ?_ ?_
    | split
    | dsimp only

theorem State.sendHeld_keeps {s0 s : State} (h : Keeps s0 s) (ok : Nat → Bool) :
    Keeps s0 (s.sendHeld ok) := by
  unfold State.sendHeld
  repeat' first
    | with_reducible assumption
    | with_reducible apply State.sendFrame_keeps
    | with_reducible apply State.setPort_keeps
    | (with_reducible refine Keeps.foldl ?_ (fun t x k => ?_))
    | (with_reducible refine Keeps.put ?_ ?_ .. <;>
        first
        | exact Nat.le_refl _
        | exact Nat.le_succ _
        | with_reducible assumption
        | with_reducible apply State.sendFrame_keeps
        | with_reducible apply State.setPort_keeps
        | (with_reducible refine Keeps.foldl ?_ (fun t x k => ?_)))
    | dsimp only

theorem State.pumpSteps_keeps : ∀ (k : Nat) {s0 s : State}, Keeps s0 s → Keeps s0 (State.pumpSteps k s)
  | 0, _, _, h => h
  | k + 1, s0, s, h => by
    unfold State.pumpSteps
    extract_lets n acked t t1 t2 t3
    split
    · exact h
    · split
      · exact State.sendHeld_keeps h _
      · have h1 : Keeps s0 t1 := State.set_keeps (State.sendHeld_keeps h _) _ _
        have h2 : Keeps s0 t2 := by
          unfold t2
          split
          · exact h1
          · exact State.set_keeps h1 _ _
        exact State.pumpSteps_keeps k (h2.upd rfl rfl (Nat.le_refl _) rfl rfl rfl rfl rfl)

theorem State.pump_keeps {s0 s : State} (h : Keeps s0 s) :
    Keeps s0 (s.pump ) := by
  unfold State.pump
  repeat' first
    | with_reducible assumption
    | with_reducible apply State.acked_keeps
    | with_reducible apply State.pumpSteps_keeps
    | with_reducible apply State.sendHeld_keeps
    | (with_reducible refine Keeps.put ?_ ?_ .. <;>
        first
        | exact Nat.le_refl _
        | exact Nat.le_succ _
        | with_reducible assumption
        | with_reducible apply State.acked_keeps
        | with_reducible apply State.pumpSteps_keeps
        | with_reducible apply State.sendHeld_keeps)
    | with_reducible refine Keeps.ite ?_ ?_
    | split
    | dsimp only

theorem State.outputFrame_keeps {s0 s : State} (h : Keeps s0 s) (i : Nat) :
    Keeps s0 (s.outputFrame i) := by
  unfold State.outputFrame
  repeat' first
    | with_reducible assumption
    | with_reducible apply State.setUnit_keeps
    | with_reducible apply State.pump_keeps
    | with_reducible apply State.sendFrame_keeps
    | with_reducible apply State.onPort_keeps
    | (with_reducible refine Keeps.put ?_ ?_ .. <;>
        first
        | exact Nat.le_refl _
        | exact Nat.le_succ _
        | with_reducible assumption
        | with_reducible apply State.setUnit_keeps
        | with_reducible apply State.pump_keeps
        | with_reducible apply State.sendFrame_keeps
        | with_reducible apply State.onPort_keeps)
    | with_reducible refine Keeps.ite ?_ ?_
    | split
    | dsimp only

theorem State.frameTransmit_keeps {s0 s : State} (h : Keeps s0 s) (i : Nat) :
    Keeps s0 (s.frameTransmit i) := by
  unfold State.frameTransmit
  repeat' first
    | with_reducible assumption
    | with_reducible apply State.set_keeps
    | with_reducible apply State.emit_keeps
    | with_reducible refine Keeps.ite ?_ ?_
    | split
    | dsimp only

theorem State.frameReceive_keeps {s0 s : State} (h : Keeps s0 s) (i : Nat) (bytes : List Byte) (fcsOk : Bool) :
    Keeps s0 (s.frameReceive i bytes fcsOk) := by
  unfold State.frameReceive
  repeat' first
    | with_reducible assumption
    | with_reducible apply State.count_keeps
    | with_reducible apply State.setTiers_keeps
    | with_reducible apply State.set_keeps
    | (intro w; exact Tiers.putLines_wf (State.tiers_wf w) _ _ _)
    | (intro w; exact Tiers.putLine_wf (State.tiers_wf w) _ _ _)
    | with_reducible refine Keeps.ite ?_ ?_
    | split
    | dsimp only

theorem State.loadTemplates_keeps {s0 s : State} (h : Keeps s0 s) (i : Nat) :
    Keeps s0 (s.loadTemplates i) := by
  unfold State.loadTemplates
  repeat' first
    | with_reducible assumption
    | with_reducible apply State.onPort_keeps
    | (with_reducible refine Keeps.put ?_ ?_ .. <;>
        first
        | exact Nat.le_refl _
        | exact Nat.le_succ _
        | with_reducible assumption
        | with_reducible apply State.onPort_keeps)
    | dsimp only

theorem State.writeTemplates_keeps {s0 s : State} (h : Keeps s0 s) (i : Nat) (v : Word) :
    Keeps s0 (s.writeTemplates i v) := by
  unfold State.writeTemplates
  repeat' first
    | with_reducible assumption
    | with_reducible apply State.set_keeps
    | with_reducible apply State.loadTemplates_keeps

theorem State.noSyncPort_keeps {s0 s : State} (h : Keeps s0 s) :
    Keeps s0 (s.noSyncPort ) := by
  unfold State.noSyncPort
  repeat' first
    | with_reducible assumption
    | with_reducible apply State.set_keeps
    | with_reducible apply State.raise_keeps
    | (with_reducible refine Keeps.put ?_ ?_ .. <;>
        first
        | exact Nat.le_refl _
        | exact Nat.le_succ _
        | with_reducible assumption
        | with_reducible apply State.set_keeps
        | with_reducible apply State.raise_keeps)
    | with_reducible refine Keeps.ite ?_ ?_
    | split
    | dsimp only

theorem State.writeTraceCtl_keeps {s0 s : State} (h : Keeps s0 s) (i : Nat) (v : Word) :
    Keeps s0 (s.writeTraceCtl i v) := by
  unfold State.writeTraceCtl
  repeat' first
    | with_reducible assumption
    | with_reducible apply State.set_keeps
    | with_reducible apply State.raise_keeps
    | with_reducible apply State.loadTemplates_keeps
    | with_reducible apply State.noSyncPort_keeps
    | with_reducible refine Keeps.ite ?_ ?_
    | split
    | dsimp only

theorem State.fabReceive_keeps {s0 s : State} (h : Keeps s0 s) (i : Nat) (bytes : List Byte) (fcsOk : Bool) :
    Keeps s0 (s.fabReceive i bytes fcsOk) := by
  unfold State.fabReceive
  repeat' first
    | with_reducible assumption
    | with_reducible apply State.count_keeps
    | with_reducible apply State.onPort_keeps
    | with_reducible apply State.fabAck_keeps
    | with_reducible apply State.remoteBack_keeps
    | (with_reducible refine Keeps.put ?_ ?_ .. <;>
        first
        | exact Nat.le_refl _
        | exact Nat.le_succ _
        | with_reducible assumption
        | with_reducible apply State.count_keeps
        | with_reducible apply State.onPort_keeps
        | with_reducible apply State.fabAck_keeps
        | with_reducible apply State.remoteBack_keeps)
    | with_reducible refine Keeps.ite ?_ ?_
    | split
    | dsimp only
    | dsimp only [id]

theorem State.fabRetransmit_keeps {s0 s : State} (h : Keeps s0 s) (i peer : Nat) :
    Keeps s0 (s.fabRetransmit i peer) := by
  unfold State.fabRetransmit
  repeat' first
    | with_reducible assumption
    | with_reducible apply State.setPort_keeps
    | with_reducible apply State.emit_keeps
    | with_reducible apply State.remoteOr_keeps
    | (with_reducible refine Keeps.foldl ?_ (fun t x k => ?_))
    | (with_reducible refine Keeps.put ?_ ?_ .. <;>
        first
        | exact Nat.le_refl _
        | exact Nat.le_succ _
        | with_reducible assumption
        | with_reducible apply State.setPort_keeps
        | with_reducible apply State.emit_keeps
        | with_reducible apply State.remoteOr_keeps
        | (with_reducible refine Keeps.foldl ?_ (fun t x k => ?_)))
    | with_reducible refine Keeps.ite ?_ ?_
    | split
    | dsimp only

theorem State.remoteRequest_keeps {s0 s : State} (h : Keeps s0 s) (i : Nat) :
    Keeps s0 (s.remoteRequest i) := by
  unfold State.remoteRequest
  repeat' first
    | with_reducible assumption
    | with_reducible apply State.setPort_keeps
    | with_reducible apply State.fabSend_keeps
    | (with_reducible refine Keeps.put ?_ ?_ .. <;>
        first
        | exact Nat.le_refl _
        | exact Nat.le_succ _
        | with_reducible assumption
        | with_reducible apply State.setPort_keeps
        | with_reducible apply State.fabSend_keeps)
    | with_reducible refine Keeps.ite ?_ ?_
    | split
    | dsimp only

end Sys2Proof.Machine
end

