-- ==== Sys2Proof/Laws/KeepsTwins.lean ====
section
/-! SUPPORT. Every operation on the twins, power, the Cadence and Dispatch keeps what Keeps names; one lemma for each. -/

namespace Sys2Proof.Machine

set_option linter.unusedTactic false
set_option linter.unreachableTactic false

theorem State.showLms_keeps {s0 s : State} (h : Keeps s0 s) :
    Keeps s0 (s.showLms ) := by
  unfold State.showLms
  repeat' first
    | with_reducible assumption
    | with_reducible apply State.set_keeps
    | dsimp only

theorem State.reserveIndices_keeps {s0 s : State} (h : Keeps s0 s) : Keeps s0 s.reserveIndices := by
  unfold State.reserveIndices
  dsimp only
  refine h.trans ⟨rfl, rfl, Nat.le_refl _, id, id, ?_, fun _ => Nat.le_refl _, fun _ m _ => m⟩
  show s.fuses.lms ≤ _
  dsimp only
  split <;> omega

theorem State.takeIndex_keeps {s0 s : State} (h : Keeps s0 s) : Keeps s0 s.takeIndex.1 := by
  obtain ⟨r, e⟩ : ∃ r, s.takeIndex = r := ⟨_, rfl⟩
  rw [e]
  have k : Keeps s0 (if s.far.reserved = 0 then s.reserveIndices else s) := Keeps.ite (State.reserveIndices_keeps h) h
  unfold State.takeIndex at e
  dsimp only at e
  revert e k
  generalize (if s.far.reserved = 0 then s.reserveIndices else s) = t
  intro e k
  split at e
  · subst e; exact h
  · split at e
    · subst e; exact State.showLms_keeps k
    · subst e
      refine State.showLms_keeps ?_
      with_reducible refine Keeps.put k (Nat.le_refl _) ..

theorem State.showYoke_keeps {s0 s : State} (h : Keeps s0 s) :
    Keeps s0 (s.showYoke ) := by
  unfold State.showYoke
  repeat' first
    | with_reducible assumption
    | with_reducible apply State.set_keeps
    | (with_reducible refine Keeps.foldl ?_ (fun t x k => ?_))
    | dsimp only

theorem State.pairEnd_keeps {s0 s : State} (h : Keeps s0 s) (result : Nat) :
    Keeps s0 (s.pairEnd result) := by
  unfold State.pairEnd
  repeat' first
    | with_reducible assumption
    | with_reducible apply State.release_keeps
    | with_reducible apply State.onTwin_keeps
    | with_reducible apply State.set_keeps
    | (with_reducible refine Keeps.put ?_ ?_ .. <;>
        first
        | exact Nat.le_refl _
        | exact Nat.le_succ _
        | with_reducible assumption
        | with_reducible apply State.release_keeps
        | with_reducible apply State.onTwin_keeps
        | with_reducible apply State.set_keeps)
    | with_reducible refine Keeps.ite ?_ ?_
    | split
    | dsimp only

theorem State.paired_keeps {s0 s : State} (h : Keeps s0 s) :
    Keeps s0 (s.paired ) := by
  unfold State.paired
  repeat' first
    | with_reducible assumption
    | with_reducible apply State.onTwin_keeps
    | with_reducible apply State.set_keeps
    | (with_reducible refine Keeps.put ?_ ?_ .. <;>
        first
        | exact Nat.le_refl _
        | exact Nat.le_succ _
        | with_reducible assumption
        | with_reducible apply State.onTwin_keeps
        | with_reducible apply State.set_keeps)
    | with_reducible refine Keeps.ite ?_ ?_
    | split
    | dsimp only

theorem State.tellAdmit_keeps {s0 s : State} (h : Keeps s0 s) (c : Cmd) (a : Nat) :
    Keeps s0 (s.tellAdmit c a) := by
  unfold State.tellAdmit
  repeat' first
    | with_reducible assumption
    | with_reducible apply State.yokeSend_keeps
    | with_reducible refine Keeps.ite ?_ ?_
    | split
    | dsimp only

theorem State.copyAreas_keeps {s0 s : State} (h : Keeps s0 s) :
    Keeps s0 (s.copyAreas ) := by
  unfold State.copyAreas
  repeat' first
    | with_reducible assumption
    | with_reducible apply State.yokeSend_keeps
    | with_reducible apply State.start_keeps
    | (with_reducible refine Keeps.foldl ?_ (fun t x k => ?_))
    | (with_reducible refine Keeps.put ?_ ?_ .. <;>
        first
        | exact Nat.le_refl _
        | exact Nat.le_succ _
        | with_reducible assumption
        | with_reducible apply State.yokeSend_keeps
        | with_reducible apply State.start_keeps
        | (with_reducible refine Keeps.foldl ?_ (fun t x k => ?_)))
    | with_reducible refine Keeps.ite ?_ ?_
    | split
    | dsimp only

theorem State.rejoinCopy_keeps {s0 s : State} (h : Keeps s0 s) :
    Keeps s0 (s.rejoinCopy ) := by
  unfold State.rejoinCopy
  repeat' first
    | with_reducible assumption
    | with_reducible apply State.acquire_keeps
    | with_reducible apply State.onTwin_keeps
    | with_reducible apply State.copyAreas_keeps
    | with_reducible apply State.tellAdmit_keeps
    | (refine Keeps.of_fst ‹_ = (_, _)› ?_)
    | (refine Keeps.of_snd ‹_ = (_, _)› ?_)
    | (with_reducible refine Keeps.foldl ?_ (fun t x k => ?_))
    | (with_reducible refine Keeps.put ?_ ?_ .. <;>
        first
        | exact Nat.le_refl _
        | exact Nat.le_succ _
        | with_reducible assumption
        | with_reducible apply State.acquire_keeps
        | with_reducible apply State.onTwin_keeps
        | with_reducible apply State.copyAreas_keeps
        | with_reducible apply State.tellAdmit_keeps
        | (with_reducible refine Keeps.foldl ?_ (fun t x k => ?_))
        | (refine Keeps.of_fst ‹_ = (_, _)› ?_))
    | dsimp only

theorem State.pairLocked_keeps {s0 s : State} (h : Keeps s0 s) :
    Keeps s0 (s.pairLocked ) := by
  unfold State.pairLocked
  repeat' first
    | with_reducible assumption
    | with_reducible apply State.paired_keeps
    | with_reducible apply State.rejoinCopy_keeps
    | with_reducible refine Keeps.ite ?_ ?_
    | split
    | dsimp only

theorem State.pairCheck_keeps {s0 s : State} (h : Keeps s0 s) :
    Keeps s0 (s.pairCheck ) := by
  unfold State.pairCheck
  repeat' first
    | with_reducible assumption
    | with_reducible apply State.pairEnd_keeps
    | with_reducible apply State.set_keeps
    | with_reducible apply State.onTwin_keeps
    | (with_reducible refine Keeps.put ?_ ?_ .. <;>
        first
        | exact Nat.le_refl _
        | exact Nat.le_succ _
        | with_reducible assumption
        | with_reducible apply State.pairEnd_keeps
        | with_reducible apply State.set_keeps
        | with_reducible apply State.onTwin_keeps)
    | with_reducible refine Keeps.ite ?_ ?_
    | split
    | dsimp only

theorem State.sendNonce_keeps {s0 s : State} (h : Keeps s0 s) :
    Keeps s0 (s.sendNonce ) := by
  unfold State.sendNonce
  repeat' first
    | with_reducible assumption
    | with_reducible apply State.onTwin_keeps
    | with_reducible apply State.yokeSend_keeps
    | (with_reducible refine Keeps.put ?_ ?_ .. <;>
        first
        | exact Nat.le_refl _
        | exact Nat.le_succ _
        | with_reducible assumption
        | with_reducible apply State.onTwin_keeps
        | with_reducible apply State.yokeSend_keeps)
    | with_reducible refine Keeps.ite ?_ ?_
    | split
    | dsimp only

theorem State.sendSignature_keeps {s0 s : State} (h : Keeps s0 s) :
    Keeps s0 (s.sendSignature ) := by
  unfold State.sendSignature
  repeat' first
    | with_reducible assumption
    | with_reducible apply State.takeIndex_keeps
    | with_reducible apply State.pairEnd_keeps
    | with_reducible apply State.yokeSend_keeps
    | (refine Keeps.of_fst ‹_ = (_, _)› ?_)
    | (refine Keeps.of_snd ‹_ = (_, _)› ?_)
    | (with_reducible refine Keeps.put ?_ ?_ .. <;>
        first
        | exact Nat.le_refl _
        | exact Nat.le_succ _
        | with_reducible assumption
        | with_reducible apply State.takeIndex_keeps
        | with_reducible apply State.pairEnd_keeps
        | with_reducible apply State.yokeSend_keeps
        | (refine Keeps.of_fst ‹_ = (_, _)› ?_))
    | with_reducible refine Keeps.ite ?_ ?_
    | split
    | dsimp only

theorem State.sendHello_keeps {s0 s : State} (h : Keeps s0 s) :
    Keeps s0 (s.sendHello ) := by
  unfold State.sendHello
  repeat' first
    | with_reducible assumption
    | with_reducible apply State.yokeSend_keeps
    | (with_reducible refine Keeps.put ?_ ?_ .. <;>
        first
        | exact Nat.le_refl _
        | exact Nat.le_succ _
        | with_reducible assumption
        | with_reducible apply State.yokeSend_keeps)
    | with_reducible refine Keeps.ite ?_ ?_
    | split
    | dsimp only

theorem State.pairStart_keeps {s0 s : State} (h : Keeps s0 s) (state : Nat) :
    Keeps s0 (s.pairStart state) := by
  unfold State.pairStart
  repeat' first
    | with_reducible assumption
    | with_reducible apply State.onTwin_keeps
    | with_reducible apply State.set_keeps
    | with_reducible apply State.pairEnd_keeps
    | with_reducible apply State.sendHello_keeps
    | with_reducible apply State.sendNonce_keeps
    | (with_reducible refine Keeps.put ?_ ?_ .. <;>
        first
        | exact Nat.le_refl _
        | exact Nat.le_succ _
        | with_reducible assumption
        | with_reducible apply State.onTwin_keeps
        | with_reducible apply State.set_keeps
        | with_reducible apply State.pairEnd_keeps
        | with_reducible apply State.sendHello_keeps
        | with_reducible apply State.sendNonce_keeps)
    | with_reducible refine Keeps.ite ?_ ?_
    | split
    | dsimp only

theorem State.twinPair_keeps {s0 s : State} (h : Keeps s0 s) :
    Keeps s0 (s.twinPair ) := by
  unfold State.twinPair
  repeat' first
    | with_reducible assumption
    | with_reducible apply State.pairStart_keeps
    | with_reducible refine Keeps.ite ?_ ?_
    | split
    | dsimp only

theorem State.twinRejoin_keeps {s0 s : State} (h : Keeps s0 s) :
    Keeps s0 (s.twinRejoin ) := by
  unfold State.twinRejoin
  repeat' first
    | with_reducible assumption
    | with_reducible apply State.pairStart_keeps
    | with_reducible refine Keeps.ite ?_ ?_
    | split
    | dsimp only

theorem State.hello_keeps {s0 s : State} (h : Keeps s0 s) (m : HelloMsg) :
    Keeps s0 (s.hello m) := by
  unfold State.hello
  repeat' first
    | with_reducible assumption
    | with_reducible apply State.onTwin_keeps
    | with_reducible apply State.set_keeps
    | with_reducible apply State.sendNonce_keeps
    | (with_reducible refine Keeps.put ?_ ?_ .. <;>
        first
        | exact Nat.le_refl _
        | exact Nat.le_succ _
        | with_reducible assumption
        | with_reducible apply State.onTwin_keeps
        | with_reducible apply State.set_keeps
        | with_reducible apply State.sendNonce_keeps)
    | with_reducible refine Keeps.ite ?_ ?_
    | split
    | dsimp only
    | dsimp only [id]

theorem State.yokeAttest_keeps {s0 s : State} (h : Keeps s0 s) (nonce : Bool) (bytes : List Byte) (valid : Bool) :
    Keeps s0 (s.yokeAttest nonce bytes valid) := by
  unfold State.yokeAttest
  repeat' first
    | with_reducible assumption
    | with_reducible apply State.onTwin_keeps
    | with_reducible apply State.sendSignature_keeps
    | with_reducible apply State.pairEnd_keeps
    | with_reducible apply State.pairCheck_keeps
    | (with_reducible refine Keeps.put ?_ ?_ .. <;>
        first
        | exact Nat.le_refl _
        | exact Nat.le_succ _
        | with_reducible assumption
        | with_reducible apply State.onTwin_keeps
        | with_reducible apply State.sendSignature_keeps
        | with_reducible apply State.pairEnd_keeps
        | with_reducible apply State.pairCheck_keeps)
    | with_reducible refine Keeps.ite ?_ ?_
    | split
    | dsimp only

theorem State.pairingTimeout_keeps {s0 s : State} (h : Keeps s0 s) :
    Keeps s0 (s.pairingTimeout ) := by
  unfold State.pairingTimeout
  repeat' first
    | with_reducible assumption
    | with_reducible apply State.pairEnd_keeps
    | with_reducible refine Keeps.ite ?_ ?_
    | split
    | dsimp only

theorem State.detachSelf_keeps {s0 s : State} (h : Keeps s0 s) :
    Keeps s0 (s.detachSelf ) := by
  unfold State.detachSelf
  repeat' first
    | with_reducible assumption
    | with_reducible apply State.detach_keeps
    | with_reducible refine Keeps.ite ?_ ?_
    | split
    | dsimp only

theorem State.unpaired_keeps {s0 s : State} (h : Keeps s0 s) :
    Keeps s0 (s.unpaired ) := by
  unfold State.unpaired
  repeat' first
    | with_reducible assumption
    | with_reducible apply State.twinEvent_keeps
    | with_reducible apply State.solo_keeps
    | with_reducible apply State.set_keeps
    | with_reducible refine Keeps.ite ?_ ?_
    | split
    | dsimp only

theorem State.twinUnpair_keeps {s0 s : State} (h : Keeps s0 s) :
    Keeps s0 (s.twinUnpair ) := by
  unfold State.twinUnpair
  repeat' first
    | with_reducible assumption
    | with_reducible apply State.say_keeps
    | with_reducible apply State.pairEnd_keeps
    | with_reducible apply State.detach_keeps
    | with_reducible apply State.alone_keeps
    | with_reducible apply State.pump_keeps
    | with_reducible apply State.unpaired_keeps
    | with_reducible refine Keeps.ite ?_ ?_
    | split
    | dsimp only

theorem State.keepTallies_keeps {s0 s : State} (h : Keeps s0 s) :
    Keeps s0 (s.keepTallies ) := by
  unfold State.keepTallies
  repeat' first
    | with_reducible assumption
    | with_reducible apply State.onTwin_keeps
    | (with_reducible refine Keeps.put ?_ ?_ .. <;>
        first
        | exact Nat.le_refl _
        | exact Nat.le_succ _
        | with_reducible assumption
        | with_reducible apply State.onTwin_keeps)
    | with_reducible refine Keeps.ite ?_ ?_
    | split
    | dsimp only

theorem State.sendBtally_keeps {s0 s : State} (h : Keeps s0 s) (n : Nat) :
    Keeps s0 (s.sendBtally n) := by
  unfold State.sendBtally
  repeat' first
    | with_reducible assumption
    | with_reducible apply State.yokeSend_keeps
    | (with_reducible refine Keeps.put ?_ ?_ .. <;>
        first
        | exact Nat.le_refl _
        | exact Nat.le_succ _
        | with_reducible assumption
        | with_reducible apply State.yokeSend_keeps)
    | with_reducible refine Keeps.ite ?_ ?_
    | split
    | dsimp only

theorem State.shadowSuspect_keeps {s0 s : State} (h : Keeps s0 s) (n l : Nat) :
    Keeps s0 (s.shadowSuspect n l) := by
  unfold State.shadowSuspect
  repeat' first
    | with_reducible assumption
    | with_reducible apply State.acquire_keeps
    | with_reducible apply State.setRmt_keeps
    | with_reducible apply State.onScreen_keeps
    | (refine Keeps.of_fst ‹_ = (_, _)› ?_)
    | (refine Keeps.of_snd ‹_ = (_, _)› ?_)
    | (with_reducible refine Keeps.put ?_ ?_ .. <;>
        first
        | exact Nat.le_refl _
        | exact Nat.le_succ _
        | with_reducible assumption
        | with_reducible apply State.acquire_keeps
        | with_reducible apply State.setRmt_keeps
        | with_reducible apply State.onScreen_keeps
        | (refine Keeps.of_fst ‹_ = (_, _)› ?_))
    | with_reducible refine Keeps.ite ?_ ?_
    | split
    | dsimp only

theorem State.btallyCheck_keeps {s0 s : State} (h : Keeps s0 s) :
    Keeps s0 (s.btallyCheck ) := by
  unfold State.btallyCheck
  repeat' first
    | with_reducible assumption
    | with_reducible apply State.btally_keeps
    | with_reducible apply State.onTwin_keeps
    | with_reducible apply State.startRecovery_keeps
    | with_reducible apply State.shadowSuspect_keeps
    | (intro t k)
    | (with_reducible refine Keeps.foldl ?_ (fun t x k => ?_))
    | (with_reducible refine Keeps.put ?_ ?_ .. <;>
        first
        | exact Nat.le_refl _
        | exact Nat.le_succ _
        | with_reducible assumption
        | with_reducible apply State.btally_keeps
        | with_reducible apply State.onTwin_keeps
        | with_reducible apply State.startRecovery_keeps
        | with_reducible apply State.shadowSuspect_keeps
        | (with_reducible refine Keeps.foldl ?_ (fun t x k => ?_)))
    | with_reducible refine Keeps.ite ?_ ?_
    | split
    | dsimp only
    | dsimp only [id]

theorem State.convict_keeps {s0 s : State} (h : Keeps s0 s) (p : Nat) :
    Keeps s0 (s.convict p) := by
  unfold State.convict
  repeat' first
    | with_reducible assumption
    | with_reducible apply State.lasting_keeps
    | with_reducible apply State.quarantine_keeps
    | with_reducible apply State.detach_keeps

theorem State.twinVerdict_keeps {s0 s : State} (h : Keeps s0 s) (w : Shadow) (u : Option Nat) :
    Keeps s0 (s.twinVerdict w u) := by
  unfold State.twinVerdict
  repeat' first
    | with_reducible assumption
    | with_reducible apply State.shadowOver_keeps
    | with_reducible apply State.convict_keeps
    | with_reducible apply State.onTwin_keeps
    | (with_reducible refine Keeps.put ?_ ?_ .. <;>
        first
        | exact Nat.le_refl _
        | exact Nat.le_succ _
        | with_reducible assumption
        | with_reducible apply State.shadowOver_keeps
        | with_reducible apply State.convict_keeps
        | with_reducible apply State.onTwin_keeps)
    | with_reducible refine Keeps.ite ?_ ?_
    | split
    | dsimp only

theorem State.anyVerdict_keeps {s0 s : State} (h : Keeps s0 s) (p : Nat) (u : Option Word) :
    Keeps s0 (s.anyVerdict p u) := by
  unfold State.anyVerdict
  repeat' first
    | with_reducible assumption
    | with_reducible apply State.twinVerdict_keeps
    | with_reducible apply State.shadowVerdict_keeps
    | (with_reducible refine Keeps.put ?_ ?_ .. <;>
        first
        | exact Nat.le_refl _
        | exact Nat.le_succ _
        | with_reducible assumption
        | with_reducible apply State.twinVerdict_keeps
        | with_reducible apply State.shadowVerdict_keeps)
    | with_reducible refine Keeps.ite ?_ ?_
    | split
    | dsimp only

theorem State.partnerGone_keeps {s0 s : State} (h : Keeps s0 s) (cause : Nat) :
    Keeps s0 (s.partnerGone cause) := by
  unfold State.partnerGone
  repeat' first
    | with_reducible assumption
    | with_reducible apply State.onTwin_keeps
    | with_reducible apply State.alone_keeps
    | with_reducible apply State.blockFault_keeps
    | with_reducible apply State.pump_keeps
    | (with_reducible refine Keeps.put ?_ ?_ .. <;>
        first
        | exact Nat.le_refl _
        | exact Nat.le_succ _
        | with_reducible assumption
        | with_reducible apply State.onTwin_keeps
        | with_reducible apply State.alone_keeps
        | with_reducible apply State.blockFault_keeps
        | with_reducible apply State.pump_keeps)
    | with_reducible refine Keeps.ite ?_ ?_
    | split
    | dsimp only

theorem State.partnerDown_keeps {s0 s : State} (h : Keeps s0 s) :
    Keeps s0 (s.partnerDown ) := by
  unfold State.partnerDown
  repeat' first
    | with_reducible assumption
    | with_reducible apply State.partnerGone_keeps
    | with_reducible refine Keeps.ite ?_ ?_
    | split
    | dsimp only

theorem State.matched_keeps {s0 s : State} (h : Keeps s0 s) (n : Nat) :
    Keeps s0 (s.matched n) := by
  unfold State.matched
  repeat' first
    | with_reducible assumption
    | with_reducible apply State.set_keeps
    | with_reducible apply State.onTwin_keeps
    | with_reducible apply State.transient_keeps
    | with_reducible apply State.pump_keeps
    | (with_reducible refine Keeps.put ?_ ?_ .. <;>
        first
        | exact Nat.le_refl _
        | exact Nat.le_succ _
        | with_reducible assumption
        | with_reducible apply State.set_keeps
        | with_reducible apply State.onTwin_keeps
        | with_reducible apply State.transient_keeps
        | with_reducible apply State.pump_keeps)
    | with_reducible refine Keeps.ite ?_ ?_
    | split
    | dsimp only

theorem State.mismatched_keeps {s0 s : State} (h : Keeps s0 s) (n : Nat) :
    Keeps s0 (s.mismatched n) := by
  unfold State.mismatched
  repeat' first
    | with_reducible assumption
    | with_reducible apply State.count_keeps
    | with_reducible apply State.onTwin_keeps
    | with_reducible apply State.startRecovery_keeps
    | with_reducible apply State.sendBtally_keeps
    | with_reducible apply State.btallyCheck_keeps
    | with_reducible apply State.convict_keeps
    | (intro t k)
    | (with_reducible refine Keeps.put ?_ ?_ .. <;>
        first
        | exact Nat.le_refl _
        | exact Nat.le_succ _
        | with_reducible assumption
        | with_reducible apply State.count_keeps
        | with_reducible apply State.onTwin_keeps
        | with_reducible apply State.startRecovery_keeps
        | with_reducible apply State.sendBtally_keeps
        | with_reducible apply State.btallyCheck_keeps
        | with_reducible apply State.convict_keeps)
    | with_reducible refine Keeps.ite ?_ ?_
    | split
    | dsimp only
    | dsimp only [id]

theorem State.compareAt_keeps {s0 s : State} (h : Keeps s0 s) (n : Nat) :
    Keeps s0 (s.compareAt n) := by
  unfold State.compareAt
  repeat' first
    | with_reducible assumption
    | with_reducible apply State.matched_keeps
    | with_reducible apply State.mismatched_keeps
    | (with_reducible refine Keeps.put ?_ ?_ .. <;>
        first
        | exact Nat.le_refl _
        | exact Nat.le_succ _
        | with_reducible assumption
        | with_reducible apply State.matched_keeps
        | with_reducible apply State.mismatched_keeps)
    | with_reducible refine Keeps.ite ?_ ?_
    | split
    | dsimp only

theorem State.tallyDone_keeps {s0 s : State} (h : Keeps s0 s) (n : Nat) (c : Word) (replayed : Bool) :
    Keeps s0 (s.tallyDone n c replayed) := by
  unfold State.tallyDone
  repeat' first
    | with_reducible assumption
    | with_reducible apply State.onTwin_keeps
    | with_reducible apply State.keepTallies_keeps
    | with_reducible apply State.yokeSend_keeps
    | with_reducible apply State.compareAt_keeps
    | (with_reducible refine Keeps.put ?_ ?_ .. <;>
        first
        | exact Nat.le_refl _
        | exact Nat.le_succ _
        | with_reducible assumption
        | with_reducible apply State.onTwin_keeps
        | with_reducible apply State.keepTallies_keeps
        | with_reducible apply State.yokeSend_keeps
        | with_reducible apply State.compareAt_keeps)
    | with_reducible refine Keeps.ite ?_ ?_
    | split
    | dsimp only

theorem State.discardDone_keeps {s0 s : State} (h : Keeps s0 s) (done : Nat) :
    Keeps s0 (s.discardDone done) := by
  unfold State.discardDone
  repeat' first
    | with_reducible assumption
    | with_reducible apply State.set_keeps
    | (with_reducible refine Keeps.put ?_ ?_ .. <;>
        first
        | exact Nat.le_refl _
        | exact Nat.le_succ _
        | with_reducible assumption
        | with_reducible apply State.set_keeps)
    | with_reducible refine Keeps.ite ?_ ?_
    | split
    | dsimp only

theorem State.rejoined_keeps {s0 s : State} (h : Keeps s0 s) :
    Keeps s0 (s.rejoined ) := by
  unfold State.rejoined
  repeat' first
    | with_reducible assumption
    | with_reducible apply State.onTwin_keeps
    | with_reducible apply State.release_keeps
    | with_reducible apply State.set_keeps
    | (with_reducible refine Keeps.put ?_ ?_ .. <;>
        first
        | exact Nat.le_refl _
        | exact Nat.le_succ _
        | with_reducible assumption
        | with_reducible apply State.onTwin_keeps
        | with_reducible apply State.release_keeps
        | with_reducible apply State.set_keeps)
    | with_reducible refine Keeps.ite ?_ ?_
    | split
    | dsimp only

theorem State.yokeTally_keeps {s0 s : State} (h : Keeps s0 s) (n : Nat) (c : Word) (done flags : Nat) :
    Keeps s0 (s.yokeTally n c done flags) := by
  unfold State.yokeTally
  repeat' first
    | with_reducible assumption
    | with_reducible apply State.onTwin_keeps
    | with_reducible apply State.keepTallies_keeps
    | with_reducible apply State.discardDone_keeps
    | with_reducible apply State.compareAt_keeps
    | with_reducible apply State.acked_keeps
    | with_reducible apply State.rejoined_keeps
    | with_reducible apply State.say_keeps
    | (with_reducible refine Keeps.put ?_ ?_ .. <;>
        first
        | exact Nat.le_refl _
        | exact Nat.le_succ _
        | with_reducible assumption
        | with_reducible apply State.onTwin_keeps
        | with_reducible apply State.keepTallies_keeps
        | with_reducible apply State.discardDone_keeps
        | with_reducible apply State.compareAt_keeps
        | with_reducible apply State.acked_keeps
        | with_reducible apply State.rejoined_keeps
        | with_reducible apply State.say_keeps)
    | with_reducible refine Keeps.ite ?_ ?_
    | split
    | dsimp only

theorem State.btally_keeps {s0 s : State} (h : Keeps s0 s) (words : List Word) :
    Keeps s0 (s.btally words) := by
  unfold State.btally
  repeat' first
    | with_reducible assumption
    | with_reducible apply State.onTwin_keeps
    | with_reducible apply State.btallyCheck_keeps
    | (with_reducible refine Keeps.put ?_ ?_ .. <;>
        first
        | exact Nat.le_refl _
        | exact Nat.le_succ _
        | with_reducible assumption
        | with_reducible apply State.onTwin_keeps
        | with_reducible apply State.btallyCheck_keeps)
    | with_reducible refine Keeps.ite ?_ ?_
    | split
    | dsimp only

theorem State.yokeState_keeps {s0 s : State} (h : Keeps s0 s) (what : YokeSay) (done : Nat) :
    Keeps s0 (s.yokeState what done) := by
  unfold State.yokeState
  repeat' first
    | with_reducible assumption
    | with_reducible apply State.onTwin_keeps
    | with_reducible apply State.discardDone_keeps
    | with_reducible apply State.set_keeps
    | with_reducible apply State.detach_keeps
    | with_reducible apply State.partnerGone_keeps
    | with_reducible apply State.pairEnd_keeps
    | with_reducible apply State.alone_keeps
    | with_reducible apply State.pump_keeps
    | with_reducible apply State.unpaired_keeps
    | with_reducible apply State.pairLocked_keeps
    | with_reducible apply State.rejoined_keeps
    | (with_reducible refine Keeps.put ?_ ?_ .. <;>
        first
        | exact Nat.le_refl _
        | exact Nat.le_succ _
        | with_reducible assumption
        | with_reducible apply State.onTwin_keeps
        | with_reducible apply State.discardDone_keeps
        | with_reducible apply State.set_keeps
        | with_reducible apply State.detach_keeps
        | with_reducible apply State.partnerGone_keeps
        | with_reducible apply State.pairEnd_keeps
        | with_reducible apply State.alone_keeps
        | with_reducible apply State.pump_keeps
        | with_reducible apply State.unpaired_keeps
        | with_reducible apply State.pairLocked_keeps
        | with_reducible apply State.rejoined_keeps)
    | with_reducible refine Keeps.ite ?_ ?_
    | split
    | dsimp only

theorem State.comparisonTimeout_keeps {s0 s : State} (h : Keeps s0 s) :
    Keeps s0 (s.comparisonTimeout ) := by
  unfold State.comparisonTimeout
  repeat' first
    | with_reducible assumption
    | with_reducible apply State.detach_keeps
    | with_reducible apply State.partnerGone_keeps
    | with_reducible apply State.convict_keeps
    | (with_reducible refine Keeps.put ?_ ?_ .. <;>
        first
        | exact Nat.le_refl _
        | exact Nat.le_succ _
        | with_reducible assumption
        | with_reducible apply State.detach_keeps
        | with_reducible apply State.partnerGone_keeps
        | with_reducible apply State.convict_keeps)
    | with_reducible refine Keeps.ite ?_ ?_
    | split
    | dsimp only

theorem State.yokePortLost_keeps {s0 s : State} (h : Keeps s0 s) (j : Nat) :
    Keeps s0 (s.yokePortLost j) := by
  unfold State.yokePortLost
  repeat' first
    | with_reducible assumption
    | with_reducible apply State.onPort_keeps
    | with_reducible apply State.set_keeps
    | with_reducible apply State.showYoke_keeps
    | with_reducible apply State.raise_keeps
    | with_reducible apply State.noSyncPort_keeps
    | (with_reducible refine Keeps.put ?_ ?_ .. <;>
        first
        | exact Nat.le_refl _
        | exact Nat.le_succ _
        | with_reducible assumption
        | with_reducible apply State.onPort_keeps
        | with_reducible apply State.set_keeps
        | with_reducible apply State.showYoke_keeps
        | with_reducible apply State.raise_keeps
        | with_reducible apply State.noSyncPort_keeps)
    | with_reducible refine Keeps.ite ?_ ?_
    | split
    | dsimp only

theorem State.twinDetChange_keeps {s0 s : State} (h : Keeps s0 s) (j : Nat) (powered : Bool) :
    Keeps s0 (s.twinDetChange j powered) := by
  unfold State.twinDetChange
  repeat' first
    | with_reducible assumption
    | with_reducible apply State.onTwin_keeps
    | with_reducible apply State.showYoke_keeps
    | with_reducible apply State.partnerGone_keeps
    | (with_reducible refine Keeps.put ?_ ?_ .. <;>
        first
        | exact Nat.le_refl _
        | exact Nat.le_succ _
        | with_reducible assumption
        | with_reducible apply State.onTwin_keeps
        | with_reducible apply State.showYoke_keeps
        | with_reducible apply State.partnerGone_keeps)
    | with_reducible refine Keeps.ite ?_ ?_
    | split
    | dsimp only

theorem State.yokeWrite_keeps {s0 s : State} (h : Keeps s0 s) (tier a : Nat) (lines : List Byte) :
    Keeps s0 (s.yokeWrite tier a lines) := by
  unfold State.yokeWrite
  repeat' first
    | with_reducible assumption
    | with_reducible apply State.setTiers_keeps
    | (intro w; exact Tiers.putLines_wf (State.tiers_wf w) _ _ _)
    | (intro w; exact Tiers.putLine_wf (State.tiers_wf w) _ _ _)
    | with_reducible refine Keeps.ite ?_ ?_
    | split
    | dsimp only

theorem State.rejoinLaunch_keeps {s0 s : State} (h : Keeps s0 s) (c : Nat) :
    Keeps s0 (s.rejoinLaunch c) := by
  unfold State.rejoinLaunch
  repeat' first
    | with_reducible assumption
    | with_reducible apply State.relaunch_keeps
    | with_reducible apply State.set_keeps
    | with_reducible apply State.onTwin_keeps
    | (with_reducible refine Keeps.put ?_ ?_ .. <;>
        first
        | exact Nat.le_refl _
        | exact Nat.le_succ _
        | with_reducible assumption
        | with_reducible apply State.relaunch_keeps
        | with_reducible apply State.set_keeps
        | with_reducible apply State.onTwin_keeps)
    | with_reducible refine Keeps.ite ?_ ?_
    | split
    | dsimp only

theorem State.save_keeps {s0 s : State} (h : Keeps s0 s) (l c : Nat) (bytes : List Byte) :
    Keeps s0 (s.save l c bytes) := by
  unfold State.save
  repeat' first
    | with_reducible assumption
    | with_reducible apply State.saddleWrite_keeps
    | with_reducible apply State.onTwin_keeps
    | with_reducible apply State.rejoinLaunch_keeps
    | with_reducible apply State.setTiers_keeps
    | with_reducible apply State.start_keeps
    | (intro w; exact Tiers.putLines_wf (State.tiers_wf w) _ _ _)
    | (intro w; exact Tiers.putLine_wf (State.tiers_wf w) _ _ _)
    | (with_reducible refine Keeps.put ?_ ?_ .. <;>
        first
        | exact Nat.le_refl _
        | exact Nat.le_succ _
        | with_reducible assumption
        | with_reducible apply State.saddleWrite_keeps
        | with_reducible apply State.onTwin_keeps
        | with_reducible apply State.rejoinLaunch_keeps
        | with_reducible apply State.setTiers_keeps
        | with_reducible apply State.start_keeps)
    | with_reducible refine Keeps.ite ?_ ?_
    | split
    | dsimp only

theorem State.saddleDone_keeps {s0 s : State} (h : Keeps s0 s) (p : Nat) :
    Keeps s0 (s.saddleDone p) := by
  unfold State.saddleDone
  repeat' first
    | with_reducible assumption
    | with_reducible apply State.saddleComplete_keeps
    | with_reducible apply State.yokeSend_keeps
    | (with_reducible refine Keeps.put ?_ ?_ .. <;>
        first
        | exact Nat.le_refl _
        | exact Nat.le_succ _
        | with_reducible assumption
        | with_reducible apply State.saddleComplete_keeps
        | with_reducible apply State.yokeSend_keeps)
    | with_reducible refine Keeps.ite ?_ ?_
    | split
    | dsimp only

theorem State.yokeQuiet_keeps {s0 s : State} (h : Keeps s0 s) (n : Nat) :
    Keeps s0 (s.yokeQuiet n) := by
  unfold State.yokeQuiet
  repeat' first
    | with_reducible assumption
    | with_reducible apply State.onTwin_keeps
    | (with_reducible refine Keeps.put ?_ ?_ .. <;>
        first
        | exact Nat.le_refl _
        | exact Nat.le_succ _
        | with_reducible assumption
        | with_reducible apply State.onTwin_keeps)
    | dsimp only

theorem State.yokeAdmit_keeps {s0 s : State} (h : Keeps s0 s) (ident stride length crc : Nat) :
    Keeps s0 (s.yokeAdmit ident stride length crc) := by
  unfold State.yokeAdmit
  repeat' first
    | with_reducible assumption
    | with_reducible apply State.onTwin_keeps
    | (with_reducible refine Keeps.put ?_ ?_ .. <;>
        first
        | exact Nat.le_refl _
        | exact Nat.le_succ _
        | with_reducible assumption
        | with_reducible apply State.onTwin_keeps)
    | with_reducible refine Keeps.ite ?_ ?_
    | split
    | dsimp only
    | dsimp only [id]

theorem State.yokeInput_keeps {s0 s : State} (h : Keeps s0 s) (ident : Nat) (payload : List Byte) :
    Keeps s0 (s.yokeInput ident payload) := by
  unfold State.yokeInput
  repeat' first
    | with_reducible assumption
    | with_reducible apply State.yokeSend_keeps
    | with_reducible apply State.setTiers_keeps
    | with_reducible apply State.onTwin_keeps
    | (intro w; exact Tiers.putLines_wf (State.tiers_wf w) _ _ _)
    | (intro w; exact Tiers.putLine_wf (State.tiers_wf w) _ _ _)
    | (with_reducible refine Keeps.put ?_ ?_ .. <;>
        first
        | exact Nat.le_refl _
        | exact Nat.le_succ _
        | with_reducible assumption
        | with_reducible apply State.yokeSend_keeps
        | with_reducible apply State.setTiers_keeps
        | with_reducible apply State.onTwin_keeps)
    | with_reducible refine Keeps.ite ?_ ?_
    | split
    | dsimp only
    | dsimp only [id]

theorem State.askInput_keeps {s0 s : State} (h : Keeps s0 s) (ident : Nat) :
    Keeps s0 (s.askInput ident) := by
  unfold State.askInput
  repeat' first
    | with_reducible assumption
    | with_reducible apply State.onTwin_keeps
    | with_reducible apply State.yokeSend_keeps
    | (with_reducible refine Keeps.put ?_ ?_ .. <;>
        first
        | exact Nat.le_refl _
        | exact Nat.le_succ _
        | with_reducible assumption
        | with_reducible apply State.onTwin_keeps
        | with_reducible apply State.yokeSend_keeps)
    | with_reducible refine Keeps.ite ?_ ?_
    | split
    | dsimp only
    | dsimp only [id]

theorem State.yokeBack_keeps {s0 s : State} (h : Keeps s0 s) :
    Keeps s0 (s.yokeBack ) := by
  unfold State.yokeBack
  repeat' first
    | with_reducible assumption
    | with_reducible apply State.yokeSend_keeps
    | with_reducible refine Keeps.ite ?_ ?_
    | split
    | dsimp only

theorem State.portState_keeps {s0 s : State} (h : Keeps s0 s) (i : Nat) (up : Bool) :
    Keeps s0 (s.portState i up) := by
  unfold State.portState
  repeat' first
    | with_reducible assumption
    | with_reducible apply State.yokePortLost_keeps
    | with_reducible apply State.onPort_keeps
    | with_reducible apply State.set_keeps
    | with_reducible apply State.showYoke_keeps
    | with_reducible apply State.yokeBack_keeps
    | with_reducible apply State.noSyncPort_keeps
    | (with_reducible refine Keeps.put ?_ ?_ .. <;>
        first
        | exact Nat.le_refl _
        | exact Nat.le_succ _
        | with_reducible assumption
        | with_reducible apply State.yokePortLost_keeps
        | with_reducible apply State.onPort_keeps
        | with_reducible apply State.set_keeps
        | with_reducible apply State.showYoke_keeps
        | with_reducible apply State.yokeBack_keeps
        | with_reducible apply State.noSyncPort_keeps)
    | with_reducible refine Keeps.ite ?_ ?_
    | split
    | dsimp only

theorem State.watchHeat_keeps {s0 s : State} (h : Keeps s0 s) :
    Keeps s0 (s.watchHeat ) := by
  unfold State.watchHeat
  repeat' first
    | with_reducible assumption
    | (with_reducible refine Keeps.foldl ?_ (fun t x k => ?_))
    | (with_reducible refine Keeps.put ?_ ?_ .. <;>
        first
        | exact Nat.le_refl _
        | exact Nat.le_succ _
        | with_reducible assumption
        | (with_reducible refine Keeps.foldl ?_ (fun t x k => ?_)))
    | with_reducible refine Keeps.ite ?_ ?_
    | split
    | dsimp only

theorem State.applyVolts_keeps {s0 s : State} (h : Keeps s0 s) :
    Keeps s0 (s.applyVolts ) := by
  unfold State.applyVolts
  repeat' first
    | with_reducible assumption
    | with_reducible apply State.setVolts_keeps
    | with_reducible apply State.release_keeps
    | with_reducible apply State.fitPeriod_keeps
    | (with_reducible refine Keeps.put ?_ ?_ .. <;>
        first
        | exact Nat.le_refl _
        | exact Nat.le_succ _
        | with_reducible assumption
        | with_reducible apply State.setVolts_keeps
        | with_reducible apply State.release_keeps
        | with_reducible apply State.fitPeriod_keeps)
    | with_reducible refine Keeps.ite ?_ ?_
    | split
    | dsimp only

theorem State.decideVolts_keeps {s0 s : State} (h : Keeps s0 s) :
    Keeps s0 (s.decideVolts ) := by
  unfold State.decideVolts
  repeat' first
    | with_reducible assumption
    | with_reducible apply State.watchHeat_keeps
    | with_reducible apply State.set_keeps
    | with_reducible apply State.raise_keeps
    | with_reducible apply State.acquire_keeps
    | (refine Keeps.of_fst ‹_ = (_, _)› ?_)
    | (refine Keeps.of_snd ‹_ = (_, _)› ?_)
    | (with_reducible refine Keeps.put ?_ ?_ .. <;>
        first
        | exact Nat.le_refl _
        | exact Nat.le_succ _
        | with_reducible assumption
        | with_reducible apply State.watchHeat_keeps
        | with_reducible apply State.set_keeps
        | with_reducible apply State.raise_keeps
        | with_reducible apply State.acquire_keeps
        | (refine Keeps.of_fst ‹_ = (_, _)› ?_))
    | with_reducible refine Keeps.ite ?_ ?_
    | split
    | dsimp only

theorem State.applyLoad_keeps {s0 s : State} (h : Keeps s0 s) :
    Keeps s0 (s.applyLoad ) := by
  unfold State.applyLoad
  repeat' first
    | with_reducible assumption
    | with_reducible apply State.applyVolts_keeps
    | with_reducible apply State.setVolts_keeps
    | with_reducible apply State.loadPeriod_keeps
    | with_reducible apply State.release_keeps
    | (with_reducible refine Keeps.put ?_ ?_ .. <;>
        first
        | exact Nat.le_refl _
        | exact Nat.le_succ _
        | with_reducible assumption
        | with_reducible apply State.applyVolts_keeps
        | with_reducible apply State.setVolts_keeps
        | with_reducible apply State.loadPeriod_keeps
        | with_reducible apply State.release_keeps)
    | with_reducible refine Keeps.ite ?_ ?_
    | split
    | dsimp only

theorem State.managePower_keeps {s0 s : State} (h : Keeps s0 s) :
    Keeps s0 (s.managePower ) := by
  unfold State.managePower
  repeat' first
    | with_reducible assumption
    | with_reducible apply State.applyLoad_keeps
    | with_reducible apply State.decideVolts_keeps
    | with_reducible refine Keeps.ite ?_ ?_
    | split
    | dsimp only

theorem State.onFar_keeps {s0 s : State} (h : Keeps s0 s) (f : Farrier → Farrier) :
    Keeps s0 (s.onFar f) := by
  unfold State.onFar
  repeat' first
    | with_reducible assumption
    | (with_reducible refine Keeps.put ?_ ?_ .. <;>
        first
        | exact Nat.le_refl _
        | exact Nat.le_succ _
        | with_reducible assumption)

theorem State.showLog_keeps {s0 s : State} (h : Keeps s0 s) :
    Keeps s0 (s.showLog ) := by
  unfold State.showLog
  repeat' first
    | with_reducible assumption
    | with_reducible apply State.set_keeps
    | (with_reducible refine Keeps.put ?_ ?_ .. <;>
        first
        | exact Nat.le_refl _
        | exact Nat.le_succ _
        | with_reducible assumption
        | with_reducible apply State.set_keeps)
    | with_reducible refine Keeps.ite ?_ ?_
    | split
    | dsimp only

theorem State.flushSome_keeps {s0 s : State} (h : Keeps s0 s) (n : Nat) :
    Keeps s0 (s.flushSome n) := by
  unfold State.flushSome
  repeat' first
    | with_reducible assumption
    | with_reducible apply State.onFar_keeps
    | with_reducible apply State.showLog_keeps
    | (with_reducible refine Keeps.put ?_ ?_ .. <;>
        first
        | exact Nat.le_refl _
        | exact Nat.le_succ _
        | with_reducible assumption
        | with_reducible apply State.onFar_keeps
        | with_reducible apply State.showLog_keeps)
    | dsimp only

theorem State.flushLog_keeps {s0 s : State} (h : Keeps s0 s) :
    Keeps s0 (s.flushLog ) := by
  unfold State.flushLog
  repeat' first
    | with_reducible assumption
    | with_reducible apply State.flushSome_keeps

theorem State.showCap_keeps {s0 s : State} (h : Keeps s0 s) :
    Keeps s0 (s.showCap ) := by
  unfold State.showCap
  repeat' first
    | with_reducible assumption
    | with_reducible apply State.set_keeps

theorem State.showPack_keeps {s0 s : State} (h : Keeps s0 s) :
    Keeps s0 (s.showPack ) := by
  unfold State.showPack
  repeat' first
    | with_reducible assumption
    | with_reducible apply State.set_keeps

theorem State.checkCounters_keeps {s0 s : State} (h : Keeps s0 s) : Keeps s0 s.checkCounters := by
  unfold State.checkCounters
  dsimp only
  have k1 : Keeps s0 { s with freeCtr := s.freeCtr + 1 } := h.upd rfl rfl (Nat.le_succ _) rfl rfl rfl rfl rfl
  split
  · exact k1
  · refine State.onFar_keeps ?_ _
    refine k1.trans ⟨rfl, rfl, Nat.le_refl _, id, id, ?_, fun _ => Nat.le_refl _, fun _ m _ => m⟩
    dsimp only
    split <;> omega

theorem State.farrierBoot_keeps {s0 s : State} (h : Keeps s0 s) :
    Keeps s0 (s.farrierBoot ) := by
  unfold State.farrierBoot
  repeat' first
    | with_reducible assumption
    | with_reducible apply State.checkCounters_keeps
    | with_reducible apply State.onFar_keeps
    | with_reducible apply State.mark_keeps
    | with_reducible apply State.takeIndex_keeps
    | with_reducible apply State.showLms_keeps
    | with_reducible apply State.showLog_keeps
    | with_reducible apply State.showCap_keeps
    | with_reducible apply State.showPack_keeps
    | (refine Keeps.of_fst ‹_ = (_, _)› ?_)
    | (refine Keeps.of_snd ‹_ = (_, _)› ?_)
    | (with_reducible refine Keeps.put ?_ ?_ .. <;>
        first
        | exact Nat.le_refl _
        | exact Nat.le_succ _
        | with_reducible assumption
        | with_reducible apply State.checkCounters_keeps
        | with_reducible apply State.onFar_keeps
        | with_reducible apply State.mark_keeps
        | with_reducible apply State.takeIndex_keeps
        | with_reducible apply State.showLms_keeps
        | with_reducible apply State.showLog_keeps
        | with_reducible apply State.showCap_keeps
        | with_reducible apply State.showPack_keeps
        | (refine Keeps.of_fst ‹_ = (_, _)› ?_))
    | with_reducible refine Keeps.ite ?_ ?_
    | split
    | dsimp only

theorem State.farrierLoss_keeps {s0 s : State} (h : Keeps s0 s) :
    Keeps s0 (s.farrierLoss ) := by
  unfold State.farrierLoss
  repeat' first
    | with_reducible assumption
    | with_reducible apply State.onFar_keeps
    | with_reducible apply State.setLeases_keeps
    | (with_reducible refine Keeps.put ?_ ?_ .. <;>
        first
        | exact Nat.le_refl _
        | exact Nat.le_succ _
        | with_reducible assumption
        | with_reducible apply State.onFar_keeps
        | with_reducible apply State.setLeases_keeps)
    | dsimp only

theorem State.farrierDown_keeps {s0 s : State} (h : Keeps s0 s) :
    Keeps s0 (s.farrierDown ) := by
  unfold State.farrierDown
  repeat' first
    | with_reducible assumption
    | with_reducible apply State.flushSome_keeps
    | with_reducible apply State.farrierLoss_keeps
    | with_reducible apply State.set_keeps
    | with_reducible refine Keeps.ite ?_ ?_
    | split
    | dsimp only

theorem State.farrierRestart_keeps {s0 s : State} (h : Keeps s0 s) :
    Keeps s0 (s.farrierRestart ) := by
  unfold State.farrierRestart
  repeat' first
    | with_reducible assumption
    | with_reducible apply State.farrierDown_keeps
    | with_reducible refine Keeps.ite ?_ ?_
    | split
    | dsimp only

theorem State.farrierRestartDone_keeps {s0 s : State} (h : Keeps s0 s) :
    Keeps s0 (s.farrierRestartDone ) := by
  unfold State.farrierRestartDone
  repeat' first
    | with_reducible assumption
    | with_reducible apply State.farrierBoot_keeps
    | with_reducible refine Keeps.ite ?_ ?_
    | split
    | dsimp only

theorem State.setFw_keeps {s0 s : State} (h : Keeps s0 s) (c : Nat) (w : Firmware) :
    Keeps s0 (s.setFw c w) := by
  unfold State.setFw
  repeat' first
    | with_reducible assumption
    | with_reducible apply State.onFar_keeps
    | (with_reducible refine Keeps.put ?_ ?_ .. <;>
        first
        | exact Nat.le_refl _
        | exact Nat.le_succ _
        | with_reducible assumption
        | with_reducible apply State.onFar_keeps)
    | dsimp only

theorem State.riderStarts_keeps {s0 s : State} (h : Keeps s0 s) :
    Keeps s0 (s.riderStarts ) := by
  unfold State.riderStarts
  repeat' first
    | with_reducible assumption
    | with_reducible apply State.setFw_keeps
    | (with_reducible refine Keeps.put ?_ ?_ .. <;>
        first
        | exact Nat.le_refl _
        | exact Nat.le_succ _
        | with_reducible assumption
        | with_reducible apply State.setFw_keeps)
    | with_reducible refine Keeps.ite ?_ ?_
    | split
    | dsimp only

theorem State.switchSlot_keeps {s0 s : State} (h : Keeps s0 s) (c : Nat) :
    Keeps s0 (s.switchSlot c) := by
  unfold State.switchSlot
  repeat' first
    | with_reducible assumption
    | with_reducible apply State.setFw_keeps
    | (with_reducible refine Keeps.put ?_ ?_ .. <;>
        first
        | exact Nat.le_refl _
        | exact Nat.le_succ _
        | with_reducible assumption
        | with_reducible apply State.setFw_keeps)
    | dsimp only

theorem State.switchFarrier_keeps {s0 s : State} (h : Keeps s0 s) :
    Keeps s0 (s.switchFarrier ) := by
  unfold State.switchFarrier
  repeat' first
    | with_reducible assumption
    | with_reducible apply State.onFar_keeps
    | with_reducible apply State.release_keeps
    | with_reducible apply State.switchSlot_keeps
    | with_reducible apply State.farrierDown_keeps
    | with_reducible apply State.raise_keeps
    | (with_reducible refine Keeps.put ?_ ?_ .. <;>
        first
        | exact Nat.le_refl _
        | exact Nat.le_succ _
        | with_reducible assumption
        | with_reducible apply State.onFar_keeps
        | with_reducible apply State.release_keeps
        | with_reducible apply State.switchSlot_keeps
        | with_reducible apply State.farrierDown_keeps
        | with_reducible apply State.raise_keeps)
    | with_reducible refine Keeps.ite ?_ ?_
    | split
    | dsimp only

theorem State.activateAt_keeps {s0 s : State} (h : Keeps s0 s) (n : Nat) :
    Keeps s0 (s.activateAt n) := by
  unfold State.activateAt
  repeat' first
    | with_reducible assumption
    | with_reducible apply State.switchFarrier_keeps
    | (with_reducible refine Keeps.put ?_ ?_ .. <;>
        first
        | exact Nat.le_refl _
        | exact Nat.le_succ _
        | with_reducible assumption
        | with_reducible apply State.switchFarrier_keeps)
    | with_reducible refine Keeps.ite ?_ ?_
    | split
    | dsimp only

theorem State.stumble_keeps {s0 s : State} (h : Keeps s0 s) (late : Nat) :
    Keeps s0 (s.stumble late) := by
  unfold State.stumble
  repeat' first
    | with_reducible assumption
    | with_reducible apply State.count_keeps
    | with_reducible apply State.set_keeps
    | with_reducible apply State.setBlock_keeps
    | with_reducible apply State.raiseRegion_keeps
    | dsimp only

theorem State.newAnchor_keeps {s0 s : State} (h : Keeps s0 s) (n : Nat) :
    Keeps s0 (s.newAnchor n) := by
  unfold State.newAnchor
  repeat' first
    | with_reducible assumption
    | (with_reducible refine Keeps.put ?_ ?_ .. <;>
        first
        | exact Nat.le_refl _
        | exact Nat.le_succ _
        | with_reducible assumption)

theorem State.launchBegin_keeps {s0 s : State} (h : Keeps s0 s) (n : Nat) :
    Keeps s0 (s.launchBegin n) := by
  unfold State.launchBegin
  repeat' first
    | with_reducible assumption
    | decide
    | with_reducible apply State.start_keeps
    | with_reducible apply State.failJob_keeps
    | with_reducible apply State.setDispatch_keeps
    | with_reducible apply State.goTo_keeps
    | with_reducible apply State.setBlock_keeps
    | with_reducible apply State.set_keeps
    | with_reducible apply State.onScreen_keeps
    | with_reducible apply State.onTwin_keeps
    | with_reducible apply State.twinEvent_keeps
    | with_reducible apply State.takeGait_keeps
    | with_reducible apply State.newAnchor_keeps
    | with_reducible apply State.showJob_keeps
    | (with_reducible refine Keeps.foldl ?_ (fun t x k => ?_))
    | (with_reducible refine Keeps.put ?_ ?_ .. <;>
        first
        | exact Nat.le_refl _
        | exact Nat.le_succ _
        | with_reducible assumption
        | with_reducible apply State.start_keeps
        | with_reducible apply State.failJob_keeps
        | with_reducible apply State.setDispatch_keeps
        | with_reducible apply State.goTo_keeps
        | with_reducible apply State.setBlock_keeps
        | with_reducible apply State.set_keeps
        | with_reducible apply State.onScreen_keeps
        | with_reducible apply State.onTwin_keeps
        | with_reducible apply State.twinEvent_keeps
        | with_reducible apply State.takeGait_keeps
        | with_reducible apply State.newAnchor_keeps
        | with_reducible apply State.showJob_keeps
        | (with_reducible refine Keeps.foldl ?_ (fun t x k => ?_)))
    | with_reducible refine Keeps.ite ?_ ?_
    | split
    | dsimp only

theorem State.applyGait_keeps {s0 s : State} (h : Keeps s0 s) (n : Nat) :
    Keeps s0 (s.applyGait n) := by
  unfold State.applyGait
  repeat' first
    | with_reducible assumption
    | with_reducible apply State.set_keeps
    | with_reducible apply State.newAnchor_keeps
    | with_reducible refine Keeps.ite ?_ ?_
    | split
    | dsimp only

theorem State.applyPeriod_keeps {s0 s : State} (h : Keeps s0 s) (n : Nat) :
    Keeps s0 (s.applyPeriod n) := by
  unfold State.applyPeriod
  repeat' first
    | with_reducible assumption
    | with_reducible apply State.set_keeps
    | with_reducible apply State.fitPeriod_keeps
    | with_reducible apply State.newAnchor_keeps
    | (with_reducible refine Keeps.put ?_ ?_ .. <;>
        first
        | exact Nat.le_refl _
        | exact Nat.le_succ _
        | with_reducible assumption
        | with_reducible apply State.set_keeps
        | with_reducible apply State.fitPeriod_keeps
        | with_reducible apply State.newAnchor_keeps)
    | with_reducible refine Keeps.ite ?_ ?_
    | split
    | dsimp only

theorem State.lockLost_keeps {s0 s : State} (h : Keeps s0 s) :
    Keeps s0 (s.lockLost ) := by
  unfold State.lockLost
  repeat' first
    | with_reducible assumption
    | with_reducible apply State.set_keeps
    | with_reducible apply State.raise_keeps

theorem State.missedSync_keeps {s0 s : State} (h : Keeps s0 s) :
    Keeps s0 (s.missedSync ) := by
  unfold State.missedSync
  repeat' first
    | with_reducible assumption
    | with_reducible apply State.lockLost_keeps
    | (with_reducible refine Keeps.put ?_ ?_ .. <;>
        first
        | exact Nat.le_refl _
        | exact Nat.le_succ _
        | with_reducible assumption
        | with_reducible apply State.lockLost_keeps)
    | with_reducible refine Keeps.ite ?_ ?_
    | split
    | dsimp only

theorem State.checkpointSteady_keeps {s0 s : State} (h : Keeps s0 s) (n : Nat) :
    Keeps s0 (s.checkpointSteady n) := by
  unfold State.checkpointSteady
  repeat' first
    | with_reducible assumption
    | with_reducible apply State.managePower_keeps
    | with_reducible apply State.applyGait_keeps
    | with_reducible apply State.applyPeriod_keeps
    | with_reducible apply State.fitPeriod_keeps
    | with_reducible apply State.newAnchor_keeps
    | with_reducible apply State.releaseEngines_keeps
    | with_reducible apply State.set_keeps
    | (with_reducible refine Keeps.put ?_ ?_ .. <;>
        first
        | exact Nat.le_refl _
        | exact Nat.le_succ _
        | with_reducible assumption
        | with_reducible apply State.managePower_keeps
        | with_reducible apply State.applyGait_keeps
        | with_reducible apply State.applyPeriod_keeps
        | with_reducible apply State.fitPeriod_keeps
        | with_reducible apply State.newAnchor_keeps
        | with_reducible apply State.releaseEngines_keeps
        | with_reducible apply State.set_keeps)
    | with_reducible refine Keeps.ite ?_ ?_
    | split
    | dsimp only

theorem State.checkpointWork_keeps {s0 s : State} (h : Keeps s0 s) (n : Nat) :
    Keeps s0 (s.checkpointWork n) := by
  unfold State.checkpointWork
  repeat' first
    | with_reducible assumption
    | with_reducible apply State.saddleExpire_keeps
    | with_reducible apply State.missedSync_keeps
    | with_reducible apply State.activateAt_keeps
    | with_reducible apply State.start_keeps
    | with_reducible apply State.set_keeps
    | with_reducible apply State.setDispatch_keeps
    | with_reducible apply State.force_keeps
    | with_reducible apply State.shadowSamples_keeps
    | with_reducible apply State.runSwaps_keeps
    | with_reducible apply State.onTwin_keeps
    | (with_reducible refine Keeps.foldl ?_ (fun t x k => ?_))
    | (with_reducible refine Keeps.put ?_ ?_ .. <;>
        first
        | exact Nat.le_refl _
        | exact Nat.le_succ _
        | with_reducible assumption
        | with_reducible apply State.saddleExpire_keeps
        | with_reducible apply State.missedSync_keeps
        | with_reducible apply State.activateAt_keeps
        | with_reducible apply State.start_keeps
        | with_reducible apply State.set_keeps
        | with_reducible apply State.setDispatch_keeps
        | with_reducible apply State.force_keeps
        | with_reducible apply State.shadowSamples_keeps
        | with_reducible apply State.runSwaps_keeps
        | with_reducible apply State.onTwin_keeps
        | (with_reducible refine Keeps.foldl ?_ (fun t x k => ?_)))
    | with_reducible refine Keeps.ite ?_ ?_
    | split
    | dsimp only

theorem State.checkpointRejoin_keeps {s0 s : State} (h : Keeps s0 s) (n : Nat) :
    Keeps s0 (s.checkpointRejoin n) := by
  unfold State.checkpointRejoin
  repeat' first
    | with_reducible assumption
    | with_reducible apply State.managePower_keeps
    | with_reducible apply State.applyGait_keeps
    | with_reducible apply State.applyPeriod_keeps
    | with_reducible apply State.releaseEngines_keeps
    | with_reducible apply State.set_keeps
    | with_reducible apply State.raise_keeps
    | with_reducible apply State.fitPeriod_keeps
    | with_reducible apply State.newAnchor_keeps
    | (with_reducible refine Keeps.put ?_ ?_ .. <;>
        first
        | exact Nat.le_refl _
        | exact Nat.le_succ _
        | with_reducible assumption
        | with_reducible apply State.managePower_keeps
        | with_reducible apply State.applyGait_keeps
        | with_reducible apply State.applyPeriod_keeps
        | with_reducible apply State.releaseEngines_keeps
        | with_reducible apply State.set_keeps
        | with_reducible apply State.raise_keeps
        | with_reducible apply State.fitPeriod_keeps
        | with_reducible apply State.newAnchor_keeps)
    | with_reducible refine Keeps.ite ?_ ?_
    | split
    | dsimp only

theorem State.deferSwap_keeps {s0 s : State} (h : Keeps s0 s) (n : Nat) :
    Keeps s0 (s.deferSwap n) := by
  unfold State.deferSwap
  repeat' first
    | with_reducible assumption
    | with_reducible apply State.set_keeps
    | (with_reducible refine Keeps.put ?_ ?_ .. <;>
        first
        | exact Nat.le_refl _
        | exact Nat.le_succ _
        | with_reducible assumption
        | with_reducible apply State.set_keeps)
    | with_reducible refine Keeps.ite ?_ ?_
    | split
    | dsimp only

theorem State.swapDone_keeps {s0 s : State} (h : Keeps s0 s) : Keeps s0 s.swapDone := by
  unfold State.swapDone
  split
  · next i _ _ =>
    have k1 := State.installImage_keeps h i (s.place i fun _ => 0).2
    revert k1
    generalize s.installImage i (s.place i fun _ => 0).2 = x
    obtain ⟨o, t⟩ := x
    intro k1
    cases o with
    | some x => exact State.release_keeps (State.holdDetail_keeps (State.dropStaged_keeps h _) _) _ _
    | none =>
      have k2 := State.commitImage_keeps k1 i
      dsimp only at k2 ⊢
      revert k2
      generalize t.commitImage i = u
      intro k2
      refine State.loadPeriod_keeps (State.release_keeps (State.set_keeps (State.set_keeps ?_ _ _) _ _) _ _)
      with_reducible refine Keeps.put k2 (Nat.le_refl _) ..
  · exact h

theorem State.activationDone_keeps {s0 s : State} (h : Keeps s0 s) :
    Keeps s0 (s.activationDone ) := by
  unfold State.activationDone
  repeat' first
    | with_reducible assumption
    | with_reducible apply State.release_keeps
    | (with_reducible refine Keeps.put ?_ ?_ .. <;>
        first
        | exact Nat.le_refl _
        | exact Nat.le_succ _
        | with_reducible assumption
        | with_reducible apply State.release_keeps)
    | with_reducible refine Keeps.ite ?_ ?_
    | split
    | dsimp only

theorem State.heldBeat_keeps {s0 s : State} (h : Keeps s0 s) (n : Nat) :
    Keeps s0 (s.heldBeat n) := by
  unfold State.heldBeat
  repeat' first
    | with_reducible assumption
    | with_reducible apply State.swapDone_keeps
    | with_reducible apply State.activationDone_keeps
    | with_reducible apply State.newAnchor_keeps
    | (with_reducible refine Keeps.put ?_ ?_ .. <;>
        first
        | exact Nat.le_refl _
        | exact Nat.le_succ _
        | with_reducible assumption
        | with_reducible apply State.swapDone_keeps
        | with_reducible apply State.activationDone_keeps
        | with_reducible apply State.newAnchor_keeps)
    | with_reducible refine Keeps.ite ?_ ?_
    | split
    | dsimp only

theorem State.issue_keeps {s0 s : State} (h : Keeps s0 s) (n : Nat) :
    Keeps s0 (s.issue n) := by
  unfold State.issue
  repeat' first
    | with_reducible assumption
    | with_reducible apply State.set_keeps
    | with_reducible apply State.setDispatch_keeps
    | (with_reducible refine Keeps.put ?_ ?_ .. <;>
        first
        | exact Nat.le_refl _
        | exact Nat.le_succ _
        | with_reducible assumption
        | with_reducible apply State.set_keeps
        | with_reducible apply State.setDispatch_keeps)
    | with_reducible refine Keeps.ite ?_ ?_
    | split
    | dsimp only

theorem State.slewTicks_keeps {s0 s : State} (h : Keeps s0 s) :
    Keeps s0 (s.slewTicks ) := by
  unfold State.slewTicks
  repeat' first
    | with_reducible assumption
    | (with_reducible refine Keeps.put ?_ ?_ .. <;>
        first
        | exact Nat.le_refl _
        | exact Nat.le_succ _
        | with_reducible assumption)
    | with_reducible refine Keeps.ite ?_ ?_
    | split
    | dsimp only

theorem State.replayBeat_keeps {s0 s : State} (h : Keeps s0 s) :
    Keeps s0 (s.replayBeat ) := by
  unfold State.replayBeat
  repeat' first
    | with_reducible assumption
    | with_reducible apply State.onScreen_keeps
    | with_reducible apply State.set_keeps
    | with_reducible apply State.flip_keeps
    | with_reducible apply State.issue_keeps
    | (with_reducible refine Keeps.put ?_ ?_ .. <;>
        first
        | exact Nat.le_refl _
        | exact Nat.le_succ _
        | with_reducible assumption
        | with_reducible apply State.onScreen_keeps
        | with_reducible apply State.set_keeps
        | with_reducible apply State.flip_keeps
        | with_reducible apply State.issue_keeps)
    | (extract_lets +onlyGivenNames x
       first
       | (have k : Keeps s0 x := by
            repeat' first
              | with_reducible assumption
              | with_reducible apply State.onScreen_keeps
              | with_reducible apply State.set_keeps
              | with_reducible apply State.flip_keeps
              | with_reducible apply State.issue_keeps
              | (with_reducible refine Keeps.put ?_ ?_ .. <;>
                  first
                  | exact Nat.le_refl _
                  | exact Nat.le_succ _
                  | with_reducible assumption
                  | with_reducible apply State.onScreen_keeps
                  | with_reducible apply State.set_keeps
                  | with_reducible apply State.flip_keeps
                  | with_reducible apply State.issue_keeps)
              | with_reducible refine Keeps.ite ?_ ?_
              | split
              | dsimp only
          clear_value x)
       | subst x)
    | with_reducible refine Keeps.ite ?_ ?_
    | split
    | dsimp only

theorem State.beatIssue_keeps {s0 s : State} (h : Keeps s0 s) :
    Keeps s0 (s.beatIssue ) := by
  unfold State.beatIssue
  repeat' first
    | with_reducible assumption
    | with_reducible apply State.replayBeat_keeps
    | with_reducible apply State.heldBeat_keeps
    | with_reducible apply State.launchBegin_keeps
    | with_reducible apply State.checkpointSteady_keeps
    | with_reducible apply State.deferSwap_keeps
    | with_reducible apply State.checkpointRejoin_keeps
    | with_reducible apply State.issue_keeps
    | with_reducible apply State.stumble_keeps
    | with_reducible apply State.checkpointWork_keeps
    | with_reducible apply State.flip_keeps
    | with_reducible apply State.slewTicks_keeps
    | (extract_lets +onlyGivenNames x
       first
       | (have k : Keeps s0 x := by
            repeat' first
              | with_reducible assumption
              | with_reducible apply State.replayBeat_keeps
              | with_reducible apply State.heldBeat_keeps
              | with_reducible apply State.launchBegin_keeps
              | with_reducible apply State.checkpointSteady_keeps
              | with_reducible apply State.deferSwap_keeps
              | with_reducible apply State.checkpointRejoin_keeps
              | with_reducible apply State.issue_keeps
              | with_reducible apply State.stumble_keeps
              | with_reducible apply State.checkpointWork_keeps
              | with_reducible apply State.flip_keeps
              | with_reducible apply State.slewTicks_keeps
              | with_reducible refine Keeps.ite ?_ ?_
              | split
              | dsimp only
          clear_value x)
       | subst x)
    | with_reducible refine Keeps.ite ?_ ?_
    | split
    | dsimp only

theorem State.shadowBeat_keeps {s0 s : State} (h : Keeps s0 s) (p : Nat) :
    Keeps s0 (s.shadowBeat p) := by
  unfold State.shadowBeat
  repeat' first
    | with_reducible assumption
    | with_reducible apply State.setBlock_keeps
    | (with_reducible refine Keeps.put ?_ ?_ .. <;>
        first
        | exact Nat.le_refl _
        | exact Nat.le_succ _
        | with_reducible assumption
        | with_reducible apply State.setBlock_keeps)
    | with_reducible refine Keeps.ite ?_ ?_
    | split
    | dsimp only

theorem State.beatArrive_keeps {s0 s : State} (h : Keeps s0 s) (p : Nat) (carried : Nat) (parityOk : Bool) :
    Keeps s0 (s.beatArrive p carried parityOk) := by
  unfold State.beatArrive
  repeat' first
    | with_reducible assumption
    | with_reducible apply State.shadowBeat_keeps
    | with_reducible apply State.setBlock_keeps
    | with_reducible apply State.onBlock_keeps
    | with_reducible apply State.set_keeps
    | with_reducible apply State.saddleTake_keeps
    | (with_reducible refine Keeps.put ?_ ?_ .. <;>
        first
        | exact Nat.le_refl _
        | exact Nat.le_succ _
        | with_reducible assumption
        | with_reducible apply State.shadowBeat_keeps
        | with_reducible apply State.setBlock_keeps
        | with_reducible apply State.onBlock_keeps
        | with_reducible apply State.set_keeps
        | with_reducible apply State.saddleTake_keeps)
    | with_reducible refine Keeps.ite ?_ ?_
    | split
    | dsimp only

theorem State.strideAck_keeps {s0 s : State} (h : Keeps s0 s) (p : Nat) :
    Keeps s0 (s.strideAck p) := by
  unfold State.strideAck
  repeat' first
    | with_reducible assumption
    | with_reducible apply State.acked_keeps
    | with_reducible apply State.set_keeps
    | with_reducible apply State.setBlock_keeps
    | with_reducible apply State.setRegion_keeps
    | with_reducible apply State.onScreen_keeps
    | (with_reducible refine Keeps.put ?_ ?_ .. <;>
        first
        | exact Nat.le_refl _
        | exact Nat.le_succ _
        | with_reducible assumption
        | with_reducible apply State.acked_keeps
        | with_reducible apply State.set_keeps
        | with_reducible apply State.setBlock_keeps
        | with_reducible apply State.setRegion_keeps
        | with_reducible apply State.onScreen_keeps)
    | with_reducible refine Keeps.ite ?_ ?_
    | split
    | dsimp only

theorem State.finishWaits_keeps {s0 s : State} (h : Keeps s0 s) :
    Keeps s0 (s.finishWaits ) := by
  unfold State.finishWaits
  repeat' first
    | with_reducible assumption
    | with_reducible apply State.acked_keeps
    | with_reducible apply State.finish_keeps
    | (with_reducible refine Keeps.foldl ?_ (fun t x k => ?_))
    | (with_reducible refine Keeps.put ?_ ?_ .. <;>
        first
        | exact Nat.le_refl _
        | exact Nat.le_succ _
        | with_reducible assumption
        | with_reducible apply State.acked_keeps
        | with_reducible apply State.finish_keeps
        | (with_reducible refine Keeps.foldl ?_ (fun t x k => ?_)))
    | with_reducible refine Keeps.ite ?_ ?_
    | split
    | dsimp only

theorem State.replayOver_keeps {s0 s : State} (h : Keeps s0 s) :
    Keeps s0 (s.replayOver ) := by
  unfold State.replayOver
  repeat' first
    | with_reducible assumption
    | decide
    | with_reducible apply State.transient_keeps
    | with_reducible apply State.set_keeps
    | with_reducible apply State.count_keeps
    | with_reducible apply State.goTo_keeps
    | with_reducible apply State.partnerGone_keeps
    | (with_reducible refine Keeps.foldl ?_ (fun t x k => ?_))
    | (with_reducible refine Keeps.put ?_ ?_ .. <;>
        first
        | exact Nat.le_refl _
        | exact Nat.le_succ _
        | with_reducible assumption
        | with_reducible apply State.transient_keeps
        | with_reducible apply State.set_keeps
        | with_reducible apply State.count_keeps
        | with_reducible apply State.goTo_keeps
        | with_reducible apply State.partnerGone_keeps
        | (with_reducible refine Keeps.foldl ?_ (fun t x k => ?_)))
    | with_reducible refine Keeps.ite ?_ ?_
    | split
    | dsimp only

theorem State.rejoinOver_keeps {s0 s : State} (h : Keeps s0 s) (n : Nat) :
    Keeps s0 (s.rejoinOver n) := by
  unfold State.rejoinOver
  repeat' first
    | with_reducible assumption
    | with_reducible apply State.set_keeps
    | (with_reducible refine Keeps.put ?_ ?_ .. <;>
        first
        | exact Nat.le_refl _
        | exact Nat.le_succ _
        | with_reducible assumption
        | with_reducible apply State.set_keeps)
    | with_reducible refine Keeps.ite ?_ ?_
    | split
    | dsimp only

theorem State.chipAck_keeps {s0 s : State} (h : Keeps s0 s) (n : Nat) :
    Keeps s0 (s.chipAck n) := by
  unfold State.chipAck
  repeat' first
    | with_reducible assumption
    | with_reducible apply State.set_keeps
    | with_reducible apply State.acked_keeps
    | with_reducible apply State.setDispatch_keeps
    | with_reducible apply State.finishWaits_keeps
    | with_reducible apply State.tallyDone_keeps
    | with_reducible apply State.replayOver_keeps
    | with_reducible apply State.rejoinOver_keeps
    | with_reducible apply State.pump_keeps
    | (with_reducible refine Keeps.put ?_ ?_ .. <;>
        first
        | exact Nat.le_refl _
        | exact Nat.le_succ _
        | with_reducible assumption
        | with_reducible apply State.set_keeps
        | with_reducible apply State.acked_keeps
        | with_reducible apply State.setDispatch_keeps
        | with_reducible apply State.finishWaits_keeps
        | with_reducible apply State.tallyDone_keeps
        | with_reducible apply State.replayOver_keeps
        | with_reducible apply State.rejoinOver_keeps
        | with_reducible apply State.pump_keeps)
    | with_reducible refine Keeps.ite ?_ ?_
    | split
    | dsimp only

theorem State.regionAck_keeps {s0 s : State} (h : Keeps s0 s) (r : Nat) :
    Keeps s0 (s.regionAck r) := by
  unfold State.regionAck
  repeat' first
    | with_reducible assumption
    | with_reducible apply State.acked_keeps
    | with_reducible apply State.rset_keeps
    | with_reducible apply State.chipAck_keeps
    | (with_reducible refine Keeps.put ?_ ?_ .. <;>
        first
        | exact Nat.le_refl _
        | exact Nat.le_succ _
        | with_reducible assumption
        | with_reducible apply State.acked_keeps
        | with_reducible apply State.rset_keeps
        | with_reducible apply State.chipAck_keeps)
    | with_reducible refine Keeps.ite ?_ ?_
    | split
    | dsimp only

theorem State.tetherTimeout_keeps {s0 s : State} (h : Keeps s0 s) (p : Nat) :
    Keeps s0 (s.tetherTimeout p) := by
  unfold State.tetherTimeout
  repeat' first
    | with_reducible assumption
    | with_reducible apply State.acked_keeps
    | with_reducible apply State.set_keeps
    | with_reducible apply State.setBlock_keeps
    | with_reducible apply State.onBlock_keeps
    | with_reducible apply State.tetherFault_keeps
    | with_reducible refine Keeps.ite ?_ ?_
    | split
    | dsimp only

theorem State.rejoinFailed_keeps {s0 s : State} (h : Keeps s0 s) :
    Keeps s0 (s.rejoinFailed ) := by
  unfold State.rejoinFailed
  repeat' first
    | with_reducible assumption
    | with_reducible apply State.raise_keeps
    | (with_reducible refine Keeps.put ?_ ?_ .. <;>
        first
        | exact Nat.le_refl _
        | exact Nat.le_succ _
        | with_reducible assumption
        | with_reducible apply State.raise_keeps)
    | with_reducible refine Keeps.ite ?_ ?_
    | split
    | dsimp only

theorem State.syncLocked_keeps {s0 s : State} (h : Keeps s0 s) :
    Keeps s0 (s.syncLocked ) := by
  unfold State.syncLocked
  repeat' first
    | with_reducible assumption
    | with_reducible apply State.set_keeps
    | with_reducible apply State.say_keeps
    | with_reducible apply State.pairLocked_keeps
    | (with_reducible refine Keeps.put ?_ ?_ .. <;>
        first
        | exact Nat.le_refl _
        | exact Nat.le_succ _
        | with_reducible assumption
        | with_reducible apply State.set_keeps
        | with_reducible apply State.say_keeps
        | with_reducible apply State.pairLocked_keeps)
    | with_reducible refine Keeps.ite ?_ ?_
    | split
    | dsimp only

theorem State.syncSample_keeps {s0 s : State} (h : Keeps s0 s) (port peer a b : Nat) :
    Keeps s0 (s.syncSample port peer a b) := by
  unfold State.syncSample
  repeat' first
    | with_reducible assumption
    | with_reducible apply State.raise_keeps
    | with_reducible refine Keeps.ite ?_ ?_
    | split
    | dsimp only

theorem State.syncExchange_keeps {s0 s : State} (h : Keeps s0 s) (t1 t2 t3 t4 : Nat) :
    Keeps s0 (s.syncExchange t1 t2 t3 t4) := by
  unfold State.syncExchange
  repeat' first
    | with_reducible assumption
    | with_reducible apply State.set_keeps
    | with_reducible apply State.fabSend_keeps
    | with_reducible apply State.syncSample_keeps
    | with_reducible apply State.syncLocked_keeps
    | with_reducible apply State.lockLost_keeps
    | (with_reducible refine Keeps.put ?_ ?_ .. <;>
        first
        | exact Nat.le_refl _
        | exact Nat.le_succ _
        | with_reducible assumption
        | with_reducible apply State.set_keeps
        | with_reducible apply State.fabSend_keeps
        | with_reducible apply State.syncSample_keeps
        | with_reducible apply State.syncLocked_keeps
        | with_reducible apply State.lockLost_keeps)
    | with_reducible refine Keeps.ite ?_ ?_
    | split
    | dsimp only

theorem State.syncAnswer_keeps {s0 s : State} (h : Keeps s0 s) (port peer t2 t3 : Nat) :
    Keeps s0 (s.syncAnswer port peer t2 t3) := by
  unfold State.syncAnswer
  repeat' first
    | with_reducible assumption
    | with_reducible apply State.fabSend_keeps
    | with_reducible apply State.syncSample_keeps
    | with_reducible refine Keeps.ite ?_ ?_
    | split
    | dsimp only

theorem State.refusePeriod_keeps {s0 s : State} (h : Keeps s0 s) :
    Keeps s0 (s.refusePeriod ) := by
  unfold State.refusePeriod
  repeat' first
    | with_reducible assumption
    | with_reducible apply State.set_keeps

theorem State.periodWrite_keeps {s0 s : State} (h : Keeps s0 s) (at_ : Bool) (v : Word) :
    Keeps s0 (s.periodWrite at_ v) := by
  unfold State.periodWrite
  repeat' first
    | with_reducible assumption
    | with_reducible apply State.set_keeps
    | with_reducible apply State.refusePeriod_keeps
    | with_reducible refine Keeps.ite ?_ ?_
    | split
    | dsimp only

theorem State.swapWait_keeps {s0 s : State} (h : Keeps s0 s) :
    Keeps s0 (s.swapWait ) := by
  unfold State.swapWait
  repeat' first
    | with_reducible assumption
    | with_reducible apply State.dropStaged_keeps
    | with_reducible apply State.acquire_keeps
    | with_reducible apply State.set_keeps
    | (refine Keeps.of_fst ‹_ = (_, _)› ?_)
    | (refine Keeps.of_snd ‹_ = (_, _)› ?_)
    | (with_reducible refine Keeps.put ?_ ?_ .. <;>
        first
        | exact Nat.le_refl _
        | exact Nat.le_succ _
        | with_reducible assumption
        | with_reducible apply State.dropStaged_keeps
        | with_reducible apply State.acquire_keeps
        | with_reducible apply State.set_keeps
        | (refine Keeps.of_fst ‹_ = (_, _)› ?_))
    | with_reducible refine Keeps.ite ?_ ?_
    | split
    | dsimp only

theorem State.sayQuiet_keeps {s0 s : State} (h : Keeps s0 s) (n : Nat) :
    Keeps s0 (s.sayQuiet n) := by
  unfold State.sayQuiet
  repeat' first
    | with_reducible assumption
    | with_reducible apply State.onTwin_keeps
    | with_reducible apply State.yokeSend_keeps
    | (with_reducible refine Keeps.put ?_ ?_ .. <;>
        first
        | exact Nat.le_refl _
        | exact Nat.le_succ _
        | with_reducible assumption
        | with_reducible apply State.onTwin_keeps
        | with_reducible apply State.yokeSend_keeps)
    | with_reducible refine Keeps.ite ?_ ?_
    | split
    | dsimp only

theorem State.swapLoad_keeps {s0 s : State} (h : Keeps s0 s) (n : Nat) (i : Img) : Keeps s0 (s.swapLoad n i) := by
  unfold State.swapLoad
  extract_lets tick us
  clear_value us tick
  generalize (s.installImage i (s.place i fun _ => 0).2).1 = x
  split
  · exact State.release_keeps (State.holdDetail_keeps (State.dropStaged_keeps h _) _) _ _
  · refine State.set_keeps (State.set_keeps ?_ _ _) _ _
    with_reducible refine Keeps.put h (Nat.le_succ _) ..

theorem State.swapQuiet_keeps {s0 s : State} (h : Keeps s0 s) :
    Keeps s0 (s.swapQuiet ) := by
  unfold State.swapQuiet
  repeat' first
    | with_reducible assumption
    | with_reducible apply State.sayQuiet_keeps
    | with_reducible apply State.swapLoad_keeps
    | (with_reducible refine Keeps.put ?_ ?_ .. <;>
        first
        | exact Nat.le_refl _
        | exact Nat.le_succ _
        | with_reducible assumption
        | with_reducible apply State.sayQuiet_keeps
        | with_reducible apply State.swapLoad_keeps)
    | with_reducible refine Keeps.ite ?_ ?_
    | split
    | dsimp only

theorem State.swapTimeout_keeps {s0 s : State} (h : Keeps s0 s) :
    Keeps s0 (s.swapTimeout ) := by
  unfold State.swapTimeout
  repeat' first
    | with_reducible assumption
    | with_reducible apply State.swapDefer_keeps
    | with_reducible apply State.release_keeps
    | with_reducible apply State.raise_keeps
    | (with_reducible refine Keeps.put ?_ ?_ .. <;>
        first
        | exact Nat.le_refl _
        | exact Nat.le_succ _
        | with_reducible assumption
        | with_reducible apply State.swapDefer_keeps
        | with_reducible apply State.release_keeps
        | with_reducible apply State.raise_keeps)
    | with_reducible refine Keeps.ite ?_ ?_
    | split
    | dsimp only

theorem State.flipNext_keeps {s0 s : State} (h : Keeps s0 s) :
    Keeps s0 (s.flipNext ) := by
  unfold State.flipNext
  repeat' first
    | with_reducible assumption
    | with_reducible apply State.flipStart_keeps
    | (with_reducible refine Keeps.put ?_ ?_ .. <;>
        first
        | exact Nat.le_refl _
        | exact Nat.le_succ _
        | with_reducible assumption
        | with_reducible apply State.flipStart_keeps)
    | with_reducible refine Keeps.ite ?_ ?_
    | split
    | dsimp only

theorem State.flipOver_keeps {s0 s : State} (h : Keeps s0 s) :
    Keeps s0 (s.flipOver ) := by
  unfold State.flipOver
  repeat' first
    | with_reducible assumption
    | with_reducible apply State.flipDrained_keeps
    | with_reducible apply State.setLeases_keeps
    | with_reducible apply State.flipNext_keeps
    | (with_reducible refine Keeps.put ?_ ?_ .. <;>
        first
        | exact Nat.le_refl _
        | exact Nat.le_succ _
        | with_reducible assumption
        | with_reducible apply State.flipDrained_keeps
        | with_reducible apply State.setLeases_keeps
        | with_reducible apply State.flipNext_keeps)
    | with_reducible refine Keeps.ite ?_ ?_
    | split
    | dsimp only

theorem State.commandFetch_keeps {s0 s : State} (h : Keeps s0 s) :
    Keeps s0 (s.commandFetch ) := by
  unfold State.commandFetch
  repeat' first
    | with_reducible assumption
    | with_reducible apply State.set_keeps
    | with_reducible apply State.setDispatch_keeps
    | with_reducible apply State.reply_keeps
    | with_reducible apply State.doneFloor_keeps
    | (with_reducible refine Keeps.put ?_ ?_ .. <;>
        first
        | exact Nat.le_refl _
        | exact Nat.le_succ _
        | with_reducible assumption
        | with_reducible apply State.set_keeps
        | with_reducible apply State.setDispatch_keeps
        | with_reducible apply State.reply_keeps
        | with_reducible apply State.doneFloor_keeps)
    | with_reducible refine Keeps.ite ?_ ?_
    | split
    | dsimp only

theorem State.cmdNop_keeps {s0 s : State} (h : Keeps s0 s) :
    Keeps s0 (s.cmdNop ) := by
  unfold State.cmdNop
  repeat' first
    | with_reducible assumption
    | with_reducible apply State.reply_keeps
    | (with_reducible refine Keeps.put ?_ ?_ .. <;>
        first
        | exact Nat.le_refl _
        | exact Nat.le_succ _
        | with_reducible assumption
        | with_reducible apply State.reply_keeps)
    | with_reducible refine Keeps.ite ?_ ?_
    | split
    | dsimp only

theorem State.launch_keeps {s0 s : State} (h : Keeps s0 s) :
    Keeps s0 (s.launch ) := by
  unfold State.launch
  repeat' first
    | with_reducible assumption
    | with_reducible apply State.reply_keeps
    | with_reducible apply State.setWork_keeps
    | with_reducible apply State.setDispatch_keeps
    | with_reducible apply State.showJob_keeps
    | with_reducible apply State.setBlock_keeps
    | (with_reducible refine Keeps.foldl ?_ (fun t x k => ?_))
    | (with_reducible refine Keeps.put ?_ ?_ .. <;>
        first
        | exact Nat.le_refl _
        | exact Nat.le_succ _
        | with_reducible assumption
        | with_reducible apply State.reply_keeps
        | with_reducible apply State.setWork_keeps
        | with_reducible apply State.setDispatch_keeps
        | with_reducible apply State.showJob_keeps
        | with_reducible apply State.setBlock_keeps
        | (with_reducible refine Keeps.foldl ?_ (fun t x k => ?_)))
    | with_reducible refine Keeps.ite ?_ ?_
    | split
    | dsimp only
    | dsimp only [id]

theorem State.admitNext_keeps {s0 s : State} (h : Keeps s0 s) :
    Keeps s0 (s.admitNext ) := by
  unfold State.admitNext
  repeat' first
    | with_reducible assumption
    | with_reducible apply State.reply_keeps
    | with_reducible apply State.setWork_keeps
    | with_reducible apply State.tellAdmit_keeps
    | (with_reducible refine Keeps.put ?_ ?_ .. <;>
        first
        | exact Nat.le_refl _
        | exact Nat.le_succ _
        | with_reducible assumption
        | with_reducible apply State.reply_keeps
        | with_reducible apply State.setWork_keeps
        | with_reducible apply State.tellAdmit_keeps)
    | with_reducible refine Keeps.ite ?_ ?_
    | split
    | dsimp only

theorem State.sendInput_keeps {s0 s : State} (h : Keeps s0 s) (c : Cmd) (a : Nat) (bytes : List Byte) :
    Keeps s0 (s.sendInput c a bytes) := by
  unfold State.sendInput
  repeat' first
    | with_reducible assumption
    | with_reducible apply State.sendFrom_keeps
    | with_reducible refine Keeps.ite ?_ ?_
    | split
    | dsimp only
    | dsimp only [id]

theorem State.deliverAgain_keeps {s0 s : State} (h : Keeps s0 s) (w : Work) :
    Keeps s0 (s.deliverAgain w) := by
  unfold State.deliverAgain
  repeat' first
    | with_reducible assumption
    | with_reducible apply State.setDispatch_keeps
    | with_reducible apply State.sendInput_keeps
    | with_reducible apply State.askInput_keeps
    | (with_reducible refine Keeps.put ?_ ?_ .. <;>
        first
        | exact Nat.le_refl _
        | exact Nat.le_succ _
        | with_reducible assumption
        | with_reducible apply State.setDispatch_keeps
        | with_reducible apply State.sendInput_keeps
        | with_reducible apply State.askInput_keeps)
    | with_reducible refine Keeps.ite ?_ ?_
    | split
    | dsimp only

theorem State.deliver_keeps {s0 s : State} (h : Keeps s0 s) (w : Work) :
    Keeps s0 (s.deliver w) := by
  unfold State.deliver
  repeat' first
    | with_reducible assumption
    | with_reducible apply State.setWork_keeps
    | with_reducible apply State.sendInput_keeps
    | with_reducible apply State.askInput_keeps
    | with_reducible apply State.finish_keeps
    | (with_reducible refine Keeps.put ?_ ?_ .. <;>
        first
        | exact Nat.le_refl _
        | exact Nat.le_succ _
        | with_reducible assumption
        | with_reducible apply State.setWork_keeps
        | with_reducible apply State.sendInput_keeps
        | with_reducible apply State.askInput_keeps
        | with_reducible apply State.finish_keeps)
    | with_reducible refine Keeps.ite ?_ ?_
    | split
    | dsimp only

theorem State.takeAdmits_keeps {s0 s : State} (h : Keeps s0 s) :
    Keeps s0 (s.takeAdmits ) := by
  unfold State.takeAdmits
  repeat' first
    | with_reducible assumption
    | with_reducible apply State.setDispatch_keeps
    | (with_reducible refine Keeps.put ?_ ?_ .. <;>
        first
        | exact Nat.le_refl _
        | exact Nat.le_succ _
        | with_reducible assumption
        | with_reducible apply State.setDispatch_keeps)
    | with_reducible refine Keeps.ite ?_ ?_
    | split
    | dsimp only

theorem State.askMissing_keeps {s0 s : State} (h : Keeps s0 s) :
    Keeps s0 (s.askMissing ) := by
  unfold State.askMissing
  repeat' first
    | with_reducible assumption
    | with_reducible apply State.askInput_keeps
    | (with_reducible refine Keeps.foldl ?_ (fun t x k => ?_))
    | with_reducible refine Keeps.ite ?_ ?_
    | split
    | dsimp only

theorem State.admitDeliver_keeps {s0 s : State} (h : Keeps s0 s) :
    Keeps s0 (s.admitDeliver ) := by
  unfold State.admitDeliver
  repeat' first
    | with_reducible assumption
    | with_reducible apply State.takeAdmits_keeps
    | with_reducible apply State.askMissing_keeps
    | with_reducible apply State.deliverAgain_keeps
    | with_reducible apply State.deliver_keeps
    | (with_reducible refine Keeps.put ?_ ?_ .. <;>
        first
        | exact Nat.le_refl _
        | exact Nat.le_succ _
        | with_reducible assumption
        | with_reducible apply State.takeAdmits_keeps
        | with_reducible apply State.askMissing_keeps
        | with_reducible apply State.deliverAgain_keeps
        | with_reducible apply State.deliver_keeps)
    | with_reducible refine Keeps.ite ?_ ?_
    | split
    | dsimp only

theorem State.endCmd_keeps {s0 s : State} (h : Keeps s0 s) :
    Keeps s0 (s.endCmd ) := by
  unfold State.endCmd
  repeat' first
    | with_reducible assumption
    | with_reducible apply State.reply_keeps
    | with_reducible apply State.start_keeps
    | with_reducible apply State.setWork_keeps
    | with_reducible apply State.setDispatch_keeps
    | with_reducible apply State.showJob_keeps
    | (with_reducible refine Keeps.put ?_ ?_ .. <;>
        first
        | exact Nat.le_refl _
        | exact Nat.le_succ _
        | with_reducible assumption
        | with_reducible apply State.reply_keeps
        | with_reducible apply State.start_keeps
        | with_reducible apply State.setWork_keeps
        | with_reducible apply State.setDispatch_keeps
        | with_reducible apply State.showJob_keeps)
    | with_reducible refine Keeps.ite ?_ ?_
    | split
    | dsimp only

theorem State.waitCmd_keeps {s0 s : State} (h : Keeps s0 s) :
    Keeps s0 (s.waitCmd ) := by
  unfold State.waitCmd
  repeat' first
    | with_reducible assumption
    | with_reducible apply State.reply_keeps
    | with_reducible apply State.acked_keeps
    | with_reducible apply State.finish_keeps
    | with_reducible apply State.setWork_keeps
    | (with_reducible refine Keeps.put ?_ ?_ .. <;>
        first
        | exact Nat.le_refl _
        | exact Nat.le_succ _
        | with_reducible assumption
        | with_reducible apply State.reply_keeps
        | with_reducible apply State.acked_keeps
        | with_reducible apply State.finish_keeps
        | with_reducible apply State.setWork_keeps)
    | with_reducible refine Keeps.ite ?_ ?_
    | split
    | dsimp only

theorem State.jobEnded_keeps {s0 s : State} (h : Keeps s0 s) (e : Nat) :
    Keeps s0 (s.jobEnded e) := by
  unfold State.jobEnded
  repeat' first
    | with_reducible assumption
    | decide
    | with_reducible apply State.finish_keeps
    | with_reducible apply State.finishAll_keeps
    | with_reducible apply State.dropJob_keeps
    | with_reducible apply State.goTo_keeps
    | (with_reducible refine Keeps.foldl ?_ (fun t x k => ?_))
    | (with_reducible refine Keeps.put ?_ ?_ .. <;>
        first
        | exact Nat.le_refl _
        | exact Nat.le_succ _
        | with_reducible assumption
        | with_reducible apply State.finish_keeps
        | with_reducible apply State.finishAll_keeps
        | with_reducible apply State.dropJob_keeps
        | with_reducible apply State.goTo_keeps
        | (with_reducible refine Keeps.foldl ?_ (fun t x k => ?_)))
    | with_reducible refine Keeps.ite ?_ ?_
    | split
    | dsimp only

theorem State.jobEnd_keeps {s0 s : State} (h : Keeps s0 s) :
    Keeps s0 (s.jobEnd ) := by
  unfold State.jobEnd
  repeat' first
    | with_reducible assumption
    | with_reducible apply State.endJob_keeps
    | with_reducible apply State.jobEnded_keeps
    | (with_reducible refine Keeps.put ?_ ?_ .. <;>
        first
        | exact Nat.le_refl _
        | exact Nat.le_succ _
        | with_reducible assumption
        | with_reducible apply State.endJob_keeps
        | with_reducible apply State.jobEnded_keeps)
    | with_reducible refine Keeps.ite ?_ ?_
    | split
    | dsimp only

theorem State.completionPost_keeps {s0 s : State} (h : Keeps s0 s) :
    Keeps s0 (s.completionPost ) := by
  unfold State.completionPost
  repeat' first
    | with_reducible assumption
    | with_reducible apply State.setDispatch_keeps
    | with_reducible apply State.setTiers_keeps
    | with_reducible apply State.set_keeps
    | (intro w; exact Tiers.putLines_wf (State.tiers_wf w) _ _ _)
    | (intro w; exact Tiers.putLine_wf (State.tiers_wf w) _ _ _)
    | (with_reducible refine Keeps.put ?_ ?_ .. <;>
        first
        | exact Nat.le_refl _
        | exact Nat.le_succ _
        | with_reducible assumption
        | with_reducible apply State.setDispatch_keeps
        | with_reducible apply State.setTiers_keeps
        | with_reducible apply State.set_keeps)
    | with_reducible refine Keeps.ite ?_ ?_
    | split
    | dsimp only

theorem State.commandQuery_keeps {s0 s : State} (h : Keeps s0 s) (v : Word) :
    Keeps s0 (s.commandQuery v) := by
  unfold State.commandQuery
  repeat' first
    | with_reducible assumption
    | with_reducible apply State.set_keeps
    | with_reducible refine Keeps.ite ?_ ?_
    | split
    | dsimp only

theorem State.stepGrant_keeps {s0 s : State} (h : Keeps s0 s) (r : Nat) :
    Keeps s0 (s.stepGrant r) := by
  unfold State.stepGrant
  repeat' first
    | with_reducible assumption
    | with_reducible apply State.setDispatch_keeps
    | (with_reducible refine Keeps.put ?_ ?_ .. <;>
        first
        | exact Nat.le_refl _
        | exact Nat.le_succ _
        | with_reducible assumption
        | with_reducible apply State.setDispatch_keeps)
    | with_reducible refine Keeps.ite ?_ ?_
    | split
    | dsimp only

theorem State.writeRing_keeps {s0 s : State} (h : Keeps s0 s) (r : Nat) (v : Word) :
    Keeps s0 (s.writeRing r v) := by
  unfold State.writeRing
  repeat' first
    | with_reducible assumption
    | with_reducible apply State.set_keeps
    | with_reducible apply State.setDispatch_keeps
    | (with_reducible refine Keeps.put ?_ ?_ .. <;>
        first
        | exact Nat.le_refl _
        | exact Nat.le_succ _
        | with_reducible assumption
        | with_reducible apply State.set_keeps
        | with_reducible apply State.setDispatch_keeps)
    | with_reducible refine Keeps.ite ?_ ?_
    | split
    | dsimp only

theorem State.writeCpl_keeps {s0 s : State} (h : Keeps s0 s) (v : Word) :
    Keeps s0 (s.writeCpl v) := by
  unfold State.writeCpl
  repeat' first
    | with_reducible assumption
    | with_reducible apply State.set_keeps
    | with_reducible refine Keeps.ite ?_ ?_
    | split
    | dsimp only

theorem State.writeEvt_keeps {s0 s : State} (h : Keeps s0 s) (v : Word) :
    Keeps s0 (s.writeEvt v) := by
  unfold State.writeEvt
  repeat' first
    | with_reducible assumption
    | with_reducible apply State.set_keeps
    | with_reducible refine Keeps.ite ?_ ?_
    | split
    | dsimp only

theorem State.ringEnable_keeps {s0 s : State} (h : Keeps s0 s) (ring : Nat) (v : Word) :
    Keeps s0 (s.ringEnable ring v) := by
  unfold State.ringEnable
  repeat' first
    | with_reducible assumption
    | with_reducible apply State.writeRing_keeps
    | with_reducible apply State.writeCpl_keeps
    | with_reducible apply State.writeEvt_keeps
    | with_reducible refine Keeps.ite ?_ ?_
    | split
    | dsimp only

theorem State.writeHead_keeps {s0 s : State} (h : Keeps s0 s) (r : Nat) (v : Word) :
    Keeps s0 (s.writeHead r v) := by
  unfold State.writeHead
  repeat' first
    | with_reducible assumption
    | with_reducible apply State.set_keeps

theorem State.postEvent_keeps {s0 s : State} (h : Keeps s0 s) (seq : Nat) (bytes : List Byte) :
    Keeps s0 (s.postEvent seq bytes) := by
  unfold State.postEvent
  repeat' first
    | with_reducible assumption
    | with_reducible apply State.count_keeps
    | with_reducible apply State.setTiers_keeps
    | with_reducible apply State.set_keeps
    | (intro w; exact Tiers.putLines_wf (State.tiers_wf w) _ _ _)
    | (intro w; exact Tiers.putLine_wf (State.tiers_wf w) _ _ _)
    | with_reducible refine Keeps.ite ?_ ?_
    | split
    | dsimp only

theorem State.peerReset_keeps {s0 s : State} (h : Keeps s0 s) :
    Keeps s0 (s.peerReset ) := by
  unfold State.peerReset
  repeat' first
    | with_reducible assumption
    | with_reducible apply State.onPort_keeps
    | with_reducible apply State.closeJob_keeps
    | with_reducible apply State.warmReset_keeps
    | (with_reducible refine Keeps.put ?_ ?_ .. <;>
        first
        | exact Nat.le_refl _
        | exact Nat.le_succ _
        | with_reducible assumption
        | with_reducible apply State.onPort_keeps
        | with_reducible apply State.closeJob_keeps
        | with_reducible apply State.warmReset_keeps)
    | with_reducible refine Keeps.ite ?_ ?_
    | split
    | dsimp only

end Sys2Proof.Machine
end

