-- ==== Sys2Proof/Laws/KeepsFarrier.lean ====
section
/-! SUPPORT. Every operation on the Farrier, bring-up, memory errors, observation and the Rider address space keeps what Keeps names; one lemma for each. -/

namespace Sys2Proof.Machine

set_option linter.unusedTactic false
set_option linter.unreachableTactic false

theorem State.setSession_keeps {s0 s : State} (h : Keeps s0 s) (i : Nat) (x : Session) :
    Keeps s0 (s.setSession i x) := by
  unfold State.setSession
  repeat' first
    | with_reducible assumption
    | with_reducible apply State.onFar_keeps
    | (with_reducible refine Keeps.put ?_ ?_ .. <;>
        first
        | exact Nat.le_refl _
        | exact Nat.le_succ _
        | with_reducible assumption
        | with_reducible apply State.onFar_keeps)
    | dsimp only

theorem State.answer_keeps {s0 s : State} (h : Keeps s0 s) (i n : Nat) (r : MgmtResult) (bytes : List Byte) :
    Keeps s0 (s.answer i n r bytes) := by
  unfold State.answer
  repeat' first
    | with_reducible assumption
    | (with_reducible refine Keeps.put ?_ ?_ .. <;>
        first
        | exact Nat.le_refl _
        | exact Nat.le_succ _
        | with_reducible assumption)

theorem State.pushRecord_keeps {s0 s : State} (h : Keeps s0 s) (seq : Nat) (bytes : List Byte) :
    Keeps s0 (s.pushRecord seq bytes) := by
  unfold State.pushRecord
  repeat' first
    | with_reducible assumption
    | with_reducible apply State.setSession_keeps
    | (with_reducible refine Keeps.foldl ?_ (fun t x k => ?_))
    | (with_reducible refine Keeps.put ?_ ?_ .. <;>
        first
        | exact Nat.le_refl _
        | exact Nat.le_succ _
        | with_reducible assumption
        | with_reducible apply State.setSession_keeps
        | (with_reducible refine Keeps.foldl ?_ (fun t x k => ?_)))
    | with_reducible refine Keeps.ite ?_ ?_
    | split
    | dsimp only

theorem State.fillHalter_keeps {s0 s : State} (h : Keeps s0 s) :
    Keeps s0 (s.fillHalter ) := by
  unfold State.fillHalter
  repeat' first
    | with_reducible assumption
    | with_reducible apply State.drainRegion_keeps
    | with_reducible apply State.drainEv_keeps
    | (with_reducible refine Keeps.foldl ?_ (fun t x k => ?_))
    | (with_reducible refine Keeps.put ?_ ?_ .. <;>
        first
        | exact Nat.le_refl _
        | exact Nat.le_succ _
        | with_reducible assumption
        | with_reducible apply State.drainRegion_keeps
        | with_reducible apply State.drainEv_keeps
        | (with_reducible refine Keeps.foldl ?_ (fun t x k => ?_)))
    | with_reducible refine Keeps.ite ?_ ?_
    | split
    | dsimp only

theorem State.recordIntake_keeps {s0 s : State} (h : Keeps s0 s) :
    Keeps s0 (s.recordIntake ) := by
  unfold State.recordIntake
  repeat' first
    | with_reducible assumption
    | with_reducible apply State.onFar_keeps
    | with_reducible apply State.mark_keeps
    | with_reducible apply State.postEvent_keeps
    | with_reducible apply State.pushRecord_keeps
    | with_reducible apply State.fillHalter_keeps
    | with_reducible apply State.flushLog_keeps
    | (refine Keeps.of_fst ‹_ = (_, _)› ?_)
    | (refine Keeps.of_snd ‹_ = (_, _)› ?_)
    | (with_reducible refine Keeps.put ?_ ?_ .. <;>
        first
        | exact Nat.le_refl _
        | exact Nat.le_succ _
        | with_reducible assumption
        | with_reducible apply State.onFar_keeps
        | with_reducible apply State.mark_keeps
        | with_reducible apply State.postEvent_keeps
        | with_reducible apply State.pushRecord_keeps
        | with_reducible apply State.fillHalter_keeps
        | with_reducible apply State.flushLog_keeps
        | (refine Keeps.of_fst ‹_ = (_, _)› ?_))
    | with_reducible refine Keeps.ite ?_ ?_
    | split
    | dsimp only

theorem State.logFlush_keeps {s0 s : State} (h : Keeps s0 s) :
    Keeps s0 (s.logFlush ) := by
  unfold State.logFlush
  repeat' first
    | with_reducible assumption
    | with_reducible apply State.flushLog_keeps
    | with_reducible refine Keeps.ite ?_ ?_
    | split
    | dsimp only

theorem State.sensorEvent_keeps {s0 s : State} (h : Keeps s0 s) (i v outcome : Nat) :
    Keeps s0 (s.sensorEvent i v outcome) := by
  unfold State.sensorEvent
  repeat' first
    | with_reducible assumption
    | with_reducible apply State.raise_keeps

theorem State.railsFall_keeps {s0 s : State} (h : Keeps s0 s) :
    Keeps s0 (s.railsFall ) := by
  unfold State.railsFall
  repeat' first
    | with_reducible assumption
    | with_reducible apply State.outOfService_keeps
    | with_reducible apply State.onFar_keeps
    | with_reducible apply State.set_keeps
    | (with_reducible refine Keeps.put ?_ ?_ .. <;>
        first
        | exact Nat.le_refl _
        | exact Nat.le_succ _
        | with_reducible assumption
        | with_reducible apply State.outOfService_keeps
        | with_reducible apply State.onFar_keeps
        | with_reducible apply State.set_keeps)
    | dsimp only

theorem State.tripIf_keeps {s0 s : State} (h : Keeps s0 s) (i v : Nat) :
    Keeps s0 (s.tripIf i v) := by
  unfold State.tripIf
  repeat' first
    | with_reducible assumption
    | with_reducible apply State.sensorEvent_keeps
    | with_reducible apply State.railsFall_keeps
    | with_reducible refine Keeps.ite ?_ ?_
    | split
    | dsimp only

theorem State.railIf_keeps {s0 s : State} (h : Keeps s0 s) (i v : Nat) :
    Keeps s0 (s.railIf i v) := by
  unfold State.railIf
  repeat' first
    | with_reducible assumption
    | with_reducible apply State.sensorEvent_keeps
    | with_reducible apply State.onFar_keeps
    | with_reducible apply State.regionRecovery_keeps
    | (with_reducible refine Keeps.put ?_ ?_ .. <;>
        first
        | exact Nat.le_refl _
        | exact Nat.le_succ _
        | with_reducible assumption
        | with_reducible apply State.sensorEvent_keeps
        | with_reducible apply State.onFar_keeps
        | with_reducible apply State.regionRecovery_keeps)
    | with_reducible refine Keeps.ite ?_ ?_
    | split
    | dsimp only

theorem State.sensorRead_keeps {s0 s : State} (h : Keeps s0 s) (i v : Nat) :
    Keeps s0 (s.sensorRead i v) := by
  unfold State.sensorRead
  repeat' first
    | with_reducible assumption
    | with_reducible apply State.onFar_keeps
    | with_reducible apply State.set_keeps
    | with_reducible apply State.sensorEvent_keeps
    | with_reducible apply State.spoilSlices_keeps
    | with_reducible apply State.tripIf_keeps
    | with_reducible apply State.railIf_keeps
    | (with_reducible refine Keeps.put ?_ ?_ .. <;>
        first
        | exact Nat.le_refl _
        | exact Nat.le_succ _
        | with_reducible assumption
        | with_reducible apply State.onFar_keeps
        | with_reducible apply State.set_keeps
        | with_reducible apply State.sensorEvent_keeps
        | with_reducible apply State.spoilSlices_keeps
        | with_reducible apply State.tripIf_keeps
        | with_reducible apply State.railIf_keeps)
    | with_reducible refine Keeps.ite ?_ ?_
    | split
    | dsimp only

theorem State.coolantWatch_keeps {s0 s : State} (h : Keeps s0 s) :
    Keeps s0 (s.coolantWatch ) := by
  unfold State.coolantWatch
  repeat' first
    | with_reducible assumption
    | with_reducible apply State.onFar_keeps
    | with_reducible apply State.sensorEvent_keeps
    | (with_reducible refine Keeps.put ?_ ?_ .. <;>
        first
        | exact Nat.le_refl _
        | exact Nat.le_succ _
        | with_reducible assumption
        | with_reducible apply State.onFar_keeps
        | with_reducible apply State.sensorEvent_keeps)
    | with_reducible refine Keeps.ite ?_ ?_
    | split
    | dsimp only

theorem State.sessionOpen_keeps {s0 s : State} (h : Keeps s0 s) (chains : Bool) :
    Keeps s0 (s.sessionOpen chains) := by
  unfold State.sessionOpen
  repeat' first
    | with_reducible assumption
    | with_reducible apply State.setSession_keeps
    | (with_reducible refine Keeps.put ?_ ?_ .. <;>
        first
        | exact Nat.le_refl _
        | exact Nat.le_succ _
        | with_reducible assumption
        | with_reducible apply State.setSession_keeps)
    | with_reducible refine Keeps.ite ?_ ?_
    | split
    | dsimp only

theorem State.manage_keeps {s0 s : State} (h : Keeps s0 s) (i n : Nat) (rom : Bool)
    (f : State → State × MgmtResult × List Byte) (k : ∀ t, Keeps s0 t → Keeps s0 (f t).1) : Keeps s0 (s.manage i n rom f) := by
  unfold State.manage
  split
  · exact h
  · split
    · exact State.answer_keeps h _ _ _ _
    · exact State.answer_keeps (k s h) _ _ _ _

theorem State.getState_keeps {s0 s : State} (h : Keeps s0 s) (i n : Nat) :
    Keeps s0 (s.getState i n) := by
  unfold State.getState
  repeat' first
    | with_reducible assumption
    | with_reducible apply State.manage_keeps
    | (intro t k)
    | dsimp only

theorem State.subscribe_keeps {s0 s : State} (h : Keeps s0 s) (i n start : Nat) :
    Keeps s0 (s.subscribe i n start) := by
  unfold State.subscribe
  repeat' first
    | with_reducible assumption
    | with_reducible apply State.manage_keeps
    | with_reducible apply State.setSession_keeps
    | (intro t k)
    | (with_reducible refine Keeps.put ?_ ?_ .. <;>
        first
        | exact Nat.le_refl _
        | exact Nat.le_succ _
        | with_reducible assumption
        | with_reducible apply State.manage_keeps
        | with_reducible apply State.setSession_keeps)
    | with_reducible refine Keeps.ite ?_ ?_
    | split
    | dsimp only

theorem State.mgmtLogRead_keeps {s0 s : State} (h : Keeps s0 s) (i n seq : Nat) :
    Keeps s0 (s.mgmtLogRead i n seq) := by
  unfold State.mgmtLogRead
  repeat' first
    | with_reducible assumption
    | with_reducible apply State.manage_keeps
    | (intro t k)
    | dsimp only

theorem State.sensors_keeps {s0 s : State} (h : Keeps s0 s) (i n : Nat) :
    Keeps s0 (s.sensors i n) := by
  unfold State.sensors
  repeat' first
    | with_reducible assumption
    | with_reducible apply State.manage_keeps
    | (intro t k)
    | dsimp only

theorem State.studRead_keeps {s0 s : State} (h : Keeps s0 s) (i n index : Nat) :
    Keeps s0 (s.studRead i n index) := by
  unfold State.studRead
  repeat' first
    | with_reducible assumption
    | with_reducible apply State.manage_keeps
    | (intro t k)
    | dsimp only

theorem State.configure_keeps {s0 s t : State} (h : Keeps s0 s) (i : ConfigItem) (e : s.configure i = some t) : Keeps s0 t := by
  unfold State.configure at e
  split at e
  · split at e
    · exact Option.some.inj e ▸ State.onFar_keeps h _
    · exact absurd e (by simp)
  · exact Option.some.inj e ▸ State.onFar_keeps h _
  · split at e
    · exact Option.some.inj e ▸ State.showCap_keeps (State.onFar_keeps h _)
    · exact absurd e (by simp)
  · split at e
    · dsimp only at e
      split at e
      · exact Option.some.inj e ▸ State.tripIf_keeps (State.onFar_keeps h _) _ _
      · exact Option.some.inj e ▸ State.onFar_keeps h _
    · exact absurd e (by simp)

theorem State.setConfig_keeps {s0 s : State} (h : Keeps s0 s) (i n : Nat) (item : ConfigItem) : Keeps s0 (s.setConfig i n item) := by
  refine State.manage_keeps h _ _ _ _ fun t k => ?_
  split
  · next e => exact State.configure_keeps k _ e
  · exact k

theorem State.mgmtOos_keeps {s0 s : State} (h : Keeps s0 s) (i n : Nat) :
    Keeps s0 (s.mgmtOos i n) := by
  unfold State.mgmtOos
  repeat' first
    | with_reducible assumption
    | with_reducible apply State.manage_keeps
    | with_reducible apply State.outOfService_keeps
    | (intro t k)
    | dsimp only

theorem State.clearOos_keeps {s0 s : State} (h : Keeps s0 s) :
    Keeps s0 (s.clearOos ) := by
  unfold State.clearOos
  repeat' first
    | with_reducible assumption
    | with_reducible apply State.startCold_keeps
    | with_reducible apply State.clearDie_keeps
    | with_reducible apply State.startWarm_keeps
    | (with_reducible refine Keeps.put ?_ ?_ .. <;>
        first
        | exact Nat.le_refl _
        | exact Nat.le_succ _
        | with_reducible assumption
        | with_reducible apply State.startCold_keeps
        | with_reducible apply State.clearDie_keeps
        | with_reducible apply State.startWarm_keeps)
    | with_reducible refine Keeps.ite ?_ ?_
    | split
    | dsimp only

theorem State.mgmtClear_keeps {s0 s : State} (h : Keeps s0 s) (i n : Nat) :
    Keeps s0 (s.mgmtClear i n) := by
  unfold State.mgmtClear
  repeat' first
    | with_reducible assumption
    | with_reducible apply State.manage_keeps
    | with_reducible apply State.clearOos_keeps
    | (intro t k)
    | with_reducible refine Keeps.ite ?_ ?_
    | split
    | dsimp only

theorem State.mgmtPartnerDown_keeps {s0 s : State} (h : Keeps s0 s) (i n : Nat) :
    Keeps s0 (s.mgmtPartnerDown i n) := by
  unfold State.mgmtPartnerDown
  repeat' first
    | with_reducible assumption
    | with_reducible apply State.manage_keeps
    | with_reducible apply State.partnerDown_keeps
    | (intro t k)
    | dsimp only

theorem State.packPush_keeps {s0 s : State} (h : Keeps s0 s) (i n : Nat) (bs : List Byte) :
    Keeps s0 (s.packPush i n bs) := by
  unfold State.packPush
  repeat' first
    | with_reducible assumption
    | with_reducible apply State.manage_keeps
    | with_reducible apply State.set_keeps
    | with_reducible apply State.onFar_keeps
    | with_reducible apply State.showPack_keeps
    | (intro t k)
    | (with_reducible refine Keeps.put ?_ ?_ .. <;>
        first
        | exact Nat.le_refl _
        | exact Nat.le_succ _
        | with_reducible assumption
        | with_reducible apply State.manage_keeps
        | with_reducible apply State.set_keeps
        | with_reducible apply State.onFar_keeps
        | with_reducible apply State.showPack_keeps)
    | with_reducible refine Keeps.ite ?_ ?_
    | split
    | dsimp only

theorem State.fwStage_keeps {s0 s : State} (h : Keeps s0 s) (i n : Nat) (bs : List Byte) :
    Keeps s0 (s.fwStage i n bs) := by
  unfold State.fwStage
  repeat' first
    | with_reducible assumption
    | with_reducible apply State.manage_keeps
    | with_reducible apply State.setFw_keeps
    | (intro t k)
    | (with_reducible refine Keeps.put ?_ ?_ .. <;>
        first
        | exact Nat.le_refl _
        | exact Nat.le_succ _
        | with_reducible assumption
        | with_reducible apply State.manage_keeps
        | with_reducible apply State.setFw_keeps)
    | with_reducible refine Keeps.ite ?_ ?_
    | split
    | dsimp only

theorem State.useKeys_keeps {s0 s : State} (h : Keeps s0 s) :
    Keeps s0 (s.useKeys ) := by
  unfold State.useKeys
  repeat' first
    | with_reducible assumption
    | with_reducible apply State.switchSlot_keeps
    | with_reducible apply State.onFar_keeps
    | (with_reducible refine Keeps.put ?_ ?_ .. <;>
        first
        | exact Nat.le_refl _
        | exact Nat.le_succ _
        | with_reducible assumption
        | with_reducible apply State.switchSlot_keeps
        | with_reducible apply State.onFar_keeps)
    | with_reducible refine Keeps.ite ?_ ?_
    | split
    | dsimp only

theorem State.activateUnits_keeps {s0 s : State} (h : Keeps s0 s) (c at_ : Nat) : Keeps s0 (s.activateUnits c at_).1 := by
  unfold State.activateUnits
  extract_lets ok t
  have k : Keeps s0 t := by with_reducible refine Keeps.put h (Nat.le_succ _) ..
  clear_value t ok
  split
  · exact k
  · split
    · dsimp only
      exact State.onFar_keeps (State.acquire_keeps k _ _) _
    · exact State.switchSlot_keeps k _

theorem State.fwActivate_keeps {s0 s : State} (h : Keeps s0 s) (i n c at_ : Nat) :
    Keeps s0 (s.fwActivate i n c at_) := by
  unfold State.fwActivate
  repeat' first
    | with_reducible assumption
    | with_reducible apply State.manage_keeps
    | with_reducible apply State.acquire_keeps
    | with_reducible apply State.onFar_keeps
    | with_reducible apply State.switchFarrier_keeps
    | with_reducible apply State.setFw_keeps
    | with_reducible apply State.useKeys_keeps
    | with_reducible apply State.activateUnits_keeps
    | (refine Keeps.of_fst ‹_ = (_, _)› ?_)
    | (refine Keeps.of_snd ‹_ = (_, _)› ?_)
    | (intro t k)
    | (with_reducible refine Keeps.put ?_ ?_ .. <;>
        first
        | exact Nat.le_refl _
        | exact Nat.le_succ _
        | with_reducible assumption
        | with_reducible apply State.manage_keeps
        | with_reducible apply State.acquire_keeps
        | with_reducible apply State.onFar_keeps
        | with_reducible apply State.switchFarrier_keeps
        | with_reducible apply State.setFw_keeps
        | with_reducible apply State.useKeys_keeps
        | with_reducible apply State.activateUnits_keeps
        | (refine Keeps.of_fst ‹_ = (_, _)› ?_))
    | with_reducible refine Keeps.ite ?_ ?_
    | split
    | dsimp only

theorem State.fwCommit_keeps {s0 s : State} (h : Keeps s0 s) (i n c : Nat) : Keeps s0 (s.fwCommit i n c) := by
  refine State.manage_keeps h _ _ _ _ fun t k => ?_
  dsimp only
  split
  · exact k
  · refine Keeps.of_fuses (State.setFw_keeps k _ _) (Nat.le_refl _) fun x => ?_
    dsimp only
    rw [mget_mset]
    split
    · next e => subst e; exact Nat.le_max_right _ _
    · exact Nat.le_refl _

theorem State.installAnchor_keeps {s0 s : State} (h : Keeps s0 s) (i n : Nat) (cert : List Byte) :
    Keeps s0 (s.installAnchor i n cert) := by
  unfold State.installAnchor
  repeat' first
    | with_reducible assumption
    | with_reducible apply State.answer_keeps
    | with_reducible apply State.onFar_keeps
    | with_reducible apply State.book_keeps
    | (with_reducible refine Keeps.put ?_ ?_ .. <;>
        first
        | exact Nat.le_refl _
        | exact Nat.le_succ _
        | with_reducible assumption
        | with_reducible apply State.answer_keeps
        | with_reducible apply State.onFar_keeps
        | with_reducible apply State.book_keeps)
    | with_reducible refine Keeps.ite ?_ ?_
    | split
    | dsimp only

theorem State.installKey_keeps {s0 s : State} (h : Keeps s0 s) (i n : Nat) (key : List Byte) :
    Keeps s0 (s.installKey i n key) := by
  unfold State.installKey
  repeat' first
    | with_reducible assumption
    | with_reducible apply State.manage_keeps
    | (intro t k)
    | (with_reducible refine Keeps.put ?_ ?_ .. <;>
        first
        | exact Nat.le_refl _
        | exact Nat.le_succ _
        | with_reducible assumption
        | with_reducible apply State.manage_keeps)
    | with_reducible refine Keeps.ite ?_ ?_
    | split
    | dsimp only

theorem State.removeKey_keeps {s0 s : State} (h : Keeps s0 s) (i n : Nat) (ident : List Byte) :
    Keeps s0 (s.removeKey i n ident) := by
  unfold State.removeKey
  repeat' first
    | with_reducible assumption
    | with_reducible apply State.manage_keeps
    | (intro t k)
    | (with_reducible refine Keeps.put ?_ ?_ .. <;>
        first
        | exact Nat.le_refl _
        | exact Nat.le_succ _
        | with_reducible assumption
        | with_reducible apply State.manage_keeps)
    | with_reducible refine Keeps.ite ?_ ?_
    | split
    | dsimp only
    | dsimp only [id]

theorem State.attest_keeps {s0 s : State} (h : Keeps s0 s) (i n : Nat) (nonce : List Byte) :
    Keeps s0 (s.attest i n nonce) := by
  unfold State.attest
  repeat' first
    | with_reducible assumption
    | with_reducible apply State.manage_keeps
    | with_reducible apply State.takeIndex_keeps
    | (refine Keeps.of_fst ‹_ = (_, _)› ?_)
    | (refine Keeps.of_snd ‹_ = (_, _)› ?_)
    | (intro t k)
    | (with_reducible refine Keeps.put ?_ ?_ .. <;>
        first
        | exact Nat.le_refl _
        | exact Nat.le_succ _
        | with_reducible assumption
        | with_reducible apply State.manage_keeps
        | with_reducible apply State.takeIndex_keeps
        | (refine Keeps.of_fst ‹_ = (_, _)› ?_))
    | with_reducible refine Keeps.ite ?_ ?_
    | split
    | dsimp only

theorem State.openScan_keeps {s0 s : State} (h : Keeps s0 s) (scrub : Bool) :
    Keeps s0 (s.openScan scrub) := by
  unfold State.openScan
  repeat' first
    | with_reducible assumption
    | with_reducible apply State.outOfService_keeps
    | with_reducible apply State.onFar_keeps
    | with_reducible apply State.set_keeps
    | (with_reducible refine Keeps.put ?_ ?_ .. <;>
        first
        | exact Nat.le_refl _
        | exact Nat.le_succ _
        | with_reducible assumption
        | with_reducible apply State.outOfService_keeps
        | with_reducible apply State.onFar_keeps
        | with_reducible apply State.set_keeps)
    | with_reducible refine Keeps.ite ?_ ?_
    | split
    | dsimp only

theorem State.scanUnlock_keeps {s0 s : State} (h : Keeps s0 s) (i n : Nat) (scrub : Bool) :
    Keeps s0 (s.scanUnlock i n scrub) := by
  unfold State.scanUnlock
  repeat' first
    | with_reducible assumption
    | with_reducible apply State.manage_keeps
    | with_reducible apply State.openScan_keeps
    | (intro t k)
    | with_reducible refine Keeps.ite ?_ ?_
    | split
    | dsimp only

theorem State.mbxDone_keeps {s0 s : State} (h : Keeps s0 s) (op result : Nat) (bytes : List Byte) :
    Keeps s0 (s.mbxDone op result bytes) := by
  unfold State.mbxDone
  repeat' first
    | with_reducible assumption
    | with_reducible apply State.set_keeps
    | (with_reducible refine Keeps.foldl ?_ (fun t x k => ?_))
    | with_reducible refine Keeps.ite ?_ ?_
    | split
    | dsimp only

theorem State.mbxLogRead_keeps {s0 s : State} (h : Keeps s0 s) :
    Keeps s0 (s.mbxLogRead ) := by
  unfold State.mbxLogRead
  repeat' first
    | with_reducible assumption
    | with_reducible apply State.mbxDone_keeps
    | (with_reducible refine Keeps.put ?_ ?_ .. <;>
        first
        | exact Nat.le_refl _
        | exact Nat.le_succ _
        | with_reducible assumption
        | with_reducible apply State.mbxDone_keeps)
    | with_reducible refine Keeps.ite ?_ ?_
    | split
    | dsimp only

theorem State.mbxStudRead_keeps {s0 s : State} (h : Keeps s0 s) :
    Keeps s0 (s.mbxStudRead ) := by
  unfold State.mbxStudRead
  repeat' first
    | with_reducible assumption
    | with_reducible apply State.mbxDone_keeps
    | (with_reducible refine Keeps.put ?_ ?_ .. <;>
        first
        | exact Nat.le_refl _
        | exact Nat.le_succ _
        | with_reducible assumption
        | with_reducible apply State.mbxDone_keeps)
    | with_reducible refine Keeps.ite ?_ ?_
    | split
    | dsimp only

theorem State.mbxLease_keeps {s0 s : State} (h : Keeps s0 s) :
    Keeps s0 (s.mbxLease ) := by
  unfold State.mbxLease
  repeat' first
    | with_reducible assumption
    | with_reducible apply State.leaseRequest_keeps
    | with_reducible apply State.mbxDone_keeps
    | with_reducible apply State.set_keeps
    | (refine Keeps.of_fst ‹_ = (_, _)› ?_)
    | (refine Keeps.of_snd ‹_ = (_, _)› ?_)
    | with_reducible refine Keeps.ite ?_ ?_
    | split
    | dsimp only

theorem State.mbxPartnerDown_keeps {s0 s : State} (h : Keeps s0 s) :
    Keeps s0 (s.mbxPartnerDown ) := by
  unfold State.mbxPartnerDown
  repeat' first
    | with_reducible assumption
    | with_reducible apply State.partnerDown_keeps
    | with_reducible apply State.mbxDone_keeps
    | with_reducible refine Keeps.ite ?_ ?_
    | split
    | dsimp only

theorem State.mbxWrite_keeps {s0 s : State} (h : Keeps s0 s) (v : Word) :
    Keeps s0 (s.mbxWrite v) := by
  unfold State.mbxWrite
  repeat' first
    | with_reducible assumption
    | with_reducible apply State.set_keeps
    | with_reducible apply State.mbxLogRead_keeps
    | with_reducible apply State.mbxStudRead_keeps
    | with_reducible apply State.mbxLease_keeps
    | with_reducible apply State.mbxPartnerDown_keeps
    | with_reducible refine Keeps.ite ?_ ?_
    | split
    | dsimp only

theorem State.heartbeat_keeps {s0 s : State} (h : Keeps s0 s) (v : Word) :
    Keeps s0 (s.heartbeat v) := by
  unfold State.heartbeat
  repeat' first
    | with_reducible assumption
    | with_reducible apply State.set_keeps
    | (with_reducible refine Keeps.put ?_ ?_ .. <;>
        first
        | exact Nat.le_refl _
        | exact Nat.le_succ _
        | with_reducible assumption
        | with_reducible apply State.set_keeps)
    | with_reducible refine Keeps.ite ?_ ?_
    | split
    | dsimp only

theorem State.riderSilent_keeps {s0 s : State} (h : Keeps s0 s) :
    Keeps s0 (s.riderSilent ) := by
  unfold State.riderSilent
  repeat' first
    | with_reducible assumption
    | with_reducible apply State.raise_keeps
    | with_reducible apply State.set_keeps
    | with_reducible apply State.riderStarts_keeps
    | (with_reducible refine Keeps.put ?_ ?_ .. <;>
        first
        | exact Nat.le_refl _
        | exact Nat.le_succ _
        | with_reducible assumption
        | with_reducible apply State.raise_keeps
        | with_reducible apply State.set_keeps
        | with_reducible apply State.riderStarts_keeps)
    | with_reducible refine Keeps.ite ?_ ?_
    | split
    | dsimp only

theorem State.powerUp_keeps {s0 s : State} (h : Keeps s0 s) :
    Keeps s0 (s.powerUp ) := by
  unfold State.powerUp
  repeat' first
    | with_reducible assumption
    | with_reducible apply State.startCold_keeps
    | (with_reducible refine Keeps.put ?_ ?_ .. <;>
        first
        | exact Nat.le_refl _
        | exact Nat.le_succ _
        | with_reducible assumption
        | with_reducible apply State.startCold_keeps)
    | with_reducible refine Keeps.ite ?_ ?_
    | split
    | dsimp only

theorem State.powerDown_keeps {s0 s : State} (h : Keeps s0 s) (holdUp : Bool) : Keeps s0 (s.powerDown holdUp) := by
  have k := Keeps.ite (c := (!s.far.awake) = true) h
    (Keeps.ite (c := holdUp = true) (State.flushSome_keeps h (Config.holdUp s.freeCtr)) (State.flushLog_keeps h))
  unfold State.powerDown
  dsimp only
  revert k
  generalize (if (!s.far.awake) = true then s else if holdUp = true then s.flushSome (Config.holdUp s.freeCtr) else s.flushLog) = t
  intro k
  split
  · with_reducible refine Keeps.put h (Nat.le_refl _) ..
  · have k1 : Keeps s0 { t with freeCtr := t.freeCtr + 1 } := by with_reducible refine Keeps.put k (Nat.le_succ _) ..
    have k2 := State.goTo_keeps (State.sayDown_keeps k1) dOff (by decide)
    revert k2
    generalize ({ t with freeCtr := t.freeCtr + 1 } : State).sayDown.goTo dOff = t2
    intro k2
    refine State.coldClear_keeps ?_
    with_reducible refine Keeps.put k2 (Nat.le_refl _) ..

theorem State.inputIn_keeps {s0 s : State} (h : Keeps s0 s) :
    Keeps s0 (s.inputIn ) := by
  unfold State.inputIn
  repeat' first
    | with_reducible assumption
    | with_reducible apply State.powerUp_keeps
    | (with_reducible refine Keeps.put ?_ ?_ .. <;>
        first
        | exact Nat.le_refl _
        | exact Nat.le_succ _
        | with_reducible assumption
        | with_reducible apply State.powerUp_keeps)

theorem State.inputOut_keeps {s0 s : State} (h : Keeps s0 s) :
    Keeps s0 (s.inputOut ) := by
  unfold State.inputOut
  repeat' first
    | with_reducible assumption
    | with_reducible apply State.powerDown_keeps
    | (with_reducible refine Keeps.put ?_ ?_ .. <;>
        first
        | exact Nat.le_refl _
        | exact Nat.le_succ _
        | with_reducible assumption
        | with_reducible apply State.powerDown_keeps)

theorem State.enRise_keeps {s0 s : State} (h : Keeps s0 s) :
    Keeps s0 (s.enRise ) := by
  unfold State.enRise
  repeat' first
    | with_reducible assumption
    | with_reducible apply State.powerUp_keeps
    | (with_reducible refine Keeps.put ?_ ?_ .. <;>
        first
        | exact Nat.le_refl _
        | exact Nat.le_succ _
        | with_reducible assumption
        | with_reducible apply State.powerUp_keeps)

theorem State.enFall_keeps {s0 s : State} (h : Keeps s0 s) :
    Keeps s0 (s.enFall ) := by
  unfold State.enFall
  repeat' first
    | with_reducible assumption
    | with_reducible apply State.powerDown_keeps
    | (with_reducible refine Keeps.put ?_ ?_ .. <;>
        first
        | exact Nat.le_refl _
        | exact Nat.le_succ _
        | with_reducible assumption
        | with_reducible apply State.powerDown_keeps)

theorem State.resetLow_keeps {s0 s : State} (h : Keeps s0 s) (ns : Nat) :
    Keeps s0 (s.resetLow ns) := by
  unfold State.resetLow
  repeat' first
    | with_reducible assumption
    | with_reducible apply State.powerDown_keeps
    | (with_reducible refine Keeps.put ?_ ?_ .. <;>
        first
        | exact Nat.le_refl _
        | exact Nat.le_succ _
        | with_reducible assumption
        | with_reducible apply State.powerDown_keeps)
    | with_reducible refine Keeps.ite ?_ ?_
    | split
    | dsimp only

theorem State.resetHigh_keeps {s0 s : State} (h : Keeps s0 s) :
    Keeps s0 (s.resetHigh ) := by
  unfold State.resetHigh
  repeat' first
    | with_reducible assumption
    | with_reducible apply State.powerUp_keeps
    | (with_reducible refine Keeps.put ?_ ?_ .. <;>
        first
        | exact Nat.le_refl _
        | exact Nat.le_succ _
        | with_reducible assumption
        | with_reducible apply State.powerUp_keeps)

theorem State.railsOff_keeps {s0 s : State} (h : Keeps s0 s) :
    Keeps s0 (s.railsOff ) := by
  unfold State.railsOff
  repeat' first
    | with_reducible assumption
    | with_reducible apply State.powerUp_keeps
    | (with_reducible refine Keeps.put ?_ ?_ .. <;>
        first
        | exact Nat.le_refl _
        | exact Nat.le_succ _
        | with_reducible assumption
        | with_reducible apply State.powerUp_keeps)
    | with_reducible refine Keeps.ite ?_ ?_
    | split
    | dsimp only

theorem State.step__keeps {s0 s : State} (h : Keeps s0 s) (n : Nat) :
    Keeps s0 (s.step_ n) := by
  unfold State.step_
  repeat' first
    | with_reducible assumption
    | with_reducible apply State.set_keeps
    | (with_reducible refine Keeps.put ?_ ?_ .. <;>
        first
        | exact Nat.le_refl _
        | exact Nat.le_succ _
        | with_reducible assumption
        | with_reducible apply State.set_keeps)
    | dsimp only

theorem State.reachHeld_keeps {s0 s : State} (h : Keeps s0 s) (n : Nat) :
    Keeps s0 (s.reachHeld n) := by
  unfold State.reachHeld
  repeat' first
    | with_reducible assumption
    | decide
    | with_reducible apply State.takePack_keeps
    | with_reducible apply State.step__keeps
    | with_reducible apply State.holdReason_keeps
    | with_reducible apply State.goTo_keeps

theorem State.placeStud_keeps {s0 s : State} (h : Keeps s0 s) :
    Keeps s0 (s.placeStud ) := by
  unfold State.placeStud
  repeat' first
    | with_reducible assumption
    | with_reducible apply State.set_keeps
    | with_reducible apply State.setBlock_keeps
    | with_reducible apply State.setRmt_keeps
    | with_reducible apply State.sweepCounts_keeps
    | (with_reducible refine Keeps.foldl ?_ (fun t x k => ?_))
    | (with_reducible refine Keeps.put ?_ ?_ .. <;>
        first
        | exact Nat.le_refl _
        | exact Nat.le_succ _
        | with_reducible assumption
        | with_reducible apply State.set_keeps
        | with_reducible apply State.setBlock_keeps
        | with_reducible apply State.setRmt_keeps
        | with_reducible apply State.sweepCounts_keeps
        | (with_reducible refine Keeps.foldl ?_ (fun t x k => ?_)))
    | with_reducible refine Keeps.ite ?_ ?_
    | split
    | dsimp only

theorem State.releaseDie_keeps {s0 s : State} (h : Keeps s0 s) :
    Keeps s0 (s.releaseDie ) := by
  unfold State.releaseDie
  repeat' first
    | with_reducible assumption
    | with_reducible apply State.set_keeps
    | with_reducible apply State.onFar_keeps
    | with_reducible apply State.placeStud_keeps
    | (with_reducible refine Keeps.put ?_ ?_ .. <;>
        first
        | exact Nat.le_refl _
        | exact Nat.le_succ _
        | with_reducible assumption
        | with_reducible apply State.set_keeps
        | with_reducible apply State.onFar_keeps
        | with_reducible apply State.placeStud_keeps)
    | dsimp only

theorem State.showFuses_keeps {s0 s : State} (h : Keeps s0 s) :
    Keeps s0 (s.showFuses ) := by
  unfold State.showFuses
  repeat' first
    | with_reducible assumption
    | with_reducible apply State.set_keeps

theorem State.stepBoot_keeps {s0 s : State} (h : Keeps s0 s) (slots : Nat) (fuseOk : Bool) :
    Keeps s0 (s.stepBoot slots fuseOk) := by
  unfold State.stepBoot
  repeat' first
    | with_reducible assumption
    | with_reducible apply State.farrierBoot_keeps
    | with_reducible apply State.onFar_keeps
    | with_reducible apply State.outOfService_keeps
    | with_reducible apply State.setFw_keeps
    | with_reducible apply State.raise_keeps
    | with_reducible apply State.showFuses_keeps
    | with_reducible apply State.step__keeps
    | (with_reducible refine Keeps.put ?_ ?_ .. <;>
        first
        | exact Nat.le_refl _
        | exact Nat.le_succ _
        | with_reducible assumption
        | with_reducible apply State.farrierBoot_keeps
        | with_reducible apply State.onFar_keeps
        | with_reducible apply State.outOfService_keeps
        | with_reducible apply State.setFw_keeps
        | with_reducible apply State.raise_keeps
        | with_reducible apply State.showFuses_keeps
        | with_reducible apply State.step__keeps)
    | with_reducible refine Keeps.ite ?_ ?_
    | split
    | dsimp only

theorem State.repairRows_keeps {s0 s : State} (h : Keeps s0 s) (ddr : Bool) :
    Keeps s0 (s.repairRows ddr) := by
  unfold State.repairRows
  repeat' first
    | with_reducible assumption
    | with_reducible apply State.book_keeps
    | (with_reducible refine Keeps.foldl ?_ (fun t x k => ?_))
    | (with_reducible refine Keeps.put ?_ ?_ .. <;>
        first
        | exact Nat.le_refl _
        | exact Nat.le_succ _
        | with_reducible assumption
        | with_reducible apply State.book_keeps
        | (with_reducible refine Keeps.foldl ?_ (fun t x k => ?_)))
    | with_reducible refine Keeps.ite ?_ ?_
    | split
    | dsimp only

theorem State.trainUnit_keeps {s0 s : State} (h : Keeps s0 s) (i : Nat) :
    Keeps s0 (s.trainUnit i) := by
  unfold State.trainUnit
  repeat' first
    | with_reducible assumption
    | with_reducible apply State.book_keeps
    | with_reducible apply State.onFar_keeps
    | (with_reducible refine Keeps.put ?_ ?_ .. <;>
        first
        | exact Nat.le_refl _
        | exact Nat.le_succ _
        | with_reducible assumption
        | with_reducible apply State.book_keeps
        | with_reducible apply State.onFar_keeps)
    | with_reducible refine Keeps.ite ?_ ?_
    | split
    | dsimp only

theorem State.stepHbm_keeps {s0 s : State} (h : Keeps s0 s) (bad : List Nat) : Keeps s0 (s.stepHbm bad) := by
  unfold State.stepHbm
  split
  · exact State.outOfService_keeps h _
  · refine State.step__keeps (State.set_keeps (Keeps.of_dram (Keeps.foldl (State.repairRows_keeps h _) fun _ _ k => State.trainUnit_keeps k _) fun w => ⟨rfl, w.2⟩) _ _) _

theorem State.channelUp_keeps {s0 s : State} (h : Keeps s0 s) (c : Nat) (ok : Bool) :
    Keeps s0 (s.channelUp c ok) := by
  unfold State.channelUp
  repeat' first
    | with_reducible assumption
    | with_reducible apply State.set_keeps
    | with_reducible refine Keeps.ite ?_ ?_
    | split
    | dsimp only

theorem State.stepDdr_keeps {s0 s : State} (h : Keeps s0 s) (bad : List Nat) : Keeps s0 (s.stepDdr bad) := by
  unfold State.stepDdr
  extract_lets t1 t2 t3 b4 t4
  have k1 : Keeps s0 t1 :=
    Keeps.foldl (State.set_keeps (State.repairRows_keeps h _) _ _) fun _ _ k => State.channelUp_keeps k _ _
  clear_value t1
  have k2 : Keeps s0 t2 := Keeps.foldl k1 fun t c k => by
    split
    · exact State.trainUnit_keeps k _
    · exact k
  clear_value t2
  have k3 : Keeps s0 t3 := State.onFar_keeps (Keeps.of_dram k2 fun w => ⟨w.1, rfl⟩) _
  clear_value t3
  have k4 : Keeps s0 t4 := by
    unfold t4
    split
    · exact k3
    · with_reducible refine Keeps.put k3 (Nat.le_refl _) ..
  exact State.step__keeps k4 _

theorem State.stepPorts_keeps {s0 s : State} (h : Keeps s0 s) (bad : List Nat) (next : Nat) :
    Keeps s0 (s.stepPorts bad next) := by
  unfold State.stepPorts
  repeat' first
    | with_reducible assumption
    | with_reducible apply State.set_keeps
    | with_reducible apply State.step__keeps
    | (with_reducible refine Keeps.foldl ?_ (fun t x k => ?_))
    | with_reducible refine Keeps.ite ?_ ?_
    | split
    | dsimp only

theorem State.routerDown_keeps {s0 s : State} (h : Keeps s0 s) (p : Nat) :
    Keeps s0 (s.routerDown p) := by
  unfold State.routerDown
  repeat' first
    | with_reducible assumption
    | with_reducible apply State.setBlock_keeps
    | with_reducible apply State.set_keeps
    | with_reducible apply State.quarantine_keeps
    | with_reducible apply State.outOfService_keeps
    | (with_reducible refine Keeps.foldl ?_ (fun t x k => ?_))
    | with_reducible refine Keeps.ite ?_ ?_
    | split
    | dsimp only

theorem State.stepMesh_keeps {s0 s : State} (h : Keeps s0 s) (links : List (Nat × Nat)) (next : Nat) :
    Keeps s0 (s.stepMesh links next) := by
  unfold State.stepMesh
  repeat' first
    | with_reducible assumption
    | with_reducible apply State.routerDown_keeps
    | with_reducible apply State.set_keeps
    | with_reducible apply State.step__keeps
    | (with_reducible refine Keeps.foldl ?_ (fun t x k => ?_))
    | (with_reducible refine Keeps.put ?_ ?_ .. <;>
        first
        | exact Nat.le_refl _
        | exact Nat.le_succ _
        | with_reducible assumption
        | with_reducible apply State.routerDown_keeps
        | with_reducible apply State.set_keeps
        | with_reducible apply State.step__keeps
        | (with_reducible refine Keeps.foldl ?_ (fun t x k => ?_)))
    | with_reducible refine Keeps.ite ?_ ?_
    | split
    | dsimp only

theorem State.testFail_keeps {s0 s : State} (h : Keeps s0 s) (p attempt record : Nat) :
    Keeps s0 (s.testFail p attempt record) := by
  unfold State.testFail
  repeat' first
    | with_reducible assumption
    | with_reducible apply State.onBlock_keeps
    | with_reducible refine Keeps.ite ?_ ?_
    | split
    | dsimp only

theorem State.unitFails_keeps {s0 s : State} (h : Keeps s0 s) (once twice engines : List Nat) (kar : Option (Option Nat)) :
    Keeps s0 (s.unitFails once twice engines kar) := by
  unfold State.unitFails
  repeat' first
    | with_reducible assumption
    | with_reducible apply State.testFail_keeps
    | with_reducible apply State.transient_keeps
    | with_reducible apply State.lasting_keeps
    | with_reducible apply State.quarantine_keeps
    | with_reducible apply State.engineEvent_keeps
    | with_reducible apply State.mangerFault_keeps
    | (with_reducible refine Keeps.foldl ?_ (fun t x k => ?_))
    | (with_reducible refine Keeps.put ?_ ?_ .. <;>
        first
        | exact Nat.le_refl _
        | exact Nat.le_succ _
        | with_reducible assumption
        | with_reducible apply State.testFail_keeps
        | with_reducible apply State.transient_keeps
        | with_reducible apply State.lasting_keeps
        | with_reducible apply State.quarantine_keeps
        | with_reducible apply State.engineEvent_keeps
        | with_reducible apply State.mangerFault_keeps
        | (with_reducible refine Keeps.foldl ?_ (fun t x k => ?_)))
    | with_reducible refine Keeps.ite ?_ ?_
    | split
    | dsimp only

theorem State.routerSlice_keeps {s0 s : State} (h : Keeps s0 s) (p : Nat) :
    Keeps s0 (s.routerSlice p) := by
  unfold State.routerSlice
  repeat' first
    | with_reducible assumption
    | with_reducible apply State.setBlock_keeps
    | with_reducible apply State.testFail_keeps
    | with_reducible apply State.lasting_keeps
    | with_reducible apply State.routerDown_keeps
    | dsimp only

theorem State.stepSweep_keeps {s0 s : State} (h : Keeps s0 s) (once twice engines routers : List Nat) :
    Keeps s0 (s.stepSweep once twice engines routers) := by
  unfold State.stepSweep
  repeat' first
    | with_reducible assumption
    | with_reducible apply State.unitFails_keeps
    | with_reducible apply State.setBlock_keeps
    | with_reducible apply State.routerSlice_keeps
    | with_reducible apply State.showTest_keeps
    | with_reducible apply State.onScreen_keeps
    | with_reducible apply State.cleanSweep_keeps
    | with_reducible apply State.set_keeps
    | with_reducible apply State.step__keeps
    | (with_reducible refine Keeps.foldl ?_ (fun t x k => ?_))
    | (with_reducible refine Keeps.put ?_ ?_ .. <;>
        first
        | exact Nat.le_refl _
        | exact Nat.le_succ _
        | with_reducible assumption
        | with_reducible apply State.unitFails_keeps
        | with_reducible apply State.setBlock_keeps
        | with_reducible apply State.routerSlice_keeps
        | with_reducible apply State.showTest_keeps
        | with_reducible apply State.onScreen_keeps
        | with_reducible apply State.cleanSweep_keeps
        | with_reducible apply State.set_keeps
        | with_reducible apply State.step__keeps
        | (with_reducible refine Keeps.foldl ?_ (fun t x k => ?_)))
    | with_reducible refine Keeps.ite ?_ ?_
    | split
    | dsimp only

theorem State.stepKar_keeps {s0 s : State} (h : Keeps s0 s) (once twice engines : List Nat) (held : Nat) :
    Keeps s0 (s.stepKar once twice engines held) := by
  unfold State.stepKar
  repeat' first
    | with_reducible assumption
    | with_reducible apply State.unitFails_keeps
    | with_reducible apply State.set_keeps
    | with_reducible apply State.reachHeld_keeps
    | with_reducible refine Keeps.ite ?_ ?_
    | split
    | dsimp only

theorem State.fallBack_keeps {s0 s : State} (h : Keeps s0 s) :
    Keeps s0 (s.fallBack ) := by
  unfold State.fallBack
  repeat' first
    | with_reducible assumption
    | with_reducible apply State.set_keeps
    | with_reducible apply State.onFar_keeps
    | with_reducible apply State.step__keeps
    | (with_reducible refine Keeps.put ?_ ?_ .. <;>
        first
        | exact Nat.le_refl _
        | exact Nat.le_succ _
        | with_reducible assumption
        | with_reducible apply State.set_keeps
        | with_reducible apply State.onFar_keeps
        | with_reducible apply State.step__keeps)
    | dsimp only

theorem State.bringupStep_keeps {s0 s : State} (h : Keeps s0 s) (r : StepReport) :
    Keeps s0 (s.bringupStep r) := by
  unfold State.bringupStep
  repeat' first
    | with_reducible assumption
    | with_reducible apply State.step__keeps
    | with_reducible apply State.stepBoot_keeps
    | with_reducible apply State.railsFall_keeps
    | with_reducible apply State.releaseDie_keeps
    | with_reducible apply State.outOfService_keeps
    | with_reducible apply State.stepHbm_keeps
    | with_reducible apply State.stepDdr_keeps
    | with_reducible apply State.stepPorts_keeps
    | with_reducible apply State.stepMesh_keeps
    | with_reducible apply State.stepSweep_keeps
    | with_reducible apply State.stepKar_keeps
    | with_reducible apply State.set_keeps
    | with_reducible apply State.fallBack_keeps
    | with_reducible apply State.channelUp_keeps
    | (with_reducible refine Keeps.foldl ?_ (fun t x k => ?_))
    | (with_reducible refine Keeps.put ?_ ?_ .. <;>
        first
        | exact Nat.le_refl _
        | exact Nat.le_succ _
        | with_reducible assumption
        | with_reducible apply State.step__keeps
        | with_reducible apply State.stepBoot_keeps
        | with_reducible apply State.railsFall_keeps
        | with_reducible apply State.releaseDie_keeps
        | with_reducible apply State.outOfService_keeps
        | with_reducible apply State.stepHbm_keeps
        | with_reducible apply State.stepDdr_keeps
        | with_reducible apply State.stepPorts_keeps
        | with_reducible apply State.stepMesh_keeps
        | with_reducible apply State.stepSweep_keeps
        | with_reducible apply State.stepKar_keeps
        | with_reducible apply State.set_keeps
        | with_reducible apply State.fallBack_keeps
        | with_reducible apply State.channelUp_keeps
        | (with_reducible refine Keeps.foldl ?_ (fun t x k => ?_)))
    | with_reducible refine Keeps.ite ?_ ?_
    | split
    | dsimp only

theorem State.riderBoot_keeps {s0 s : State} (h : Keeps s0 s) :
    Keeps s0 (s.riderBoot ) := by
  unfold State.riderBoot
  repeat' first
    | with_reducible assumption
    | with_reducible apply State.riderStarts_keeps
    | (with_reducible refine Keeps.put ?_ ?_ .. <;>
        first
        | exact Nat.le_refl _
        | exact Nat.le_succ _
        | with_reducible assumption
        | with_reducible apply State.riderStarts_keeps)
    | with_reducible refine Keeps.ite ?_ ?_
    | split
    | dsimp only

theorem State.noteMemory_keeps {s0 s : State} (h : Keeps s0 s) (ddr sigMiss : Bool) (a cls : Nat) :
    Keeps s0 (s.noteMemory ddr sigMiss a cls) := by
  unfold State.noteMemory
  repeat' first
    | with_reducible assumption
    | with_reducible apply State.count_keeps
    | with_reducible apply State.noteChannelError_keeps
    | with_reducible apply State.raise_keeps
    | with_reducible apply State.noteStackError_keeps
    | with_reducible apply State.book_keeps
    | with_reducible refine Keeps.ite ?_ ?_
    | split
    | dsimp only

theorem State.fromSource_keeps {s0 s : State} (h : Keeps s0 s) (x : Area) (tier a lines : Nat) :
    Keeps s0 (s.fromSource x tier a lines) := by
  unfold State.fromSource
  repeat' first
    | with_reducible assumption
    | with_reducible apply State.setTiers_keeps
    | with_reducible apply State.start_keeps
    | with_reducible apply State.remoteOr_keeps
    | (intro w; exact Tiers.putLines_wf (State.tiers_wf w) _ _ _)
    | (intro w; exact Tiers.putLine_wf (State.tiers_wf w) _ _ _)
    | (with_reducible refine Keeps.foldl ?_ (fun t x k => ?_))
    | (with_reducible refine Keeps.put ?_ ?_ .. <;>
        first
        | exact Nat.le_refl _
        | exact Nat.le_succ _
        | with_reducible assumption
        | with_reducible apply State.setTiers_keeps
        | with_reducible apply State.start_keeps
        | with_reducible apply State.remoteOr_keeps
        | (with_reducible refine Keeps.foldl ?_ (fun t x k => ?_)))
    | with_reducible refine Keeps.ite ?_ ?_
    | split
    | dsimp only

theorem State.spoilSaddle_keeps {s0 s : State} (h : Keeps s0 s) (x : Area) (a : Nat) :
    Keeps s0 (s.spoilSaddle x a) := by
  unfold State.spoilSaddle
  repeat' first
    | with_reducible assumption
    | with_reducible apply State.start_keeps
    | with_reducible apply State.rset_keeps
    | (with_reducible refine Keeps.put ?_ ?_ .. <;>
        first
        | exact Nat.le_refl _
        | exact Nat.le_succ _
        | with_reducible assumption
        | with_reducible apply State.start_keeps
        | with_reducible apply State.rset_keeps)
    | with_reducible refine Keeps.ite ?_ ?_
    | split
    | dsimp only

theorem State.unsign_keeps {s0 s : State} (h : Keeps s0 s) (a : Nat) :
    Keeps s0 (s.unsign a) := by
  unfold State.unsign
  repeat' first
    | with_reducible assumption
    | with_reducible apply State.set_keeps
    | (with_reducible refine Keeps.foldl ?_ (fun t x k => ?_))
    | with_reducible refine Keeps.ite ?_ ?_
    | split
    | dsimp only

theorem State.spoilImage_keeps {s0 s : State} (h : Keeps s0 s) (a : Nat) :
    Keeps s0 (s.spoilImage a) := by
  unfold State.spoilImage
  repeat' first
    | with_reducible assumption
    | (with_reducible refine Keeps.put ?_ ?_ .. <;>
        first
        | exact Nat.le_refl _
        | exact Nat.le_succ _
        | with_reducible assumption)
    | with_reducible refine Keeps.ite ?_ ?_
    | split
    | dsimp only

theorem State.actOn_keeps {s0 s : State} (h : Keeps s0 s) (x : Area) (tier a lines : Nat) :
    Keeps s0 (s.actOn x tier a lines) := by
  unfold State.actOn
  repeat' first
    | with_reducible assumption
    | with_reducible apply State.fromSource_keeps
    | with_reducible apply State.startRecovery_keeps
    | with_reducible apply State.detach_keeps
    | with_reducible apply State.failJob_keeps
    | with_reducible apply State.spoilSaddle_keeps
    | with_reducible apply State.unsign_keeps
    | (intro t k)
    | (with_reducible refine Keeps.put ?_ ?_ .. <;>
        first
        | exact Nat.le_refl _
        | exact Nat.le_succ _
        | with_reducible assumption
        | with_reducible apply State.fromSource_keeps
        | with_reducible apply State.startRecovery_keeps
        | with_reducible apply State.detach_keeps
        | with_reducible apply State.failJob_keeps
        | with_reducible apply State.spoilSaddle_keeps
        | with_reducible apply State.unsign_keeps)
    | with_reducible refine Keeps.ite ?_ ?_
    | split
    | dsimp only
    | dsimp only [id]

theorem State.zeroHandle_keeps {s0 s : State} (h : Keeps s0 s) (p h : Nat) :
    Keeps s0 (s.zeroHandle p h) := by
  unfold State.zeroHandle
  repeat' first
    | with_reducible assumption
    | with_reducible apply State.setBlock_keeps
    | dsimp only

theorem State.reloadHandle_keeps {s0 s : State} (h : Keeps s0 s) (p h : Nat) :
    Keeps s0 (s.reloadHandle p h) := by
  unfold State.reloadHandle
  repeat' first
    | with_reducible assumption
    | with_reducible apply State.setBlock_keeps

theorem State.loadError_keeps {s0 s : State} (h : Keeps s0 s) (p h : Nat) (area : Option Area) (tier a : Nat) :
    Keeps s0 (s.loadError p h area tier a) := by
  unfold State.loadError
  repeat' first
    | with_reducible assumption
    | decide
    | with_reducible apply State.dropStaged_keeps
    | with_reducible apply State.holdDetail_keeps
    | with_reducible apply State.release_keeps
    | with_reducible apply State.zeroHandle_keeps
    | with_reducible apply State.actOn_keeps
    | with_reducible apply State.reloadHandle_keeps
    | with_reducible apply State.goTo_keeps
    | with_reducible apply State.withdraw_keeps
    | with_reducible apply State.holdReason_keeps
    | (with_reducible refine Keeps.put ?_ ?_ .. <;>
        first
        | exact Nat.le_refl _
        | exact Nat.le_succ _
        | with_reducible assumption
        | with_reducible apply State.dropStaged_keeps
        | with_reducible apply State.holdDetail_keeps
        | with_reducible apply State.release_keeps
        | with_reducible apply State.zeroHandle_keeps
        | with_reducible apply State.actOn_keeps
        | with_reducible apply State.reloadHandle_keeps
        | with_reducible apply State.goTo_keeps
        | with_reducible apply State.withdraw_keeps
        | with_reducible apply State.holdReason_keeps)
    | with_reducible refine Keeps.ite ?_ ?_
    | split
    | dsimp only

theorem State.memoryError_keeps {s0 s : State} (h : Keeps s0 s) (ddr : Bool) (addr : Nat) (sigMiss : Bool) (load : Option (Nat × Nat)) :
    Keeps s0 (s.memoryError ddr addr sigMiss load) := by
  unfold State.memoryError
  repeat' first
    | with_reducible assumption
    | with_reducible apply State.noteMemory_keeps
    | with_reducible apply State.spoilImage_keeps
    | with_reducible apply State.loadError_keeps
    | with_reducible apply State.actOn_keeps
    | (with_reducible refine Keeps.put ?_ ?_ .. <;>
        first
        | exact Nat.le_refl _
        | exact Nat.le_succ _
        | with_reducible assumption
        | with_reducible apply State.noteMemory_keeps
        | with_reducible apply State.spoilImage_keeps
        | with_reducible apply State.loadError_keeps
        | with_reducible apply State.actOn_keeps)
    | with_reducible refine Keeps.ite ?_ ?_
    | split
    | dsimp only

theorem State.scrubBurst_keeps {s0 s : State} (h : Keeps s0 s) (k : Option Nat) (c : Nat) (bad : Option Nat) :
    Keeps s0 (s.scrubBurst k c bad) := by
  unfold State.scrubBurst
  repeat' first
    | with_reducible assumption
    | with_reducible apply State.scrubDdr_keeps
    | with_reducible apply State.memoryError_keeps
    | with_reducible apply State.scrub_keeps
    | (with_reducible refine Keeps.foldl ?_ (fun t x k => ?_))
    | (with_reducible refine Keeps.put ?_ ?_ .. <;>
        first
        | exact Nat.le_refl _
        | exact Nat.le_succ _
        | with_reducible assumption
        | with_reducible apply State.scrubDdr_keeps
        | with_reducible apply State.memoryError_keeps
        | with_reducible apply State.scrub_keeps
        | (with_reducible refine Keeps.foldl ?_ (fun t x k => ?_)))
    | with_reducible refine Keeps.ite ?_ ?_
    | split
    | dsimp only

theorem State.watchdog_keeps {s0 s : State} (h : Keeps s0 s) (who : Nat) :
    Keeps s0 (s.watchdog who) := by
  unfold State.watchdog
  repeat' first
    | with_reducible assumption
    | with_reducible apply State.raise_keeps
    | with_reducible apply State.tetherFault_keeps
    | with_reducible apply State.regionReset_keeps
    | with_reducible apply State.warmReset_keeps
    | (refine Keeps.of_fst ‹_ = (_, _)› ?_)
    | (refine Keeps.of_snd ‹_ = (_, _)› ?_)
    | with_reducible refine Keeps.ite ?_ ?_
    | split
    | dsimp only

theorem State.resetResult_keeps {s0 s : State} (h : Keeps s0 s) (op target result : Nat) :
    Keeps s0 (s.resetResult op target result) := by
  unfold State.resetResult
  repeat' first
    | with_reducible assumption
    | with_reducible apply State.set_keeps

theorem State.blockRequest_keeps {s0 s : State} (h : Keeps s0 s) (p : Nat) :
    Keeps s0 (s.blockRequest p) := by
  unfold State.blockRequest
  repeat' first
    | with_reducible assumption
    | with_reducible apply State.resetResult_keeps
    | with_reducible apply State.setBlock_keeps
    | with_reducible apply State.set_keeps
    | with_reducible apply State.blockReset_keeps
    | with_reducible apply State.tetherFault_keeps
    | (refine Keeps.of_fst ‹_ = (_, _)› ?_)
    | (refine Keeps.of_snd ‹_ = (_, _)› ?_)
    | (with_reducible refine Keeps.put ?_ ?_ .. <;>
        first
        | exact Nat.le_refl _
        | exact Nat.le_succ _
        | with_reducible assumption
        | with_reducible apply State.resetResult_keeps
        | with_reducible apply State.setBlock_keeps
        | with_reducible apply State.set_keeps
        | with_reducible apply State.blockReset_keeps
        | with_reducible apply State.tetherFault_keeps
        | (refine Keeps.of_fst ‹_ = (_, _)› ?_))
    | with_reducible refine Keeps.ite ?_ ?_
    | split
    | dsimp only

theorem State.regionRequest_keeps {s0 s : State} (h : Keeps s0 s) (r : Nat) :
    Keeps s0 (s.regionRequest r) := by
  unfold State.regionRequest
  repeat' first
    | with_reducible assumption
    | with_reducible apply State.resetResult_keeps
    | with_reducible apply State.regionReset_keeps
    | (refine Keeps.of_fst ‹_ = (_, _)› ?_)
    | (refine Keeps.of_snd ‹_ = (_, _)› ?_)
    | with_reducible refine Keeps.ite ?_ ?_
    | split
    | dsimp only

theorem State.chipRequest_keeps {s0 s : State} (h : Keeps s0 s) :
    Keeps s0 (s.chipRequest ) := by
  unfold State.chipRequest
  repeat' first
    | with_reducible assumption
    | with_reducible apply State.resetResult_keeps
    | with_reducible apply State.warmReset_keeps
    | with_reducible refine Keeps.ite ?_ ?_
    | split
    | dsimp only

theorem State.requestReset_keeps {s0 s : State} (h : Keeps s0 s) (op target : Nat) :
    Keeps s0 (s.requestReset op target) := by
  unfold State.requestReset
  repeat' first
    | with_reducible assumption
    | with_reducible apply State.blockRequest_keeps
    | with_reducible apply State.resetResult_keeps
    | with_reducible apply State.regionRequest_keeps
    | with_reducible apply State.chipRequest_keeps
    | with_reducible refine Keeps.ite ?_ ?_
    | split
    | dsimp only

theorem State.tapInstruction_keeps {s0 s : State} (h : Keeps s0 s) (i : TapInstr) :
    Keeps s0 (s.tapInstruction i) := by
  unfold State.tapInstruction
  repeat' first
    | with_reducible assumption
    | (with_reducible refine Keeps.put ?_ ?_ .. <;>
        first
        | exact Nat.le_refl _
        | exact Nat.le_succ _
        | with_reducible assumption)
    | with_reducible refine Keeps.ite ?_ ?_
    | split
    | dsimp only

theorem State.refuseAccess_keeps {s0 s : State} (h : Keeps s0 s) (a reason : Nat) (write : Bool) :
    Keeps s0 (s.refuseAccess a reason write) := by
  unfold State.refuseAccess
  repeat' first
    | with_reducible assumption
    | with_reducible apply State.raise_keeps
    | (with_reducible refine Keeps.put ?_ ?_ .. <;>
        first
        | exact Nat.le_refl _
        | exact Nat.le_succ _
        | with_reducible assumption
        | with_reducible apply State.raise_keeps)
    | with_reducible refine Keeps.ite ?_ ?_
    | split
    | dsimp only

theorem State.unmapped_keeps {s0 s : State} (h : Keeps s0 s) (a : Nat) (write : Bool) :
    Keeps s0 (s.unmapped a write) := by
  unfold State.unmapped
  repeat' first
    | with_reducible assumption
    | with_reducible apply State.refuseAccess_keeps
    | with_reducible refine Keeps.ite ?_ ?_
    | split
    | dsimp only

theorem State.narrow_keeps {s0 s : State} (h : Keeps s0 s) (a size : Nat) (write : Bool) :
    Keeps s0 (s.narrow a size write) := by
  unfold State.narrow
  repeat' first
    | with_reducible assumption
    | with_reducible apply State.refuseAccess_keeps
    | with_reducible refine Keeps.ite ?_ ?_
    | split
    | dsimp only

theorem State.riderSend_keeps {s0 s : State} (h : Keeps s0 s) (core tier t n : Nat) (write : Bool) (k : Pkt) :
    Keeps s0 (s.riderSend core tier t n write k) := by
  unfold State.riderSend
  repeat' first
    | with_reducible assumption
    | with_reducible apply State.sendFrom_keeps
    | (with_reducible refine Keeps.put ?_ ?_ .. <;>
        first
        | exact Nat.le_refl _
        | exact Nat.le_succ _
        | with_reducible assumption
        | with_reducible apply State.sendFrom_keeps)
    | dsimp only
    | dsimp only [id]

theorem State.noWindow_keeps {s0 s : State} (h : Keeps s0 s) (a : Nat) (write : Bool) :
    Keeps s0 (s.noWindow a write) := by
  unfold State.noWindow
  repeat' first
    | with_reducible assumption
    | with_reducible apply State.unmapped_keeps
    | with_reducible refine Keeps.ite ?_ ?_
    | split
    | dsimp only

theorem State.riderAt_keeps {s0 s : State} (h : Keeps s0 s) (core a n : Nat) (data : Option (List Byte)) (w : Option (Nat × Nat)) :
    Keeps s0 (s.riderAt core a n data w) := by
  rcases w with _ | ⟨tier, t⟩
  · exact State.noWindow_keeps h _ _
  · exact Keeps.ite h (State.riderSend_keeps h _ _ _ _ _ _)

theorem State.riderLine_keeps {s0 s : State} (h : Keeps s0 s) (core a n : Nat) (data : Option (List Byte)) :
    Keeps s0 (s.riderLine core a n data) := State.riderAt_keeps h core a n data _

theorem State.riderAccess_keeps {s0 s : State} (h : Keeps s0 s) (core a size : Nat) (data : Option (List Byte)) :
    Keeps s0 (s.riderAccess core a size data) := by
  unfold State.riderAccess
  repeat' first
    | with_reducible assumption
    | with_reducible apply State.riderLine_keeps
    | (with_reducible refine Keeps.foldl ?_ (fun t x k => ?_))
    | with_reducible refine Keeps.ite ?_ ?_
    | split
    | dsimp only

theorem State.writePlain_keeps {s0 s : State} (h : Keeps s0 s) (a : Nat) (lock : Bool) (v : Word) :
    Keeps s0 (s.writePlain a lock v) := by
  unfold State.writePlain
  repeat' first
    | with_reducible assumption
    | (with_reducible refine Keeps.put ?_ ?_ .. <;>
        first
        | exact Nat.le_refl _
        | exact Nat.le_succ _
        | with_reducible assumption)
    | with_reducible refine Keeps.ite ?_ ?_
    | split
    | dsimp only

theorem State.writeBlk_keeps {s0 s : State} (h : Keeps s0 s) (p off : Nat) (v : Word) :
    Keeps s0 (s.writeBlk p off v) := by
  unfold State.writeBlk
  repeat' first
    | with_reducible assumption
    | with_reducible apply State.onBlock_keeps
    | with_reducible apply State.scanOut_keeps
    | with_reducible apply State.scanIn_keeps
    | with_reducible refine Keeps.ite ?_ ?_
    | split
    | dsimp only

theorem State.writeRgn_keeps {s0 s : State} (h : Keeps s0 s) (r off : Nat) (v : Word) :
    Keeps s0 (s.writeRgn r off v) := by
  unfold State.writeRgn
  repeat' first
    | with_reducible assumption
    | with_reducible apply State.setRegion_keeps
    | (with_reducible refine Keeps.put ?_ ?_ .. <;>
        first
        | exact Nat.le_refl _
        | exact Nat.le_succ _
        | with_reducible assumption
        | with_reducible apply State.setRegion_keeps)
    | with_reducible refine Keeps.ite ?_ ?_
    | split
    | dsimp only

theorem State.writeSyncCtl_keeps {s0 s : State} (h : Keeps s0 s) (v : Word) :
    Keeps s0 (s.writeSyncCtl v) := by
  unfold State.writeSyncCtl
  repeat' first
    | with_reducible assumption
    | with_reducible apply State.writePlain_keeps
    | with_reducible apply State.set_keeps
    | with_reducible apply State.noSyncPort_keeps
    | (with_reducible refine Keeps.put ?_ ?_ .. <;>
        first
        | exact Nat.le_refl _
        | exact Nat.le_succ _
        | with_reducible assumption
        | with_reducible apply State.writePlain_keeps
        | with_reducible apply State.set_keeps
        | with_reducible apply State.noSyncPort_keeps)
    | with_reducible refine Keeps.ite ?_ ?_
    | split
    | dsimp only

theorem State.writeLease_keeps {s0 s : State} (h : Keeps s0 s) (v : Word) :
    Keeps s0 (s.writeLease v) := by
  unfold State.writeLease
  repeat' first
    | with_reducible assumption
    | with_reducible apply State.writePlain_keeps
    | with_reducible apply State.leaseRequest_keeps
    | with_reducible apply State.set_keeps
    | (refine Keeps.of_fst ‹_ = (_, _)› ?_)
    | (refine Keeps.of_snd ‹_ = (_, _)› ?_)
    | with_reducible refine Keeps.ite ?_ ?_
    | split
    | dsimp only

theorem State.writeTwin_keeps {s0 s : State} (h : Keeps s0 s) (v : Word) :
    Keeps s0 (s.writeTwin v) := by
  unfold State.writeTwin
  repeat' first
    | with_reducible assumption
    | with_reducible apply State.writePlain_keeps
    | with_reducible apply State.twinPair_keeps
    | with_reducible apply State.twinUnpair_keeps
    | with_reducible apply State.twinRejoin_keeps
    | with_reducible apply State.partnerDown_keeps
    | with_reducible apply State.detachSelf_keeps
    | (with_reducible refine Keeps.put ?_ ?_ .. <;>
        first
        | exact Nat.le_refl _
        | exact Nat.le_succ _
        | with_reducible assumption
        | with_reducible apply State.writePlain_keeps
        | with_reducible apply State.twinPair_keeps
        | with_reducible apply State.twinUnpair_keeps
        | with_reducible apply State.twinRejoin_keeps
        | with_reducible apply State.partnerDown_keeps
        | with_reducible apply State.detachSelf_keeps)
    | with_reducible refine Keeps.ite ?_ ?_
    | split
    | dsimp only

theorem State.writePreemptAt_keeps {s0 s : State} (h : Keeps s0 s) (v : Word) :
    Keeps s0 (s.writePreemptAt v) := by
  unfold State.writePreemptAt
  repeat' first
    | with_reducible assumption
    | with_reducible apply State.set_keeps
    | with_reducible refine Keeps.ite ?_ ?_
    | split
    | dsimp only

theorem State.writeSigRange_keeps {s0 s : State} (h : Keeps s0 s) (k j : Nat) (v : Word) :
    Keeps s0 (s.writeSigRange k j v) := by
  unfold State.writeSigRange
  repeat' first
    | with_reducible assumption
    | with_reducible apply State.set_keeps
    | with_reducible apply State.sigEnable_keeps
    | with_reducible apply State.sigDisable_keeps
    | with_reducible refine Keeps.ite ?_ ?_
    | split
    | dsimp only

theorem State.writeMgr_keeps {s0 s : State} (h : Keeps s0 s) (a k : Nat) (v : Word) :
    Keeps s0 (s.writeMgr a k v) := by
  unfold State.writeMgr
  repeat' first
    | with_reducible assumption
    | with_reducible apply State.writeSigRange_keeps
    | with_reducible apply State.writePlain_keeps
    | with_reducible refine Keeps.ite ?_ ?_
    | split
    | dsimp only

theorem State.writeCmd_keeps {s0 s : State} (h : Keeps s0 s) (a : Nat) (v : Word) :
    Keeps s0 (s.writeCmd a v) := by
  unfold State.writeCmd
  repeat' first
    | with_reducible assumption
    | with_reducible apply State.ringEnable_keeps
    | with_reducible apply State.writePlain_keeps
    | with_reducible apply State.commandQuery_keeps
    | with_reducible apply State.heartbeat_keeps
    | with_reducible apply State.writeHead_keeps
    | with_reducible apply State.stepGrant_keeps
    | with_reducible apply State.writeTraceCtl_keeps
    | with_reducible apply State.writeTemplates_keeps
    | (with_reducible refine Keeps.put ?_ ?_ .. <;>
        first
        | exact Nat.le_refl _
        | exact Nat.le_succ _
        | with_reducible assumption
        | with_reducible apply State.ringEnable_keeps
        | with_reducible apply State.writePlain_keeps
        | with_reducible apply State.commandQuery_keeps
        | with_reducible apply State.heartbeat_keeps
        | with_reducible apply State.writeHead_keeps
        | with_reducible apply State.stepGrant_keeps
        | with_reducible apply State.writeTraceCtl_keeps
        | with_reducible apply State.writeTemplates_keeps)
    | with_reducible refine Keeps.ite ?_ ?_
    | split
    | dsimp only

theorem State.writeChip_keeps {s0 s : State} (h : Keeps s0 s) (a : Nat) (v : Word) :
    Keeps s0 (s.writeChip a v) := by
  unfold State.writeChip
  repeat' first
    | with_reducible assumption
    | with_reducible apply State.periodWrite_keeps
    | with_reducible apply State.writePlain_keeps
    | with_reducible apply State.writeSyncCtl_keeps
    | with_reducible apply State.imageOp_keeps
    | with_reducible apply State.writeSwapAt_keeps
    | with_reducible apply State.writePreemptAt_keeps
    | with_reducible apply State.writeLease_keeps
    | with_reducible apply State.writeTwin_keeps
    | with_reducible apply State.requestReset_keeps
    | with_reducible apply State.writeCmd_keeps
    | with_reducible apply State.writeMgr_keeps
    | with_reducible refine Keeps.ite ?_ ?_
    | split
    | dsimp only

theorem State.writeFar_keeps {s0 s : State} (h : Keeps s0 s) (a : Nat) (v : Word) :
    Keeps s0 (s.writeFar a v) := by
  unfold State.writeFar
  repeat' first
    | with_reducible assumption
    | with_reducible apply State.mbxWrite_keeps
    | with_reducible apply State.writePlain_keeps
    | with_reducible apply State.showCap_keeps
    | with_reducible apply State.showSample_keeps
    | with_reducible refine Keeps.ite ?_ ?_
    | split
    | dsimp only

theorem State.registerWrite_keeps {s0 s : State} (h : Keeps s0 s) (a : Nat) (v : Word) :
    Keeps s0 (s.registerWrite a v) := by
  unfold State.registerWrite
  repeat' first
    | with_reducible assumption
    | with_reducible apply State.unmapped_keeps
    | with_reducible apply State.writeFar_keeps
    | with_reducible apply State.writeBlk_keeps
    | with_reducible apply State.writeRgn_keeps
    | with_reducible apply State.writeChip_keeps
    | with_reducible refine Keeps.ite ?_ ?_
    | split
    | dsimp only

end Sys2Proof.Machine
end

