-- ==== Sys2Proof/WellFormed.lean ====
section
/-! DEFINITION. Which commands the module's interfaces can carry. Register numbers, unit numbers and field values with a fixed range have
that range in their types; the checks here are on what is left. Every command has a meaning whether or not it is well formed. -/

namespace Sys2Proof

/-- What the hardware can do to a stride-program operation (R87): it stops with one of the codes that it detects by itself; code 0x06
comes from the word, not from the hardware. A repeated row is one of a STREAM's 1,024 at most. -/
def EngineHw.wf : EngineHw → Bool
  | .none => true
  | .ecc _ => true
  | .retry row _ => decide (row < 1024)
  | .stop code _ _ => code == 2 || code == 3 || code == 4 || code == 5 || code == 7

/-- Whether a command's operands lie in the ranges that the spec gives them: tier addresses (R236, R240, R473), whole lines of a bulk
copy (R366), lease codes (R356), the 32-byte nonce of ATTEST (R421), the fields of a sync trace record (R448), aligned 8-byte
registers and narrower accesses (R5), timestamps in order (R52). -/
def Instr.wf : Instr → Bool
  | .syncExchange t1 t2 t3 t4 => decide (t1 ≤ t4) && decide (t2 ≤ t3)
  | .syncAnswer _ _ t2 t3 => decide (t2 ≤ t3)
  | .nop _ hw => hw.wf
  | .loadw _ hw => hw.wf
  | .stream _ hw => hw.wf
  | .drain _ hw => hw.wf
  | .anchor _ hw => hw.wf
  | .convert _ hw => hw.wf
  | .strideSend _ hw => hw.wf
  | .combine _ hw => hw.wf
  | .strideTally _ hw => hw.wf
  | .waittag _ hw => hw.wf
  | .splice _ hw => hw.wf
  | .uncorrectableError ddr addr _ _ => decide (addr < (if ddr then 2 ^ 43 else 2 ^ 40))
  | .leaseAcquire code _ _ => decide (code.val < 12)
  | .leaseRelease code _ => decide (code.val < 12)
  | .yokeWrite ddr addr lines => decide (addr < (if ddr then 2 ^ 43 else 2 ^ 40)) && addr % 64 == 0 && lines.length % 64 == 0
  | .attest _ _ nonce => nonce.length == 32
  | .traceRecord _ kind unit source tag idx start dur => decide (kind < 12) && decide (unit < 14) && decide (source < 2048) && decide (tag < 2 ^ 24) && decide (idx < 4096) && decide (start < 2 ^ 20) && decide (dur < 2 ^ 24)
  | .riderWindowAccess _ addr size data => decide (addr < 2 ^ 48) && decide (0 < size) && (data.isNone || data.any fun bs => bs.length == size)
  | .unmappedAccess addr _ => decide (addr < 2 ^ 48)
  | .narrowRegisterAccess addr size _ => decide (addr < 2 ^ 48) && (size == 1 || size == 2 || size == 4 || (size == 8 && addr % 8 != 0))
  | .registerWrite addr _ => decide (addr < 2 ^ 48) && addr % 8 == 0
  | .inputInRange | .inputOutOfRange | .moduleEnRise | .moduleEnFall | .resetNAssert .. | .resetNRelease |
    .bringupStepComplete .. | .beatIssue | .beatArrive .. | .strideAck .. | .regionAck .. | .tetherTimeout .. |
    .rejoinFailed | .portStateChange .. | .cadPeriodWrite .. | .groomInstruction .. | .groomLoad .. |
    .groomStore .. | .handleAccess .. | .rand .. | .groomSend .. | .recv .. | .poll .. | .handleRead .. |
    .handleRef .. | .handleOpen .. | .handleClose .. | .handleRebind .. | .handleBump .. | .groomTally .. |
    .balkchkQuery .. | .balkchkRetry .. | .balkchkDiscard .. | .yieldTurn .. | .yieldEnd .. | .fencewait .. |
    .hdlWrite .. | .pkhHeadWrite .. | .descriptorStart .. | .descriptorComplete .. | .tokenArrive .. |
    .fireListEntryStart .. | .freeNodeFire .. | .reinSelection .. | .cqContribute .. | .cqForward .. |
    .scanOut .. | .scanIn .. | .scanDone .. | .packetInject .. | .flitReceive .. | .packetHeaderArrive .. |
    .mergeEntryLeave .. | .gaitEntryServe .. | .multicastBranchSend .. | .packetAccept .. | .ackSend .. |
    .ackReceive .. | .echoReceive .. | .resendTimeout .. | .credit .. | .epochFlipStart .. |
    .epochFlipRequest | .flipDrained | .flipDrainTimeout | .messageArrive .. | .windowWriteArrive .. |
    .reoffer .. | .queueClose .. | .queueReopen .. | .windowCloseComplete .. | .windowCloseTimeout .. |
    .memRead .. | .memWrite .. | .memReply .. | .mgrCall .. | .gemv .. | .decodeAttend .. | .gather .. |
    .mgrCallComplete .. | .mgrResult .. | .refresh .. | .scrubBurst .. | .sigRangeEnable .. |
    .sigRangeDisable .. | .rowsigComplete .. | .ddr5Retraining .. | .imageLoad | .imageCommit .. |
    .imageStage | .stageComplete | .stageCancel | .imageWithdraw | .swapQuietWait | .swapQuiet |
    .swapQuietTimeout | .bistSliceStart .. | .bistSliceEnd .. | .diagnosticRunEnd .. | .mangerSlice .. |
    .testLapsed .. | .plannedSwap .. | .preemptInPlace .. | .shadowVerdict .. | .chipSweepRecord |
    .saddlebagComplete .. | .saddlebagInvalid | .recoveryStart .. | .blockRestore .. | .regionRecovery .. |
    .leaseGrant | .leaseStarved | .twinPair | .pairingTimeout | .twinUnpair | .twinRejoin | .twnPartnerDown |
    .detachSelf | .hello .. | .yokeAttest .. | .yokeTally .. | .yokeAdmit .. | .yokeInput .. | .save .. |
    .btally .. | .yokeState .. | .quiet .. | .comparisonTimeout | .yokePortLost .. | .twinDetChange .. |
    .commandFetch | .cmdNop | .launch | .admitJob | .admitDeliver | .endCmd | .waitCmd | .jobEnd |
    .completionPost | .commandQuery .. | .stepGrant .. | .ringEnable .. | .heartbeat .. | .riderSilent |
    .traceCtlWrite .. | .templateReload .. | .frameReceive .. | .frameTransmit .. | .outputFrame .. |
    .fabricFrameReceive .. | .fabricRetransmit .. | .remoteRequest .. | .peerReset | .farrierRestart |
    .eventRecordIntake | .logFlush | .sensorRead .. | .sessionOpen .. | .getState .. | .subscribe .. |
    .logRead .. | .sensors .. | .studRead .. | .setConfig .. | .outOfService .. | .clear .. | .partnerDown .. |
    .packPush .. | .fwStage .. | .fwActivate .. | .fwCommit .. | .installAnchor .. | .installKey .. |
    .removeKey .. | .scanUnlock .. | .mbxLogRead | .mbxStudRead | .mbxLease | .mbxPartnerDown |
    .watchdogProbeMissed .. | .blockResetRequest .. | .regionResetRequest .. | .chipResetRequest |
    .traceStore .. | .railsOff | .riderBootStart | .farrierRestartDone | .tapInstruction .. => true

end Sys2Proof
end

