-- ==== Sys2Proof/Tests/Slice0.lean ====
section
/-! SUPPORT. The model's own tests: an ill-formed command for each check, words and numbers written out from the spec's encodings, and one
concrete state for the hypotheses of each statement. -/

namespace Sys2Proof.Machine

/-- An engine stop with code 0x06 is the decoder's, not the hardware's. -/
theorem test_wf_engine_stop : (Instr.nop 0 (.stop 6 0 0)).wf = false := by decide
/-- No STREAM has a row 1,024. -/
theorem test_wf_engine_retry : (Instr.stream 0 (.retry 1024 0)).wf = false := by decide
/-- The HBM4 tier ends at 2^40. -/
theorem test_wf_hbm_address : (Instr.uncorrectableError false (2 ^ 40) false none).wf = false := by decide
/-- The DDR5 tier ends at 2^43. -/
theorem test_wf_ddr_address : (Instr.uncorrectableError true (2 ^ 43) false none).wf = false := by decide
/-- A bulk copy writes whole lines. -/
theorem test_wf_yoke_write : (Instr.yokeWrite true 0 [0]).wf = false := by decide
/-- A bulk copy starts on a line. -/
theorem test_wf_yoke_write_start : (Instr.yokeWrite true 8 []).wf = false := by decide
/-- R356 has no lease code 12. -/
theorem test_wf_lease : (Instr.leaseAcquire 12 0 false).wf = false := by decide
/-- R356 has no lease code 12 to release. -/
theorem test_wf_lease_release : (Instr.leaseRelease 12 0).wf = false := by decide
/-- The nonce has 32 bytes. -/
theorem test_wf_nonce : (Instr.attest 0 0 [0]).wf = false := by decide
/-- R448 has no kind 12. -/
theorem test_wf_trace_kind : (Instr.traceRecord 0 12 0 0 0 0 0 0).wf = false := by decide
/-- R448 has no waiting unit 14. -/
theorem test_wf_trace_unit : (Instr.traceRecord 0 0 14 0 0 0 0 0).wf = false := by decide
/-- A store brings as many bytes as it stores. -/
theorem test_wf_rider_data : (Instr.riderWindowAccess 0 0 2 (some [1])).wf = false := by decide
/-- An access has at least one byte. -/
theorem test_wf_rider_size : (Instr.riderWindowAccess 0 0 0 none).wf = false := by decide
/-- The Rider's addresses have 48 bits. -/
theorem test_wf_unmapped : (Instr.unmappedAccess (2 ^ 48) true).wf = false := by decide
/-- An aligned access of 8 bytes is not narrow. -/
theorem test_wf_narrow : (Instr.narrowRegisterAccess 8 8 true).wf = false := by decide
/-- A register has an aligned address. -/
theorem test_wf_register : (Instr.registerWrite 4 0).wf = false := by decide
/-- A set of timestamps runs forward at the follower. -/
theorem test_wf_sync : (Instr.syncExchange 2 0 0 1).wf = false := by decide
/-- A set of timestamps runs forward at the source. -/
theorem test_wf_sync_answer : (Instr.syncAnswer 0 0 2 1).wf = false := by decide

/-! ### Words written out from the spec's encodings (R74 to R84, R123) -/

/-- R74: op 0x0, n 5. -/
theorem test_word_nop : SOp.decode (0#4 ++ 5#12 ++ 0#48) = some (.nop 5) := by decide
/-- R75: op 0x1, wfmt 2, trans, sparse, mask, line, meta_bank, meta_line. -/
theorem test_word_loadw : SOp.decode (1#4 ++ 2#4 ++ 1#1 ++ 0#1 ++ 0xA5#8 ++ 1023#10 ++ 6#3 ++ 513#10 ++ 0#23) =
    some (.loadw .mx8e4m3 true false 0xA5 1023 6 513) := by decide
/-- R76: op 0x2, afmt 7, swap, clear, os, bank, line, count, slot, sbank, sline, wfmt. -/
theorem test_word_stream : SOp.decode (2#4 ++ 7#4 ++ 1#1 ++ 0#1 ++ 1#1 ++ 5#3 ++ 700#10 ++ 9#10 ++ 0#6 ++ 3#3 ++ 800#10 ++ 8#4 ++ 0#7) =
    some (.stream .int8 true false true 5 700 9 0 3 800 8) := by decide
/-- R77: op 0x3, slot, rows, mask, line, keep. -/
theorem test_word_drain : SOp.decode (3#4 ++ 33#6 ++ 31#7 ++ 0x81#8 ++ 77#10 ++ 1#1 ++ 0#28) = some (.drain 33 31 0x81 77 true) := by decide
/-- R78: op 0x4, src, bank, line, anchor. -/
theorem test_word_anchor : SOp.decode (4#4 ++ 0#1 ++ 2#3 ++ 9#10 ++ 0xFFF0#16 ++ 0#30) = some (.anchor false 2 9 0xFFF0) := by decide
/-- R79: op 0x5, ofmt, sr, clip, scale, bias, slot, rows, pbank, pline, mask, line. -/
theorem test_word_convert : SOp.decode (5#4 ++ 11#4 ++ 1#1 ++ 0#1 ++ 1#1 ++ 0#1 ++ 4#6 ++ 60#7 ++ 7#3 ++ 1015#10 ++ 3#8 ++ 12#10 ++ 0#8) =
    some (.convert .f32 true false true false 4 60 7 1015 3 12) := by decide
/-- R80: op 0x6, vc, mcast, dest, queue, lines, bank, line, tag. -/
theorem test_word_send : SOp.decode (6#4 ++ 1#1 ++ 0#1 ++ 1199#11 ++ 239#8 ++ 0#5 ++ 4#3 ++ 992#10 ++ 0xBEEF#16 ++ 0#5) =
    some (.send 1 false 1199 239 0 4 992 0xBEEF) := by decide
/-- R81: op 0x7, src, dest, cq, slot, rows, bank, line, tag, keep. -/
theorem test_word_combine : SOp.decode (7#4 ++ 0#1 ++ 1000#11 ++ 15#4 ++ 8#6 ++ 56#7 ++ 0#3 ++ 0#10 ++ 0x1234#16 ++ 1#1 ++ 0#1) =
    some (.combine false 1000 15 8 56 0 0 0x1234 true) := by decide
/-- R82: op 0x8, bank, line, lines. -/
theorem test_word_tally : SOp.decode (8#4 ++ 3#3 ++ 512#10 ++ 512#11 ++ 0#36) = some (.tally 3 512 512) := by decide
/-- R83: op 0x9, queue, tag, setp, pred. -/
theorem test_word_waittag : SOp.decode (9#4 ++ 17#8 ++ 0x0102#16 ++ 1#1 ++ 2#2 ++ 0#33) = some (.waittag 17 0x0102 true 2) := by decide
/-- R84: op 0xA, pred, dbank, dline, abank, aline, bbank, bline, lines. -/
theorem test_word_splice : SOp.decode (10#4 ++ 3#2 ++ 1#3 ++ 10#10 ++ 2#3 ++ 20#10 ++ 4#3 ++ 40#10 ++ 0#10 ++ 0#9) =
    some (.splice 3 1 10 2 20 4 40 0) := by decide
/-- R72: opcode 0xB is not used; a reserved bit of a NOP must be zero. -/
theorem test_word_refused : SOp.decode (11#4 ++ 0#60) = none ∧ SOp.decode (0#4 ++ 5#12 ++ 1#48) = none := by decide
/-- R123: major 0x3E, func 5 (BALKCHK), a, b, c, imm 2 (discard). -/
theorem test_word_balkchk : GrmSpecial.decode (0x3E#6 ++ 5#4 ++ 3#5 ++ 30#5 ++ 0#5 ++ 2#7) = some ⟨5, 3, 30, 0, 2⟩ := by decide

/-! ### For each statement, states and operands that meet its hypotheses -/

/-- A module whose block 0 is `b`. -/
def withB (b : Block) : State := { State.reset with blocks := [(0, b)] }

/-- A module in device state `d` with register fields at values. -/
def withR (d : Nat) (l : List (Fld × Nat)) : State := l.foldl (fun s x => s.set x.1 x.2) { State.reset with dev := d }

/-- A block with register fields at values. -/
def Block.withR (b : Block) (l : List (Fld × Nat)) : Block := l.foldl (fun b x => b.set x.1 x.2) b

/-- A block at work whose next word is an operation's. -/
def runs (o : SOp) : Block := { working := true, program := [o.encode] }

/-- Such a block starts it. -/
theorem runs_starts (o : SOp) (h : SOp.decode o.encode = some o) : ((withB (runs o)).block 0).Starts o :=
  ⟨rfl, rfl, by rw [show ((withB (runs o)).block 0).get BLK_DRG_STATUS.state = 0 from rfl]; decide, o.encode, rfl, h⟩

theorem test_met_IdleStep : State.reset.pending = [] ∧ State.reset.far.reading = false := by decide
theorem test_met_StepKeepsInv : State.reset.Inv ∧ Sys2Proof.Machine.step State.reset = .next { State.reset with now := 1 } :=
  ⟨⟨by decide, by decide, by decide⟩, rfl⟩
/-- A retired block (kind 1), and a DRAM row once repaired (kind 4, info 2), are permanent. -/
theorem test_met_PermanentFacts : let s : State := { State.reset with stud := [⟨1, 0, 0, 0⟩, ⟨4, 0, 2, 0⟩] }
    Sys2Proof.Machine.step s = .next { s with now := 1 } ∧ ∀ x ∈ s.stud, x.permanent = true := ⟨rfl, by decide⟩
/-- Each field at its largest. -/
theorem test_met_StrideWords : (SOp.stream .e4m3 true true true 7 1023 1023 63 7 1023 10).wf = true ∧
    (SOp.splice 3 7 1023 7 1023 7 1023 1023).wf = true ∧ (SOp.send 1 true 2047 255 31 7 1023 65535).wf = true ∧ (SOp.nop 0).wf = true := by decide
theorem test_met_GroomSpecial : (GrmSpecial.mk 15 31 31 31 127).wf = true ∧ (GrmSpecial.mk 0 0 0 0 0).wf = true := by decide

theorem test_met_NopAnchorTally : ((withB (runs (.nop 4095))).block 0).Starts (.nop 4095) ∧
    ((withB (runs (.anchor false 0 0 0xFFFF))).block 0).Starts (.anchor false 0 0 0xFFFF) ∧
    ((withB (runs (.anchor true 7 1022 0))).block 0).Starts (.anchor true 7 1022 0) ∧
    ((withB (runs (.tally 7 0 1024))).block 0).Starts (.tally 7 0 1024) ∧ ((withB (runs (.tally 7 0 1024))).block 0).gather = [] :=
  ⟨runs_starts _ (by decide), runs_starts _ (by decide), runs_starts _ (by decide), runs_starts _ (by decide), rfl⟩

/-- One row of slot 63 to the last 24 lines; 64 rows of binary32 with parameters on the last 9 lines; 1,024 lines. -/
theorem test_met_ScratchWrites : ((withB (runs (.drain 63 1 1 1000 false))).block 0).Starts (.drain 63 1 1 1000 false) ∧
    slotsOk 63 1 = true ∧ spreadOk 1 1000 24 = true ∧
    ((withB (runs (.convert .f32 true true true true 0 64 7 1015 1 768))).block 0).Starts (.convert .f32 true true true true 0 64 7 1015 1 768) ∧
    slotsOk 0 64 = true ∧ spreadOk 1 768 (64 * Fmt.f32.rowLines) = true ∧
    ((withB (runs (.splice 3 0 0 1 0 2 0 0))).block 0).Starts (.splice 3 0 0 1 0 2 0 0) ∧ 0 + zeroMeans 0 1024 ≤ 1024 :=
  ⟨runs_starts _ (by decide), by decide, by decide, runs_starts _ (by decide), by decide, by decide, runs_starts _ (by decide), by decide⟩

/-- A sparse MX tile into the empty shadow; 64 rows of an E4M3 tile; two-line rows of a BF16 tile from an even line; rows with scales. -/
theorem test_met_LoadwStream : ((withB (runs (.loadw .mx8e4m3 false true 0xFF 1000 7 900))).block 0).Starts (.loadw .mx8e4m3 false true 0xFF 1000 7 900) ∧
    sparseOk .mx8e4m3 = true ∧ spreadOk 0xFF 1000 (tileLines .mx8e4m3) = true ∧
    900 + (scaleLines .mx8e4m3 true + indexLines .mx8e4m3 true) ≤ 1024 ∧
    (let b := { runs (.stream .e5m2 false true false 7 960 64 0 0 0 0) with eng := { active := some ⟨.e4m3, false, false, [], []⟩ } }
     ((withB b).block 0).Starts (.stream .e5m2 false true false 7 960 64 0 0 0 0) ∧ pairOk .e4m3 .e5m2 = true) ∧
    (let b := { runs (.stream .bf16 true false false 7 896 64 0 0 0 0) with eng := { shadow := some ⟨.bf16, false, false, [], []⟩ } }
     ((withB b).block 0).Starts (.stream .bf16 true false false 7 896 64 0 0 0 0) ∧ pairOk .bf16 .bf16 = true ∧ 896 + 2 * 64 ≤ 1024) ∧
    pairOk .mx8e4m3 .mx8e4m3 = true ∧ 0 + ceilDiv (64 * (coveredK .mx8e4m3 true / 32)) 64 ≤ 1024 :=
  ⟨runs_starts _ (by decide), by decide, by decide, by decide, ⟨⟨rfl, rfl, by decide, _, rfl, by decide⟩, by decide⟩,
    ⟨⟨rfl, rfl, by decide, _, rfl, by decide⟩, by decide, by decide⟩, by decide, by decide⟩

/-- A block whose WAITTAG of control queue 239 finds its token `e` of tag 0, where `here` says so. -/
def waitsFor (here : Bool) : Block := { (runs (.waittag 239 0 true 3)).withR [(BLK_Q_CFG.kind 239, 1)] with
  nodes := [⟨4, 1, 0, 0, 0, 0, 0⟩], ctxs := if here then [⟨0, 0, 0, 1, false, false⟩] else [],
  queue := if here then [⟨239, 0, 0, false, 1, 0, [1], none, true, false⟩] else [] }

theorem test_met_SendCombineWaittag : ((withB (runs (.send 1 false 1199 239 0 7 992 0))).block 0).Starts (.send 1 false 1199 239 0 7 992 0) ∧
    ((withB (runs (.send 0 true 63 0 1 0 1023 0))).block 0).Starts (.send 0 true 63 0 1 0 1023 0) ∧
    ((withB (runs (.combine true 1199 15 0 42 7 16 0 false))).block 0).Starts (.combine true 1199 15 0 42 7 16 0 false) ∧
    ((withB (runs (.combine false 0 0 0 64 0 0 0 false))).block 0).Starts (.combine false 0 0 0 64 0 0 0 false) ∧
    ((withB (waitsFor false)).block 0).Starts (.waittag 239 0 true 3) ∧ (waitsFor false).qKind 239 = 1 ∧
    ((waitsFor false).node? ((waitsFor false).qNode 239)).map NodeRec.kind = some 4 ∧
    (waitsFor false).complete ((waitsFor false).qNode 239) (formTag 0 0) = false ∧
    (waitsFor true).complete ((waitsFor true).qNode 239) (formTag 0 0) = true ∧
    (waitsFor true).inputEntry ((waitsFor true).qNode 239) 0 (formTag 0 0) = some ⟨239, 0, 0, false, 1, 0, [1], none, true, false⟩ :=
  ⟨runs_starts _ (by decide), runs_starts _ (by decide), runs_starts _ (by decide), runs_starts _ (by decide),
    ⟨by decide, by decide, by decide, _, rfl, by decide⟩, by decide, by decide, by decide, by decide, by decide⟩

theorem test_met_StrideStops : (let b : Block := { working := true, program := [BitVec.allOnes 64] }
      b.working = true ∧ b.fenced = false ∧ b.get BLK_DRG_STATUS.state ≠ 5 ∧ b.program[b.eng.next]? = some (BitVec.allOnes 64) ∧
        SOp.decode (BitVec.allOnes 64) = none) ∧
    (runs (.nop 0)).program[(runs (.nop 0)).eng.next]? = some 0 ∧ SOp.decode 0 = some (.nop 0) ∧ 0xFF < 256 := by decide

/-- Thread 0 of block 0, ready to issue, with registers at values. -/
def ready (g : List (Nat × Word)) : Block := { threads := [(0, { state := 1, g := g })] }

theorem test_met_GroomResult : ((withB (ready [])).block 0).canIssue 0 = true := by decide
/-- Handle 63, named by register 2: without mg; closed, open, and neither. -/
theorem test_met_GroomHandles : let b := fun l => (ready [(2, 63)]).withR l
    (bitsOf (((b []).thread 0).rd 2) 5 0 = 63 ∧ (b []).canIssue 0 = true ∧ (b []).get (HDL_CTL.mg 63) = 0) ∧
    (let c := b [(HDL_CTL.mg 63, 1), (HDL_CTL.wr 63, 1)]
     c.canIssue 0 = true ∧ c.get (HDL_CTL.mg 63) = 1 ∧ c.get (HDL_CTL.wr 63) = 1 ∧ c.get (HDL_CTL.tier 63) ≠ 3 ∧ c.get (HDL_CTL.closing 63) = 0 ∧ c.exposed 63 = false) ∧
    (let c := b [(HDL_CTL.mg 63, 1), (HDL_CTL.window 63, 1)]
     c.canIssue 0 = true ∧ c.get (HDL_CTL.mg 63) = 1 ∧ c.get (HDL_CTL.window 63) = 1 ∧ c.get (HDL_CTL.closing 63) = 0) := by decide
/-- The last 16 bytes of the scratchpad; the first byte after it; a misaligned halfword; a bank with 15 gatherer entries. -/
theorem test_met_GroomLoadStore : let th := (ready [(2, 0x7FFF0), (3, 0x80000), (4, 1)]).thread 0
    let b : Block := { ready [(2, 0x7FFF0)] with gather := (List.range 15).map fun i => ⟨7, i, [], [], 1⟩ }
    ((th.rd 2 + 0).toNat % GSize.b16.bytes = 0 ∧ (th.rd 2 + 0).toNat < 0x80000) ∧ 0x80000 ≤ (th.rd 3 + 0).toNat ∧ (th.rd 4 + 0).toNat % GSize.b2.bytes ≠ 0 ∧
      (b.canIssue 0 = true ∧ (∀ e ∈ b.gather, spadAddr e.bank e.line ≠ 0x7FFF0 / 64 * 64) ∧ (b.gather.filter fun e => e.bank == 0x7FFF0 / 65536).length < 16) := by
  decide
/-- Handle 0 through a reference of generation 0: not valid; another generation; no permission; a byte past its end; a scratch, an HBM4 and a
DDR5 handle read at their last 8 bytes. -/
theorem test_met_HandleAccess : let b := fun l => (ready [(2, 0), (3, 56)]).withR l
    let v := fun (tier : Nat) => b [(HDL_CTL.valid 0, 1), (HDL_CTL.rd 0, 1), (HDL_CTL.tier 0, tier), (HDL_LEN.length 0, 64)]
    (b []).get (HDL_CTL.valid 0) = 0 ∧ (b [(HDL_CTL.gen 0, 1)]).get (HDL_CTL.gen 0) ≠ nbits 0 15 8 ∧ (v 0).get (HDL_CTL.wr 0) = 0 ∧
      (v 0).get (HDL_LEN.length 0) < 57 + GSize.b8.bytes ∧
      ∀ tier ∈ [0, 1, 2], (v tier).canIssue 0 = true ∧ (v tier).get (HDL_CTL.valid 0) = 1 ∧ (v tier).get (HDL_CTL.gen 0) = nbits 0 15 8 ∧
        (v tier).get (HDL_CTL.rd 0) = 1 ∧ ((((v tier).thread 0).rd 3 + 0).toNat + GSize.b8.bytes ≤ (v tier).get (HDL_LEN.length 0)) ∧
        (((v tier).thread 0).rd 3 + 0).toNat % GSize.b8.bytes = 0 ∧ (v tier).get (HDL_CTL.tier 0) = tier := by decide

theorem test_met_Balkchk : let b : Block := { threads := [(0, { state := 1, g := [(2, 3)], outbox := [(3, { st := 3, dst := 5 })] })] }
    b.canIssue 0 = true ∧ b.gather = [] ∧ (let i := bitsOf ((b.thread 0).rd 2) 1 0
      i = 3 ∧ ((b.thread 0).slot i).st = 3 ∧ ((b.thread 0).slot 0).st ≠ 3) := by decide
/-- No free slot; the highest slot free; one waiting to offer again whose time has come. -/
theorem test_met_Send : let b := fun (o : List Nat) => ({ threads := [(0, ({ state := 1, g := [(2, 1199), (3, 64)], outbox := o.map fun i => (i, { st := 2, due := 0 }) } : Thread))] } : Block)
    ((b [0, 1, 2, 3]).canIssue 0 = true ∧ ∀ i < 4, (((b [0, 1, 2, 3]).thread 0).slot i).st ≠ 0) ∧
      ((((b [0, 1, 2]).thread 0).slot 3).st = 0 ∧ ∀ j < 3, (((b [0, 1, 2]).thread 0).slot j).st ≠ 0) ∧
      (SendSrc.ofWord (((b []).thread 0).rd 3)).src % 64 = 0 ∧ (SendDest.ofWord (((b []).thread 0).rd 2)).dest < 1200 ∧
      (b []).taskArc ((b []).thread 0) false (SendDest.ofWord (((b []).thread 0).rd 2)) = none ∧ (b [0]).halted = false ∧
      (((b [0]).thread 0).slot 0).due ≤ State.reset.now ∧
      ∀ n ∈ [0, 1], let c : Block := { b [] with arcs := [{ outbound := true, vc := 0, mcast := false, manger := false, producer := 0, dest := 1199, queue := 0, output := 0, share := n, match_ := 0 }] }
        c.taskArc (c.thread 0) false (SendDest.ofWord ((c.thread 0).rd 2)) = some 0 ∧ c.mayEmit 0 = (n == 1) := by decide
/-- Queue 239: no message queue; open and empty; with a message. -/
theorem test_met_Recv : let b : Block := ready [(2, 239), (3, 0x7FFC0)]
    let c := b.withR [(BLK_Q_CFG.kind 239, 2)]
    let d : Block := { c with queue := [⟨239, 0, 7, true, 2, 0, [], none, true, false⟩] }
    (∀ x ∈ [b, c, d], x.canIssue 0 = true ∧ ((x.thread 0).rd 3).toNat % 64 = 0 ∧ ((x.thread 0).rd 3).toNat < 0x80000 ∧ bitsOf ((x.thread 0).rd 2) 7 0 = 239) ∧
      b.mqOpen 239 = false ∧ c.mqOpen 239 = true ∧ c.messages 239 0 false = [] ∧ d.mqOpen 239 = true ∧ d.messages 239 0 true = [] ∧
      d.messages 239 7 true = [⟨239, 0, 7, true, 2, 0, [], none, true, false⟩] := by decide
/-- A thread that has nothing under way, one with each kind of work; a TALLY up to the last line. -/
theorem test_met_FenceEndTally : let b := fun (th : Thread) => ({ threads := [(0, { th with state := 1 })] } : Block)
    let u : Block := { b {} with mesh := { sendq := [{ pkt := { kind := 1 }, idx := 0, owner := .outbox 0 0 }] } }
    ((b {}).canIssue 0 = true ∧ ((b {}).thread 0).stores = [] ∧ ((b {}).thread 0).posted = [] ∧ (b {}).mesh.sendq = []) ∧
      ((b { stores := [1] }).thread 0).stores ≠ [] ∧ ((b { posted := [1] }).thread 0).posted ≠ [] ∧ (∃ h ∈ u.mesh.sendq, h.owner = .outbox 0 0) ∧
      (let th := (ready [(2, 0x7FFC0), (3, 1)]).thread 0
       (th.rd 2).toNat % 64 = 0 ∧ (th.rd 2).toNat + 64 * (th.rd 3).toNat ≤ 0x80000 ∧ (th.rd 2).toNat < 0x80000) := by decide
/-- Operand values zero, 63 and 64; the first and last offsets of the ranges that a groom may write, and their neighbours. -/
theorem test_met_GroomInstruction : (ready [(2, 0), (3, 63)]).canIssue 0 = true ∧ ((ready [(2, 0), (3, 63)]).thread 0).rd 2 = 0 ∧
    (((ready [(2, 0), (3, 63)]).thread 0).rd 3).toNat < 64 ∧ 0x3FF8 < 0x4000 ∧ 0x3FF8 % 8 = 0 ∧
    ∀ off ∈ [0x1FF8, 0x2880, 0x28F8, 0x2A00], ¬ (0x2000 ≤ off ∧ off < 0x2880) ∧ ¬ (0x2900 ≤ off ∧ off < 0x2A00) := by decide

/-- A 16-entry ring, served; its last descriptor advanced to its first. -/
theorem test_met_PackhorseRing : let b := ({} : Block).withR [(PKH_RING.enable, 1), (PKH_RING.lg_size, 4), (PKH_HEAD.index, 15)]
    b.ringServed = true ∧ bitsOf 0 7 0 = (b.get PKH_HEAD.index + 1) % b.ringSize ∧ b.get PKH_HEAD.index < b.ringSize := by decide
/-- A descriptor of a firing: with an op not used, and a FILL of one line of the scratch handle 0. -/
theorem test_met_Descriptors : let d : Desc := ⟨1, 0, 0, 1, 0, 0, 64, 0, 0, 0, 0, 7, true⟩
    let bad : PJob := { fromRing := false, index := 0, desc := { d with ctl := 15 } }
    let good : PJob := { fromRing := false, index := 0, desc := d }
    let b := fun (j : PJob) => ({ jobs := [j] } : Block).withR [(HDL_CTL.valid 0, 1), (HDL_CTL.wr 0, 1), (HDL_LEN.length 0, 64)]
    ((b bad).nextJob false = some bad ∧ (b bad).descStatus bad.desc ≠ 0) ∧
      ((b good).nextJob false = some good ∧ (b good).descStatus d = 0 ∧ (b good).isCall d = false ∧ d.op = 1 ∧ (b good).get (HDL_CTL.tier (nbits d.dst 5 0)) = 0) ∧
      (let j : PJob := { fromRing := true, index := 3, desc := d, started := true }
       (b j).readyJob true = some j ∧ j.desc.token = false) := by decide

/-- A queue for data tokens of up to 2 lines with 2 entries, one of which may be taken. -/
def dataQ (queue : List QEntry) (ctxs : List Ctx) (k : Pkt) : Block :=
  { (({} : Block).withR [(BLK_Q_CFG.kind 239, 1), (BLK_Q_CFG.depth 239, 1), (BLK_Q_CFG.lines 239, 1)]) with
    queue := queue, ctxs := ctxs, mesh := { inbox := [k] } }

/-- The faults of R170; no free entry; a first and a second input of a tag; a CREDIT for an arc of share 2. -/
theorem test_met_Tokens : let k : Pkt := { kind := kTOKEN, isData := true, qid := 239, tag := 5 }
    let e := fun n tag => (⟨239, n, tag, true, 1, 0, [], none, false, false⟩ : QEntry)
    (dataQ [] [] k).qKind 0 ≠ 1 ∧ (dataQ [] [] k).qCtl 239 ≠ k.isData ∧ (dataQ [] [] k).qCtl 239 = ({ k with isData := false } : Pkt).isData ∧
      (dataQ [] [] k).qLines 239 < 3 ∧ ¬ (dataQ [] [] k).qLines 239 < ceilDiv 128 64 ∧
      (∃ x ∈ (dataQ [e 0 5] [] k).queue, x.q = 239 ∧ x.tag = 5) ∧ (∀ x ∈ (dataQ [e 0 6] [] k).queue, ¬ (x.q = 239 ∧ x.tag = 5)) ∧
      (dataQ [e 0 6, e 1 7] [] k).freeEntryOf 239 = none ∧ (dataQ [e 0 6] [] k).freeEntryOf 239 = some 1 ∧
      ((dataQ [] [⟨0, 0, 5, 1, false, false⟩] k).ctxs.any fun c => c.node == (dataQ [] [] k).qNode 239 && c.tag == 5) = true ∧
      (dataQ [] [] k).node? ((dataQ [] [] k).qNode 239) = none ∧
      (∀ quota ∈ [0, 1], ∀ kind ∈ [1, 3], let n : NodeRec := ⟨kind, 1, quota, 0, 0, 0, 0⟩
        let b : Block := { dataQ [] [] k with nodes := [n] }
        b.node? (b.qNode 239) = some n ∧ b.freeCtx (b.qNode 239) n = some (quota == 1, 0)) := by decide
/-- A CREDIT without an echo and with one (bit 1 of byte 2). -/
theorem test_met_CreditEcho : nbit (leAt ([0, 0, 0] : List Byte) 2 1) 1 = false ∧ nbit (leAt ([0, 0, 2] : List Byte) 2 1) 1 = true := by decide
theorem test_met_Credit : let b : Block := { arcs := [⟨true, 0, false, false, 0, 0, 0, 0, 2, 0, []⟩], mesh := { inbox := [{ kind := kCREDIT, seq := 1 }] } }
    b.mesh.inbox.map Pkt.kind = [kCREDIT] ∧ b.arcs[leAt [] 0 2]?.isSome = true := ⟨rfl, rfl⟩

/-- A listed task node of one input, which its token completes or not, with thread 3 of groom 0 the only one idle. -/
theorem test_met_FireList : let ths : Cells Thread := (List.range 3).map fun i => (i, { state := 1 })
    let b := fun (cs : List Ctx) =>
      ({ working := true, fireList := [(0, 9)], nodes := [⟨1, 1, 0, 0, 0, 0, 0⟩], tasks := [⟨true, 100, 0, []⟩], ctxs := cs, threads := ths } : Block)
    let no := b []
    let yes := b [⟨0, 0, 9, 1, false, false⟩]
    yes.schedulerRuns = true ∧ yes.fireList[yes.flPos]? = some (0, 9) ∧ no.complete 0 (formTag 0 9) = false ∧
      yes.complete 0 (formTag 0 9) = true ∧ yes.node? 0 = some ⟨1, 1, 0, 0, 0, 0, 0⟩ ∧ yes.idleThread 0 = some 3 := by decide
/-- A complete free move node; a complete steer point in GATE whose predicate is 0 or 1, with an arc of one credit to another block. -/
theorem test_met_FreeAndRein : let m : Block := { nodes := [⟨2, 1, 0, 0, 0, 0, 0⟩], ctxs := [⟨0, 0, 9, 1, false, false⟩], templates := [Desc.ofBytes []] }
    let q := ({} : Block).withR [(BLK_Q_CFG.kind 0, 1), (BLK_Q_CFG.kind 1, 1), (BLK_Q_CFG.input 1, 1)]
    let g := fun (pred : Byte) (share : Nat) => ({ q with
        nodes := [⟨3, 2, 0, 63, 1, 0, 0⟩], ctxs := [⟨0, 0, 9, 3, true, false⟩], arcs := [⟨true, 0, false, false, 0, 7, 5, 0, share, 0, []⟩],
        queue := [⟨0, 0, 9, false, 0, 0, [pred], none, true, false⟩, ⟨1, 0, 9, false, 0, 0, [4], none, true, false⟩] } : Block)
    (m.schedulerRuns = true ∧ m.complete 0 9 = true ∧ m.isListed 0 = false ∧ m.freeTime = true ∧ m.activeJobs < 4 ∧ m.templates[0]?.isSome = true) ∧
      ∀ pred ∈ [0, 1], ∀ share ∈ [0, 1], let b := g pred share
        b.schedulerRuns = true ∧ b.complete 0 9 = true ∧ b.isListed 0 = false ∧ b.freeTime = true ∧ b.reinJob = none ∧
        (b.inputEntry 0 0 9).map QEntry.bytes = some [pred] ∧ (b.inputEntry 0 1 9).map QEntry.bytes = some [4] ∧
        b.outputArc 0 0 = some 0 ∧ b.mayEmit 0 = (share == 1) ∧ 7 ≠ b.lblock := by decide

/-- Combining queue 15, anchored or loose: off, on with no slot open, and with slot 0 open for key 0 at one contribution of `n`. -/
def combQ (on mode n : Nat) (held : List CqSlot) : Block :=
  { (({} : Block).withR [(BLK_CQ_CFG.enable 15, on), (BLK_CQ_CFG.mode 15, mode), (BLK_CQ_FWD.count 15, n)]) with
    cqs := held, arcs := [⟨true, 0, false, false, 0x8001, 7, 5, 15, 1, 0, []⟩],
    mesh := { inbox := [{ kind := kREDUCE, qid := 255, parts := 1 }] } }

theorem test_met_Combining : let x : CqSlot := ⟨15, 0, 0, 1, false⟩
    ((combQ 0 0 1 []).get (BLK_CQ_CFG.enable 15) = 0 ∧ (combQ 1 0 0 []).get (BLK_CQ_FWD.count 15) < 1 ∧ 1 ≤ (combQ 1 0 1 []).get (BLK_CQ_FWD.count 15) ∧
      ceilDiv 1536 64 = 24 ∧ ceilDiv 256 64 = 4 ∧ (combQ 1 1 1 []).get (BLK_CQ_CFG.mode 15) = 1 ∧ zeroMeans ((combQ 1 0 1 []).get (BLK_CQ_CFG.slots 15)) 256 = 256) ∧
      ((combQ 1 0 1 [x]).cqs.find? fun y => y.cq == 15 && y.slot == 0) = some x ∧ x.key ≠ 1 ∧ (combQ 1 0 1 [x]).get (BLK_CQ_FWD.count 15) < x.count + 1 ∧
      x.count + 1 ≤ (combQ 1 0 2 [x]).get (BLK_CQ_FWD.count 15) ∧
      ((combQ 1 0 1 [x]).cqs.find? fun y => y.cq == 15 && y.count == (combQ 1 0 1 [x]).get (BLK_CQ_FWD.count 15) && !y.sent) = some x ∧
      (combQ 1 0 1 [x]).outputArc 0x8001 15 = some 0 ∧ (combQ 1 0 1 [x]).mayEmit 0 = true ∧ (combQ 1 0 1 [x]).get (BLK_CQ_CFG.convert 15) = 0 := by decide

/-- Message queue 239 of incarnation 1, with one entry of one line, free or taken. -/
theorem test_met_Messages : let b := fun (q : List QEntry) => ({ (({} : Block).withR [(BLK_Q_CFG.kind 239, 2), (BLK_Q_CFG.incarn 239, 1)]) with queue := q } : Block)
    (b []).mqOpen 238 = false ∧ (b []).mqOpen 239 = true ∧ 0 ≠ (b []).get (BLK_Q_CFG.incarn 239) ∧ 1 = (b []).get (BLK_Q_CFG.incarn 239) ∧
      (b []).qLines 239 < 2 ∧ 1 ≤ (b []).qLines 239 ∧ (b [⟨239, 0, 0, true, 1, 0, [], none, true, false⟩]).freeEntryOf 239 = none ∧ (b []).freeEntryOf 239 = some 0 := by decide
/-- A window of 64 bytes in handle 63: not open, open, without permission, and a write that ends at its end or one line beyond. -/
theorem test_met_WindowWrites : let b := fun wr => ({} : Block).withR [(HDL_CTL.valid 63, 1), (HDL_CTL.window 63, 1), (HDL_CTL.wr 63, wr), (HDL_LEN.length 63, 64)]
    ({} : Block).get (HDL_CTL.valid 63) ≠ 1 ∧ (∀ wr ∈ [0, 1], (b wr).get (HDL_CTL.valid 63) = 1 ∧ (b wr).get (HDL_CTL.window 63) = 1 ∧
      (b wr).get (HDL_CTL.closing 63) = 0 ∧ 0 = (b wr).get (HDL_CTL.gen 63) ∧ (b wr).get (HDL_CTL.wr 63) = wr) ∧
      0 + 64 * (0 + 1) ≤ (b 1).get (HDL_LEN.length 63) ∧ ¬ 64 + 64 * (0 + 1) ≤ (b 1).get (HDL_LEN.length 63) ∧ (b 1).get (HDL_CTL.tier 63) = 0 ∧
      (∀ tier ∈ [1, 2], ((b 1).set (HDL_CTL.tier 63) tier).get (HDL_CTL.tier 63) = tier ∧ ((b 1).set (HDL_CTL.tier 63) tier).handleRuns 63 0 64 = [(0, 64)]) := by decide
/-- Queue 239 open and closed; a queue that is none; a window that closes, with and without a write on its way. -/
theorem test_met_Closes : let b := fun c => ({} : Block).withR [(BLK_Q_CFG.kind 239, 2), (BLK_Q_CFG.closed 239, c)]
    let w := fun (reqs : List MemReq) => ({ reqs := reqs } : Block).withR [(HDL_CTL.closing 63, 1)]
    ({} : Block).qKind 239 ≠ 2 ∧ (∀ c ∈ [0, 1], (b c).qKind 239 = 2 ∧ (b c).get (BLK_Q_CFG.closed 239) = c) ∧
      (w []).get (HDL_CTL.closing 63) = 1 ∧ (w []).windowPending 63 = false ∧ (w [⟨0, .window 63 0 0 0⟩]).windowPending 63 = true ∧
      mget natZero (w []).closeAt 63 + 1000000 ≤ ({ State.reset with now := 1000000 } : State).now := by decide
/-- A packet whose first flit is due, after none and after one error. -/
theorem test_met_Flits : ∀ r ∈ [false, true], let i : InBuf := { port := 5, vc := 1, pkt := { kind := 0 }, refused := r }
    ∀ dead ∈ [[], [5]], let b : Block := { router := { buf := [i], deadLinks := dead } }
      (b.router.buf.find? fun i => i.port == 5 && i.vc == 1 && decide (i.got < i.pkt.flits)) = some i ∧ b.fenced = false ∧ i.refused = r ∧
        b.get MSH_CTL.mode ≠ 2 ∧ b.router.deadLinks.contains 5 = (dead == [5]) := by decide

/-- A header at port 5 of block 39 in Extended gait: for this block, for another with no path left, and with a path of one hop to the west;
a reduce packet that meets the entry of its sum. -/
theorem test_met_Headers : let i := fun (k : Pkt) => ({ port := 5, vc := 1, pkt := k, got := 1 } : InBuf)
    let b := fun (k : Pkt) => ({ extended := true, router := { buf := [i k] } } : Block)
    let r : Pkt := { kind := kREDUCE, rop := 1, dest := 39 }
    let e : MergeEntry := ⟨r, 4, 1, 0⟩
    (∀ k ∈ [({ kind := 0, dest := 39 } : Pkt), { kind := 0, dest := 40 }, { kind := 0, dest := 38, path := 7 }, r],
      ((b k).router.buf.find? fun i => i.port == 5 && i.vc == 1) = some (i k) ∧ k.mcast = false ∧ (b k).get MSH_CTL.mode = 0 ∧
        (b k).router.deadLinks.contains 5 = false ∧ (b k).router.fault66 = [] ∧ State.reset.taps 39 = []) ∧
      (let s : State := { State.reset with blocks := [(39, b { kind := 0, dest := 38, path := 7 })] }
       let full : State := { s with blocks := (38, { router := { buf := List.replicate 20 { port := 1, vc := 0, pkt := { kind := 0 }, got := 1 } } }) :: s.blocks }
       s.clear 39 4 { kind := 0, dest := 39 } = true ∧ s.clear 39 3 { kind := 0, dest := 38, path := 7 } = true ∧
         (full.clear 39 3 { kind := 0, dest := 38, path := 7 } = false)) ∧
      normPath 6 0 = 0 ∧ normPath 6 7 ≠ 0 ∧ neighbour 39 (normPath 6 7 % 4) = some 38 ∧
      routeStep 39 0 39 = some (4, 0) ∧
      (({ merge := [e] } : Router).merge.find? fun e => mergeable e.pkt { r with path := 0 } && e.want == 0) = some e := by decide
/-- A merge entry short of its count and at it; a gait-table entry whose packet is refused, short, or whole; a stored copy with one output. -/
theorem test_met_RouterEntries : (∀ n ∈ [1, 2], let e : MergeEntry := ⟨{ kind := 3 }, 4, n, 2⟩
      ({ merge := [e] } : Router).merge[0]? = some e ∧ (n = 1 → e.have_ < e.want) ∧ (n = 2 → e.want ≤ e.have_) ∧ State.reset.clear 1279 4 e.pkt = true) ∧
    (∀ r ∈ [false, true], ∀ got ∈ [0, 1], let i : InBuf := { port := 2, vc := 1, pkt := { kind := 0, tag := 9, dest := 1279 }, got := got, refused := r }
      let b : Block := { router := { gait := [⟨9, 1, 2, 4, false, 1⟩], buf := [i] } }
      b.extended = false ∧ b.router.gait[b.router.gaitPos]? = some ⟨9, 1, 2, 4, false, 1⟩ ∧
        (b.router.buf.find? fun i => i.port == 2 && i.vc == 1 && i.pkt.tag == formTag b.stride 9 &&
          (if i.pkt.mcast then (treeOutputs 1279 i.port i.pkt.targets).contains 4 && !i.gone.contains 4
           else gaitOut 1279 i.pkt == some 4 || gaitOut 1279 i.pkt == none)) = some i ∧ i.pkt.mcast = false ∧ normPath 6 i.pkt.path = 0 ∧
        State.reset.taps 1279 = [] ∧ State.reset.clear 1279 4 i.pkt = true ∧ (got = 0 → i.got < i.pkt.flits) ∧
        (got = 1 → i.pkt.flits ≤ i.got)) ∧
    (let e : ReplEntry := ⟨{ kind := 0, vc := 1 }, [4]⟩
     ({ repl := [e] } : Router).repl.find? (fun e => e.pkt.vc == 1 && e.outs.contains 4) = some e ∧ State.reset.room 1279 4 e.pkt = true) ∧
    (let full := List.replicate 20 ({ kind := 0 } : Pkt)
     ({ State.reset with blocks := [(1279, { mesh := { arrived := full } })] } : State).room 1279 4 { kind := 0, vc := 0 } = false) := by decide
/-- A token at an open port, with a route entry that is valid or not. -/
theorem test_met_Inject : let h : Held := { pkt := { kind := kTOKEN, vc := 1 }, idx := 5 }
    let s := fun (w : Nat) => ({ State.reset with blocks := [(3, { mesh := { sendq := [h] } })], routes := [(routeKey 3 0 5, w)] } : State)
    ∀ w ∈ [2 ^ 63 + 1279 * 2 ^ 50, 1], ((s w).block 3).mesh.sendq = [h] ∧ (s w).portOpen 3 = true ∧ kindSequenced h.pkt.kind = true ∧
      (s w).tableOf 3 = 3 ∧ h.id = 0 ∧ h.injected = false ∧ h.failed = false ∧ h.origin = .other ∧ (s w).streamWaits 3 h = false ∧ h.pkt.vc = 1 ∧
      ((s w).block 3).mesh.storeRoom h.pkt = true ∧ ((s w).block 3).router.fill 4 1 + h.pkt.flits ≤ 20 ∧ h.idx ≠ ((s w).block 3).lblock ∧
      nbit ((s w).route 3 (s w).epoch 5) 63 = (w != 1) := by decide
/-- The next packet of a stream, at the wrap of its numbers; one too far ahead; an acknowledgement owed, and one that a window write holds. -/
theorem test_met_Accept : let s := fun (seq : Nat) => ({ State.reset with
        blocks := [(3, { mesh := { arrived := [{ kind := kTOKEN, src := 7, seq := seq }], rxSeq := [(14, 65535)] } })] } : State)
    (∀ seq ∈ [65535, 0], (s seq).portOpen 3 = true ∧ (s seq).discards 3 = false) ∧ seqAhead 65535 65535 = 0 ∧ 0 < seqAhead 0 65535 ∧ seqAhead 0 65535 < 32768 := by
  decide
/-- A run of two answered packets before one that waits; a refusal that ends its run; a NACK; a multicast copy's own; nothing answered. -/
theorem test_met_AckSend : let a : AckOwed := { peer := 7, peerIdx := 0, vc := 0, seq := 5 }
    let m := fun (l : List AckOwed) => ((withB { mesh := { acks := l } }).unit 0).nextAck 7 0
    let b : AckOwed := { a with seq := 6 }
    m [a, b, { a with seq := 7, ready := false }] = some (b, [a, b]) ∧ m [a, { b with status := 2 }, { a with seq := 7 }] = some ({ b with status := 2 }, [a, { b with status := 2 }]) ∧
      m [{ a with nack := true }] = some ({ a with nack := true }, [{ a with nack := true }]) ∧ m [{ a with mcast := true }] = some ({ a with mcast := true }, [{ a with mcast := true }]) ∧
      m [{ a with ready := false }] = none := by decide

/-- The one packet of a resend store, its ACK, its NACK with an earlier number, an answer to an outbox slot, an echo, and its timeout. -/
theorem test_met_Sender : let h := fun (o : Owner) => ({ pkt := { kind := kMESSAGE, vc := 1, dest := 7, seq := 5 }, idx := 0, owner := o, injected := true } : Held)
    let k := fun (flags : Byte) => ({ kind := kACK, src := 7, seq := 5, payload := [0, flags, 0] } : Pkt)
    (∀ o ∈ [Owner.none, .outbox 7 3], (h o).pkt.dest = (k 16).src ∧ (h o).injected = true ∧ (h o).pkt.vc < 2 ∧ (h o).pkt.seq = (k 16).seq ∧
        (h o).pkt.mcast = false ∧ (h o).waitFlip = false ∧ (h o).tries = 0 ∧ (h o).part = 0 ∧ ackCovers (h o).pkt.kind = true) ∧
      leAt (k 16).payload 1 1 = 16 * 1 ∧ leAt (k 17).payload 1 1 = 16 * 1 + 1 ∧ seqAhead 5 5 < 32768 ∧
      (let th : Thread := { wait := .send 3, outbox := [(3, { st := 1 })] }
       (th.slot 3).st = 1 ∧ nbit (th.slot 3).imm 1 = false ∧ th.wait = .send 3 ∧ leAt (k 16).payload 0 1 ≠ 1) ∧
      ([k 2].find? fun k => nbit (leAt k.payload 1 1) 1) = some (k 2) ∧
      (∀ now ∈ [999, 1000], let b : Block := ({} : Block).withR [(MSH_THRESH.timeout, 1)]
        now < (h .none).sentAt + 1000 * max 1 (b.get MSH_THRESH.timeout) ∨ (h .none).sentAt + 1000 * max 1 (b.get MSH_THRESH.timeout) ≤ now) := by decide
/-- Regions that may flip; a flip that waits; one whose packets have gone; and one whose packet has not, 1 ms after its beat. -/
theorem test_met_EpochFlips : let drained := State.reset.rset 15 RGN_EPOCH.drained 1
    let waits := State.reset.rset 0 RGN_EPOCH.pending 1
    let gone := State.reset.rset 0 RGN_EPOCH.drained 0
    let held : State := { State.reset.rset 15 RGN_EPOCH.lease 1 with now := 1000000, blocks := [(0, { router := { merge := [⟨{ kind := 0, epoch := 1 }, 0, 1, 0⟩] } })] }
    ((∀ q < 16, drained.rget q RGN_EPOCH.lease ≠ 1) ∧ drained.drain = 0 ∧ drained.rget 15 RGN_EPOCH.drained ≠ 0 ∧ drained.cad.flipBeat = false ∧ drained.tablesForm = true ∧
      drained.rget 15 RGN_EPOCH.pending ≠ 1 ∧ drained.leaseFree 6 0 = true) ∧
      (held.tablesForm = true ∧ held.rget 0 RGN_EPOCH.pending ≠ 1 ∧ held.cad.flipWaits.contains 0 = false) ∧ gone.cad.flipWaits = [] ∧
      (waits.rget 0 RGN_EPOCH.pending = 1 ∧ waits.rcv.active = false ∧ waits.screen.plans = [] ∧ State.reset.rget 0 RGN_EPOCH.pending = 0) ∧
      (gone.drain = 0 ∧ gone.rget 0 RGN_EPOCH.pending = 0 ∧ gone.cad.flipBeat = false ∧ gone.rget 0 RGN_EPOCH.drained = 0) ∧
      held.rget 15 RGN_EPOCH.lease = 1 ∧ (∀ q < 15, held.rget q RGN_EPOCH.lease = 0) ∧ (held.rset 15 RGN_EPOCH.drained 0).rget 15 RGN_EPOCH.drained = 0 ∧
      held.drain ≠ 0 ∧ held.cad.flipAt + 1000000 ≤ held.now := by decide
/-- The last line of stack 0; a line past a 4 KiB page; HBM4's end; another stack's line; a signed range; a waiting load. -/
theorem test_met_MemoryRequests : endpointTier 1280 = some (1, 0) ∧ hbmOk (2 ^ 36 - 64) = true ∧ namesUnit 1 0 (2 ^ 36 - 64) = true ∧
    (2 ^ 36 - 64) % 64 = 0 ∧ ¬ 4096 < (2 ^ 36 - 64) % 4096 + 64 * 1 ∧ 4096 < (2 ^ 36 - 64) % 4096 + 64 * 2 ∧ hbmOk (2 ^ 40) = false ∧ namesUnit 1 0 (2 ^ 36) = false ∧
    (withR 3 [(MGR_SIG_RANGE.enable 0 0, 1), (MGR_SIG_RANGE.units 0 0, 1)]).tiers.isSigned (hbmKey 960) = true ∧
    (withR 3 [(MGR_SIG_RANGE.enable 0 0, 1), (MGR_SIG_RANGE.units 0 0, 1)]).tiers.isSigned (hbmKey 1024) = false ∧
    ([⟨5, .load 7 31 56 8⟩].find? fun (r : MemReq) => r.id == 5) = some ⟨5, .load 7 31 56 8⟩ := by decide
/-- Calls of each op at the head of a queue; an engine pair that is fenced; a queue of 8; a result's queue. -/
theorem test_met_MangerCalls : let c := fun op mode rows => (⟨⟨op, 0, 0, mode, 128, 64, 0, 128, 0, 0⟩, 31, ⟨0, 0, 0, 1, 0, 0, 0, 1, 0, 0, 0, 0, 0, 0, true⟩, [], 0, 0, rows, 0⟩ : Call)
    let s := fun (q : List Call) => ({ State.reset with calls := [(255, q)] } : State)
    (∀ x ∈ [c 1 0 none, c 2 0 none, c 3 0 none, c 3 1 none, c 3 0 (some [])], (s [x]).queueOf (32 * 7 + 31) = [x] ∧ (s [x]).fencedEngine 7 31 = false ∧
      (s [x]).fencedEngine 7 (31 ^^^ 1) = false) ∧
      (withR 4 [(MGR_STATUS.fenced 7, 2 ^ 32 - 1)]).fencedEngine 7 31 = true ∧ endpointTier 1350 = some (1, 7) ∧
      8 ≤ ((s (List.replicate 8 (c 1 0 none))).queueOf (32 * 7 + 31)).length ∧ ((s []).queueOf 255).length < 8 ∧
      (let b := ({} : Block).withR [(BLK_Q_CFG.kind 0, 1)]
       b.tokenBad 0 0 1 true = false ∧ b.freeEntryOf 0 = some 0 ∧ ({ b with queue := [⟨0, 0, 1, true, 1, 0, [], none, true, false⟩] } : Block).freeEntryOf 0 = none) := by decide
/-- Scrubbing off and on, a channel that is not the pass's last and one that is; ranges enabled and not; a table that begins where its range ends; a
trained channel whose retraining was asked for. -/
theorem test_met_RefreshScrubSign : (withR 3 [(MGR_CTL.scrub_en 7, 0)]).get (MGR_CTL.scrub_en 7) = 0 ∧ (withR 3 []).get (MGR_CTL.scrub_en 7) = 1 ∧
    (withR 3 []).leaseFree 3 255 = true ∧ (withR 3 []).sigMiss 7 31 = [] ∧ mget natZero (withR 3 []).scrubbed 7 ||| 2 ^ 31 ≠ 2 ^ 32 - 1 ∧
    (2 ^ 31 - 1) ||| 2 ^ 31 = 2 ^ 32 - 1 ∧ (withR 3 []).get (MGR_SIG_RANGE.enable 7 15) = 0 ∧
    (let s := withR 3 [(MGR_SIG_RANGE.enable 7 15, 1), (MGR_SIG_RANGE.units 7 15, 1), (MGR_SIG_TABLE.addr 7 15, 1024)]
     s.get (MGR_SIG_RANGE.enable 7 15) = 1 ∧ s.get (MGR_SIG_RANGE.signed 7 15) = 0 ∧
       7 * 2 ^ 36 + s.get (MGR_SIG_RANGE.base 7 15) * 1024 + 1024 * s.get (MGR_SIG_RANGE.units 7 15) ≤ 7 * 2 ^ 36 + s.get (MGR_SIG_TABLE.addr 7 15)) ∧
    (let s : State := { withR 3 [(DDR_STATUS.trained 11, 1)] with leases := { held := [{ code := 5, res := 11 }] } }
     s.get (DDR_STATUS.trained 11) = 1 ∧ s.leaseHeld 5 11 = true) := by decide
/-- An image whose layout is one area of 64 bytes at 0 of tier `t`, of class `c`. -/
def oneArea (t c : Byte) : Img := ⟨0, [], [⟨0, 5, 0, [⟨0xFFFF, [t, c] ++ List.replicate 14 0 ++ [64] ++ List.replicate 15 0⟩]⟩]⟩
/-- A line in no area; in a Live area of a device without a twin; in a signed area. -/
theorem test_met_Uncorrectable : let s := fun (i : Option Img) => ({ withR 4 [] with images := { committed := i }, dispatch := { job := some ⟨0, 0, 0, false, 0, true, none, false⟩ } } : State)
    (∀ i ∈ [none, some (oneArea 1 1), some (oneArea 1 3)], (s i).released = true ∧ (s i).stud.length < studRoom ∧ (s i).twinned = false ∧ (s i).hasJob = true ∧
      (s i).jobFault = none) ∧ hbmOk 0 = true ∧ (s none).areaOf 1 0 = none ∧ (s none).areaOf 2 0 = none ∧
      ((s (some (oneArea 1 1))).areaOf 1 0).map Area.cls = some 1 ∧ ((s (some (oneArea 1 3))).areaOf 1 0).map Area.cls = some 3 ∧
      ((s (some (oneArea 1 1))).areaOf 1 64) = none ∧ (ddrPlace 0).1 < 12 := by decide
set_option maxRecDepth 20000 in
/-- All 12 channels of 96 GiB: the first line of channel 0, and the first striped one. -/
theorem test_met_Ddr : let l : List (Fld × Nat) := (List.range 12).flatMap fun c => [(DDR_STATUS.trained c, 1), (DDR_STATUS.capacity c, 96)]
    (withR 4 l).tiers.ddrOk 0 = true ∧ (withR 4 l).tiers.ddrOk (2 ^ 42) = true := by decide

/-- Images being read and none; the states and addresses of op 1; a load whose checks failed, and one that passed. -/
theorem test_met_ImageLoad : let s := fun d (l : List (Fld × Nat)) l' => ({ withR d l with images := { loading := l' } } : State)
    let e : Img := ⟨0, [], []⟩
    (s 2 [] (some (e, some { code := 0x10 }))).imgBusy = true ∧ (∀ d ∈ [2, 3, 4], (s d [] none).imgBusy = false ∧ (s d [] none).dev = d) ∧
      (s 3 [(CHP_IMG_ADDR.addr, 2048)] none).imgAddrOk = false ∧ (s 2 [] (some (e, none))).images.loading = some (e, none) := by decide
set_option maxRecDepth 20000 in
/-- A staging address that is installed. -/
theorem test_met_ImageAddress : let l : List (Fld × Nat) := (List.range 12).flatMap fun c => [(DDR_STATUS.trained c, 1), (DDR_STATUS.capacity c, 96)]
    (withR 3 l).imgAddrOk = true := by decide
/-- An image that places no block forms its tables. -/
theorem test_met_ImageInstall : let i : Img := ⟨0, [], []⟩
    (State.reset.installImage i (State.reset.place i fun _ => 0).2).1 = none := by decide
/-- Staging in Ready; a staged image; the stride before the swap's; the quiet wait at its first deferral and at its third, 1 ms on. -/
theorem test_met_StagedSwaps : (∀ st ∈ [0, 2, 3], (withR 3 [(CHP_IMG_STATUS.stage, st)]).get CHP_IMG_STATUS.stage = st ∧ (withR 3 []).imgBusy = false) ∧
    (let s : State := { withR 3 [(CHP_IMG_STATUS.stage, 2), (CHP_SWAP_AT.stride, 256), (CAD_STRIDE.stride, 255)] with cad := { done := true } }
     s.cad.done = true ∧ s.get CAD_CTL.phase = 0 ∧ s.get CHP_IMG_STATUS.stage = 2 ∧ s.get CHP_SWAP_AT.stride = s.nextStride ∧ s.nextStride ≠ 0 ∧ s.leaseFree 10 0 = true) ∧
    (∀ k ∈ [0, 1, 2, 254], let s : State := { withR 4 [(CHP_IMG_STATUS.stage, 3), (CHP_SWAP_STATUS.deferrals, k)] with now := 1000000 }
      s.get CHP_IMG_STATUS.stage = 3 ∧ s.images.quietAt + 1000000 ≤ s.now ∧ s.get CHP_SWAP_STATUS.deferrals = k ∧ k < 255) := by decide
/-- A module that is quiet and one that is not; the quiet wait of a swap and of an activation. -/
theorem test_met_SwapLoads : let e : Img := ⟨0, [], []⟩
    let s : State := { withR 4 [(CHP_IMG_STATUS.stage, 3)] with images := { staged := some e } }
    let a : State := { withR 4 [] with far := { actStage := 1, activating := some (3, 512) } }
    let busy : State := { s with calls := [(0, [⟨⟨1, 0, 0, 0, 0, 0, 0, 0, 0, 0⟩, 0, ⟨0, 0, 0, 0, 0, 0, 0, 0, 0, 0, 0, 0, 0, 0, true⟩, [], 0, 0, none, 0⟩])] }
    busy.swapIsQuiet = false ∧ s.swapIsQuiet = true ∧ s.pairedIn 1 = false ∧ s.get CHP_IMG_STATUS.stage = 3 ∧ s.images.staged = some e ∧
      (a.swapIsQuiet = true ∧ a.get CHP_IMG_STATUS.stage ≠ 3 ∧ a.far.actStage = 1 ∧ a.far.activating = some (3, 512)) := by decide
theorem test_met_SwapInstall : let e : Img := ⟨0, [], []⟩
    ((withR 4 [(CHP_IMG_STATUS.stage, 3)]).installImage e ((withR 4 [(CHP_IMG_STATUS.stage, 3)]).place e fun _ => 0).2).1 = none := by decide

/-- A spare that is due, at 100 °C and above it; its first and its second attempt; diagnostic runs of a block in quarantine with 0 and 15
clean ones; a failure that no spare line replaces. -/
theorem test_met_Slices : let s := fun (t : Nat) (b : Block) (r : Rmt) => ({ withR 3 [] with now := 900000000000, sens := [(0, t)], blocks := [(0, b)], rmt := [(0, r)] } : State)
    (s 1601 {} {}).sliceFit 0 = false ∧ (s 1600 {} {}).sliceFit 0 = true ∧ ((s 1600 {} {}).rmtOf 0).state = 1 ∧ (s 1600 {} {}).rget 0 TST_RGN_CFG.bist_en = 1 ∧
      1 ≤ (s 1600 {} {}).stage 0 ∧ (s 1600 {} {}).leaseFree 0 0 = true ∧
      (∀ again ∈ [false, true], ∀ t ∈ [1600, 1601], let x := s t { slice := some (7, 5, again) } { state := 6 }
        (x.block 0).slice = some (7, 5, again) ∧ (x.rmtOf 0).state = 6 ∧ (x.rmtOf 0).lblock = 0x7FF ∧ x.sliceVoid 0 7 5 = (t != 1600) ∧ (x.block 0).recordBad = none) ∧
      (∀ n ∈ [0, 14, 15], let b := ({} : Block).withR [(TST_BLK_STATE.clean_runs, n)]
        let x := s 0 { b with diag := (List.range 24).map fun k => (k, true, 0) } { state := 3 }
        (x.rmtOf 0).state = 3 ∧ 24 ≤ (x.block 0).diag.length ∧ (∀ d ∈ (x.block 0).diag, d.2.1 = true) ∧ (x.block 0).get TST_BLK_STATE.clean_runs = n) ∧
      failBank (1#64 <<< 52) = none := by decide
/-- An engine that is due at 100 °C; a fenced one; a unit that has lapsed. -/
theorem test_met_Engines : let s : State := { withR 3 [] with now := 3600000000000, sens := [(119, 1600)] }
    packFails s.far.pack 3 = none ∧
    let f : State := { withR 3 [(MGR_STATUS.fenced 7, 2 ^ 31)] with screen := { clean := [(255, 63)] } }
    s.leaseFree 4 255 = true ∧ signed 32 (s.sensor 119) = 1600 ∧ s.fencedEngine 7 31 = false ∧ s.fencedEngine 7 (31 ^^^ 1) = false ∧
      2 ≤ stageOf (s.engineAge 255) (s.deadline 0) ∧ stageOf (s.engineAge 255) (s.deadline 0) = 4 ∧ s.screen.lapsed = [] ∧ s.stage 1279 = 4 ∧
      (s.rmtOf 1279).state ≠ 3 ∧ (f.fencedEngine 7 31 = true ∧ f.stud = [] ∧ mget natZero f.screen.clean 255 < 64 ∧ mget natZero f.screen.clean 255 % 4 = 3) := by decide
/-- At reset every unit is inside its deadline. -/
theorem test_met_Sweep : State.reset.sweepUnits ≠ [] ∧ ∀ x ∈ State.reset.sweepUnits, x.1 < x.2 := by
  constructor
  · intro h
    have : (State.reset.age 0, State.reset.deadline (regionOf 0)) ∈ State.reset.sweepUnits :=
      List.mem_append_left _ (List.mem_map.2 ⟨0, List.mem_filter.2 ⟨by simp, by decide⟩, rfl⟩)
    simp [h] at this
  · intro x hx
    have h0 : ∀ r, 0 < State.reset.deadline r := fun r => by unfold State.deadline; omega
    rcases List.mem_append.1 hx with h | h <;> obtain ⟨y, -, rfl⟩ := List.mem_map.1 h
    · have : State.reset.age y = 0 := Nat.zero_sub _
      exact this ▸ h0 _
    · have : State.reset.engineAge y = 0 := Nat.zero_sub _
      exact this ▸ h0 _

set_option maxRecDepth 20000 in
/-- A block in service that is due, with a spare of its region. -/
theorem test_met_Swaps : let now := 1800000000000
    let cad : Cadence := { done := true }
    let spare : Cells Block := [(1, { passTimes := (List.range 24).map fun k => (k, now) })]
    let s : State := { withR 4 [(CAD_STRIDE.stride, 255)] with now := now, rmt := [(0, { state := 0, lblock := 5 })], cad := cad, blocks := spare }
    s.dev = dRunning ∧ (s.rmtOf 0).state = 0 ∧ 2 ≤ s.stage 0 ∧ s.screen.plans = [] ∧ s.leaseFree 2 0 = true ∧ s.leaseFree 6 0 = true ∧ s.swapFirst 0 = true ∧
      s.swapSpare 0 = some 1 := by decide
set_option maxRecDepth 20000 in
/-- The flip to that spare can form its tables. -/
theorem test_met_SwapReady : let cad : Cadence := { done := true }
    let s : State := { withR 4 [(CAD_STRIDE.stride, 255)] with now := 1800000000000, rmt := [(0, { state := 0, lblock := 5 })], cad := cad }
    ((s.acquire { code := 2, res := 0 } true).1.remountTo 0 1 (s.lblockAt 0)).tablesForm = true := by decide

/-- An overdue block in service before stride `n` + 1, in a region of which no other block is taken up, while synchronised (`e` 1) or not. -/
def overdue (n e : Nat) : State :=
  let cad : Cadence := { done := true }
  let s : State := { withR 4 [(CAD_STRIDE.stride, n), (CAD_SYNC_CTL.enable, e)] with now := 3240000000000, rmt := [(0, { state := 0, lblock := 5 })], cad := cad }
  s.rset 0 RGN_RCV.down 1

theorem test_met_Preempt : let s := overdue
    3 ≤ (s 255 0).stage 0 ∧ ((s 255 0).rmtOf 0).state = 0 ∧ (255 + 1) % 256 = 0 ∧ (256 + 1) % 256 ≠ 0 ∧ (s 255 0).get CAD_SYNC_CTL.enable = 0 ∧
      (s 255 1).get CAD_SYNC_CTL.enable = 1 ∧ (s 255 1).get TST_CHP_PREEMPT_AT.stride ≠ 256 ∧ (s 255 0).cad.done = true ∧ (s 255 0).cad.hold = none ∧
      mget natZero (s 255 0).screen.preempted 0 = 0 ∧ (s 255 0).sliceFit 0 = true ∧
      ((s 255 0).block 0).oldestSlice < 20 ∧ (s 255 0).inService = [0] := by decide
theorem test_met_NoSpare : (overdue 255 0).swapSpare 0 = none := by
  have hd : (overdue 255 0).rget 0 RGN_RCV.down = 1 := by decide
  refine List.find?_eq_none.2 fun q _ hq => ?_
  simp only [Bool.and_eq_true, beq_iff_eq] at hq
  obtain ⟨⟨⟨⟨hr, hs⟩, -⟩, -⟩, -⟩ := hq
  simp only [State.isSpare, State.healthy, hr, show regionOf 0 = 0 from rfl, hd] at hs
  simp at hs
/-- A shadow sample that has not been answered, one that has, before 1 ms and at it, and its retry. -/
theorem test_met_Shadows : ∀ ack ∈ [none, some 0], ∀ first ∈ [none, some (none, 7)], let w : Shadow := ⟨9, 0, 300, 0, ack, first⟩
    let s : State := { withR 4 [] with screen := { shadows := [w] }, blocks := [(9, { stride := 300, working := true })] }
    s.twin.bad = none ∧ ((s.block 9).stride.toNat = w.stride ∧ (s.block 9).working = true ∧ (s.block 9).workDone = true ∧ (s.block 9).halted = false) ∧
      ((s.block 8).working = false) ∧ (s.screen.shadows.find? fun w => w.block == 0) = some w ∧ w.spare ≠ 0 ∧ s.now < 0 + 1000000 := by decide
/-- A saddlebag being written, and one 256 strides old; a block that owes its restore, the last; a region outside a job. -/
theorem test_met_Saddlebags : let s : State := { withR 4 [(CAD_STRIDE.stride, 512)] with blocks := [(0, { saddle := some (256, [1]), lblock := 5 })], rmt := [(0, { state := 0, lblock := 5 })] }
    let o : State := { withR 5 [] with blocks := [(0, { owes := true })], rcv := { active := true } }
    ((s.block 0).saddle = some (256, [1]) ∧ s.twState ≠ twPAIRED ∧ s.twin.copying = false ∧ 256 + 256 ≤ s.get CAD_STRIDE.stride ∧ 0 ∈ s.inService ∧
      ∀ q ∈ s.inService, q ≠ 0 → (s.block q).lblock ≠ (s.block 0).lblock) ∧
      (o.rcv.active = true ∧ o.rcv.replaying = false ∧ (o.block 0).owes = true ∧ mwf blockInit o.blocks = true ∧ ∀ x ∈ o.blocks, x.1 ≠ 0 → x.2.owes = false) ∧
      (withR 3 []).rget 15 RGN_RCV.down = 0 ∧ (withR 3 []).inJob = false ∧ ((withR 3 []).rset 15 RGN_RCV.down 1).rget 15 RGN_RCV.down = 1 := by decide
/-- A free and a taken lease; a first request that may be granted behind one that may not; one that has waited 10 s. -/
theorem test_met_Leases : let s : State := { withR 3 [] with now := 10000000000, leases := { held := [{ code := 5, res := 0 }], waiting := [{ code := 5, res := 0 }, { code := 3, res := 1 }] } }
    s.leaseFree 11 15 = true ∧ s.leaseFree 5 0 = false ∧ (∃ l, s.leases.waiting[1]? = some l ∧ l.clashes (s.leases.held ++ s.leases.waiting.take 1) = false) ∧
      (∃ x, s.leases.waiting[0]? = some x ∧ x.clashes (s.leases.held ++ s.leases.waiting.take 0) = true) ∧
      (∀ l ∈ s.leases.waiting, l.starved = false ∧ l.since + 10000000000 ≤ s.now) :=
  ⟨by decide, by decide, ⟨_, rfl, by decide⟩, ⟨_, rfl, by decide⟩, by decide⟩
/-- A block fault without a saddlebag to go back to, and a shadow's mismatch with nothing in service to restore. -/
theorem test_met_Recovery : let s : State := { withR 4 [] with blocks := [(0, { fenced := true })], rmt := [(0, { state := 0, lblock := 5 })] }
    (s.dev = dRunning ∧ s.rcv.active = false ∧ (s.rmtOf 0).state = 0 ∧ (s.block 0).fenced = true ∧ (s.rmtOf 0).lblock ≠ 0x7FF ∧ s.twState ≠ twPAIRED ∧
      s.leases.held = [] ∧ s.replayPoint = none) := by decide
/-- An image whose saddlebag area, at 0 of HBM4, is 1 MiB long. -/
def saddleImage : Img := ⟨0, [], [⟨0, 5, 0, [⟨0xFFFF, [1, 2] ++ List.replicate 16 0 ++ [4] ++ List.replicate 13 0⟩]⟩]⟩
/-- The least valid saddlebag of logical block 0 at stride 0: no scan image, no lines, and its CRC-64. -/
def saddleBag : Memory := [(0, 0x53), (1, 0x44), (2, 0x42), (3, 0x47), (4, 1), (56, 0x10), (57, 0x45), (58, 0x75), (59, 0xFE), (60, 0x3A), (61, 0x18), (62, 2), (63, 0x47)]
/-- Block 0 in service with logical block 0, whose saddlebag of stride 0 is that one, and a sample whose values differ. -/
def sampled : State :=
  let s : State := { withR 4 [] with hbm := saddleBag, images := { committed := some saddleImage }, screen := { shadows := [⟨9, 0, 300, 0, some 0, some (none, 7)⟩] } }
  { s with rmt := [(0, { state := 0, lblock := 0 })] }.rset 0 (RGN_SB.st0 0) 2
set_option maxRecDepth 100000 in
theorem test_met_ReplayPoint : sampled.replayPoint = some 0 := by decide +kernel
theorem test_met_ShadowRecovery : sampled.dev = dRunning ∧ sampled.tablesForm = true ∧ sampled.leases.held = [] ∧ sampled.get CHP_IMG_STATUS.stage < 3 ∧ (sampled.rmtOf 0).state = 0 ∧
    sampled.rcv.active = false ∧ sampled.twState ≠ twPAIRED := by decide
theorem test_met_TablesForm : (withR 4 []).tablesForm = true := by decide
/-- A scan of a block that another scan holds; that has not stopped; of a fenced one; an address outside HBM4; the end. -/
theorem test_met_Scans : let b : Block := { fenced := true }
    ({ b with scan := some (0, 64) } : Block).scan ≠ none ∧ (withB { working := true }).stopped 0 = false ∧ b.scan = none ∧ (withB b).stopped 0 = true ∧ b.fenced = true ∧
      hbmOk 0 = true ∧ hbmOk (b.get BLK_SCAN_ADDR.addr + 131072) = true ∧ hbmOk (2 ^ 40) = false := by decide
set_option maxRecDepth 20000 in
/-- The least scan image of a block with no logical block and no image: a header, whose CRC-64 is right; and one without the magic number. -/
theorem test_met_ScanImage : let img : List Byte := leBytes 4 0x4E414353 ++ leBytes 2 1 ++ List.replicate 10 0 ++ leBytes 2 0x7FF ++ List.replicate 6 0 ++ leBytes 8 64 ++ List.replicate 24 0
    ({} : Block).scanCheck (img ++ leBytes 8 (crc64 (img ++ List.replicate 8 0)).toNat) 0 = 0 ∧ leAt ([] : List Byte) 0 4 ≠ 0x4E414353 := by decide
/-- Resets: below the limit of their window, and reaching it. -/
theorem test_met_Resets : let s : State := { withR 3 [(CHP_ESC.blk_count, 2), (CHP_ESC.rgn_count, 2), (CHP_ESC.chip_count, 2)] with now := 1, far := { awake := true } }
    let f : State := { (s.setRegion 15 { resets := [0] }) with blocks := [(0, { resets := [0] })], chipResets := [0] }
    ((s.rmtOf 0).lblock = 0x7FF ∧ (s.rmtOf 0).state = 1 ∧ s.rget 15 RGN_RCV.down = 0 ∧ s.far.awake = true) ∧
      (inWindow s.now (s.get CHP_ESC.blk_window_s) (s.block 0).resets).length + 1 < max 1 (s.get CHP_ESC.blk_count) ∧
      (inWindow s.now (s.get CHP_ESC.rgn_window_s) (s.region 15).resets).length + 1 < max 1 (s.get CHP_ESC.rgn_count) ∧
      (inWindow s.now (s.get CHP_ESC.chip_window_s) s.chipResets).length + 1 < max 1 (s.get CHP_ESC.chip_count) ∧
      max 1 (f.get CHP_ESC.blk_count) ≤ (inWindow f.now (f.get CHP_ESC.blk_window_s) (f.block 0).resets).length + 1 ∧
      max 1 (f.get CHP_ESC.rgn_count) ≤ (inWindow f.now (f.get CHP_ESC.rgn_window_s) (f.region 15).resets).length + 1 ∧
      max 1 (f.get CHP_ESC.chip_count) ≤ (inWindow f.now (f.get CHP_ESC.chip_window_s) f.chipResets).length + 1 := by decide
/-- A wait of kind 11 that is selected, with 63 and 64 records held; a full buffer whose ring takes it, and one that does not. -/
theorem test_met_Traces : let b := fun n => ({ (({} : Block).withR [(BLK_TRC_CTL.enable, 1), (BLK_TRC_CTL.kinds, 2 ^ 11), (BLK_TRC_CTL.min_ns, 7)]) with trace := List.replicate n (0, 0) } : Block)
    let r := (b 64).withR [(HDL_CTL.valid 0, 1), (HDL_CTL.wr 0, 1), (HDL_CTL.tier 0, 1), (HDL_LEN.length 0, 1024)]
    (∀ n ∈ [63, 64], (b n).get BLK_TRC_CTL.enable = 1 ∧ nbit ((b n).get BLK_TRC_CTL.kinds) 11 = true ∧ (b n).get BLK_TRC_CTL.min_ns ≤ 7 ∧ (b n).trace.length = n) ∧
      (b 64).traceMay = false ∧ r.traceMay = true ∧ r.trace.length = 64 ∧ r.get BLK_TRC_PTR.next + 64 = r.traceRing ∧
      (withR 2 [(FAR_SCAN.openS, 1)]).get FAR_SCAN.openS = 1 ∧ (withR 2 []).get FAR_SCAN.openS = 0 := by decide

/-- The Cadence before a beat: stopped, an acknowledgement out, its tick to come, at it and past it; a job that starts with the beat. -/
theorem test_met_Beats : let cad : Cadence := { done := true }
    let s := fun (run n now : Nat) => ({ withR 4 [(CAD_CTL.run, run), (CAD_STRIDE.stride, n), (CAD_PERIOD.current, 500)] with cad := cad, now := now } : State)
    let j : Job := ⟨0, 1, 0, false, 256, false, none, false⟩
    let l : State := { withR 3 [(CAD_CTL.run, 1), (CAD_STRIDE.stride, 255), (CAD_PERIOD.current, 500)] with cad := cad, now := 128000, dispatch := { job := some j }, images := { committed := some ⟨0, [], []⟩ } }
    (s 0 0 500).get CAD_CTL.run = 0 ∧ ({ s 1 0 500 with cad := {} } : State).cad.done = true ∧ ({ s 1 0 500 with cad := { done := false } } : State).cad.done = false ∧
      ((s 1 0 499).ticked = true ∧ (s 1 0 499).now < (s 1 0 499).dueTick) ∧ (∀ now ∈ [500, 501], (s 1 0 now).beatReady = true ∧ (s 1 0 now).rcv.active = false) ∧
      ((0 + 1) % 2 ^ 64 % 256 ≠ 0 ∧ (s 1 0 501).dispatch.job = none ∧ (s 1 0 501).cad.flipBeat = false ∧ (s 1 0 501).images.swapTick = none ∧ (s 1 0 501).cad.hold = none ∧
        (s 1 0 501).lateness = 0 ∧ 0 < ({ s 1 0 501 with cad := { cad with lastAckAt := 501 }, rmt := [(0, { state := 0, lblock := 5 })] } : State).lateness) ∧
      (l.beatReady = true ∧ l.dispatch.job = some j ∧ l.get CAD_CTL.phase = 0 ∧ l.twin.rejoinAt = none ∧ l.far.activating = none ∧ l.screen.plans = []) := by decide
/-- The beat of a swap: a staged image whose load is over, outside a job. -/
theorem test_met_SwapBeat : let cad : Cadence := { done := true }
    let i : Img := ⟨0, [], []⟩
    let s : State := { withR 3 [(CAD_CTL.run, 1), (CAD_STRIDE.stride, 255), (CAD_PERIOD.current, 500)] with cad := cad, now := 128000, images := { staged := some i, swapTick := some 128000 } }
    s.beatReady = true ∧ s.cad.flipBeat = false ∧ (255 + 1) % 2 ^ 64 % 256 = 0 ∧ s.images.swapTick = some 128000 ∧ s.images.staged = some i ∧
      (s.installImage i (s.place i fun _ => 0).2).1 = none ∧ s.dispatch.job = none ∧ s.dev = dReady ∧ s.get CAD_CTL.phase = 0 ∧ s.far.activating = none ∧
      s.screen.plans = [] ∧ s.twin.rejoinAt = none := by decide
/-- A block in service of a running job that has not had the beat; one that may acknowledge, and one that still works. -/
theorem test_met_BlockBeats : let j : Job := ⟨0, 1, 0, false, 0, true, none, false⟩
    let s : State := { withR 4 [(CAD_CTL.run, 1), (CAD_STRIDE.stride, 1)] with dispatch := { job := some j }, rmt := [(0, { state := 0, lblock := 5 })] }
    let w := fun (program : List Word) => ({ s with blocks := [(0, { stride := 1, working := true, program := program })] } : State)
    ((s.block 0).stride.toNat ≠ s.get CAD_STRIDE.stride ∧ s.jobRuns = true ∧ (s.rmtOf 0).state = 0 ∧ (s.block 0).fenced = false) ∧
      (∀ p ∈ [[], [0#64]], ((w p).block 0).stride.toNat = (w p).get CAD_STRIDE.stride ∧ 0 ∉ ((w p).region 0).acked) ∧ ((w []).block 0).mayAck = true ∧ ((w [0]).block 0).mayAck = false := by
  decide
/-- A region whose last block has acknowledged, alone and with another region to come; a block that is late by the period and by 2 ms. -/
theorem test_met_Acks : let one : Cells Rmt := [(0, { state := 0, lblock := 5 })]
    let two : Cells Rmt := [(0, { state := 0, lblock := 5 }), (10, { state := 0, lblock := 6 })]
    let s := fun (m : Cells Rmt) => ({ ((withR 3 []).setRegion 0 { acked := [0] }) with cad := { done := false }, rmt := m } : State)
    let j : Job := ⟨0, 1, 0, false, 0, true, none, false⟩
    let lb : Cells Block := [(0, ({ resets := [0] } : Block).withR [(BLK_TETHER.state, 1)])]
    let late := fun (gait now : Nat) => ({ withR 4 [(CAD_CTL.gait, gait), (CAD_PERIOD.current, 500)] with now := now, dispatch := { job := some j }, rmt := one, blocks := lb } : State)
    (∀ m ∈ [one, two], (s m).inService.filter (fun p => regionOf p == 0) = [0] ∧ (∀ p ∈ [0], p ∈ ((s m).region 0).acked) ∧ (s m).jobRuns = false) ∧ 10 ∉ ((s two).region 1).acked ∧
      ((late 0 32500).ticked = true ∧ (late 0 32500).tickOf ((late 0 32500).get CAD_STRIDE.stride + 1) + 64 * (late 0 32500).get CAD_PERIOD.current ≤ (late 0 32500).now) ∧
      ((late 1 2000000).ticked = false ∧ ((late 1 2000000).block 0).progressAt + 2000000 ≤ (late 1 2000000).now) ∧
      (∀ x ∈ [late 0 32500, late 1 2000000], (x.block 0).get BLK_TETHER.state = 1 ∧ 0 ∉ (x.region 0).acked ∧ (x.block 0).fenced = false ∧ (x.block 0).scan = none ∧
        (x.rmtOf 0).state = 0 ∧ x.rcv.tether = [] ∧ x.twState ≠ twPAIRED ∧ x.leases.held = [] ∧
        (inWindow x.now (x.get CHP_ESC.blk_window_s) (x.block 0).resets).length + 1 < max 1 (x.get CHP_ESC.blk_count)) ∧
      (let r : State := { withR 4 [(CAD_CTL.phase, 2), (CAD_STRIDE.stride, 65536)] with rcv := { rejoin := some 0 } }
       r.rcv.rejoin = some 0 ∧ r.get CAD_CTL.phase = 2 ∧ r.rcv.longer = false ∧ 0 + 65536 ≤ r.get CAD_STRIDE.stride) := by decide
set_option maxRecDepth 100000 in
/-- A block that is late by 2 ms in a module whose saddlebags are valid: the recovery goes back to stride 0. -/
theorem test_met_TetherReplay : let j : Job := ⟨0, 1, 0, false, 0, true, none, false⟩
    let w : State := { sampled with screen := {} }
    let s : State := { w with now := 2000000, dispatch := { job := some j }, blocks := [(0, ({} : Block).withR [(BLK_TETHER.state, 1)])] }.set CAD_CTL.gait 1
    s.ticked = false ∧ (s.block 0).progressAt + 2000000 ≤ s.now ∧ (s.block 0).get BLK_TETHER.state = 1 ∧ 0 ∉ (s.region 0).acked ∧ (s.block 0).fenced = false ∧
      (s.block 0).scan = none ∧ (s.rmtOf 0).state = 0 ∧ (s.rmtOf 0).lblock = 0 ∧ s.dev = dRunning ∧ s.rcv.active = false ∧ s.rcv.tether = [] ∧ s.twState ≠ twPAIRED ∧
      s.replayPoint = some 0 ∧ s.tablesForm = true ∧ (s.block 0).get MSH_CTL.mode = 0 ∧ s.screen.shadows = [] := by decide +kernel
theorem test_met_AckRegions : ({ withR 3 [] with rmt := [(0, { state := 0, lblock := 5 })] } : State).maskRegions = [0] := by decide
/-- A follower whose eighth good exchange comes, one whose second bad one does, a source, a port that comes and goes; periods at their bounds. -/
theorem test_met_Sync : let up : Cells Port := [(0, { up := true })]
    let s := fun (l : List (Fld × Nat)) (c : Cadence) => ({ withR 4 ([(CMD_TRACE_CTL.enable 0, 1), (CMD_TRACE_CTL.mode 0, 0), (CAD_SYNC_CTL.enable, 1)] ++ l) with ports := up, cad := c } : State)
    (∀ x ∈ [s [] { good := 7 }, s [(CAD_SYNC_STATUS.locked, 1)] { bad := 1 }], x.get CAD_SYNC_CTL.role = 0 ∧ x.get CAD_SYNC_STATUS.noport = 0 ∧ x.carriesSync (x.get CAD_SYNC_CTL.port) = true ∧
      x.get CAD_STRIDE.stride % 256 = 0 ∧ x.cad.syncAt ≠ some 0 ∧ x.twin.attested = false) ∧
      ((((20 : Int) - 0) - ((20 : Int) - 20)) / 2 - signed 16 ((s [] {}).get CAD_SYNC_CTL.asym)).natAbs ≤ 20 ∧ ¬ ((((42 : Int) - 0) - ((42 : Int) - 42)) / 2 - signed 16 ((s [] {}).get CAD_SYNC_CTL.asym)).natAbs ≤ 20 ∧
      (s [(CAD_SYNC_CTL.role, 1)] {}).get CAD_SYNC_CTL.role = 1 ∧ ((withR 4 []).port 7).up = false ∧
      bitsOf (BitVec.ofNat 64 (500 * 2 ^ 21)) 40 21 = 500 ∧ bitsOf (BitVec.ofNat 64 (1000000 * 2 ^ 21)) 40 21 = 1000000 := by decide
/-- The pins for power up, with the rails down, and up; a running Farrier and one that restarts; the Rider's partition. -/
theorem test_met_Power : let p : Pins := { input := true, moduleEn := true }
    let up : Pins := { p with railsUp := true, enAgain := true }
    (({ State.reset with pins := p } : State).dev = dOff ∧ p.resetN = true ∧ p.railsUp = false ∧ up.railsUp = true ∧ up.enAgain = true) ∧
      (∀ n ∈ [1, 2, 3, 4, 5, 6, 7, 8, 9, 10, 12, 13, 14, 15, 16, 17, 18], (withR 1 [(CHP_BRINGUP.step, n)]).get CHP_BRINGUP.step = n) ∧
      (withR 1 [(CHP_BRINGUP.path, 2)]).get CHP_BRINGUP.path = 2 ∧ packFailsAny State.reset.far.pack false = none ∧ packFailsAny State.reset.far.pack true = none ∧
      (∀ x ∈ State.reset.stud, x.kind = 5 → x.place < 256) ∧
      (let a : State := { withR 2 [(FAR_MBX_STATUS.busy, 1)] with far := { awake := true } }
       a.far.awake = true ∧ a.get FAR_MBX_STATUS.busy = 1 ∧ a.far.log.length ≤ 1048576 ∧ (withR 2 []).far.awake = false ∧ (withR 2 []).bring.rider = false) := by decide
set_option maxRecDepth 20000 in
theorem test_met_RiderFits : let l : List (Fld × Nat) := (List.range 12).flatMap fun c => [(DDR_STATUS.trained c, 1), (DDR_STATUS.capacity c, 96)]
    (withR 2 l).riderFits = true := by decide
/-- A module in Ready with an image and a partner, in each state that pairs; during pairing, with a partner whose image is another, or the same. -/
theorem test_met_Pairing : let img : Img := ⟨0, [], [⟨0, 4, 0, [⟨0xFFFF, [1] ++ List.replicate 63 0⟩]⟩]⟩
    let up : Cells Port := [(8, { up := true })]
    let peer := fun seq => (⟨0, 0, seq, 0, [1] ++ List.replicate 63 0, 2, true⟩ : Peer)
    let s := fun (d st : Nat) (l : List (Fld × Nat)) (t : Twin) => ({ withR d ([(TWN_STATUS.state, st)] ++ l) with ports := up, twin := t, images := { committed := some img }, far := { reserved := 1 } } : State)
    (∀ st ∈ [twUNPAIRED, twALONE, twDETACHED, twPAIRING, twPAIRED, twREJOINING], (s 3 st [] { det := 1 }).twState = st ∧ (s 3 st [] { det := 1 }).yokes ≠ [] ∧
      (s 3 st [] { det := 1 }).twin.det ≠ 0 ∧ (s 3 st [] {}).twin.det = 0 ∧ (s 3 st [] {}).get FAR_SCAN.openS = 0 ∧ (s 3 st [] {}).hasJob = false ∧ (s 3 st [] {}).twin.guilty = none) ∧
      (let x := s 3 twPAIRING [(TWN_CTL.role_pref, 1)] { peer := some (peer 0) }
       x.far.seedGone = false ∧ 0 < x.far.reserved ∧ x.fuses.lms < 1024 ∧ x.fuses.lms * 2 ^ 20 + x.far.flashCount - x.far.reserved < 2 ^ 30 ∧
         (peer 1).sequence ≠ x.get CHP_IMG_SEQ.sequence ∧ (peer 0).sequence = x.get CHP_IMG_SEQ.sequence ∧ (peer 0).digest = beNat img.digest ∧
         (peer 0).twin = x.twinSection ∧ leAt (peer 0).twin 0 1 ≠ 0 ∧ chooseRole (x.get TWN_CTL.role_pref) 2 true = some 1 ∧ chooseRole (x.get TWN_CTL.role_pref) 2 false = some 1) ∧
      (∀ r ∈ [0, 1, 2], (s 3 twPAIRED [(TWN_STATUS.role, r), (TWN_STATUS.mode, 1)] {}).get TWN_STATUS.role = r) ∧ chooseRole 0 0 true = some 1 ∧ chooseRole 0 1 true = some 2 := by decide
/-- A paired twin in Mirror as near and off, in Standby as off; a tally that is here and one that is not; a comparison that is late. -/
theorem test_met_Partner : let j : Job := ⟨0, 1, 0, false, 0, true, none, false⟩
    let s := fun (role mode : Nat) => ({ withR 4 [(TWN_STATUS.state, 2), (TWN_STATUS.mode, mode), (TWN_STATUS.role, role), (CAD_STRIDE.stride, 1024), (CAD_PERIOD.current, 500)] with
      now := 20000000, dispatch := { job := some j }, twin := { mine := [(0, 7)], det := 3 } } : State)
    ((s 1 1).pairedIn 1 = true ∧ (s 2 2).pairedIn 2 = true ∧ (s 2 2).get TWN_STATUS.role = 2 ∧ (s 2 1).isOff = true ∧ (s 1 1).isOff = false ∧ (s 1 1).get CAD_STRIDE.stride ≤ 0 + 1024) ∧
      tallyOf (s 1 1).twin.mine 0 = some 7 ∧ tallyOf (s 1 1).twin.mine 1 = none ∧ (s 1 1).twin.bad = none ∧ (s 1 1).twin.compared = none ∧ (s 1 1).twin.gone = none ∧
      (({ s 2 1 with images := { committed := some (oneArea 1 5) } } : State).inputSlot 0 = some (1, 0)) ∧
      (s 1 1).tiers.inRange 1 0 = true ∧ (s 1 1).tiers.inRange 1 63 = true ∧ (s 1 1).twin.det < 4 ∧ (s 1 1).jobRuns = true ∧
      (s 1 1).tickOf ((s 1 1).compareNext + 2) + max 1 ((s 1 1).get TWN_CFG.wait_ms) * 1000000 ≤ (s 1 1).now := by decide
/-- The first logical block has a saddlebag where the area is long enough. -/
theorem test_met_Save : let img : Img := ⟨0, [], [⟨0, 5, 0, [⟨0xFFFF, [1, 2] ++ List.replicate 16 0 ++ [4] ++ List.replicate 13 0⟩]⟩]⟩
    ({ withR 4 [] with images := { committed := some img } } : State).hasSaddle 0 = true := by decide

/-- A command of ring 3. -/
def cmd (op : Nat) (stride : Nat) : Cmd := ⟨3, 1, op, false, stride, 0, 1, 1, 0, 0, 0, 9, false⟩
/-- A module in device state `d`, its last stride `n` acknowledged, with one command accepted and the job `j`. -/
def atWork (d n : Nat) (w : Work) (j : Option Job) : State :=
  { withR d [(CAD_STRIDE.stride, n), (CMD_CPL_CTL.enable, 1), (CMD_CPL_CTL.lg_size, 6)] with dispatch := { work := [w], job := j, turn := 3 } }

/-- Each command in turn; a launch at, before and after the present stride; an ADMIT at the ends of its lead; END and WAIT at the present stride. -/
theorem test_met_Commands : let j : Job := ⟨3, 1, 9, false, 256, true, none, false⟩
    ((atWork 3 256 { cmd := cmd 1 512 } (some j)).nextWork 1 = some { cmd := cmd 1 512 } ∧ (atWork 3 256 { cmd := cmd 1 512 } (some j)).dispatch.job ≠ none) ∧
      (∀ op ∈ [0, 1, 2, 3, 4], (atWork 3 256 { cmd := cmd op 512 } none).nextWork op = some { cmd := cmd op 512 } ∧ (atWork 3 256 { cmd := cmd op 512 } none).cplFull = false) ∧
      (512 % 256 = 0 ∧ 256 < 512 ∧ 256 ≤ 256 ∧ 513 % 256 ≠ 0) ∧ (withR 3 []).syncReady = false ∧ (withR 3 [(CAD_SYNC_CTL.enable, 1), (CAD_SYNC_STATUS.locked, 1)]).syncReady = true ∧
      ((cmd 2 456).admitOk = true ∧ ({ cmd 2 456 with addr := 1 } : Cmd).admitOk = false ∧ 456 ≤ 256 + 200 ∧ 256 + 200 < 457 ∧ (withR 4 []).twState = twUNPAIRED) ∧
      (let w : Work := { cmd := cmd 2 256, step := 1, a := 256 }
       let s : State := { atWork 4 256 w (some j) with rmt := [(7, { state := 0, lblock := 0 })] }
       (s.dispatch.work.find? fun w => w.cmd.op == 2 && w.step == 1 && w.a != 0 && s.reached w.a) = some w ∧ s.pblockOf w.cmd.lblock = some 7 ∧
         s.tiers.inRange 1 0 = true ∧ s.tiers.inRange 1 63 = true ∧ s.tiers.inRange 1 (2 ^ 40) = false) ∧
      (let w : Work := { cmd := cmd 1 256, step := 1 }
       let e := atWork 4 512 w (some { j with endAt := some 400 })
       let f : State := { e with jobFault := some (10, 0x22) }
       e.jobFaultOf = none ∧ e.inJob = true ∧ e.launchWork = some w ∧ e.get CHP_RCV_RELEASED.stride < 400 ∧ 400 ≤ (e.set CHP_RCV_RELEASED.stride 400).get CHP_RCV_RELEASED.stride ∧
         f.jobFaultOf = some (10, 0x22, 0x7FF) ∧ f.launchWork = some w) := by decide
set_option maxRecDepth 20000 in
/-- Ring 3 with entries to fetch from DRAM that reads zero (a gap), after number 0 and after the last number; completions to post, with room and without. -/
theorem test_met_Rings : let s := withR 3 [(CMD_RING_CTL.enable 3, 1), (CMD_RING_CTL.lg_size 3, 6), (CMD_RING_HEAD.index 3, 1), (CMD_CPL_CTL.enable, 1), (CMD_CPL_CTL.lg_size, 6)]
    s.canFetch 3 = true ∧ s.cplFull = false ∧ nextSeq 0 = 1 ∧ nextSeq 0xFFFFFFFF = 1 ∧ seqBehind 1 0xFFFFFFFF = 1 ∧ seqBehind 5 4 = 1 ∧ seqBehind 5 5 = 0 ∧
      (withR 3 []).cplFull = true ∧ (s.set CMD_CPL_HEAD.index 63).cplFull = true ∧ (withR 3 [(CMD_RING_CTL.step 3, 1)]).get (CMD_RING_CTL.step 3) = 1 ∧
      (Cmd.ofEntry 3 (leBytes 4 1 ++ List.replicate 60 0)).seq = 1 ∧ (Cmd.ofEntry 3 (leBytes 4 1 ++ [9] ++ List.replicate 59 0)).bad = true ∧
      (Cmd.ofEntry 3 (leBytes 4 1 ++ List.replicate 60 0)).bad = false := by decide
/-- Port 7 in Ethernet mode and up; its rings with room, full, and with a slot to send. -/
theorem test_met_Ports : let s := fun (l : List (Fld × Nat)) => ({ withR 3 ([(CMD_TRACE_CTL.enable 7, 1), (CMD_TRACE_CTL.mode 7, 1), (CMD_TRACE_CTL.lg_size 7, 6)] ++ l) with
      ports := [(7, { up := true })] } : State)
    ((s []).get (CMD_TRACE_CTL.enable 7) = 1 ∧ (s []).get (CMD_TRACE_CTL.mode 7) = 1 ∧ ((s []).port 7).up = true ∧ ringSize 6 14 ((s []).get (CMD_TRACE_CTL.lg_size 7)) = 64) ∧
      ((0 + 1) % 64 ≠ (s []).get (CMD_TRACE_RXTAIL.index 7) % 64 ∧ (0 + 1) % 64 = (s [(CMD_TRACE_RXTAIL.index 7, 1)]).get (CMD_TRACE_RXTAIL.index 7) % 64) ∧
      (let x := s [(CMD_TRACE_TX.enable 7, 1), (CMD_TRACE_TX.lg_size 7, 14), (CMD_TRACE_TXHEAD.index 7, 1)]
       x.gated = false ∧ x.get (CMD_TRACE_TX.enable 7) = 1 ∧ ringSize 6 14 (x.get (CMD_TRACE_TX.lg_size 7)) = 16384 ∧ x.get (CMD_TRACE_TXTAIL.index 7) % 16384 ≠ x.get (CMD_TRACE_TXHEAD.index 7) % 16384) := by
  decide
/-- An output message of a port in fabric mode, and one without a template; a fabric frame of type 16; a frame 10 µs old, sent once and eight times; a peer's reset. -/
theorem test_met_Fabric : let k : Pkt := { kind := kMESSAGE, payload := [7] }
    let frame : List Byte := List.replicate 12 0 ++ [0x88, 0xB5, 1, 16] ++ List.replicate 30 0
    let f := fun n => (⟨5, 1, [], 0, n⟩ : FabFrame)
    (∀ t ∈ [0, 11, 18], ∀ d ∈ [3, 4], (withR d []).mayEmit t = true) ∧
    let r : FabIn := ⟨20, 5, 9, []⟩
    let s : State := { withR 4 [] with ports := [(0, { up := true, inbox := [r] })] }
    takeFirst (fun k : Pkt => k.kind == kMESSAGE) [k] = some (k, []) ∧ ((withR 3 []).outFrame 7 k).map OutFrame.fabric = some true ∧ ((withR 3 []).outFrame 7 k).map OutFrame.stampAt = some none ∧
      (withR 3 [(CMD_TRACE_CTL.mode 7, 1)]).outFrame 7 k = none ∧ (fabParse frame).map Prod.fst = some 16 ∧
      (∀ n ∈ [1, 7, 8], ([f n].find? fun f => f.peer == 5) = some (f n) ∧ (f n).sentAt + 10000 ≤ 10000) ∧ s.peerResetFrame = some (0, r) ∧
      takeFirst (fun f : FabIn => f.type == 16 || f.type == 17) [⟨17, 5, 0, []⟩] = some (⟨17, 5, 0, []⟩, []) ∧ (withR 3 []).peerResetFrame = none := by decide
/-- A Farrier that runs, with a record to take in; a junction that reaches its trip temperature; sessions free and taken; a management cap at its bounds. -/
theorem test_met_Farrier : let far : Farrier := { awake := true, reading := true }
    let e : Ev := { code := 0xBD }
    let s : State := { withR 4 [] with far := far, ev := [e], sens := [(63, 1759)] }
    (s.far.awake = true ∧ s.ev = e :: [] ∧ s.far.log.length < 1048576 ∧ s.far.reading = true ∧ s.get FAR_SCAN.openS = 0) ∧
      (sensorUsed 63 = true ∧ sensorUsed 98 = true ∧ sensorUsed 103 = false ∧ sensorUsed 133 = true ∧ s.tripping 63 1760 = true ∧ s.tripping 63 (signed 32 (s.sensor 63)) = false) ∧
      (∀ i < 4, let x : State := { s with far := { far with sessions := (List.range i).map fun j => (j, { open_ := true }) } }
        (mget sessionInit x.far.sessions i).open_ = false ∧ ∀ j < i, (mget sessionInit x.far.sessions j).open_ = true) ∧
      (let x : State := { s with far := { far with next := 65539, sessions := [(3, { open_ := true, anchored := true })] } }
       (mget sessionInit x.far.sessions 3).anchored = true ∧ x.far.rom = false ∧ x.far.next ≤ 2 + 65537 ∧ 1 + 65537 < x.far.next ∧ x.fuses.capW ≤ 2 * 1000 ∧ 2000 ≤ x.fuses.capW) := by decide
/-- A staged, a fresh and an unused component; a key of the right form; scan from Held and Out of service; a lease that is free and one that is not. -/
theorem test_met_Firmware : let w : Firmware := { staged := true, fresh := true }
    let s : State := { withR 2 [] with far := { awake := true, reserved := 1, log := [(5, { code := 0xBD })], inFlash := 1, firmware := [(2, w)], sessions := [(0, { open_ := true, anchored := true })] }, stud := [⟨1, 0, 0, 0⟩] }
    (s.far.activating = none ∧ (s.fw 2).staged = true ∧ (s.fw 2).fresh = true ∧ (s.fw 3).staged = false ∧ (s.fw 3).fresh = false) ∧
      (keyForm ([0, 0, 0, 8, 0, 0, 0, 3] ++ List.replicate 48 0) = true ∧ keyForm [] = false) ∧
      (s.far.seedGone = false ∧ 0 < s.far.reserved ∧ s.fuses.lms * 2 ^ 20 + s.far.flashCount - s.far.reserved < 2 ^ 30) ∧
      (((s.far.log.take s.far.inFlash).find? fun x => x.1 == 5).isSome = true ∧ s.get FAR_MBX_STATUS.busy = 0 ∧ s.stud[0]?.isSome = true ∧ s.stud[1]? = none) ∧
      s.leaseFree 8 65535 = true ∧ ({ s with leases := { held := [{ code := 8, res := 0 }] } } : State).leaseFree 8 0 = false ∧ s.packCheck [] = 1 ∧ s.fwCheck [] = .fwFormat := by decide
/-- Staged firmware of the compute die's two parts in Held and Ready; removal of a key that is there; a frame that the gate holds back. -/
theorem test_met_FirmwareDie : (∀ d ∈ [2, 3], ∀ c ∈ [3, 4], let s : State := { withR d [] with far := { firmware := [(c, { staged := true })] } }
      s.far.activating = none ∧ (s.fw c).staged = true ∧ s.dev = d) ∧
    (let k : List Byte := [0, 0, 0, 8, 0, 0, 0, 3] ++ List.replicate 48 0
     let rest := ({ withR 2 [] with signKeys := [k] } : State).signKeys.filter fun x => sliceZ x 8 16 != sliceZ (List.replicate 16 0) 0 16
     rest ≠ [k] ∧ rest.length < 8) ∧ (withR 2 []).mayEmit 18 = false := by decide
/-- The addresses on each side of the ends of the regions of R473, and an unlisted offset and a listed one of each part of the control space. -/
theorem test_met_Addresses : let s := withR 2 []
    (∀ a ∈ [64 * 2 ^ 30, 0x0FFFFFFFFFC0, 0x100005000000, 0x100030020000, 0x1FFFFFFFFFC0, 0x210000000000, 0x2FFFFFFFFFC0, 0x380000000000, 0xEFFFFFFFFFC0],
      inControl a = false ∧ s.mapped a = false ∧ a < 2 ^ 48) ∧
      (∀ a ∈ [0x100000003FF8, 0x1000100FFFF8, 0x100020FFFFF8, 0x10003000FFF8], inControl a = true ∧ listed a = false ∧ a % 8 = 0) ∧
      (∀ a ∈ [0x100004FFFFF8, 0x100020000000, 0x100030000000, 0x10003001FFF8], inControl a = true ∧ listed a = true) ∧ s.released = true ∧ s.windowsOpen = true ∧
      s.far.riderNow ≤ 1024 ∧ s.windowOf (0x210000000000 - 1) = some (1, 2 ^ 40 - 1) ∧ s.windowOf (64 * 2 ^ 30 - 1) = some (2, 2 ^ 42 + 64 * 2 ^ 30 - 1) := by decide

end Sys2Proof.Machine
end

section
/-! SUPPORT. Rules that the statements on Rider accesses and harness images share: records of the chip steward, what becomes of the chip's
words, and register writes under the access codes of R6. -/

namespace Sys2Proof.Machine

/-! Records of the chip steward (R412, R433). -/

/-- A record other than of a corrected error is always kept (R412). -/
theorem State.chipRecord_uncorrected (s : State) {e : Ev} (h : e.outcome ≠ 0) : s.chipRecord e = { s with ev := s.ev ++ [e] } := by
  simp [State.chipRecord, Ev.corrected, h]

/-- A raised event changes the chip steward's records only. -/
theorem State.raise_eq (s : State) (level place : Nat) (e : Ev) :
    ∃ ev co, s.raise level place e = { s with ev := ev, evCoalesced := co } := by
  unfold State.raise State.chipRecord
  split
  · exact ⟨_, _, rfl⟩
  · split <;> exact ⟨_, _, rfl⟩

/-! What becomes of the chip's words. -/

/-- A change outside the register words. -/
theorem State.ChipBecomes.of_regs {s b : State} {regs : List Nat} (h : b.regs = s.regs) : s.ChipBecomes regs b b :=
  ⟨⟨_, _, _, rfl⟩, fun a _ => by rw [h]⟩

/-- A field of a named register set besides. -/
theorem State.ChipBecomes.set {s b t : State} {regs : List Nat} (h : s.ChipBecomes regs b t) {f : Fld} (hf : f.off ∈ regs) (v : Nat) :
    s.ChipBecomes regs b (t.set f v) := by
  obtain ⟨⟨m, ev, co, rfl⟩, words⟩ := h
  refine ⟨⟨_, ev, co, rfl⟩, fun a ha => ?_⟩
  rw [← words a ha]
  exact Regs.word_set_ne _ _ _ _ fun e => ha (e ▸ hf)

/-! Register writes (R6). -/

/-- The fields of a register lie within its word and share no bit. -/
def RegRow.apart (r : RegRow) : Prop :=
  (∀ f ∈ r.fields, f.lo ≤ f.hi ∧ f.hi < 64) ∧ r.fields.Pairwise fun f g => f.hi < g.lo ∨ g.hi < f.lo

/-- Every register that an address of the chip steward or the Farrier names has its fields apart. -/
theorem chipRow_apart {a : Nat} {r : RegRow} (h : chipRow a = some r) : r.apart := by
  have all : ∀ x ∈ chipRows ++ mgrRows ++ ddrRows, x.apart := by
    unfold RegRow.apart
    decide
  refine all r ?_
  unfold chipRow findRow at h
  simp only [List.mem_append]
  split at h
  · exact .inl (.inr (List.mem_of_find?_eq_some h))
  · split at h
    · exact .inr (List.mem_of_find?_eq_some h)
    · exact .inl (.inl (List.mem_of_find?_eq_some h))

/-- What a write of `new` over `old` leaves in bits [hi:lo] under an access code (R6). -/
def Acc.leaves (c : Acc) (lock : Bool) (old new : Word) (hi lo : Nat) : Nat :=
  match c with
  | .ro => bitsOf old hi lo
  | .wo => 0
  | .rw => bitsOf new hi lo
  | .w1c => bitsOf (old &&& ~~~ new) hi lo
  | .rwl => if lock then bitsOf old hi lo else bitsOf new hi lo
  | .cnt => if bitsOf new hi lo = 0 then 0 else bitsOf old hi lo

/-- A w1c bit (R6): written 1, it is cleared. -/
theorem bitsOf_clear (old new : Word) (i : Nat) :
    bitsOf (old &&& ~~~ new) i i = if new.getLsbD i then 0 else bitsOf old i i := by
  have clear : (old &&& ~~~ new).getLsbD i = (old.getLsbD i && !new.getLsbD i) := by
    rw [BitVec.getLsbD_and, BitVec.getLsbD_not]
    by_cases hi : i < 64
    · rw [decide_eq_true hi, Bool.true_and]
    · rw [BitVec.getLsbD_of_ge old i (by omega), Bool.false_and, Bool.false_and]
  apply Nat.eq_of_testBit_eq
  intro j
  rw [apply_ite (Nat.testBit · j), bitsOf_testBit (Nat.le_refl i), bitsOf_testBit (Nat.le_refl i)]
  by_cases hj : j = 0
  · rw [hj, Nat.add_zero, clear]
    cases new.getLsbD i <;> simp
  · simp [hj]

/-- The whole word as a field. -/
theorem bitsOf_word_eq_zero (w : Word) : bitsOf w 63 0 = 0 ↔ w = 0 := by
  rw [bitsOf, Nat.shiftRight_zero, Nat.mod_eq_of_lt w.isLt]
  exact BitVec.toNat_inj (y := 0)

/-- A field's own bits after its write, where they were still the old ones. -/
theorem FieldRow.write_same (lock : Bool) (old new : Word) {w : Word} {f : FieldRow} (hf : f.lo ≤ f.hi ∧ f.hi < 64)
    (hw : bitsOf w f.hi f.lo = bitsOf old f.hi f.lo) :
    bitsOf (f.write lock old new w) f.hi f.lo = f.acc.leaves lock old new f.hi f.lo := by
  have put : ∀ x, bitsOf (putBits w f.hi f.lo (bitsOf x f.hi f.lo)) f.hi f.lo = bitsOf x f.hi f.lo := fun x => by
    rw [bitsOf_putBits_same hf.1 hf.2, Nat.mod_eq_of_lt (bitsOf_lt ..)]
  have zero : bitsOf (putBits w f.hi f.lo 0) f.hi f.lo = 0 := by
    rw [bitsOf_putBits_same hf.1 hf.2, Nat.zero_mod]
  unfold FieldRow.write Acc.leaves
  cases f.acc <;> dsimp only
  case ro => exact hw
  case rw => exact put _
  case w1c => exact put _
  case wo => exact zero
  case rwl => split <;> simp [hw, put]
  case cnt => split <;> simp [hw, zero]

/-- Bits apart from the written field. -/
theorem FieldRow.write_apart (lock : Bool) (old new w : Word) {f : FieldRow} (hf : f.lo ≤ f.hi) {hi lo : Nat} (h : lo ≤ hi)
    (a : f.hi < lo ∨ hi < f.lo) : bitsOf (f.write lock old new w) hi lo = bitsOf w hi lo := by
  have put : ∀ n, bitsOf (putBits w f.hi f.lo n) hi lo = bitsOf w hi lo := fun n => bitsOf_putBits_apart hf h a w n
  unfold FieldRow.write
  cases f.acc <;> dsimp only
  case rwl => split <;> simp [put]
  case cnt => split <;> simp [put]
  all_goals exact put _

/-- Bits apart from every written field. -/
theorem FieldRow.foldl_write_apart (lock : Bool) (old new : Word) {hi lo : Nat} (h : lo ≤ hi) {fs : List FieldRow}
    (ok : ∀ f ∈ fs, f.lo ≤ f.hi) (a : ∀ f ∈ fs, f.hi < lo ∨ hi < f.lo) (w : Word) :
    bitsOf (fs.foldl (FieldRow.write lock old new) w) hi lo = bitsOf w hi lo := by
  induction fs generalizing w with
  | nil => rfl
  | cons f fs ih =>
    simp only [List.forall_mem_cons] at ok a
    rw [List.foldl_cons, ih ok.2 a.2, FieldRow.write_apart lock old new w ok.1 h a.1]

/-- A field after a write of its register: what its access code says (R6). -/
theorem RegRow.write_field {r : RegRow} (hr : r.apart) (lock : Bool) (old new : Word) {f : FieldRow} (hf : f ∈ r.fields) :
    bitsOf (r.write lock old new) f.hi f.lo = f.acc.leaves lock old new f.hi f.lo := by
  obtain ⟨ok, ap⟩ := hr
  obtain ⟨xs, ys, e⟩ := List.append_of_mem hf
  rw [e] at ok ap
  obtain ⟨-, apy, apx⟩ := List.pairwise_append.mp ap
  have okx : ∀ g ∈ xs, g.lo ≤ g.hi := fun g h => (ok g (by simp [h])).1
  have oky : ∀ g ∈ ys, g.lo ≤ g.hi := fun g h => (ok g (by simp [h])).1
  have okf : f.lo ≤ f.hi ∧ f.hi < 64 := ok f (by simp)
  have before : bitsOf (xs.foldl (FieldRow.write lock old new) old) f.hi f.lo = bitsOf old f.hi f.lo :=
    FieldRow.foldl_write_apart lock old new okf.1 okx (fun g h => apx g h f (by simp)) old
  rw [RegRow.write, e, List.foldl_append, List.foldl_cons,
    FieldRow.foldl_write_apart lock old new okf.1 oky fun g h => ((List.pairwise_cons.mp apy).1 g h).symm]
  exact FieldRow.write_same lock old new okf before

/-- A register of read-only fields keeps its word. -/
theorem RegRow.write_of_ro {r : RegRow} (h : ∀ f ∈ r.fields, f.acc = .ro) (lock : Bool) (old new : Word) : r.write lock old new = old := by
  unfold RegRow.write
  generalize r.fields = fs at h
  induction fs with
  | nil => rfl
  | cons f fs ih =>
    simp only [List.forall_mem_cons] at h
    rw [List.foldl_cons, FieldRow.write, h.1]
    exact ih h.2

/-- Whether the register tables of the chip steward, the memories and the Farrier give a field this access code. -/
def Fld.coded (f : Fld) (c : Acc) : Bool :=
  (chipRow f.off).any fun r => r.fields.any fun x => x.hi == f.hi && x.lo == f.lo && x.acc == c

/-- A field after a write of its register by access codes (R6). -/
theorem State.get_writePlain (s : State) {f : Fld} {c : Acc} (h : f.coded c = true) (lock : Bool) (v : Word) :
    (s.writePlain f.off lock v).get f = c.leaves lock (mget chipReset s.regs f.off) v f.hi f.lo := by
  simp only [Fld.coded, Option.any_eq_true, List.any_eq_true, Bool.and_eq_true, beq_iff_eq] at h
  obtain ⟨r, hr, x, hx, ⟨hhi, hlo⟩, rfl⟩ := h
  simp only [State.writePlain, hr, State.get, Regs.get, mget_mset_same]
  rw [← hhi, ← hlo]
  exact RegRow.write_field (chipRow_apart hr) lock _ v hx

/-- A write by access codes changes the words of its register alone. -/
theorem State.writePlain_becomes (s : State) (a : Nat) (lock : Bool) (v : Word) : s.ChipBecomes [a] s (s.writePlain a lock v) := by
  unfold State.writePlain
  split
  · exact .of_regs rfl
  · exact ⟨⟨_, _, _, rfl⟩, fun x hx => mget_mset_ne chipReset _ _ (by simpa using hx)⟩

/-- Whether the register tables give every field of a register the code ro. -/
def readOnly (a : Nat) : Bool := (chipRow a).all fun r => r.fields.all fun f => f.acc == .ro

/-- A write of a register of read-only fields changes nothing. -/
theorem State.writePlain_readOnly (s : State) {a : Nat} (h : readOnly a = true) (lock : Bool) (v : Word) :
    s.ChipBecomes [] s (s.writePlain a lock v) := by
  unfold State.writePlain
  split
  · exact .of_regs rfl
  · next r hr =>
    simp only [readOnly, hr, Option.all_some, List.all_eq_true, beq_iff_eq] at h
    refine ⟨⟨_, _, _, rfl⟩, fun x _ => ?_⟩
    rw [mget_mset, RegRow.write_of_ro h]
    split
    · next e => rw [e]
    · rfl

/-- A register of the chip steward whose write has no further meaning: its fields follow their access codes (R6). -/
def plainChip (a : Nat) : Bool :=
  decide (a < 0x100020070000) && !([CAD_PERIOD.off, CAD_PERIOD_AT.off, CAD_SYNC_CTL.off, CHP_IMG_CTL.off, CHP_SWAP_AT.off,
    TST_CHP_PREEMPT_AT.off, LSE_REQ.off, TWN_CTL.off, CHP_RST.off] ++ (List.range 4).map CAD_SEED.off).contains a

/-- The write of such a register. -/
theorem State.writeChip_plain (s : State) {a : Nat} (h : plainChip a = true) (v : Word) : s.writeChip a v = s.writePlain a false v := by
  simp only [plainChip, Bool.and_eq_true, decide_eq_true_eq, Bool.not_eq_true', List.contains_eq_mem, decide_eq_false_iff_not,
    List.mem_append, List.mem_cons, List.not_mem_nil, List.mem_map, not_or, not_exists, not_and] at h
  obtain ⟨below, ⟨period, periodAt, sync, img, swap, preempt, lease, twin, rst, -⟩, seed⟩ := h
  have seeds : ((List.range 4).any fun i => a == CAD_SEED.off i) = false :=
    List.any_eq_false.mpr fun i hi e => seed i hi (beq_iff_eq.mp e).symm
  unfold State.writeChip
  simp only [period, periodAt, sync, img, swap, preempt, lease, twin, rst, seeds, if_false, Bool.false_eq_true]
  rw [if_neg (by omega), if_neg (by omega)]

/-- The node number is locked while a job exists. -/
theorem State.writeChip_node (s : State) (v : Word) : s.writeChip CMD_NODE.off v = s.writePlain CMD_NODE.off s.hasJob v := rfl

/-- A released die is not Off (R300). -/
theorem State.released_on (s : State) (h : s.released = true) : s.dev ≠ dOff := by
  simp only [State.released, Bool.and_eq_true, bne_iff_ne] at h
  exact h.1

/-- An aligned write to a listed register of chip steward space. -/
theorem State.registerWrite_chip {s : State} (on : s.released = true) {a : Nat} (aligned : a % 8 = 0) (control : inControl a = true)
    (known : listed a = true) (lo : 0x100011000000 ≤ a) (hi : a < 0x100030000000) (v : Word) :
    s.registerWrite a v = s.writeChip a v := by
  unfold State.registerWrite
  rw [if_neg (by simp [s.released_on on, aligned, control]), if_neg (by simp [known]), if_neg (by omega), if_neg (by simp [on]),
    if_neg (by omega), if_neg (by omega)]

/-- A write of a register of the chip steward whose fields follow their access codes. -/
theorem exec_registerWrite_plain {s : State} (on : s.released = true) {a : Nat} (plain : plainChip a = true)
    (place : a % 8 = 0 ∧ inControl a = true ∧ listed a = true ∧ 0x100011000000 ≤ a) (v : Word) :
    exec (.registerWrite a v) s = .next (s.writePlain a false v) := by
  obtain ⟨aligned, control, known, lo⟩ := place
  have hi : a < 0x100030000000 := by
    simp only [plainChip, Bool.and_eq_true, decide_eq_true_eq] at plain
    omega
  show Host.Outcome.next (s.registerWrite a v) = _
  rw [State.registerWrite_chip on aligned control known lo hi, State.writeChip_plain s plain]

/-- An aligned write to a listed place of the Farrier mailbox. -/
theorem State.registerWrite_far {s : State} (on : s.dev ≠ dOff) {a : Nat} (aligned : a % 8 = 0) (control : inControl a = true)
    (known : listed a = true) (lo : 0x100030000000 ≤ a) (v : Word) : s.registerWrite a v = s.writeFar a v := by
  unfold State.registerWrite
  rw [if_neg (by simp [on, aligned, control]), if_neg (by simp [known]), if_pos lo]

/-- A sensor is chosen while the Farrier is awake (R431). -/
theorem State.writeFar_sensSel (s : State) (v : Word) :
    s.writeFar FAR_SENS_SEL.off v = if s.far.awake then s.writePlain FAR_SENS_SEL.off false v else s := by
  unfold State.writeFar
  cases s.far.awake <;> rfl

/-- Writes that reach no register: unaligned, outside the control space, to the Farrier while it restarts, or to a die that is not released. -/
theorem State.registerWrite_ignored {s : State} {a : Nat}
    (h : a % 8 ≠ 0 ∨ inControl a = false ∨ (0x100030000000 ≤ a ∧ listed a = true ∧ s.far.awake = false) ∨
      (a < 0x100030000000 ∧ listed a = true ∧ s.released = false)) (v : Word) : s.registerWrite a v = s := by
  by_cases none : s.dev = dOff ∨ a % 8 ≠ 0 ∨ !inControl a
  · exact if_pos none
  · obtain ⟨-, aligned, control⟩ := by simpa using none
    have place := h.resolve_left (not_not.mpr aligned) |>.resolve_left (by simp [control])
    unfold State.registerWrite
    rw [if_neg none]
    rcases place with ⟨far, known, asleep⟩ | ⟨near, known, held⟩
    · rw [if_neg (by simp [known]), if_pos far, State.writeFar, if_pos (by simp [asleep])]
    · rw [if_neg (by simp [known]), if_neg (Nat.not_le.mpr near), if_pos (by simp [held])]

end Sys2Proof.Machine
end

section
/-! SUPPORT. Rider accesses (R473 to R477): what a request of a core leaves alone, and the lines of an access. -/

namespace Sys2Proof.Machine

/-- A refused access: its record, and the zero that a read returns (R5, R474). -/
theorem State.refuseAccess_eq (s : State) (a reason : Nat) (write : Bool) :
    s.refuseAccess a reason write = { s with
      ev := s.ev ++ [s.stamp { level := 2, code := 0xBD, detail := a, detail2 := reason }]
      out := s.out ++ (if write then [] else [.readZero a]) } := by
  unfold State.refuseAccess State.raise
  rw [State.chipRecord_uncorrected _ (by simp [State.stamp])]
  cases write <;> simp

/-- A unit reads what was put in its place. -/
theorem State.unit_setUnit_same (s : State) (u : Nat) (m : MeshUnit) : (s.setUnit u m).unit u = m := by
  unfold State.unit State.setUnit
  split
  · rw [State.block_setBlock_same]
  · exact mget_mset_same unitInit _ _ _

/-- A unit other than the one replaced reads as before. -/
theorem State.unit_setUnit_ne (s : State) {u w : Nat} (m : MeshUnit) (h : w ≠ u) : (s.setUnit u m).unit w = s.unit w := by
  unfold State.unit State.setUnit
  split <;> split
  · rw [State.block_setBlock_ne s _ h]
  · rfl
  · rfl
  · exact mget_mset_ne unitInit _ _ h

/-- From `s` to `t` unit `u` has sent `n` requests of the Rider complex, and nothing else has happened that an access could show. -/
structure RiderSent (u n : Nat) (s t : State) : Prop where
  dev : t.dev = s.dev
  far : t.far = s.far
  hbm : t.hbm = s.hbm
  ddr : t.ddr = s.ddr
  regs : t.regs = s.regs
  out : t.out = s.out
  ev : t.ev = s.ev
  reqs : t.riderReqs.length = s.riderReqs.length + n
  units : ∀ w, w ≠ u → t.unit w = s.unit w

/-- Nothing sent. -/
theorem RiderSent.refl (u : Nat) (s : State) : RiderSent u 0 s s :=
  ⟨rfl, rfl, rfl, rfl, rfl, rfl, rfl, rfl, fun _ _ => rfl⟩

/-- Some requests after others. -/
theorem RiderSent.trans {u m n : Nat} {a b c : State} (h : RiderSent u m a b) (k : RiderSent u n b c) : RiderSent u (n + m) a c where
  dev := k.dev.trans h.dev
  far := k.far.trans h.far
  hbm := k.hbm.trans h.hbm
  ddr := k.ddr.trans h.ddr
  regs := k.regs.trans h.regs
  out := k.out.trans h.out
  ev := k.ev.trans h.ev
  reqs := by rw [k.reqs, h.reqs]; omega
  units w hw := (k.units w hw).trans (h.units w hw)

/-- An endpoint is replaced among the endpoints. -/
theorem State.setUnit_endpoint (s : State) {u : Nat} (h : 1280 ≤ u) (m : MeshUnit) :
    s.setUnit u m = { s with endpoints := mset unitInit s.endpoints u m } := if_neg (by omega)

/-- A request of a Rider core: its number is drawn, it awaits its reply, and its packet waits at the core's port (R475, R476). -/
theorem State.riderSend_eq (s : State) (core tier t n : Nat) (write : Bool) (k : Pkt) :
    ∃ es, s.riderSend core tier t n write k = { s with
      freeCtr := s.freeCtr + 1, riderReqs := s.riderReqs ++ [⟨s.freeCtr % 2 ^ 24, core % 2, core, t, n, write⟩], endpoints := es } :=
  ⟨_, State.setUnit_endpoint _ (by omega) _⟩

/-- The packet of a request waits last at the core's port. -/
theorem State.riderSend_sendq (s : State) (core tier t n : Nat) (write : Bool) (k : Pkt) :
    ((s.riderSend core tier t n write k).unit (1392 + core % 2)).sendq = (s.unit (1392 + core % 2)).sendq ++
      [{ pkt := { k with tag := s.freeCtr % 2 ^ 24, addr := t / 64 * 64 }, idx := memEndpoint tier (routerOf (1392 + core % 2) % 40) t,
         owner := .mem (s.freeCtr % 2 ^ 24) }] := by
  unfold State.riderSend State.sendFrom
  rw [State.unit_setUnit_same]
  rfl

/-- One request leaves at the core's port (R475). -/
theorem State.riderSend_sent (s : State) (core tier t n : Nat) (write : Bool) (k : Pkt) :
    RiderSent (1392 + core % 2) 1 s (s.riderSend core tier t n write k) := by
  have units : ∀ w, w ≠ 1392 + core % 2 → (s.riderSend core tier t n write k).unit w = s.unit w :=
    fun _ hw => State.unit_setUnit_ne _ _ hw
  obtain ⟨es, e⟩ := s.riderSend_eq core tier t n write k
  rw [e] at units ⊢
  exact ⟨rfl, rfl, rfl, rfl, rfl, rfl, rfl, List.length_append, units⟩

/-- One request for each item of a list. -/
theorem RiderSent.foldl {α : Type} {u : Nat} {f : State → α → State} {xs : List α} {s : State}
    (h : ∀ t, t.dev = s.dev → t.far = s.far → ∀ x ∈ xs, RiderSent u 1 t (f t x)) : RiderSent u xs.length s (xs.foldl f s) := by
  induction xs generalizing s with
  | nil => exact .refl u s
  | cons x xs ih =>
    have one := h s rfl rfl x List.mem_cons_self
    exact one.trans (ih fun t hd hf y hy => h t (hd.trans one.dev) (hf.trans one.far) y (List.mem_cons_of_mem _ hy))

/-- The windows open with the states of R477. -/
theorem State.windowsOpen_iff (s : State) :
    s.windowsOpen = true ↔ s.dev = dHeld ∨ s.dev = dReady ∨ s.dev = dRunning ∨ s.dev = dRecovering := by
  simp [State.windowsOpen, State.inJob, or_assoc]

/-- The `size` bytes at `a` lie in a window of R473, the first of them at place `t` of tier `tier`. -/
def State.InWindow (s : State) (a size tier t : Nat) : Prop :=
  (tier = 1 ∧ 0x200000000000 ≤ a ∧ a + size ≤ 0x210000000000 ∧ t = a - 0x200000000000) ∨
    (tier = 2 ∧ 0x300000000000 ≤ a ∧ a + size ≤ 0x380000000000 ∧ t = a - 0x300000000000) ∨
    (tier = 2 ∧ a + size ≤ s.far.riderNow * 2 ^ 30 ∧ t = 2 ^ 42 + a)

/-- The place of each byte of such an access. -/
theorem State.InWindow.windowOf {s : State} {a size tier t : Nat} (h : s.InWindow a size tier t) (room : s.far.riderNow ≤ 1024)
    {k : Nat} (hk : k < size) : s.windowOf (a + k) = some (tier, t + k) := by
  unfold State.windowOf
  rcases h with ⟨rfl, lo, hi, e⟩ | ⟨rfl, lo, hi, e⟩ | ⟨rfl, hi, e⟩
  · have low : ¬ a + k < s.far.riderNow * 2 ^ 30 := by omega
    have hbm : 0x200000000000 ≤ a + k ∧ a + k < 0x200000000000 + 2 ^ 40 := by omega
    have place : a + k - 0x200000000000 = t + k := by omega
    rw [if_neg low, if_pos hbm, place]
  · have low : ¬ a + k < s.far.riderNow * 2 ^ 30 := by omega
    have hbm : ¬ (0x200000000000 ≤ a + k ∧ a + k < 0x200000000000 + 2 ^ 40) := by omega
    have ddr : 0x300000000000 ≤ a + k ∧ a + k < 0x300000000000 + 2 ^ 43 := by omega
    have place : a + k - 0x300000000000 = t + k := by omega
    rw [if_neg low, if_neg hbm, if_pos ddr, place]
  · have low : a + k < s.far.riderNow * 2 ^ 30 := by omega
    have place : 2 ^ 42 + (a + k) = t + k := by omega
    rw [if_pos low, place]

/-- The bytes of an access on its line `i` begin at one of its own. -/
theorem lineStart_mem {a size i : Nat} (hi : i < (a % 64 + size + 63) / 64) (pos : 0 < size) :
    ∃ k < size, max a (a / 64 * 64 + 64 * i) = a + k := by
  refine ⟨max a (a / 64 * 64 + 64 * i) - a, ?_, ?_⟩ <;> omega

/-- A line in an open window becomes a request (R475). -/
theorem State.riderLine_open {s : State} {a tier t : Nat} (h : s.windowOf a = some (tier, t)) (o : s.windowsOpen = true) (core n : Nat)
    (data : Option (List Byte)) : s.riderLine core a n data = s.riderSend core tier t n data.isSome (riderPkt a n data) := by
  unfold State.riderLine
  rw [h]
  unfold State.riderAt
  dsimp only
  rw [o]
  rfl

/-- A line in a window that is closed leaves nothing (R477). -/
theorem State.riderLine_closed {s : State} {a tier t : Nat} (h : s.windowOf a = some (tier, t)) (o : s.windowsOpen = false) (core n : Nat)
    (data : Option (List Byte)) : s.riderLine core a n data = s := by
  unfold State.riderLine
  rw [h]
  unfold State.riderAt
  dsimp only
  rw [o]
  rfl

section
variable {s : State} {a size tier t : Nat} (w : s.InWindow a size tier t) (room : s.far.riderNow ≤ 1024) (pos : 0 < size)
include w room pos

/-- An access of a closed window does nothing (R477). -/
theorem State.riderAccess_closed (o : s.windowsOpen = false) (core : Nat) (data : Option (List Byte)) :
    s.riderAccess core a size data = s := by
  unfold State.riderAccess
  split
  · rfl
  · refine List.foldlRecOn (motive := (· = s)) _ _ rfl ?_
    rintro _ rfl i hi
    obtain ⟨k, hk, e⟩ := lineStart_mem (List.mem_range.mp hi) pos
    simp only [e]
    exact State.riderLine_closed (w.windowOf room hk) o ..

/-- An access of an open window sends one request for each aligned line it touches (R475). -/
theorem State.riderAccess_sent (o : s.windowsOpen = true) (on : s.dev ≠ dOff) (core : Nat) (data : Option (List Byte)) :
    RiderSent (1392 + core % 2) ((a % 64 + size + 63) / 64) s (s.riderAccess core a size data) := by
  have sent : RiderSent (1392 + core % 2) (List.range ((a % 64 + size + 63) / 64)).length s (s.riderAccess core a size data) := by
    unfold State.riderAccess
    rw [if_neg (by simp [on, Nat.ne_of_gt pos])]
    refine RiderSent.foldl fun r hd hf i hi => ?_
    obtain ⟨k, hk, e⟩ := lineStart_mem (List.mem_range.mp hi) pos
    have here : r.windowOf (a + k) = some (tier, t + k) := by
      rw [← w.windowOf room hk, State.windowOf, State.windowOf, hf]
    have opened : r.windowsOpen = true := by
      rw [← o, State.windowsOpen, State.windowsOpen, State.inJob, State.inJob, hd]
    simp only [e]
    rw [State.riderLine_open here opened]
    exact r.riderSend_sent ..
  rwa [List.length_range] at sent

/-- An access within one line is one request for the whole of it. -/
theorem State.riderAccess_line (o : s.windowsOpen = true) (on : s.dev ≠ dOff) (one : a % 64 + size ≤ 64) (core : Nat)
    {data : Option (List Byte)} (len : ∀ bytes ∈ data, bytes.length = size) :
    s.riderAccess core a size data = s.riderSend core tier t size data.isSome (riderPkt a size data) := by
  have lines : (a % 64 + size + 63) / 64 = 1 := by omega
  have lo : max a (a / 64 * 64 + 64 * 0) = a := by omega
  have hi : min (a + size) (a / 64 * 64 + 64 * 0 + 64) = a + size := by omega
  have whole : (data.map fun bs => sliceZ bs (a - a) (a + size - a)) = data := by
    cases data with
    | none => rfl
    | some bs => simp [sliceZ_self (len bs rfl)]
  have here : s.windowOf a = some (tier, t) := w.windowOf room pos
  unfold State.riderAccess
  rw [if_neg (by simp [on, Nat.ne_of_gt pos]), lines, List.range_one, List.foldl_cons, List.foldl_nil, lo, hi]
  dsimp only
  rw [whole, State.riderLine_open here o, Nat.add_sub_cancel_left]

end

end Sys2Proof.Machine
end

section
/-! O60: the statement on Rider accesses. -/

namespace Sys2Proof.Machine

/-- In Off no access does anything (R4). -/
theorem exec_access_off {s : State} (off : s.dev = dOff) :
    (∀ core a size data, exec (.riderWindowAccess core a size data) s = .next s) ∧
      (∀ a write, exec (.unmappedAccess a write) s = .next s) ∧
      (∀ a size write, exec (.narrowRegisterAccess a size write) s = .next s) ∧ ∀ a v, exec (.registerWrite a v) s = .next s :=
  ⟨fun _ _ _ _ => congrArg _ (if_pos (.inl off)), fun _ _ => congrArg _ (if_pos (.inl off)),
    fun _ _ _ => congrArg _ (if_pos (.inl off)), fun _ _ => congrArg _ (if_pos (.inl off))⟩

/-- Settles O60: the lines of an access one by one, and each register write by the access codes of its fields. -/
theorem riderAccesses : Obligations.RiderAccesses := by
  unfold Obligations.RiderAccesses
  refine ⟨fun _ off => exec_access_off off, ?window, ?narrow, fun _ v _ h => congrArg _ (State.registerWrite_ignored h v), ?writes⟩
  case window =>
    intro core a size data s tier t room pos w
    refine ⟨fun shut => congrArg _ (State.riderAccess_closed w room pos ?_ core data), fun isOpen => ?_⟩
    · rcases shut with d | d <;> simp [State.windowsOpen, State.inJob, d, dHeld, dReady, dRunning, dRecovering, dBringup, dOos]
    · have o : s.windowsOpen = true := s.windowsOpen_iff.mpr isOpen
      have on : s.dev ≠ dOff := by
        rcases isOpen with d | d | d | d <;> rw [d] <;> decide
      have sent := State.riderAccess_sent w room pos o on core data
      refine ⟨_, rfl, sent.reqs, sent.hbm, sent.ddr, sent.regs, sent.out, sent.ev, sent.units, fun one len => ?_⟩
      rw [State.riderAccess_line w room pos o on one core len]
      refine ⟨?_, State.riderSend_sendq ..⟩
      obtain ⟨es, e⟩ := s.riderSend_eq core tier t size data.isSome (riderPkt a size data)
      rw [e]
  case narrow =>
    intro a size write s on control known
    refine ⟨fun wide aligned => congrArg _ (if_pos (.inr (.inr ⟨wide, aligned⟩))), fun other => ?_⟩
    show Host.Outcome.next (s.narrow a size write) = _
    rw [State.narrow, if_neg (by simpa [on, control, known] using other), State.refuseAccess_eq]
  case writes =>
    intro v s on
    have field : ∀ (f : Fld) (c : Acc), f.coded c = true → ∀ lock,
        (s.writePlain f.off lock v).get f = c.leaves lock (mget chipReset s.regs f.off) v f.hi f.lo :=
      fun _ _ h lock => s.get_writePlain h lock v
    refine ⟨?cfg, ?peer, ?suspect, ?busy, ?node, ?sensor⟩
    case cfg =>
      exact ⟨_, exec_registerWrite_plain on (by decide) (by decide) v, field TWN_CFG.wait_ms .rw (by decide) _,
        field TWN_CFG.lead .rw (by decide) _, field TWN_CFG.copy_pct .rw (by decide) _, s.writePlain_becomes ..⟩
    case peer =>
      exact ⟨_, exec_registerWrite_plain on (by decide) (by decide) v, s.writePlain_readOnly (by decide) ..⟩
    case suspect =>
      exact ⟨_, exec_registerWrite_plain on (by decide) (by decide) v,
        (field TST_CHP_SUSPECT.valid .w1c (by decide) _).trans (bitsOf_clear ..), field TST_CHP_SUSPECT.lblock .ro (by decide) _,
        field TST_CHP_SUSPECT.unit .ro (by decide) _, s.writePlain_becomes ..⟩
    case busy =>
      exact ⟨_, exec_registerWrite_plain on (by decide) (by decide) v,
        (field LSE_BUSY.count .cnt (by decide) _).trans (if_congr (bitsOf_word_eq_zero v) rfl rfl), s.writePlain_becomes ..⟩
    case node =>
      refine ⟨s.writePlain CMD_NODE.off s.hasJob v, ?_, field CMD_NODE.node .rwl (by decide) _, s.writePlain_becomes ..⟩
      show Host.Outcome.next (s.registerWrite CMD_NODE.off v) = _
      rw [State.registerWrite_chip on (by decide) (by decide) (by decide) (by decide) (by decide), State.writeChip_node]
    case sensor =>
      refine ⟨_, rfl, ?_⟩
      rw [State.registerWrite_far (s.released_on on) (by decide) (by decide) (by decide) (by decide), State.writeFar_sensSel]
      split
      · exact ⟨field FAR_SENS_SEL.index .rw (by decide) _, s.writePlain_becomes ..⟩
      · exact ⟨rfl, .of_regs rfl⟩

end Sys2Proof.Machine
end

section
/-! SUPPORT. Folds over blocks, regions and fields; what a load, a commit or a withdrawal of an image leaves alone. -/

namespace Sys2Proof.Machine

/-- A fold leaves alone what each of its steps leaves alone. -/
theorem foldl_same {σ α β : Type} (g : σ → β) {f : σ → α → σ} (h : ∀ s x, g (f s x) = g s) (xs : List α) (s : σ) :
    g (xs.foldl f s) = g s := by
  induction xs generalizing s with
  | nil => rfl
  | cons x xs ih => rw [List.foldl_cons, ih, h]

/-- What a fold's step does for one item, and no step undoes, stands after the fold. -/
theorem foldl_each {σ α : Type} {P : σ → Prop} {f : σ → α → σ} {x : α} (touch : ∀ s, P (f s x)) (keep : ∀ s y, P s → P (f s y))
    {xs : List α} (hx : x ∈ xs) (s : σ) : P (xs.foldl f s) := by
  have onward : ∀ (ys : List α) (s : σ), P s → P (ys.foldl f s) := fun ys s h => List.foldlRecOn ys f h fun s h y _ => keep s y h
  obtain ⟨xs, ys, rfl⟩ := List.append_of_mem hx
  rw [List.foldl_append, List.foldl_cons]
  exact onward ys _ (touch _)

/-- The words of the chip steward, the memories and the Farrier read in `t` as in `s`, but for those at `regs`. -/
def State.WordsBut (regs : List Nat) (s t : State) : Prop := ∀ a, a ∉ regs → mget chipReset t.regs a = mget chipReset s.regs a

/-- The register words as they were. -/
theorem State.WordsBut.of_regs {s t : State} {regs : List Nat} (h : t.regs = s.regs) : State.WordsBut regs s t := fun _ _ => by rw [h]

/-- One change after another. -/
theorem State.WordsBut.trans {r r' : List Nat} {s t u : State} (h : State.WordsBut r s t) (k : State.WordsBut r' t u) :
    State.WordsBut (r ++ r') s u := fun a ha => by
  rw [List.mem_append, not_or] at ha
  rw [k a ha.2, h a ha.1]

/-- The words of a module that becomes another. -/
theorem State.ChipBecomes.words {s b t : State} {regs : List Nat} (h : s.ChipBecomes regs b t) : State.WordsBut regs s t := h.2

/-- A field of another word reads as before. -/
theorem State.WordsBut.get {regs : List Nat} {s t : State} (h : State.WordsBut regs s t) {f : Fld} (hf : f.off ∉ regs) :
    t.get f = s.get f := by
  rw [State.get, State.get, Regs.get, Regs.get, h f.off hf]

/-- The tiers depend on the memories and their registers alone. -/
theorem State.WordsBut.tiers {regs : List Nat} {s t : State} (h : State.WordsBut regs s t) (below : ∀ a ∈ regs, a < 0x100020100000)
    (hbm : t.hbm = s.hbm) (ddr : t.ddr = s.ddr) : t.tiers = s.tiers := by
  have far : ∀ f : Fld, 0x100020100000 ≤ f.off → t.get f = s.get f := fun f lo => h.get fun m => Nat.not_lt.mpr lo (below _ m)
  have d : ∀ c, 0x100020100000 ≤ DDR_STATUS.off c := fun c => by unfold DDR_STATUS.off; omega
  have r : ∀ k j, 0x100020100000 ≤ MGR_SIG_RANGE.off k j := fun k j => by unfold MGR_SIG_RANGE.off; omega
  have a : ∀ k j, 0x100020100000 ≤ MGR_SIG_TABLE.off k j := fun k j => by unfold MGR_SIG_TABLE.off; omega
  unfold State.tiers
  simp only [far (DDR_STATUS.trained _) (d _), far (DDR_STATUS.capacity _) (d _), far (MGR_SIG_RANGE.enable _ _) (r _ _),
    far (MGR_SIG_RANGE.base _ _) (r _ _), far (MGR_SIG_RANGE.units _ _) (r _ _), far (MGR_SIG_TABLE.addr _ _) (a _ _), hbm, ddr]

/-- Fields set one after another. -/
theorem State.ChipBecomes.foldl_set {α : Type} {s b t : State} {regs : List Nat} (h : s.ChipBecomes regs b t) {f : α → Fld}
    (v : α → Nat) {xs : List α} (hf : ∀ x ∈ xs, (f x).off ∈ regs) : s.ChipBecomes regs b (xs.foldl (fun u x => u.set (f x) (v x)) t) :=
  List.foldlRecOn xs _ h fun _ k x hx => k.set (hf x hx) (v x)

/-- A raised event changes no word. -/
theorem State.ChipBecomes.raise {s b t : State} {regs : List Nat} (h : s.ChipBecomes regs b t) (level place : Nat) (e : Ev) :
    s.ChipBecomes regs b (t.raise level place e) := by
  obtain ⟨⟨m, ev, co, rfl⟩, words⟩ := h
  obtain ⟨ev', co', e⟩ := State.raise_eq { b with regs := m, ev := ev, evCoalesced := co } level place e
  rw [e]
  exact ⟨⟨m, ev', co', rfl⟩, words⟩

/-- The state less the register words, blocks, regions, remount and route tables, programs, Cadence and records: what stays where an
image is placed, loaded or withdrawn, but for what a step says. -/
def State.shell (s : State) : State :=
  { s with
    freeCtr := 0, regs := [], blocks := [], regions := [], routes := [], groups := [], rmt := [], cad := {}, mgrProg := [], restarts := [],
    ev := [], evCoalesced := [] }

/-- The Cadence and the restarts lie outside the shell and the register words. -/
@[simp] theorem State.shell_cad (s : State) (x : List Nat) (c : Cadence) : ({ s with restarts := x, cad := c } : State).shell = s.shell := rfl

@[simp] theorem State.regs_cad (s : State) (x : List Nat) (c : Cadence) : ({ s with restarts := x, cad := c } : State).regs = s.regs := rfl

/-- Register words and records lie outside the shell. -/
theorem State.ChipBecomes.shell {s b t : State} {regs : List Nat} (h : s.ChipBecomes regs b t) : t.shell = b.shell := by
  obtain ⟨⟨m, ev, co, rfl⟩, -⟩ := h
  rfl

/-- Records of the chip steward and its words are no region's. -/
theorem State.ChipBecomes.regions {s b t : State} {regs : List Nat} (h : s.ChipBecomes regs b t) : t.regions = b.regions := by
  obtain ⟨⟨m, ev, co, rfl⟩, -⟩ := h
  rfl

/-- Nor are they the Cadence's own data. -/
theorem State.ChipBecomes.cad {s b t : State} {regs : List Nat} (h : s.ChipBecomes regs b t) : t.cad = b.cad := by
  obtain ⟨⟨m, ev, co, rfl⟩, -⟩ := h
  rfl

/-- A field depends on the register words alone. -/
theorem State.get_of_regs {s t : State} (h : t.regs = s.regs) (f : Fld) : t.get f = s.get f := by
  rw [State.get, State.get, h]

/-- A region's field depends on the regions alone. -/
theorem State.rget_of_regions {s t : State} (h : t.regions = s.regions) (r : Nat) (f : Fld) : t.rget r f = s.rget r f := by
  rw [State.rget, State.rget, State.region, State.region, h]

/-! Region registers. -/

/-- A region's field depends on neither the Cadence nor the restarts. -/
@[simp] theorem State.rget_cad (s : State) (x : List Nat) (c : Cadence) (r : Nat) (f : Fld) :
    ({ s with restarts := x, cad := c } : State).rget r f = s.rget r f := rfl

/-- A region's field reads what was set, modulo its width. -/
theorem State.rget_rset_same (s : State) (r : Nat) {f : Fld} (h : f.ok) (v : Nat) : (s.rset r f v).rget r f = v % 2 ^ f.width := by
  unfold State.rset State.rget
  rw [State.region_setRegion_same]
  exact Regs.get_set_same rgnReset _ h v

/-- A region field apart from the one set reads as before, in every region. -/
theorem State.rget_rset_apart (s : State) (r q : Nat) {f g : Fld} (hf : f.lo ≤ f.hi) (hg : g.lo ≤ g.hi) (h : f.apart g) (v : Nat) :
    (s.rset r f v).rget q g = s.rget q g := by
  unfold State.rset State.rget
  by_cases e : q = r
  · rw [e, State.region_setRegion_same]
    exact Regs.get_set_apart rgnReset _ hf hg h v
  · rw [State.region_setRegion_ne _ _ e]

/-- Another region's fields read as before. -/
theorem State.rget_rset_ne (s : State) {r q : Nat} (h : q ≠ r) (f g : Fld) (v : Nat) : (s.rset r f v).rget q g = s.rget q g := by
  unfold State.rset State.rget
  rw [State.region_setRegion_ne _ _ h]

/-- A field set in each region of a list. -/
theorem State.rget_foldl_rset (s : State) {r : Nat} {xs : List Nat} (hr : r ∈ xs) {f : Fld} (h : f.ok) (v : Nat) :
    (xs.foldl (fun u q => u.rset q f v) s).rget r f = v % 2 ^ f.width := by
  have keep : ∀ (u : State) (q : Nat), u.rget r f = v % 2 ^ f.width → (u.rset q f v).rget r f = v % 2 ^ f.width := fun u q hu => by
    by_cases e : r = q
    · rw [e, u.rget_rset_same q h v]
    · rw [u.rget_rset_ne e, hu]
  exact foldl_each (P := fun u => u.rget r f = v % 2 ^ f.width) (f := fun u q => u.rset q f v) (fun u => u.rget_rset_same r h v) keep hr s

/-- A field set in every region. -/
theorem State.rget_allRegions_same (s : State) {r : Nat} (hr : r < 16) {f : Fld} (h : f.ok) (v : Nat) :
    (s.allRegions f v).rget r f = v % 2 ^ f.width := s.rget_foldl_rset (List.mem_range.mpr hr) h v

/-- A field apart from one set in every region. -/
theorem State.rget_allRegions_apart (s : State) (r : Nat) {f g : Fld} (hf : f.lo ≤ f.hi) (hg : g.lo ≤ g.hi) (h : f.apart g) (v : Nat) :
    (s.allRegions f v).rget r g = s.rget r g :=
  foldl_same (fun u => u.rget r g) (f := fun u q => u.rset q f v) (fun u q => u.rget_rset_apart q r hf hg h v) _ s

/-- Every region starts at epoch 0 (R278 step 4). -/
theorem State.rget_epochZero (s : State) {r : Nat} (hr : r < 16) : s.epochZero.rget r RGN_EPOCH.epoch = 0 := by
  unfold State.epochZero
  extract_lets t
  have ht : t.rget r RGN_EPOCH.epoch = 0 := by
    simp (disch := decide) only [t, State.rget_allRegions_apart]
    rw [State.rget_allRegions_same _ hr (by decide), Nat.zero_mod]
  exact (t.rget_cad ..).trans ht

/-- Region registers, remount entries, blocks, regions and register words lie outside the shell. -/
@[simp] theorem State.rset_shell (s : State) (r : Nat) (f : Fld) (v : Nat) : (s.rset r f v).shell = s.shell := rfl
@[simp] theorem State.setRmt_shell (s : State) (p : Nat) (x : Rmt) : (s.setRmt p x).shell = s.shell := rfl
@[simp] theorem State.setBlock_shell (s : State) (p : Nat) (b : Block) : (s.setBlock p b).shell = s.shell := rfl
@[simp] theorem State.setRegion_shell (s : State) (r : Nat) (x : Region) : (s.setRegion r x).shell = s.shell := rfl
@[simp] theorem State.set_shell (s : State) (f : Fld) (v : Nat) : (s.set f v).shell = s.shell := rfl

/-- A field set in every region changes neither the shell nor the chip's words. -/
theorem State.allRegions_shell (s : State) (f : Fld) (v : Nat) :
    (s.allRegions f v).shell = s.shell ∧ (s.allRegions f v).regs = s.regs := by
  unfold State.allRegions
  exact ⟨foldl_same State.shell (fun u r => u.rset_shell r f v) _ _, foldl_same State.regs (fun u r => u.rset_regs r f v) _ _⟩

/-- Nor does the start at epoch 0. -/
theorem State.epochZero_shell (s : State) : s.epochZero.shell = s.shell ∧ s.epochZero.regs = s.regs := by
  unfold State.epochZero
  extract_lets t
  have ht : t.shell = s.shell ∧ t.regs = s.regs := by simp only [t, State.allRegions_shell, and_self]
  exact ⟨(t.shell_cad ..).trans ht.1, (t.regs_cad ..).trans ht.2⟩

/-- Placing blocks touches the remount table and region registers. -/
theorem State.placeBlocks_shell (s : State) (at_ : List (Nat × Nat)) :
    (s.placeBlocks at_).shell = s.shell ∧ (s.placeBlocks at_).regs = s.regs := by
  delta State.placeBlocks
  extract_lets clear s1 s2
  have h1 : s1.shell = s.shell ∧ s1.regs = s.regs :=
    ⟨foldl_same State.shell (fun u p => u.setRmt_shell p _) _ _, foldl_same State.regs (fun u p => u.setRmt_regs p _) _ _⟩
  have h2 : s2.shell = s1.shell ∧ s2.regs = s1.regs :=
    ⟨foldl_same State.shell (fun u _ => u.setRmt_shell _ _) _ _, foldl_same State.regs (fun u _ => u.setRmt_regs _ _) _ _⟩
  clear_value s2 s1
  rw [← h1.1, ← h2.1, ← h1.2, ← h2.2]
  exact ⟨foldl_same State.shell (fun u r => by simp only [State.rset_shell]) _ _,
    foldl_same State.regs (fun u r => by simp only [State.rset_regs]) _ _⟩

end Sys2Proof.Machine
end

section
/-! SUPPORT. The periods of an image, and what it leaves in the module when it is mounted, committed and withdrawn (R278 to R282). -/

namespace Sys2Proof.Machine

/-- The move to a state that the table of R4 allows, or to the present one. -/
theorem State.goTo_becomes (s : State) {d : Nat} (h : s.dev = d ∨ mayMove s.dev d = true) :
    s.ChipBecomes [CHP_STATE.off] { s with dev := d } (s.goTo d) := by
  unfold State.goTo
  split
  · next stay =>
    have here : s.dev = d := h.elim id fun may => stay.resolve_right (by simp [may])
    have same : ({ s with dev := d } : State) = s := by rw [← here]
    rw [same]
    exact .of_regs rfl
  · exact .set (.set (.of_regs rfl) (by decide) _) (by decide) _

/-- A schedule's anchor is the Cadence's alone. -/
theorem State.anchorIf_eq (s : State) (was : Nat) : ∃ c, s.anchorIf was = { s with cad := c } := by
  unfold State.anchorIf
  split
  · exact ⟨_, rfl⟩
  · exact ⟨_, rfl⟩

/-- A raised event changes no field. -/
theorem State.get_raise (s : State) (level place : Nat) (e : Ev) (f : Fld) : (s.raise level place e).get f = s.get f := by
  obtain ⟨ev, co, e⟩ := s.raise_eq level place e
  rw [e]
  rfl

/-- Fitting the period changes the register of the period alone, and an event may tell of it (R45, R48, R55). -/
theorem State.fitPeriod_becomes (s : State) : s.ChipBecomes [CAD_PERIOD.off] s s.fitPeriod := by
  have least : s.ChipBecomes [CAD_PERIOD.off] s (s.set CAD_PERIOD.required_min s.requiredMin) :=
    (State.ChipBecomes.of_regs rfl).set (by decide) _
  unfold State.fitPeriod
  dsimp only
  split
  · split
    · exact least.raise ..
    · exact least
  · exact least.set (by decide) _

/-- The least period is shown as required (R47). -/
theorem State.get_fitPeriod_least (s : State) : s.fitPeriod.get CAD_PERIOD.required_min = s.requiredMin % 2 ^ 20 := by
  have least : (s.set CAD_PERIOD.required_min s.requiredMin).get CAD_PERIOD.required_min = s.requiredMin % 2 ^ 20 :=
    s.get_set_same (by decide) _
  unfold State.fitPeriod
  dsimp only
  split
  · split
    · rw [State.get_raise, least]
    · exact least
  · rw [State.get_set_apart _ (by decide) (by decide) (by decide), least]

/-- The fitted period: outside synchronisation the largest of the three; a shared one stays (R48, R55). -/
theorem State.get_fitPeriod_current (s : State) : s.fitPeriod.get CAD_PERIOD.current =
    if s.synced = true then s.get CAD_PERIOD.current else max s.cad.programmed (max s.requiredMin s.cad.need) % 2 ^ 20 := by
  have synced : (s.set CAD_PERIOD.required_min s.requiredMin).synced = s.synced := by
    unfold State.synced
    rw [State.get_set_apart _ (by decide) (by decide) (by decide)]
  have current : (s.set CAD_PERIOD.required_min s.requiredMin).get CAD_PERIOD.current = s.get CAD_PERIOD.current :=
    State.get_set_apart _ (by decide) (by decide) (by decide) _
  unfold State.fitPeriod
  dsimp only
  rw [synced]
  split
  · split
    · rw [State.get_raise, current]
    · exact current
  · exact State.get_set_same _ (by decide) _

/-- The period that an image brings (R32, R48): its register alone changes. -/
theorem State.loadPeriod_becomes (s : State) : s.ChipBecomes [CAD_PERIOD.off] s s.loadPeriod := by
  unfold State.loadPeriod
  split
  · have fit := (s.set CAD_PERIOD.current s.cad.programmed).fitPeriod_becomes
    exact ⟨fit.1, fun a ha => (fit.2 a ha).trans (Regs.word_set_ne _ _ _ _ fun e => ha (by simp [e]; rfl))⟩
  · exact s.fitPeriod_becomes

/-- The least period that the image's voltages need is shown as required (R47). -/
theorem State.get_loadPeriod_least (s : State) : s.loadPeriod.get CAD_PERIOD.required_min = s.requiredMin % 2 ^ 20 := by
  unfold State.loadPeriod
  split
  · exact State.get_fitPeriod_least _
  · exact State.get_fitPeriod_least _

/-- The image's own period in synchronisation, and outside it no less than the required one (R32, R48). -/
theorem State.get_loadPeriod_current (s : State) : s.loadPeriod.get CAD_PERIOD.current =
    (if s.synced = true then s.cad.programmed else max s.cad.programmed (max s.requiredMin s.cad.need)) % 2 ^ 20 := by
  have synced : (s.set CAD_PERIOD.current s.cad.programmed).synced = s.synced := by
    unfold State.synced
    rw [State.get_set_apart _ (by decide) (by decide) (by decide)]
  unfold State.loadPeriod
  split
  · next h =>
    rw [State.get_fitPeriod_current, if_pos (synced.trans h), State.get_set_same _ (by decide)]
    rfl
  · next h => rw [State.get_fitPeriod_current, if_neg h]

/-! The mounting of an image. -/

/-- The words that a mounted image writes: seeds, gait and the saddlebags' base. -/
def mountWords : List Nat := (List.range 4).map CAD_SEED.off ++ [CAD_CTL.off, CHP_SB_BASE.off]

/-- The state once the voltages that an image names wait for the next checkpoint stride (R31, R278 step 5). -/
def State.loadVolts (s : State) (i : Img) : State :=
  { s with power := { s.power with load := some ((List.range 16).map (s.imageVolt i)) } }

/-- What a mounted image leaves in the module, besides its blocks (R278, R31). -/
structure Mounted (i : Img) (s t : State) : Prop where
  shell : t.shell = s.shell.loadVolts i
  words : State.WordsBut mountWords s t
  seeds : ∀ j < 4, t.get (CAD_SEED.seed j) = leAt (i.part 3 0 0xFFFF) (8 * j) 8 % 2 ^ 64
  epochs : ∀ r < 16, t.rget r RGN_EPOCH.epoch = 0
  programmed : t.cad.programmed = i.period
  need : t.cad.need = 0

/-- A seed is a whole word. -/
theorem seed_ok (j : Nat) : (CAD_SEED.seed j).ok := ⟨Nat.zero_le 63, Nat.lt_succ_self 63⟩

/-- The seeds stand apart from words outside their places. -/
theorem seed_off_notMem {j : Nat} (hj : j < 4) {regs : List Nat} (h : ∀ a ∈ regs, a < CAD_SEED.off 0 ∨ CAD_SEED.off 4 ≤ a) :
    (CAD_SEED.seed j).off ∉ regs := fun m => by
  have apart := h _ m
  simp only [CAD_SEED.seed, CAD_SEED.off] at apart
  omega

/-- The four seeds once they are set. -/
theorem State.get_seeds (s : State) (v : Nat → Nat) {j : Nat} (hj : j < 4) :
    ((List.range 4).foldl (fun u k => u.set (CAD_SEED.seed k) (v k)) s).get (CAD_SEED.seed j) = v j % 2 ^ 64 := by
  have keep : ∀ (u : State) (k : Nat), u.get (CAD_SEED.seed j) = v j % 2 ^ 64 →
      (u.set (CAD_SEED.seed k) (v k)).get (CAD_SEED.seed j) = v j % 2 ^ 64 := fun u k hu => by
    by_cases e : k = j
    · rw [e]
      exact u.get_set_same (seed_ok _) _
    · rw [u.get_set_apart (Nat.zero_le _) (Nat.zero_le _) (.inl fun h => e ?_), hu]
      simp only [CAD_SEED.seed, CAD_SEED.off] at h
      omega
  exact foldl_each (P := fun u => u.get (CAD_SEED.seed j) = v j % 2 ^ 64) (f := fun u k => u.set (CAD_SEED.seed k) (v k))
    (fun u => u.get_set_same (seed_ok _) _) keep (List.mem_range.mpr hj) s

/-- Dropping the saddlebag words of a region leaves its epoch. -/
theorem State.rget_dropSaddlebags (s : State) (q r : Nat) :
    (s.setRegion q { s.region q with regs := (s.region q).regs.filter fun x => x.1 < 0x700 || 0x700 + 600 ≤ x.1 }).rget r RGN_EPOCH.epoch =
      s.rget r RGN_EPOCH.epoch := by
  unfold State.rget
  by_cases e : r = q
  · rw [e, State.region_setRegion_same, Regs.get, Regs.get]
    exact congrArg (bitsOf · _ _) (mget_mclear_out rgnReset (lo := 0x700) (hi := 0x700 + 600) (.inl (by decide)) _)
  · rw [State.region_setRegion_ne _ _ e]

/-- Programs of the mangers and a free value drawn. -/
theorem State.putProgs_same (s : State) (n : Nat) (p : Cells (List Byte)) : let t : State := { s with freeCtr := n, mgrProg := p }
    t.shell = s.shell ∧ t.regs = s.regs ∧ ∀ r f, t.rget r f = s.rget r f := ⟨rfl, rfl, fun _ _ => rfl⟩

/-- The Cadence and the power manager as they are to be. -/
theorem State.putPower_same (s : State) (i : Img) (c : Cadence) :
    let t : State := { s with power := { s.power with load := some ((List.range 16).map (s.imageVolt i)) }, cad := c }
    t.shell = s.shell.loadVolts i ∧ t.regs = s.regs ∧ t.cad = c ∧ ∀ r f, t.rget r f = s.rget r f := ⟨rfl, rfl, rfl, fun _ _ => rfl⟩

/-- The mounting of an image, stage by stage: blocks, gait tables, epochs, programs, seeds, power and Cadence, regions, gait (R278). -/
theorem State.mountImage_mounted (s : State) (i : Img) (at_ : List (Nat × Nat)) (moves : List Moved) :
    Mounted i s (s.mountImage i at_ moves) := by
  delta State.mountImage
  extract_lets s1 after fresh s2 s3 s4 s5 c5 p5 s6 s7 sb
  have h1 : s1.shell = s.shell ∧ s1.regs = s.regs :=
    ⟨foldl_same State.shell (fun u _ => u.setBlock_shell _ _) _ _, foldl_same State.regs (fun u _ => u.setBlock_regs _ _) _ _⟩
  have h2 : s2.shell = s1.shell ∧ s2.regs = s1.regs :=
    ⟨foldl_same State.shell (fun u _ => u.setBlock_shell _ _) _ _, foldl_same State.regs (fun u _ => u.setBlock_regs _ _) _ _⟩
  have h3 : s3.shell = s2.shell ∧ s3.regs = s2.regs := s2.epochZero_shell
  have e3 : ∀ r < 16, s3.rget r RGN_EPOCH.epoch = 0 := fun _ => s2.rget_epochZero
  obtain ⟨h4, w4, e4⟩ : s4.shell = s3.shell ∧ s4.regs = s3.regs ∧ ∀ r f, s4.rget r f = s3.rget r f := s3.putProgs_same ..
  have h5 : s4.ChipBecomes ((List.range 4).map CAD_SEED.off) s4 s5 :=
    (State.ChipBecomes.of_regs rfl).foldl_set (f := CAD_SEED.seed) _ fun _ => List.mem_map_of_mem
  have seeds : ∀ j < 4, s5.get (CAD_SEED.seed j) = leAt (i.part 3 0 0xFFFF) (8 * j) 8 % 2 ^ 64 :=
    fun _ hj => s4.get_seeds (fun j => leAt (i.part 3 0 0xFFFF) (8 * j) 8) hj
  obtain ⟨h6, w6, c6, e6⟩ : s6.shell = s5.shell.loadVolts i ∧ s6.regs = s5.regs ∧
    s6.cad = { c5 with programmed := i.period, need := 0, refit := false } ∧ ∀ r f, s6.rget r f = s5.rget r f := s5.putPower_same ..
  have h7 : s7.shell = s6.shell := foldl_same State.shell (fun u _ => u.setRegion_shell _ _) _ _
  have w7 : s7.regs = s6.regs := foldl_same State.regs (fun u _ => u.setRegion_regs _ _) _ _
  have c7 : s7.cad = s6.cad := foldl_same State.cad (fun u _ => u.setRegion_cad _ _) _ _
  have e7 : ∀ r, s7.rget r RGN_EPOCH.epoch = s6.rget r RGN_EPOCH.epoch := fun r =>
    foldl_same (fun u : State => u.rget r RGN_EPOCH.epoch) (fun u q => u.rget_dropSaddlebags q r) _ _
  clear_value s7 sb s6 c5 s5 s4 s3 s2 s1
  have h8 : s7.ChipBecomes [CAD_CTL.off, CHP_SB_BASE.off] s7
      ((if s7.jobRuns then s7.takeGait i.gait else s7).set CHP_SB_BASE.addr sb) := by
    refine .set ?_ (by decide) sb
    split
    · exact .set (.set (.of_regs rfl) (by decide) _) (by decide) _
    · exact .of_regs rfl
  have w5 : ∀ f, s7.get f = s5.get f := State.get_of_regs (w7.trans w6)
  constructor
  case shell => rw [h8.shell, h7, h6, h5.shell, h4, h3.1, h2.1, h1.1]
  case words =>
    intro a ha
    obtain ⟨seed, rest⟩ := not_or.mp (mt List.mem_append.mpr ha)
    rw [h8.words a rest, w7, w6, h5.words a seed, w4, h3.2, h2.2, h1.2]
  case seeds =>
    intro j hj
    rw [h8.words.get (seed_off_notMem hj (by decide)), w5, seeds j hj]
  case epochs =>
    intro r hr
    rw [State.rget_of_regions h8.regions, e7, e6, State.rget_of_regions h5.regions, e4, e3 r hr]
  case programmed => rw [h8.cad, c7, c6]
  case need => rw [h8.cad, c7, c6]

/-! Installing, committing and withdrawing. -/

/-- Route and group tables. -/
theorem State.putTables_same (s : State) (routes groups : Cells Nat) : let t : State := { s with routes := routes, groups := groups }
    t.shell = s.shell ∧ t.regs = s.regs := ⟨rfl, rfl⟩

/-- An image that installs is mounted on a state in which its blocks are placed (R278 steps 4 and 5, R280); or a refusal says why not. -/
theorem State.installImage_cases (s : State) (i : Img) (at_ : List (Nat × Nat)) :
    (∃ h, (s.installImage i at_).1 = some h) ∨ ∃ (p : State) (moves : List Moved),
      p.shell = s.shell ∧ p.regs = s.regs ∧ s.installImage i at_ = (none, p.mountImage i at_ moves) := by
  unfold State.installImage
  extract_lets moves p
  have placed : p.shell = s.shell ∧ p.regs = s.regs := s.placeBlocks_shell at_
  clear_value p
  generalize i.tables = tables
  obtain ⟨routes, groups⟩ := tables
  dsimp only
  generalize State.movedTables _ 0 0 moves = first
  obtain ⟨r0, g0, ok0⟩ := first
  dsimp only
  generalize State.movedTables _ 1 1 moves = second
  obtain ⟨r1, g1, ok1⟩ := second
  dsimp only
  split
  · exact .inl ⟨_, rfl⟩
  · have tables := p.putTables_same r1 g1
    exact .inr ⟨_, moves, tables.1.trans placed.1, tables.2.trans placed.2, rfl⟩

end Sys2Proof.Machine
end

section
/-! SUPPORT. Refused loads, commits and withdrawals: what each leaves in the module (R278, R279, R282, R288). -/

namespace Sys2Proof.Machine

/-- The reason for a hold stands in its register alone (R288). -/
theorem State.ChipBecomes.holdReason {s b t : State} {regs : List Nat} (h : s.ChipBecomes regs b t) (hr : CHP_HOLD_REASON.off ∈ regs)
    (r : Hold) : s.ChipBecomes regs b (t.holdReason r) :=
  .set (.set (.set (.set (.set h hr _) hr _) hr _) hr _) hr _

/-- What CHP_HOLD_REASON shows (R288). -/
theorem State.get_holdReason (s : State) (h : Hold) : let t := s.holdReason h
    t.get CHP_HOLD_REASON.code = h.code % 256 ∧ t.get CHP_HOLD_REASON.sub = h.sub % 256 ∧ t.get CHP_HOLD_REASON.section = h.dirIdx % 256 ∧
      t.get CHP_HOLD_REASON.lblock = h.lblock % 4096 ∧ t.get CHP_HOLD_REASON.index = h.index % 65536 := by
  dsimp only
  unfold State.holdReason
  refine ⟨?_, ?_, ?_, ?_, ?_⟩ <;> simp (disch := decide) only [State.get_set_same, State.get_set_apart] <;> rfl

/-- A field of another register than CHP_HOLD_REASON. -/
theorem State.get_holdReason_ne (s : State) (h : Hold) {f : Fld} (hf : f.off ≠ CHP_HOLD_REASON.off) : (s.holdReason h).get f = s.get f :=
  ((State.ChipBecomes.of_regs (s := s) rfl).holdReason (regs := [CHP_HOLD_REASON.off]) (by decide) h).words.get (by simpa using hf)

/-- A refused load (R279): its reason, and nothing is read any more. -/
theorem State.refuseLoad_becomes (s : State) (h : Hold) :
    s.ChipBecomes [CHP_HOLD_REASON.off, CHP_IMG_STATUS.off] { s with images := { s.images with loading := none } } (s.refuseLoad h) :=
  .set (.holdReason (.of_regs rfl) (by decide) h) (by decide) _

/-- What a refused load shows (R279, R288). -/
theorem State.get_refuseLoad (s : State) (h : Hold) : let t := s.refuseLoad h
    t.get CHP_IMG_STATUS.load = 3 ∧ t.get CHP_HOLD_REASON.code = h.code % 256 ∧ t.get CHP_HOLD_REASON.sub = h.sub % 256 ∧
      t.get CHP_HOLD_REASON.section = h.dirIdx % 256 ∧ t.get CHP_HOLD_REASON.lblock = h.lblock % 4096 ∧
      t.get CHP_HOLD_REASON.index = h.index % 65536 := by
  obtain ⟨code, sub, section_, lblock, index⟩ := State.get_holdReason { s with images := { s.images with loading := none } } h
  dsimp only
  unfold State.refuseLoad
  refine ⟨State.get_set_same _ (by decide) _, ?_, ?_, ?_, ?_, ?_⟩ <;> rw [State.get_set_apart _ (by decide) (by decide) (by decide)]
  · exact code
  · exact sub
  · exact section_
  · exact lblock
  · exact index

/-! The commit. -/

/-- The images after a commit. -/
def Images.commit (x : Images) (i : Img) : Images := { x with committed := some i, loading := none, staged := none, staging := none }

/-- A commit changes the images and register words alone. -/
theorem State.commitImage_same (s : State) (i : Img) : let t := s.commitImage i
    t.shell = { s.shell with images := s.images.commit i } ∧ t.regions = s.regions ∧ t.cad = s.cad := by
  dsimp only
  unfold State.commitImage
  dsimp only
  refine ⟨?_, ?_, ?_⟩ <;> unfold State.holdReason <;> simp only [State.set_shell, State.set_regions, State.set_cad]
  rfl

/-- The words that a commit writes. -/
def commitWords : List Nat := [CHP_IMG_SEQ.off, CHP_IMG_STATUS.off, CHP_HOLD_REASON.off]

/-- The words of a commit. -/
theorem State.commitImage_words (s : State) (i : Img) : State.WordsBut commitWords s (s.commitImage i) :=
  have shown : s.ChipBecomes commitWords { s with images := s.images.commit i } (s.commitImage i) :=
    .holdReason (.set (.set (.of_regs rfl) (by decide) _) (by decide) _) (by decide) _
  shown.words

/-- What a commit shows (R278 step 6, R288). -/
theorem State.get_commitImage (s : State) (i : Img) : let t := s.commitImage i
    t.get CHP_IMG_STATUS.load = 2 ∧ t.get CHP_HOLD_REASON.code = 0 ∧ t.get CHP_IMG_SEQ.sequence = i.sequence % 2 ^ 64 := by
  dsimp only
  unfold State.commitImage
  refine ⟨?_, (State.get_holdReason ..).1, ?_⟩
  · rw [State.get_holdReason_ne _ _ (by decide)]
    exact State.get_set_same _ (by decide) _
  · rw [State.get_holdReason_ne _ _ (by decide), State.get_set_apart _ (by decide) (by decide) (by decide)]
    exact State.get_set_same _ (by decide) _

/-- A committed image takes up its period and the device becomes Ready (R278 step 6). -/
theorem State.toReady (s : State) (held : s.dev = dHeld) (was : Nat) : let t := (s.loadPeriod.anchorIf was).goTo dReady
    t.shell = { s.shell with dev := dReady } ∧ t.regions = s.regions ∧ State.WordsBut [CAD_PERIOD.off, CHP_STATE.off] s t ∧
      ∀ f, f.off ≠ CHP_STATE.off → t.get f = s.loadPeriod.get f := by
  have load := s.loadPeriod_becomes
  have dev : s.loadPeriod.dev = dHeld := (congrArg State.dev load.shell).trans held
  obtain ⟨c, anchored⟩ := s.loadPeriod.anchorIf_eq was
  have went := State.goTo_becomes { s.loadPeriod with cad := c } (d := dReady) (.inr (by rw [dev]; rfl))
  rw [anchored]
  refine ⟨went.shell.trans ?_, went.regions.trans load.regions, ?_, fun f hf => went.words.get (by simpa using hf)⟩
  · exact congrArg (fun u : State => { u with dev := dReady }) load.shell
  · intro a ha
    simp only [List.mem_cons, List.not_mem_nil, or_false, not_or] at ha
    exact (went.words a (by simp [ha.2])).trans (load.words a (by simp [ha.1]))

/-- What a commit that passes leaves in the module (R278 steps 4 to 6, R31, R47). -/
structure Committed (i : Img) (s t : State) : Prop where
  shell : t.shell = { s.shell.loadVolts i with dev := dReady, images := s.images.commit i }
  load : t.get CHP_IMG_STATUS.load = 2
  code : t.get CHP_HOLD_REASON.code = 0
  sequence : t.get CHP_IMG_SEQ.sequence = i.sequence % 2 ^ 64
  seeds : ∀ j < 4, t.get (CAD_SEED.seed j) = leAt (i.part 3 0 0xFFFF) (8 * j) 8 % 2 ^ 64
  epochs : ∀ r < 16, t.rget r RGN_EPOCH.epoch = 0
  least : t.get CAD_PERIOD.required_min = i.minPeriod s.volt % 2 ^ 20
  current : t.get CAD_PERIOD.current = (if s.synced = true then i.period else max i.period (i.minPeriod s.volt)) % 2 ^ 20

/-- Synchronisation is read from its register. -/
theorem State.synced_of_words {regs : List Nat} {s t : State} (h : State.WordsBut regs s t) (hr : CAD_SYNC_CTL.off ∉ regs) :
    t.synced = s.synced := by
  rw [State.synced, State.synced, h.get hr]

/-- The placing of blocks before an image is mounted is none of what its mounting leaves. -/
theorem Mounted.of_same {i : Img} {s p m : State} (h : Mounted i p m) (shell : p.shell = s.shell) (regs : p.regs = s.regs) :
    Mounted i s m :=
  { h with
    shell := by rw [h.shell, shell]
    words := fun a ha => by rw [h.words a ha, regs] }

/-- A mounted image is committed. -/
theorem Mounted.commit {i : Img} {s m : State} (h : Mounted i s m) (held : s.dev = dHeld) (was : Nat) :
    Committed i s (((m.commitImage i).loadPeriod.anchorIf was).goTo dReady) := by
  have words := h.words.trans (m.commitImage_words i)
  obtain ⟨load, code, sequence⟩ := m.get_commitImage i
  obtain ⟨mshell, regions, cad⟩ := m.commitImage_same i
  have shell : (m.commitImage i).shell = { s.shell.loadVolts i with images := s.images.commit i } := by
    have images := congrArg State.images h.shell
    rw [mshell, h.shell, show m.images = s.images from images]
  have seeds : ∀ j < 4, (m.commitImage i).get (CAD_SEED.seed j) = leAt (i.part 3 0 0xFFFF) (8 * j) 8 % 2 ^ 64 := fun j hj =>
    ((m.commitImage_words i).get (seed_off_notMem hj (by decide))).trans (h.seeds j hj)
  generalize m.commitImage i = c at *
  have dev : c.dev = dHeld := (congrArg State.dev shell).trans held
  have volt : c.volt = s.volt := by
    have volts := congrArg (fun u : State => u.power.volts) shell
    funext r
    rw [State.volt, State.volt, show c.power.volts = s.power.volts from volts]
  have required : c.requiredMin = i.minPeriod s.volt := by
    have committed := congrArg (fun u : State => u.images.committed) shell
    rw [State.requiredMin, show c.images.committed = some i from committed, ← volt]
  have synced : c.synced = s.synced := State.synced_of_words words (by decide)
  obtain ⟨tshell, tregions, twords, tget⟩ := c.toReady dev was
  constructor
  case shell => exact tshell.trans (congrArg (fun u : State => { u with dev := dReady }) shell)
  case load => exact (twords.get (by decide)).trans load
  case code => exact (twords.get (by decide)).trans code
  case sequence => exact (twords.get (by decide)).trans sequence
  case seeds => exact fun j hj => (twords.get (seed_off_notMem hj (by decide))).trans (seeds j hj)
  case epochs =>
    intro r hr
    rw [State.rget_of_regions (tregions.trans regions), h.epochs r hr]
  case least => rw [tget _ (by decide), State.get_loadPeriod_least, required]
  case current =>
    rw [tget _ (by decide), State.get_loadPeriod_current, synced, required, cad, h.programmed, h.need, Nat.max_zero]

end Sys2Proof.Machine
end

section
/-! SUPPORT. The withdrawal of an image, and the ops of CHP_IMG_CTL that load and withdraw one (R278, R282). -/

namespace Sys2Proof.Machine

/-- Register words and records are no remount entries. -/
theorem State.ChipBecomes.rmt {s b t : State} {regs : List Nat} (h : s.ChipBecomes regs b t) : t.rmt = b.rmt := by
  obtain ⟨⟨m, ev, co, rfl⟩, -⟩ := h
  rfl

/-- A remount entry depends on the remount table alone. -/
theorem State.rmtOf_of_rmt {s t : State} (h : t.rmt = s.rmt) (p : Nat) : t.rmtOf p = s.rmtOf p := by
  rw [State.rmtOf, State.rmtOf, h]

/-- A remount entry that holds no logical block. -/
def Rmt.vacant (x : Rmt) : Prop := x.state ≠ 0 ∧ x.lblock = 0x7FF

/-- With no block placed, every entry of the remount tables is vacant. -/
theorem State.placeBlocks_vacant (s : State) {p : Nat} (hp : p < 1280) : ((s.placeBlocks []).rmtOf p).vacant := by
  delta State.placeBlocks
  extract_lets clear s1 s2
  have touch : ∀ (u : State) q, ((clear u q).rmtOf q).vacant := fun u q => by
    simp only [clear, State.rmtOf_setRmt_same]
    refine ⟨?_, rfl⟩
    dsimp only
    split
    · exact Nat.one_ne_zero
    · next h => exact h
  have keep : ∀ (u : State) q, (u.rmtOf p).vacant → ((clear u q).rmtOf p).vacant := fun u q hu => by
    by_cases e : p = q
    · rw [← e]
      exact touch u p
    · rwa [State.rmtOf_setRmt_ne _ _ e]
  have cleared : (s1.rmtOf p).vacant := foldl_each (P := fun u : State => (u.rmtOf p).vacant) (fun u => touch u p) keep (List.mem_range.mpr hp) s
  have same : s2 = s1 := List.foldl_nil
  clear_value s2 s1
  rw [State.rmtOf_of_rmt (foldl_same State.rmt (fun u r => by simp only [State.rset_rmt]) _ _), same]
  exact cleared

/-- What a withdrawal leaves in the module (R32, R278, R282). -/
structure Withdrawn (s t : State) : Prop where
  shell : t.shell = { s.shell with images := {}, power := { s.power with load := none } }
  words : State.WordsBut [CAD_PERIOD.off, CHP_IMG_SEQ.off, CHP_IMG_STATUS.off] s t
  current : t.get CAD_PERIOD.current = if s.synced = true then s.get CAD_PERIOD.current else 4000
  sequence : t.get CHP_IMG_SEQ.sequence = 0
  stage : t.get CHP_IMG_STATUS.stage = 0
  vacant : ∀ p < 1280, (t.rmtOf p).vacant

/-- The images, the power manager and the Cadence as a withdrawal puts them. -/
theorem State.putEmpty_same (s : State) (x : Images) (w : Power) (c : Cadence) : let t : State := { s with images := x, power := w, cad := c }
    t.shell = { s.shell with images := x, power := w } ∧ t.regs = s.regs ∧ t.rmt = s.rmt ∧ t.images = x ∧ t.cad = c :=
  ⟨rfl, rfl, rfl, rfl, rfl⟩

/-- The blocks as a withdrawal puts them. -/
theorem State.putBlocks_same (s : State) (x : Cells Block) : let t : State := { s with blocks := x }
    t.shell = s.shell ∧ t.regs = s.regs ∧ t.rmt = s.rmt := ⟨rfl, rfl, rfl⟩

/-- A new anchor leaves all but the Cadence. -/
theorem State.anchorIf_same (s : State) (was : Nat) : let t := s.anchorIf was
    t.shell = s.shell ∧ t.regs = s.regs ∧ t.rmt = s.rmt := by
  obtain ⟨c, e⟩ := s.anchorIf_eq was
  rw [e]
  exact ⟨rfl, rfl, rfl⟩

/-- A withdrawal, stage by stage: the remount tables, the period, the blocks, what is shown (R278, R282, R32). -/
theorem State.withdraw_withdrawn (s : State) : Withdrawn s s.withdraw := by
  have placed := s.placeBlocks_shell []
  have vacant : ∀ p < 1280, ((s.placeBlocks []).rmtOf p).vacant := fun _ => s.placeBlocks_vacant
  unfold State.withdraw
  generalize s.placeBlocks [] = p at *
  obtain ⟨shell, regs⟩ := placed
  extract_lets was q cad power e f g
  obtain ⟨eshell, eregs, ermt, eimages, ecad⟩ :=
    p.putEmpty_same {} { s.power with load := none } { s.cad with programmed := 4000, need := 0, refit := false }
  change e.shell = _ at eshell
  change e.regs = _ at eregs
  change e.rmt = _ at ermt
  change e.images = _ at eimages
  change e.cad = _ at ecad
  have fit := e.fitPeriod_becomes
  have current := e.get_fitPeriod_current
  obtain ⟨fshell, fregs, frmt⟩ : f.shell = e.fitPeriod.shell ∧ f.regs = e.fitPeriod.regs ∧ f.rmt = e.fitPeriod.rmt :=
    e.fitPeriod.anchorIf_same was
  obtain ⟨gshell, gregs, grmt⟩ : g.shell = f.shell ∧ g.regs = f.regs ∧ g.rmt = f.rmt := f.putBlocks_same _
  clear_value g f e
  have shown : g.ChipBecomes [CHP_IMG_SEQ.off, CHP_IMG_STATUS.off] g
      (((g.set CHP_IMG_SEQ.sequence 0).set CHP_IMG_STATUS.load 0).set CHP_IMG_STATUS.stage 0) :=
    .set (.set (.set (.of_regs rfl) (by decide) _) (by decide) _) (by decide) _
  have period : ∀ f, g.get f = e.fitPeriod.get f := State.get_of_regs (gregs.trans fregs)
  have before : ∀ f, e.get f = s.get f := State.get_of_regs (eregs.trans regs)
  constructor
  case shell => rw [shown.shell, gshell, fshell, fit.shell, eshell, shell]
  case words =>
    intro a ha
    simp only [List.mem_cons, List.not_mem_nil, or_false, not_or] at ha
    rw [shown.words a (by simp [ha.2]), gregs, fregs, fit.words a (by simp [ha.1]), eregs, regs]
  case current =>
    have required : e.requiredMin = 0 := by rw [State.requiredMin, eimages]
    rw [shown.words.get (by decide), period, current, State.synced, State.synced, before, before, required, ecad]
    rfl
  case sequence =>
    rw [State.get_set_apart _ (by decide) (by decide) (by decide), State.get_set_apart _ (by decide) (by decide) (by decide),
      State.get_set_same _ (by decide), Nat.zero_mod]
  case stage => rw [State.get_set_same _ (by decide), Nat.zero_mod]
  case vacant =>
    intro b hb
    rw [State.rmtOf_of_rmt (shown.rmt.trans (grmt.trans (frmt.trans (fit.rmt.trans ermt))))]
    exact vacant b hb

/-! The ops of CHP_IMG_CTL. -/

/-- An op that is not accepted shows its result, and nothing else changes (R282). -/
theorem State.imgRefused (s : State) (op : Nat) {r : Nat} (hr : r < 256) : let t := (s.set CHP_IMG_CTL.op op).imgResult r
    t.get CHP_IMG_STATUS.op_result = r ∧ s.ChipBecomes [CHP_IMG_CTL.off, CHP_IMG_STATUS.off] s t :=
  ⟨(State.get_set_same _ (by decide) _).trans (Nat.mod_eq_of_lt hr), .set (.set (.of_regs rfl) (by decide) _) (by decide) _⟩

/-- The staging address is judged by its register and the installed tiers. -/
theorem State.imgAddrOk_op (s : State) (op : Nat) : (s.set CHP_IMG_CTL.op op).imgAddrOk = s.imgAddrOk := by
  have words : State.WordsBut [CHP_IMG_CTL.off] s (s.set CHP_IMG_CTL.op op) :=
    (State.ChipBecomes.set (.of_regs rfl) (by decide) _).words
  rw [State.imgAddrOk, State.imgAddrOk, words.get (by decide), words.tiers (by decide) rfl rfl]

/-- The module with no image, after a load or a withdrawal was accepted in `s` (R32, R278, R282). -/
def State.Emptied (s t : State) : Prop :=
  t.dev = 2 ∧ t.images.committed = none ∧ t.images.staged = none ∧ t.get CHP_IMG_SEQ.sequence = 0 ∧ t.get CHP_IMG_STATUS.stage = 0 ∧
    t.get CHP_IMG_STATUS.op_result = 0 ∧ t.get CAD_PERIOD.current = (if s.synced = true then s.get CAD_PERIOD.current else 4000) ∧
    (∀ p < 1280, (t.rmtOf p).vacant) ∧ t.hbm = s.hbm ∧ t.ddr = s.ddr

/-- The device goes back to Held for an accepted op. -/
theorem State.heldForOp (s : State) (op : Nat) (h : s.dev = dHeld ∨ s.dev = dReady) :
    s.ChipBecomes [CHP_IMG_CTL.off, CHP_STATE.off] { s with dev := dHeld } ((s.set CHP_IMG_CTL.op op).goTo dHeld) := by
  have went := State.goTo_becomes (s.set CHP_IMG_CTL.op op) (d := dHeld) (h.imp id fun e => by rw [State.set_dev, e]; rfl)
  obtain ⟨⟨m, ev, co, shape⟩, words⟩ := went
  refine ⟨⟨m, ev, co, shape⟩, fun a ha => ?_⟩
  simp only [List.mem_cons, List.not_mem_nil, or_false, not_or] at ha
  exact (words a (by simp [ha.2])).trans (Regs.word_set_ne _ _ _ _ ha.1)

/-- The withdrawal within an accepted op leaves no image, whatever is shown of the op afterwards. -/
theorem Withdrawn.emptied {s u w t : State} {x : Images} (h : Withdrawn u w)
    (held : s.ChipBecomes [CHP_IMG_CTL.off, CHP_STATE.off] { s with dev := dHeld } u)
    (shown : w.ChipBecomes [CHP_HOLD_REASON.off, CHP_IMG_STATUS.off] { w with images := x } t)
    (none_ : x.committed = none ∧ x.staged = none) (stage : t.get CHP_IMG_STATUS.stage = w.get CHP_IMG_STATUS.stage)
    (result : t.get CHP_IMG_STATUS.op_result = 0) : s.Emptied t := by
  have synced : u.synced = s.synced := State.synced_of_words held.words (by decide)
  have tshell : t.shell = { ({ s.shell with dev := dHeld } : State) with images := x, power := { u.power with load := none } } := by
    rw [shown.shell]
    show ({ w.shell with images := x } : State) = _
    rw [h.shell, held.shell]
    rfl
  have dev := congrArg State.dev tshell
  have images := congrArg State.images tshell
  have hbm := congrArg State.hbm tshell
  have ddr := congrArg State.ddr tshell
  refine ⟨dev, (congrArg Images.committed images).trans none_.1, (congrArg Images.staged images).trans none_.2, ?_, ?_, result, ?_, ?_, hbm, ddr⟩
  · rw [shown.words.get (by decide), h.sequence]
  · rw [stage, h.stage]
  · rw [shown.words.get (by decide), h.current, synced, held.words.get (by decide)]
  · intro p hp
    rw [State.rmtOf_of_rmt shown.rmt]
    exact h.vacant p hp

end Sys2Proof.Machine
end

section
/-! O39: the statement on loads, commits and withdrawals. -/

namespace Sys2Proof.Machine

/-- What is shown of an accepted load (R282, R288). -/
theorem State.loadShown (s : State) : let t := ((s.imgResult 0).set CHP_IMG_STATUS.load 1).holdReason { code := 0x01 }
    s.ChipBecomes [CHP_HOLD_REASON.off, CHP_IMG_STATUS.off] s t ∧ t.get CHP_IMG_STATUS.stage = s.get CHP_IMG_STATUS.stage ∧
      t.get CHP_IMG_STATUS.op_result = 0 ∧ t.get CHP_IMG_STATUS.load = 1 ∧ t.get CHP_HOLD_REASON.code = 0x01 := by
  refine ⟨.holdReason (.set (.set (.of_regs rfl) (by decide) _) (by decide) _) (by decide) _, ?_, ?_, ?_, (State.get_holdReason ..).1⟩ <;>
    rw [State.get_holdReason_ne _ _ (by decide), State.imgResult] <;>
    simp (disch := decide) only [State.get_set_same, State.get_set_apart, Nat.zero_mod]
  rfl

/-- What is shown of an accepted withdrawal (R282, R288). -/
theorem State.withdrawalShown (s : State) : let t := (s.holdReason { code := 0x02 }).imgResult 0
    s.ChipBecomes [CHP_HOLD_REASON.off, CHP_IMG_STATUS.off] s t ∧ t.get CHP_IMG_STATUS.stage = s.get CHP_IMG_STATUS.stage ∧
      t.get CHP_IMG_STATUS.op_result = 0 ∧ t.get CHP_HOLD_REASON.code = 0x02 := by
  refine ⟨.set (.holdReason (.of_regs rfl) (by decide) _) (by decide) _, ?_, State.get_set_same _ (by decide) _, ?_⟩ <;>
    rw [State.imgResult, State.get_set_apart _ (by decide) (by decide) (by decide)]
  · exact State.get_holdReason_ne _ _ (by decide)
  · exact (State.get_holdReason ..).1

/-- A withdrawal leaves what a load reads: the tiers and the staging address. -/
theorem Withdrawn.reads {s u w : State} (h : Withdrawn u w)
    (held : s.ChipBecomes [CHP_IMG_CTL.off, CHP_STATE.off] { s with dev := dHeld } u) :
    w.tiers = s.tiers ∧ w.get CHP_IMG_ADDR.addr = s.get CHP_IMG_ADDR.addr := by
  have words := held.words.trans h.words
  have whbm := congrArg State.hbm h.shell
  have wddr := congrArg State.ddr h.shell
  have uhbm := congrArg State.hbm held.shell
  have uddr := congrArg State.ddr held.shell
  exact ⟨words.tiers (by decide) (whbm.trans uhbm) (wddr.trans uddr), words.get (by decide)⟩

/-- While something is read, an op is refused (R282). -/
theorem State.imageLoad_busy {s : State} (busy : s.imgBusy = true) : s.imageLoad = (s.set CHP_IMG_CTL.op 1).imgResult 2 := if_pos busy

/-- The same for a withdrawal. -/
theorem State.imageWithdraw_busy {s : State} (busy : s.imgBusy = true) : s.imageWithdraw = (s.set CHP_IMG_CTL.op 4).imgResult 2 :=
  if_pos busy

section
variable {s : State} (idle : s.imgBusy = false)
include idle

/-- Outside Held and Ready a load is refused. -/
theorem State.imageLoad_state (h : s.dev ≠ 2 ∧ s.dev ≠ 3) : s.imageLoad = (s.set CHP_IMG_CTL.op 1).imgResult 1 :=
  (if_neg (ne_true_of_eq_false idle)).trans (if_pos h)

/-- A staging address that is no multiple of 4,096, or not installed, is refused. -/
theorem State.imageLoad_addr (h : s.dev = 2 ∨ s.dev = 3) (bad : s.imgAddrOk = false) :
    s.imageLoad = (s.set CHP_IMG_CTL.op 1).imgResult 3 := by
  have place : ¬ (s.dev ≠ dHeld ∧ s.dev ≠ dReady) := fun n => h.elim n.1 n.2
  have addr : (!(s.set CHP_IMG_CTL.op 1).imgAddrOk) = true := by rw [s.imgAddrOk_op, bad]; rfl
  exact ((if_neg (ne_true_of_eq_false idle)).trans (if_neg place)).trans (if_pos addr)

/-- An accepted load: a withdrawal, the op's result, and the new image with what its checks found. -/
theorem State.imageLoad_begins (h : s.dev = 2 ∨ s.dev = 3) (ok : s.imgAddrOk = true) :
    let w := ((s.set CHP_IMG_CTL.op 1).goTo dHeld).withdraw
    ∃ bad, s.imageLoad = { ((w.imgResult 0).set CHP_IMG_STATUS.load 1).holdReason { code := 0x01 } with
      images := { loading := some (Img.read w.tiers (w.get CHP_IMG_ADDR.addr), bad) } } := by
  have place : ¬ (s.dev ≠ dHeld ∧ s.dev ≠ dReady) := fun n => h.elim n.1 n.2
  have addr : ¬ (!(s.set CHP_IMG_CTL.op 1).imgAddrOk) = true := by rw [s.imgAddrOk_op, ok]; decide
  exact ⟨_, ((if_neg (ne_true_of_eq_false idle)).trans (if_neg place)).trans (if_neg addr)⟩

/-- An accepted load withdraws the committed image and reads the new one (R278, R282). -/
theorem State.imageLoad_accepted (h : s.dev = 2 ∨ s.dev = 3) (ok : s.imgAddrOk = true) : ∃ bad, s.Emptied s.imageLoad ∧
    s.imageLoad.get CHP_IMG_STATUS.load = 1 ∧ s.imageLoad.get CHP_HOLD_REASON.code = 0x01 ∧
    s.imageLoad.images.loading = some (Img.read s.tiers (s.get CHP_IMG_ADDR.addr), bad) := by
  obtain ⟨bad, load⟩ := State.imageLoad_begins idle h ok
  have held := s.heldForOp 1 h
  generalize (s.set CHP_IMG_CTL.op 1).goTo dHeld = u at load held
  have gone := u.withdraw_withdrawn
  generalize u.withdraw = w at load gone
  obtain ⟨shown, stage, result, reading, code⟩ := w.loadShown
  obtain ⟨tiers, addr⟩ := gone.reads held
  rw [load, tiers, addr]
  generalize ((w.imgResult 0).set CHP_IMG_STATUS.load 1).holdReason { code := 0x01 } = v at *
  have images : ∀ x, w.ChipBecomes [CHP_HOLD_REASON.off, CHP_IMG_STATUS.off] { w with images := x } { v with images := x } := by
    intro x
    obtain ⟨⟨m, ev, co, rfl⟩, words⟩ := shown
    exact ⟨⟨m, ev, co, rfl⟩, words⟩
  exact ⟨bad, gone.emptied held (images _) ⟨rfl, rfl⟩ stage result, reading, code, rfl⟩

/-- Outside Ready a withdrawal is refused. -/
theorem State.imageWithdraw_state (h : s.dev ≠ 3) : s.imageWithdraw = (s.set CHP_IMG_CTL.op 4).imgResult 1 :=
  (if_neg (ne_true_of_eq_false idle)).trans (if_pos h)

/-- An accepted withdrawal leaves no image, not even one being read (R282). -/
theorem State.imageWithdraw_accepted (h : s.dev = 3) :
    s.Emptied s.imageWithdraw ∧ s.imageWithdraw.images.loading = none ∧ s.imageWithdraw.get CHP_HOLD_REASON.code = 0x02 := by
  have accepted : s.imageWithdraw = ((((s.set CHP_IMG_CTL.op 4).goTo dHeld).withdraw).holdReason { code := 0x02 }).imgResult 0 :=
    (if_neg (ne_true_of_eq_false idle)).trans (if_neg (not_not.mpr h))
  have held := s.heldForOp 4 (.inr h)
  generalize (s.set CHP_IMG_CTL.op 4).goTo dHeld = u at accepted held
  have gone := u.withdraw_withdrawn
  generalize u.withdraw = w at accepted gone
  obtain ⟨shown, stage, result, code⟩ := w.withdrawalShown
  rw [← accepted] at shown stage result code
  have images := congrArg State.images gone.shell
  have same : ({ w with images := {} } : State) = w := by
    rw [← show w.images = {} from images]
  have empty : w.ChipBecomes [CHP_HOLD_REASON.off, CHP_IMG_STATUS.off] { w with images := {} } s.imageWithdraw := by rwa [same]
  have loading := congrArg State.images empty.shell
  exact ⟨gone.emptied held empty ⟨rfl, rfl⟩ stage result, congrArg Images.loading loading, code⟩

end

section
variable {s : State} {i : Img} (held : s.dev = dHeld)
include held

/-- A load whose checks failed is refused (R279). -/
theorem State.imageCommit_refused {h : Hold} (bad : s.images.loading = some (i, some h)) (f : Option (Nat × Nat)) :
    s.imageCommit f = s.refuseLoad h := by
  unfold State.imageCommit
  rw [if_neg (not_not.mpr held), bad]

/-- A load whose resident copy could not be read is refused, every line zero (R279, R484). -/
theorem State.imageCommit_faulted (good : s.images.loading = some (i, none)) (l h : Nat) : s.imageCommit (some (l, h)) =
    State.refuseLoad { s with blocks := s.blocks.map fun (p, b) => (p, { b with spad := [], gather := [] }) }
      { code := 0x40, lblock := l, index := h } := by
  unfold State.imageCommit
  rw [if_neg (not_not.mpr held), good]

/-- A load that passes is committed (R278 steps 4 to 6). -/
theorem State.imageCommit_committed (good : s.images.loading = some (i, none))
    (passes : (s.installImage i (s.place i fun _ => 0).2).1 = none) : Committed i s (s.imageCommit none) := by
  obtain ⟨h, refused⟩ | ⟨p, moves, shell, regs, installed⟩ := s.installImage_cases i (s.place i fun _ => 0).2
  · rw [passes] at refused
    contradiction
  · have commits : s.imageCommit none =
        ((((p.mountImage i (s.place i fun _ => 0).2 moves).commitImage i).loadPeriod).anchorIf (s.get CAD_PERIOD.current)).goTo dReady := by
      unfold State.imageCommit
      rw [if_neg (not_not.mpr held), good]
      dsimp only
      rw [installed]
    rw [commits]
    exact ((p.mountImage_mounted i _ moves).of_same shell regs).commit held _

end

/-- Settles O39: each op of CHP_IMG_CTL by the branch that takes it, and a commit by the stages of its mounting. -/
theorem imageLoadAndCommit : Obligations.ImageLoadAndCommit := by
  unfold Obligations.ImageLoadAndCommit
  intro s refuses empty
  have refusal : ∀ (c : Instr) (op r : Nat), r < 256 → exec c s = .next ((s.set CHP_IMG_CTL.op op).imgResult r) → refuses c r :=
    fun c op r hr e => ⟨_, e, s.imgRefused op hr⟩
  refine ⟨fun busy => ⟨?_, ?_⟩, fun idle => ⟨fun h => ?_, fun h => ?_, fun h => ?_, fun h => ⟨fun bad => ?_, fun ok => ?_⟩⟩, ?commit⟩
  · exact refusal _ 1 2 (by decide) (congrArg _ (State.imageLoad_busy busy))
  · exact refusal _ 4 2 (by decide) (congrArg _ (State.imageWithdraw_busy busy))
  · exact refusal _ 1 1 (by decide) (congrArg _ (State.imageLoad_state idle h))
  · exact refusal _ 4 1 (by decide) (congrArg _ (State.imageWithdraw_state idle h))
  · exact ⟨_, rfl, State.imageWithdraw_accepted idle h⟩
  · exact refusal _ 1 3 (by decide) (congrArg _ (State.imageLoad_addr idle h bad))
  · obtain ⟨bad, loaded⟩ := State.imageLoad_accepted idle h ok
    exact ⟨_, bad, rfl, loaded⟩
  case commit =>
    intro i bad held loading refused
    have refusal : ∀ (f : Option (LBlk × Hdl)) (h : Hold) (blocks : Cells Block),
        exec (.imageCommit f) s = .next (State.refuseLoad { s with blocks := blocks } h) → refused f h blocks := fun f h blocks e => by
      obtain ⟨load, code, sub, section_, lblock, index⟩ := State.get_refuseLoad { s with blocks := blocks } h
      exact ⟨_, e, load, code, sub, section_, lblock, index, State.refuseLoad_becomes { s with blocks := blocks } h⟩
    refine ⟨fun f h e => ?_, fun e => ⟨fun l h => ?_, fun passes => ?_⟩⟩ <;> rw [e] at loading
    · exact refusal f h _ (congrArg _ (State.imageCommit_refused held loading _))
    · exact refusal _ _ _ (congrArg _ (State.imageCommit_faulted held loading l h))
    · have done := State.imageCommit_committed held loading passes
      have dev := congrArg State.dev done.shell
      have images := congrArg State.images done.shell
      have power := congrArg State.power done.shell
      have hbm := congrArg State.hbm done.shell
      have ddr := congrArg State.ddr done.shell
      exact ⟨_, rfl, dev, congrArg Images.committed images, congrArg Images.loading images, done.load, done.code,
        done.sequence, done.seeds, done.epochs, done.least, done.current, power, hbm, ddr⟩

end Sys2Proof.Machine
end

section
/-! O4, O5: what every command keeps, and with it the invariant of R29 and R236. -/

namespace Sys2Proof.Machine

/-- Every command answers a next state, and what it does keeps what Keeps names: one lemma of Sys2Proof/Laws for each operation. -/
theorem exec_keeps (c : Instr) (s : State) : ∃ t, exec c s = .next t ∧ Keeps s t := by
  cases c with
  | inputInRange => exact ⟨_, rfl, State.inputIn_keeps (.refl s) ..⟩
  | inputOutOfRange => exact ⟨_, rfl, State.inputOut_keeps (.refl s) ..⟩
  | moduleEnRise => exact ⟨_, rfl, State.enRise_keeps (.refl s) ..⟩
  | moduleEnFall => exact ⟨_, rfl, State.enFall_keeps (.refl s) ..⟩
  | resetNAssert => exact ⟨_, rfl, State.resetLow_keeps (.refl s) ..⟩
  | resetNRelease => exact ⟨_, rfl, State.resetHigh_keeps (.refl s) ..⟩
  | bringupStepComplete => exact ⟨_, rfl, State.bringupStep_keeps (.refl s) ..⟩
  | beatIssue => exact ⟨_, rfl, State.beatIssue_keeps (.refl s) ..⟩
  | beatArrive => exact ⟨_, rfl, State.beatArrive_keeps (.refl s) ..⟩
  | strideAck => exact ⟨_, rfl, State.strideAck_keeps (.refl s) ..⟩
  | regionAck => exact ⟨_, rfl, State.regionAck_keeps (.refl s) ..⟩
  | tetherTimeout => exact ⟨_, rfl, State.tetherTimeout_keeps (.refl s) ..⟩
  | rejoinFailed => exact ⟨_, rfl, State.rejoinFailed_keeps (.refl s) ..⟩
  | syncExchange => exact ⟨_, rfl, State.syncExchange_keeps (.refl s) ..⟩
  | syncAnswer => exact ⟨_, rfl, State.syncAnswer_keeps (.refl s) ..⟩
  | portStateChange => exact ⟨_, rfl, State.portState_keeps (.refl s) ..⟩
  | cadPeriodWrite => exact ⟨_, rfl, State.periodWrite_keeps (.refl s) ..⟩
  | nop | loadw | stream | drain | anchor | convert | strideSend | combine | strideTally | waittag | splice | groomLoad | groomStore
  | handleAccess | rand | recv | poll | handleRead | handleRef | handleOpen | handleClose | handleRebind | handleBump | groomTally
  | balkchkQuery | balkchkRetry | balkchkDiscard | yieldTurn | yieldEnd | fencewait | hdlWrite | pkhHeadWrite | tokenArrive
  | fireListEntryStart | freeNodeFire | reinSelection | cqForward | credit | messageArrive | windowWriteArrive | reoffer | queueClose
  | queueReopen | windowCloseComplete | windowCloseTimeout | mgrResult | traceRecord => exact ⟨_, rfl, State.onBlock_keeps (.refl s) ..⟩
  | groomInstruction => exact ⟨_, rfl, State.groomInstruction_keeps (.refl s) ..⟩
  | groomSend => exact ⟨_, rfl, State.groomSend_keeps (.refl s) ..⟩
  | cqContribute => exact ⟨_, rfl, State.cqContribute_keeps (.refl s) ..⟩
  | scanOut => exact ⟨_, rfl, State.scanOut_keeps (.refl s) ..⟩
  | scanIn => exact ⟨_, rfl, State.scanIn_keeps (.refl s) ..⟩
  | scanDone => exact ⟨_, rfl, State.scanDone_keeps (.refl s) ..⟩
  | packetInject => exact ⟨_, rfl, State.inject_keeps (.refl s) ..⟩
  | flitReceive => exact ⟨_, rfl, State.flitReceive_keeps (.refl s) ..⟩
  | packetHeaderArrive => exact ⟨_, rfl, State.headerArrive_keeps (.refl s) ..⟩
  | mergeEntryLeave => exact ⟨_, rfl, State.mergeLeave_keeps (.refl s) ..⟩
  | gaitEntryServe => exact ⟨_, rfl, State.gaitServe_keeps (.refl s) ..⟩
  | multicastBranchSend => exact ⟨_, rfl, State.branchSend_keeps (.refl s) ..⟩
  | packetAccept => exact ⟨_, rfl, State.packetAccept_keeps (.refl s) ..⟩
  | ackSend => exact ⟨_, rfl, State.ackSend_keeps (.refl s) ..⟩
  | ackReceive => exact ⟨_, rfl, State.ackReceive_keeps (.refl s) ..⟩
  | echoReceive => exact ⟨_, rfl, State.echoReceive_keeps (.refl s) ..⟩
  | resendTimeout => exact ⟨_, rfl, State.resendTimeout_keeps (.refl s) ..⟩
  | epochFlipStart => exact ⟨_, rfl, .ite (State.flipStart_keeps (.refl s) ..) (State.regionRecovery_keeps (.refl s) ..)⟩
  | epochFlipRequest => exact ⟨_, rfl, State.flipRequest_keeps (.refl s) ..⟩
  | flipDrained => exact ⟨_, rfl, State.flipOver_keeps (.refl s) ..⟩
  | flipDrainTimeout => exact ⟨_, rfl, State.flipDrainTimeout_keeps (.refl s) ..⟩
  | memRead => exact ⟨_, rfl, State.memRead_keeps (.refl s) ..⟩
  | memWrite => exact ⟨_, rfl, State.memWrite_keeps (.refl s) ..⟩
  | memReply => exact ⟨_, rfl, State.memReply_keeps (.refl s) ..⟩
  | mgrCall => exact ⟨_, rfl, State.mgrCall_keeps (.refl s) ..⟩
  | gemv | decodeAttend | gather => exact ⟨_, rfl, State.compute_keeps (.refl s) ..⟩
  | mgrCallComplete => exact ⟨_, rfl, State.callComplete_keeps (.refl s) ..⟩
  | refresh => exact ⟨_, rfl, State.refresh_keeps (.refl s) ..⟩
  | scrubBurst => exact ⟨_, rfl, State.scrubBurst_keeps (.refl s) ..⟩
  | sigRangeEnable => exact ⟨_, rfl, State.sigEnable_keeps (.refl s) ..⟩
  | sigRangeDisable => exact ⟨_, rfl, State.sigDisable_keeps (.refl s) ..⟩
  | rowsigComplete => exact ⟨_, rfl, State.rowsig_keeps (.refl s) ..⟩
  | uncorrectableError => exact ⟨_, rfl, State.memoryError_keeps (.refl s) ..⟩
  | ddr5Retraining => exact ⟨_, rfl, State.retrain_keeps (.refl s) ..⟩
  | imageLoad => exact ⟨_, rfl, State.imageLoad_keeps (.refl s) ..⟩
  | imageCommit => exact ⟨_, rfl, State.imageCommit_keeps (.refl s) ..⟩
  | imageStage => exact ⟨_, rfl, State.imageStage_keeps (.refl s) ..⟩
  | stageComplete => exact ⟨_, rfl, State.stageComplete_keeps (.refl s) ..⟩
  | stageCancel => exact ⟨_, rfl, State.stageCancel_keeps (.refl s) ..⟩
  | imageWithdraw => exact ⟨_, rfl, State.imageWithdraw_keeps (.refl s) ..⟩
  | swapQuietWait => exact ⟨_, rfl, State.swapWait_keeps (.refl s) ..⟩
  | swapQuiet => exact ⟨_, rfl, State.swapQuiet_keeps (.refl s) ..⟩
  | swapQuietTimeout => exact ⟨_, rfl, State.swapTimeout_keeps (.refl s) ..⟩
  | bistSliceStart => exact ⟨_, rfl, State.sliceStart_keeps (.refl s) ..⟩
  | bistSliceEnd => exact ⟨_, rfl, State.sliceEnd_keeps (.refl s) ..⟩
  | diagnosticRunEnd => exact ⟨_, rfl, State.diagEnd_keeps (.refl s) ..⟩
  | mangerSlice => exact ⟨_, rfl, State.mangerSlice_keeps (.refl s) ..⟩
  | testLapsed => exact ⟨_, rfl, State.testLapsed_keeps (.refl s) ..⟩
  | plannedSwap => exact ⟨_, rfl, State.plannedSwap_keeps (.refl s) ..⟩
  | preemptInPlace => exact ⟨_, rfl, State.preempt_keeps (.refl s) ..⟩
  | shadowVerdict => exact ⟨_, rfl, State.anyVerdict_keeps (.refl s) ..⟩
  | chipSweepRecord => exact ⟨_, rfl, State.sweepRecord_keeps (.refl s) ..⟩
  | saddlebagComplete => exact ⟨_, rfl, State.saddleDone_keeps (.refl s) ..⟩
  | saddlebagInvalid => exact ⟨_, rfl, State.saddleExpire_keeps (.refl s) ..⟩
  | recoveryStart => exact ⟨_, rfl, State.recoveryStart_keeps (.refl s) ..⟩
  | blockRestore => exact ⟨_, rfl, State.blockRestore_keeps (.refl s) ..⟩
  | regionRecovery => exact ⟨_, rfl, State.regionRecovery_keeps (.refl s) ..⟩
  | leaseAcquire => exact ⟨_, rfl, State.leaseAcquire_keeps (.refl s) ..⟩
  | leaseGrant => exact ⟨_, rfl, State.leaseGrant_keeps (.refl s) ..⟩
  | leaseRelease => exact ⟨_, rfl, State.release_keeps (.refl s) ..⟩
  | leaseStarved => exact ⟨_, rfl, State.leaseStarved_keeps (.refl s) ..⟩
  | twinPair => exact ⟨_, rfl, State.twinPair_keeps (.refl s) ..⟩
  | pairingTimeout => exact ⟨_, rfl, State.pairingTimeout_keeps (.refl s) ..⟩
  | twinUnpair => exact ⟨_, rfl, State.twinUnpair_keeps (.refl s) ..⟩
  | twinRejoin => exact ⟨_, rfl, State.twinRejoin_keeps (.refl s) ..⟩
  | twnPartnerDown => exact ⟨_, rfl, State.partnerDown_keeps (.refl s) ..⟩
  | detachSelf => exact ⟨_, rfl, State.detachSelf_keeps (.refl s) ..⟩
  | hello => exact ⟨_, rfl, State.hello_keeps (.refl s) ..⟩
  | yokeAttest => exact ⟨_, rfl, State.yokeAttest_keeps (.refl s) ..⟩
  | yokeTally => exact ⟨_, rfl, State.yokeTally_keeps (.refl s) ..⟩
  | yokeAdmit => exact ⟨_, rfl, State.yokeAdmit_keeps (.refl s) ..⟩
  | yokeInput => exact ⟨_, rfl, State.yokeInput_keeps (.refl s) ..⟩
  | yokeWrite => exact ⟨_, rfl, State.yokeWrite_keeps (.refl s) ..⟩
  | save => exact ⟨_, rfl, State.save_keeps (.refl s) ..⟩
  | btally => exact ⟨_, rfl, State.btally_keeps (.refl s) ..⟩
  | yokeState => exact ⟨_, rfl, State.yokeState_keeps (.refl s) ..⟩
  | quiet => exact ⟨_, rfl, State.yokeQuiet_keeps (.refl s) ..⟩
  | comparisonTimeout => exact ⟨_, rfl, State.comparisonTimeout_keeps (.refl s) ..⟩
  | yokePortLost => exact ⟨_, rfl, State.yokePortLost_keeps (.refl s) ..⟩
  | twinDetChange => exact ⟨_, rfl, State.twinDetChange_keeps (.refl s) ..⟩
  | commandFetch => exact ⟨_, rfl, State.commandFetch_keeps (.refl s) ..⟩
  | cmdNop => exact ⟨_, rfl, State.cmdNop_keeps (.refl s) ..⟩
  | launch => exact ⟨_, rfl, State.launch_keeps (.refl s) ..⟩
  | admitJob => exact ⟨_, rfl, State.admitNext_keeps (.refl s) ..⟩
  | admitDeliver => exact ⟨_, rfl, State.admitDeliver_keeps (.refl s) ..⟩
  | endCmd => exact ⟨_, rfl, State.endCmd_keeps (.refl s) ..⟩
  | waitCmd => exact ⟨_, rfl, State.waitCmd_keeps (.refl s) ..⟩
  | jobEnd => exact ⟨_, rfl, State.jobEnd_keeps (.refl s) ..⟩
  | completionPost => exact ⟨_, rfl, State.completionPost_keeps (.refl s) ..⟩
  | commandQuery => exact ⟨_, rfl, State.commandQuery_keeps (.refl s) ..⟩
  | stepGrant => exact ⟨_, rfl, State.stepGrant_keeps (.refl s) ..⟩
  | ringEnable => exact ⟨_, rfl, State.ringEnable_keeps (.refl s) ..⟩
  | heartbeat => exact ⟨_, rfl, State.heartbeat_keeps (.refl s) ..⟩
  | riderSilent => exact ⟨_, rfl, State.riderSilent_keeps (.refl s) ..⟩
  | traceCtlWrite => exact ⟨_, rfl, State.writeTraceCtl_keeps (.refl s) ..⟩
  | templateReload => exact ⟨_, rfl, State.writeTemplates_keeps (.refl s) ..⟩
  | frameReceive => exact ⟨_, rfl, State.frameReceive_keeps (.refl s) ..⟩
  | frameTransmit => exact ⟨_, rfl, State.frameTransmit_keeps (.refl s) ..⟩
  | outputFrame => exact ⟨_, rfl, State.outputFrame_keeps (.refl s) ..⟩
  | fabricFrameReceive => exact ⟨_, rfl, State.fabReceive_keeps (.refl s) ..⟩
  | fabricRetransmit => exact ⟨_, rfl, State.fabRetransmit_keeps (.refl s) ..⟩
  | remoteRequest => exact ⟨_, rfl, State.remoteRequest_keeps (.refl s) ..⟩
  | peerReset => exact ⟨_, rfl, State.peerReset_keeps (.refl s) ..⟩
  | farrierRestart => exact ⟨_, rfl, State.farrierRestart_keeps (.refl s) ..⟩
  | eventRecordIntake => exact ⟨_, rfl, State.recordIntake_keeps (.refl s) ..⟩
  | logFlush => exact ⟨_, rfl, State.logFlush_keeps (.refl s) ..⟩
  | sensorRead => exact ⟨_, rfl, State.sensorRead_keeps (.refl s) ..⟩
  | sessionOpen => exact ⟨_, rfl, State.sessionOpen_keeps (.refl s) ..⟩
  | getState => exact ⟨_, rfl, State.getState_keeps (.refl s) ..⟩
  | subscribe => exact ⟨_, rfl, State.subscribe_keeps (.refl s) ..⟩
  | logRead => exact ⟨_, rfl, State.mgmtLogRead_keeps (.refl s) ..⟩
  | sensors => exact ⟨_, rfl, State.sensors_keeps (.refl s) ..⟩
  | studRead => exact ⟨_, rfl, State.studRead_keeps (.refl s) ..⟩
  | setConfig => exact ⟨_, rfl, State.setConfig_keeps (.refl s) ..⟩
  | outOfService => exact ⟨_, rfl, State.mgmtOos_keeps (.refl s) ..⟩
  | clear => exact ⟨_, rfl, State.mgmtClear_keeps (.refl s) ..⟩
  | partnerDown => exact ⟨_, rfl, State.mgmtPartnerDown_keeps (.refl s) ..⟩
  | packPush => exact ⟨_, rfl, State.packPush_keeps (.refl s) ..⟩
  | fwStage => exact ⟨_, rfl, State.fwStage_keeps (.refl s) ..⟩
  | fwActivate => exact ⟨_, rfl, State.fwActivate_keeps (.refl s) ..⟩
  | fwCommit => exact ⟨_, rfl, State.fwCommit_keeps (.refl s) ..⟩
  | installAnchor => exact ⟨_, rfl, State.installAnchor_keeps (.refl s) ..⟩
  | installKey => exact ⟨_, rfl, State.installKey_keeps (.refl s) ..⟩
  | removeKey => exact ⟨_, rfl, State.removeKey_keeps (.refl s) ..⟩
  | attest => exact ⟨_, rfl, State.attest_keeps (.refl s) ..⟩
  | scanUnlock => exact ⟨_, rfl, State.scanUnlock_keeps (.refl s) ..⟩
  | mbxLogRead => exact ⟨_, rfl, State.mbxLogRead_keeps (.refl s) ..⟩
  | mbxStudRead => exact ⟨_, rfl, State.mbxStudRead_keeps (.refl s) ..⟩
  | mbxLease => exact ⟨_, rfl, State.mbxLease_keeps (.refl s) ..⟩
  | mbxPartnerDown => exact ⟨_, rfl, State.mbxPartnerDown_keeps (.refl s) ..⟩
  | watchdogProbeMissed => exact ⟨_, rfl, State.watchdog_keeps (.refl s) ..⟩
  | blockResetRequest => exact ⟨_, rfl, State.blockRequest_keeps (.refl s) ..⟩
  | regionResetRequest => exact ⟨_, rfl, State.regionRequest_keeps (.refl s) ..⟩
  | chipResetRequest => exact ⟨_, rfl, State.chipRequest_keeps (.refl s) ..⟩
  | riderWindowAccess => exact ⟨_, rfl, State.riderAccess_keeps (.refl s) ..⟩
  | unmappedAccess => exact ⟨_, rfl, State.unmapped_keeps (.refl s) ..⟩
  | narrowRegisterAccess => exact ⟨_, rfl, State.narrow_keeps (.refl s) ..⟩
  | registerWrite => exact ⟨_, rfl, State.registerWrite_keeps (.refl s) ..⟩
  | railsOff => exact ⟨_, rfl, State.railsOff_keeps (.refl s) ..⟩
  | riderBootStart => exact ⟨_, rfl, State.riderBoot_keeps (.refl s) ..⟩
  | farrierRestartDone => exact ⟨_, rfl, State.farrierRestartDone_keeps (.refl s) ..⟩
  | tapInstruction => exact ⟨_, rfl, State.tapInstruction_keeps (.refl s) ..⟩
  | descriptorStart => exact ⟨_, rfl, State.onPackhorse_keeps (.refl s) _ _ fun b env _ w => b.doDescriptor_wf w env _ _⟩
  | descriptorComplete => exact ⟨_, rfl, State.onPackhorse_keeps (.refl s) _ _ fun _ _ _ w => w⟩
  | traceStore => exact ⟨_, rfl, State.onPackhorse_keeps (.refl s) _ _ fun b env _ w => b.traceStore_wf w env⟩

/-- What Keeps names has the invariant in it. -/
theorem Keeps.inv {s t : State} (h : Keeps s t) (i : s.Inv) : t.Inv := ⟨h.dev i.1, h.dram i.2⟩

/-- A nanosecond of the timebase keeps the invariant. -/
theorem State.tick_inv {s : State} (i : s.Inv) : s.tick.Inv := (State.coolantWatch_keeps (.refl _)).inv i

/-- Settles O4: a command keeps the invariant by what it keeps of the state, an idle step by the coolant watch. -/
theorem stepKeepsInv : Obligations.StepKeepsInv := by
  unfold Obligations.StepKeepsInv
  intro s t i h
  unfold Sys2Proof.Machine.step at h
  split at h
  · cases h
    exact State.tick_inv i
  · next c rest _ =>
    obtain ⟨u, ran, keeps⟩ := exec_keeps c { s with pending := rest }
    cases ran.symm.trans h
    exact keeps.inv i

/-- Settles O5: the module is Off at reset, and nothing is listed in its DRAM. -/
theorem resetInv : Obligations.ResetInv := ⟨Nat.zero_le 6, rfl, rfl⟩

end Sys2Proof.Machine
end

section
/-! SUPPORT. What frames and messages that leave a port change: the ports and the output alone (R25, R366, R405). -/

namespace Sys2Proof.Machine

/-- From `s` to `t` only the ports and the output have changed. -/
def State.Sends (s t : State) : Prop := ∃ ports out, t = { s with ports := ports, out := out }

/-- Nothing sent. -/
theorem State.Sends.refl (s : State) : s.Sends s := ⟨_, _, rfl⟩

/-- One thing sent after another. -/
theorem State.Sends.trans {a b c : State} (h : a.Sends b) (k : b.Sends c) : a.Sends c := by
  obtain ⟨_, _, rfl⟩ := h
  obtain ⟨_, _, rfl⟩ := k
  exact ⟨_, _, rfl⟩

/-- Something sent for every item of a list. -/
theorem State.Sends.foldl {α : Type} {f : State → α → State} (h : ∀ (s : State) x, s.Sends (f s x)) (xs : List α) (s : State) :
    s.Sends (xs.foldl f s) :=
  List.foldlRecOn xs f (.refl s) fun _ k x _ => k.trans (h _ x)

/-- One of two things sent. -/
theorem State.Sends.ite {s t u : State} {c : Prop} [Decidable c] (h : s.Sends t) (k : s.Sends u) : s.Sends (if c then t else u) := by
  split
  · exact h
  · exact k

theorem State.Sends.dev {s t : State} (h : s.Sends t) : t.dev = s.dev := by obtain ⟨_, _, rfl⟩ := h; rfl
theorem State.Sends.cad {s t : State} (h : s.Sends t) : t.cad = s.cad := by obtain ⟨_, _, rfl⟩ := h; rfl
theorem State.Sends.regs {s t : State} (h : s.Sends t) : t.regs = s.regs := by obtain ⟨_, _, rfl⟩ := h; rfl

/-- A port replaced. -/
theorem State.setPort_sends (s : State) (i : Nat) (x : Port) : s.Sends (s.setPort i x) := ⟨_, _, rfl⟩

/-- A frame leaves (R25). -/
theorem State.emit_sends (s : State) (i : Nat) (bytes : List Byte) : s.Sends (s.emit i bytes) := ⟨_, _, rfl⟩

/-- A fabric frame leaves or waits (R405). -/
theorem State.fabSend_sends (s : State) (i peer type stamp ident : Nat) (payload : List Byte) :
    s.Sends (s.fabSend i peer type stamp ident payload) := by
  unfold State.fabSend
  refine .ite (.refl s) ?_
  exact .ite ((s.setPort_sends ..).trans (State.emit_sends ..)) (s.setPort_sends ..)

/-- A yoke message leaves in its pieces (R366). -/
theorem State.yokeSend_sends (s : State) (code : Nat) (words : List Nat) (bytes : List Byte) : s.Sends (s.yokeSend code words bytes) := by
  unfold State.yokeSend
  split
  · exact .refl s
  · exact .foldl (fun u x => u.fabSend_sends ..) _ s

/-- A STATE message leaves (R366). -/
theorem State.say_sends (s : State) (what stride : Nat) : s.Sends (s.say what stride) := s.yokeSend_sends ..

/-- A twin that leaves service says so (R378). -/
theorem State.sayDown_sends (s : State) : s.Sends s.sayDown := .ite (s.say_sends ..) (.refl s)

/-- A line of an area that is forwarded goes to the twin (R370). -/
theorem State.forwardLine_sends (s : State) (tier a : Nat) : s.Sends (s.forwardLine tier a) := by
  unfold State.forwardLine
  split
  · exact .ite (s.yokeSend_sends ..) (.refl s)
  · exact .refl s

/-- The tiers put back, and what was written forwarded (R370, R382). -/
theorem State.setTiers_sends (s : State) (t : Tiers) : State.Sends { s with hbm := t.hbm, ddr := t.ddr } (s.setTiers t) :=
  .foldl (fun (u : State) (x : Nat × Nat) => u.forwardLine_sends x.1 x.2) _ _

/-- An admission is told to the partner (R371). -/
theorem State.tellAdmit_sends (s : State) (c : Cmd) (a : Nat) : s.Sends (s.tellAdmit c a) := by
  unfold State.tellAdmit
  exact .ite (.refl s) (.ite ((s.yokeSend_sends ..).trans (State.yokeSend_sends ..)) (s.yokeSend_sends ..))

/-- The areas of a rejoin are copied (R382). -/
theorem State.copyAreas_sends (s : State) : s.Sends s.copyAreas := by
  unfold State.copyAreas
  split
  · exact .refl s
  · exact .foldl (fun u _ => .foldl (fun v _ => v.yokeSend_sends ..) _ u) _ s

end Sys2Proof.Machine
end

section
/-! SUPPORT. Synchronisation and ports that come and go (R52 to R54): what an exchange leaves, and what its record, its lock and the loss
of its lock change. -/

namespace Sys2Proof.Machine

/-- A record of an exchange is an event or nothing (R451). -/
theorem State.syncSample_eq (s : State) (port peer a b : Nat) :
    ∃ ev co, s.syncSample port peer a b = { s with ev := ev, evCoalesced := co } := by
  unfold State.syncSample
  split
  · exact ⟨_, _, rfl⟩
  · exact s.raise_eq ..

/-- The Cadence stands, and every word of the chip but those at `regs`. -/
def State.CadStands (regs : List Nat) (s t : State) : Prop := t.cad = s.cad ∧ State.WordsBut regs s t

/-- One change after another. -/
theorem State.CadStands.trans {regs : List Nat} {a b c : State} (h : State.CadStands regs a b) (k : State.CadStands regs b c) :
    State.CadStands regs a c :=
  ⟨k.1.trans h.1, fun x hx => (k.2 x hx).trans (h.2 x hx)⟩

/-- A change outside the Cadence and the register words. -/
theorem State.CadStands.of_same {regs : List Nat} {s t : State} (cad : t.cad = s.cad) (words : t.regs = s.regs) :
    State.CadStands regs s t := ⟨cad, .of_regs words⟩

/-- What leaves a port. -/
theorem State.Sends.cadStands {regs : List Nat} {s t : State} (h : s.Sends t) : State.CadStands regs s t :=
  .of_same h.cad h.regs

/-- What the module becomes but for register words, where its Cadence stands. -/
theorem State.ChipBecomes.cadStands {regs : List Nat} {s b t : State} (h : s.ChipBecomes regs b t) (cad : b.cad = s.cad) :
    State.CadStands regs s t := ⟨h.cad.trans cad, h.words⟩

/-- The words that a pair writes as it is made or rejoined (R367, R382). -/
def pairWords : List Nat := [TWN_STATUS.off, LSE_HELD.off, LSE_WAITING.off]

/-- The leases put back (R363). -/
theorem State.setLeases_stands (s : State) (l : Leases) : State.CadStands pairWords s (s.setLeases l) :=
  State.ChipBecomes.cadStands (b := { s with leases := l }) (.set (.set (.of_regs rfl) (by decide) _) (by decide) _) rfl

/-- A lease asked for, to wait where it clashes (R358). -/
theorem State.acquire_stands (s : State) (l : Lease) : State.CadStands pairWords s (s.acquire l false).1 := by
  unfold State.acquire
  dsimp only
  split
  · exact s.setLeases_stands _
  · exact s.setLeases_stands _

/-- The pair is made (R367 step 9). -/
theorem State.paired_stands (s : State) : State.CadStands pairWords s s.paired := by
  delta State.paired
  extract_lets mode chk t
  exact State.ChipBecomes.cadStands (b := t) (.set (.set (.set (.set (.of_regs rfl) (by decide) _) (by decide) _) (by decide) _)
    (by decide) _) rfl

/-- The remaining twin starts a rejoin (R382). -/
theorem State.rejoinCopy_stands (s : State) : State.CadStands pairWords s s.rejoinCopy := by
  delta State.rejoinCopy
  extract_lets u v c w
  have leased : State.CadStands pairWords s u := s.acquire_stands _
  have copied : State.CadStands pairWords u v :=
    (State.CadStands.of_same rfl rfl).trans (State.copyAreas_sends _).cadStands
  have named : State.CadStands pairWords v w := .of_same rfl rfl
  exact leased.trans (copied.trans (named.trans (State.Sends.foldl (fun u x => u.tellAdmit_sends _ _) _ w).cadStands))

/-- The last step of a pairing or a rejoin (R367, R382). -/
theorem State.pairLocked_stands (s : State) : State.CadStands pairWords s s.pairLocked := by
  unfold State.pairLocked
  split
  · exact s.paired_stands
  · split
    · exact s.rejoinCopy_stands
    · exact .of_same rfl rfl

/-- What an exchange has shown and kept (R52, R53): the offset and the delay, its stride, the rate and the good ones in a row. -/
structure State.ExchangeStands (s t : State) : Prop where
  offset : t.get CAD_SYNC_STATUS.offset = s.get CAD_SYNC_STATUS.offset
  delay : t.get CAD_SYNC_STATUS.delay = s.get CAD_SYNC_STATUS.delay
  syncAt : t.cad.syncAt = s.cad.syncAt
  rate : t.cad.rate = s.cad.rate
  good : t.cad.good = s.cad.good

/-- One change after another. -/
theorem State.ExchangeStands.trans {a b c : State} (h : a.ExchangeStands b) (k : b.ExchangeStands c) : a.ExchangeStands c :=
  ⟨k.1.trans h.1, k.2.trans h.2, k.3.trans h.3, k.4.trans h.4, k.5.trans h.5⟩

/-- One of two things done. -/
theorem State.ExchangeStands.ite {s t u : State} {c : Prop} [Decidable c] (h : s.ExchangeStands t) (k : s.ExchangeStands u) :
    s.ExchangeStands (if c then t else u) := by
  split
  · exact h
  · exact k

/-- Changes of other words than that of the exchange, where the Cadence stands. -/
theorem State.CadStands.exchange {regs : List Nat} {s t : State} (h : State.CadStands regs s t) (hr : CAD_SYNC_STATUS.off ∉ regs) :
    s.ExchangeStands t := by
  obtain ⟨cad, words⟩ := h
  exact ⟨words.get hr, words.get hr, by rw [cad], by rw [cad], by rw [cad]⟩

/-- A flag of the exchange's word set. -/
theorem State.set_exchange (s : State) (f : Fld) (hf : f.lo ≤ f.hi ∧ f.hi < 16) (v : Nat) : s.ExchangeStands (s.set f v) := by
  refine ⟨?_, ?_, rfl, rfl, rfl⟩ <;> refine State.get_set_apart _ hf.1 (by decide) (.inr (.inl ?_)) _
  · exact hf.2.trans (by decide)
  · exact hf.2

/-- The lock and what it does to a follower in Held or Ready and to a pair leave the exchange (R53). -/
theorem State.syncLocked_exchange (s : State) : s.ExchangeStands s.syncLocked := by
  delta State.syncLocked
  extract_lets u n at_ cad w t
  have flag : s.ExchangeStands u := s.set_exchange CAD_SYNC_STATUS.locked (by decide) 1
  have step : u.ExchangeStands t := by
    unfold t
    split
    · have stride : State.WordsBut [CAD_STRIDE.off] w (w.set CAD_STRIDE.stride n) :=
        State.ChipBecomes.words (.set (.of_regs rfl) (by decide) _)
      exact ⟨stride.get (by decide), stride.get (by decide), rfl, rfl, rfl⟩
    · exact ⟨rfl, rfl, rfl, rfl, rfl⟩
  refine (flag.trans step).trans ?_
  split
  · exact ((t.say_sends ..).cadStands.trans (State.pairLocked_stands _)).exchange (by decide)
  · exact ⟨rfl, rfl, rfl, rfl, rfl⟩

/-- While Running, a follower that is no twin in pairing gains its lock and no more (R53). -/
theorem State.syncLocked_running {s : State} (running : s.dev = dRunning) (apart : s.twin.attested = false) :
    s.syncLocked = s.set CAD_SYNC_STATUS.locked 1 := by
  unfold State.syncLocked
  simp [running, apart, dRunning, dHeld, dReady]

/-- The loss of a lock leaves the exchange (R53). -/
theorem State.lockLost_exchange (s : State) : s.ExchangeStands s.lockLost := by
  unfold State.lockLost
  refine ((s.set_exchange CAD_SYNC_STATUS.locked (by decide) 0).trans (State.set_exchange _ CAD_SYNC_STATUS.lost (by decide) 1)).trans ?_
  obtain ⟨ev, co, e⟩ := State.raise_eq ((s.set CAD_SYNC_STATUS.locked 0).set CAD_SYNC_STATUS.lost 1) 2 0
    { code := 0xB2, detail := s.get CAD_SYNC_STATUS.offset }
  rw [e]
  exact ⟨rfl, rfl, rfl, rfl, rfl⟩

/-- What the loss of a lock shows (R53). -/
theorem State.get_lockLost (s : State) : s.lockLost.get CAD_SYNC_STATUS.locked = 0 ∧ s.lockLost.get CAD_SYNC_STATUS.lost = 1 := by
  unfold State.lockLost
  rw [State.get_raise, State.get_raise]
  exact ⟨(State.get_set_apart _ (by decide) (by decide) (by decide) _).trans (State.get_set_same _ (by decide) _),
    State.get_set_same _ (by decide) _⟩

/-! The exchange (R52). -/

/-- The offset that an exchange measures, less the asymmetry `asym`, floored (R52; log entry 9). -/
def syncOffset (t1 t2 t3 t4 : Nat) (asym : Int) : Int := (((t2 : Int) - t1) - ((t4 : Int) - t3)) / 2 - asym
/-- Its delay, floored (R52; log entry 9). -/
def syncDelay (t1 t2 t3 t4 : Nat) : Nat := ((((t2 : Int) - t1) + ((t4 : Int) - t3)) / 2).toNat

/-- The module once it has taken in an exchange, before the lock follows it: the offset and the delay as measured. -/
structure State.Exchanged (s : State) (off : Int) (late : Nat) (u : State) : Prop where
  offset : u.get CAD_SYNC_STATUS.offset = unsigned 32 off
  delay : u.get CAD_SYNC_STATUS.delay = min 65535 late
  locked : u.get CAD_SYNC_STATUS.locked = s.get CAD_SYNC_STATUS.locked
  syncAt : u.cad.syncAt = some (s.get CAD_STRIDE.stride)
  rate : u.cad.rate = if s.dev = dRunning then max (-200) (min 200 (Config.rateOf s.freeCtr)) else Config.rateOf s.freeCtr
  good : u.cad.good = if off.natAbs ≤ 20 then min 8 (s.cad.good + 1) else 0
  dev : u.dev = s.dev
  twin : u.twin = s.twin

/-- What becomes of the lock after an exchange that left module `u`: eight near ones in a row gain it, two in a row that are off drop it (R53). -/
def State.followLock (s u : State) (near : Prop) [Decidable near] : State :=
  if s.get CAD_SYNC_STATUS.locked = 0 then if (if near then min 8 (s.cad.good + 1) else 0) = 8 then u.syncLocked else u
  else if (if near then 0 else s.cad.bad + 1) = 2 then u.lockLost else u

section
variable {s u : State} {near : Prop} [Decidable near]

/-- Whatever becomes of the lock, the exchange stands. -/
theorem State.followLock_exchange : u.ExchangeStands (s.followLock u near) := by
  have same : u.ExchangeStands u := ⟨rfl, rfl, rfl, rfl, rfl⟩
  exact .ite (.ite u.syncLocked_exchange same) (.ite u.lockLost_exchange same)

/-- An exchange that is off, or one of the first seven near ones, gains no lock. -/
theorem State.followLock_unlocked (out : s.get CAD_SYNC_STATUS.locked = 0) (few : ¬ near ∨ s.cad.good < 7) : s.followLock u near = u := by
  unfold State.followLock
  rw [if_pos out]
  refine if_neg ?_
  split
  · next h =>
    have := few.resolve_left (not_not.mpr h)
    omega
  · decide

/-- The eighth near one in a row gains it. -/
theorem State.followLock_gained (out : s.get CAD_SYNC_STATUS.locked = 0) (h : near) (seven : s.cad.good = 7) :
    s.followLock u near = u.syncLocked := by
  simp [State.followLock, out, h, seven]

/-- A near one keeps it. -/
theorem State.followLock_kept (held : s.get CAD_SYNC_STATUS.locked = 1) (h : near) : s.followLock u near = u := by
  simp [State.followLock, held, h]

/-- The second in a row that is off drops it. -/
theorem State.followLock_lost (held : s.get CAD_SYNC_STATUS.locked = 1) (h : ¬ near) (one : s.cad.bad = 1) :
    s.followLock u near = u.lockLost := by
  simp [State.followLock, held, h, one]

end

/-- An exchange that is made, and then its lock (R52, R53). -/
theorem State.syncExchange_made (s : State) (t1 t2 t3 t4 : Nat) (enabled : s.get CAD_SYNC_CTL.enable = 1)
    (follower : s.get CAD_SYNC_CTL.role = 0) (port : s.get CAD_SYNC_STATUS.noport = 0)
    (carries : s.carriesSync (s.get CAD_SYNC_CTL.port) = true) (due : s.get CAD_STRIDE.stride % 256 = 0)
    (fresh : s.cad.syncAt ≠ some (s.get CAD_STRIDE.stride)) :
    let offset := syncOffset t1 t2 t3 t4 (signed 16 (s.get CAD_SYNC_CTL.asym))
    ∃ u, s.Exchanged offset (syncDelay t1 t2 t3 t4) u ∧
      s.syncExchange t1 t2 t3 t4 = s.followLock u (offset.natAbs ≤ 20) := by
  extract_lets offset
  delta State.syncExchange
  extract_lets port' n there back offset' delay near good bad u1 rate rate' cad u2 u3 u4 u5
  rw [if_neg (by simp [enabled, follower, port, port', carries, n, due, fresh])]
  have record : ∃ ev co, u5 = { u4 with ev := ev, evCoalesced := co } := u4.syncSample_eq ..
  have yoke : u3.ChipBecomes [TWN_YOKE.off] u3 u4 := by
    unfold u4
    split
    · exact .set (.of_regs rfl) (by decide) _
    · exact .of_regs rfl
  have sent : u2.Sends u3 := u2.fabSend_sends ..
  have after : State.CadStands [TWN_YOKE.off] u2 u5 ∧ u5.dev = u2.dev ∧ u5.twin = u2.twin := by
    clear_value u5 u4 u3
    obtain ⟨ev, co, rfl⟩ := record
    obtain ⟨⟨m, ev, co, rfl⟩, words⟩ := yoke
    obtain ⟨_, _, rfl⟩ := sent
    exact ⟨⟨rfl, words⟩, rfl, rfl⟩
  obtain ⟨⟨cad5, words5⟩, dev5, twin5⟩ := after
  clear_value u5 u4 u3
  have locked : u5.get CAD_SYNC_STATUS.locked = s.get CAD_SYNC_STATUS.locked := (words5.get (by decide)).trans <|
    (State.get_set_apart _ (by decide) (by decide) (by decide) _).trans (State.get_set_apart _ (by decide) (by decide) (by decide) _)
  refine ⟨u5, ?_, ?_⟩
  · constructor
    case offset =>
      refine (words5.get (by decide)).trans <| (State.get_set_apart _ (by decide) (by decide) (by decide) _).trans ?_
      exact (State.get_set_same _ (by decide) _).trans (Nat.mod_eq_of_lt (BitVec.isLt _))
    case delay => exact (words5.get (by decide)).trans (State.get_set_same _ (by decide) _ |>.trans (Nat.mod_eq_of_lt (by
        exact Nat.lt_of_le_of_lt (Nat.min_le_left _ _) (by decide))))
    case locked => exact locked
    case syncAt => rw [cad5]
    case rate => rw [cad5]; rfl
    case good => rw [cad5]; simp only [u2, good, near, decide_eq_true_eq]; rfl
    case dev => exact dev5
    case twin => exact twin5
  · rw [locked]
    simp only [good, bad, near, decide_eq_true_eq]
    rfl

end Sys2Proof.Machine
end

section
/-! O51: the statement on synchronisation, ports and the beat period. -/

namespace Sys2Proof.Machine

/-- An exchange that is not due, or of no follower with a port, changes nothing (R52, R54). -/
theorem State.syncExchange_idle {s : State} (h : s.get CAD_SYNC_CTL.enable = 0 ∨ s.get CAD_SYNC_CTL.role = 1 ∨
    s.get CAD_SYNC_STATUS.noport = 1 ∨ s.get CAD_STRIDE.stride % 256 ≠ 0 ∨ s.cad.syncAt = some (s.get CAD_STRIDE.stride))
    (t1 t2 t3 t4 : Nat) : s.syncExchange t1 t2 t3 t4 = s := by
  refine if_pos ?_
  obtain off | source | none | early | again := h
  · exact .inl off
  · exact .inr (.inl source)
  · exact .inr (.inr (.inl none))
  · exact .inr (.inr (.inr (.inr (.inl early))))
  · exact .inr (.inr (.inr (.inr (.inr again))))

/-- Whatever becomes of the lock, an exchange that is made has its results (R52). -/
theorem State.Exchanged.results {s u t : State} {off : Int} {late : Nat} (h : s.Exchanged off late u) (k : u.ExchangeStands t) :
    t.get CAD_SYNC_STATUS.offset = unsigned 32 off ∧ t.get CAD_SYNC_STATUS.delay = min 65535 late ∧
      t.cad.syncAt = some (s.get CAD_STRIDE.stride) ∧
      t.cad.rate = (if s.dev = dRunning then max (-200) (min 200 (Config.rateOf s.freeCtr)) else Config.rateOf s.freeCtr) ∧
      t.cad.good = (if off.natAbs ≤ 20 then min 8 (s.cad.good + 1) else 0) :=
  ⟨k.offset.trans h.offset, k.delay.trans h.delay, k.syncAt.trans h.syncAt, k.rate.trans h.rate, k.good.trans h.good⟩

/-- A port that carries SYNC is up (R54). -/
theorem State.up_of_carriesSync {s : State} {i : Nat} (h : s.carriesSync i = true) : (s.port i).up = true := by
  unfold State.carriesSync at h
  split at h
  · simp only [State.fabricUp, Bool.and_eq_true] at h
    exact h.2
  · exact h

/-- Port `x` once a fabric frame of `bytes` to `peer` has taken its number and is kept until it is acknowledged (R405). -/
def Port.keepFrame (x : Port) (peer now : Nat) (bytes : List Byte) (go : Bool) : Port :=
  { x with
    tx := mset natZero x.tx peer ((mget natZero x.tx peer + 1) % 2 ^ 32)
    unacked := x.unacked ++ [{ peer := peer, seq := (mget natZero x.tx peer + 1) % 2 ^ 32, bytes := bytes, sentAt := now, sends := b2n go }] }

/-- The bytes of the next fabric frame of port `i` to `peer` (R405). -/
def State.nextFrame (s : State) (i peer type stamp ident : Nat) (payload : List Byte) : List Byte :=
  fabBytes (s.get CMD_NODE.node) peer type ((mget natZero (s.port i).tx peer + 1) % 2 ^ 32) (mget natZero (s.port i).rx peer) stamp ident payload

/-- A fabric frame on a port that is up is kept, and leaves where the gate lets it (R25, R405). -/
theorem State.fabSend_up {s : State} {i : Nat} (up : (s.port i).up = true) (peer type stamp ident : Nat) (payload : List Byte) :
    let bytes := s.nextFrame i peer type stamp ident payload
    s.fabSend i peer type stamp ident payload =
      { s.setPort i ((s.port i).keepFrame peer s.now bytes (s.mayEmit type)) with
        out := s.out ++ if s.mayEmit type then [.frame i bytes] else [] } := by
  intro bytes
  unfold State.fabSend
  rw [if_neg (by simp [up])]
  dsimp only
  split
  · next go => simp [go, State.emit, Port.keepFrame, bytes, State.nextFrame]
  · next stop =>
    simp only [stop, Port.keepFrame, bytes, State.nextFrame, List.append_nil]
    rfl

/-- A source's answer (R54, R405): a frame of type 11 is sent, and an event may tell of it. -/
theorem State.syncAnswer_sent {s : State} {i : Nat} (enabled : s.get CAD_SYNC_CTL.enable = 1) (source : s.get CAD_SYNC_CTL.role = 1)
    (carries : s.carriesSync i = true) (peer t2 t3 : Nat) : ∃ ev co, s.syncAnswer i peer t2 t3 =
      { s.fabSend i peer 11 0 0 (leBytes 8 t2 ++ leBytes 8 t3) with ev := ev, evCoalesced := co } := by
  unfold State.syncAnswer
  rw [if_neg (by simp [enabled, source, carries])]
  exact State.syncSample_eq ..

/-- A port that stays as it is (R54). -/
theorem State.portState_same (s : State) (i : Nat) {up : Bool} (h : (s.port i).up = up) : s.portState i up = s :=
  if_pos (by simp [h])

/-- The module with port `i` up or down. -/
def State.portUp (s : State) (i : Nat) (up : Bool) : State := s.onPort i fun x => { x with up := up }

/-- That port, and every other. -/
theorem State.port_portUp_same (s : State) (i : Nat) (up : Bool) : (s.portUp i up).port i = { s.port i with up := up } :=
  s.port_setPort_same ..

theorem State.port_portUp_ne (s : State) {i j : Nat} (h : j ≠ i) (up : Bool) : (s.portUp i up).port j = s.port j :=
  s.port_setPort_ne _ h

/-- A Trace port that comes up carries SYNC where it is enabled in fabric mode (R54). -/
theorem State.portUp_carriesSync (s : State) {i : Nat} (trace : i < 8) :
    (s.portUp i true).carriesSync i = true ↔ s.get (CMD_TRACE_CTL.mode i) = 0 ∧ s.get (CMD_TRACE_CTL.enable i) = 1 := by
  unfold State.carriesSync State.fabricUp
  rw [if_pos trace, State.port_portUp_same]
  simp only [Bool.and_true, Bool.and_eq_true, beq_iff_eq]
  rfl

/-- One that goes down carries it no more. -/
theorem State.portUp_down (s : State) {i : Nat} : (s.portUp i false).carriesSync i = false := by
  unfold State.carriesSync State.fabricUp
  rw [State.port_portUp_same]
  simp

/-- A Trace port comes up (R54): the follower's port clears noport. -/
theorem State.portState_up {s : State} {i : Nat} (trace : i < 8) (down : (s.port i).up = false) :
    s.portState i true = if i = s.get CAD_SYNC_CTL.port ∧ s.get (CMD_TRACE_CTL.mode i) = 0 ∧ s.get (CMD_TRACE_CTL.enable i) = 1
      then (s.portUp i true).set CAD_SYNC_STATUS.noport 0 else s.portUp i true := by
  unfold State.portState
  rw [if_neg (by simp [down]), if_neg (by omega)]
  dsimp only
  rw [if_pos rfl, if_neg (by omega)]
  exact if_congr (and_congr_right fun _ => s.portUp_carriesSync trace) rfl rfl

/-- A Trace port goes down (R54). -/
theorem State.portState_down {s : State} {i : Nat} (trace : i < 8) (up : (s.port i).up = true) :
    s.portState i false = (s.portUp i false).noSyncPort := by
  unfold State.portState
  rw [if_neg (by simp [up]), if_neg (by omega)]
  rfl

/-- A follower whose port is gone leaves its ports as they are. -/
theorem State.noSyncPort_ports (s : State) : s.noSyncPort.ports = s.ports := by
  unfold State.noSyncPort
  split
  · rfl
  · obtain ⟨ev, co, e⟩ := State.raise_eq _ 2 0 _
    rw [e]
    rfl

/-- A follower whose port cannot carry SYNC drops its lock and shows that it has no port (R54). -/
theorem State.get_noSyncPort {s : State} (enabled : s.get CAD_SYNC_CTL.enable = 1) (follower : s.get CAD_SYNC_CTL.role = 0)
    (fresh : s.get CAD_SYNC_STATUS.noport = 0) (gone : s.carriesSync (s.get CAD_SYNC_CTL.port) = false) :
    s.noSyncPort.get CAD_SYNC_STATUS.noport = 1 ∧ s.noSyncPort.get CAD_SYNC_STATUS.locked = 0 := by
  unfold State.noSyncPort
  rw [if_neg (by simp [enabled, follower, fresh, gone])]
  dsimp only
  rw [State.get_raise, State.get_raise]
  exact ⟨State.get_set_same _ (by decide) _,
    (State.get_set_apart _ (by decide) (by decide) (by decide) _).trans (State.get_set_same _ (by decide) _)⟩

/-! Requests for a beat period (R48, R55, R56). -/

/-- The words of a period's request. -/
def periodWords : List Nat := [CAD_PERIOD.off, CAD_PERIOD_AT.off]

/-- What a refused request shows (R56). -/
theorem State.get_refusePeriod (s : State) : s.refusePeriod.get CAD_PERIOD.next_refused = 1 ∧ s.refusePeriod.get CAD_PERIOD.period_next = 0 ∧
    s.refusePeriod.get CAD_PERIOD_AT.stride = 0 ∧ s.refusePeriod.get CAD_PERIOD.current = s.get CAD_PERIOD.current := by
  unfold State.refusePeriod
  refine ⟨?_, ?_, ?_, ?_⟩ <;> simp (disch := decide) only [State.get_set_same, State.get_set_apart] <;> rfl

/-- A refused request changes the words of requests alone. -/
theorem State.ChipBecomes.refusePeriod {s b t : State} (h : s.ChipBecomes periodWords b t) : s.ChipBecomes periodWords b t.refusePeriod :=
  .set (.set (.set h (by decide) _) (by decide) _) (by decide) _

/-- The module once a write has cleared next_refused where its bit 61 is 1 (R55, R6). -/
def State.periodCleared (s : State) (v : Word) : State := if bitsOf v 61 61 = 1 then s.set CAD_PERIOD.next_refused 0 else s

/-- Bit 61 of a written word. -/
theorem bitsOf_one (v : Word) (i : Nat) : bitsOf v i i = 1 ↔ v.getLsbD i = true := by
  have bit : (bitsOf v i i).testBit 0 = v.getLsbD i := by simp [bitsOf_testBit (Nat.le_refl i)]
  have small : bitsOf v i i < 2 := by simpa using bitsOf_lt v i i
  rw [← bit, Nat.testBit_zero, decide_eq_true_iff]
  omega

/-- That clearing changes the word of the period alone, and no other field of it. -/
theorem State.periodCleared_becomes (s : State) (v : Word) : s.ChipBecomes periodWords s (s.periodCleared v) := by
  unfold State.periodCleared
  split
  · exact .set (.of_regs rfl) (by decide) _
  · exact .of_regs rfl

/-- A field apart from next_refused. -/
theorem State.get_periodCleared (s : State) (v : Word) {f : Fld} (hf : f.lo ≤ f.hi) (apart : CAD_PERIOD.next_refused.apart f) :
    (s.periodCleared v).get f = s.get f := by
  unfold State.periodCleared
  split
  · exact State.get_set_apart _ (by decide) hf apart _
  · rfl

/-- next_refused itself. -/
theorem State.get_periodCleared_refused (s : State) (v : Word) : (s.periodCleared v).get CAD_PERIOD.next_refused =
    if v.getLsbD 61 then 0 else s.get CAD_PERIOD.next_refused := by
  unfold State.periodCleared
  by_cases h : v.getLsbD 61 = true
  · rw [if_pos ((bitsOf_one v 61).mpr h), if_pos h]
    exact State.get_set_same _ (by decide) _
  · rw [if_neg (mt (bitsOf_one v 61).mp h), if_neg h]

/-- A request for a stride (R48, R55): none, or a later checkpoint; any other is refused. -/
theorem State.periodWrite_stride (s : State) (v : Word) :
    ((v.toNat = 0 ∨ (v.toNat % 256 = 0 ∧ s.begun < v.toNat)) → s.periodWrite true v = s.set CAD_PERIOD_AT.stride v.toNat) ∧
      (v.toNat ≠ 0 → v.toNat % 256 ≠ 0 ∨ v.toNat ≤ s.begun → s.periodWrite true v = s.refusePeriod) := by
  unfold State.periodWrite
  rw [if_pos rfl]
  dsimp only
  refine ⟨fun h => ?_, fun some no => ?_⟩
  · split
    · next none => rw [none]
    · rw [if_neg (by omega)]
  · rw [if_neg some, if_pos no]

/-- A request for a period (R48, R55): none, or one in range whose stride has not passed; any other is refused. -/
theorem State.periodWrite_period (s : State) (v : Word) :
    let per := bitsOf v 40 21
    let past := s.get CAD_PERIOD_AT.stride ≠ 0 ∧ s.get CAD_PERIOD_AT.stride ≤ s.begun
    ((per = 0 ∨ (500 ≤ per ∧ per ≤ 1000000 ∧ ¬ past)) → s.periodWrite false v = (s.periodCleared v).set CAD_PERIOD.period_next per) ∧
      (per ≠ 0 → (per < 500 ∨ 1000000 < per ∨ past) → s.periodWrite false v = (s.periodCleared v).refusePeriod) := by
  intro per past
  have stride : (s.periodCleared v).get CAD_PERIOD_AT.stride = s.get CAD_PERIOD_AT.stride := s.get_periodCleared v (by decide) (by decide)
  have begun : (s.periodCleared v).begun = s.begun := by
    unfold State.begun
    rw [s.get_periodCleared v (by decide) (by decide)]
    obtain ⟨⟨m, ev, co, e⟩, -⟩ := s.periodCleared_becomes v
    rw [e]
  have write : s.periodWrite false v = if per ≠ 0 ∧ (per < 500 ∨ 1000000 < per ∨ past) then (s.periodCleared v).refusePeriod
      else (s.periodCleared v).set CAD_PERIOD.period_next per := by
    unfold past
    rw [← stride, ← begun]
    rfl
  rw [write]
  exact ⟨fun h => if_neg (by omega), fun some no => if_pos ⟨some, no⟩⟩

/-- A command runs to what its operation makes of the state. -/
theorem exec_eq {c : Instr} {s t u : State} (run : exec c s = .next t) (e : t = u) : exec c s = .next u := run.trans (congrArg _ e)

/-- Settles O51: an exchange by its results and its lock, an answer by its frame, a port by its link, a request for a period by its range. -/
theorem synchronisationAndPeriod : Obligations.SynchronisationAndPeriod := by
  unfold Obligations.SynchronisationAndPeriod
  refine ⟨fun t1 t2 t3 t4 s => ?exchange, fun port peer t2 t3 s => ?answer, fun port s => ?port, fun v s => ?period⟩
  case exchange =>
    intro n c
    refine ⟨fun h => exec_eq rfl (State.syncExchange_idle h ..), fun enabled follower port carries due fresh => ?_⟩
    intro offset near
    obtain ⟨u, made, e⟩ : ∃ u, s.Exchanged offset (syncDelay t1 t2 t3 t4) u ∧ s.syncExchange t1 t2 t3 t4 = s.followLock u (offset.natAbs ≤ 20) :=
      s.syncExchange_made t1 t2 t3 t4 enabled follower port carries due fresh
    obtain ⟨off, delay, syncAt, rate, good⟩ := made.results (State.followLock_exchange (s := s) (near := offset.natAbs ≤ 20))
    refine ⟨_, exec_eq rfl e, off, delay, syncAt, rate, good, fun out few => ?_, fun out h seven running apart => ?_, fun held h => ?_,
      fun held h one => ?_⟩
    · rw [State.followLock_unlocked (near := offset.natAbs ≤ 20) out few, made.locked, out]
    · rw [State.followLock_gained (near := offset.natAbs ≤ 20) out h seven, State.syncLocked_running (made.dev.trans running) (by rw [made.twin, apart])]
      exact State.get_set_same _ (by decide) _
    · rw [State.followLock_kept (near := offset.natAbs ≤ 20) held h, made.locked, held]
    · rw [State.followLock_lost (near := offset.natAbs ≤ 20) held h one]
      exact u.get_lockLost
  case answer =>
    refine ⟨fun h => exec_eq rfl (if_pos (by tauto)), fun enabled source carries => ?_⟩
    intro x seq frame
    obtain ⟨ev, co, e⟩ := State.syncAnswer_sent enabled source carries peer.toNat t2 t3
    have up := State.up_of_carriesSync carries
    rw [State.fabSend_up up] at e
    refine ⟨_, exec_eq rfl e, rfl, ?_, ?_, fun i away => s.port_setPort_ne _ away, rfl⟩
    · exact (congrArg (fun y => mget natZero (Port.tx y) peer.toNat) (s.port_setPort_same ..)).trans (mget_mset_same ..)
    · exact congrArg Port.unacked (s.port_setPort_same ..)
  case port =>
    refine ⟨fun up h => exec_eq rfl (s.portState_same _ h), fun trace down => ?_, fun trace up => ?_⟩
    · refine ⟨_, exec_eq rfl (State.portState_up trace down), ?_⟩
      split
      · next here =>
        have base : s.ChipBecomes [CAD_SYNC_STATUS.off] (s.portUp port true) (s.portUp port true) := .of_regs rfl
        exact ⟨(State.port_set ..).trans (s.port_portUp_same ..), fun i away => (State.port_set ..).trans (s.port_portUp_ne away _),
          State.get_set_same _ (by decide) _, base.set (by decide) _⟩
      · exact ⟨s.port_portUp_same .., fun i away => s.port_portUp_ne away _, rfl, .of_regs rfl⟩
    · have e := State.portState_down trace up
      have ports : ∀ i, (s.portUp port false).noSyncPort.port i = (s.portUp port false).port i := fun i =>
        congrArg (mget portInit · i) (s.portUp port false).noSyncPort_ports
      refine ⟨_, exec_eq rfl e, (ports _).trans (s.port_portUp_same ..), fun i away => (ports i).trans (s.port_portUp_ne away _),
        fun enabled follower here fresh => ?_⟩
      exact State.get_noSyncPort enabled follower fresh (by rw [show (s.portUp port false).get CAD_SYNC_CTL.port = port from here, State.portUp_down])
  case period =>
    intro n per refused becomes
    have cleared := s.get_periodCleared v (f := CAD_PERIOD.current) (by decide) (by decide)
    obtain ⟨stride, notStride⟩ := s.periodWrite_stride v
    obtain ⟨period, notPeriod⟩ := s.periodWrite_period v
    refine ⟨fun h => ⟨_, exec_eq rfl (stride h), ?_, ?_, ?_⟩, fun some no => ⟨_, exec_eq rfl (notStride some no), ?_, ?_, ?_⟩, ?_⟩
    · exact (State.get_set_same _ (by decide) _).trans (Nat.mod_eq_of_lt v.isLt)
    · exact State.get_set_apart _ (by decide) (by decide) (by decide) _
    · exact .set (.of_regs rfl) (by decide) _
    · exact ⟨s.get_refusePeriod.1, s.get_refusePeriod.2.1, s.get_refusePeriod.2.2.1⟩
    · exact s.get_refusePeriod.2.2.2
    · exact .refusePeriod (.of_regs rfl)
    intro past
    refine ⟨fun h => ⟨_, exec_eq rfl (period h), ?_, ?_, ?_, ?_⟩, fun some no => ⟨_, exec_eq rfl (notPeriod some no), ?_, ?_, ?_⟩⟩
    · exact (State.get_set_same _ (by decide) _).trans (Nat.mod_eq_of_lt (bitsOf_lt v 40 21))
    · exact (State.get_set_apart _ (by decide) (by decide) (by decide) _).trans (s.get_periodCleared_refused v)
    · exact (State.get_set_apart _ (by decide) (by decide) (by decide) _).trans cleared
    · exact .set (s.periodCleared_becomes v) (by decide) _
    · obtain ⟨shown, none, noStride, -⟩ := (s.periodCleared v).get_refusePeriod
      exact ⟨shown, none, noStride⟩
    · exact (s.periodCleared v).get_refusePeriod.2.2.2.trans cleared
    · exact .refusePeriod (s.periodCleared_becomes v)

end Sys2Proof.Machine
end

section
/-! O56: where a register file lists CHP_STATE twice, a peer's reset shows the later listing (R443). -/

namespace Sys2Proof.Machine

/-- A device in Running with its job and its PEER_RESET at hand, whose register file lists CHP_STATE twice: zero first, and behind it a
count of 65,535 warm resets. No run of the model leads to such a file. -/
def State.listedTwice : State :=
  { State.reset with
    dev := dRunning
    regs := [(CHP_STATE.off, 0), (CHP_STATE.off, 0xFFFFFFFFFFFF0000)]
    ports := [(0, { inbox := [⟨20, 0, 0, []⟩] })]
    dispatch := { job := some { begun := true, ident := 0, start := 0, ring := 0, seq := 0, multi := false } } }

/-- Its count of warm resets reads zero. -/
theorem State.listedTwice_before : State.listedTwice.get CHP_STATE.warm_resets = 0 := by decide

/-- After the reset the later listing shows. -/
theorem State.listedTwice_after : State.listedTwice.peerReset.get CHP_STATE.warm_resets = 65535 := by decide +kernel

/-- Refutes O56: of a register file that lists CHP_STATE twice, first with zero, a chip reset drops the first listing and the second shows, so
that the count of warm resets reads 65,535 where the statement says 1. Such a file is none that a run leads to; a premise that each register is
listed once would mend the clause. -/
theorem not_portsAndFabric : ¬ Obligations.PortsAndFabric := by
  unfold Obligations.PortsAndFabric
  intro ⟨_, _, _, _, _, _, _, reset⟩
  obtain ⟨_, taken⟩ := reset State.listedTwice
  obtain ⟨_, running⟩ := taken 0 ⟨20, 0, 0, []⟩ rfl
  obtain ⟨t, run, _, _, _, count, _⟩ := running _ rfl rfl rfl rfl
  have reached : State.listedTwice.peerReset = t := Host.Outcome.next.inj run
  rw [← reached, State.listedTwice_after, State.listedTwice_before] at count
  exact absurd count (by decide)

end Sys2Proof.Machine
end

section
/-! SUPPORT. Power and the way to Off (R289, R299, R439, R462): what powering up and down leaves of the module. -/

namespace Sys2Proof.Machine

/-- A move that the table of R4 allows. -/
theorem State.goTo_moves {s : State} {d : Nat} (away : s.dev ≠ d) (may : mayMove s.dev d = true) :
    s.goTo d = (({ s with dev := d } : State).set CHP_STATE.prev s.dev).set CHP_STATE.state d :=
  if_neg (by simp [away, may])

/-- From every other state the module may go Off (R4). -/
theorem mayMove_off (a : Nat) : mayMove a dOff = true := by simp [mayMove]

/-- The device is then in that state. -/
theorem State.goTo_dev {s : State} {d : Nat} (away : s.dev ≠ d) (may : mayMove s.dev d = true) : (s.goTo d).dev = d := by
  rw [State.goTo_moves away may]
  rfl

/-! Powering up (R289). -/

/-- Bring-up starts on the cold path, with all but flash and fuses lost (R289, R299). -/
structure State.ColdStart (s t : State) : Prop where
  dev : t.dev = dBringup
  step : t.get CHP_BRINGUP.step = 1
  path : t.get CHP_BRINGUP.path = 0
  pins : t.pins = { s.pins with railsUp := true, enAgain := false }
  hbm : t.hbm = []
  ddr : t.ddr = []
  blocks : t.blocks = []
  stud : t.stud = s.stud
  fuses : t.fuses = s.fuses
  log : t.far.log = s.far.log.take s.far.inFlash

/-- The cold path from Off. -/
theorem State.startCold_coldStart {s : State} (off : s.dev = dOff) : s.ColdStart s.startCold := by
  delta State.startCold
  extract_lets u v w
  have path : w.get CHP_BRINGUP.path = 0 := by
    unfold w
    rw [State.get_set_apart _ (by decide) (by decide) (by decide), State.get_set_same _ (by decide), Nat.zero_mod]
  have step : w.get CHP_BRINGUP.step = 1 := by
    unfold w
    rw [State.get_set_apart _ (by decide) (by decide) (by decide), State.get_set_apart _ (by decide) (by decide) (by decide),
      State.get_set_same _ (by decide)]
    decide
  have went : u.ChipBecomes [CHP_STATE.off] { u with dev := dBringup } v :=
    u.goTo_becomes (.inr (by rw [show u.dev = dOff from off]; decide))
  obtain ⟨⟨m, ev, co, e⟩, -⟩ := went
  have e : w = { u with dev := dBringup, regs := w.regs, ev := ev, evCoalesced := co } := by
    unfold w
    rw [e]
    rfl
  have pins : w.pins = s.pins := (congrArg State.pins e :)
  have far : w.far = s.far.flash := (congrArg State.far e :)
  exact ⟨congrArg State.dev e, step, path, (congrArg (fun x : Pins => { x with railsUp := true, enAgain := false }) pins :),
    congrArg State.hbm e, congrArg State.ddr e, congrArg State.blocks e, (congrArg State.stud e :), (congrArg State.fuses e :),
    (congrArg Farrier.log far :)⟩

/-- Whether the pins let the module run. -/
theorem State.wanted_iff (s : State) : s.wanted = true ↔ s.pins.input = true ∧ s.pins.moduleEn = true ∧ s.pins.resetN = true := by
  simp [State.wanted, and_assoc]

/-- With a pin against it, or out of Off, nothing starts. -/
theorem State.powerUp_idle {s : State} (h : s.wanted = false ∨ s.dev ≠ dOff) : s.powerUp = s := if_pos (by simpa using h)

/-- While the rails are still up the cold path waits for them (R299). -/
theorem State.powerUp_waits {s : State} (wanted : s.wanted = true) (off : s.dev = dOff) (rails : s.pins.railsUp = true) :
    s.powerUp = { s with pins := { s.pins with enAgain := true } } := by
  unfold State.powerUp
  rw [if_neg (by simp [wanted, off]), if_pos rails]

/-- Once they are down it starts (R289). -/
theorem State.powerUp_starts {s : State} (wanted : s.wanted = true) (off : s.dev = dOff) (rails : s.pins.railsUp = false) :
    s.powerUp = s.startCold := by
  unfold State.powerUp
  rw [if_neg (by simp [wanted, off]), if_neg (by simp [rails])]

/-! Powering down (R299, R439). -/

/-- The registers that bound the flash ring alone show the log (R414). -/
theorem State.showLog_eq (s : State) : ∃ m, s.showLog = { s with regs := m } := by
  unfold State.showLog
  dsimp only
  split
  · exact ⟨_, rfl⟩
  · exact ⟨_, rfl⟩

/-- The Farrier once `n` of its buffered records have reached flash, whose ring overwrites its oldest (R414). -/
def Farrier.flushed (f : Farrier) (n now : Nat) : Farrier :=
  let held := min f.log.length (f.inFlash + n)
  let extra := held - 1048576
  { f with log := f.log.drop extra, inFlash := held - extra, flushAt := now }

/-- Records that reach flash change the Farrier's log and the registers that show it. -/
theorem State.flushSome_eq (s : State) (n : Nat) : ∃ m, s.flushSome n = { s with regs := m, far := s.far.flushed n s.now } :=
  State.showLog_eq { s with far := s.far.flushed n s.now }

/-- A log that fits the ring reaches flash whole. -/
theorem Farrier.flushed_all (f : Farrier) (now : Nat) (room : f.log.length ≤ 1048576) : (f.flushed f.log.length now).flash.log = f.log := by
  have all : min f.log.length (f.inFlash + f.log.length) = f.log.length := by omega
  simp only [Farrier.flash, Farrier.flushed, all, Nat.sub_eq_zero_of_le room, List.drop_zero, Nat.sub_zero, List.take_length]

/-- The log is flushed whole where the Farrier runs and the hold-up does not bound it, or else in part or not at all. -/
theorem State.flush_eq (s : State) (holdUp : Bool) : ∃ m f,
    (if !s.far.awake then s else if holdUp then s.flushSome (Config.holdUp s.freeCtr) else s.flushLog) = { s with regs := m, far := f } ∧
      (s.far.awake = true → holdUp = false → s.far.log.length ≤ 1048576 → f.flash.log = s.far.log) := by
  split
  · next asleep => exact ⟨s.regs, s.far, rfl, fun awake => absurd awake (by simpa using asleep)⟩
  · split
    · next h =>
      obtain ⟨m, e⟩ := s.flushSome_eq (Config.holdUp s.freeCtr)
      exact ⟨m, _, e, fun _ no => absurd (h.symm.trans no) (by decide)⟩
    · obtain ⟨m, e⟩ := s.flushSome_eq s.far.log.length
      exact ⟨m, _, e, fun _ _ room => s.far.flushed_all s.now room⟩

/-- The module is Off, with all but flash and fuses lost (R299, R439). -/
structure State.PoweredDown (s : State) (holdUp : Bool) (t : State) : Prop where
  dev : t.dev = dOff
  pins : t.pins = { s.pins with powerGood := false, enAgain := false }
  hbm : t.hbm = []
  ddr : t.ddr = []
  blocks : t.blocks = []
  dispatch : t.dispatch = {}
  images : t.images = {}
  stud : t.stud = s.stud
  fuses : t.fuses = s.fuses
  log : s.far.awake = true → holdUp = false → s.far.log.length ≤ 1048576 → t.far.log = s.far.log

/-- The last step of it: the device state, the pins, and what a cold reset clears. -/
theorem State.coldClear_off {u : State} (on : u.dev ≠ dOff) (pins : Pins) : let t := State.coldClear { u.goTo dOff with pins := pins }
    t.dev = dOff ∧ t.pins = pins ∧ t.hbm = [] ∧ t.ddr = [] ∧ t.blocks = [] ∧ t.dispatch = {} ∧ t.images = {} ∧ t.stud = u.stud ∧
      t.fuses = u.fuses ∧ t.far = u.far.flash := by
  rw [State.goTo_moves on (mayMove_off _)]
  exact ⟨rfl, rfl, rfl, rfl, rfl, rfl, rfl, rfl, rfl, rfl⟩

/-- The move to Off leaves the pins to be set. -/
theorem State.goTo_pins (s : State) (d : Nat) : (s.goTo d).pins = s.pins := by
  unfold State.goTo
  split <;> rfl

/-- The way to Off from any other state. -/
theorem State.powerDown_poweredDown {s : State} (on : s.dev ≠ dOff) (holdUp : Bool) : s.PoweredDown holdUp (s.powerDown holdUp) := by
  obtain ⟨m, f, flushed, log⟩ := s.flush_eq holdUp
  unfold State.powerDown
  rw [if_neg on, flushed]
  extract_lets w u v
  obtain ⟨ports, out, said⟩ : u.Sends u.sayDown := u.sayDown_sends
  have lost := State.coldClear_off (u := u.sayDown) (by rw [said]; exact on) { v.pins with powerGood := false, enAgain := false }
  obtain ⟨dev, pins, hbm, ddr, blocks, dispatch, images, stud, fuses, far⟩ := lost
  have same : v.pins = s.pins := (State.goTo_pins ..).trans (by rw [said])
  refine ⟨dev, pins.trans (by rw [same]), hbm, ddr, blocks, dispatch, images, stud.trans (by rw [said]), fuses.trans (by rw [said]), ?_⟩
  exact fun awake no room => (congrArg Farrier.log (far.trans (by rw [said]))).trans (log awake no room)

/-- A pulse of RESET_N below 1 µs does nothing (R462). -/
theorem State.resetLow_short (s : State) {ns : Nat} (short : ns < 1000) : s.resetLow ns = { s with freeCtr := s.freeCtr + 1 } := by
  have miss : s.pulse ns = false := by
    unfold State.pulse
    simp [show ¬ 10000 ≤ ns by omega, show ¬ 1000 ≤ ns by omega]
  unfold State.resetLow
  rw [miss]
  rfl

/-- One of 10 µs takes the module to Off (R462). -/
theorem State.resetLow_long (s : State) : s.resetLow 10000 =
    State.powerDown { s with freeCtr := s.freeCtr + 1, pins := { s.pins with resetN := false, lowSince := s.now, lowFor := 10000 } } false := by
  have hit : s.pulse 10000 = true := rfl
  unfold State.resetLow
  rw [hit]
  rfl

end Sys2Proof.Machine
end

section
/-! SUPPORT. The steps of bring-up (R290, R292, R296): each keeps the device in Bring-up until a step is lost or the last is done. -/

namespace Sys2Proof.Machine

/-- The next step's number and time are none of the device state, nor of another register (R301). -/
theorem State.step_dev (s : State) (n : Nat) : (s.step_ n).dev = s.dev := by
  simp only [State.step_, State.set_dev]

theorem State.step_words (s : State) (n : Nat) : State.WordsBut [CHP_BRINGUP.off] s (s.step_ n) :=
  State.ChipBecomes.words (b := s) (t := (s.set CHP_BRINGUP.step n).set CHP_BRINGUP.elapsed_ms ((s.now - s.bring.since) / 1000000))
    (.set (.set (.of_regs rfl) (by decide) _) (by decide) _)

/-- The step that starts, in Bring-up as before. -/
theorem State.step_starts {s : State} (up : s.dev = dBringup) {n : Nat} (small : n < 32) :
    (s.step_ n).dev = dBringup ∧ (s.step_ n).get CHP_BRINGUP.step = n := by
  have shown : (s.step_ n).get CHP_BRINGUP.step = (s.set CHP_BRINGUP.step n).get CHP_BRINGUP.step :=
    State.get_set_apart (s.set CHP_BRINGUP.step n) (by decide) (by decide) (by decide) _
  rw [s.step_dev, shown, State.get_set_same _ (by decide)]
  exact ⟨up, Nat.mod_eq_of_lt small⟩

/-- What each step's end does in Bring-up (R290, R296). -/
theorem State.bringupStep_in {s : State} (up : s.dev = dBringup) (r : StepReport) :
    let n := s.get CHP_BRINGUP.step
    let nat := fun (l : List PBlk) => l.map Fin.val
    let links := r.badLinks.map fun (p, d) => (p.val, d.val)
    (n = 1 → s.bringupStep r = s.step_ 2) ∧ (n = 2 → s.bringupStep r = s.stepBoot r.slotsOk r.fuseOk) ∧
    (n = 3 → s.bringupStep r = if r.ok then ({ s with pins := { s.pins with powerGood := true } } : State).step_ 4 else s.railsFall) ∧
    (n = 4 → s.bringupStep r = if r.ok then s.releaseDie.step_ 5 else s.outOfService 4) ∧
    (n = 5 → s.bringupStep r = s.stepHbm (r.badStacks.map Fin.val)) ∧
    (n = 6 → s.bringupStep r = s.stepDdr (r.badChannels.map Fin.val)) ∧
    (n = 7 → s.bringupStep r = s.stepPorts (r.badPorts.map Fin.val) 8) ∧ (n = 8 → s.bringupStep r = s.stepMesh links 9) ∧
    (n = 9 → s.bringupStep r = s.stepSweep (nat r.failedOnce) (nat r.failedTwice) (r.badEngines.map Fin.val) (nat r.badRouters)) ∧
    (n = 10 → s.bringupStep r = s.stepKar (nat r.failedOnce) (nat r.failedTwice) (r.badEngines.map Fin.val) 11) ∧
    (n = 12 → s.bringupStep r = if s.get CHP_BRINGUP.path = 2 then s.step_ 13 else s.step_ 4) ∧
    (n = 13 → s.bringupStep r = s.releaseDie.step_ 14) ∧
    (n = 14 → s.bringupStep r = if r.selfRefreshOk then (s.set CHP_READY.hbm 255).step_ 15 else s.fallBack) ∧
    (n = 15 → s.bringupStep r = if r.selfRefreshOk then ((List.range 12).foldl (fun s c => s.channelUp c true) s).step_ 16 else s.fallBack) ∧
    (n = 16 → s.bringupStep r = s.stepPorts (r.badPorts.map Fin.val) 17) ∧ (n = 17 → s.bringupStep r = s.stepMesh links 18) ∧
    (n = 18 → s.bringupStep r = s.stepKar (nat r.failedOnce) (nat r.failedTwice) (r.badEngines.map Fin.val) 19) := by
  intro n nat links
  unfold State.bringupStep
  rw [if_neg (not_not.mpr up)]
  refine ⟨?_, ?_, ?_, ?_, ?_, ?_, ?_, ?_, ?_, ?_, ?_, ?_, ?_, ?_, ?_, ?_, ?_⟩ <;> (intro h; simp only [show s.get CHP_BRINGUP.step = _ from h, nat, links])

/-- The end of a job is no move of the device. -/
theorem State.showJob_dev (s : State) : s.showJob.dev = s.dev := by
  unfold State.showJob
  split <;> simp only [State.set_dev]

theorem State.forgetJob_dev (s : State) : s.forgetJob.dev = s.dev := by
  unfold State.forgetJob State.stopWork State.setDispatch
  dsimp only

/-- The module out of service from Bring-up, with its cause (R24). -/
theorem State.outOfService_up {s : State} (up : s.dev = dBringup) {cause : Nat} (small : cause < 256) :
    (s.outOfService cause).dev = dOos ∧ (s.outOfService cause).get CHP_STATE.oos_cause = cause := by
  delta State.outOfService
  rw [if_neg (by rw [up]; decide)]
  extract_lets u v w x i y
  have hu : u.dev = s.dev := s.sayDown_sends.dev
  have hv : v.dev = u.dev := by
    rw [apply_ite State.dev, State.showJob_dev, State.forgetJob_dev, ite_self]
  have hw : w.dev = v.dev := by rw [apply_ite State.dev, State.set_dev, ite_self]
  have hx : x.dev = w.dev := by rw [apply_ite State.dev, State.set_dev, ite_self]
  have hy : y.dev = x.dev := rfl
  clear_value y i x w v u
  have up' : y.dev = dBringup := by rw [hy, hx, hw, hv, hu, up]
  rw [State.set_dev]
  exact ⟨State.goTo_dev (by rw [up']; decide) (by rw [up']; decide), (State.get_set_same _ (by decide) _).trans (Nat.mod_eq_of_lt small)⟩

/-- Rails that fall in Bring-up take the module out of service with cause 2 (R292). -/
theorem State.railsFall_up {s : State} (up : s.dev = dBringup) :
    s.railsFall.dev = dOos ∧ s.railsFall.get CHP_STATE.oos_cause = 2 := by
  obtain ⟨dev, cause⟩ := s.outOfService_up up (cause := 2) (by decide)
  unfold State.railsFall
  dsimp only
  rw [State.set_dev, State.get_set_apart _ (by decide) (by decide) (by decide)]
  exact ⟨dev, cause⟩

/-! The Farrier's start (R409, R424). -/

/-- From `s` to `t` only the Farrier, the fuses, the registers and the count of free values have changed, and the Farrier neither started nor
stopped, nor numbered a record. -/
structure State.FarrierWorks (s t : State) : Prop where
  frame : ∃ n m fuses far, t = { s with freeCtr := n, regs := m, fuses := fuses, far := far }
  awake : t.far.awake = s.far.awake
  rom : t.far.rom = s.far.rom
  next : t.far.next = s.far.next
  mark : t.far.mark = s.far.mark

/-- One work after another. -/
theorem State.FarrierWorks.trans {a b c : State} (h : a.FarrierWorks b) (k : b.FarrierWorks c) : a.FarrierWorks c := by
  refine ⟨?_, k.awake.trans h.awake, k.rom.trans h.rom, k.next.trans h.next, k.mark.trans h.mark⟩
  obtain ⟨n, m, fuses, far, rfl⟩ := h.frame
  obtain ⟨n, m, fuses, far, rfl⟩ := k.frame
  exact ⟨n, m, fuses, far, rfl⟩

/-- Registers set. -/
theorem State.FarrierWorks.of_regs (s : State) (m : Regs) : s.FarrierWorks { s with regs := m } :=
  ⟨⟨_, _, _, _, rfl⟩, rfl, rfl, rfl, rfl⟩

theorem State.FarrierWorks.set {s t : State} (h : s.FarrierWorks t) (f : Fld) (v : Nat) : s.FarrierWorks (t.set f v) :=
  h.trans (by unfold State.set; exact .of_regs t _)

/-- The fuses and the Farrier changed, but for what tells its start. -/
theorem State.FarrierWorks.of_far (s : State) {fuses : Fuses} {far : Farrier} (awake : far.awake = s.far.awake) (rom : far.rom = s.far.rom)
    (next : far.next = s.far.next) (mark : far.mark = s.far.mark) : s.FarrierWorks { s with fuses := fuses, far := far } :=
  ⟨⟨s.freeCtr, s.regs, fuses, far, rfl⟩, awake, rom, next, mark⟩

/-- The register of the attestation indices shows them (R431). -/
theorem State.showLms_works (s : State) : s.FarrierWorks s.showLms := by
  unfold State.showLms
  exact .set (.set (.set (.set (.of_regs s s.regs) _ _) _ _) _ _) _ _

/-- The counters of the attestation indices are checked (R424 step 1). -/
theorem State.checkCounters_works (s : State) : s.FarrierWorks s.checkCounters := by
  unfold State.checkCounters
  dsimp only
  split
  · exact ⟨⟨_, _, _, _, rfl⟩, rfl, rfl, rfl, rfl⟩
  · exact ⟨⟨_, _, _, _, rfl⟩, rfl, rfl, rfl, rfl⟩

/-- The next indices are reserved (R424). -/
theorem State.reserveIndices_works (s : State) : s.FarrierWorks s.reserveIndices := by
  delta State.reserveIndices
  extract_lets past lms
  clear_value lms past
  exact .of_far s rfl rfl rfl rfl

/-- An index used (R424). -/
theorem State.takeIndex_works (s : State) : s.FarrierWorks s.takeIndex.1 := by
  delta State.takeIndex
  extract_lets u q
  have hu : s.FarrierWorks u := by
    unfold u
    split
    · exact s.reserveIndices_works
    · exact .of_regs s s.regs
  clear_value q u
  split
  · exact .of_regs s s.regs
  · split
    · exact hu.trans u.showLms_works
    · have used : u.FarrierWorks { u with far := { u.far with reserved := u.far.reserved - 1 } } := .of_far u rfl rfl rfl rfl
      exact hu.trans (used.trans (State.showLms_works _))

/-- What the Farrier's registers show at its start. -/
theorem State.showPack_works (s : State) : s.FarrierWorks (((s.showLms.showLog).showCap).showPack) := by
  obtain ⟨m, e⟩ := s.showLms.showLog_eq
  have logged : s.FarrierWorks s.showLms.showLog := s.showLms_works.trans (by rw [e]; exact .of_regs _ _)
  unfold State.showPack State.showCap
  exact (logged.set _ _).set _ _

/-- The Farrier has booted (R409, R413): it is awake, no longer in ROM, and its numbers start at M. -/
structure State.FarrierBooted (s t : State) : Prop where
  frame : ∃ n m fuses far, t = { s with freeCtr := n, regs := m, fuses := fuses, far := far }
  awake : t.far.awake = true
  rom : t.far.rom = false
  next : t.far.next = s.far.mark

/-- It works on. -/
theorem State.FarrierBooted.works {a b c : State} (h : a.FarrierBooted b) (k : b.FarrierWorks c) : a.FarrierBooted c := by
  refine ⟨?_, k.awake.trans h.awake, k.rom.trans h.rom, k.next.trans h.next⟩
  obtain ⟨n, m, fuses, far, rfl⟩ := h.frame
  obtain ⟨n, m, fuses, far, rfl⟩ := k.frame
  exact ⟨n, m, fuses, far, rfl⟩

/-- The Farrier's start. -/
theorem State.farrierBoot_booted (s : State) : s.FarrierBooted s.farrierBoot := by
  obtain ⟨⟨n, m, fuses, far, e⟩, -, -, -, mark⟩ := s.checkCounters_works
  delta State.farrierBoot
  extract_lets u v
  have hu : s.FarrierBooted u := by
    unfold u
    rw [e] at mark ⊢
    exact ⟨⟨_, _, _, _, rfl⟩, rfl, rfl, mark⟩
  have hv : u.FarrierWorks v := by
    unfold v
    split
    · exact .of_regs u u.regs
    · exact u.takeIndex_works
  exact hu.works (hv.trans v.showPack_works)

theorem State.farrierBoot_dev (s : State) : s.farrierBoot.dev = s.dev := by
  obtain ⟨n, m, fuses, far, e⟩ := s.farrierBoot_booted.frame
  rw [e]

/-- The restart's end outside Off and Bring-up (R409). -/
theorem State.farrierRestartDone_boots {s : State} (asleep : s.far.awake = false) (on : s.dev ≠ dOff) (past : s.dev ≠ dBringup) :
    s.farrierRestartDone = s.farrierBoot :=
  if_neg (by simp [asleep, on, past])

/-- Where the Farrier runs, none is due. -/
theorem State.farrierRestartDone_awake {s : State} (awake : s.far.awake = true) : s.farrierRestartDone = s := if_pos (.inl awake)

/-! Step 2: the Farrier's slots and the fuses (R292, R298). -/

theorem State.showFuses_dev (s : State) : s.showFuses.dev = s.dev := by
  simp only [State.showFuses, State.set_dev]

/-- A record raised is no move of the device. -/
theorem State.raise_dev (s : State) (level place : Nat) (e : Ev) : (s.raise level place e).dev = s.dev := by
  obtain ⟨ev, co, e⟩ := s.raise_eq level place e
  rw [e]

theorem State.setFw_dev (s : State) (c : Nat) (w : Firmware) : (s.setFw c w).dev = s.dev := rfl

/-- No slot verifies. -/
theorem State.stepBoot_lost {s : State} (up : s.dev = dBringup) {slots : Nat} (none : slots % 4 = 0) (fuseOk : Bool) :
    (s.stepBoot slots fuseOk).dev = dOos ∧ (s.stepBoot slots fuseOk).get CHP_STATE.oos_cause = 1 := by
  delta State.stepBoot
  extract_lets a bad u v w
  rw [if_pos none]
  exact State.outOfService_up (by rw [← up]; exact s.farrierBoot_dev) (by decide)

/-- One does. -/
theorem State.stepBoot_starts {s : State} (up : s.dev = dBringup) {slots : Nat} (some : slots % 4 ≠ 0) (fuseOk : Bool) :
    if fuseOk then (s.stepBoot slots fuseOk).dev = dBringup ∧ (s.stepBoot slots fuseOk).get CHP_BRINGUP.step = 3
    else (s.stepBoot slots fuseOk).dev = dOos ∧ (s.stepBoot slots fuseOk).get CHP_STATE.oos_cause = 5 := by
  delta State.stepBoot
  extract_lets a bad fw u v w
  rw [if_neg some]
  have hu : u.dev = s.dev := by rw [apply_ite State.dev, State.setFw_dev, ite_self]
  have hv : v.dev = u.dev := u.farrierBoot_dev
  have hw : w.dev = v.dev := by rw [apply_ite State.dev, State.raise_dev, ite_self]
  clear_value w v u
  have up' : w.dev = dBringup := by rw [hw, hv, hu, up]
  cases fuseOk
  · exact w.outOfService_up up' (cause := 5) (by decide)
  · exact State.step_starts (by rw [State.showFuses_dev, up']) (by decide)

end Sys2Proof.Machine
end

section
/-! SUPPORT. The steps of bring-up that train, place, test and end it (R290, R292, R293, R294): what each leaves of the device state and of the
words that a step's end names. -/

namespace Sys2Proof.Machine

/-- A step's number and time are no word of another register. -/
theorem State.step_get (s : State) (n : Nat) {f : Fld} (apart : f.off ≠ CHP_BRINGUP.off) : (s.step_ n).get f = s.get f :=
  (s.step_words n).get (by simpa using apart)

/-- A step's fold that keeps the device state, with its new word. -/
theorem State.step_starts_of_dev {s t : State} (up : s.dev = dBringup) (same : t.dev = s.dev) {n : Nat} (small : n < 32) :
    (t.step_ n).dev = dBringup ∧ (t.step_ n).get CHP_BRINGUP.step = n :=
  State.step_starts (same.trans up) small

/-! Step 4: the compute die's release. -/

theorem State.sweepCounts_dev (s : State) : s.sweepCounts.dev = s.dev := by
  delta State.sweepCounts
  extract_lets n u
  exact foldl_same State.dev (fun u r => u.rset_dev r _ _) _ u

/-- The counts of blocks out of use are no word of another register (R335). -/
theorem State.sweepCounts_get (s : State) {f : Fld} (wf : f.lo ≤ f.hi) (apart : f.off ≠ CHP_SWEEP.off) : s.sweepCounts.get f = s.get f := by
  delta State.sweepCounts
  extract_lets n u
  have hu : u.get f = s.get f := by
    unfold u
    rw [State.get_set_apart _ (by decide) wf (.inl apart.symm), State.get_set_apart _ (by decide) wf (.inl apart.symm)]
  rw [← hu]
  exact State.get_of_regs (foldl_same State.regs (fun u r => u.rset_regs r _ _) _ u) f

/-- The stud book's places are no move of the device. -/
theorem State.placeStud_dev (s : State) : s.placeStud.dev = s.dev := by
  delta State.placeStud
  extract_lets ps u es v
  have hu : u.dev = s.dev := foldl_same State.dev (fun w p => by
    rw [apply_ite State.dev, State.setRmt_dev, State.setBlock_dev, ite_self]) ps s
  have hv : v.dev = u.dev := foldl_same State.dev (fun w e => by rw [apply_ite State.dev, State.set_dev, ite_self]) es u
  rw [v.sweepCounts_dev, hv, hu]

/-- Nor do they reach a word below the mangers' but the counts of blocks out of use. -/
theorem State.placeStud_get (s : State) {f : Fld} (wf : f.lo ≤ f.hi) (low : f.off < 0x100020100000) (apart : f.off ≠ CHP_SWEEP.off) :
    s.placeStud.get f = s.get f := by
  delta State.placeStud
  extract_lets ps u es v
  have hu : u.regs = s.regs := foldl_same State.regs (fun w p => by
    rw [apply_ite State.regs, State.setRmt_regs, State.setBlock_regs, ite_self]) ps s
  have manger : ∀ k, (MGR_STATUS.fenced k).off ≠ f.off := fun k => by
    unfold MGR_STATUS.fenced MGR_STATUS.off
    dsimp only
    omega
  have hv : v.get f = u.get f := foldl_same (State.get · f) (fun w e => by
    rw [apply_ite (State.get · f), State.get_set_apart _ (show 32 ≤ 63 by decide) wf (.inl (manger _)), ite_self]) es u
  rw [v.sweepCounts_get wf apart, hv, State.get_of_regs hu]

/-- The release of the compute die (R290 step 4): the device stays in Bring-up and the Cadence runs in Collected gait at 4,000 ns. -/
theorem State.releaseDie_starts (s : State) :
    s.releaseDie.dev = s.dev ∧ s.releaseDie.get CAD_PERIOD.current = 4000 ∧ s.releaseDie.get CAD_CTL.gait = 0 ∧ s.releaseDie.get CAD_CTL.run = 1 := by
  delta State.releaseDie
  extract_lets u v
  have dev : v.dev = s.dev := by
    unfold v
    simp only [State.set_dev, u]
  have period : v.get CAD_PERIOD.current = 4000 := by
    unfold v
    rw [State.get_set_apart _ (by decide) (by decide) (by decide), State.get_set_same _ (by decide)]
    decide
  have gait : v.get CAD_CTL.gait = 0 := by
    unfold v
    rw [State.get_set_apart _ (by decide) (by decide) (by decide), State.get_set_apart _ (by decide) (by decide) (by decide),
      State.get_set_apart _ (by decide) (by decide) (by decide), State.get_set_same _ (by decide)]
    decide
  have run : v.get CAD_CTL.run = 1 := by
    unfold v
    rw [State.get_set_same _ (by decide)]
    decide
  clear_value v u
  generalize hw : v.onFar _ = w
  have same : w.dev = v.dev ∧ w.regs = v.regs := by rw [← hw]; exact ⟨rfl, rfl⟩
  refine ⟨?_, ?_, ?_, ?_⟩
  · rw [w.placeStud_dev, same.1, dev]
  · rw [w.placeStud_get (by decide) (by decide) (by decide), State.get_of_regs same.2, period]
  · rw [w.placeStud_get (by decide) (by decide) (by decide), State.get_of_regs same.2, gait]
  · rw [w.placeStud_get (by decide) (by decide) (by decide), State.get_of_regs same.2, run]

/-! Steps 5 and 6: the memories. -/

theorem State.trainUnit_dev (s : State) (i : Nat) : (s.trainUnit i).dev = s.dev := rfl

/-- Rows repaired enter the stud book alone. -/
theorem State.repairRows_dev (s : State) (ddr : Bool) : (s.repairRows ddr).dev = s.dev := by
  delta State.repairRows
  extract_lets rows
  refine foldl_same State.dev (fun u r => ?_) rows s
  split
  · rw [apply_ite State.dev, State.book, ite_self]
  · rfl

theorem State.channelUp_dev (s : State) (c : Nat) (ok : Bool) : (s.channelUp c ok).dev = s.dev := by
  delta State.channelUp
  extract_lets g fit u
  rw [apply_ite State.dev, State.set_dev, ite_self]
  simp only [u, State.set_dev]

/-- Step 5 with every stack repaired, trained and tested. -/
theorem State.stepHbm_starts {s : State} (up : s.dev = dBringup) :
    (s.stepHbm []).dev = dBringup ∧ (s.stepHbm []).get CHP_BRINGUP.step = 6 ∧ (s.stepHbm []).hbm = [] ∧ (s.stepHbm []).get CHP_READY.hbm = 255 := by
  delta State.stepHbm
  rw [if_neg (by decide)]
  extract_lets u
  have hu : u.dev = s.dev := (foldl_same State.dev (fun u k => u.trainUnit_dev k) _ _).trans (s.repairRows_dev false)
  clear_value u
  generalize hv : ({ u with hbm := [] } : State) = v
  have empty : v.dev = u.dev ∧ v.hbm = [] := by rw [← hv]; exact ⟨rfl, rfl⟩
  obtain ⟨dev, step⟩ := State.step_starts (s := v.set CHP_READY.hbm 255) (by rw [State.set_dev, empty.1, hu, up]) (n := 6) (by decide)
  refine ⟨dev, step, ?_, ?_⟩
  · simp only [State.step_, State.set_hbm, empty.2]
  · rw [State.step_get _ _ (by decide), State.get_set_same _ (by decide)]
    decide

/-- Step 5 with a stack that fails. -/
theorem State.stepHbm_lost {s : State} (up : s.dev = dBringup) {bad : List Nat} (lost : bad ≠ []) :
    (s.stepHbm bad).dev = dOos ∧ (s.stepHbm bad).get CHP_STATE.oos_cause = 3 := by
  unfold State.stepHbm
  rw [if_pos (by simpa using lost)]
  exact s.outOfService_up up (cause := 3) (by decide)

/-- Step 6, whichever channels are there. -/
theorem State.stepDdr_starts {s : State} (up : s.dev = dBringup) (bad : List Nat) :
    (s.stepDdr bad).dev = dBringup ∧ (s.stepDdr bad).get CHP_BRINGUP.step = 7 ∧ (s.stepDdr bad).ddr = [] := by
  delta State.stepDdr
  extract_lets u v w old x
  have hu : u.dev = s.dev := by
    refine (foldl_same State.dev (fun u c => u.channelUp_dev c _) _ _).trans ?_
    rw [State.set_dev, State.repairRows_dev]
  have hv : v.dev = u.dev := foldl_same State.dev (fun u c => by rw [apply_ite State.dev, State.trainUnit_dev, ite_self]) _ _
  have hw : w.dev = v.dev ∧ w.ddr = [] := ⟨rfl, rfl⟩
  clear_value w v u
  have hx : x.dev = w.dev ∧ x.ddr = w.ddr := by
    unfold x
    split
    · exact ⟨rfl, rfl⟩
    · exact ⟨rfl, rfl⟩
  clear_value x
  obtain ⟨dev, step⟩ := State.step_starts (s := x) (by rw [hx.1, hw.1, hv, hu, up]) (n := 7) (by decide)
  refine ⟨dev, step, ?_⟩
  simp only [State.step_, State.set_ddr]
  exact hx.2.trans hw.2

/-! Steps 7 and 8: the ports and the mesh. -/

theorem State.stepPorts_starts {s : State} (up : s.dev = dBringup) (bad : List Nat) {n : Nat} (small : n < 32) :
    (s.stepPorts bad n).dev = dBringup ∧ (s.stepPorts bad n).get CHP_BRINGUP.step = n := by
  delta State.stepPorts
  extract_lets m
  exact State.step_starts (by rw [State.set_dev, State.set_dev, up]) small

/-- A mesh with no bad link. -/
theorem State.stepMesh_starts {s : State} (up : s.dev = dBringup) {n : Nat} (small : n < 32) :
    (s.stepMesh [] n).dev = dBringup ∧ (s.stepMesh [] n).get CHP_BRINGUP.step = n := by
  have sound : s.stepMesh [] n = (s.set CHP_READY.mesh 1).step_ n := if_neg (by change s.dev ≠ dOos; rw [up]; decide)
  rw [sound]
  exact State.step_starts (by rw [State.set_dev, up]) small

/-! Steps 9 and 10: the sweep and the known-answer run. -/

theorem State.testFail_dev (s : State) (p attempt record : Nat) : (s.testFail p attempt record).dev = s.dev := by
  rw [State.testFail, State.onBlock_dev]

/-- Units that fail once are transient, and no move of the device (R294). -/
theorem State.unitFails_once_dev (s : State) (once : List Nat) (kar : Option (Option Nat)) : (s.unitFails once [] [] kar).dev = s.dev := by
  delta State.unitFails
  extract_lets record u v w
  have hu : u.dev = s.dev := rfl
  have hv : v.dev = u.dev := foldl_same State.dev (fun u p => by rw [State.transient, State.count, State.set_dev, State.testFail_dev]) once u
  have hw : w = v := List.foldl_nil
  rw [List.foldl_nil, hw, hv, hu]

/-- With none at all only a free value is drawn. -/
theorem State.unitFails_none (s : State) (kar : Option (Option Nat)) : s.unitFails [] [] [] kar = { s with freeCtr := s.freeCtr + 1 } := rfl

theorem State.cleanSweep_dev (s : State) (start : Nat) : (s.cleanSweep start).dev = s.dev := by
  simp only [State.cleanSweep, State.onScreen, State.book]

theorem State.onScreen_dev (s : State) (f : Screen → Screen) : (s.onScreen f).dev = s.dev := rfl

theorem State.showTest_dev (s : State) (p : Nat) : (s.showTest p).dev = s.dev := by
  rw [State.showTest, State.setBlock_dev]

/-- A sweep with no lasting failure. -/
theorem State.stepSweep_starts {s : State} (up : s.dev = dBringup) (once : List Nat) :
    (s.stepSweep once [] [] []).dev = dBringup ∧ (s.stepSweep once [] [] []).get CHP_BRINGUP.step = 10 := by
  delta State.stepSweep
  extract_lets start u tested v w all ps x y z
  have hu : u.dev = s.dev := s.unitFails_once_dev once none
  have hv : v.dev = u.dev := foldl_same State.dev (fun t p => t.setBlock_dev p _) tested u
  have hw : w = v := by rw [show w = List.foldl _ v (List.filter _ []) from rfl, List.filter_nil, List.foldl_nil]
  have hx : x.dev = w.dev := foldl_same State.dev (fun t p => by rw [State.showTest_dev, apply_ite State.dev, State.setBlock_dev, ite_self]) tested w
  have hy : y.dev = x.dev := x.onScreen_dev _
  have hz : z.dev = y.dev := by rw [apply_ite State.dev, State.cleanSweep_dev, ite_self]
  clear_value z y x w v u
  have up' : z.dev = dBringup := by rw [hz, hy, hx, hw, hv, hu, up]
  rw [if_neg (by rw [up']; decide)]
  exact State.step_starts (by rw [State.set_dev, up']) (by decide)

/-- Bring-up is over (R288, R290): the device is Held, with the newest pack. -/
structure State.HeldFrom (s : State) (n : Nat) (t : State) : Prop where
  dev : t.dev = dHeld
  kar : t.get CHP_READY.kar = s.get CHP_READY.kar
  code : t.get CHP_HOLD_REASON.code = 0
  step : t.get CHP_BRINGUP.step = n
  pack : t.far.pack = s.far.newestPack

/-- The newest pack becomes the active one (R293). -/
theorem State.takePack_taken (s : State) :
    s.takePack.dev = s.dev ∧ s.takePack.far.pack = s.far.newestPack ∧ s.takePack.get CHP_READY.kar = s.get CHP_READY.kar := by
  delta State.takePack
  extract_lets old u
  have hu : u.dev = s.dev ∧ u.far.pack = s.far.newestPack ∧ u.regs = s.regs := ⟨rfl, rfl, rfl⟩
  clear_value u
  rw [State.set_dev, State.set_far, State.get_set_apart _ (by decide) (by decide) (by decide)]
  exact ⟨hu.1, hu.2.1, State.get_of_regs hu.2.2 _⟩

/-- No hold reason is left, and no other word changes. -/
theorem State.holdReason_none (s : State) : (s.holdReason { code := 0 }).dev = s.dev ∧ (s.holdReason { code := 0 }).far = s.far ∧
    State.WordsBut [CHP_HOLD_REASON.off] s (s.holdReason { code := 0 }) ∧ (s.holdReason { code := 0 }).get CHP_HOLD_REASON.code = 0 := by
  unfold State.holdReason
  refine ⟨by simp only [State.set_dev], by simp only [State.set_far], ?_, ?_⟩
  · exact State.ChipBecomes.words (b := s) (.set (.set (.set (.set (.set (.of_regs rfl) (by decide) _) (by decide) _) (by decide) _) (by decide) _) (by decide) _)
  · rw [State.get_set_apart _ (by decide) (by decide) (by decide), State.get_set_apart _ (by decide) (by decide) (by decide),
      State.get_set_apart _ (by decide) (by decide) (by decide), State.get_set_apart _ (by decide) (by decide) (by decide),
      State.get_set_same _ (by decide)]
    decide

/-- From Bring-up into Held. -/
theorem State.reachHeld_held {s : State} (up : s.dev = dBringup) {n : Nat} (small : n < 32) : s.HeldFrom n (s.reachHeld n) := by
  obtain ⟨dev, pack, kar⟩ := s.takePack_taken
  unfold State.reachHeld
  generalize s.takePack = u at dev pack kar
  obtain ⟨dev', step⟩ := State.step_starts_of_dev up dev small
  have kar' : (u.step_ n).get CHP_READY.kar = s.get CHP_READY.kar := by rw [State.step_get _ _ (by decide), kar]
  have pack' : (u.step_ n).far.pack = s.far.newestPack := by
    simp only [State.step_, State.set_far]
    exact pack
  generalize u.step_ n = v at dev' step kar' pack'
  obtain ⟨hdev, hfar, words, code⟩ := v.holdReason_none
  generalize v.holdReason { code := 0 } = w at hdev hfar words code
  have moves : w.ChipBecomes [CHP_STATE.off] { w with dev := dHeld } (w.goTo dHeld) := w.goTo_becomes (.inr (by rw [hdev, dev']; decide))
  have after := moves.words
  obtain ⟨⟨m, ev, co, e⟩, -⟩ := moves
  refine ⟨(congrArg State.dev e :), ?_, ?_, ?_, ?_⟩
  · rw [after.get (by decide), words.get (by decide), kar']
  · rw [after.get (by decide), code]
  · rw [after.get (by decide), words.get (by decide), step]
  · rw [show (w.goTo dHeld).far = w.far from (congrArg State.far e :), hfar, pack']

/-- A known-answer run that every unit passes ends it (R293). -/
theorem State.stepKar_held {s : State} (up : s.dev = dBringup) (blocks : packFailsAny s.far.pack false = none)
    (mangers : packFailsAny s.far.pack true = none) {n : Nat} (small : n < 32) : (s.stepKar [] [] [] n).dev = dHeld ∧
    (s.stepKar [] [] [] n).get CHP_READY.kar = 1 ∧ (s.stepKar [] [] [] n).get CHP_HOLD_REASON.code = 0 ∧
    (s.stepKar [] [] [] n).get CHP_BRINGUP.step = n ∧ (s.stepKar [] [] [] n).far.pack = s.far.newestPack := by
  delta State.stepKar
  extract_lets bad badEngine covered twice once fenced engines u
  have passed : bad = none := blocks
  have passed' : badEngine = none := mangers
  have noTwice : twice = [] := by simp [twice, passed]
  have noOnce : once = [] := by simp [once, passed]
  have noEngines : engines = [] := by simp [engines, passed']
  have hu : u = { s with freeCtr := s.freeCtr + 1 } := by rw [show u = s.unitFails once twice [] (some bad) from rfl, noTwice, noOnce, State.unitFails_none]
  rw [noEngines, State.unitFails_none, hu]
  generalize hv : ({ s with freeCtr := s.freeCtr + 1 + 1 } : State) = v
  have same : v.dev = s.dev ∧ v.far = s.far := by rw [← hv]; exact ⟨rfl, rfl⟩
  obtain ⟨dev, kar, code, step, pack⟩ := State.reachHeld_held (s := v.set CHP_READY.kar 1) (by rw [State.set_dev, same.1, up]) small
  refine ⟨dev, kar.trans ?_, code, step, pack.trans ?_⟩
  · rw [State.get_set_same _ (by decide)]
    decide
  · rw [State.set_far, same.2]

/-! The fast path and its fallback (R296). -/

/-- The fallback goes on at cold step 5. -/
theorem State.fallBack_starts {s : State} (up : s.dev = dBringup) : s.fallBack.dev = dBringup ∧ s.fallBack.get CHP_BRINGUP.step = 5 := by
  delta State.fallBack
  extract_lets u v old
  have hu : u.dev = s.dev := by simp only [u, State.set_dev]
  clear_value old u
  have hv : v.dev = u.dev := by simp only [v, State.onFar, State.set_dev]
  clear_value v
  have up' : v.dev = dBringup := by rw [hv, hu, up]
  refine State.step_starts (n := 5) ?_ (by decide)
  exact up'

/-- Every channel out of self-refresh. -/
theorem State.channelsUp_dev (s : State) (cs : List Nat) : (cs.foldl (fun s c => s.channelUp c true) s).dev = s.dev :=
  foldl_same State.dev (fun u c => u.channelUp_dev c true) cs s

end Sys2Proof.Machine
end

section
/-! SUPPORT. The pins, the rails, the Rider's boot and a restart of the Farrier (R289, R291, R299, R409, R462), as `exec` answers them. -/

namespace Sys2Proof.Machine

/-- The commands by which an input of the connector comes to allow the module to run. -/
theorem exec_of_rise {s : State} {c : Instr} {pins : Pins}
    (h : (c, pins) ∈ ([(.inputInRange, { s.pins with input := true }), (.moduleEnRise, { s.pins with moduleEn := true }),
      (.resetNRelease, { s.pins with resetN := true })] : List (Instr × Pins))) :
    exec c s = .next (State.powerUp { s with pins := pins }) ∧ pins.railsUp = s.pins.railsUp := by
  simp only [List.mem_cons, Prod.mk.injEq, List.not_mem_nil, or_false] at h
  obtain ⟨rfl, rfl⟩ | ⟨rfl, rfl⟩ | ⟨rfl, rfl⟩ := h
  · exact ⟨rfl, rfl⟩
  · exact ⟨rfl, rfl⟩
  · exact ⟨rfl, rfl⟩

/-- A command by which an input takes the module to Off, as the change of the pins and the power-down it makes. -/
structure PullsDown (s : State) (c : Instr) (n : Nat) (pins : Pins) (holdUp : Bool) : Prop where
  run : exec c s = .next (State.powerDown { s with freeCtr := n, pins := pins } holdUp)
  rails : pins.railsUp = s.pins.railsUp
  input : pins.input = (s.pins.input && decide (c ≠ .inputOutOfRange))
  moduleEn : pins.moduleEn = (s.pins.moduleEn && decide (c ≠ .moduleEnFall))
  resetN : pins.resetN = (s.pins.resetN && decide (c ≠ .resetNAssert 10000))
  whole : c ≠ .inputOutOfRange → holdUp = false

/-- The commands that do. -/
theorem pullsDown_of_mem (s : State) {c : Instr} (h : c ∈ ([.inputOutOfRange, .moduleEnFall, .resetNAssert 10000] : List Instr)) :
    ∃ n pins holdUp, PullsDown s c n pins holdUp := by
  simp only [List.mem_cons, List.not_mem_nil, or_false] at h
  obtain rfl | rfl | rfl := h
  · exact ⟨s.freeCtr, { s.pins with input := false }, true, rfl, rfl, by simp, by simp, by simp, by simp⟩
  · exact ⟨s.freeCtr, { s.pins with moduleEn := false }, false, rfl, rfl, by simp, by simp, by simp, by simp⟩
  · exact ⟨s.freeCtr + 1, { s.pins with resetN := false, lowSince := s.now, lowFor := 10000 }, false,
      exec_eq (u := State.powerDown _ _) rfl s.resetLow_long, rfl, by simp, by simp, by simp, by simp⟩

/-! The rails (R299). -/

/-- Outside Off the rails stay up. -/
theorem State.railsOff_on {s : State} (on : s.dev ≠ dOff) : s.railsOff = s := if_pos on

/-- In Off they fall. -/
theorem State.railsOff_falls {s : State} (off : s.dev = dOff) (again : s.pins.enAgain = false) :
    s.railsOff = { s with pins := { s.pins with railsUp := false } } := by
  have same : ({ s.pins with railsUp := false, enAgain := false } : Pins) = { s.pins with railsUp := false } := by rw [← again]
  unfold State.railsOff
  rw [if_neg (not_not.mpr off), if_neg (by simp [again]), same]

/-- A cold path that waits then starts. -/
theorem State.railsOff_starts {s : State} (off : s.dev = dOff) (again : s.pins.enAgain = true) (wanted : s.wanted = true) :
    s.railsOff.dev = dBringup ∧ s.railsOff.get CHP_BRINGUP.step = 1 := by
  unfold State.railsOff
  rw [if_neg (not_not.mpr off), if_pos again]
  generalize hu : ({ s with pins := { s.pins with railsUp := false, enAgain := false } } : State) = u
  have same : u.dev = dOff ∧ u.wanted = true ∧ u.pins.railsUp = false := by rw [← hu]; exact ⟨off, wanted, rfl⟩
  obtain ⟨off', wanted', down⟩ := same
  have started := State.startCold_coldStart off'
  rw [State.powerUp_starts wanted' off' down]
  exact ⟨started.dev, started.step⟩

/-! The Rider's boot (R291). -/

/-- With its partition tested it boots. -/
theorem State.riderBoot_boots {s : State} (down : s.bring.rider = false) (fits : s.riderFits = true ∨ s.get CHP_BRINGUP.step = 6)
    (tested : s.dev = dHeld ∨ s.dev = dBringup ∧ 6 ≤ s.get CHP_BRINGUP.step ∧ s.get CHP_BRINGUP.step ≠ 12) :
    s.riderBoot = ({ s with bring := { s.bring with rider := true, beatAt := none } } : State).riderStarts := by
  have served : (s.get CHP_BRINGUP.step == 6 || s.riderFits) = true := by simpa [or_comm] using fits
  unfold State.riderBoot
  refine if_pos ?_
  rw [down, served]
  obtain held | ⟨up, late, not12⟩ := tested
  · rw [held]
    simp [dHeld, dBringup, dOff, dOos]
  · rw [up]
    simp [dBringup, dOff, dOos, late, not12]

/-- Off and out of service it stays down. -/
theorem State.riderBoot_stays {s : State} (h : s.dev = dOff ∨ s.dev = dOos) : s.riderBoot = s := by
  refine if_neg ?_
  obtain off | oos := h
  · simp [off]
  · simp [oos]

/-! A restart of the Farrier (R409). -/

/-- The leases shown are no other part of the state. -/
theorem State.setLeases_eq (s : State) (l : Leases) : ∃ m, s.setLeases l = { s with regs := m, leases := l } := ⟨_, rfl⟩

/-- What a restart ends and what it leaves. -/
structure State.FarrierDown (s t : State) : Prop where
  awake : t.far.awake = false
  sessions : t.far.sessions = []
  collections : t.far.collections = []
  mailbox : s.get FAR_MBX_STATUS.busy = 1 → t.get FAR_MBX_STATUS.result = 1
  blocks : t.blocks = s.blocks
  regions : t.regions = s.regions
  dev : t.dev = s.dev
  dispatch : t.dispatch = s.dispatch
  cad : t.cad = s.cad
  hbm : t.hbm = s.hbm
  ddr : t.ddr = s.ddr
  held : t.leases.held = s.leases.held

/-- What the Farrier's memory loses. -/
theorem State.farrierLoss_eq (s : State) : ∃ n m far leases,
    s.farrierLoss = { s with freeCtr := n, chipResets := [], regs := m, far := far, leases := leases } ∧ far.awake = false ∧ far.sessions = [] ∧
      far.collections = [] ∧ leases.held = s.leases.held := by
  delta State.farrierLoss
  extract_lets u v
  obtain ⟨m, e⟩ := v.setLeases_eq { v.leases with waiting := v.leases.waiting.filter fun l => l.by_ != 2 }
  exact ⟨_, m, _, _, e, rfl, rfl, rfl, rfl⟩

/-- The restart. -/
theorem State.farrierRestart_down {s : State} (awake : s.far.awake = true) : s.FarrierDown s.farrierRestart := by
  unfold State.farrierRestart
  rw [if_pos awake]
  delta State.farrierDown
  extract_lets busy u
  obtain ⟨m, e⟩ := s.flushSome_eq (Config.holdUp s.freeCtr)
  obtain ⟨n, m', far, leases, loss, asleep, sessions, collections, held⟩ := (s.flushSome (Config.holdUp s.freeCtr)).farrierLoss_eq
  have hu : u = { s with freeCtr := n, chipResets := [], regs := m', far := far, leases := leases } := loss.trans (by rw [e])
  have held' : leases.held = s.leases.held := held.trans (by rw [e])
  clear_value u
  subst hu
  split
  · refine ⟨asleep, sessions, collections, fun _ => ?_, rfl, rfl, rfl, rfl, rfl, rfl, rfl, held'⟩
    rw [State.get_set_same _ (by decide)]
    decide
  · next idle => exact ⟨asleep, sessions, collections, fun busy => absurd busy idle, rfl, rfl, rfl, rfl, rfl, rfl, rfl, held'⟩

end Sys2Proof.Machine
end

section
/-! O52: power up and down, the steps of bring-up, the Rider's boot, and a restart of the Farrier. -/

namespace Sys2Proof.Machine

/-- The end of a step, as `exec` answers it. -/
theorem exec_bringupStepComplete (r : StepReport) {s u : State} (e : s.bringupStep r = u) : exec (.bringupStepComplete r) s = .next u :=
  exec_eq rfl e

/-- A state reached that is still in Bring-up, at step `n`. -/
theorem exec_ends {r : StepReport} {s u : State} {n : Nat} (e : s.bringupStep r = u) (h : u.dev = dBringup ∧ u.get CHP_BRINGUP.step = n) :
    ∃ t, exec (.bringupStepComplete r) s = .next t ∧ t.dev = dBringup ∧ t.get CHP_BRINGUP.step = n :=
  ⟨u, exec_bringupStepComplete r e, h⟩

/-- A state reached that is out of service with a cause. -/
theorem exec_stops {r : StepReport} {s u : State} {cause : Nat} (e : s.bringupStep r = u)
    (h : u.dev = dOos ∧ u.get CHP_STATE.oos_cause = cause) :
    ∃ t, exec (.bringupStepComplete r) s = .next t ∧ t.dev = dOos ∧ t.get CHP_STATE.oos_cause = cause :=
  ⟨u, exec_bringupStepComplete r e, h⟩

/-- Outside Bring-up no step ends. -/
theorem State.bringupStep_idle {s : State} (past : s.dev ≠ dBringup) (r : StepReport) : s.bringupStep r = s := if_pos past

/-- Settles O52: the pins through power-up and power-down, each step of bring-up by the equation that says what its end does, and the Farrier's
restart by what it leaves. -/
theorem powerAndBringup : Obligations.PowerAndBringup := by
  unfold Obligations.PowerAndBringup
  intro s
  refine ⟨fun c pins among => ?rise, fun c among on => ?fall, fun ns short => exec_eq rfl (s.resetLow_short short), fun on => exec_eq rfl (State.railsOff_on on),
    fun off again => exec_eq rfl (State.railsOff_falls off again), fun off again input en high => ?rails, fun r => ?step,
    fun down fits tested => exec_eq rfl (State.riderBoot_boots down fits tested), fun still => exec_eq rfl (State.riderBoot_stays still),
    fun awake => ?restart, fun awake => exec_eq rfl (State.farrierRestartDone_awake awake), fun asleep on past => ?done⟩
  case rise =>
    intro wanted
    obtain ⟨run, same⟩ := exec_of_rise among
    have want := State.wanted_iff { s with pins := pins }
    refine ⟨fun idle => exec_eq run (State.powerUp_idle ?_), fun may off rails => exec_eq run ?_, fun may off rails => ?_⟩
    · exact idle.imp (fun no => Bool.eq_false_iff.mpr fun yes => no (want.mp yes)) id
    · exact State.powerUp_waits (want.mpr may) off (same.trans rails)
    · have start := State.startCold_coldStart (s := { s with pins := pins }) off
      exact ⟨_, exec_eq run (State.powerUp_starts (want.mpr may) off (same.trans rails)), start.dev, start.step, start.path, start.pins, start.hbm,
        start.ddr, start.blocks, start.stud, start.fuses, start.log⟩
  case fall =>
    obtain ⟨n, pins, holdUp, pulls⟩ := pullsDown_of_mem s among
    have down := State.powerDown_poweredDown (s := { s with freeCtr := n, pins := pins }) on holdUp
    exact ⟨_, pulls.run, down.dev, by rw [down.pins], by rw [down.pins]; exact pulls.rails, down.hbm, down.ddr, down.blocks, down.dispatch, down.images,
      down.stud, down.fuses, by rw [down.pins]; exact pulls.input, by rw [down.pins]; exact pulls.moduleEn, by rw [down.pins]; exact pulls.resetN,
      fun inRange awake room => down.log awake (pulls.whole inRange) room⟩
  case rails =>
    exact ⟨_, rfl, State.railsOff_starts off again (s.wanted_iff.mpr ⟨input, en, high⟩)⟩
  case step =>
    intro c n ends stops
    refine ⟨fun past => exec_eq rfl (State.bringupStep_idle past r), fun up => ?_⟩
    obtain ⟨e1, e2, e3, e4, e5, e6, e7, e8, e9, e10, e12, e13, e14, e15, e16, e17, e18⟩ := State.bringupStep_in up r
    refine ⟨fun at1 => exec_ends (e1 at1) (State.step_starts up (by decide)), ?slots, ?fuses, ?rails, ?release, ?memory,
      fun at6 => ?channels, fun at7 => exec_ends (e7 at7) (State.stepPorts_starts up _ (by decide)), fun at8 sound => ?mesh,
      fun at9 twice engines routers => ?sweep, fun at12 => ?path, fun at13 => ?fast, fun at14 => ?refresh, fun at15 => ?channelsUp,
      fun at16 => exec_ends (e16 at16) (State.stepPorts_starts up _ (by decide)), fun at17 sound => ?fastMesh,
      fun last blocks mangers once twice engines => ?held, fun at3 ok => ?good, fun at4 ok _ => ?cadence, fun at5 sound => ?zeroed, fun at6 => ?ddr⟩
    case slots =>
      exact fun at2 none => exec_stops (e2 at2) (State.stepBoot_lost up (by rw [none]; decide) _)
    case fuses =>
      intro at2 some
      have verifies : r.slotsOk.val % 4 ≠ 0 := by
        have := Fin.val_ne_of_ne some
        omega
      have went := State.stepBoot_starts up verifies r.fuseOk
      split at went
      · next ok => exact (if_pos ok).mpr (exec_ends (e2 at2) went)
      · next bad => exact (if_neg bad).mpr (exec_stops (e2 at2) went)
    case rails =>
      intro at3
      split
      · next ok => exact exec_ends ((e3 at3).trans (if_pos ok)) (State.step_starts up (by decide))
      · next bad => exact exec_stops ((e3 at3).trans (if_neg bad)) (State.railsFall_up up)
    case release =>
      intro at4
      split
      · next ok => exact exec_ends ((e4 at4).trans (if_pos ok)) (State.step_starts_of_dev up s.releaseDie_starts.1 (by decide))
      · next bad => exact exec_stops ((e4 at4).trans (if_neg bad)) (State.outOfService_up up (by decide))
    case memory =>
      intro at5
      split
      · next sound =>
        obtain ⟨dev, step, -⟩ := State.stepHbm_starts up
        exact exec_ends ((e5 at5).trans (by rw [sound, List.map_nil])) ⟨dev, step⟩
      · next bad => exact exec_stops (e5 at5) (State.stepHbm_lost up (by simpa using bad))
    case channels =>
      obtain ⟨dev, step, -⟩ := State.stepDdr_starts up (r.badChannels.map Fin.val)
      exact exec_ends (e6 at6) ⟨dev, step⟩
    case mesh =>
      exact exec_ends ((e8 at8).trans (by rw [sound, List.map_nil])) (State.stepMesh_starts up (by decide))
    case sweep =>
      have sound : s.bringupStep r = s.stepSweep (r.failedOnce.map Fin.val) [] [] [] := by
        rw [e9 at9]
        simp only [twice, engines, routers, List.map_nil]
      exact exec_ends sound (State.stepSweep_starts up _)
    case path =>
      split
      · next fast => exact exec_ends ((e12 at12).trans (if_pos fast)) (State.step_starts up (by decide))
      · next full => exact exec_ends ((e12 at12).trans (if_neg full)) (State.step_starts up (by decide))
    case fast =>
      exact exec_ends (e13 at13) (State.step_starts_of_dev up s.releaseDie_starts.1 (by decide))
    case refresh =>
      split
      · next ok => exact exec_ends ((e14 at14).trans (if_pos ok)) (State.step_starts_of_dev up (s.set_dev ..) (by decide))
      · next bad => exact exec_ends ((e14 at14).trans (if_neg bad)) (State.fallBack_starts up)
    case channelsUp =>
      split
      · next ok => exact exec_ends ((e15 at15).trans (if_pos ok)) (State.step_starts_of_dev up (s.channelsUp_dev _) (by decide))
      · next bad => exact exec_ends ((e15 at15).trans (if_neg bad)) (State.fallBack_starts up)
    case fastMesh =>
      exact exec_ends ((e17 at17).trans (by rw [sound, List.map_nil])) (State.stepMesh_starts up (by decide))
    case held =>
      have small : n + 1 < 32 := by omega
      have sound : s.bringupStep r = s.stepKar [] [] [] (n + 1) := by
        obtain at10 | at18 := last
        · rw [e10 at10, at10]
          simp only [once, twice, engines, List.map_nil]
        · rw [e18 at18, at18]
          simp only [once, twice, engines, List.map_nil]
      exact ⟨_, exec_bringupStepComplete r sound, State.stepKar_held up blocks mangers small⟩
    case good =>
      exact ⟨_, exec_bringupStepComplete r ((e3 at3).trans (if_pos ok)), by simp only [State.step_, State.set_pins]⟩
    case cadence =>
      obtain ⟨-, period, gait, run⟩ := s.releaseDie_starts
      refine ⟨_, exec_bringupStepComplete r ((e4 at4).trans (if_pos ok)), ?_, ?_, ?_⟩
      · rw [State.step_get _ _ (by decide), period]
      · rw [State.step_get _ _ (by decide), gait]
      · rw [State.step_get _ _ (by decide), run]
    case zeroed =>
      obtain ⟨-, -, hbm, ready⟩ := State.stepHbm_starts up
      exact ⟨_, exec_bringupStepComplete r ((e5 at5).trans (by rw [sound, List.map_nil])), hbm, ready⟩
    case ddr =>
      obtain ⟨-, -, ddr⟩ := State.stepDdr_starts up (r.badChannels.map Fin.val)
      exact ⟨_, exec_bringupStepComplete r (e6 at6), ddr⟩
  case restart =>
    have down := State.farrierRestart_down awake
    exact ⟨_, rfl, down.awake, down.sessions, down.collections, down.mailbox, down.blocks, down.regions, down.dev, down.dispatch, down.cad, down.hbm,
      down.ddr, down.held⟩
  case done =>
    obtain ⟨⟨n, m, fuses, far, e⟩, awake, rom, next⟩ := s.farrierBoot_booted
    exact ⟨_, exec_eq rfl (State.farrierRestartDone_boots asleep on past), awake, next, rom, by rw [e], by rw [e], by rw [e], by rw [e]⟩

end Sys2Proof.Machine
end

section
/-! O2, O3: the nanosecond of an empty queue, and what every command leaves alone. -/

namespace Sys2Proof.Machine

/-- How many ns a step of an empty queue counts, with `f` millionths gathered (R52). -/
def tickNs (f : Int) : Nat := if 1000000 ≤ f then 2 else if f ≤ -1000000 then 0 else 1

/-- The millionths that stay gathered after such a step (R52). -/
def tickFrac (f : Int) : Int := if 1000000 ≤ f then f - 1000000 else if f ≤ -1000000 then f + 1000000 else f

/-- No millionth is lost: what a step counts and what it keeps gathered make up its ns and what was gathered before. -/
theorem tickNs_add_tickFrac (f : Int) : (tickNs f : Int) * 1000000 + tickFrac f = 1000000 + f := by
  unfold tickNs tickFrac
  split
  · omega
  · split <;> omega

/-- The state one step of the timebase later, before the coolant watch. -/
def State.nsLater (s : State) : State :=
  let f := s.cad.frac + s.cad.rate
  { s with now := s.now + tickNs f, cad := { s.cad with frac := tickFrac f } }

/-- A step of the timebase is the count of its ns and the coolant watch. -/
theorem State.tick_eq (s : State) : s.tick = s.nsLater.coolantWatch := rfl

/-- The coolant watch changes the Farrier and the records alone (R464). -/
theorem State.coolantWatch_eq (s : State) :
    ∃ far ev co, s.coolantWatch = { s with far := far, ev := ev, evCoalesced := co } := by
  unfold State.coolantWatch
  dsimp only
  split
  · obtain ⟨ev, co, e⟩ := State.raise_eq
      (s.onFar fun f => { f with coolLost := true, sensAt := mset natZero f.sensAt 132 0 }) 6 0
      { code := 0xBA, outcome := 4, detail := 132, detail2 := 0 % 2 ^ 32 }
    exact ⟨_, ev, co, e⟩
  · exact ⟨_, _, _, rfl⟩

/-- With the sensors not read there is no reading to run out (R464). -/
theorem State.coolantWatch_unread {s : State} (unread : s.far.reading = false) : s.coolantWatch = s :=
  if_neg (by simp [unread])

/-- Settles O2: the ns and the gathered millionths by the correction's three cases, and the rest by what the coolant watch changes. -/
theorem idleStepIsOneNanosecond : Obligations.IdleStepIsOneNanosecond := by
  unfold Obligations.IdleStepIsOneNanosecond
  intro s empty f
  have step : Sys2Proof.Machine.step s = .next s.tick := by
    unfold Sys2Proof.Machine.step
    rw [empty]
  obtain ⟨far, ev, co, e⟩ := s.nsLater.coolantWatch_eq
  rw [← State.tick_eq] at e
  refine ⟨s.tick, tickNs f, tickFrac f, step, by rw [e]; rfl, by rw [e]; rfl, by rw [e]; exact empty, by rw [e]; rfl, by rw [e]; rfl,
    by rw [e]; rfl, by rw [e]; rfl, tickNs_add_tickFrac f, ?_, ?_, ?_, ?_⟩
  · intro small big
    rw [tickNs, if_neg (by omega), if_neg (by omega)]
  · exact fun gained => if_pos gained
  · intro lost
    rw [tickNs, if_neg (by omega), if_pos lost]
  · intro unread
    have still : s.nsLater.coolantWatch = s.nsLater := State.coolantWatch_unread unread
    rw [State.tick_eq, still]
    rfl

/-- Settles O3: every command runs, and keeps the queue, the time and the free values with the rest of `Keeps`. -/
theorem everyCommandRuns : Obligations.EveryCommandRuns := by
  unfold Obligations.EveryCommandRuns
  intro c s
  obtain ⟨t, ran, keeps⟩ := exec_keeps c s
  exact ⟨t, ran, keeps.pending, keeps.now, keeps.free⟩

end Sys2Proof.Machine
end

section
/-! SUPPORT. What several steps on one block, one after another, make of it: the rules by which a command's steps add up. -/

namespace Sys2Proof.Machine

/-- From `s` to `t` block `p` alone has changed (R412): it has become `b`, but for the records that it sent up the Halter. -/
def State.BlockIs (s : State) (p : Nat) (b : Block) (t : State) : Prop :=
  s.OnlyBlock p t ∧ ∃ ev co, t.block p = { b with ev := ev, coalesced := co }

/-- Nothing changed. -/
theorem State.OnlyBlock.refl (s : State) (p : Nat) : s.OnlyBlock p s :=
  ⟨fun _ _ => rfl, fun _ _ => rfl, ⟨_, rfl⟩, fun _ _ => rfl, ⟨_, _, _, _, _, _, rfl⟩⟩

/-- Changes of one block one after another. -/
theorem State.OnlyBlock.trans {p : Nat} {s t u : State} (h : s.OnlyBlock p t) (k : t.OnlyBlock p u) : s.OnlyBlock p u where
  others q hq := (k.others q hq).trans (h.others q hq)
  regions r hr := (k.regions r hr).trans (h.regions r hr)
  home := by
    obtain ⟨ev, e⟩ := h.home
    obtain ⟨ev', e'⟩ := k.home
    exact ⟨ev', by rw [e', e]⟩
  words a ha := (k.words a ha).trans (h.words a ha)
  rest := by
    obtain ⟨_, _, _, _, _, _, e⟩ := h.rest
    obtain ⟨bl, re, m, ev, co, n, e'⟩ := k.rest
    exact ⟨bl, re, m, ev, co, n, by rw [e', e]⟩

/-- A block replaced. -/
theorem State.setBlock_only (s : State) (p : Nat) (b : Block) : s.OnlyBlock p (s.setBlock p b) :=
  ⟨fun _ h => s.block_setBlock_ne b h, fun _ _ => rfl, ⟨_, rfl⟩, fun _ _ => rfl, ⟨_, _, _, _, _, _, rfl⟩⟩

/-- A change of one block leaves the state's other words, and with them its fields, alone. -/
theorem State.OnlyBlock.get {p : Nat} {s t : State} (h : s.OnlyBlock p t) {f : Fld} (hf : f.off ≠ TST_CHP_TRANSIENT.off) :
    t.get f = s.get f := by
  rw [State.get, State.get, Regs.get, Regs.get, h.words _ hf]

/-- Nothing changed. -/
theorem State.BlockIs.refl (s : State) (p : Nat) : s.BlockIs p (s.block p) s := ⟨.refl s p, _, _, rfl⟩

section
variable {s t : State} {p : Nat} {b : Block} (h : s.BlockIs p b t)
include h

/-- A step of the block, where it makes `b'` of `b` whatever the records. -/
theorem State.BlockIs.onBlock {b' : Block} {f : Block → Env → Block}
    (hf : ∀ ev co, ∃ ev' co', f { b with ev := ev, coalesced := co } (t.env p) = { b' with ev := ev', coalesced := co' }) :
    s.BlockIs p b' (t.onBlock p f) := by
  obtain ⟨only, ev, co, e⟩ := h
  obtain ⟨ev1, co1, e1⟩ := t.onBlock_block_same p f
  obtain ⟨ev2, co2, e2⟩ := hf ev co
  exact ⟨only.trans (t.onBlock_only p f), ev1, co1, by rw [e1, e, e2]⟩

/-- A step of the block's router. -/
theorem State.BlockIs.onRouter (g : Router → Router) :
    s.BlockIs p { b with router := g b.router } (t.onBlock p fun b _ => b.onRouter g) :=
  h.onBlock fun _ _ => ⟨_, _, rfl⟩

/-- A counter of the block. -/
theorem State.BlockIs.count (f : Fld) (n : Nat) : s.BlockIs p (b.count f n) (t.onBlock p fun b _ => b.count f n) :=
  h.onBlock fun _ _ => ⟨_, _, rfl⟩

/-- The block replaced by what a function makes of it, whatever the records. -/
theorem State.BlockIs.setBlock {b' : Block} {f : Block → Block}
    (hf : ∀ ev co, ∃ ev' co', f { b with ev := ev, coalesced := co } = { b' with ev := ev', coalesced := co' }) :
    s.BlockIs p b' (t.setBlock p (f (t.block p))) := by
  obtain ⟨only, ev, co, e⟩ := h
  obtain ⟨ev2, co2, e2⟩ := hf ev co
  exact ⟨only.trans (t.setBlock_only p _), ev2, co2, by rw [State.block_setBlock_same, e, e2]⟩

/-- What the module becomes, where the block's registers differ from the old ones at `regs` alone. -/
theorem State.BlockIs.becomes {regs : List Nat} (hr : ∀ a, a ∉ regs → b.word a = (s.block p).word a) :
    s.BlockBecomes p regs b t := by
  obtain ⟨only, ev, co, e⟩ := h
  exact ⟨only, ⟨b.regs, ev, co, e⟩, fun a ha => by rw [e]; exact hr a ha⟩

/-- A field of the block. -/
theorem State.BlockIs.get (f : Fld) : (t.block p).get f = b.get f := by
  obtain ⟨-, ev, co, e⟩ := h
  rw [e]
  rfl

end

end Sys2Proof.Machine
end

section
/-! O31: what leaves a router by its local port. -/

namespace Sys2Proof.Machine

section
variable {s t : State} {p : Nat} {b : Block}

/-- The local port sets no congestion mark (R200). -/
theorem State.switch_local (s : State) (p : Nat) (k : Pkt) : s.switch p 4 k = s.pass p 4 k := by
  have unmarked : s.mark p 4 k = (s, k) := by
    unfold State.mark
    exact if_neg fun h => h.1 rfl
  rw [State.switch, unmarked]

/-- Block `b` once packet `k` has crossed its router to it (R179): the router counts the flits, and the block has the packet. -/
def Block.handed (b : Block) (k : Pkt) : Block :=
  { b.count MSH_FLITS.count k.flits with mesh := { b.mesh with arrived := b.mesh.arrived ++ [k] } }

/-- The taps of a block depend on the screening and the stride alone. -/
theorem State.OnlyBlock.taps (h : s.OnlyBlock p t) (q : Nat) : t.taps q = s.taps q := by
  have stride : t.get CAD_STRIDE.stride = s.get CAD_STRIDE.stride := h.get (by decide)
  obtain ⟨_, _, _, _, _, _, e⟩ := h.rest
  have screen : t.screen = s.screen := by rw [e]
  rw [State.taps, State.taps, stride, screen]

/-- A packet that no tap follows reaches the block by its local port (R179, R318). -/
theorem State.BlockIs.switch_local (h : s.BlockIs p b t) (hp : p < 1280) (untapped : s.taps p = []) (k : Pkt) :
    s.BlockIs p (b.handed k) (t.switch p 4 k) := by
  have counted : s.BlockIs p (b.count MSH_FLITS.count k.flits) (t.onBlock p fun b _ => b.count MSH_FLITS.count k.flits) := h.count _ _
  have passed : t.switch p 4 k = (t.onBlock p fun b _ => b.count MSH_FLITS.count k.flits).setBlock p
      (let b := (t.onBlock p fun b _ => b.count MSH_FLITS.count k.flits).block p
       { b with mesh := { b.mesh with arrived := b.mesh.arrived ++ [k] } }) := by
    rw [State.switch_local, State.pass, if_pos rfl, counted.1.taps, untapped, List.foldl_cons, List.foldl_nil, State.setUnit, State.unit,
      if_pos hp, if_pos hp]
  rw [passed]
  exact counted.setBlock (f := fun b => { b with mesh := { b.mesh with arrived := b.mesh.arrived ++ [k] } }) fun _ _ => ⟨_, _, rfl⟩

/-- The next gait-table entry in turn (R36). -/
theorem State.BlockIs.gaitNext (h : s.BlockIs p b t) :
    s.BlockIs p { b with router := { b.router with gaitPos := b.router.gaitPos + 1, gaitGot := 0 } } (t.gaitNext p) := h.onRouter _

/-- Flits of the entry in turn served (R36, R277). -/
theorem State.BlockIs.gaitServed (h : s.BlockIs p b t) (g : GaitEntry) (n : Nat) :
    let got := b.router.gaitGot + n
    s.BlockIs p { b with router := { b.router with
      gaitPos := if g.count ≤ got then b.router.gaitPos + 1 else b.router.gaitPos, gaitGot := if g.count ≤ got then 0 else got } }
      (t.gaitServed p g n) := by
  have served : (t.block p).router.gaitGot = b.router.gaitGot := by
    obtain ⟨-, ev, co, e⟩ := h
    rw [e]
  dsimp only
  unfold State.gaitServed
  rw [served]
  dsimp only
  split
  · exact h.gaitNext
  · exact h.onRouter _

/-- A packet taken out of its input buffer. -/
theorem State.BlockIs.unbuf (h : s.BlockIs p b t) (i : InBuf) :
    s.BlockIs p { b with router := { b.router with buf := b.router.buf.erase i } } (t.unbuf p i) :=
  h.setBlock (f := fun b => b.onRouter fun r => { r with buf := r.buf.erase i }) fun _ _ => ⟨_, _, rfl⟩

/-- What a packet that has left by the local port shows: its flits count, and no other register changes. -/
theorem State.BlockIs.landed {r : Router} {k : Pkt} (h : s.BlockIs p { (s.block p).handed k with router := r } t) :
    (t.block p).get MSH_FLITS.count = min MSH_FLITS.count.top ((s.block p).get MSH_FLITS.count + k.flits) ∧
      s.BlockBecomes p [MSH_FLITS.off]
        { s.block p with router := r, mesh := { (s.block p).mesh with arrived := (s.block p).mesh.arrived ++ [k] } } t := by
  refine ⟨(h.get _).trans ((s.block p).get_count_same (by decide) _), ?_⟩
  have words : ∀ a, a ∉ [MSH_FLITS.off] → ((s.block p).count MSH_FLITS.count k.flits).word a = (s.block p).word a :=
    fun a ha => Block.word_set_ne _ _ _ fun e => ha (by simp [e]; rfl)
  obtain ⟨only, ⟨m, ev, co, e⟩, same⟩ := h.becomes words
  exact ⟨only, ⟨m, ev, co, e⟩, same⟩

end

/-- A merge entry stays until its count has met and its output can take it (R206, R207). -/
theorem State.mergeLeave_stays {s : State} {p i : Nat} {e : MergeEntry} (normal : (s.block p).get MSH_CTL.mode = 0)
    (he : (s.block p).router.merge[i]? = some e) (wait : e.have_ < e.want ∨ s.clear p e.out e.pkt = false) : s.mergeLeave p i = s := by
  unfold State.mergeLeave
  simp only [he, normal]
  split
  · rfl
  · next met =>
    rw [if_neg (by simp), if_pos (by simp [wait.resolve_left met])]

/-- A merge entry whose count has met leaves by the local port (R206, R207): after a scheduled one the next gait entry is in turn. -/
theorem State.mergeLeave_leaves {s : State} {p i : Nat} (hp : p < 1280) {e : MergeEntry} (normal : (s.block p).get MSH_CTL.mode = 0)
    (untapped : s.taps p = []) (he : (s.block p).router.merge[i]? = some e) (met : e.want ≤ e.have_) (out : e.out = 4)
    (free : s.clear p 4 e.pkt = true) :
    let r := (s.block p).router
    s.BlockIs p { (s.block p).handed e.pkt with
      router := { r with
        merge := r.merge.erase e, gaitPos := if e.want = 0 then r.gaitPos else r.gaitPos + 1,
        gaitGot := if e.want = 0 then r.gaitGot else 0 } } (s.mergeLeave p i) := by
  have switched := (State.BlockIs.refl s p).switch_local hp untapped e.pkt
  have gone := switched.onRouter fun r => { r with merge := r.merge.erase e }
  unfold State.mergeLeave
  simp only [he, normal, out, free, Nat.not_lt.mpr met, if_false, ne_eq, not_true, and_false, Bool.not_true, Bool.false_eq_true]
  split
  · exact gone
  · exact gone.gaitNext

/-- A stored multicast copy goes to the local port, and is freed with its last output (R204). -/
theorem State.branchSend_sends {s : State} {p vc : Nat} (hp : p < 1280) {e : ReplEntry} (normal : (s.block p).get MSH_CTL.mode = 0)
    (untapped : s.taps p = []) (he : ((s.block p).router.repl.find? fun e => e.pkt.vc == vc && e.outs.contains 4) = some e)
    (free : s.room p 4 e.pkt = true) :
    let r := (s.block p).router
    s.BlockIs p { (s.block p).handed e.pkt with
      router := { r with
        repl := (r.repl.map fun x => if x == e then { e with outs := e.outs.filter (· != 4) } else x).filter fun x => !x.outs.isEmpty } }
      (s.branchSend p vc 4) := by
  have switched := (State.BlockIs.refl s p).switch_local hp untapped e.pkt
  unfold State.branchSend
  simp only [he, normal, free, ne_eq, not_true, and_false, if_false, Bool.not_true, Bool.false_eq_true]
  exact switched.onRouter _

/-- A stored multicast copy waits for room (R204). -/
theorem State.branchSend_stays {s : State} {p vc : Nat} {e : ReplEntry} (normal : (s.block p).get MSH_CTL.mode = 0)
    (he : ((s.block p).router.repl.find? fun e => e.pkt.vc == vc && e.outs.contains 4) = some e) (full : s.room p 4 e.pkt = false) :
    s.branchSend p vc 4 = s := by
  unfold State.branchSend
  simp only [he, normal, full, ne_eq, not_true, and_false, if_false, Bool.not_false, if_true]

section
variable {s : State} {p : Nat} {g : GaitEntry} {i : InBuf}

/-- What a unicast entry in turn does with its packet in a router that is not in bypass (R36, R277). -/
theorem State.gaitServe_unicast (normal : (s.block p).get MSH_CTL.mode = 0) (collected : (s.block p).extended = false)
    (hg : (s.block p).router.gait[(s.block p).router.gaitPos]? = some g) (single : g.merge = false)
    (hi : ((s.block p).router.buf.find? fun i => i.port == g.inp && i.vc == g.vc && i.pkt.tag == formTag (s.block p).stride g.tag &&
      (if i.pkt.mcast then (treeOutputs p i.port i.pkt.targets).contains g.out && !i.gone.contains g.out
       else gaitOut p i.pkt == some g.out || gaitOut p i.pkt == none)) = some i) (unicast : i.pkt.mcast = false) :
    s.gaitServe p true =
      if i.refused then s.gaitNext p
      else if i.got < i.pkt.flits then s
      else match routeStep p i.pkt.path i.pkt.dest with
        | none => (s.discard66 p i).gaitServed p g i.pkt.flits
        | some (out, path) =>
          if !s.clear p out { i.pkt with path := path } then s
          else ((s.unbuf p i).switch p out { i.pkt with path := path }).gaitServed p g i.pkt.flits := by
  unfold State.gaitServe
  simp only [hg, hi, normal, collected, single, unicast]
  rfl

end

/-- Settles O31: each of the three commands by the equation that says when its packet stays, and by what a packet makes of the block that
leaves its router for it. -/
theorem routerEntriesLeave : Obligations.RouterEntriesLeave := by
  unfold Obligations.RouterEntriesLeave
  intro p s normal untapped b lands
  refine ⟨fun i e he => ⟨fun wait => congrArg _ (State.mergeLeave_stays normal he wait), fun met out free => ?merge⟩, fun g i collected hg single hi unicast => ?gait,
    fun vc e he => ⟨fun full => congrArg _ (State.branchSend_stays normal he full), fun free => ?branch⟩⟩
  case merge => exact ⟨_, rfl, (State.mergeLeave_leaves p.isLt normal untapped he met out free).landed⟩
  case branch => exact ⟨_, rfl, (State.branchSend_sends p.isLt normal untapped he free).landed⟩
  case gait =>
    have serve := State.gaitServe_unicast normal collected hg single hi unicast
    have start := State.BlockIs.refl s p
    refine ⟨fun refused => ?passed, fun whole short => ?awaited, fun whole came home dest => ?whole⟩
    case passed =>
      exact ⟨_, exec_eq rfl (serve.trans (if_pos refused)), start.gaitNext.becomes fun _ _ => rfl⟩
    case awaited =>
      exact congrArg _ (serve.trans ((if_neg (by simp [whole])).trans (if_pos short)))
    case whole =>
      have here : routeStep p i.pkt.path i.pkt.dest = some (4, 0) := by
        rw [routeStep, home, dest]
        exact (if_pos rfl).trans (if_pos rfl)
      rw [if_neg (by simp [whole]), if_neg (Nat.not_lt.mpr came), here] at serve
      refine ⟨fun full => congrArg _ (serve.trans (if_pos (Bool.not_eq_true' _ ▸ full))), fun free => ?_⟩
      refine ⟨_, exec_eq rfl (serve.trans (if_neg (by rw [Bool.not_eq_true', Bool.not_eq_false]; exact free))), ?_⟩
      exact ((((start.unbuf i).switch_local p.isLt untapped { i.pkt with path := 0 }).gaitServed g i.pkt.flits)).landed

end Sys2Proof.Machine
end

section
/-! O50: the beat of a swap after a stumble whose region is none of the sixteen. -/

namespace Sys2Proof.Machine

/-- An image with nothing in it. -/
def Img.empty : Img := ⟨0, [], []⟩

/-- A module in Ready at stride 255 with one block in service, which swaps to an empty image: the beat was due at tick 0 and its load ended
at tick 1. Its last region to acknowledge is number 8,180, where CAD_RGN_STUMBLE has 16 counters: the place of counter 8,180
(0x100020010080 + 8 × 8180) is that of CHP_IMG_SEQ. -/
def State.strayRegion : State :=
  let s : State := { State.reset with
    dev := dReady, now := 1, rmt := [(0, { state := 0 })], cad := { lastRegion := 8180 },
    images := { staged := some Img.empty, swapTick := some 1 } }
  (s.set CAD_CTL.run 1).set CAD_STRIDE.stride 255

/-- That module once its late beat 256 has left the root. -/
def State.strayed : State :=
  (((((State.strayRegion.heldBeat 256).launchBegin 256).checkpointSteady 256).issue 256).stumble 1)

/-- Saddlebags whose time has run out: blocks and regions alone change (R338). -/
theorem State.saddleExpire_eq (s : State) :
    ∃ (bl : Cells Block) (re : Cells Region), s.saddleExpire = { s with blocks := bl, regions := re } := by
  unfold State.saddleExpire
  refine List.foldlRecOn (motive := fun (u : State) => ∃ (bl : Cells Block) (re : Cells Region), u = { s with blocks := bl, regions := re })
    s.inService _ ⟨s.blocks, s.regions, rfl⟩ ?_
  rintro u ⟨bl, re, rfl⟩ p -
  dsimp only
  split
  · split
    · unfold State.setSaddle
      dsimp only
      split <;> exact ⟨_, _, rfl⟩
    · exact ⟨_, _, rfl⟩
  · exact ⟨_, _, rfl⟩

section
variable {s : State} (unsynced : s.get CAD_SYNC_CTL.enable = 0) (noJob : s.dispatch.job = none) (noSwaps : s.screen.plans = [])
  (noUpdate : s.far.activating = none) (scheduled : s.get CAD_CTL.phase = 0) (alone : s.twin.rejoinAt = none)
include unsynced noJob noSwaps noUpdate scheduled alone

/-- What a checkpoint stride does besides where nothing waits for it: the floor of recovery moves, and blocks and regions may. -/
theorem State.checkpointWork_idle (n : Nat) : ∃ v bl re d,
    s.checkpointWork n = { s.set CHP_RCV_FLOOR.stride v with blocks := bl, regions := re, dispatch := d } := by
  obtain ⟨bl, re, e⟩ := s.saddleExpire_eq
  have missed : ({ s with blocks := bl, regions := re } : State).missedSync = { s with blocks := bl, regions := re } := if_pos (.inl unsynced)
  have late : ({ s with blocks := bl, regions := re } : State).activateAt n = { s with blocks := bl, regions := re } := by
    simp only [State.activateAt, noUpdate]
  unfold State.checkpointWork
  rw [e, missed, late]
  extract_lets t0 floor d u1 u2 u3 r u4
  have idle : u2 = u1 := if_neg (by simp only [u1, d, t0, State.jobRuns, State.setDispatch, noJob]; decide)
  have steady : u3 = u1 := by
    rw [← idle]
    exact if_pos (by simp only [idle, u1, State.setDispatch, State.set_screen, t0, noSwaps]; rfl)
  have phase : u1.get CAD_CTL.phase = 0 := (State.get_set_apart _ (by decide) (by decide) (by decide) _).trans scheduled
  have replayed : u4 = u1 := by
    rw [← steady]
    exact if_neg fun h => by
      rw [steady, phase] at h
      exact absurd h.1 (by decide)
  have apart : u4.twin.rejoinAt = none := by rw [replayed]; exact alone
  rw [apart, replayed]
  exact ⟨floor, bl, re, _, rfl⟩

end

/-- A late beat at a checkpoint stride in Scheduled phase: the stumble is counted before the checkpoint stride's work (R38, R42). -/
theorem State.beatIssue_late {s : State} {n late : Nat} (idle : s.rcv.active = false) (ready : s.beatReady = true) (next : s.nextStride = n)
    (checkpoint : n % 256 = 0) (scheduled : s.get CAD_CTL.phase = 0) (up : s.dev ≠ dRecovering) (after : s.lateness = late) (overdue : late ≠ 0) :
    s.beatIssue = ((((((s.heldBeat n).launchBegin n).checkpointSteady n).issue n).stumble late).checkpointWork n).flip.slewTicks := by
  unfold State.beatIssue
  simp [idle, ready, next, checkpoint, scheduled, up, after, overdue]

/-- Where no flip beat is due and the module does not run, the beat ends with the checkpoint stride's work. -/
theorem State.flip_slewTicks {s : State} (noFlip : s.cad.flipBeat = false) (stopped : s.dev ≠ dRunning) : s.flip.slewTicks = s := by
  have flat : s.flip = s := if_pos (by rw [noFlip]; rfl)
  rw [flat]
  exact if_pos stopped

/-- The checkpoint stride's work leaves the running image's sequence number alone. -/
theorem State.sequence_of_checkpointWork {w : State} {n : Nat} (unsynced : w.get CAD_SYNC_CTL.enable = 0) (noJob : w.dispatch.job = none)
    (noSwaps : w.screen.plans = []) (noUpdate : w.far.activating = none) (scheduled : w.get CAD_CTL.phase = 0)
    (alone : w.twin.rejoinAt = none) (noFlip : w.cad.flipBeat = false) (stopped : w.dev ≠ dRunning) :
    (w.checkpointWork n).flip.slewTicks.get CHP_IMG_SEQ.sequence = w.get CHP_IMG_SEQ.sequence := by
  obtain ⟨v, bl, re, d, e⟩ := State.checkpointWork_idle unsynced noJob noSwaps noUpdate scheduled alone n
  rw [e, State.flip_slewTicks (by exact noFlip) (by exact stopped)]
  exact State.get_set_apart _ (by decide) (by decide) (by decide) _

/-- The late beat is ready. -/
theorem State.strayRegion_ready : State.strayRegion.beatReady = true := by decide +kernel

/-- The empty image installs. -/
theorem State.strayRegion_installs :
    (State.strayRegion.installImage Img.empty (State.strayRegion.place Img.empty fun _ => 0).2).1 = none := by decide +kernel

/-- What the beat goes by: no recovery, stride 256 next, Scheduled phase, Ready, late by 1 ns. -/
theorem State.strayRegion_beat : let s := State.strayRegion
    s.rcv.active = false ∧ s.nextStride = 256 ∧ s.get CAD_CTL.phase = 0 ∧ s.dev ≠ dRecovering ∧ s.lateness = 1 := by decide +kernel

/-- Once the beat has left the root nothing waits for the checkpoint stride, and the stumble has counted in CHP_IMG_SEQ. -/
theorem State.strayed_still : let w := State.strayed
    w.get CAD_SYNC_CTL.enable = 0 ∧ w.dispatch.job = none ∧ w.screen.plans = [] ∧ w.far.activating = none ∧ w.get CAD_CTL.phase = 0 ∧
      w.twin.rejoinAt = none ∧ w.cad.flipBeat = false ∧ w.dev ≠ dRunning ∧ w.get CHP_IMG_SEQ.sequence = 1 := by decide +kernel

/-- After the beat CHP_IMG_SEQ shows 1, where the image's own number is 0. -/
theorem State.strayRegion_sequence : State.strayRegion.beatIssue.get CHP_IMG_SEQ.sequence = 1 := by
  obtain ⟨idle, next, steady, up, after⟩ := State.strayRegion_beat
  obtain ⟨unsynced, noJob, noSwaps, noUpdate, scheduled, alone, noFlip, stopped, sequence⟩ := State.strayed_still
  rw [State.beatIssue_late idle State.strayRegion_ready next (by decide) steady up after (by decide)]
  exact (State.sequence_of_checkpointWork unsynced noJob noSwaps noUpdate scheduled alone noFlip stopped).trans sequence

/-- Refutes O50: the region that acknowledged last may have any number in the state, and a stumble counts at the place that it gives. Of a
swap's late beat with that number 8,180 the count falls in CHP_IMG_SEQ, which shows 1 and not the sequence number 0 of the image. -/
theorem not_beatsAndAcknowledgements : ¬ Obligations.BeatsAndAcknowledgements := by
  unfold Obligations.BeatsAndAcknowledgements
  rintro ⟨beats, -⟩
  obtain ⟨-, -, swap⟩ := beats State.strayRegion rfl
  obtain ⟨t, issued, -, -, -, -, -, -, sequence, -⟩ := swap Img.empty 1 State.strayRegion_ready rfl (by decide) rfl rfl
    State.strayRegion_installs rfl rfl (by decide) rfl rfl rfl
  have same : State.strayRegion.beatIssue = t := Host.Outcome.next.inj issued
  rw [← same, State.strayRegion_sequence] at sequence
  exact absurd sequence (by decide)

end Sys2Proof.Machine
end

section
/-! O26: combining queues. -/

namespace Sys2Proof.Machine

/-! A command that drains a block's records and counts in a chip register. -/

/-- The state with another count of free values drawn. -/
def State.drawn (s : State) (n : Nat) : State := { s with freeCtr := n }

/-- The records that a block drains do not go by the free values drawn. -/
theorem State.drainEv_drawn (s : State) (n p : Nat) : (s.drawn n).drainEv p = (s.drainEv p).drawn n := by
  unfold State.drainEv
  rfl

/-- Free values drawn are no block's. -/
theorem State.OnlyBlock.drawn {s t : State} {p : Nat} (h : s.OnlyBlock p t) (n : Nat) : s.OnlyBlock p (t.drawn n) where
  others := h.others
  regions := h.regions
  home := h.home
  words := h.words
  rest := by
    obtain ⟨bl, re, m, ev, co, c, e⟩ := h.rest
    exact ⟨bl, re, m, ev, co, n, by rw [e]; rfl⟩

/-- A block replaced, and its records drained (R412): as a step of the block, but that it draws no free value. -/
theorem State.BlockIs.drained (s : State) (p : Nat) (b : Block) : s.BlockIs p b ((s.setBlock p b).drainEv p) := by
  have drawn : s.onBlock p (fun _ _ => b) = ((s.setBlock p b).drainEv p).drawn (s.freeCtr + 1) :=
    (s.setBlock p b).drainEv_drawn (s.freeCtr + 1) p
  obtain ⟨only, ev, co, block⟩ := (State.BlockIs.refl s p).onBlock (f := fun _ _ => b) (b' := b) fun _ _ => ⟨_, _, rfl⟩
  rw [drawn] at only block
  generalize (s.setBlock p b).drainEv p = t at only block
  exact ⟨only.drawn t.freeCtr, ev, co, block⟩

/-- A count in a chip register leaves the blocks alone. -/
theorem State.block_count (s : State) (f : Fld) (n p : Nat) : (s.count f n).block p = s.block p := rfl

/-- A count in a chip register besides. -/
theorem State.OnlyBlock.count {p : Nat} {s t : State} (h : s.OnlyBlock p t) (f : Fld) (n : Nat) : s.OnlyBlockAnd p [f.off] (t.count f n) where
  others := h.others
  regions := h.regions
  home := h.home
  words a ha hf := (Regs.word_set_ne _ _ _ _ (by simpa using hf)).trans (h.words a ha)
  rest := by
    obtain ⟨bl, re, m, ev, co, c, e⟩ := h.rest
    exact ⟨bl, re, _, ev, co, c, by rw [e]; rfl⟩

/-! Faults of the dataflow (R170). -/

/-- The fault that ends a job is in no register. -/
theorem Block.get_jobFault (b : Block) (j : Option (Nat × Nat)) (f : Fld) : { b with jobFault := j }.get f = b.get f := rfl

/-- What a dataflow fault changes, and what the fault and status registers show. -/
theorem Block.dataflowFault_eq (b : Block) (env : Env) {code : Nat} (small : code < 256) (node queue tag : Nat) :
    ∃ m ev co, b.dataflowFault env code node queue tag =
        { b with regs := m, ev := ev, coalesced := co, jobFault := b.jobFault <|> some (11, code) } ∧
      (b.dataflowFault env code node queue tag).get BLK_DF_FAULT.code = code ∧
      (b.dataflowFault env code node queue tag).get BLK_DF_STATUS.state = 5 := by
  unfold Block.dataflowFault
  extract_lets b1 b2 b3
  have code1 : b1.get BLK_DF_FAULT.code = code := by
    simp (disch := decide) only [b1, Block.get_set_apart, Block.get_set_same]
    exact Nat.mod_eq_of_lt small
  have code2 : b2.get BLK_DF_FAULT.code = code := by rw [Block.get_set_apart _ (by decide) (by decide) (by decide), code1]
  have state2 : b2.get BLK_DF_STATUS.state = 5 := Block.get_set_same _ (by decide) _
  have code3 : b3.get BLK_DF_FAULT.code = code := by rw [Block.note_get _ _ _ _ (by decide) (by decide), code2]
  have state3 : b3.get BLK_DF_STATUS.state = 5 := by rw [Block.note_get _ _ _ _ (by decide) (by decide), state2]
  obtain ⟨m, ev, co, e⟩ := b2.note_eq env { cell := 16, code := code, tag := tag, outcome := 3, detail := queue }
  rw [Block.get_jobFault, Block.get_jobFault]
  refine ⟨m, ev, co, ?_, code3, state3⟩
  rw [show b3 = _ from e]
  rfl

/-! A contribution to a combining queue (R167, R168). -/

/-- What a slot holds after a contribution: the first as it stands, or rounded to the anchored form; a later one added. -/
def cqSum (anchored : Bool) (old : Option CqSlot) (held bytes : List Byte) : List Byte :=
  match old, anchored with
  | none, true => Ap.rowBytes (Ap.rowOfBytes 64 bytes)
  | none, false => bytes
  | some _, true => Ap.rowBytes (Ap.addRow (Ap.rowOfBytes 64 held) (Ap.rowOfBytes 64 bytes))
  | some _, false => looseRow held bytes

/-- What opens a slot, by the queue's mode. -/
theorem cqSum_first (mode : Nat) (held bytes : List Byte) :
    cqSum (mode == 0) none held bytes = if mode = 0 then Ap.rowBytes (Ap.rowOfBytes 64 bytes) else bytes := by
  cases mode <;> rfl

/-- The contributions that an open slot has. -/
def cqCount (old : Option CqSlot) : Nat := (old.map CqSlot.count).getD 0

section
variable {b : Block} {env : Env} {c key parts : Nat} {bytes : List Byte}

/-- The slot of a key in a queue, where it is open. -/
def Block.openSlot (b : Block) (c key : Nat) : Option CqSlot := b.cqs.find? fun x => x.cq == c && x.slot == b.cqSlotOf c key

/-- A queue that is off, or a contribution of the wrong size (R170). -/
theorem Block.contribute_misfit (h : b.get (BLK_CQ_CFG.enable c) = 0 ∨ ceilDiv bytes.length 64 ≠ b.cqLines c) :
    b.contribute env c key parts bytes false = (b.dataflowFault env 0x44 0 (0xF0 + c) key, 0) := if_pos h

variable (fits : ¬ (b.get (BLK_CQ_CFG.enable c) = 0 ∨ ceilDiv bytes.length 64 ≠ b.cqLines c))
include fits

/-- A slot that another key holds (R170). -/
theorem Block.contribute_taken {x : CqSlot} (old : b.openSlot c key = some x) (other : x.key ≠ key) :
    b.contribute env c key parts bytes false = (b.dataflowFault env 0x42 0 (0xF0 + c) key, 0) := by
  unfold Block.openSlot at old
  unfold Block.contribute
  simp only [old]
  rw [if_neg fits, if_pos (by simpa using other)]

/-- A contribution beyond the slot's count (R170). -/
theorem Block.contribute_beyond {old : Option CqSlot} (hold : b.openSlot c key = old) (own : ∀ x ∈ old, x.key = key)
    (beyond : b.get (BLK_CQ_FWD.count c) < cqCount old + parts) :
    b.contribute env c key parts bytes false = (b.dataflowFault env 0x43 0 (0xF0 + c) key, 0) := by
  unfold Block.openSlot at hold
  unfold Block.contribute
  simp only [hold]
  cases old with
  | none => rw [if_neg fits, if_neg (by simp)]; exact if_pos beyond
  | some x => rw [if_neg fits, if_neg (by simp [own x rfl])]; exact if_pos beyond

omit fits in
/-- The count of open slots, and the most of them so far, are registers (R167). -/
theorem Block.opened_eq (b : Block) (c n : Nat) : ∃ m,
    (if (b.set (BLK_CQ_STATE.openS c) n).get (BLK_CQ_STATE.peak c) < n then (b.set (BLK_CQ_STATE.openS c) n).set (BLK_CQ_STATE.peak c) n
      else b.set (BLK_CQ_STATE.openS c) n) = { b with regs := m } := by
  split <;> exact ⟨_, rfl⟩

/-- A contribution that opens its slot or is added to it (R168): it counts, and a loose sum is reported (R49). -/
theorem Block.contribute_sums (empty : b.gather = []) {old : Option CqSlot} (hold : b.openSlot c key = old) (own : ∀ x ∈ old, x.key = key)
    (room : cqCount old + parts ≤ b.get (BLK_CQ_FWD.count c)) :
    let slot := b.cqSlotOf c key
    let addrs := b.cqAddrs c slot
    let anchored := b.get (BLK_CQ_CFG.mode c) == 0
    ∃ m, b.contribute env c key parts bytes false =
      ({ b with
          regs := m, spad := b.spad.putLines (lineWrites addrs (cqSum anchored old (addrs.flatMap fun a => b.spad.bytes a 64) bytes)),
          cqs := (b.cqs.filter fun y => !(y.cq == c && y.slot == slot)) ++ [⟨c, slot, key, cqCount old + parts, false⟩] },
        if old.isSome && !anchored then 1 else 0) := by
  dsimp only
  unfold Block.openSlot at hold
  unfold Block.contribute
  simp only [hold, Block.readLines_of_empty empty, Block.writeLines_of_empty empty]
  rw [if_neg fits]
  cases old with
  | none =>
    rw [if_neg (by simp), if_neg (Nat.not_lt.mpr (by exact room)), if_neg (by simp)]
    cases b.get (BLK_CQ_CFG.mode c) == 0 <;> exact (Block.opened_eq _ c _).imp fun _ e => Prod.ext e rfl
  | some x =>
    rw [if_neg (by simp [own x rfl]), if_neg (Nat.not_lt.mpr (by exact room)), if_neg (by simp)]
    cases b.get (BLK_CQ_CFG.mode c) == 0 <;> exact (Block.opened_eq _ c _).imp fun _ e => Prod.ext e rfl

end

/-- Block `b` once the first packet of its inbox is taken. -/
def Block.took (b : Block) (rest : List Pkt) : Block := { b with mesh := { b.mesh with inbox := rest } }

/-- How many contributions a packet stands for (R168). -/
def Pkt.contributions (k : Pkt) : Nat := if k.kind = kREDUCE then k.parts else 1

section
variable {s : State} {p c : Nat} {k : Pkt} {rest : List Pkt} (runs : (s.block p).halted = false) (first : (s.block p).mesh.inbox = k :: rest)
  (kind : k.kind = kREDUCE ∨ k.kind = kTOKEN) (queue : k.qid = 240 + c)
include runs first kind queue

/-- The first packet of the inbox, a contribution, goes to its queue, and a loose sum counts (R49). -/
theorem State.cqContribute_first {b : Block} {n : Nat}
    (out : ((s.block p).took rest).contribute (s.env p) c k.tag k.contributions k.payload false = (b, n)) :
    s.cqContribute p false = ((s.setBlock p b).drainEv p).count CAD_LOOSE_COUNT.count n := by
  have mine : isContribution k = true := by
    rw [isContribution, queue]
    rcases kind with e | e <;> simp [e]
  have number : k.qid - 240 = c := by omega
  have done : (s.block p).doContribute (s.env p) false = (b, n) := by
    unfold Block.doContribute
    simp only [first, takeFirst, mine, if_true, number]
    exact out
  unfold State.cqContribute
  rw [done, runs]
  rfl

/-- A contribution that stops the dataflow with a fault (R170): it has left the inbox, and slots and scratchpad stand. -/
theorem State.cqContribute_stops {code : Nat} (small : code < 256) (out : ((s.block p).took rest).contribute (s.env p) c k.tag k.contributions k.payload false =
      (((s.block p).took rest).dataflowFault (s.env p) code 0 (0xF0 + c) k.tag, 0)) :
    let b := s.block p
    let u := s.cqContribute p false
    (u.block p).get BLK_DF_FAULT.code = code ∧ (u.block p).get BLK_DF_STATUS.state = 5 ∧
      (u.block p).jobFault = (b.jobFault <|> some (11, code)) ∧ (u.block p).spad = b.spad ∧ (u.block p).cqs = b.cqs ∧
      (u.block p).mesh.inbox = rest ∧ s.OnlyBlockAnd p [CAD_LOOSE_COUNT.off] u := by
  obtain ⟨m, ev, co, fault, faultCode, stopped⟩ := ((s.block p).took rest).dataflowFault_eq (s.env p) small 0 (0xF0 + c) k.tag
  dsimp only
  rw [State.cqContribute_first runs first kind queue out]
  generalize ((s.block p).took rest).dataflowFault (s.env p) code 0 (0xF0 + c) k.tag = f at fault faultCode stopped
  have is := State.BlockIs.drained s p f
  generalize (s.setBlock p f).drainEv p = t at is
  have only := is.1.count CAD_LOOSE_COUNT.count 0
  have codeHere := (is.get BLK_DF_FAULT.code).trans faultCode
  have stateHere := (is.get BLK_DF_STATUS.state).trans stopped
  obtain ⟨-, ev', co', e⟩ := is
  subst fault
  rw [State.block_count]
  refine ⟨codeHere, stateHere, ?_⟩
  rw [e]
  exact ⟨rfl, rfl, rfl, rfl, only⟩

/-- A contribution that its slot takes (R168). -/
theorem State.cqContribute_leaves {n : Nat} {spad : Memory} {cqs : List CqSlot} (out : ∃ m,
      ((s.block p).took rest).contribute (s.env p) c k.tag k.contributions k.payload false =
      ({ (s.block p).took rest with regs := m, spad := spad, cqs := cqs }, n)) :
    let b := s.block p
    let u := s.cqContribute p false
    (u.block p).spad = spad ∧ (u.block p).cqs = cqs ∧ (u.block p).mesh.inbox = rest ∧ (u.block p).threads = b.threads ∧
      (u.block p).queue = b.queue ∧ u.get CAD_LOOSE_COUNT.count = min CAD_LOOSE_COUNT.count.top (s.get CAD_LOOSE_COUNT.count + n) ∧
      s.OnlyBlockAnd p [CAD_LOOSE_COUNT.off] u := by
  obtain ⟨m, out⟩ := out
  dsimp only
  rw [State.cqContribute_first runs first kind queue out]
  have is := State.BlockIs.drained s p { (s.block p).took rest with regs := m, spad := spad, cqs := cqs }
  generalize (s.setBlock p { (s.block p).took rest with regs := m, spad := spad, cqs := cqs }).drainEv p = t at is
  have only := is.1.count CAD_LOOSE_COUNT.count n
  have counted := t.get_count_same (f := CAD_LOOSE_COUNT.count) (by decide) n
  rw [is.1.get (by decide)] at counted
  obtain ⟨-, ev, co, e⟩ := is
  rw [State.block_count, e]
  exact ⟨rfl, rfl, rfl, rfl, rfl, counted, only⟩

end

/-! Forwarding (R169). -/

section
variable {b : Block} {env : Env} {c : Nat} {x : CqSlot}

/-- The values of a slot as the queue's settings convert them (R169). -/
def Block.cqConverted (b : Block) (env : Env) (c : Nat) (x : CqSlot) (f : Fmt) (raw : List Byte) : List Byte :=
  let bit := fun f => b.get f == 1
  let params := if bit (BLK_CQ_CFG.clip c) || bit (BLK_CQ_CFG.scale c) || bit (BLK_CQ_CFG.bias c) then
    (bankLines (b.get (BLK_CQ_CFG.pbank c)) (b.get (BLK_CQ_CFG.pline c)) 9).flatMap fun l => b.spad.bytes l 64 else []
  let out := pipelineRow f (bit (BLK_CQ_CFG.clip c))
    (colParam (bit (BLK_CQ_CFG.clip c)) (bit (BLK_CQ_CFG.scale c)) (bit (BLK_CQ_CFG.bias c)) params)
    (fun n => roundMode (bit (BLK_CQ_CFG.sr c)) env.seeds.1 (keyStride b.stride x.key) b.lblock (0x800 + c) (64 * x.key + n))
    (Ap.rowOfBytes 64 raw)
  out.1 ++ padTo 64 out.2

/-- The lines of a slot. -/
def Block.cqRaw (b : Block) (c : Nat) (x : CqSlot) : List Byte := (b.cqAddrs c x.slot).flatMap fun l => b.spad.bytes l 64

/-- A queue that does not convert forwards a slot's lines as they stand. -/
theorem Block.cqOutput_raw (empty : b.gather = []) (plain : b.get (BLK_CQ_CFG.mode c) = 1 ∨ b.get (BLK_CQ_CFG.convert c) = 0) :
    b.cqOutput env c x = (b, b.cqRaw c x) := by
  unfold Block.cqOutput
  rw [Block.readLines_of_empty empty]
  exact if_pos plain

/-- An anchored queue that converts forwards its values in its output format. -/
theorem Block.cqOutput_converted (empty : b.gather = []) (anchored : b.get (BLK_CQ_CFG.mode c) = 0)
    (converts : b.get (BLK_CQ_CFG.convert c) = 1) {f : Fmt} (format : Fmt.ofCode (b.get (BLK_CQ_CFG.ofmt c)) = some f) :
    b.cqOutput env c x = (b, b.cqConverted env c x f (b.cqRaw c x)) := by
  unfold Block.cqOutput Block.cqConverted
  simp only [Block.readLines_of_empty empty, format]
  rw [if_neg (by simp [anchored, converts])]
  split <;> rfl

/-- A credit taken: the wait is over, and the arc's total goes on unless it needs none (R162). -/
theorem Block.takeCredit_eq (b : Block) (who i : Nat) :
    b.takeCredit who i = { b with
      waits := b.waits.filter fun w => w != (who, i),
      spent := if b.arcFree i then b.spent else mset natZero b.spent i ((mget natZero b.spent i + 1) % 65536) } := by
  unfold Block.takeCredit
  by_cases free : b.arcFree i = true
  · simp only [if_pos free]
    exact if_pos free
  · simp only [if_neg free]
    exact if_neg free

/-- A token for another block, or for several, goes to the router as one packet (R169). -/
theorem Block.emitToken_away {arc tag : Nat} {isData : Bool} {payload : List Byte} {origin : Origin} {a : ArcRec} (ha : b.arcs[arc]? = some a)
    (away : a.dest ≠ b.lblock ∨ a.mcast = true) : b.emitToken env arc tag isData payload origin =
      b.send { pkt := arcPkt a tag isData payload, idx := a.dest, origin := origin } := by
  unfold Block.emitToken
  simp only [ha]
  exact if_neg fun h => away.elim (absurd h.1) h.2

/-- A complete slot of a block whose arc can take it leaves as a token (R169). -/
theorem Block.doForward_sends {arc : Nat} {a : ArcRec} {bytes : List Byte} (runs : b.halted = false)
    (complete : (b.cqs.find? fun x => x.cq == c && x.count == b.get (BLK_CQ_FWD.count c) && !x.sent) = some x)
    (outbound : b.outputArc 0x8001 c = some arc) (ha : b.arcs[arc]? = some a) (away : a.dest ≠ b.lblock ∨ a.mcast = true)
    (may : b.mayEmit arc = true) (out : b.cqOutput env c x = (b, bytes)) :
    b.doForward env c false = { b with
      cqs := b.cqs.map fun y => if y == x then { y with sent := true } else y,
      mesh := { b.mesh with
        sendq := b.mesh.sendq ++ [{ pkt := arcPkt a x.key true bytes, idx := a.dest, origin := .cqSlot c x.slot }] },
      spent := if b.arcFree arc then b.spent else mset natZero b.spent arc ((mget natZero b.spent arc + 1) % 65536),
      waits := b.waits.filter fun w => w != (waitCq c, arc),
      tally := if b.get (BLK_CQ_CFG.tally c) = 1 then b.tally + tallyTerm 3 c x.key 0 bytes else b.tally } := by
  unfold Block.doForward
  simp only [complete, outbound, runs, may, out, Bool.not_true, Bool.false_eq_true, if_false]
  rw [Block.takeCredit_eq, Block.emitToken_away (a := a)]
  · by_cases tallies : b.get (BLK_CQ_CFG.tally c) = 1
    · simp only [if_pos tallies]
      rfl
    · simp only [if_neg tallies]
      rfl
  · split <;> exact ha
  · split <;> exact away

end

/-- Settles O26: a contribution by the three ways that `contribute` refuses it and the one that it takes it, a slot's forwarding by what
`doForward` makes of the block. -/
theorem combiningQueues : Obligations.CombiningQueues := by
  unfold Obligations.CombiningQueues
  intro p c s runs empty b
  refine ⟨?contribute, ?forward⟩
  case forward =>
    intro x arc a complete outbound ha away may raw bit params out bytes form held
    have output : b.cqOutput (s.env p) c x = (b, bytes) := by
      rcases form with ⟨plain, rfl⟩ | ⟨anchored, converts, f, format, rfl⟩
      · exact Block.cqOutput_raw empty plain
      · exact Block.cqOutput_converted empty anchored converts format
    have sent := Block.doForward_sends runs complete outbound ha away may output
    exact ⟨_, rfl, s.onBlock_becomes p ⟨_, _, _, sent⟩ fun _ _ => by rw [sent]; rfl⟩
  case contribute =>
    intro k rest first kind queue parts slot lines addrs stops leaves
    have refuse : ∀ code < 256, ((s.block p).took rest).contribute (s.env p) c k.tag k.contributions k.payload false =
        (((s.block p).took rest).dataflowFault (s.env p) code 0 (0xF0 + c) k.tag, 0) → stops code :=
      fun code small out => ⟨_, rfl, State.cqContribute_stops runs first kind queue small out⟩
    refine ⟨fun misfit => refuse 0x44 (by decide) (Block.contribute_misfit misfit), fun on whole => ?_⟩
    have fits : ¬ ((b.took rest).get (BLK_CQ_CFG.enable c) = 0 ∨ ceilDiv k.payload.length 64 ≠ (b.took rest).cqLines c) := by
      rintro (off | wrong)
      · exact absurd (off.symm.trans on) (by decide)
      · exact wrong whole
    let anchored := b.get (BLK_CQ_CFG.mode c) == 0
    have accept : ∀ old, (b.took rest).openSlot c k.tag = old → (∀ x ∈ old, x.key = k.tag) → cqCount old + parts ≤ b.get (BLK_CQ_FWD.count c) →
        leaves (if old.isSome && !anchored then 1 else 0) ⟨c, slot, k.tag, cqCount old + parts, false⟩
          (cqSum anchored old (addrs.flatMap fun a => b.spad.bytes a 64) k.payload) :=
      fun old opened own room => ⟨_, rfl, State.cqContribute_leaves runs first kind queue (Block.contribute_sums fits empty opened own room)⟩
    refine ⟨fun unopened => ?unopened, fun x opened => ?opened⟩
    case unopened =>
      have one : cqCount none + parts = parts := Nat.zero_add _
      refine ⟨fun beyond => refuse 0x43 (by decide) (Block.contribute_beyond fits unopened nofun (lt_of_lt_of_eq beyond one.symm)), fun room => ?_⟩
      have taken := accept none unopened nofun (le_of_eq_of_le one room)
      rw [one, cqSum_first] at taken
      exact taken
    case opened =>
      intro held
      have owned : x.key = k.tag → ∀ y ∈ some x, y.key = k.tag := fun own y hy => Option.some.inj hy ▸ own
      refine ⟨fun other => refuse 0x42 (by decide) (Block.contribute_taken fits opened other),
        fun own beyond => refuse 0x43 (by decide) (Block.contribute_beyond fits opened (owned own) beyond), fun own room => ?_⟩
      have taken := accept (some x) opened (owned own) room
      by_cases mode : b.get (BLK_CQ_CFG.mode c) = 0
      · rw [show anchored = true from beq_iff_eq.mpr mode] at taken
        rw [if_pos mode]
        exact taken
      · rw [show anchored = false from beq_eq_false_iff_ne.mpr mode] at taken
        rw [if_neg mode]
        exact taken

end Sys2Proof.Machine
end

section
/-! O7, O8: the words of the stride program. -/

namespace Sys2Proof.Machine

/-! A word as places of given widths, the most significant first. -/

/-- The bits that places take. -/
def placesWidth (fs : List (Nat × Nat)) : Nat := (fs.map Prod.fst).sum

/-- The number that places hold, each a width and the value at it. -/
def placesValue : List (Nat × Nat) → Nat
  | [] => 0
  | (_, v) :: fs => v * 2 ^ placesWidth fs + placesValue fs

/-- Every value fits its place. -/
def PlacesFit (fs : List (Nat × Nat)) : Prop := ∀ f ∈ fs, f.2 < 2 ^ f.1

/-- Each place of a number reads as its value. -/
def ReadsAs (w : Nat) : List (Nat × Nat) → Prop
  | [] => True
  | (n, v) :: fs => fieldAt w (placesWidth fs) n = v ∧ ReadsAs w fs

theorem placesFit_cons (n v : Nat) (fs : List (Nat × Nat)) : PlacesFit ((n, v) :: fs) ↔ v < 2 ^ n ∧ PlacesFit fs :=
  List.forall_mem_cons

theorem placesWidth_cons (n v : Nat) (fs : List (Nat × Nat)) : placesWidth ((n, v) :: fs) = placesWidth fs + n :=
  Nat.add_comm n _

/-- A place reads as a number below two to its width. -/
theorem fieldAt_lt (w lo n : Nat) : fieldAt w lo n < 2 ^ n := Nat.mod_lt _ (Nat.two_pow_pos n)

/-- The bits below the top of a place are those of the place and those below it. -/
theorem mod_two_pow_add (w lo n : Nat) : w % 2 ^ (lo + n) = fieldAt w lo n * 2 ^ lo + w % 2 ^ lo := by
  rw [Nat.pow_add, Nat.mod_mul, fieldAt, Nat.mul_comm, Nat.add_comm]

/-- Values that fit make a number below two to their width. -/
theorem placesValue_lt {fs : List (Nat × Nat)} (fit : PlacesFit fs) : placesValue fs < 2 ^ placesWidth fs := by
  induction fs with
  | nil => exact Nat.one_pos
  | cons f fs ih =>
    obtain ⟨n, v⟩ := f
    obtain ⟨first, others⟩ := (placesFit_cons n v fs).mp fit
    rw [placesWidth_cons, Nat.pow_add, Nat.mul_comm]
    exact Nat.lt_of_lt_of_le (Nat.add_lt_add_left (ih others) _)
      ((Nat.succ_mul v _).symm ▸ Nat.mul_le_mul_right _ first)

/-- The places of a number read as given values where the values fit and make up the number. -/
theorem readsAs_iff (w : Nat) (fs : List (Nat × Nat)) :
    ReadsAs w fs ↔ w % 2 ^ placesWidth fs = placesValue fs ∧ PlacesFit fs := by
  induction fs with
  | nil => exact ⟨fun _ => ⟨Nat.mod_one w, nofun⟩, fun _ => trivial⟩
  | cons f fs ih =>
    obtain ⟨n, v⟩ := f
    rw [ReadsAs, ih, placesWidth_cons, placesValue, mod_two_pow_add, placesFit_cons]
    constructor
    · rintro ⟨rfl, rest, fit⟩
      exact ⟨by rw [rest], fieldAt_lt w _ n, fit⟩
    · rintro ⟨whole, first, fit⟩
      have low : w % 2 ^ placesWidth fs < 2 ^ placesWidth fs := Nat.mod_lt _ (Nat.two_pow_pos _)
      have small := placesValue_lt fit
      have rest : w % 2 ^ placesWidth fs = placesValue fs := by
        have := congrArg (· % 2 ^ placesWidth fs) whole
        simpa only [Nat.mul_add_mod_self_right, Nat.mod_mod, Nat.mod_eq_of_lt small] using this
      refine ⟨?_, rest, fit⟩
      rw [rest] at whole
      exact Nat.eq_of_mul_eq_mul_right (Nat.two_pow_pos _) (Nat.add_right_cancel whole)

/-! Flags and formats as numbers. -/

theorem b2n_le (a : Bool) : b2n a ≤ 1 := by cases a <;> decide

/-- A one-bit place holds a flag where that flag is its bit. -/
theorem fieldAt_one_iff {w i : Nat} {a : Bool} : fieldAt w i 1 = b2n a ↔ flagAt w i = a := by
  unfold fieldAt flagAt b2n
  rcases Nat.mod_two_eq_zero_or_one (w / 2 ^ i) with h | h <;> cases a <;> simp [h]

@[simp] theorem Fmt.ofCode_code (f : Fmt) : Fmt.ofCode f.code = some f := by cases f <;> rfl

/-- A number that reads as a format is that format's code (R73). -/
theorem Fmt.code_of_ofCode {n : Nat} {f : Fmt} (h : Fmt.ofCode n = some f) : n = f.code := by
  unfold Fmt.ofCode at h
  split at h <;> cases h <;> rfl

theorem Fmt.code_lt (f : Fmt) : f.code < 16 := by cases f <;> decide

/-- The formats of a tile or of activations: every format but FP32 (R61, R73). -/
theorem Fmt.code_lt_iff (n : Nat) : n < 11 ↔ ∃ f : Fmt, f ≠ .f32 ∧ n = f.code := by
  constructor
  · intro h
    interval_cases n
    exacts [⟨.e4m3, nofun, rfl⟩, ⟨.e5m2, nofun, rfl⟩, ⟨.mx8e4m3, nofun, rfl⟩, ⟨.mx8e5m2, nofun, rfl⟩, ⟨.mx6e2m3, nofun, rfl⟩,
      ⟨.mx6e3m2, nofun, rfl⟩, ⟨.mx4, nofun, rfl⟩, ⟨.int8, nofun, rfl⟩, ⟨.int4, nofun, rfl⟩, ⟨.bf16, nofun, rfl⟩,
      ⟨.f16, nofun, rfl⟩]
  · rintro ⟨f, other, rfl⟩
    revert other
    cases f <;> decide

/-! The places of an operation's word (R72 to R84). -/

/-- The word of an operation as its places, the reserved bits included. -/
def SOp.places : SOp → List (Nat × Nat)
  | .nop n => [(4, 0), (12, n), (48, 0)]
  | .loadw f t s m l mb ml => [(4, 1), (4, f.code), (1, b2n t), (1, b2n s), (8, m), (10, l), (3, mb), (10, ml), (23, 0)]
  | .stream f sw c o b l n s sb sl wf =>
    [(4, 2), (4, f.code), (1, b2n sw), (1, b2n c), (1, b2n o), (3, b), (10, l), (10, n), (6, s), (3, sb), (10, sl), (4, wf), (7, 0)]
  | .drain s r m l k => [(4, 3), (6, s), (7, r), (8, m), (10, l), (1, b2n k), (28, 0)]
  | .anchor s b l v => [(4, 4), (1, b2n s), (3, b), (10, l), (16, v), (30, 0)]
  | .convert f sr c sc bi s r pb pl m l =>
    [(4, 5), (4, f.code), (1, b2n sr), (1, b2n c), (1, b2n sc), (1, b2n bi), (6, s), (7, r), (3, pb), (10, pl), (8, m), (10, l), (8, 0)]
  | .send vc m d q n b l t => [(4, 6), (1, vc), (1, b2n m), (11, d), (8, q), (5, n), (3, b), (10, l), (16, t), (5, 0)]
  | .combine s d q sl r b l t k =>
    [(4, 7), (1, b2n s), (11, d), (4, q), (6, sl), (7, r), (3, b), (10, l), (16, t), (1, b2n k), (1, 0)]
  | .tally b l n => [(4, 8), (3, b), (10, l), (11, n), (36, 0)]
  | .waittag q t s p => [(4, 9), (8, q), (16, t), (1, b2n s), (2, p), (33, 0)]
  | .splice p db dl ab al bb bl n => [(4, 10), (2, p), (3, db), (10, dl), (3, ab), (10, al), (3, bb), (10, bl), (10, n), (9, 0)]

/-- The formats that an operation may name: no tile and no activations in FP32, and the weight format of a STREAM only where it is
output-stationary (R75, R76). -/
def SOp.FormatsOk : SOp → Prop
  | .loadw f .. => f ≠ .f32
  | .stream f _ _ o _ _ _ _ _ _ wf => f ≠ .f32 ∧ wf < 11 ∧ (o = true ∨ wf = 0)
  | _ => True

/-- The places fill the word. -/
theorem SOp.places_width (o : SOp) : placesWidth o.places = 64 := by cases o <;> simp [SOp.places, placesWidth]

/-- The places hold the number of the word. -/
theorem SOp.places_value (o : SOp) : placesValue o.places = o.bits := by
  cases o <;> simp [SOp.places, placesValue, placesWidth, SOp.bits, Nat.add_assoc]



/-- The fields fit their places where the operation is well-formed. -/
theorem SOp.wf_iff (o : SOp) : o.wf = true ↔ PlacesFit o.places ∧ o.FormatsOk := by
  cases o <;> simp [SOp.wf, SOp.places, SOp.FormatsOk, PlacesFit, b2n_le, Fmt.code_lt, and_assoc]
  case loadw => tauto
  case stream wf =>
    have weight : wf < 11 → wf < 16 := by omega
    tauto


/-- A word whose places are an operation's reads as it. -/
theorem SOp.decode_of_readsAs {w : Word} {o : SOp} (reads : ReadsAs w.toNat o.places) (formats : o.FormatsOk) :
    SOp.decode w = some o := by
  cases o <;> simp only [SOp.places, ReadsAs, placesWidth, List.map_cons, List.map_nil, List.sum_cons, List.sum_nil, Nat.reduceAdd,
    fieldAt_one_iff] at reads
  case loadw =>
    rw [SOp.FormatsOk] at formats
    simp [SOp.decode, reads, formats]
  case stream wf =>
    obtain ⟨acts, named, weight⟩ := formats
    obtain ⟨g, other, rfl⟩ := (Fmt.code_lt_iff wf).mp named
    simp [SOp.decode, reads, acts, other, weight]
  all_goals simp [SOp.decode, reads]

/-- A word that reads as an operation has that operation's places. -/
theorem SOp.readsAs_of_decode {w : Word} {o : SOp} (h : SOp.decode w = some o) :
    ReadsAs w.toNat o.places ∧ o.FormatsOk := by
  unfold SOp.decode at h
  dsimp only at h
  split at h
  -- LOADW
  case h_2 opcode =>
    split at h
    · next f named =>
      obtain ⟨⟨zero, tile⟩, rfl⟩ : (fieldAt w.toNat 0 23 = 0 ∧ f ≠ .f32) ∧ _ := by simpa using h
      simp [SOp.places, SOp.FormatsOk, ReadsAs, placesWidth, fieldAt_one_iff, opcode, Fmt.code_of_ofCode named, zero, tile]
    · cases h
  -- STREAM, whose weight format is read a second time as a number
  case h_3 opcode =>
    split at h
    · next f g named weights =>
      have code := Fmt.code_of_ofCode weights
      obtain ⟨⟨⟨⟨zero, acts⟩, other⟩, weight⟩, rfl⟩ :
        (((fieldAt w.toNat 0 7 = 0 ∧ f ≠ .f32) ∧ g ≠ .f32) ∧ (flagAt w.toNat 53 = true ∨ fieldAt w.toNat 7 4 = 0)) ∧ _ := by
          simpa using h
      have weightCode := (Fmt.code_lt_iff _).mpr ⟨g, other, code⟩
      simp [SOp.places, SOp.FormatsOk, ReadsAs, placesWidth, fieldAt_one_iff, opcode, Fmt.code_of_ofCode named, zero, acts, weight, weightCode]
    · cases h
  -- CONVERT
  case h_6 opcode =>
    split at h
    · next f named =>
      obtain ⟨zero, rfl⟩ : fieldAt w.toNat 0 8 = 0 ∧ _ := by simpa using h
      simp [SOp.places, SOp.FormatsOk, ReadsAs, placesWidth, fieldAt_one_iff, opcode, Fmt.code_of_ofCode named, zero]
    · cases h
  -- an opcode that is not defined
  case h_12 => cases h
  all_goals
    next opcode =>
    simp only [Option.ite_none_right_eq_some, Option.some.injEq, beq_iff_eq] at h
    obtain ⟨zero, rfl⟩ := h
    simp [SOp.places, SOp.FormatsOk, ReadsAs, placesWidth, fieldAt_one_iff, opcode, zero]

/-- The places of an operation's own word, where its fields fit. -/
theorem SOp.readsAs_encode {o : SOp} (fit : PlacesFit o.places) : ReadsAs o.encode.toNat o.places := by
  rw [readsAs_iff, SOp.places_width, SOp.encode, BitVec.toNat_ofNat, Nat.mod_mod, ← SOp.places_value, ← o.places_width,
    Nat.mod_eq_of_lt (placesValue_lt fit)]
  exact ⟨rfl, fit⟩

/-- A word with an operation's places is that operation's own, and its fields fit. -/
theorem SOp.encode_of_readsAs {w : Word} {o : SOp} (reads : ReadsAs w.toNat o.places) : o.encode = w ∧ PlacesFit o.places := by
  rw [readsAs_iff, o.places_width, o.places_value, Nat.mod_eq_of_lt w.isLt] at reads
  exact ⟨by rw [SOp.encode, ← reads.1, BitVec.ofNat_toNat, BitVec.setWidth_eq], reads.2⟩

/-- Settles O7: the places of the word that an operation encodes hold its fields, and a word with those places reads as it. -/
theorem strideWordRoundTrip : Obligations.StrideWordRoundTrip := by
  intro o wf
  obtain ⟨fit, formats⟩ := o.wf_iff.mp wf
  exact SOp.decode_of_readsAs (SOp.readsAs_encode fit) formats

/-- Settles O8: a word that reads as an operation has its places, the reserved ones included, and these make up the whole word. -/
theorem strideWordIsOperationsOwn : Obligations.StrideWordIsOperationsOwn := by
  intro w o h
  obtain ⟨reads, formats⟩ := SOp.readsAs_of_decode h
  obtain ⟨own, fit⟩ := SOp.encode_of_readsAs reads
  exact ⟨o.wf_iff.mpr ⟨fit, formats⟩, own⟩

end Sys2Proof.Machine
end

section
/-! O10: NOP, ANCHOR and TALLY of the stride program. -/

namespace Sys2Proof.Machine

/-- A NOP holds the sequencer for its waves and no other resource (R74). -/
theorem Sched.run_sequencer_next (σ : Sched) (n : Nat) : (σ.run .sequencer (n + 1)).next = σ.next + (n + 1) :=
  Nat.max_eq_left (show σ.next + 1 ≤ σ.next + (n + 1) by omega)

/-- The anchors after one 16-bit value for each column (R78). -/
def Engine.anchorsAs (e : Engine) (f : Nat → BitVec 16) : Cells (BitVec 16) :=
  (List.range 64).foldl (fun m n => mset anchorZero m n (f n)) e.anchors

section
variable {b : Block}

/-- An ANCHOR of the word's own value. -/
theorem runAnchor_word (bank line v : Nat) : runAnchor b (.anchor false bank line v) 1000000 =
    .ran { b with eng := { b.eng with anchors := b.eng.anchorsAs fun _ => BitVec.ofNat 16 v } } .edge 1 := rfl

/-- An ANCHOR of two lines. -/
theorem runAnchor_lines (empty : b.gather = []) {bank line v : Nat} (fits : line + 2 ≤ 1024) :
    runAnchor b (.anchor true bank line v) 1000000 =
      .ran { b with eng := { b.eng with anchors := b.eng.anchorsAs (fun n =>
        BitVec.ofNat 16 (leAt ((bankLines bank line 2).flatMap fun a => b.spad.bytes a 64) (2 * n) 2)) } } .edge 2 := by
  have within : ¬ 1024 < line + 2 := by omega
  simp [runAnchor, within, Block.readLines_of_empty empty, Engine.anchorsAs]

/-- A TALLY adds its term. -/
theorem runTally_lines (empty : b.gather = []) {bank line lines : Nat} (positive : 0 < lines) (fits : line + lines ≤ 1024) :
    runTally b (.tally bank line lines) 1000000 =
      .ran { b with tally := b.tally + tallyTerm 1 b.eng.next 0 0 ((bankLines bank line lines).flatMap fun a => b.spad.bytes a 64) }
        .tally lines := by
  have within : ¬ 1024 < line + lines := by omega
  have few : ¬ 1024 < lines := by omega
  simp [runTally, within, few, Nat.ne_of_gt positive, Block.readLines_of_empty empty]

end

/-- What the module becomes when block `p` starts an operation whose own meaning `run` makes `b` of the block. -/
theorem State.engine_started {s : State} {p : Nat} (regs : List Nat) {op : SOp} (isOp : SOp → Bool) (run : Env → Block → SOp → Nat → EngOut)
    {h : Holds} {c : Nat} {b : Block} (starts : (s.block p).Starts op) (named : isOp op = true)
    (ran : run (s.env p) (s.block p) op 1000000 = .ran b h c)
    (words : ∀ a, a ≠ BLK_DRG_STATUS.off → a ∉ regs → b.word a = (s.block p).word a) :
    s.BlockBecomes p (BLK_DRG_STATUS.off :: regs) (b.started s.now b.eng (b.eng.sched.run h c))
      (s.onBlock p fun b env => b.engine env .none isOp (run env)) :=
  State.engine_becomes starts named ran words

/-- What the module becomes when an ANCHOR starts, from the values that it gives the columns. -/
theorem State.anchor_becomes {s : State} {p : PBlk} {op : SOp} {c : Nat} (starts : (s.block p).Starts op) (named : op.opcode = 4)
    (f : Nat → BitVec 16)
    (ran : runAnchor (s.block p) op 1000000 =
      .ran { s.block p with eng := { (s.block p).eng with anchors := (s.block p).eng.anchorsAs f } } .edge c) :
    ∃ t σ m, exec (.anchor p .none) s = .next t ∧ (∀ n < 64, (t.block p).eng.anchor n = f n) ∧
      s.BlockBecomes p [BLK_DRG_STATUS.off] ((s.block p).started s.now { (s.block p).eng with anchors := m } σ) t := by
  have becomes := State.engine_started [] (·.opcode == 4) (fun _ => runAnchor) starts (beq_iff_eq.mpr named) ran fun _ _ _ => rfl
  refine ⟨_, _, _, rfl, fun n hn => ?_, becomes⟩
  obtain ⟨-, ⟨m, ev, co, became⟩, -⟩ := becomes
  rw [show (s.onBlock p fun b env => b.opAnchor env .none).block p = _ from became]
  exact foldl_mset_anchor f 64 (s.block p).eng.anchors n hn

/-- Settles O10: each operation by what its own meaning makes of the block. -/
theorem strideNopAnchorTally : Obligations.StrideNopAnchorTally := by
  intro p s
  refine ⟨fun n starts => ?nop, fun v ⟨bank, line, starts⟩ => ?word, fun bank line v starts fits empty => ?lines,
    fun bank line lines starts positive fits empty => ?tally⟩
  case nop =>
    exact ⟨_, _, rfl, Sched.run_sequencer_next _ n, State.engine_started [] _ (fun _ => runNop) starts rfl rfl fun _ _ _ => rfl⟩
  case word => exact State.anchor_becomes starts rfl _ (runAnchor_word bank line v)
  case lines => exact State.anchor_becomes starts rfl _ (runAnchor_lines empty fits)
  case tally =>
    exact ⟨_, _, rfl, State.engine_started [] _ (fun _ => runTally) starts rfl (runTally_lines empty positive fits) fun _ _ _ => rfl⟩

end Sys2Proof.Machine
end

section
/-! O11: DRAIN, CONVERT and SPLICE. -/

namespace Sys2Proof.Machine

/-! Lines that are read one after another, and lines that are written. -/

/-- A slice of the first of two byte strings. -/
theorem sliceZ_append_left {xs : List Byte} (ys : List Byte) {a n : Nat} (h : a + n ≤ xs.length) :
    sliceZ (xs ++ ys) a n = sliceZ xs a n := by
  unfold sliceZ
  rw [List.drop_append_of_le_length (by omega), List.take_append_of_le_length (by rw [List.length_drop]; omega)]

/-- A slice of the second of two byte strings. -/
theorem sliceZ_append_right (xs ys : List Byte) (n : Nat) : sliceZ (xs ++ ys) xs.length n = sliceZ ys 0 n := by
  simp [sliceZ]

/-- Line `j` of lines that are read one after another. -/
theorem sliceZ_lines {f : Nat → List Byte} (whole : ∀ j, (f j).length = 64) {n j : Nat} (hj : j < n) :
    sliceZ ((List.range n).flatMap f) (64 * j) 64 = f j := by
  have size : ∀ n, ((List.range n).flatMap f).length = 64 * n := fun n => by
    simp [List.length_flatMap, whole, Nat.mul_comm]
  induction n with
  | zero => omega
  | succ n ih =>
    rw [List.range_succ, List.flatMap_append, List.flatMap_singleton]
    rcases Nat.lt_succ_iff_lt_or_eq.mp hj with before | rfl
    · rw [sliceZ_append_left _ (by rw [size]; omega), ih before]
    · rw [← size, sliceZ_append_right, sliceZ_self (whole _)]

/-- The bytes of consecutive lines of a bank, as the lines' own. -/
theorem bankLines_flatMap (f : Nat → List Byte) (bank line n : Nat) :
    (bankLines bank line n).flatMap f = (List.range n).flatMap fun j => f (spadAddr bank (line + j)) :=
  List.flatMap_map ..

/-- With the gatherer empty, writes of which all are made change the scratchpad only. -/
theorem Block.writeLines_all {b : Block} (empty : b.gather = []) {ws : List (Nat × List Byte)} {done : Nat} (few : ws.length ≤ done) :
    b.writeLines (ws.take done) = { b with spad := b.spad.putLines ws } := by
  rw [List.take_of_length_le few, Block.writeLines_of_empty empty]

/-- Lines spread over a mask within its banks, written in order: each reads back, and every other byte is as it was (R73). -/
theorem Memory.putLines_spread (m : Memory) {mask line n : Nat} (spread : spreadOk mask line n = true) (bs : List Byte) :
    (∀ j < n, (m.putLines (lineWrites (spreadLines mask line n) bs)).bytes (maskLine mask line j) 64 = sliceZ bs (64 * j) 64) ∧
    (∀ x, (∀ j < n, x < maskLine mask line j ∨ maskLine mask line j + 64 ≤ x) →
      (m.putLines (lineWrites (spreadLines mask line n) bs)).byte x = m.byte x) := by
  simp only [spreadOk, Bool.and_eq_true, bne_iff_ne, ne_eq, List.length_eq_zero_iff, decide_eq_true_eq] at spread
  exact m.putLines_run bs fun i j hi hj => maskLine_apart spread.1 spread.2 hi hj

/-- Consecutive lines of a bank, written in order: each reads back, and every other byte is as it was. -/
theorem Memory.putLines_bank (m : Memory) {bank line n : Nat} (fits : line + n ≤ 1024) (bs : List Byte) :
    (∀ j < n, (m.putLines (lineWrites (bankLines bank line n) bs)).bytes (spadAddr bank (line + j)) 64 = sliceZ bs (64 * j) 64) ∧
    (∀ x, (∀ j < n, x < spadAddr bank (line + j) ∨ spadAddr bank (line + j) + 64 ≤ x) →
      (m.putLines (lineWrites (bankLines bank line n) bs)).byte x = m.byte x) :=
  m.putLines_run bs fun i j hi hj other => spadAddr_apart (Or.inr (by omega))

/-! The three operations. -/

theorem slotsOk_rows {slot rows : Nat} (h : slotsOk slot rows = true) : rows ≤ 64 := by
  simp only [slotsOk, Bool.and_eq_true, decide_eq_true_eq] at h
  exact h.1.2

section
variable {b : Block} (empty : b.gather = [])
include empty

/-- A DRAIN writes its rows over the mask and empties its slots unless it keeps them (R77). -/
theorem runDrain_lines {slot rows mask line : Nat} (keep : Bool) (slots : slotsOk slot rows = true)
    (spread : spreadOk mask line (24 * rows) = true) :
    runDrain b (.drain slot rows mask line keep) 1000000 =
      .ran { b with
        spad := b.spad.putLines (lineWrites (spreadLines mask line (24 * rows)) (b.eng.rawRows slot rows)),
        eng := { b.eng with slots := if keep then b.eng.slots else (b.eng.emptySlots slot rows).slots } }
        .edge (rows * ceilDiv 24 (maskBanks mask).length) := by
  have size : (lineWrites (spreadLines mask line (24 * rows)) (b.eng.rawRows slot rows)).length ≤ 1000000 := by
    have := slotsOk_rows slots
    rw [lineWrites_length, spreadLines, List.length_map, List.length_range]
    omega
  simp only [runDrain, slots, spread, Bool.not_true, Bool.or_self, Bool.false_eq_true, if_false,
    Block.writeLines_all empty size, Nat.not_lt.mpr size, or_false]
  cases keep <;> rfl

/-- A SPLICE copies the lines of the side that its predicate chooses (R84). -/
theorem runSplice_lines {pred dbank dline abank aline bbank bline lines : Nat} (dfits : dline + zeroMeans lines 1024 ≤ 1024)
    (afits : aline + zeroMeans lines 1024 ≤ 1024) (bfits : bline + zeroMeans lines 1024 ≤ 1024) :
    let a := b.eng.preds.getLsbD pred
    ∃ cost, runSplice b (.splice pred dbank dline abank aline bbank bline lines) 1000000 =
      .ran { b with spad := b.spad.putLines (lineWrites (bankLines dbank dline (zeroMeans lines 1024))
        ((bankLines (if a then abank else bbank) (if a then aline else bline) (zeroMeans lines 1024)).flatMap
          fun x => b.spad.bytes x 64)) } .copy cost := by
  intro a
  have size : ∀ bs, (lineWrites (bankLines dbank dline (zeroMeans lines 1024)) bs).length ≤ 1000000 := by
    intro bs
    rw [lineWrites_length, bankLines, List.length_map, List.length_range]
    omega
  simp only [runSplice, Nat.not_lt.mpr dfits, Nat.not_lt.mpr afits, Nat.not_lt.mpr bfits, decide_false, Bool.or_self,
    Bool.false_eq_true, if_false, Block.readLines_of_empty empty, Block.writeLines_all empty (size _)]
  exact ⟨_, rfl⟩

end

/-- The parameter bytes of a CONVERT, where it names any (R79). -/
def Block.convertParams (b : Block) (named : Bool) (bank line : Nat) : List Byte :=
  if named then (bankLines bank line 9).flatMap fun a => b.spad.bytes a 64 else []

/-- The bytes that a CONVERT writes (R79, R101): those of its rows, then those of their scales. -/
def Block.convertBytes (b : Block) (seed : Word) (f : Fmt) (sr clip scale bias : Bool) (slot rows : Nat) (params : List Byte) : List Byte :=
  let row := fun i => pipelineRow f clip (colParam clip scale bias params)
    (fun n => roundMode sr seed b.stride b.lblock 0 (4096 * b.eng.next + 64 * (slot + i) + n)) (b.eng.slotRow (slot + i))
  ((List.range rows).flatMap fun i => (row i).1) ++ (List.range rows).flatMap fun i => (row i).2

theorem convertLines_le {f : Fmt} {rows : Nat} (few : rows ≤ 64) : convertLines f rows ≤ 1000 := by
  have data : rows * f.rowLines ≤ 64 * 4 := Nat.mul_le_mul few (by cases f <;> decide)
  have scales : ceilDiv rows 32 ≤ 64 := by rw [ceilDiv]; omega
  unfold convertLines
  split <;> omega

/-- A CONVERT writes its rows, converted, over the mask and empties its slots (R79, R101). -/
theorem runConvert_lines {b : Block} (empty : b.gather = []) (env : Env) {f : Fmt} (sr : Bool) {clip scale bias : Bool}
    {slot rows pbank pline mask line : Nat} (slots : slotsOk slot rows = true) (spread : spreadOk mask line (convertLines f rows) = true)
    (within : (clip || scale || bias) = true → pline + 9 ≤ 1024) :
    ∃ cost, runConvert env b (.convert f sr clip scale bias slot rows pbank pline mask line) 1000000 =
      .ran { b with
        spad := b.spad.putLines (lineWrites (spreadLines mask line (convertLines f rows))
          (b.convertBytes env.seeds.1 f sr clip scale bias slot rows (b.convertParams (clip || scale || bias) pbank pline))),
        eng := b.eng.emptySlots slot rows } .edge cost := by
  have size : ∀ bs, (lineWrites (spreadLines mask line (convertLines f rows)) bs).length ≤ 1000000 := by
    intro bs
    have := convertLines_le (f := f) (slotsOk_rows slots)
    rw [lineWrites_length, spreadLines, List.length_map, List.length_range]
    omega
  have fits : ((clip || scale || bias) && decide (1024 < pline + 9)) = false := by
    cases named : clip || scale || bias
    · rfl
    · exact decide_eq_false (by have := within named; omega)
  have read : (if clip || scale || bias then b.readLines (bankLines pbank pline 9) else (b, [])) =
      (b, b.convertParams (clip || scale || bias) pbank pline) := by
    unfold Block.convertParams
    split
    · exact Block.readLines_of_empty empty _
    · rfl
  unfold runConvert
  dsimp only
  rw [show rows * f.rowLines + (if f.isMx then ceilDiv rows 32 else 0) = convertLines f rows from rfl, slots, spread, fits, read]
  simp only [Bool.not_true, Bool.or_self, Bool.false_eq_true, if_false, Block.writeLines_all empty (size _), Nat.not_lt.mpr (size _),
    List.flatMap_map]
  exact ⟨_, rfl⟩

/-- Settles O11: each operation by the lines that it writes and the slots that it empties. -/
theorem strideScratchWrites : Obligations.StrideScratchWrites := by
  intro p s empty
  refine ⟨fun slot rows mask line keep starts slots spread => ?drain,
    fun f sr clip scale bias slot rows pbank pline mask line starts slots spread within => ?convert,
    fun pred dbank dline abank aline bbank bline lines starts dfits afits bfits => ?splice⟩
  case drain =>
    obtain ⟨lines, rest⟩ := (s.block p).spad.putLines_spread spread ((s.block p).eng.rawRows slot rows)
    have becomes := State.engine_started [] (·.opcode == 3) (fun _ => runDrain) starts rfl
      (runDrain_lines empty keep slots spread) fun _ _ _ => rfl
    refine ⟨_, _, _, _, rfl, lines, rest, fun i n hn => ?_, becomes⟩
    cases keep
    · simpa [Engine.slot] using (s.block p).eng.slot_emptySlots slot rows i hn
    · simp [Engine.slot]
  case convert =>
    intro params row bytes
    obtain ⟨lines, rest⟩ := (s.block p).spad.putLines_spread spread bytes
    obtain ⟨cost, ran⟩ := runConvert_lines empty (s.env p) sr slots spread within
    have becomes := State.engine_started [] (·.opcode == 5) runConvert starts rfl ran fun _ _ _ => rfl
    exact ⟨_, _, _, _, rfl, lines, rest, fun i n hn => (s.block p).eng.slot_emptySlots slot rows i hn, becomes⟩
  case splice =>
    obtain ⟨cost, ran⟩ := runSplice_lines empty dfits afits bfits
    have becomes := State.engine_started [] (·.opcode == 10) (fun _ => runSplice) starts rfl ran fun _ _ _ => rfl
    obtain ⟨lines', rest⟩ := (s.block p).spad.putLines_bank dfits _
    refine ⟨_, _, _, rfl, fun j hj => ?_, rest, becomes⟩
    rw [lines' j hj, bankLines_flatMap, sliceZ_lines (fun _ => Memory.bytes_length _ _ _) hj]
    split <;> rfl

end Sys2Proof.Machine
end

section
/-! O12: LOADW and the weight-stationary STREAM. -/

namespace Sys2Proof.Machine

/-! Contributions to a row of slots (R60, R76). -/

/-- What a contribution makes of a slot's value: it replaces it under `clear`, and adds to it otherwise. -/
def contributed (clear : Bool) (old new : Ap) : Ap := if clear then new else old.add new

/-- A contribution changes its own slot only. -/
theorem Engine.slot_contribute (e : Engine) (clear : Bool) (s c i : Nat) {n : Nat} (x : Ap) (hc : c < 64) (hn : n < 64) :
    (e.contribute clear s c x).slot i n = if i = s ∧ n = c then contributed clear (e.slot s c) x else e.slot i n := by
  have key : 64 * i + n = 64 * s + c ↔ i = s ∧ n = c := by omega
  simp only [Engine.contribute, Engine.setSlot, Engine.slot, mget_mset, key, contributed]

/-- One value for each of the first `k` columns of a row. -/
theorem Engine.slot_contributions (e : Engine) (clear : Bool) (s : Nat) (f : Nat → Ap) {k : Nat} (hk : k ≤ 64) (i : Nat) {n : Nat}
    (hn : n < 64) : ((List.range k).foldl (fun e c => e.contribute clear s c (f c)) e).slot i n =
      if i = s ∧ n < k then contributed clear (e.slot s n) (f n) else e.slot i n := by
  induction k generalizing i n with
  | zero => simp
  | succ k ih =>
    rw [List.range_succ, List.foldl_append, List.foldl_cons, List.foldl_nil, Engine.slot_contribute _ _ _ _ _ _ (by omega) hn,
      ih (by omega) i hn, ih (by omega) s (by omega), if_neg fun h : s = s ∧ k < k => absurd h.2 (lt_irrefl k)]
    by_cases last : i = s ∧ n = k
    · obtain ⟨rfl, rfl⟩ := last
      rw [if_pos ⟨rfl, rfl⟩, if_pos ⟨rfl, by omega⟩]
    · rw [if_neg last]
      exact if_congr ⟨fun h => ⟨h.1, by omega⟩, fun h => ⟨h.1, by omega⟩⟩ rfl rfl

/-- Contributions change slots only. -/
theorem Engine.contributions_eq (clear : Bool) (s : Nat) (f : Nat → Ap) (k : Nat) (e : Engine) :
    ∃ sl, (List.range k).foldl (fun e c => e.contribute clear s c (f c)) e = { e with slots := sl } := by
  induction k with
  | zero => exact ⟨_, rfl⟩
  | succ k ih =>
    obtain ⟨sl, h⟩ := ih
    exact ⟨_, by rw [List.range_succ, List.foldl_append, h]; rfl⟩

/-- A row of 64 values contributes to each column in turn. -/
theorem Engine.contributeRow_range (e : Engine) (clear : Bool) (s : Nat) (f : Nat → Ap) :
    e.contributeRow clear s ((List.range 64).map f) = (List.range 64).foldl (fun e c => e.contribute clear s c (f c)) e := by
  have places : ((List.range 64).map f).zipIdx = (List.range 64).map fun n => (f n, n) := by
    apply List.ext_getElem <;> simp
  rw [Engine.contributeRow, places, List.foldl_map]

/-! The rows of a weight-stationary STREAM (R59, R61, R76). -/

/-- The sum that activation row `r` contributes to column `n`: its products with the tile's column at the column's anchor. -/
def Block.streamSum (b : Block) (t : Tile) (a : Fmt) (bank line : Nat) (scales : List Byte) (r n : Nat) : Ap :=
  (columnSum (b.eng.anchor n) (t.column n) (actRow a ((actLines t bank line r).flatMap fun x => b.spad.bytes x 64)
    (sliceZ scales (r * (coveredK t.fmt t.sparse / 32)) (coveredK t.fmt t.sparse / 32)))).1

/-- Block `b'` is block `b` after rows `lo` to `hi - 1` of sums have contributed to the slot rows from `slot`: the slots, and the counts of
waves and of stalls, have changed. -/
def Block.Streamed (b b' : Block) (clear : Bool) (slot lo hi : Nat) (sum : Nat → Nat → Ap) : Prop :=
  (∃ sl m, b' = { b with regs := m, eng := { b.eng with slots := sl } }) ∧
  (∀ x, x ≠ BLK_DRG_WAVES.off → x ≠ BLK_DRG_TALL.off → b'.word x = b.word x) ∧
  ∀ i n, n < 64 → b'.eng.slot i n =
    if slot + lo ≤ i ∧ i < slot + hi then contributed clear (b.eng.slot i n) (sum (i - slot) n) else b.eng.slot i n

/-- No row has streamed yet. -/
theorem Block.Streamed.refl (b : Block) (clear : Bool) (slot r : Nat) (sum : Nat → Nat → Ap) : b.Streamed b clear slot r r sum :=
  ⟨⟨_, _, rfl⟩, fun _ _ _ => rfl, fun i n _ => by rw [if_neg (by omega)]⟩

/-- Rows that stream one run after another. -/
theorem Block.Streamed.trans {b c d : Block} {clear : Bool} {slot lo mid hi : Nat} {sum : Nat → Nat → Ap}
    (h : b.Streamed c clear slot lo mid sum) (k : c.Streamed d clear slot mid hi sum) (low : lo ≤ mid) (high : mid ≤ hi) :
    b.Streamed d clear slot lo hi sum := by
  obtain ⟨⟨sl, m, rfl⟩, words, slots⟩ := h
  obtain ⟨⟨sl', m', rfl⟩, words', slots'⟩ := k
  refine ⟨⟨sl', m', rfl⟩, fun x w t => (words' x w t).trans (words x w t), fun i n hn => ?_⟩
  rw [slots' i n hn, slots i n hn]
  by_cases first : slot + lo ≤ i ∧ i < slot + mid
  · rw [if_neg (by omega), if_pos first, if_pos (by omega)]
  · rw [if_neg first]
    exact if_congr ⟨fun _ => by omega, fun _ => by omega⟩ rfl rfl

/-- A block after one row of sums, with what the row counts. -/
def Block.rowDone (b : Block) (clear : Bool) (slot r waves stall : Nat) (sum : Nat → Nat → Ap) : Block :=
  (({ b with eng := b.eng.contributeRow clear (slot + r) ((List.range 64).map (sum r)) } : Block).count
    BLK_DRG_WAVES.count waves).count BLK_DRG_TALL.count stall

/-- One row is a run of rows. -/
theorem Block.rowDone_streamed (b : Block) (clear : Bool) (slot r waves stall : Nat) (sum : Nat → Nat → Ap) :
    b.Streamed (b.rowDone clear slot r waves stall sum) clear slot r (r + 1) sum := by
  unfold Block.rowDone
  rw [Engine.contributeRow_range]
  have slots := fun i n (hn : n < 64) => b.eng.slot_contributions clear (slot + r) (sum r) le_rfl i hn
  obtain ⟨sl, e⟩ := Engine.contributions_eq clear (slot + r) (sum r) 64 b.eng
  rw [e] at slots ⊢
  refine ⟨⟨sl, _, rfl⟩, fun x w t => ?_, fun i n hn => (slots i n hn).trans ?_⟩
  · rw [Block.count, Block.count, Block.word_set_ne _ _ _ t, Block.word_set_ne _ _ _ w]
    rfl
  · by_cases row : i = slot + r
    · subst row
      rw [if_pos ⟨rfl, hn⟩, if_pos (by omega), Nat.add_sub_cancel_left]
    · rw [if_neg (by omega), if_neg (by omega)]

/-- A row's contributions are its sums. -/
theorem streamRow_eq (e : Engine) (t : Tile) (clear : Bool) (slot : Nat) (act : Nat → Val) :
    (streamRow e ((List.range 64).map t.column) clear slot act).1 =
      e.contributeRow clear slot ((List.range 64).map fun n => (columnSum (e.anchor n) (t.column n) act).1) := by
  have places : ((List.range 64).map t.column).zipIdx = (List.range 64).map fun n => (t.column n, n) := by
    apply List.ext_getElem <;> simp
  simp only [streamRow, places, List.map_map]
  rfl

/-- Where no row is repeated, the first of some rows contributes its sums and the others follow. -/
theorem streamRows_succ (env : Env) (t : Tile) (a : Fmt) (clear : Bool) (bank line slot : Nat) (scales : List Byte) (n r : Nat) {b : Block}
    (extra : Nat) (empty : b.gather = []) :
    ∃ stall, streamRows env t a ((List.range 64).map t.column) clear bank line slot scales none (n + 1) r b extra =
      streamRows env t a ((List.range 64).map t.column) clear bank line slot scales none n (r + 1)
        (b.rowDone clear slot r (wavesPerRow t.fmt) stall (b.streamSum t a bank line scales)) (extra + stall) := by
  rw [streamRows]
  simp only [Block.readLines_of_empty empty, streamRow_eq]
  exact ⟨_, rfl⟩

/-- The rows contribute their sums in order. -/
theorem streamRows_streamed (env : Env) (t : Tile) (a : Fmt) (clear : Bool) (bank line slot : Nat) (scales : List Byte) (n : Nat) :
    ∀ (r : Nat) {b : Block} (extra : Nat), b.gather = [] →
      b.Streamed (streamRows env t a ((List.range 64).map t.column) clear bank line slot scales none n r b extra).1 clear slot r (r + n)
        (b.streamSum t a bank line scales) := by
  induction n with
  | zero => exact fun r b extra _ => .refl b clear slot r _
  | succ n ih =>
    intro r b extra empty
    obtain ⟨stall, first⟩ := streamRows_succ env t a clear bank line slot scales n r extra empty
    have row := b.rowDone_streamed clear slot r (wavesPerRow t.fmt) stall (b.streamSum t a bank line scales)
    rw [first, show r + (n + 1) = r + 1 + n by omega]
    generalize b.rowDone clear slot r (wavesPerRow t.fmt) stall (b.streamSum t a bank line scales) = c at row
    obtain ⟨⟨sl, m, rfl⟩, -, -⟩ := id row
    refine row.trans (ih (r + 1) _ ?_) (by omega) (by omega)
    exact empty

/-! The two operations. -/

/-- The block whose active tile is `t`, taken from the shadow tile where `swap` is set (R67, R76). -/
def Block.tileTaken (b : Block) (swap : Bool) (t : Tile) : Block :=
  { b with eng := { b.eng with active := some t, shadow := if swap then none else b.eng.shadow } }

/-- The tile that a STREAM uses is active from then on. -/
theorem Block.tileTaken_eq {b : Block} {swap : Bool} {t : Tile} (tile : (if swap then b.eng.shadow else b.eng.active) = some t) :
    (if swap then { b with eng := { b.eng with active := some t, shadow := none } } else b) = b.tileTaken swap t := by
  cases swap
  · have active : b.eng.active = some t := tile
    rw [Block.tileTaken, ← active]
    rfl
  · rfl

/-- The lines of scales that the rows of a STREAM take (R61, R76). -/
def streamScaleLines (a : Fmt) (t : Tile) (count : Nat) : Nat :=
  ceilDiv (count * if a.isMx then coveredK t.fmt t.sparse / 32 else 0) 64

/-- The scales of a STREAM's rows. -/
def Block.streamScales (b : Block) (a : Fmt) (t : Tile) (sbank sline count : Nat) : List Byte :=
  (bankLines sbank sline (streamScaleLines a t count)).flatMap fun x => b.spad.bytes x 64

section
variable {b : Block} (empty : b.gather = [])
include empty

/-- A LOADW into an empty shadow tile fills it (R67, R75). -/
theorem runLoadw_lines {f : Fmt} (tr : Bool) {sparse : Bool} {mask line mb ml : Nat} (free : b.eng.shadow = none)
    (pair : sparse = true → sparseOk f = true) (spread : spreadOk mask line (tileLines f) = true)
    (fits : ml + (scaleLines f sparse + indexLines f sparse) ≤ 1024) :
    ∃ cost, runLoadw b (.loadw f tr sparse mask line mb ml) 1000000 =
      .ran { b with eng := { b.eng with
        shadow := some ⟨f, sparse, tr, (spreadLines mask line (tileLines f)).flatMap fun a => b.spad.bytes a 64,
          (bankLines mb ml (scaleLines f sparse + indexLines f sparse)).flatMap fun a => b.spad.bytes a 64⟩ } } .load cost := by
  have named : (sparse && !sparseOk f) = false := by cases sparse <;> simp_all
  simp only [runLoadw, free, named, spread, Nat.not_lt.mpr fits, Block.readLines_of_empty empty]
  exact ⟨_, rfl⟩

/-- A weight-stationary STREAM contributes its rows' sums in order (R57 to R62, R76). -/
theorem runStream_rows (env : Env) {a : Fmt} {swap : Bool} (clear : Bool) {bank line count slot sbank sline : Nat} (wf : Nat) {t : Tile}
    (tile : (if swap then b.eng.shadow else b.eng.active) = some t) (pair : pairOk t.fmt a = true) (positive : 0 < count)
    (slots : slot + count ≤ 64) (lines : line + (if t.fmt = .bf16 ∨ t.fmt = .f16 then 2 * count else count) ≤ 1024)
    (banks : t.sparse = true → bank % 2 = 0) (pairs : t.fmt = .bf16 ∨ t.fmt = .f16 → line % 2 = 0)
    (scales : sline + streamScaleLines a t count ≤ 1024) :
    ∃ b' cost, runStream env .none b (.stream a swap clear false bank line count slot sbank sline wf) 1000000 = .ran b' (.lattice swap) cost ∧
      (b.tileTaken swap t).Streamed b' clear slot 0 count (b.streamSum t a bank line (b.streamScales a t sbank sline count)) := by
  have few : ¬ 64 < count := by omega
  have halves : (t.sparse && bank % 2 == 1) = false := by
    cases sparse : t.sparse
    · rfl
    · simp [banks sparse]
  have aligned : ((if t.fmt = .bf16 ∨ t.fmt = .f16 then 2 * count else count) != count && line % 2 == 1) = false := by
    split
    · next wide => simp [pairs wide]
    · simp
  have rows := streamRows_streamed env t a clear bank line slot (b.streamScales a t sbank sline count) count 0 (b := b.tileTaken swap t) 0 empty
  rw [Nat.zero_add] at rows
  have read := Block.readLines_of_empty (b := b.tileTaken swap t) empty (bankLines sbank sline (streamScaleLines a t count))
  unfold streamScaleLines at scales read
  unfold runStream
  simp only [Bool.false_eq_true, if_false, tile, pair, beq_eq_false_iff_ne.mpr (Nat.ne_of_gt positive), few,
    Nat.not_lt.mpr slots, Nat.not_lt.mpr lines, Nat.not_lt.mpr scales, halves, aligned, decide_false, Bool.or_self, Bool.not_true,
    Block.tileTaken_eq tile, read, Nat.min_eq_left (show count ≤ 1000000 by omega), residueStopOf, Bool.false_and]
  exact ⟨_, _, rfl, rows⟩

end

/-- Settles O12: a LOADW by the tile that it reads, a STREAM by its rows, one after another. -/
theorem strideLoadwStream : Obligations.StrideLoadwStream := by
  intro p s empty
  refine ⟨fun f tr sparse mask line mb ml starts free pair spread fits => ?loadw,
    fun a swap clear bank line count slot sbank sline wf tile starts is pair positive slots lines banks pairs => ?stream⟩
  case loadw =>
    obtain ⟨cost, ran⟩ := runLoadw_lines empty tr free pair spread fits
    exact ⟨_, _, rfl, State.engine_started [] (·.opcode == 1) (fun _ => runLoadw) starts rfl ran fun _ _ _ => rfl⟩
  case stream =>
    intro scaleBytes scalesFit scales row sum
    obtain ⟨b, cost, ran, ⟨sl, m, rfl⟩, words, rows⟩ :=
      runStream_rows empty (s.env p) clear wf is pair positive slots lines banks pairs scalesFit
    have becomes := State.engine_started [BLK_DRG_WAVES.off, BLK_DRG_TALL.off] (·.opcode == 2) (fun env => runStream env .none) starts rfl ran
      fun x _ apart => by
        rw [List.mem_cons, List.mem_singleton, not_or] at apart
        exact words x apart.1 apart.2
    exact ⟨_, _, sl, rfl, rows, becomes⟩

end Sys2Proof.Machine
end

section
/-! O13: SEND, COMBINE and WAITTAG. -/

namespace Sys2Proof.Machine

/-! Packets for the local port (R80, R81). -/

/-- Packets handed to the local port one after another wait there in order. -/
theorem Block.sends_eq (g : Word → Nat → Held) (is : List Nat) (b : Block) :
    is.foldl (fun b i => b.send (g b.stride i)) b = { b with mesh := { b.mesh with sendq := b.mesh.sendq ++ is.map (g b.stride) } } := by
  induction is generalizing b with
  | nil => simp
  | cons i is ih =>
    rw [List.foldl_cons, ih]
    simp [Block.send]

/-- The credits spent once a token has gone out on an arc that needs one (R162). -/
def Block.spentOn (b : Block) : Option Nat → Cells Nat
  | some i => if b.arcFree i then b.spent else mset natZero b.spent i ((mget natZero b.spent i + 1) % 65536)
  | none => b.spent

section
variable {b : Block} (empty : b.gather = [])
include empty

/-- A SEND hands its packet to the local port and spends the credit of its arc (R80, R162). -/
theorem runSend_packet {vc : Nat} {mcast : Bool} {dest : Nat} (queue : Nat) {lines : Nat} (bank : Nat) {line : Nat} (tag : Nat)
    (fits : line + zeroMeans lines 32 ≤ 1024) (reach : if mcast then dest < 64 else dest < 1200)
    {arc : Option Nat} (named : b.outArc 0x8000 mcast dest queue = arc) :
    let pkt : Pkt := {
      kind := if arc.isSome then kTOKEN else kMESSAGE, vc := vc, mcast := mcast, isData := true,
      tag := formTag b.stride tag, qid := queue, length := zeroMeans lines 32 - 1,
      payload := (bankLines bank line (zeroMeans lines 32)).flatMap fun a => b.spad.bytes a 64 }
    ∃ cost, runSend b (.send vc mcast dest queue lines bank line tag) 1000000 =
      .ran { b with mesh := { b.mesh with sendq := b.mesh.sendq ++ [{ pkt := pkt, idx := dest, origin := .engine }] },
                    spent := b.spentOn arc } .send cost := by
  intro pkt
  have good : (decide (1024 < line + zeroMeans lines 32) || mcast && decide (64 ≤ dest) || !mcast && decide (1200 ≤ dest)) = false := by
    cases mcast <;> simp_all
  simp only [runSend, good, Block.readLines_of_empty empty, named, Bool.false_eq_true, if_false]
  cases arc with
  | none => exact ⟨_, rfl⟩
  | some i =>
    by_cases free : b.arcFree i = true
    · simp only [Block.spentOn, if_pos free]
      exact ⟨_, rfl⟩
    · simp only [Block.spentOn, if_neg free]
      exact ⟨_, rfl⟩

/-- A COMBINE hands one packet for each row to the local port, and empties the slots that it sent unless it keeps them (R81). -/
theorem runCombine_packets {src : Bool} {dest : Nat} (cq : Nat) {slot rows : Nat} (bank : Nat) {line : Nat} (tag : Nat) (keep : Bool)
    (reach : dest < 1200) (positive : 0 < rows) (few : rows ≤ 64) (fits : if src then line + 24 * rows ≤ 1024 else slot + rows ≤ 64) :
    let raw := if src then (bankLines bank line (24 * rows)).flatMap fun a => b.spad.bytes a 64 else b.eng.rawRows slot rows
    ∃ h cost, runCombine b (.combine src dest cq slot rows bank line tag keep) 1000000 =
      .ran { b with
        mesh := { b.mesh with sendq := b.mesh.sendq ++ (List.range rows).map fun i =>
          { pkt := reducePkt b.stride cq tag i (sliceZ raw (1536 * i) 1536), idx := dest, origin := .engine } },
        eng := { b.eng with slots := if src ∨ keep then b.eng.slots else (b.eng.emptySlots slot rows).slots } } h cost := by
  intro raw
  have good : (decide (1200 ≤ dest) || rows == 0 || decide (64 < rows) || (!src && !slotsOk slot rows) ||
      (src && decide (1024 < line + 24 * rows))) = false := by
    cases src <;> simp_all [slotsOk] <;> omega
  have read : (if src then b.readLines (bankLines bank line (24 * rows)) else (b, b.eng.rawRows slot rows)) = (b, raw) := by
    unfold raw
    split
    · exact Block.readLines_of_empty empty _
    · rfl
  have all : ¬ 1000000 < rows := by omega
  simp only [runCombine, good, read, Bool.false_eq_true, if_false, Nat.min_eq_left (not_lt.mp all), all, or_false,
    Block.sends_eq (fun stride i => { pkt := reducePkt stride cq tag i (sliceZ raw (1536 * i) 1536), idx := dest, origin := .engine })]
  cases src <;> cases keep <;> exact ⟨_, _, rfl⟩

end

/-! What lets a token go (R152, R162). -/

/-- Matching a token changes the queue and the contexts only. -/
theorem Block.matchToken_eq {b b' : Block} {q tag : Nat} (h : b.matchToken q tag = some b') :
    ∃ queue ctxs, b' = { b with queue := queue, ctxs := ctxs } := by
  unfold Block.matchToken at h
  dsimp only at h
  split at h
  · exact ⟨_, _, (Option.some.inj h).symm⟩
  · split at h
    · cases h
    · obtain ⟨_, -, e⟩ := Option.map_eq_some_iff.mp h
      exact ⟨_, _, e.symm⟩

/-- Matching every token that can be matched changes the queue and the contexts only. -/
theorem Block.rematchList_eq (xs : List QEntry) : ∀ b : Block, ∃ queue ctxs, b.rematchList xs = { b with queue := queue, ctxs := ctxs } := by
  induction xs with
  | nil => exact fun b => ⟨_, _, rfl⟩
  | cons x xs ih =>
    intro b
    rw [Block.rematchList]
    split
    · exact ih b
    · split
      · next b' found =>
        obtain ⟨queue, ctxs, rfl⟩ := Block.matchToken_eq found
        obtain ⟨queue', ctxs', e⟩ := ih { b with queue := queue, ctxs := ctxs }
        exact ⟨queue', ctxs', e⟩
      · exact ih b

/-- The release of a context changes the queue and the contexts only. -/
theorem Block.releaseCtx_eq (b : Block) (node tag : Nat) : ∃ queue ctxs, b.releaseCtx node tag = { b with queue := queue, ctxs := ctxs } := by
  obtain ⟨queue, ctxs, e⟩ := Block.rematchList_eq _ _
  exact ⟨queue, ctxs, e⟩

/-- The return of a credit changes what is returned, its totals and the packets that wait only. -/
theorem Block.returnCredit_eq (b : Block) (i : Nat) :
    ∃ returned totals mesh, b.returnCredit i = { b with returned := returned, totals := totals, mesh := mesh } := by
  unfold Block.returnCredit
  split
  · exact ⟨_, _, _, rfl⟩
  · dsimp only
    split
    · exact ⟨_, _, _, rfl⟩
    · split
      · exact ⟨_, _, _, rfl⟩
      · split <;> exact ⟨_, _, _, rfl⟩

/-- A freed entry is gone; besides the queue its credit's return changes the credits and the packets that wait. -/
theorem Block.freeEntry_eq (b : Block) (q e : Nat) :
    ∃ returned totals mesh, b.freeEntry q e =
      { b with queue := b.queue.filter fun y => !(y.q == q && y.e == e), returned := returned, totals := totals, mesh := mesh } := by
  unfold Block.freeEntry
  split
  · next absent =>
    have same : (b.queue.filter fun y => !(y.q == q && y.e == e)) = b.queue :=
      List.filter_eq_self.mpr fun y hy => by simpa [imp_iff_not_or] using List.find?_eq_none.mp absent y hy
    exact ⟨_, _, _, by rw [same]⟩
  · dsimp only
    split
    · exact Block.returnCredit_eq _ _
    · exact ⟨_, _, _, rfl⟩

/-- A firing that starts with one control token as its input: its context and its entry are gone, and of the block besides only the registers,
the contexts, the credits and the packets that wait have changed (R147, R152, R162). -/
theorem Block.fired_eq (b : Block) (node tag q e : Nat) (fires : Fld) :
    ∃ m ctxs returned totals mesh, ∃ queue : List QEntry, ((b.releaseCtx node tag).freeEntry q e).count fires 1 =
      { b with regs := m, ctxs := ctxs, returned := returned, totals := totals, mesh := mesh,
               queue := queue.filter fun y => !(y.q == q && y.e == e) } := by
  obtain ⟨queue, ctxs, released⟩ := b.releaseCtx_eq node tag
  obtain ⟨returned, totals, mesh, freed⟩ := (b.releaseCtx node tag).freeEntry_eq q e
  rw [freed, released]
  exact ⟨_, ctxs, returned, totals, mesh, queue, rfl⟩

/-! WAITTAG (R70, R83). -/

/-- The predicates after one of them is set (R83). -/
def Engine.predsWith (e : Engine) (set : Bool) (pred bit : Nat) : BitVec 4 :=
  if set then BitVec.ofNat 4 (putBits (e.preds.setWidth 64) pred pred bit).toNat else e.preds

/-- The predicate that is set is the bit, and the others stay. -/
theorem Engine.predsWith_getLsbD (e : Engine) (set : Bool) (pred n : Nat) {i : Nat} (hi : i < 4) :
    (e.predsWith set pred (n % 2)).getLsbD i = if set = true ∧ i = pred then decide (n % 2 = 1) else e.preds.getLsbD i := by
  cases set
  · rfl
  · have only : pred ≤ i ∧ i ≤ pred ↔ i = pred := by omega
    have within : i < 64 := by omega
    have bit : (n % 2).testBit 0 = decide (n % 2 = 1) := by simp
    rw [Engine.predsWith, if_pos rfl, BitVec.getLsbD_ofNat, BitVec.testBit_toNat, putBits_getLsbD le_rfl]
    by_cases named : i = pred
    · subst named
      simp [hi, within, bit]
    · simp [hi, within, only, named]

section
variable {b : Block} {q field pred : Nat} {setp : Bool} {x : QEntry} (small : q < 240) (kind : b.qKind q = 1)
  (node : (b.node? (b.qNode q)).map NodeRec.kind = some 4)
include small kind node

/-- A WAITTAG waits for a token that is not complete. -/
theorem runWaittag_waits (early : b.complete (b.qNode q) (formTag b.stride field) = false) (done : Nat) :
    runWaittag b (.waittag q field setp pred) done = .wait := by
  obtain ⟨n, found, sequencer⟩ := Option.map_eq_some_iff.mp node
  simp [runWaittag, Nat.not_le.mpr small, kind, found, sequencer, early]

/-- A WAITTAG of a complete token of a control queue takes it and sets its predicate. -/
theorem runWaittag_takes (complete : b.complete (b.qNode q) (formTag b.stride field) = true)
    (entry : b.inputEntry (b.qNode q) 0 (formTag b.stride field) = some x) (control : x.isData = false) (done : Nat) :
    ∃ m ctxs returned totals mesh, ∃ queue : List QEntry, runWaittag b (.waittag q field setp pred) done =
      .ran { b with
        regs := m, ctxs := ctxs, returned := returned, totals := totals, mesh := mesh,
        queue := queue.filter fun y => !(y.q == x.q && y.e == x.e),
        eng := { b.eng with preds := b.eng.predsWith setp pred (leAt x.bytes 0 1 % 2) } } .sequencer 1 := by
  obtain ⟨n, found, sequencer⟩ := Option.map_eq_some_iff.mp node
  unfold runWaittag
  simp only [Nat.not_le.mpr small, kind, found, sequencer, complete, entry, Block.entryBytes, control, decide_false, bne_self_eq_false,
    Bool.or_self, Bool.not_true, Bool.false_eq_true, if_false]
  let c : Block := { b with eng := { b.eng with preds := b.eng.predsWith setp pred (leAt x.bytes 0 1 % 2) } }
  obtain ⟨m, ctxs, returned, totals, mesh, queue, fired⟩ :=
    (c.set BLK_DRG_STATUS.pred c.eng.preds.toNat).fired_eq (b.qNode q) (formTag b.stride field) x.q x.e BLK_DF_FIRES.count
  refine ⟨m, ctxs, returned, totals, mesh, queue, ?_⟩
  cases setp <;> exact congrArg (EngOut.ran · .sequencer 1) fired

end

/-- What an operation that starts makes of the block, besides BLK_DRG_STATUS. -/
theorem Block.engine_ran_eq {b b' : Block} (env : Env) {op : SOp} {isOp : SOp → Bool} {run : Block → SOp → Nat → EngOut} {h : Holds} {c : Nat}
    (starts : b.Starts op) (named : isOp op = true) (ran : run b op 1000000 = .ran b' h c) :
    ∃ m, b.engine env .none isOp run =
      { b' with regs := m, eng := { b'.eng with next := b'.eng.next + 1, sched := b'.eng.sched.run h c }, progressAt := env.now } := by
  rw [Block.engine_ran starts named ran]
  exact b'.advance_eq env _ h c

/-- An operation that waits leaves the block as it is, but for the state that a WAITTAG shows (R89). -/
theorem Block.engine_waits {b : Block} {env : Env} {op : SOp} {isOp : SOp → Bool} {run : Block → SOp → Nat → EngOut} (starts : b.Starts op)
    (named : isOp op = true) (waits : run b op 1000000 = .wait) (waittag : op.opcode = 9) :
    b.engine env .none isOp run = b.set BLK_DRG_STATUS.state 2 := by
  obtain ⟨w, word, reads⟩ := starts.nextWord
  simp only [Block.engine, word, reads, named, Bool.not_true, Bool.false_eq_true, ↓reduceIte, waits, waittag]

/-- Settles O13: a SEND and a COMBINE by the packets that they hand over, a WAITTAG by whether its token is complete. -/
theorem strideSendCombineWaittag : Obligations.StrideSendCombineWaittag := by
  intro p s empty
  refine ⟨fun vc mcast dest queue lines bank line tag starts fits reach => ?send,
    fun src dest cq slot rows bank line tag keep starts reach positive few fits => ?combine,
    fun q field setp pred starts small kind node => ⟨fun early => ?waits, fun x complete entry control => ?takes⟩⟩
  case send =>
    intro arc pkt
    obtain ⟨cost, ran⟩ := runSend_packet empty (vc := vc) queue bank tag fits reach (arc := arc) rfl
    exact ⟨_, _, rfl, State.engine_started [] (·.opcode == 6) (fun _ => runSend) starts rfl ran fun _ _ _ => rfl⟩
  case combine =>
    intro raw held
    obtain ⟨h, cost, ran⟩ := runCombine_packets empty cq bank tag keep reach positive few fits
    refine ⟨_, _, _, rfl, fun i n hn => ?_,
      State.engine_started [] (·.opcode == 7) (fun _ => runCombine) starts rfl ran fun _ _ _ => rfl⟩
    have emptied := (s.block p).eng.slot_emptySlots slot rows i hn
    cases src with
    | true => simp [Engine.slot]
    | false => cases keep with
      | true => simp [Engine.slot]
      | false => simpa [Engine.slot] using emptied
  case waits =>
    have shows := Block.engine_waits (env := s.env p) (isOp := (·.opcode == 9)) starts rfl (runWaittag_waits small kind node early _) rfl
    refine ⟨_, rfl, s.onBlock_becomes p ⟨_, _, _, shows⟩ fun a apart => ?_, ?_⟩
    · rw [show (s.block p).opWaittag (s.env p) .none = _ from shows]
      exact Block.word_set_ne _ _ _ (show a ≠ BLK_DRG_STATUS.off by simpa using apart)
    · rw [State.onBlock_block_get, show (s.block p).opWaittag (s.env p) .none = _ from shows, Block.get_set_same _ (by decide)]
      rfl
  case takes =>
    obtain ⟨m, ctxs, returned, totals, mesh, queue, ran⟩ :=
      runWaittag_takes (setp := setp) (pred := pred) small kind node complete entry control 1000000
    obtain ⟨_, advanced⟩ := Block.engine_ran_eq (s.env p) (isOp := (·.opcode == 9)) starts rfl ran
    have became : (s.block p).opWaittag (s.env p) .none = _ := advanced
    refine ⟨_, rfl, ?_, ?_, ?_, fun i hi => ?_, s.onBlock_only p _, fun y waiting => ?_⟩
    · rw [State.onBlock_block_eng, became]
    · rw [State.onBlock_block_eng, became]
    · rw [State.onBlock_block_spad, became]
    · rw [State.onBlock_block_eng, became]
      exact (s.block p).eng.predsWith_getLsbD setp pred _ hi
    · rw [State.onBlock_block_queue, became] at waiting
      simpa [imp_iff_not_or] using (List.mem_filter.mp waiting).2

end Sys2Proof.Machine
end

section
/-! O14: what stops the sequencer, and an error that is corrected. -/

namespace Sys2Proof.Machine

section
variable {b : Block} {env : Env} {hw : EngineHw} {isOp : SOp → Bool} {run : Block → SOp → Nat → EngOut} {w : Word}

/-- The word at the sequencer's place, where nothing has stopped it. -/
theorem Block.nextWord_eq (working : b.working = true) (unfenced : b.fenced = false) (goes : b.get BLK_DRG_STATUS.state ≠ 5)
    (word : b.program[b.eng.next]? = some w) : b.nextWord = some w := by
  rw [Block.nextWord, if_pos (by simp [working, unfenced, goes]), word]

/-- A word that encodes no operation stops the sequencer (R87). -/
theorem Block.engine_undefined (word : b.nextWord = some w) (undefined : SOp.decode w = none) :
    b.engine env hw isOp run = b.engineStop env 0x06 0 1 := by
  simp only [Block.engine, word, undefined]

/-- An error of the hardware stops the sequencer once the operation's rows that were committed have run (R87). -/
theorem Block.engine_stopped {op : SOp} {b' : Block} {h : Holds} {cost code done : Nat} {col : Fin 64} (word : b.nextWord = some w)
    (reads : SOp.decode w = some op) (named : isOp op = true) (ran : run b op done = .ran b' h cost) :
    b.engine env (.stop code col done) isOp run = b'.engineStop env code col.val (if code = 0x02 then 2 else 1) := by
  simp only [Block.engine, word, reads, named, Bool.not_true, Bool.false_eq_true, if_false, ran]

/-- A corrected error is counted, and the operation runs (R87). -/
theorem Block.engine_corrected {op : SOp} {b' : Block} {h : Holds} {cost : Nat} {col : Fin 64} (word : b.nextWord = some w)
    (reads : SOp.decode w = some op) (named : isOp op = true) (ran : run (b.engineEcc env col.val) op 1000000 = .ran b' h cost) :
    b.engine env (.ecc col) isOp run = b'.advance env ((b.engineEcc env col.val).engState b') h cost := by
  simp only [Block.engine, word, reads, named, Bool.not_true, Bool.false_eq_true, if_false, ran]

/-- A field of another register than BLK_DRG_STATUS reads as before once the sequencer has advanced. -/
theorem Block.advance_get (b : Block) (env : Env) (st : Nat) (h : Holds) (cost : Nat) {f : Fld} (apart : f.off ≠ BLK_DRG_STATUS.off) :
    (b.advance env st h cost).get f = b.get f :=
  congrArg (bitsOf · f.hi f.lo) (b.advance_word env st h cost apart)

/-- What a corrected error leaves (R87, R89): it is counted in BLK_DRG_ECC and named in BLK_DRG_FAULT, as one that does not last. -/
theorem Block.engineEcc_spec (b : Block) (env : Env) (col : Nat) :
    let x := b.engineEcc env col
    x.eng = b.eng ∧ x.fenced = b.fenced ∧ x.get BLK_DRG_ECC.count = min BLK_DRG_ECC.count.top (b.get BLK_DRG_ECC.count + 1) ∧
      x.get BLK_DRG_FAULT.lasting = 0 := by
  intro x
  have named : ∃ e, x = (((b.drgFault 0x01 col 1 false).count BLK_DRG_ECC.count 1).note env e) := ⟨_, rfl⟩
  obtain ⟨e, named⟩ := named
  obtain ⟨eng, -, fenced, -⟩ := ((b.drgFault 0x01 col 1 false).count BLK_DRG_ECC.count 1).note_fields env e
  rw [named]
  refine ⟨eng, fenced, ?_, ?_⟩
  · rw [Block.note_get _ _ _ _ (by decide) (by decide), Block.get_count_same _ (by decide), Block.drgFault]
    simp (disch := decide) only [Block.get_set_apart]
  · rw [Block.note_get _ _ _ _ (by decide) (by decide), Block.count, Block.drgFault]
    simp (disch := decide) only [Block.get_set_same, Block.get_set_apart]
    rfl

end

/-- Every operation of the stride program runs the engine of its block. -/
theorem exec_engine (p : PBlk) (s : State) :
    ∀ c ∈ ([.nop p .none, .loadw p .none, .stream p .none, .drain p .none, .anchor p .none, .convert p .none, .strideSend p .none,
        .combine p .none, .strideTally p .none, .waittag p .none, .splice p .none] : List Instr),
      ∃ isOp, ∃ run : Env → Block → SOp → Nat → EngOut,
        exec c s = .next (s.onBlock p fun b env => b.engine env .none isOp (run env)) := by
  simp only [List.forall_mem_cons]
  exact ⟨⟨_, fun _ => runNop, rfl⟩, ⟨_, fun _ => runLoadw, rfl⟩, ⟨_, fun env => runStream env .none, rfl⟩, 
    ⟨_, fun _ => runDrain, rfl⟩, ⟨_, fun _ => runAnchor, rfl⟩, ⟨_, runConvert, rfl⟩, ⟨_, fun _ => runSend, rfl⟩, ⟨_, fun _ => runCombine, rfl⟩,
    ⟨_, fun _ => runTally, rfl⟩, ⟨_, fun _ => runWaittag, rfl⟩, ⟨_, fun _ => runSplice, rfl⟩, List.forall_mem_nil _⟩

/-- What the module becomes when the sequencer of block `p` stops with a code (R87 to R89). -/
theorem State.engine_stops {s : State} {p : Nat} {f : Block → Env → Block} {code col attempt : Nat}
    (stops : f (s.block p) (s.env p) = (s.block p).engineStop (s.env p) code col attempt) (unfenced : (s.block p).fenced = false)
    (small : code < 256) :
    let t := s.onBlock p f
    s.OnlyBlock p t ∧ (t.block p).fenced = true ∧ (t.block p).fenceCode = code ∧ (t.block p).get BLK_DRG_STATUS.state = 5 ∧
      (t.block p).get BLK_DRG_FAULT.code = code ∧ (t.block p).get BLK_DRG_FAULT.lasting = 1 ∧
      (t.block p).get BLK_DRG_FAULT.word = (s.block p).eng.next % 4096 ∧ (t.block p).eng = (s.block p).eng ∧
      (t.block p).spad = (s.block p).spad := by
  intro t
  refine ⟨s.onBlock_only p f, ?_⟩
  simp only [t, State.onBlock_block_fenced, State.onBlock_block_fenceCode, State.onBlock_block_get, State.onBlock_block_eng,
    State.onBlock_block_spad, stops]
  exact (s.block p).engineStop_spec (s.env p) code col attempt unfenced small

/-- Settles O14: a word that encodes no operation and an error of the hardware by what a stop leaves, a corrected error by what it counts. -/
theorem strideStopsFenceTheBlock : Obligations.StrideStopsFenceTheBlock := by
  intro p s working unfenced goes
  refine ⟨fun w c word undefined op => ?undefined, fun w n code col done word reads small => ?stopped, fun w n col word reads => ?corrected⟩
  case undefined =>
    obtain ⟨isOp, run, runs⟩ := exec_engine p s c op
    have next := Block.nextWord_eq working unfenced goes word
    obtain ⟨only, fenced, code, state, fault, -, place, eng, spad⟩ :=
      s.engine_stops (p := p) (f := fun b env => b.engine env .none isOp (run env)) (Block.engine_undefined next undefined) unfenced (by decide)
    exact ⟨_, runs, only, fenced, code, state, fault, place, eng, spad⟩
  case stopped =>
    have next := Block.nextWord_eq working unfenced goes word
    obtain ⟨only, fenced, code, state, fault, lasting, -, eng, spad⟩ :=
      s.engine_stops (p := p) (f := fun b env => b.opNop env (.stop code col done)) (Block.engine_stopped next reads rfl rfl) unfenced small
    exact ⟨_, rfl, only, fenced, code, state, fault, lasting, eng, spad⟩
  case corrected =>
    have next := Block.nextWord_eq working unfenced goes word
    have runs : (s.block p).opNop (s.env p) (.ecc col) = _ := Block.engine_corrected next reads rfl rfl
    obtain ⟨eng, fenced, counted, passing⟩ := (s.block p).engineEcc_spec (s.env p) col.val
    refine ⟨_, rfl, s.onBlock_only p _, ?_, ?_, ?_, ?_⟩
    · rw [State.onBlock_block_fenced, runs]
      exact fenced.trans unfenced
    · rw [State.onBlock_block_eng, runs]
      exact congrArg (Engine.next · + 1) eng
    · rw [State.onBlock_block_get, runs, Block.advance_get _ _ _ _ _ (by decide), counted]
    · rw [State.onBlock_block_get, runs, Block.advance_get _ _ _ _ _ (by decide), passing]

end Sys2Proof.Machine
end

section
/-! O15: the groom instructions that put a value into one register. -/

namespace Sys2Proof.Machine

/-- The counters of waiting threads lie above every register that an instruction reads (R446). -/
theorem Block.not_mem_waitRegs (b : Block) (t : Nat) {a : Nat} (below : a < 0x3D00) : a ∉ b.waitRegs t := by
  intro counter
  obtain ⟨u, -, rfl⟩ := List.mem_map.mp counter
  simp only [BLK_CNT.off] at below
  omega

/-- The handle that a register names lies in the handle table (R126). -/
theorem hdlCtl_below (w : Word) : HDL_CTL.off (bitsOf w 5 0) < 0x3D00 := by
  have := bitsOf_lt w 5 0
  simp only [HDL_CTL.off]
  omega

/-- HANDLE READ after the issue (R126). -/
theorem Block.issued_doHdlRead (b : Block) (t a rb : Nat) :
    (b.issued t).doHdlRead t a rb =
      (b.issued t).retire t ((b.thread t).wr a (b.word (HDL_CTL.off (bitsOf ((b.thread t).rd rb) 5 0)))) := by
  rw [Block.doHdlRead, Block.hdlOf, Block.issued_thread, b.issued_word t (b.not_mem_waitRegs t (hdlCtl_below _))]

/-- HANDLE REF after the issue (R126). -/
theorem Block.issued_doHdlRef (b : Block) (t a rb : Nat) :
    (b.issued t).doHdlRef t a rb = (b.issued t).retire t ((b.thread t).wr a (BitVec.ofNat 64
      (bitsOf ((b.thread t).rd rb) 5 0 + 256 * b.get (HDL_CTL.gen (bitsOf ((b.thread t).rd rb) 5 0))))) := by
  simp only [Block.doHdlRef, Block.hdlOf, Block.issued_thread]
  rw [b.issued_get t (f := HDL_CTL.gen _) (hdlCtl_below _), Nat.mul_comm]

/-- A queue takes messages after the issue where it did before: no counter is a register of a queue. -/
theorem Block.issued_mqOpen (b : Block) (t q : Nat) : (b.issued t).mqOpen q = b.mqOpen q := by
  by_cases small : q < 240
  · have below : BLK_Q_CFG.off q < 0x3D00 := by simp only [BLK_Q_CFG.off]; omega
    rw [Block.mqOpen, Block.mqOpen, Block.qKind, Block.qKind, b.issued_get t (f := BLK_Q_CFG.kind q) below,
      b.issued_get t (f := BLK_Q_CFG.closed q) below]
  · simp only [Block.mqOpen, small, decide_false, Bool.false_and]

/-- An open message queue is an id of a message queue (R216) that is not closed (R220). -/
theorem Block.mqOpen_iff (b : Block) (q : Nat) :
    b.mqOpen q = true ↔ q < 240 ∧ b.qKind q = 2 ∧ b.get (BLK_Q_CFG.closed q) = 0 := by
  simp only [Block.mqOpen, Bool.and_eq_true, decide_eq_true_eq, beq_iff_eq, and_assoc]

/-- POLL after the issue (R123). -/
theorem Block.issued_doPoll (b : Block) (t a rb imm : Nat) :
    let q := bitsOf ((b.thread t).rd rb) 7 0
    let n := if q < 240 ∧ b.qKind q = 2 ∧ b.get (BLK_Q_CFG.closed q) = 0 then
      (b.messages q (bitsOf ((b.thread t).rd rb) 31 8) (nbit imm 0)).length else 0
    (b.issued t).doPoll t a rb imm = (b.issued t).retire t ((b.thread t).wr a (BitVec.ofNat 64 n)) := by
  simp only [Block.doPoll, Block.messages, Block.issued_thread, Block.issued_mqOpen, Block.issued_queue, Block.mqOpen_iff]

/-- BALKCHK query after the issue (R127). -/
theorem Block.issued_doBalkQuery (b : Block) (t a rb : Nat) :
    let slot := (b.thread t).slot (bitsOf ((b.thread t).rd rb) 1 0)
    (b.issued t).doBalkQuery t a rb =
      (b.issued t).retire t ((b.thread t).wr a (BitVec.ofNat 64 (slot.status + (if slot.st = 0 then 0 else 256)))) := by
  simp only [Block.doBalkQuery, Block.issued_thread]

/-- RAND after the issue (R106, R120): its seed is one of the two registers that the module gives to grooms. -/
theorem Block.issued_doRand (s : State) (p : Nat) (b : Block) (t rd ra : Nat) (seed3 : Bool) :
    let th := b.thread t
    (b.issued t).doRand (s.env p) t rd ra seed3 = (b.issued t).retire t (th.wr rd (randWord
      (mget chipReset s.regs (CAD_SEED.off (if seed3 then 3 else 2))) th.stride b.lblock (0x400 + th.task)
      ((th.rd ra).toNat % 2 ^ 40))) := by
  simp only [Block.doRand, Block.issued_thread, Block.issued_lblock]
  cases seed3 <;> rfl

/-- What the module becomes when thread `t` issues an instruction that retires and does no more. -/
theorem State.issue_becomes {s : State} {p t : Nat} {run : Env → Block → Block} {th : Thread} (can : (s.block p).canIssue t = true)
    (retires : run (s.env p) ((s.block p).issued t) = ((s.block p).issued t).retire t th) :
    s.BlockBecomes p ((s.block p).groomRegs t) ((s.block p).retiredAs t th)
      (s.onBlock p fun b env => b.issue env t (GroomHw.on .none false) (run env)) :=
  State.retire_becomes (f := fun b env => b.issue env t (GroomHw.on .none false) (run env))
    ((Block.issue_runs can _ _ _).trans retires)

/-- Settles O15: each instruction retires with the value that it computes from the block as it stood before the issue. -/
theorem groomResultRegister : Obligations.GroomResultRegister := by
  intro p t s can
  refine ⟨fun a rb => ?read, fun a rb => ?ref, fun a rb imm => ?poll, fun a rb => ?query, fun rd ra seed3 => ?rand, ?yield⟩
  case read => exact ⟨_, rfl, State.issue_becomes (run := fun _ x => x.doHdlRead t a rb) can (Block.issued_doHdlRead ..)⟩
  case ref => exact ⟨_, rfl, State.issue_becomes (run := fun _ x => x.doHdlRef t a rb) can (Block.issued_doHdlRef ..)⟩
  case poll => exact ⟨_, rfl, State.issue_becomes (run := fun _ x => x.doPoll t a rb imm.toNat) can (Block.issued_doPoll ..)⟩
  case query => exact ⟨_, rfl, State.issue_becomes (run := fun _ x => x.doBalkQuery t a rb) can (Block.issued_doBalkQuery ..)⟩
  case rand => exact ⟨_, rfl, State.issue_becomes (run := fun env x => x.doRand env t rd ra seed3) can (Block.issued_doRand ..)⟩
  case yield =>
    refine ⟨_, rfl, State.issue_becomes (run := fun _ x => x.doYield t) can ?_⟩
    rw [Block.doYield, Block.issued_thread]

end Sys2Proof.Machine
end

section
/-! O22: the instructions of a groom that its own registers decide, register access, and what stops a groom. -/

namespace Sys2Proof.Machine

/-! Register writes within a block (R6). -/

/-- Every register of a block's window has its fields apart. -/
theorem blkRow_apart {a : Nat} {r : RegRow} (h : findRow blkRows a = some r) : r.apart := by
  have all : ∀ x ∈ blkRows, x.apart := by
    unfold RegRow.apart
    decide
  exact all r (List.mem_of_find?_eq_some h)

/-- Whether the register table of the blocks gives a field this access code, at the place where it is stored. -/
def Fld.codedBlk (f : Fld) (c : Acc) : Bool :=
  blkPlace f.off == f.off && (findRow blkRows f.off).any fun r => r.fields.any fun x => x.hi == f.hi && x.lo == f.lo && x.acc == c

/-- A field of a block after a write of its register by access codes (R6). -/
theorem Block.get_writePlain (b : Block) {f : Fld} {c : Acc} (h : f.codedBlk c = true) (v : Word) :
    (b.writePlain f.off v).get f = c.leaves false (b.word f.off) v f.hi f.lo := by
  simp only [Fld.codedBlk, Option.any_eq_true, List.any_eq_true, Bool.and_eq_true, beq_iff_eq] at h
  obtain ⟨place, r, row, x, listed, ⟨hi, lo⟩, rfl⟩ := h
  simp only [Block.writePlain, place, row, Block.get, Regs.get, mget_mset_same]
  rw [← hi, ← lo]
  exact RegRow.write_field (blkRow_apart row) false _ v listed

/-- A write by access codes changes register words only. -/
theorem Block.writePlain_eq (b : Block) (off : Nat) (v : Word) : ∃ m, b.writePlain off v = { b with regs := m } := by
  rw [Block.writePlain]
  split
  · exact ⟨b.regs, rfl⟩
  · exact ⟨_, rfl⟩

/-- A write by access codes changes its own register's word only. -/
theorem Block.writePlain_word (b : Block) {off : Nat} (place : blkPlace off = off) (v : Word) {a : Nat} (apart : a ≠ off) :
    (b.writePlain off v).word a = b.word a := by
  rw [Block.writePlain, place]
  split
  · rfl
  · exact mget_mset_ne blkReset _ _ apart

/-- A thread's patience is written by its access code (R122, R146). -/
theorem patience_coded : ∀ v : Thr, (BLK_GRM_PATIENCE.limit v).codedBlk .rw = true := by decide

/-- A groom may write the patience of a thread (R122). -/
theorem patience_writable : ∀ v : Thr, groomWritable (BLK_GRM_PATIENCE.off v) = true := by decide

/-- A write of a thread's patience has no further meaning. -/
theorem Block.writeReg_patience (b : Block) (env : Env) (thread : Option Nat) (v : Thr) (x : Word) :
    b.writeReg env thread (BLK_GRM_PATIENCE.off v) x = b.writePlain (BLK_GRM_PATIENCE.off v) x := by
  have above : 0x2840 ≤ BLK_GRM_PATIENCE.off v := Nat.le_add_right ..
  have below : BLK_GRM_PATIENCE.off v < 0x2880 := by simp only [BLK_GRM_PATIENCE.off]; omega
  unfold Block.writeReg
  rw [if_neg (by omega), if_neg (by simp only [PKH_RING.off]; omega), if_neg (by simp only [PKH_HEAD.off]; omega),
    if_neg (by simp only [BLK_GRM_QCTL.off]; omega)]

/-! What an instruction of thread `t` makes of its block. -/

/-- A block register as a groom reads it (R5, R122). -/
def State.groomRead (s : State) (p off : Nat) : Word := if off % 8 = 0 then s.readBlk p off else 0

/-- What an instruction of thread `t` of block `p` makes of the block once it has issued (R122, R128). -/
def State.groomRun (s : State) (p t : Nat) (op : GroomOp) (env : Env) (b : Block) : Block :=
  if groomOpBad op then b.programFault env t 0x21
  else
    let (th, wr) := groomOp env.free (s.groomRead p) (b.thread t) op
    let b := (b.setThread t th).cnt (27 + t) 1
    match wr with
    | some (off, v) => if off % 8 = 0 then b.writeReg env (some t) off v else b
    | none => b

/-- An instruction of a groom is a step of its block alone where its access is aligned or it is not carried out. -/
theorem State.groomInstruction_eq (s : State) (p t : Nat) (op : GroomOp) (hw : GroomHw)
    (alone : GroomOp.skewed op = none ∨ GroomHw.stops (GroomHw.on hw (GroomOp.checked op)) = true) :
    s.groomInstruction p t op hw = s.onBlock p fun b env => b.issue env t (GroomHw.on hw (GroomOp.checked op)) (s.groomRun p t op env) := by
  unfold State.groomInstruction
  rcases alone with aligned | stopped
  · rw [aligned]
    rfl
  · simp only [stopped, Bool.not_true, Bool.and_false, Bool.false_and, Bool.false_eq_true, if_false]
    cases GroomOp.skewed op <;> rfl

/-- The block once thread `t` has issued an instruction that counts and leaves the thread as `th` (R122, R446). -/
def Block.goesOn (b : Block) (t : Nat) (th : Thread) : Block := ((b.issued t).setThread t th).cnt (27 + t) 1

/-- A thread that goes on changes itself, the turn and register words. -/
theorem Block.goesOn_eq (b : Block) (t : Nat) (th : Thread) :
    ∃ m, b.goesOn t th = { b.turned t with threads := mset threadIdle b.threads t th, regs := m } := by
  obtain ⟨m, h⟩ := b.issued_eq t
  exact ⟨_, by rw [Block.goesOn, h]; rfl⟩

/-- The registers apart from those that show the thread and count the instruction. -/
theorem Block.goesOn_word (b : Block) (t : Nat) (th : Thread) {a : Nat} (h : a ∉ b.groomRegs t) :
    (b.goesOn t th).word a = b.word a := by
  simp only [Block.groomRegs, List.mem_cons, not_or] at h
  obtain ⟨state, counter, waits⟩ := h
  rw [Block.goesOn, Block.cnt, Block.count, Block.word_set_ne _ _ _ (by exact counter), Block.setThread_word _ _ _ state, Block.issued_word _ _ waits]

section
variable {s : State} {p t : Nat} {op : GroomOp} {env : Env} {b : Block} {th : Thread}

/-- A fault of the program (R128). -/
theorem State.groomRun_bad (bad : groomOpBad op = true) : s.groomRun p t op env b = b.programFault env t 0x21 := by
  rw [State.groomRun, if_pos bad]

/-- An instruction that writes no block register: the thread goes on as it says. -/
theorem State.groomRun_plain (good : groomOpBad op = false) (does : groomOp env.free (s.groomRead p) (b.thread t) op = (th, none)) :
    s.groomRun p t op env (b.issued t) = b.goesOn t th := by
  simp only [State.groomRun, Block.issued_thread, good, does, Bool.false_eq_true, if_false, Block.goesOn]

/-- An instruction that writes a block register writes it besides. -/
theorem State.groomRun_write {off : Nat} {v : Word} (good : groomOpBad op = false) (aligned : off % 8 = 0)
    (does : groomOp env.free (s.groomRead p) (b.thread t) op = (th, some (off, v))) :
    s.groomRun p t op env (b.issued t) = (b.goesOn t th).writeReg env (some t) off v := by
  simp only [State.groomRun, Block.issued_thread, good, does, aligned, Bool.false_eq_true, if_false, if_true, Block.goesOn]

end

section
variable {s : State} {p t : Nat} {op : GroomOp} {th : Thread}

/-- What the module becomes by an instruction that its groom's own registers decide (R122). -/
theorem State.groomInstruction_goes (can : (s.block p).canIssue t = true) (aligned : GroomOp.skewed op = none) (good : groomOpBad op = false)
    (does : groomOp (s.env p).free (s.groomRead p) ((s.block p).thread t) op = (th, none)) :
    s.BlockBecomes p ((s.block p).groomRegs t)
      { (s.block p).turned t with threads := mset threadIdle (s.block p).threads t th } (s.groomInstruction p t op .none) := by
  have ran : (s.block p).issue (s.env p) t (GroomHw.on .none (GroomOp.checked op)) (s.groomRun p t op (s.env p)) =
      (s.block p).goesOn t th := by
    rw [Block.issue_runs can, State.groomRun_plain good does]
  rw [s.groomInstruction_eq p t op .none (.inl aligned)]
  apply State.onBlock_becomes
  · obtain ⟨m, went⟩ := (s.block p).goesOn_eq t th
    exact ⟨m, _, _, ran.trans went⟩
  · intro a apart
    rw [ran, Block.goesOn_word _ _ _ apart]

/-- What the module becomes by an instruction that is a fault of the program (R128). -/
theorem State.groomInstruction_faults (thread : t < 8) (can : (s.block p).canIssue t = true) (aligned : GroomOp.skewed op = none)
    (bad : groomOpBad op = true) :
    ((s.groomInstruction p t op .none).block p).get (BLK_GRM_STATE.fault t) = 0x21 ∧
      s.BlockBecomes p ((s.block p).faultRegs t) ((s.block p).faultedAs t 0x21) (s.groomInstruction p t op .none) := by
  have ran : (s.block p).issue (s.env p) t (GroomHw.on .none (GroomOp.checked op)) (s.groomRun p t op (s.env p)) =
      ((s.block p).issued t).programFault (s.env p) t 0x21 := by
    rw [Block.issue_runs can, State.groomRun_bad bad]
  rw [s.groomInstruction_eq p t op .none (.inl aligned)]
  refine ⟨?_, State.fault_becomes (f := fun b env => b.issue env t (GroomHw.on .none (GroomOp.checked op)) (s.groomRun p t op env)) ran⟩
  rw [State.onBlock_block_get, ran]
  exact Block.programFault_code _ _ _ thread (by decide)

/-- What the module becomes by a write of a thread's patience (R122). -/
theorem State.groomInstruction_patience {off : Fin 65536} {v : Thr} (ra : GReg) (can : (s.block p).canIssue t = true)
    (names : off.val = BLK_GRM_PATIENCE.off v) :
    let x := ((s.block p).thread t).rd ra
    let u := s.groomInstruction p t (.regWrite off ra) .none
    (u.block p).get (BLK_GRM_PATIENCE.limit v) = bitsOf x 19 0 ∧
      s.BlockBecomes p (off.val :: (s.block p).groomRegs t)
        { (s.block p).turned t with threads := mset threadIdle (s.block p).threads t ((s.block p).thread t).step } u := by
  intro x u
  have aligned : off.val % 8 = 0 := by rw [names, BLK_GRM_PATIENCE.off]; omega
  have coded := patience_coded v
  have place : blkPlace (BLK_GRM_PATIENCE.off v) = BLK_GRM_PATIENCE.off v := by
    simp only [Fld.codedBlk, Bool.and_eq_true, beq_iff_eq] at coded
    exact coded.1
  have good : groomOpBad (.regWrite off ra) = false := by rw [groomOpBad, names, patience_writable]; rfl
  have ran : (s.block p).issue (s.env p) t (GroomHw.on .none (GroomOp.checked (.regWrite off ra)))
      (s.groomRun p t (.regWrite off ra) (s.env p)) =
      ((s.block p).goesOn t ((s.block p).thread t).step).writePlain (BLK_GRM_PATIENCE.off v) x := by
    rw [Block.issue_runs can, State.groomRun_write good aligned rfl, names, Block.writeReg_patience]
  have alone : u = _ := s.groomInstruction_eq p t (.regWrite off ra) .none (.inl (by rw [GroomOp.skewed, if_pos aligned]))
  rw [alone]
  constructor
  · rw [State.onBlock_block_get, ran]
    exact Block.get_writePlain _ coded x
  · apply State.onBlock_becomes
    · obtain ⟨_, went⟩ := (s.block p).goesOn_eq t ((s.block p).thread t).step
      obtain ⟨m, wrote⟩ := ((s.block p).goesOn t ((s.block p).thread t).step).writePlain_eq (BLK_GRM_PATIENCE.off v) x
      exact ⟨m, (s.block p).ev, (s.block p).coalesced, by rw [ran, wrote, went]; rfl⟩
    · intro a apart
      rw [List.mem_cons, not_or, names] at apart
      obtain ⟨other, kept⟩ := apart
      rw [ran, Block.writePlain_word _ place _ other, Block.goesOn_word _ _ _ kept]

end

/-! A double-bit error of the register file (R128). -/

/-- Thread `u` stops if it runs a task. -/
def Block.stopThread (b : Block) (u : Nat) : Block :=
  if (b.thread u).state = 0 then b else b.setThread u { b.thread u with state := 5 }

/-- The state of a thread after one stops. -/
theorem Block.stopThread_state (b : Block) (u v : Nat) :
    ((b.stopThread u).thread v).state = if v = u ∧ (b.thread v).state ≠ 0 then 5 else (b.thread v).state := by
  rw [Block.stopThread]
  by_cases same : v = u
  · subst same
    by_cases idle : (b.thread v).state = 0
    · simp [idle]
    · simp [idle]
  · rw [if_neg (c := v = u ∧ _) (same ·.1)]
    split
    · rfl
    · rw [Block.thread_setThread_ne _ _ same]

/-- A thread of a task is stopped once threads with it among them have been. -/
theorem Block.stopThreads_state {v : Nat} : ∀ (us : List Nat) (b : Block), (b.thread v).state ≠ 0 → v ∈ us ∨ (b.thread v).state = 5 →
    ((us.foldl Block.stopThread b).thread v).state = 5
  | [], _, _, stopped => by simpa using stopped
  | u :: us, b, runs, named => by
    have state := b.stopThread_state u v
    refine Block.stopThreads_state us _ ?_ ?_
    · rw [state]
      split <;> simp [runs]
    · by_cases same : v = u
      · exact .inr (by rw [state, if_pos ⟨same, runs⟩])
      · rw [state, if_neg (same ·.1)]
        exact named.imp_left fun listed => (List.mem_cons.mp listed).resolve_left same

/-- Threads that stop leave all but the threads and the registers alone. -/
theorem Block.stopThreads_eq : ∀ (us : List Nat) (b : Block),
    ∃ m ths, us.foldl Block.stopThread b = { b with regs := m, threads := ths }
  | [], b => ⟨b.regs, b.threads, rfl⟩
  | u :: us, b => by
    obtain ⟨m, ths, h⟩ := Block.stopThreads_eq us (b.stopThread u)
    refine ⟨m, ths, ?_⟩
    rw [List.foldl_cons, h, Block.stopThread]
    split <;> rfl

/-- A fence leaves the threads as they are. -/
theorem Block.fence_threads (b : Block) (code : Nat) : (b.fence code).threads = b.threads := by
  rw [Block.fence]
  split
  · rfl
  · dsimp only
    split <;> split <;> rfl

/-- The parts of a lasting fault of a groom: its four threads stop, a record goes up, and the block fences itself (R128). -/
theorem Block.groomStop_parts (b : Block) (env : Env) (t code attempt : Nat) :
    ∃ e, b.groomStop env t code attempt =
      (((((List.range 4).map (4 * (t / 4) + ·)).foldl Block.stopThread b).set (BLK_GRM_STATE.fault t) code).note env e).fence code := by
  rw [List.foldl_map]
  exact ⟨_, rfl⟩

/-- What a lasting fault of a groom leaves of a block that was not fenced (R128). -/
theorem Block.groomStop_spec (b : Block) (env : Env) (t code attempt : Nat) (unfenced : b.fenced = false)
    (runs : (b.thread t).state ≠ 0) :
    let x := b.groomStop env t code attempt
    x.fenced = true ∧ x.fenceCode = code ∧ (x.thread t).state = 5 ∧ x.spad = b.spad := by
  intro x
  obtain ⟨e, parts⟩ := b.groomStop_parts env t code attempt
  have own : t ∈ (List.range 4).map (4 * (t / 4) + ·) := List.mem_map.mpr ⟨t % 4, List.mem_range.mpr (by omega), by omega⟩
  have state := Block.stopThreads_state _ b runs (.inl own)
  obtain ⟨m, ths, stopped⟩ := Block.stopThreads_eq ((List.range 4).map (4 * (t / 4) + ·)) b
  rw [stopped] at parts state
  obtain ⟨m', ev, co, noted⟩ := Block.note_eq (Block.set { b with regs := m, threads := ths } (BLK_GRM_STATE.fault t) code) env e
  rw [noted] at parts
  obtain ⟨fenced, fenceCode, -, -, -, spad⟩ := Block.fence_spec
    { Block.set { b with regs := m, threads := ths } (BLK_GRM_STATE.fault t) code with regs := m', ev := ev, coalesced := co } code unfenced
  rw [← parts] at fenced fenceCode spad
  refine ⟨fenced, fenceCode, ?_, spad⟩
  rw [Block.thread, show x.threads = ths by rw [show x = _ from parts, Block.fence_threads]; rfl]
  exact state

/-- What a thread that can issue shows (R119): its block is not fenced, and the thread is ready. -/
theorem Block.canIssue_ready {b : Block} {t : Nat} (can : b.canIssue t = true) : b.fenced = false ∧ (b.thread t).state = 1 := by
  simp only [Block.canIssue, Block.halted, Bool.and_eq_true, Bool.not_eq_true', Bool.or_eq_false_iff, beq_iff_eq] at can
  obtain ⟨⟨⟨unfenced, -⟩, ready⟩, -⟩ := can
  exact ⟨unfenced, ready⟩

/-- What the module becomes by a double-bit error of the register file (R128). -/
theorem State.groomInstruction_double {s : State} {p t : Nat} (can : (s.block p).canIssue t = true) (op : GroomOp) :
    let u := s.groomInstruction p t op .double
    (u.block p).fenced = true ∧ (u.block p).fenceCode = 0x25 ∧ ((u.block p).thread t).state = 5 ∧
      (u.block p).spad = (s.block p).spad ∧ s.OnlyBlock p u := by
  intro u
  have alone : u = _ := s.groomInstruction_eq p t op .double (.inr rfl)
  have ran : (s.block p).issue (s.env p) t (GroomHw.on .double (GroomOp.checked op)) (s.groomRun p t op (s.env p)) =
      ((s.block p).issued t).groomStop (s.env p) t 0x25 0 := by
    rw [Block.issue, if_pos can]
    rfl
  obtain ⟨unfenced, ready⟩ := Block.canIssue_ready can
  obtain ⟨fenced, code, state, spad⟩ := ((s.block p).issued t).groomStop_spec (s.env p) t 0x25 0
    (by rw [Block.issued_fenced, unfenced]) (by rw [Block.issued_thread, ready]; decide)
  rw [alone]
  refine ⟨?_, ?_, ?_, ?_, s.onBlock_only p _⟩
  · rw [State.onBlock_block_fenced, ran, fenced]
  · rw [State.onBlock_block_fenceCode, ran, code]
  · rw [State.onBlock_block_thread, ran, state]
  · rw [State.onBlock_block_spad, ran, spad, Block.issued_spad]

/-! The values of the integer operations and the branch conditions (R122). -/

section
variable (wide : Word → Word → Word) (divOv remOv a b : Word)

/-- The unsigned comparison, as numbers. -/
theorem intOp_ltu : intOp .ltu wide divOv remOv a b = if a.toNat < b.toNat then 1 else 0 := by
  simp only [intOp, BitVec.ult, decide_eq_true_eq]
  rfl

/-- Division by zero. -/
theorem intOp_div_zero : intOp .div wide divOv remOv a 0 = BitVec.allOnes 64 := by rw [intOp, if_pos rfl]

/-- The remainder by zero. -/
theorem intOp_rem_zero : intOp .rem wide divOv remOv a 0 = BitVec.allOnes 64 := by rw [intOp, if_pos rfl]

variable {b}

/-- The unsigned quotient, as a number. -/
theorem intOp_divu (h : b ≠ 0) : intOp .divu wide divOv remOv a b = BitVec.ofNat 64 (a.toNat / b.toNat) := by
  rw [← BitVec.toNat_udiv, BitVec.ofNat_toNat, BitVec.setWidth_eq]
  exact if_neg h

/-- The unsigned remainder, as a number. -/
theorem intOp_remu (h : b ≠ 0) : intOp .remu wide divOv remOv a b = BitVec.ofNat 64 (a.toNat % b.toNat) := by
  rw [← BitVec.toNat_umod, BitVec.ofNat_toNat, BitVec.setWidth_eq]
  exact if_neg h

/-- A shift by less than the word's width. -/
theorem intOp_shl (h : b.toNat < 64) : intOp .shl wide divOv remOv a b = a <<< b.toNat := if_pos h

end

/-- Settles O22: each instruction by the thread that it leaves, a fault and an error of the hardware by what they stop. -/
theorem groomInstruction : Obligations.GroomInstruction := by
  intro p t s can b th runs
  have goes : ∀ {op : GroomOp} {th' : Thread}, GroomOp.skewed op = none → groomOpBad op = false →
      groomOp (s.env p).free (s.groomRead p) th op = (th', none) → runs op th' := fun aligned good does =>
    ⟨_, rfl, State.groomInstruction_goes can aligned good does⟩
  refine ⟨fun rd ra rb => ?integer, fun ra rb target => ?branch, fun rd off below aligned => ?read,
    fun off ra aligned packhorse groom control op named => ?fault, fun off v ra names => ?patience, fun op => ?double⟩
  case integer =>
    intro x y
    have int : ∀ (o : IntOp) {v : Word}, intOp o Config.shiftWide Config.divOverflow Config.remOverflow x y = v →
        runs (.int o rd ra (.reg rb)) (th.wr rd v).step := fun o v value => goes rfl rfl (by rw [← value]; rfl)
    refine ⟨int .add rfl, int .sub rfl, int .mul rfl, int .ltu (intOp_ltu ..), fun zero => ⟨int .div ?_, int .rem ?_⟩,
      fun nonzero => ⟨int .divu (intOp_divu _ _ _ _ nonzero), int .remu (intOp_remu _ _ _ _ nonzero)⟩,
      fun short => int .shl (intOp_shl _ _ _ _ short)⟩
    · rw [zero, intOp_div_zero]
    · rw [zero, intOp_rem_zero]
  case branch =>
    refine ⟨goes rfl rfl ?_, goes rfl rfl ?_, goes rfl rfl rfl, goes rfl rfl rfl⟩
    · by_cases taken : th.rd ra = th.rd rb <;> simp [groomOp, condHolds, taken]
    · by_cases taken : (th.rd ra).toInt < (th.rd rb).toInt <;> simp [groomOp, condHolds, BitVec.slt, taken]
  case read =>
    refine goes ?_ ?_ ?_
    · rw [GroomOp.skewed, if_pos aligned]
    · simpa [groomOpBad] using below
    · simp only [groomOp, State.groomRead, aligned, if_true]
  case fault =>
    have outside : groomWritable off = false := by
      simp only [groomWritable, Bool.or_eq_false_iff, Bool.and_eq_false_iff, decide_eq_false_iff_not]
      omega
    simp only [List.mem_cons, List.not_mem_nil, or_false] at named
    rcases named with rfl | rfl
    · exact ⟨_, rfl, State.groomInstruction_faults t.isLt can rfl rfl⟩
    · exact ⟨_, rfl, State.groomInstruction_faults t.isLt can (by rw [GroomOp.skewed, if_pos aligned])
        (by rw [groomOpBad, outside]; rfl)⟩
  case patience => exact ⟨_, rfl, State.groomInstruction_patience ra can names⟩
  case double => exact ⟨_, rfl, State.groomInstruction_double can op⟩

end Sys2Proof.Machine
end

section
/-! O9: the words of the device-specific groom instructions. -/

namespace Sys2Proof.Machine

/-- The word of an instruction as its places, the major opcode first (R123). -/
def GrmSpecial.places (i : GrmSpecial) : List (Nat × Nat) := [(6, 0x3E), (4, i.func), (5, i.a), (5, i.b), (5, i.c), (7, i.imm)]

/-- The fields fit their places where the instruction is well-formed. -/
theorem GrmSpecial.wf_iff (i : GrmSpecial) : i.wf = true ↔ PlacesFit i.places := by
  simp [GrmSpecial.wf, GrmSpecial.places, PlacesFit, and_assoc]

/-- A word reads as an instruction where it has the instruction's places. -/
theorem GrmSpecial.decode_iff (w : BitVec 32) (i : GrmSpecial) : GrmSpecial.decode w = some i ↔ ReadsAs w.toNat i.places := by
  obtain ⟨func, a, b, c, imm⟩ := i
  simp [GrmSpecial.decode, GrmSpecial.places, ReadsAs, placesWidth]

/-- A word has an instruction's places where it is the instruction's own and the fields fit: the places fill the word. -/
theorem GrmSpecial.readsAs_iff_encode (w : BitVec 32) (i : GrmSpecial) :
    ReadsAs w.toNat i.places ↔ i.encode = w ∧ PlacesFit i.places := by
  have width : placesWidth i.places = 32 := rfl
  have value : i.encode = BitVec.ofNat 32 (placesValue i.places) := by
    simp [GrmSpecial.encode, GrmSpecial.places, placesValue, placesWidth, Nat.add_assoc]
  rw [readsAs_iff, width, Nat.mod_eq_of_lt w.isLt, value]
  refine and_congr_left fun fit => ⟨fun same => by rw [← same, BitVec.ofNat_toNat, BitVec.setWidth_eq], fun own => ?_⟩
  rw [← own, BitVec.toNat_ofNat, Nat.mod_eq_of_lt (width ▸ placesValue_lt fit)]

/-- Settles O9: a word reads as an instruction exactly where it is the word that the instruction encodes and the fields fit. -/
theorem groomSpecialRoundTrip : Obligations.GroomSpecialRoundTrip := by
  have reads : ∀ w i, GrmSpecial.decode w = some i ↔ i.encode = w ∧ i.wf = true := fun w i => by
    rw [GrmSpecial.decode_iff, GrmSpecial.readsAs_iff_encode, GrmSpecial.wf_iff]
  exact ⟨fun i wf => (reads _ i).mpr ⟨rfl, wf⟩, fun w i h => ((reads w i).mp h).symm⟩

end Sys2Proof.Machine
end

section
/-! SUPPORT. What the module becomes when a groom issues an instruction that also changes its block, and a program fault. -/

namespace Sys2Proof.Machine

/-- A register word of the block after a step. -/
theorem State.onBlock_block_word (s : State) (p : Nat) (f : Block → Env → Block) (a : Nat) :
    ((s.onBlock p f).block p).word a = (f (s.block p) (s.env p)).word a := by
  simp only [Block.word, State.onBlock_block_regs]

/-- A field reads as its word does. -/
theorem Block.get_of_word {b c : Block} {f : Fld} (h : b.word f.off = c.word f.off) : b.get f = c.get f :=
  congrArg (bitsOf · f.hi f.lo) h

/-- The registers apart from those in which a thread shows itself and counts what it retires. -/
theorem Block.retire_word_apart (x : Block) (t : Nat) (th : Thread) {a : Nat} (state : a ≠ BLK_GRM_STATE.off t) (counter : a ≠ BLK_CNT.off (27 + t)) :
    (x.retire t th).word a = x.word a := by
  rw [Block.retire, Block.cnt, Block.count, Block.word_set_ne _ _ _ (by exact counter), Block.setThread_word _ _ _ state]

section
variable {s : State} {p t : Nat} {run : Env → Block → Block} {c x : Block} {th : Thread} {regs : List Nat}
  (can : (s.block p).canIssue t = true)
include can

/-- What an issued instruction makes of its block. -/
theorem State.issue_ran : (s.block p).issue (s.env p) t (GroomHw.on .none false) (run (s.env p)) = run (s.env p) ((s.block p).issued t) :=
  Block.issue_runs can _ _ _

/-- What the module becomes when thread `t` issues an instruction that makes `x` of its block and retires: `c` is the block before with what
`x` changes in it besides registers. -/
theorem State.issue_retires (ran : run (s.env p) ((s.block p).issued t) = x.retire t th) (shape : ∃ m, x = { c.turned t with regs := m })
    (words : ∀ a, a ∉ regs → x.word a = ((s.block p).issued t).word a) :
    let u := s.onBlock p fun b env => b.issue env t (GroomHw.on .none false) (run env)
    (∀ a, a ≠ BLK_GRM_STATE.off t → a ≠ BLK_CNT.off (27 + t) → (u.block p).word a = x.word a) ∧
      s.BlockBecomes p (regs ++ (s.block p).groomRegs t) (c.retiredAs t th) u := by
  have made := (State.issue_ran can).trans ran
  refine ⟨fun a state counter => ?_, State.onBlock_becomes s p ?_ fun a apart => ?_⟩
  · rw [State.onBlock_block_word, made, Block.retire_word_apart _ _ _ state counter]
  · obtain ⟨m, rfl⟩ := shape
    exact ⟨_, _, _, made⟩
  · simp only [Block.groomRegs, List.mem_append, List.mem_cons, not_or] at apart
    obtain ⟨own, state, counter, waits⟩ := apart
    rw [made, Block.retire_word_apart _ _ _ state counter, words a own, Block.issued_word _ _ waits]

/-- What the module becomes when thread `t` issues an instruction that makes `x` of its block and leaves the thread waiting as `th`. -/
theorem State.issue_waits (ran : run (s.env p) ((s.block p).issued t) = x.setThread t th) (shape : ∃ m, x = { c.turned t with regs := m })
    (words : ∀ a, x.word a = ((s.block p).issued t).word a) :
    s.BlockBecomes p (BLK_GRM_STATE.off t :: (s.block p).waitRegs t) { c.turned t with threads := mset threadIdle c.threads t th }
      (s.onBlock p fun b env => b.issue env t (GroomHw.on .none false) (run env)) := by
  have made := (State.issue_ran can).trans ran
  refine State.onBlock_becomes s p ?_ fun a apart => ?_
  · obtain ⟨m, rfl⟩ := shape
    exact ⟨_, _, _, made⟩
  · rw [List.mem_cons, not_or] at apart
    obtain ⟨state, waits⟩ := apart
    rw [made, Block.setThread_word _ _ _ state, words, Block.issued_word _ _ waits]

/-- What the module becomes when thread `t` issues an instruction that is a fault of the program (R128). -/
theorem State.issue_faults {code : Nat} (thread : t < 8) (small : code < 256)
    (ran : run (s.env p) ((s.block p).issued t) = ((s.block p).issued t).programFault (s.env p) t code) :
    let u := s.onBlock p fun b env => b.issue env t (GroomHw.on .none false) (run env)
    (u.block p).get (BLK_GRM_STATE.fault t) = code ∧
      s.BlockBecomes p ((s.block p).faultRegs t) ((s.block p).faultedAs t code) u := by
  have made := (State.issue_ran can).trans ran
  refine ⟨?_, State.fault_becomes (f := fun b env => b.issue env t (GroomHw.on .none false) (run env)) made⟩
  rw [State.onBlock_block_get, made]
  exact Block.programFault_code _ _ _ thread small

end

end Sys2Proof.Machine
end

section
/-! O16: HANDLE OPEN, CLOSE, REBIND and BUMP. -/

namespace Sys2Proof.Machine

/-- Bits put into two places that share none, in either order. -/
theorem putBits_comm {hi lo hi' lo' : Nat} (h : lo ≤ hi) (h' : lo' ≤ hi') (apart : hi < lo' ∨ hi' < lo) (w : Word) (v v' : Nat) :
    putBits (putBits w hi lo v) hi' lo' v' = putBits (putBits w hi' lo' v') hi lo v := by
  apply BitVec.eq_of_getLsbD_eq
  intro i _
  simp only [putBits_getLsbD h, putBits_getLsbD h']
  by_cases first : lo ≤ i ∧ i ≤ hi
  · rw [if_neg (by omega), if_pos first, if_pos first]
  · rw [if_neg first, if_neg first]

/-- The registers of the handle table are no thread's state and no counter. -/
theorem hdl_apart {a : Nat} (table : a < 0x2000) (t : Nat) : a ≠ BLK_GRM_STATE.off t ∧ a ≠ BLK_CNT.off (27 + t) := by
  simp only [BLK_GRM_STATE.off, BLK_CNT.off]
  omega

/-- The registers of the handle that a register names (R126). -/
theorem hdlOff_lt (w : Word) : HDL_CTL.off (bitsOf w 5 0) < 0x2000 ∧ HDL_BASE.off (bitsOf w 5 0) < 0x2000 := by
  have := bitsOf_lt w 5 0
  simp only [HDL_CTL.off, HDL_BASE.off]
  omega

section
variable {s : State} {p t : Nat} {a rb : Nat} (can : (s.block p).canIssue t = true)
include can

/-- What the module becomes by a HANDLE operation that changes nothing of the table and returns a status. -/
theorem State.hdlOp_returns {run : Env → Block → Block} (status : Nat)
    (ran : run (s.env p) ((s.block p).issued t) = ((s.block p).issued t).hdlDone t a status) :
    s.BlockBecomes p ((s.block p).groomRegs t)
      ((s.block p).retiredAs t (((s.block p).thread t).wr a (BitVec.ofNat 64 status)))
      (s.onBlock p fun b env => b.issue env t (GroomHw.on .none false) (run env)) :=
  State.issue_becomes can (by rw [ran, Block.hdlDone, Block.issued_thread])

/-- What the module becomes by a HANDLE operation that makes `x` of its block, which differs from `c` by registers only, and returns OK:
a word of the handle table reads as `x` has it. -/
theorem State.hdlOp_changes {run : Env → Block → Block} {c x : Block} {regs : List Nat}
    (ran : run (s.env p) ((s.block p).issued t) = x.hdlDone t a 0) (shape : ∃ m, x = { c.turned t with regs := m })
    (same : c.threads = (s.block p).threads) (words : ∀ a, a ∉ regs → x.word a = ((s.block p).issued t).word a) :
    let u := s.onBlock p fun b env => b.issue env t (GroomHw.on .none false) (run env)
    (∀ a, a < 0x2000 → (u.block p).word a = x.word a) ∧
      s.BlockBecomes p (regs ++ (s.block p).groomRegs t) (c.retiredAs t (((s.block p).thread t).wr a 0)) u := by
  have thread : x.thread t = (s.block p).thread t := by
    obtain ⟨m, rfl⟩ := shape
    exact congrArg (mget threadIdle · t) same
  have retires : run (s.env p) ((s.block p).issued t) = x.retire t (((s.block p).thread t).wr a 0) := by
    rw [ran, Block.hdlDone, thread]
    rfl
  obtain ⟨word, becomes⟩ := State.issue_retires can retires shape words
  exact ⟨fun a table => word a (hdl_apart table t).1 (hdl_apart table t).2, becomes⟩

end

section
variable (b : Block) (t a rb : Nat)

/-- A field of the handle that a register names stands as before the issue. -/
theorem Block.issued_hdl (f : Nat → Fld) (table : ∀ h, (f h).off = HDL_CTL.off h) :
    (b.issued t).get (f ((b.issued t).hdlOf t rb)) = b.get (f (bitsOf ((b.thread t).rd rb) 5 0)) := by
  rw [Block.hdlOf, Block.issued_thread, b.issued_get t (by rw [table]; exact hdlCtl_below _)]

/-- Whether the named handle is exposed, after the issue. -/
theorem Block.issued_exposed : (b.issued t).exposed ((b.issued t).hdlOf t rb) = b.exposed (bitsOf ((b.thread t).rd rb) 5 0) := by
  rw [Block.exposed, Block.exposed, b.issued_hdl t rb HDL_CTL.window fun _ => rfl, b.issued_hdl t rb HDL_CTL.closing fun _ => rfl]

/-- The control word of the named handle after the issue. -/
theorem Block.issued_hdlWord : (b.issued t).word (HDL_CTL.off (bitsOf ((b.thread t).rd rb) 5 0)) =
    b.word (HDL_CTL.off (bitsOf ((b.thread t).rd rb) 5 0)) :=
  b.issued_word t (b.not_mem_waitRegs t (hdlCtl_below _))

/-- A generation that goes on, in its control word (R137). -/
theorem Block.word_bumpGen (h : Nat) : (b.bumpGen h).word (HDL_CTL.off h) =
    putBits (b.word (HDL_CTL.off h)) 7 0 (b.get (HDL_CTL.gen h) + 1) :=
  b.word_set_same (HDL_CTL.gen h) _

end

/-- Settles O16: each operation by the control word that it leaves, or by the status with which it changes nothing. -/
theorem groomHandleOperations : Obligations.GroomHandleOperations := by
  intro p t a rb rc s can b th h ctl next
  have mgAfter := b.issued_hdl t rb HDL_CTL.mg fun _ => rfl
  have wrAfter := b.issued_hdl t rb HDL_CTL.wr fun _ => rfl
  have tierAfter := b.issued_hdl t rb HDL_CTL.tier fun _ => rfl
  have closingAfter := b.issued_hdl t rb HDL_CTL.closing fun _ => rfl
  have windowAfter := b.issued_hdl t rb HDL_CTL.window fun _ => rfl
  have named : (b.issued t).hdlOf t rb = h := by rw [Block.hdlOf, Block.issued_thread]
  have ctlWord : (b.issued t).word (HDL_CTL.off h) = ctl := b.issued_hdlWord t rb
  have genAfter : (b.issued t).get (HDL_CTL.gen h) = b.get (HDL_CTL.gen h) := Block.get_of_word ctlWord
  obtain ⟨m, issued⟩ := b.issued_eq t
  obtain ⟨ctlBelow, baseBelow⟩ : HDL_CTL.off h < 0x2000 ∧ HDL_BASE.off h < 0x2000 := hdlOff_lt _
  refine ⟨fun unmanaged c op => ?denied, fun managed writes local_ still => ?opens, fun managed opened still => ?closes,
    fun managed hidden => ⟨?rebinds, ?bumps⟩⟩
  case denied =>
    simp only [List.mem_cons, List.not_mem_nil, or_false] at op
    rcases op with rfl | rfl | rfl | rfl
    · refine ⟨_, rfl, State.hdlOp_returns (run := fun _ x => x.doHdlOpen t a rb) can 6 ?_⟩
      exact if_pos (.inl (mgAfter.trans unmanaged))
    · refine ⟨_, rfl, State.hdlOp_returns (run := fun env x => x.doHdlClose env t a rb) can 6 ?_⟩
      exact if_pos (mgAfter.trans unmanaged)
    · refine ⟨_, rfl, State.hdlOp_returns (run := fun _ x => x.doHdlRebind t a rb rc) can 6 ?_⟩
      exact if_pos (.inl (mgAfter.trans unmanaged))
    · refine ⟨_, rfl, State.hdlOp_returns (run := fun _ x => x.doHdlBump t a rb) can 6 ?_⟩
      exact if_pos (.inl (mgAfter.trans unmanaged))
  case opens =>
    have ran : (b.issued t).doHdlOpen t a rb = ((b.issued t).set (HDL_CTL.window h) 1).hdlDone t a 0 := by
      rw [Block.doHdlOpen]
      rw [mgAfter, wrAfter, tierAfter, closingAfter, managed, writes, still, if_neg (by simpa using local_), named]
    obtain ⟨word, becomes⟩ := State.hdlOp_changes (c := b) (regs := [HDL_CTL.off h]) (run := fun _ x => x.doHdlOpen t a rb) can ran
      ⟨_, by rw [issued]; rfl⟩ rfl fun x apart => Block.word_set_ne _ _ _ (by exact List.ne_of_not_mem_cons apart)
    refine ⟨_, rfl, ?_, becomes⟩
    exact (word _ ctlBelow).trans ((Block.word_set_same _ (HDL_CTL.window h) _).trans (congrArg (putBits · 59 59 1) ctlWord))
  case closes =>
    let x := (Block.set { b.issued t with closeAt := mset natZero b.closeAt h s.now } (HDL_CTL.closing h) 1).bumpGen h
    have ran : (b.issued t).doHdlClose (s.env p) t a rb = x.hdlDone t a 0 := by
      rw [Block.doHdlClose]
      dsimp only
      rw [mgAfter, closingAfter, windowAfter, managed, opened, still, named, Block.issued_closeAt]
      rfl
    obtain ⟨word, becomes⟩ := State.hdlOp_changes (c := { b with closeAt := mset natZero b.closeAt h s.now }) (regs := [HDL_CTL.off h])
      (run := fun env x => x.doHdlClose env t a rb) can ran ⟨_, by simp only [x, issued]; rfl⟩ rfl
      fun y apart => (Block.word_set_ne _ _ _ (by exact List.ne_of_not_mem_cons apart)).trans
        (Block.word_set_ne _ _ _ (by exact List.ne_of_not_mem_cons apart))
    refine ⟨_, rfl, (word _ ctlBelow).trans ?_, becomes⟩
    have gen : (Block.set { b.issued t with closeAt := mset natZero b.closeAt h s.now } (HDL_CTL.closing h) 1).get (HDL_CTL.gen h) =
        b.get (HDL_CTL.gen h) :=
      (Block.get_set_apart _ (by exact le_rfl) (by exact Nat.zero_le _) (.inr (.inr (by show 7 < 58; omega))) _).trans genAfter
    rw [Block.word_bumpGen, gen]
    refine (congrArg (putBits · 7 0 _) (Block.word_set_same _ (HDL_CTL.closing h) _)).trans ?_
    exact (putBits_comm (by exact le_rfl) (by omega) (.inr (by show 7 < 58; omega)) _ _ _).trans
      (congrArg (fun w => putBits (putBits w 7 0 _) 58 58 1) ctlWord)
  case rebinds =>
    let x := ((b.issued t).set (HDL_BASE.addr h) (th.rd rc).toNat).bumpGen h
    have ran : (b.issued t).doHdlRebind t a rb rc = x.hdlDone t a 0 := by
      rw [Block.doHdlRebind]
      rw [mgAfter, b.issued_exposed, managed, hidden, named, Block.issued_thread, if_neg (by simp)]
    have ctlBase : HDL_CTL.off h ≠ HDL_BASE.off h := by simp only [HDL_CTL.off, HDL_BASE.off]; omega
    obtain ⟨word, becomes⟩ := State.hdlOp_changes (c := b) (regs := [HDL_CTL.off h, HDL_BASE.off h])
      (run := fun _ x => x.doHdlRebind t a rb rc) can ran ⟨_, by simp only [x, issued]; rfl⟩ rfl fun y apart => by
        simp only [List.mem_cons, List.not_mem_nil, or_false, not_or] at apart
        exact (Block.word_set_ne _ _ _ (by exact apart.1)).trans (Block.word_set_ne _ _ _ (by exact apart.2))
    refine ⟨_, rfl, (word _ ctlBelow).trans ?_, (Block.get_of_word (word _ baseBelow)).trans ?_, becomes⟩
    · rw [Block.word_bumpGen, Block.word_set_ne _ _ _ (by exact ctlBase),
        Block.get_set_apart _ (by exact Nat.zero_le _) (by exact Nat.zero_le _) (.inl (by exact Ne.symm ctlBase)), ctlWord, genAfter]
    · exact (Block.get_set_apart _ (by exact Nat.zero_le _) (by exact Nat.zero_le _) (.inl (by exact ctlBase)) _).trans
        (Block.get_set_same _ ⟨by exact Nat.zero_le _, by show 47 < 64; omega⟩ _)
  case bumps =>
    have ran : (b.issued t).doHdlBump t a rb = ((b.issued t).bumpGen h).hdlDone t a 0 := by
      rw [Block.doHdlBump]
      rw [mgAfter, b.issued_exposed, managed, hidden, named, if_neg (by simp)]
    obtain ⟨word, becomes⟩ := State.hdlOp_changes (c := b) (regs := [HDL_CTL.off h]) (run := fun _ x => x.doHdlBump t a rb) can ran
      ⟨_, by rw [issued]; rfl⟩ rfl fun y apart => Block.word_set_ne _ _ _ (by exact List.ne_of_not_mem_cons apart)
    refine ⟨_, rfl, (word _ ctlBelow).trans ?_, becomes⟩
    rw [Block.word_bumpGen, ctlWord, genAfter]

end Sys2Proof.Machine
end

section
/-! SUPPORT. What a groom store leaves in the gatherer (R130 to R132), for a line that the gatherer does not hold yet and a bank with a free
entry. -/

namespace Sys2Proof.Machine

/-- Storing bytes into an entry leaves its bank. -/
@[simp] theorem gatherPut_bank (bs : List Byte) : ∀ (e : GEntry) (i : Nat), (gatherPut e i bs).bank = e.bank := by
  induction bs with
  | nil => exact fun _ _ => rfl
  | cons v vs ih => exact fun e i => ih _ _

/-- Storing bytes into an entry leaves its line. -/
@[simp] theorem gatherPut_line (bs : List Byte) : ∀ (e : GEntry) (i : Nat), (gatherPut e i bs).line = e.line := by
  induction bs with
  | nil => exact fun _ _ => rfl
  | cons v vs ih => exact fun e i => ih _ _

/-- The bytes of an entry after a store into it. -/
theorem gatherPut_data (bs : List Byte) : ∀ (e : GEntry) (i j : Nat), i + bs.length ≤ e.data.length →
    (gatherPut e i bs).data.getD j 0 = if i ≤ j ∧ j < i + bs.length then bs.getD (j - i) 0 else e.data.getD j 0 := by
  induction bs with
  | nil =>
    intro e i j _
    rw [if_neg (by simp), gatherPut]
  | cons v vs ih =>
    intro e i j fits
    simp only [List.length_cons] at fits ⊢
    rw [gatherPut, ih _ _ _ (by rw [List.length_set]; omega)]
    by_cases here : j = i
    · subst here
      rw [if_neg (by omega), if_pos (by omega), Nat.sub_self]
      simp [List.getD_eq_getElem?_getD, List.getElem?_set_self (show j < e.data.length by omega)]
    · by_cases later : i + 1 ≤ j ∧ j < i + 1 + vs.length
      · rw [if_pos later, if_pos (by omega), show j - i = j - (i + 1) + 1 by omega]
        rfl
      · rw [if_neg later, if_neg (by omega)]
        simp [List.getD_eq_getElem?_getD, List.getElem?_set_ne (Ne.symm here)]

/-- The byte mask of an entry after a store into it. -/
theorem gatherPut_mask (bs : List Byte) : ∀ (e : GEntry) (i j : Nat), i + bs.length ≤ e.mask.length →
    (gatherPut e i bs).mask.getD j false = if i ≤ j ∧ j < i + bs.length then true else e.mask.getD j false := by
  induction bs with
  | nil =>
    intro e i j _
    rw [if_neg (by simp), gatherPut]
  | cons v vs ih =>
    intro e i j fits
    simp only [List.length_cons] at fits ⊢
    rw [gatherPut, ih _ _ _ (by rw [List.length_set]; omega)]
    by_cases here : j = i
    · subst here
      rw [if_neg (by omega), if_pos (by omega)]
      simp [List.getD_eq_getElem?_getD, List.getElem?_set_self (show j < e.mask.length by omega)]
    · rw [List.getD_eq_getElem?_getD, List.getElem?_set_ne (Ne.symm here), ← List.getD_eq_getElem?_getD]
      exact if_congr (by omega) rfl rfl

/-- Storing bytes into an entry leaves the length of its mask. -/
@[simp] theorem gatherPut_mask_length (bs : List Byte) : ∀ (e : GEntry) (i : Nat), (gatherPut e i bs).mask.length = e.mask.length := by
  induction bs with
  | nil => exact fun _ _ => rfl
  | cons v vs ih => exact fun e i => (ih _ _).trans (List.length_set ..)

/-- The entry that a store by thread `t` of bytes at scratch address `a` makes for its line. -/
def storedEntry (t a : Nat) (bytes : List Byte) : GEntry :=
  { gatherPut ⟨a / 65536 % 8, a / 64 % 1024, List.replicate 64 0, List.replicate 64 false, 0⟩ (a % 64) bytes with threads := 0 ||| 2 ^ t }

/-- The line of an address of the scratchpad. -/
theorem spadAddr_of_lt {a : Nat} (h : a < 0x80000) : spadAddr (a / 65536 % 8) (a / 64 % 1024) = a / 64 * 64 := by
  rw [spadAddr]
  omega

/-- The line of a store's entry. -/
theorem storedEntry_line {t a : Nat} (bytes : List Byte) (h : a < 0x80000) :
    spadAddr (storedEntry t a bytes).bank (storedEntry t a bytes).line = a / 64 * 64 := by
  simp only [storedEntry, gatherPut_bank, gatherPut_line]
  exact spadAddr_of_lt h

/-- Whether a store's entry holds a byte of its line. -/
theorem storedEntry_mask {t a : Nat} {bytes : List Byte} (fits : a % 64 + bytes.length ≤ 64) (j : Nat) :
    (storedEntry t a bytes).mask.getD j false = decide (a % 64 ≤ j ∧ j < a % 64 + bytes.length) := by
  rw [storedEntry, gatherPut_mask _ _ _ _ (by simpa using fits)]
  have clear : (List.replicate 64 false).getD j false = false := List.getElem?_getD_replicate_default_eq ..
  rw [clear]
  simp

/-- The byte that a store's entry holds. -/
theorem storedEntry_data {t a j : Nat} {bytes : List Byte} (fits : a % 64 + bytes.length ≤ 64)
    (within : a % 64 ≤ j ∧ j < a % 64 + bytes.length) : (storedEntry t a bytes).data.getD j 0 = bytes.getD (j - a % 64) 0 := by
  rw [storedEntry, gatherPut_data _ _ _ _ (by simpa using fits), if_pos within]

/-- A store of fewer than 64 bytes does not fill its entry. -/
theorem storedEntry_open {t a : Nat} {bytes : List Byte} (fits : a % 64 + bytes.length ≤ 64) (short : bytes.length < 64) :
    (storedEntry t a bytes).mask.all id = false := by
  obtain ⟨j, small, outside⟩ : ∃ j, j < 64 ∧ ¬ (a % 64 ≤ j ∧ j < a % 64 + bytes.length) := by
    by_cases first : a % 64 = 0
    · exact ⟨63, by omega, by omega⟩
    · exact ⟨0, by omega, by omega⟩
  have length : (storedEntry t a bytes).mask.length = 64 := by simp [storedEntry]
  have clear := storedEntry_mask (t := t) fits j
  rw [decide_eq_false outside, List.getD_eq_getElem _ _ (length ▸ small)] at clear
  rw [List.all_eq_false]
  exact ⟨_, List.getElem_mem (length ▸ small), by simpa using clear⟩

section
variable {b : Block} {t a : Nat} {bytes : List Byte} (inside : a < 0x80000)
  (none : ∀ e ∈ b.gather, spadAddr e.bank e.line ≠ a / 64 * 64)
include inside none

/-- A store to a line that the gatherer does not hold enters the gatherer at its end; nothing is written back. -/
theorem Block.groomPut_new (room : (b.gather.filter fun e => e.bank == a / 65536).length < 16)
    (fits : a % 64 + bytes.length ≤ 64) (short : bytes.length < 64) :
    b.groomPut t a bytes = { b with gather := b.gather ++ [storedEntry t a bytes] } := by
  have bank : a / 65536 % 8 = a / 65536 := by omega
  have absent : (b.gather.any fun e => spadAddr e.bank e.line == a / 64 * 64) = false := by
    rw [List.any_eq_false]
    exact fun e he => by simpa using none e he
  have entered : b.gatherFor a =
      { b with gather := b.gather ++ [⟨a / 65536 % 8, a / 64 % 1024, List.replicate 64 0, List.replicate 64 false, 0⟩] } := by
    rw [Block.gatherFor, absent]
    simp only [bank, if_neg (Nat.not_le.2 room)]
    rfl
  have put : (b.gatherFor a).gather.map (fun e : GEntry => if spadAddr e.bank e.line == a / 64 * 64 then
      { gatherPut e (a % 64) bytes with threads := e.threads ||| 2 ^ t } else e) = b.gather ++ [storedEntry t a bytes] := by
    rw [entered]
    simp only [List.map_append, List.map_cons, List.map_nil, spadAddr_of_lt inside, beq_self_eq_true, if_true]
    congr 1
    exact (List.map_congr_left fun e he => if_neg (by simpa using none e he)).trans (List.map_id' _)
  have unfilled : ((b.gather ++ [storedEntry t a bytes]).find? fun e : GEntry =>
      spadAddr e.bank e.line == a / 64 * 64 && e.mask.all id) = Option.none := by
    rw [List.find?_eq_none]
    intro e he
    rw [List.mem_append, List.mem_singleton] at he
    rcases he with he | rfl
    · simp [none e he]
    · simp [storedEntry_open fits short]
  rw [Block.groomPut]
  simp only [put, unfilled]
  rw [entered]

/-- What a groom sees of the scratchpad after a store to a line that the gatherer did not hold. -/
theorem Block.groomByte_stored {c : Block} (spad : c.spad = b.spad) (gather : c.gather = b.gather ++ [storedEntry t a bytes])
    (fits : a % 64 + bytes.length ≤ 64) (x : Nat) :
    c.groomByte x = if a ≤ x ∧ x < a + bytes.length then bytes.getD (x - a) 0 else b.groomByte x := by
  have line := storedEntry_line (t := t) bytes inside
  by_cases here : x / 64 * 64 = a / 64 * 64
  · have unheld : (b.gather.find? fun e => spadAddr e.bank e.line == x / 64 * 64) = Option.none := by
      rw [List.find?_eq_none]
      exact fun e he => by simpa [here] using none e he
    rw [Block.groomByte, Block.groomByte, gather, List.find?_append, unheld]
    simp only [Option.none_or, List.find?_cons, line, here, beq_self_eq_true, spad, storedEntry_mask fits, decide_eq_true_eq]
    by_cases within : a % 64 ≤ x % 64 ∧ x % 64 < a % 64 + bytes.length
    · rw [if_pos within, if_pos (by omega), storedEntry_data fits within]
      congr 1
      omega
    · rw [if_neg within, if_neg (by omega)]
  · have other : (spadAddr (storedEntry t a bytes).bank (storedEntry t a bytes).line == x / 64 * 64) = false := by
      rw [line, beq_eq_false_iff_ne]
      exact Ne.symm here
    rw [if_neg (by omega), Block.groomByte, Block.groomByte, gather, List.find?_append, spad, List.find?_cons, other, List.find?_nil,
      Option.or_none]

end

/-- The number of bytes of a number. -/
@[simp] theorem leBytes_length : ∀ n v : Nat, (leBytes n v).length = n
  | 0, _ => rfl
  | n + 1, v => congrArg (· + 1) (leBytes_length n (v / 256))

/-- A store has as many bytes as its size. -/
@[simp] theorem Thread.stored_length (th : Thread) (size : GSize) (r : Nat) : (th.stored size r).length = size.bytes := by
  cases size <;> exact leBytes_length _ _

/-- A naturally aligned access stays within a line. -/
theorem sizeBytes_aligned_fits {size : GSize} {a : Nat} (h : a % size.bytes = 0) : a % 64 + size.bytes ≤ 64 := by
  cases size <;> simp only [GSize.bytes] at h ⊢ <;> omega

/-- No access is longer than 16 bytes. -/
theorem sizeBytes_le (size : GSize) : size.bytes ≤ 16 := by
  cases size <;> decide

/-- Every access has a byte. -/
theorem sizeBytes_pos (size : GSize) : 0 < size.bytes := by
  cases size <;> decide

end Sys2Proof.Machine
end

section
/-! O17: loads and stores of a groom. -/

namespace Sys2Proof.Machine

/-- A groom sees after an issue what it saw before. -/
@[simp] theorem Block.issued_groomByte (b : Block) (t x : Nat) : (b.issued t).groomByte x = b.groomByte x := by
  rw [Block.groomByte, Block.groomByte, Block.issued_gather, Block.issued_spad]

/-- When a scratchpad access is fault 0x22. -/
theorem badScratch_iff (a n : Nat) : badScratch a n = true ↔ a % n ≠ 0 ∨ 0x80000 ≤ a := by
  simp [badScratch]

/-- An access that is aligned and inside the scratchpad is no fault. -/
theorem not_badScratch {a n : Nat} (aligned : a % n = 0) (inside : a < 0x80000) : ¬ badScratch a n = true := by
  rw [badScratch_iff]
  omega

section
variable {s : State} {p t : Nat} {a : Nat} {bytes : List Byte} {run : Env → Block → Block} (can : (s.block p).canIssue t = true)
include can

/-- What the module becomes by an instruction of a groom that stores to a line that the gatherer does not hold. -/
theorem State.issue_stores (ran : run (s.env p) ((s.block p).issued t) = (((s.block p).issued t).groomPut t a bytes).retire t ((s.block p).thread t))
    (inside : a < 0x80000) (none : ∀ e ∈ (s.block p).gather, spadAddr e.bank e.line ≠ a / 64 * 64)
    (room : ((s.block p).gather.filter fun e => e.bank == a / 65536).length < 16)
    (fits : a % 64 + bytes.length ≤ 64) (short : bytes.length < 64) :
    let u := s.onBlock p fun b env => b.issue env t (GroomHw.on .none false) (run env)
    ∃ g, s.BlockBecomes p ((s.block p).groomRegs t) { (s.block p).retiredAs t ((s.block p).thread t) with gather := g } u ∧
      ∀ x, (u.block p).groomByte x = if a ≤ x ∧ x < a + bytes.length then bytes.getD (x - a) 0 else (s.block p).groomByte x := by
  rw [← (s.block p).issued_gather t] at none room
  rw [Block.groomPut_new inside none room fits short, Block.issued_gather] at ran
  obtain ⟨m, issued⟩ := (s.block p).issued_eq t
  obtain ⟨-, becomes⟩ := State.issue_retires (c := { s.block p with gather := (s.block p).gather ++ [storedEntry t a bytes] }) (regs := [])
    can ran ⟨m, by rw [issued]; rfl⟩ fun _ _ => rfl
  refine ⟨_, becomes, fun x => ?_⟩
  obtain ⟨-, ⟨m, ev, co, made⟩, -⟩ := becomes
  rw [Block.issued_gather] at none
  exact Block.groomByte_stored inside none (by rw [made]; rfl) (by rw [made]; rfl) fits x

end

/-- Settles O17: a load retires with the bytes that the groom sees, a store enters the gatherer, and an address that is no place for the
access is a fault. -/
theorem groomLoadStore : Obligations.GroomLoadStore := by
  intro p t size s can b th
  refine ⟨fun sgn rd ra off aligned inside => ?load, fun rs ra off aligned inside none room => ?store, fun sgn r ra off bad c access => ?fault⟩
  case load =>
    refine ⟨_, rfl, State.issue_becomes (run := fun env x => x.doLoad env t size sgn rd ra off) can ?_⟩
    simp only [Block.doLoad, Block.issued_thread]
    rw [if_neg (not_badScratch aligned inside)]
    simp only [Block.groomBytes, Block.issued_groomByte]
    cases size <;> rfl
  case store =>
    have ran : (b.issued t).doStore (s.env p) t size rs ra off =
        ((b.issued t).groomPut t (th.rd ra + off).toNat (th.stored size rs)).retire t th := by
      rw [Block.doStore, Block.issued_thread]
      exact if_neg (not_badScratch aligned inside)
    obtain ⟨g, becomes, seen⟩ := State.issue_stores (run := fun env x => x.doStore env t size rs ra off) can ran inside none room
      (by simpa using sizeBytes_aligned_fits aligned) (by have := sizeBytes_le size; simp; omega)
    exact ⟨_, g, rfl, becomes, by simpa using seen⟩
  case fault =>
    have fault := (badScratch_iff _ _).2 bad
    simp only [List.mem_cons, List.not_mem_nil, or_false] at access
    rcases access with rfl | rfl
    · refine ⟨_, rfl, State.issue_faults (run := fun env x => x.doLoad env t size sgn r ra off) can t.isLt (by decide) ?_⟩
      rw [Block.doLoad, Block.issued_thread]
      exact if_pos fault
    · refine ⟨_, rfl, State.issue_faults (run := fun env x => x.doStore env t size r ra off) can t.isLt (by decide) ?_⟩
      rw [Block.doStore, Block.issued_thread]
      exact if_pos fault

end Sys2Proof.Machine
end

section
/-! SUPPORT. The runs of a byte range (R145, R238), and the line requests that a handle access makes. -/

namespace Sys2Proof.Machine

/-- A run that continues with a neighbour in the same line. -/
theorem joinRuns_cons_join {a n : Nat} {as : List Nat} {rs : List (Nat × Nat)} (h : joinRuns as = (a + 1, n) :: rs) (same : (a + 1) % 64 ≠ 0) :
    joinRuns (a :: as) = (a, n + 1) :: rs := by
  rw [joinRuns, h]
  exact if_pos ⟨rfl, same⟩

/-- A run that ends at the end of its line. -/
theorem joinRuns_cons_end {a c n : Nat} {as : List Nat} {rs : List (Nat × Nat)} (h : joinRuns as = (c, n) :: rs) (next : c % 64 = 0) :
    joinRuns (a :: as) = (a, 1) :: (c, n) :: rs := by
  rw [joinRuns, h]
  exact if_neg fun joined => joined.2 next

/-- Consecutive addresses within a line are one run. -/
theorem joinRuns_line : ∀ n a : Nat, 0 < n → a % 64 + n ≤ 64 → joinRuns (List.range' a n) = [(a, n)]
  | 1, _, _, _ => rfl
  | n + 2, a, _, fits => joinRuns_cons_join (joinRuns_line (n + 1) (a + 1) (by omega) (by omega)) (by omega)

/-- Consecutive addresses that reach into the next line are two runs. -/
theorem joinRuns_lines : ∀ n a : Nat, n ≤ 64 → 64 < a % 64 + n →
    joinRuns (List.range' a n) = [(a, 64 - a % 64), (a + (64 - a % 64), n - (64 - a % 64))]
  | 0, _, _, beyond => by omega
  | n + 1, a, short, beyond => by
    by_cases last : a % 64 = 63
    · rw [last]
      exact joinRuns_cons_end (joinRuns_line n (a + 1) (by omega) (by omega)) (by omega)
    · have rest := joinRuns_lines n (a + 1) (by omega) (by omega)
      rw [show 64 - a % 64 = 64 - (a + 1) % 64 + 1 by omega, show a + (64 - (a + 1) % 64 + 1) = a + 1 + (64 - (a + 1) % 64) by omega,
        show n + 1 - (64 - (a + 1) % 64 + 1) = n - (64 - (a + 1) % 64) by omega]
      exact joinRuns_cons_join rest (by omega)

/-- The pieces, by their first place and length, in which `n` bytes at address `a` lie in at most two lines. -/
def linePieces (a n : Nat) : List (Nat × Nat) :=
  if n ≤ 64 - a % 64 then [(0, n)] else [(0, 64 - a % 64), (64 - a % 64, n - (64 - a % 64))]

/-- The runs of consecutive addresses are their pieces. -/
theorem joinRuns_pieces {n : Nat} (a : Nat) (some : 0 < n) (short : n ≤ 64) :
    joinRuns (List.range' a n) = (linePieces a n).map fun x => (a + x.1, x.2) := by
  rw [linePieces]
  split
  · exact joinRuns_line n a some (by omega)
  · exact joinRuns_lines n a short (by omega)

/-- One more byte that a groom sees, at the front. -/
theorem Block.groomBytes_succ (b : Block) (a n : Nat) : b.groomBytes a (n + 1) = b.groomByte a :: b.groomBytes (a + 1) n := by
  simp only [Block.groomBytes, List.range_succ_eq_map, List.map_cons, List.map_map, Nat.add_zero]
  congr 1
  exact List.map_congr_left fun i _ => congrArg b.groomByte (Nat.add_right_comm a i 1)

/-- The bytes that a groom sees in runs are those that it sees at their addresses. -/
theorem Block.groomBytes_joinRuns (b : Block) : ∀ as : List Nat, (joinRuns as).flatMap (fun x => b.groomBytes x.1 x.2) = as.map b.groomByte
  | [] => rfl
  | a :: as => by
    have rest := b.groomBytes_joinRuns as
    rw [List.map_cons, ← rest, joinRuns]
    rcases joinRuns as with _ | ⟨⟨c, n⟩, rs⟩
    · rfl
    · dsimp only
      split
      next joined =>
        rw [List.flatMap_cons, List.flatMap_cons, b.groomBytes_succ, joined.1]
        rfl
      next => rfl

/-- The packet of a request for the line at `x` of handle `h`'s tier (R238, R242), with the number `id`. -/
def Block.lineHeld (b : Block) (env : Env) (remote h x id : Nat) (k : Pkt) : Held :=
  let tier := b.get (HDL_CTL.tier h)
  { pkt := { k with tag := id, addr := x, parts := if tier = 3 then b.get (HDL_CTL.node h) else k.parts }
    idx := if tier = 3 then 1376 + remote else memEndpoint tier (env.p % 40) x
    owner := .mem id }

/-- A line request takes the next number, is remembered and goes to the local port. -/
theorem Block.lineRequest_eq (b : Block) (env : Env) (remote h x : Nat) (use : ReqUse) (k : Pkt) :
    b.lineRequest env remote h x use k =
      ({ b with nextReq := b.nextReq + 1, reqs := b.reqs ++ [⟨b.nextReq % 2 ^ 24, use⟩],
                mesh := { b.mesh with sendq := b.mesh.sendq ++ [b.lineHeld env remote h x (b.nextReq % 2 ^ 24) k] } },
        b.nextReq % 2 ^ 24) := by
  rw [Block.lineRequest, Block.lineHeld]
  by_cases away : b.get (HDL_CTL.tier h) = 3
  · simp only [if_pos away]
    rfl
  · simp only [if_neg away]
    rfl

/-- The number of the request that follows `i` others. -/
def Block.reqId (b : Block) (i : Nat) : Nat := (b.nextReq + i) % 2 ^ 24

/-- Block `b` after a request for the line of each piece of the bytes at address `a` of handle `h`. -/
def Block.linesAsked (b : Block) (env : Env) (remote h a : Nat) (pieces : List (Nat × Nat)) (use : Nat × Nat → ReqUse) (k : Nat × Nat → Pkt) :
    Block :=
  { b with
    nextReq := b.nextReq + pieces.length
    reqs := b.reqs ++ pieces.zipIdx.map fun (x, i) => ⟨b.reqId i, use x⟩
    mesh := { b.mesh with
      sendq := b.mesh.sendq ++ pieces.zipIdx.map fun (x, i) => b.lineHeld env remote h ((a + x.1) / 64 * 64) (b.reqId i) (k x) } }

/-- A masked write of a piece of the bytes `bytes` at address `a` (R145). -/
def piecePkt (a : Nat) (bytes : List Byte) (x : Nat × Nat) : Pkt :=
  maskedPkt (List.replicate ((a + x.1) % 64) 0 ++ sliceZ bytes x.1 x.2) ((2 ^ x.2 - 1) * 2 ^ ((a + x.1) % 64))

/-- A load through a handle asks for the line of each piece. -/
theorem Block.handleLoads_pieces (b : Block) (env : Env) (remote t h a n : Nat) :
    b.handleLoads env remote t h 0 ((linePieces a n).map fun x => (a + x.1, x.2)) =
      (b.linesAsked env remote h a (linePieces a n) (fun x => .load t x.1 ((a + x.1) % 64) x.2) fun _ => readPkt,
        (List.range (linePieces a n).length).map b.reqId) := by
  rw [linePieces]
  split
  · simp only [List.map_cons, List.map_nil, Block.handleLoads, Block.lineRequest_eq]
    rfl
  · simp only [List.map_cons, List.map_nil, Block.handleLoads, Block.lineRequest_eq, List.append_assoc, Nat.zero_add]
    rfl

/-- The bytes of two neighbouring runs. -/
theorem sliceZ_drop (bs : List Byte) (a n : Nat) : sliceZ (bs.drop a) 0 n = sliceZ bs a n := rfl

/-- The bytes that each piece takes. -/
theorem splitRuns_pieces (a n : Nat) (bytes : List Byte) :
    splitRuns ((linePieces a n).map fun x => (a + x.1, x.2)) bytes = (linePieces a n).map fun x => (a + x.1, sliceZ bytes x.1 x.2) := by
  rw [linePieces]
  split
  · rfl
  · simp only [List.map_cons, List.map_nil, splitRuns, sliceZ_drop]

/-- A store through a handle writes each piece under a mask. -/
theorem Block.handleStores_pieces (b : Block) (env : Env) (remote t h a n : Nat) (bytes : List Byte) :
    b.handleStores env remote t h ((linePieces a n).map fun x => (a + x.1, sliceZ bytes x.1 x.2)) =
      (b.linesAsked env remote h a (linePieces a n) (fun _ => .store t) (piecePkt a bytes),
        (List.range (linePieces a n).length).map b.reqId) := by
  rw [linePieces]
  split
  · simp only [List.map_cons, List.map_nil, Block.handleStores, Block.lineRequest_eq, sliceZ_length]
    rfl
  · simp only [List.map_cons, List.map_nil, Block.handleStores, Block.lineRequest_eq, sliceZ_length, List.append_assoc]
    rfl

section
variable (b : Block) (t : Nat) {h : Nat} (table : h < 64)
include table

/-- A field of the handle table reads as before the issue. -/
theorem Block.issued_table {f : Fld} (off : f.off < HDL_CTL.off h + 64) : (b.issued t).get f = b.get f := by
  refine b.issued_get t ?_
  simp only [HDL_CTL.off] at off
  omega

/-- The mapping of a handle's offsets is as before the issue. -/
theorem Block.issued_hdlMap (o : Nat) : (b.issued t).hdlMap h o = b.hdlMap h o := by
  rw [Block.hdlMap, Block.hdlMap, b.issued_table t table (f := HDL_SHAPE.row h) (by show 0x1018 + 64 * h < 0x1000 + 64 * h + 64; omega),
    b.issued_table t table (f := HDL_SHAPE.stride h) (by show 0x1018 + 64 * h < 0x1000 + 64 * h + 64; omega)]

/-- The base of a handle is as before the issue. -/
theorem Block.issued_base : (b.issued t).get (HDL_BASE.addr h) = b.get (HDL_BASE.addr h) :=
  b.issued_table t table (by show 0x1008 + 64 * h < 0x1000 + 64 * h + 64; omega)

/-- A field of a handle's control word is as before the issue. -/
theorem Block.issued_ctl {f : Fld} (off : f.off = HDL_CTL.off h) : (b.issued t).get f = b.get f :=
  b.issued_table t table (by omega)

/-- The places of a scratch handle are as before the issue. -/
theorem Block.issued_hdlScratch (q : Nat) : (b.issued t).hdlScratch h q = b.hdlScratch h q := by
  rw [Block.hdlScratch, Block.hdlScratch, b.issued_base t table]

/-- Why a reference is refused is as before the issue. -/
theorem Block.issued_hdlCheck (gen o size : Nat) (write : Bool) : (b.issued t).hdlCheck h gen o size write = b.hdlCheck h gen o size write := by
  rw [Block.hdlCheck, Block.hdlCheck, b.issued_ctl t table (f := HDL_CTL.valid h) rfl, b.issued_ctl t table (f := HDL_CTL.gen h) rfl,
    b.issued_ctl t table (f := HDL_CTL.wr h) rfl, b.issued_ctl t table (f := HDL_CTL.rd h) rfl,
    b.issued_table t table (f := HDL_LEN.length h) (by show 0x1010 + 64 * h < 0x1000 + 64 * h + 64; omega)]

/-- The packet of a line request is as before the issue. -/
theorem Block.issued_lineHeld (env : Env) (remote x id : Nat) (k : Pkt) :
    (b.issued t).lineHeld env remote h x id k = b.lineHeld env remote h x id k := by
  rw [Block.lineHeld, Block.lineHeld, b.issued_ctl t table (f := HDL_CTL.tier h) rfl, b.issued_ctl t table (f := HDL_CTL.node h) rfl]

end

/-- When a reference is refused (R137). -/
theorem Block.hdlCheck_ne_zero (b : Block) (h gen o size : Nat) (write : Bool) : b.hdlCheck h gen o size write ≠ 0 ↔
    b.get (HDL_CTL.valid h) = 0 ∨ b.get (HDL_CTL.gen h) ≠ gen % 256 ∨
      (if write then b.get (HDL_CTL.wr h) else b.get (HDL_CTL.rd h)) = 0 ∨ b.get (HDL_LEN.length h) < o + size := by
  rw [Block.hdlCheck]
  by_cases stale : b.get (HDL_CTL.valid h) = 0 ∨ b.get (HDL_CTL.gen h) ≠ gen % 256
  · rw [if_pos stale]
    tauto
  · rw [if_neg stale]
    by_cases denied : (if write then b.get (HDL_CTL.wr h) else b.get (HDL_CTL.rd h)) = 0
    · rw [if_pos denied]
      tauto
    · rw [if_neg denied]
      by_cases range : b.get (HDL_LEN.length h) < o + size
      · rw [if_pos range]
        tauto
      · rw [if_neg range]
        tauto

/-- A line of the scratchpad begins at a multiple of 64 below its end. -/
theorem maskLine_line (mask line j : Nat) : maskLine mask line j % 64 = 0 ∧ maskLine mask line j + 64 ≤ 0x80000 := by
  simp only [maskLine, spadAddr]
  omega

/-- A place of a scratch handle is in the scratchpad, at the same byte of its line as the offset. -/
theorem Block.hdlScratch_place (b : Block) (h q : Nat) : b.hdlScratch h q % 64 = q % 64 ∧ b.hdlScratch h q < 0x80000 := by
  have := maskLine_line (nbits (b.get (HDL_BASE.addr h)) 7 0) (nbits (b.get (HDL_BASE.addr h)) 17 8) (q / 64)
  simp only [Block.hdlScratch]
  omega

/-- The places of a scratch handle within a line follow each other. -/
theorem Block.hdlScratch_add (b : Block) (h : Nat) {q i : Nat} (within : q % 64 + i < 64) :
    b.hdlScratch h (q + i) = b.hdlScratch h q + i := by
  simp only [Block.hdlScratch]
  rw [show (q + i) / 64 = q / 64 by omega]
  omega

end Sys2Proof.Machine
end

section
/-! O18: accesses through a handle. -/

namespace Sys2Proof.Machine

/-- The addresses of `n` tier offsets from `q` of a handle that is not on the scratchpad. -/
theorem Block.tierAddr_range {b : Block} {h : Nat} (away : b.get (HDL_CTL.tier h) ≠ 0) (q n : Nat) :
    ((List.range n).map fun i => b.tierAddr h (q + i)) = List.range' (b.get (HDL_BASE.addr h) + q) n := by
  rw [List.range'_eq_map_range]
  refine List.map_congr_left fun i _ => ?_
  rw [Block.tierAddr, if_neg away, Nat.add_assoc]

/-- The addresses of `n` tier offsets from `q` of a scratch handle. -/
theorem Block.tierAddr_scratch {b : Block} {h : Nat} (scratch : b.get (HDL_CTL.tier h) = 0) (q n : Nat) :
    ((List.range n).map fun i => b.tierAddr h (q + i)) = (List.range n).map fun i => b.hdlScratch h (q + i) :=
  List.map_congr_left fun _ _ => if_pos scratch

/-- The addresses of offsets of a scratch handle within a line. -/
theorem Block.hdlScratch_range (b : Block) (h : Nat) {q n : Nat} (within : q % 64 + n ≤ 64) :
    ((List.range n).map fun i => b.hdlScratch h (q + i)) = List.range' (b.hdlScratch h q) n := by
  rw [List.range'_eq_map_range]
  refine List.map_congr_left fun i hi => b.hdlScratch_add h ?_
  have := List.mem_range.1 hi
  omega

/-- An access of thread `t` that passes its checks: it names handle `h` and reaches its tier offset `q` (R137). -/
structure Block.Reaches (b : Block) (t : Nat) (size : GSize) (ref ra : Nat) (off : Word) (write : Bool) (h q : Nat) : Prop where
  handle : nbits ((b.thread t).rd ref).toNat 5 0 = h
  granted : b.hdlCheck h (nbits ((b.thread t).rd ref).toNat 15 8) ((b.thread t).rd ra + off).toNat size.bytes write = 0
  aligned : ((b.thread t).rd ra + off).toNat % size.bytes = 0
  place : b.hdlMap h ((b.thread t).rd ra + off).toNat = q

section
variable {b : Block} {env : Env} {remote : Option Nat} {t r ref ra h q : Nat} {size : GSize} {off : Word}

/-- A load through a scratch handle. -/
theorem Block.doHandle_load_scratch (reach : b.Reaches t size ref ra off false h q) (scratch : b.get (HDL_CTL.tier h) = 0) :
    b.doHandle env remote t false size r ref ra off = b.retire t ((b.thread t).load size false r
      ((List.range size.bytes).map fun i => b.groomByte (b.hdlScratch h (q + i)))) := by
  obtain ⟨rfl, granted, aligned, rfl⟩ := reach
  rw [Block.doHandle, if_neg (not_not.2 granted), if_neg (not_not.2 aligned)]
  simp only [if_pos scratch, Bool.false_eq_true, if_false, b.tierAddr_scratch scratch, b.groomBytes_joinRuns, List.map_map]
  rfl

/-- A store within a line through a scratch handle. -/
theorem Block.doHandle_store_scratch (reach : b.Reaches t size ref ra off true h q) (scratch : b.get (HDL_CTL.tier h) = 0)
    (within : q % 64 + size.bytes ≤ 64) :
    b.doHandle env remote t true size r ref ra off =
      (b.groomPut t (b.hdlScratch h q) ((b.thread t).stored size r)).retire t (b.thread t) := by
  obtain ⟨rfl, granted, aligned, rfl⟩ := reach
  have place := (b.hdlScratch_place (nbits ((b.thread t).rd ref).toNat 5 0)
    (b.hdlMap (nbits ((b.thread t).rd ref).toNat 5 0) ((b.thread t).rd ra + off).toNat)).1
  rw [Block.doHandle, if_neg (not_not.2 granted), if_neg (not_not.2 aligned)]
  simp only [if_pos scratch, if_true, b.tierAddr_scratch scratch, b.hdlScratch_range _ within,
    joinRuns_line _ _ (sizeBytes_pos size) (place ▸ within), splitRuns, List.foldl_cons, List.foldl_nil,
    sliceZ_self (Thread.stored_length _ size r)]

/-- A load through a handle of another tier asks for its lines, and the thread waits. -/
theorem Block.doHandle_load_far (reach : b.Reaches t size ref ra off false h q) (away : b.get (HDL_CTL.tier h) ≠ 0) :
    let a := b.get (HDL_BASE.addr h) + q
    let pieces := linePieces a size.bytes
    b.doHandle env remote t false size r ref ra off =
      (b.linesAsked env (remote.getD 0) h a pieces (fun x => .load t x.1 ((a + x.1) % 64) x.2) fun _ => readPkt).setThread t
        { b.thread t with
          state := 3, wait := .handle ((List.range pieces.length).map b.reqId) r size (List.replicate size.bytes 0) } := by
  obtain ⟨rfl, granted, aligned, rfl⟩ := reach
  rw [Block.doHandle, if_neg (not_not.2 granted), if_neg (not_not.2 aligned)]
  simp only [if_neg away, Bool.false_eq_true, if_false, b.tierAddr_range away,
    joinRuns_pieces _ (sizeBytes_pos size) ((sizeBytes_le size).trans (by decide)), Block.handleLoads_pieces]

/-- A store through a handle of another tier writes its lines, and the thread goes on. -/
theorem Block.doHandle_store_far (reach : b.Reaches t size ref ra off true h q) (away : b.get (HDL_CTL.tier h) ≠ 0) :
    let a := b.get (HDL_BASE.addr h) + q
    let pieces := linePieces a size.bytes
    b.doHandle env remote t true size r ref ra off =
      (b.linesAsked env (remote.getD 0) h a pieces (fun _ => .store t) (piecePkt a ((b.thread t).stored size r))).retire t
        { b.thread t with stores := (b.thread t).stores ++ (List.range pieces.length).map b.reqId } := by
  obtain ⟨rfl, granted, aligned, rfl⟩ := reach
  rw [Block.doHandle, if_neg (not_not.2 granted), if_neg (not_not.2 aligned)]
  simp only [if_neg away, if_true, b.tierAddr_range away, joinRuns_pieces _ (sizeBytes_pos size) ((sizeBytes_le size).trans (by decide)),
    splitRuns_pieces, Block.handleStores_pieces]

end

/-- The numbers of requests after an issue are those before it. -/
theorem Block.issued_reqId (b : Block) (t : Nat) : (b.issued t).reqId = b.reqId := by
  obtain ⟨m, issued⟩ := b.issued_eq t
  rw [issued]
  rfl

/-- The lines asked for after an issue are those asked for before it. -/
theorem Block.issued_linesAsked (b : Block) (env : Env) (remote t : Nat) {h : Nat} (table : h < 64) (a : Nat) (pieces : List (Nat × Nat))
    (use : Nat × Nat → ReqUse) (k : Nat × Nat → Pkt) :
    ∃ m, (b.issued t).linesAsked env remote h a pieces use k = { (b.linesAsked env remote h a pieces use k).turned t with regs := m } := by
  have held : ∀ x id k, (b.issued t).lineHeld env remote h x id k = b.lineHeld env remote h x id k :=
    b.issued_lineHeld t table env remote
  simp only [Block.linesAsked, held]
  obtain ⟨m, issued⟩ := b.issued_eq t
  exact ⟨m, by rw [issued]; rfl⟩

/-- Settles O18: the check of the reference first; then a scratch handle as a load or a store of the scratchpad, another tier by the line
requests of its pieces. -/
theorem groomHandleAccess : Obligations.GroomHandleAccess := by
  intro p t size r ref ra off s can b th rf h o n tier denied q a cut pieces id ids line bytes masked
  have table : h < 64 := Nat.mod_lt _ (by decide)
  have tierAfter : (b.issued t).get (HDL_CTL.tier h) = tier := b.issued_ctl t table rfl
  have refused : ∀ write, (b.issued t).hdlCheck h (nbits rf 15 8) o n write ≠ 0 ↔ denied write := fun write => by
    rw [b.issued_hdlCheck t table, Block.hdlCheck_ne_zero, Nat.mod_eq_of_lt (show nbits rf 15 8 < 256 from Nat.mod_lt _ (by decide))]
  have reach : ∀ write, ¬ denied write → o % n = 0 → (b.issued t).Reaches t size ref ra off write h q := fun write granted aligned => by
    refine ⟨?_, ?_, ?_, ?_⟩ <;> rw [Block.issued_thread]
    · exact not_not.1 fun h => granted ((refused write).1 h)
    · exact aligned
    · exact b.issued_hdlMap t table o
  have base : (b.issued t).get (HDL_BASE.addr h) + q = a := congrArg (· + q) (b.issued_base t table)
  refine ⟨fun write bad => ?denied, fun write granted skewed => ?skewed, fun granted aligned scratch => ?load,
    fun granted aligned scratch within none room => ?store, fun granted aligned away => ?farLoad, fun granted aligned away => ?farStore⟩
  case denied =>
    refine ⟨_, rfl, State.issue_faults (run := fun env x => x.doHandle env s.remotePort t write size r ref ra off) can t.isLt (by decide) ?_⟩
    rw [Block.doHandle, Block.issued_thread]
    exact if_pos ((refused write).2 bad)
  case skewed =>
    refine ⟨_, rfl, State.issue_faults (run := fun env x => x.doHandle env s.remotePort t write size r ref ra off) can t.isLt (by decide) ?_⟩
    rw [Block.doHandle, Block.issued_thread]
    exact (if_neg fun bad => granted ((refused write).1 bad)).trans (if_pos skewed)
  case load =>
    refine ⟨_, rfl, State.issue_becomes (run := fun env x => x.doHandle env s.remotePort t false size r ref ra off) can ?_⟩
    rw [Block.doHandle_load_scratch (reach false granted aligned) (tierAfter.trans scratch), Block.issued_thread]
    simp only [b.issued_hdlScratch t table, Block.issued_groomByte]
    rfl
  case store =>
    have ran := Block.doHandle_store_scratch (env := s.env p) (remote := s.remotePort) (r := r) (reach true granted aligned)
      (tierAfter.trans scratch) within
    rw [b.issued_hdlScratch t table, Block.issued_thread] at ran
    obtain ⟨bytePlace, inside⟩ := b.hdlScratch_place h q
    obtain ⟨g, becomes, seen⟩ := State.issue_stores (run := fun env x => x.doHandle env s.remotePort t true size r ref ra off) can ran inside
      none room (by rw [Thread.stored_length, bytePlace]; exact within) (by have := sizeBytes_le size; simp; omega)
    exact ⟨_, g, rfl, becomes, by simpa using seen⟩
  case farLoad =>
    have ran := Block.doHandle_load_far (env := s.env p) (remote := s.remotePort) (r := r) (reach false granted aligned)
      (fun scratch => away (tierAfter.symm.trans scratch))
    rw [base, Block.issued_thread, b.issued_reqId] at ran
    exact ⟨_, rfl, State.issue_waits (run := fun env x => x.doHandle env s.remotePort t false size r ref ra off)
      (c := b.linesAsked (s.env p) (s.remotePort.getD 0) h a pieces (fun x => .load t x.1 ((a + x.1) % 64) x.2) fun _ => readPkt)
      can ran (b.issued_linesAsked _ _ t table _ _ _ _) fun _ => rfl⟩
  case farStore =>
    have ran := Block.doHandle_store_far (env := s.env p) (remote := s.remotePort) (r := r) (reach true granted aligned)
      (fun scratch => away (tierAfter.symm.trans scratch))
    rw [base, Block.issued_thread, b.issued_reqId] at ran
    exact ⟨_, rfl, (State.issue_retires (run := fun env x => x.doHandle env s.remotePort t true size r ref ra off)
      (c := b.linesAsked (s.env p) (s.remotePort.getD 0) h a pieces (fun _ => .store t) (piecePkt a bytes)) (regs := [])
      can ran (b.issued_linesAsked _ _ t table _ _ _ _) fun _ _ => rfl).2⟩

end Sys2Proof.Machine
end

section
/-! SUPPORT. A producer that waits for a credit (R163), the offer of an outbox slot (R213, R222), and an instruction that may wait. -/

namespace Sys2Proof.Machine

/-- What a step of one block makes of the module depends on what it makes of that block. -/
theorem State.onBlock_congr {s : State} {p : Nat} {f g : Block → Env → Block} (h : f (s.block p) (s.env p) = g (s.block p) (s.env p)) :
    s.onBlock p f = s.onBlock p g := by
  simp only [State.onBlock, h]

/-- A thread that can issue does not resume an instruction that it waits in. -/
theorem Block.not_resumes {b : Block} {t : Nat} (can : b.canIssue t = true) (waits : Wait → Bool) : b.resumes t waits = false := by
  have ready := (Block.canIssue_ready can).2
  simp [Block.resumes, ready]

/-- An instruction that may wait is issued as another where its thread can issue. -/
theorem State.onBlock_issueWait {s : State} {p t : Nat} (can : (s.block p).canIssue t = true) (waits : Wait → Bool) (run : Env → Block → Block) :
    s.onBlock p (fun b env => b.issueWait env t (GroomHw.on .none false) waits (run env)) =
      s.onBlock p fun b env => b.issue env t (GroomHw.on .none false) (run env) :=
  State.onBlock_congr (by rw [Block.issueWait, Block.not_resumes can]; rfl)

/-- What changes where a producer waits for a credit: it is among those that wait. -/
theorem Block.creditWait_eq (b : Block) (env : Env) (who i : Nat) : ∃ m ev co fs, b.creditWait env who i =
    { b with
      waits := if (who, i) ∈ b.waits then b.waits else b.waits ++ [(who, i)]
      regs := m, ev := ev, coalesced := co, firstSlack := fs } := by
  rw [Block.creditWait]
  by_cases again : (who, i) ∈ b.waits
  · rw [if_pos (List.contains_iff_mem.2 again), if_pos again]
    exact ⟨_, _, _, _, rfl⟩
  · rw [if_neg fun h => again (List.contains_iff_mem.1 h), if_neg again]
    dsimp only
    split
    · split
      · obtain ⟨m, ev, co, noted⟩ := Block.note_eq ({ ((Block.count { b with waits := b.waits ++ [(who, i)] } BLK_DF_CREDITWAIT.count 1).count
          BLK_DF_SLACK.count 1) with firstSlack := false }) env { cell := 16, code := 0xA4, detail := i }
        exact ⟨m, ev, co, false, noted⟩
      · exact ⟨_, _, _, _, rfl⟩
    · exact ⟨_, _, _, _, rfl⟩

/-- The producer that waits for a credit is among those that wait. -/
theorem Block.mem_creditWait (b : Block) (env : Env) (who i : Nat) : (who, i) ∈ (b.creditWait env who i).waits := by
  obtain ⟨m, ev, co, fs, h⟩ := b.creditWait_eq env who i
  rw [h]
  by_cases again : (who, i) ∈ b.waits
  · simp only [if_pos again]
    exact again
  · simp [again]

/-- The fields, no counter's, that a wait for a credit leaves. -/
theorem Block.creditWait_get (b : Block) (env : Env) (who i : Nat) {f : Fld} (below : f.off < 0x3D00) (ok : f.lo ≤ f.hi)
    (wait : f.off ≠ BLK_DF_CREDITWAIT.off) (slack : f.off ≠ BLK_DF_SLACK.off) : (b.creditWait env who i).get f = b.get f := by
  have counted : ∀ (c : Block) (g : Fld) (n : Nat), f.off ≠ g.off → (c.count g n).get f = c.get f := fun c g n h =>
    Block.get_of_word (Block.word_set_ne _ _ _ h)
  rw [Block.creditWait]
  split
  · rfl
  · dsimp only
    split
    · split
      · rw [Block.note_get _ _ _ _ below ok]
        exact (counted _ BLK_DF_SLACK.count 1 slack).trans (counted _ BLK_DF_CREDITWAIT.count 1 wait)
      · exact (counted _ BLK_DF_SLACK.count 1 slack).trans (counted _ BLK_DF_CREDITWAIT.count 1 wait)
    · exact counted _ BLK_DF_CREDITWAIT.count 1 wait

/-- A wait for a credit counts once (R176). -/
theorem Block.creditWait_count (b : Block) (env : Env) (who i : Nat) :
    (b.creditWait env who i).get BLK_DF_CREDITWAIT.count = if (who, i) ∈ b.waits then b.get BLK_DF_CREDITWAIT.count
      else min BLK_DF_CREDITWAIT.count.top (b.get BLK_DF_CREDITWAIT.count + 1) := by
  have slack : ∀ c : Block, (c.count BLK_DF_SLACK.count 1).get BLK_DF_CREDITWAIT.count = c.get BLK_DF_CREDITWAIT.count := fun c =>
    Block.get_of_word (Block.word_set_ne _ _ _ (by decide))
  have counted : (Block.count { b with waits := b.waits ++ [(who, i)] } BLK_DF_CREDITWAIT.count 1).get BLK_DF_CREDITWAIT.count =
      min BLK_DF_CREDITWAIT.count.top (b.get BLK_DF_CREDITWAIT.count + 1) := Block.get_count_same _ (by decide) _
  rw [Block.creditWait]
  by_cases again : (who, i) ∈ b.waits
  · rw [if_pos (List.contains_iff_mem.2 again), if_pos again]
  · rw [if_neg fun h => again (List.contains_iff_mem.1 h), if_neg again]
    dsimp only
    split
    · split
      · rw [Block.note_get _ _ _ _ (by decide) (by decide)]
        exact (slack _).trans counted
      · exact (slack _).trans counted
    · exact counted

/-- The lines of a SEND's source (R123, R125). -/
def Block.sourceLines (b : Block) (w : SendSrc) : List Byte :=
  (List.range w.lines).flatMap fun j => b.spad.bytes ((w.src + 64 * j) % 0x80000) 64

/-- The packet of a slot whose source holds `bytes` (R213). -/
def OutSlot.packet (o : OutSlot) (bytes : List Byte) : Pkt :=
  let d := SendDest.ofWord o.dst
  let w := SendSrc.ofWord o.srcw
  let win := nbit o.imm 2
  let data := win || decide (1 < w.lines)
  { kind := if win then kWINDOW_WRITE else kMESSAGE, isData := data, vc := if win then 0 else o.imm % 2, mcast := !win && nbit o.imm 1,
    tag := d.tag, qid := d.queue, incarn := d.incarn, length := if data then w.lines - 1 else 0, addr := if win then w.woff else 0,
    payload := bytes }

section
variable {b : Block} (empty : b.gather = [])
include empty

/-- The lines that a SEND reads where nothing is gathered. -/
theorem Block.readLines_source (w : SendSrc) :
    b.readLines ((List.range w.lines).map fun i => (w.src + 64 * i) % 0x80000) = (b, b.sourceLines w) := by
  rw [Block.readLines_of_empty empty, List.flatMap_map]
  rfl

/-- The packet of a slot where nothing is gathered. -/
theorem Block.slotPkt_eq (o : OutSlot) :
    b.slotPkt o = (b, o.packet (b.sourceLines (SendSrc.ofWord o.srcw)), (SendDest.ofWord o.dst).dest) := by
  rw [Block.slotPkt]
  simp only [Block.readLines_source empty]
  rfl

/-- An offer hands the slot's message to the local port, and the thread waits for its answer (R222). -/
theorem Block.offer_eq (t i : Nat) :
    let o := (b.thread t).slot i
    b.offer t i = (b.setThread t { (b.thread t).setSlot i { o with st := 1, refused := 0 } with state := 2, wait := .send i }).send
      { pkt := o.packet (b.sourceLines (SendSrc.ofWord o.srcw)), idx := (SendDest.ofWord o.dst).dest, owner := .outbox t i } := by
  simp only [Block.offer, Block.slotPkt_eq empty]

/-- With nothing gathered a release changes nothing (R131). -/
theorem Block.release_of_empty (t : Nat) : b.release t = b := by
  rw [Block.release, empty]
  rfl

end

/-- A slot after it is replaced. -/
@[simp] theorem Thread.slot_setSlot (th : Thread) (i : Nat) (o : OutSlot) : (th.setSlot i o).slot i = o :=
  mget_mset_same _ _ _ _

/-- The slot whose answer a thread waits for. -/
theorem Thread.slot_waiting (th : Thread) (i : Nat) (o : OutSlot) :
    ({ th.setSlot i o with state := 2, wait := .send i } : Thread).slot i = o :=
  mget_mset_same _ _ _ _

/-- The lowest free slot (R125). -/
theorem Thread.freeSlot_eq_some {th : Thread} {i : Nat} :
    th.freeSlot = some i ↔ i < 4 ∧ (th.slot i).st = 0 ∧ ∀ j < i, (th.slot j).st ≠ 0 := by
  rw [Thread.freeSlot, List.find?_range_eq_some]
  simp only [Thread.slot, beq_iff_eq, List.mem_range, Bool.not_eq_true', beq_eq_false_iff_ne]
  tauto

/-- No slot is free. -/
theorem Thread.freeSlot_eq_none {th : Thread} : th.freeSlot = none ↔ ∀ i < 4, (th.slot i).st ≠ 0 := by
  rw [Thread.freeSlot, List.find?_eq_none]
  simp only [Thread.slot, beq_iff_eq, List.mem_range]

end Sys2Proof.Machine
end

section
/-! O20: SEND, RECV and REOFFER. -/

namespace Sys2Proof.Machine

/-- The bit of a 7-bit operand that its number's parity is. -/
theorem toNat_mod_two (imm : BitVec 7) : imm.toNat % 2 = if imm.getLsbD 0 then 1 else 0 := by
  rw [BitVec.getLsbD, Nat.testBit_zero]
  rcases Nat.mod_two_eq_zero_or_one imm.toNat with h | h <;> simp [h]

/-- A SEND names a destination: a group where it is a multicast, else a block (R125, R212). -/
def sendNamed (mc groupOk : Bool) (d : SendDest) : Prop := if mc then d.dest < 64 ∧ groupOk = true else d.dest < 1200

/-- The destinations that a SEND refuses. -/
theorem not_sendUnnamed {mc win groupOk : Bool} {d : SendDest} (named : sendNamed mc groupOk d) (single : win = true → mc = false) :
    ¬ ((!mc && decide (1200 ≤ d.dest)) || (mc && (decide (64 ≤ d.dest) || !groupOk)) || (mc && win)) = true := by
  cases mc
  · simpa [sendNamed] using named
  · obtain ⟨below, valid⟩ : d.dest < 64 ∧ groupOk = true := named
    have : win = false := by
      cases win
      · rfl
      · exact absurd (single rfl) (by decide)
    simp [below, valid, this]

section
variable {b : Block} {env : Env} {ctl groupOk : Bool} {t a rb rc imm : Nat} (empty : b.gather = [])
include empty

/-- A SEND with no free slot. -/
theorem Block.doSend_full (full : (b.thread t).freeSlot = none) :
    b.doSend env ctl groupOk t a rb rc imm = b.retire t ((b.thread t).wr a 9) := by
  simp only [Block.doSend, full, Block.release_of_empty empty]
  rfl

section
variable {i : Nat} (free : (b.thread t).freeSlot = some i)
include free

/-- A SEND whose source, or whose place in a window, is misaligned. -/
theorem Block.doSend_misaligned (bad : (SendSrc.ofWord ((b.thread t).rd rc)).src % 64 ≠ 0 ∨
      (nbit imm 2 = true ∧ (SendSrc.ofWord ((b.thread t).rd rc)).woff % 64 ≠ 0)) :
    b.doSend env ctl groupOk t a rb rc imm = b.retire t ((b.thread t).wr a 10) := by
  simp only [Block.doSend, free, Block.release_of_empty empty, if_pos bad]
  rfl

/-- The slot that a SEND takes (R214, R222). -/
def Block.sentSlot (b : Block) (env : Env) (t a rb rc imm : Nat) : OutSlot :=
  { st := 1, dst := (b.thread t).rd rb, srcw := (b.thread t).rd rc, imm := imm, rd := a, start := env.now,
    patience := b.patienceNs t (nbit imm 3) }

variable (good : ¬ ((SendSrc.ofWord ((b.thread t).rd rc)).src % 64 ≠ 0 ∨
    (nbit imm 2 = true ∧ (SendSrc.ofWord ((b.thread t).rd rc)).woff % 64 ≠ 0)))
  (named : sendNamed (nbit imm 1) groupOk (SendDest.ofWord ((b.thread t).rd rb))) (single : nbit imm 2 = true → nbit imm 1 = false)
include good named single

/-- A checked SEND of a pair that no arc of the task names offers its message. -/
theorem Block.doSend_message (plain : (if nbit imm 2 then none else
      b.taskArc (b.thread t) (nbit imm 1) (SendDest.ofWord ((b.thread t).rd rb))) = none) :
    let o := b.sentSlot env t a rb rc imm
    let th := (b.thread t).setSlot i o
    b.doSend env ctl groupOk t a rb rc imm =
      ((b.setThread t th).setThread t { th.setSlot i { o with st := 1, refused := 0 } with state := 2, wait := .send i }).send
        { pkt := o.packet (b.sourceLines (SendSrc.ofWord o.srcw)), idx := (SendDest.ofWord o.dst).dest, owner := .outbox t i } := by
  have ran : b.doSend env ctl groupOk t a rb rc imm = (b.setThread t ((b.thread t).setSlot i (b.sentSlot env t a rb rc imm))).offer t i := by
    simp only [Block.doSend, free, Block.release_of_empty empty, if_neg good, if_neg (not_sendUnnamed named single), plain]
    rfl
  rw [ran, Block.offer_eq (by exact empty), Block.thread_setThread_same, Thread.slot_setSlot]
  rfl

section
variable {arc : Nat} (pair : (if nbit imm 2 then none else
  b.taskArc (b.thread t) (nbit imm 1) (SendDest.ofWord ((b.thread t).rd rb))) = some arc)
include pair

/-- A checked SEND of an arc's pair with no credit waits for one (R163). -/
theorem Block.doSend_waits (may : b.mayEmit arc = false) :
    b.doSend env ctl groupOk t a rb rc imm =
      (b.creditWait env (waitThread t) arc).setThread t { b.thread t with state := 2, wait := .credit arc } := by
  simp only [Block.doSend, free, Block.release_of_empty empty, if_neg good, if_neg (not_sendUnnamed named single), pair, may, Bool.not_false, if_true]

/-- A checked SEND of an arc's pair with a credit hands over one token (R162, R211). -/
theorem Block.doSend_token (may : b.mayEmit arc = true) {d : SendDest} (dest : SendDest.ofWord ((b.thread t).rd rb) = d)
    {w : SendSrc} (source : SendSrc.ofWord ((b.thread t).rd rc) = w) :
    b.doSend env ctl groupOk t a rb rc imm =
      ((b.takeCredit (waitThread t) arc).setThread t
        { (b.thread t).setSlot i (b.sentSlot env t a rb rc imm) with state := 2, wait := .send i }).send
        { pkt := { kind := kTOKEN, vc := imm % 2, mcast := nbit imm 1, isData := !ctl, tag := d.tag, qid := d.queue,
                   length := if ctl then 0 else w.lines - 1,
                   payload := if ctl then sliceZ (b.sourceLines w) 0 8 else b.sourceLines w },
          idx := d.dest, owner := .outbox t i } := by
  subst dest source
  simp only [Block.doSend, free, Block.release_of_empty empty, if_neg good, if_neg (not_sendUnnamed named single), pair, may,
    Bool.false_eq_true, if_false, Bool.not_true, Block.takeCredit_eq]
  rw [Block.readLines_source (b := { b with
    waits := _, spent := _ }) (by exact empty)]
  rfl

end
end

/-- A RECV of a message takes the oldest (R218). -/
theorem Block.doRecv_takes {x : QEntry} {xs : List QEntry} (place : ¬ badScratch ((b.thread t).rd rc).toNat 64 = true)
    (opened : b.mqOpen (bitsOf ((b.thread t).rd rb) 7 0) = true)
    (oldest : b.messages (bitsOf ((b.thread t).rd rb) 7 0) (bitsOf ((b.thread t).rd rb) 31 8) (nbit imm 0) = x :: xs) :
    b.doRecv env t a rb rc imm =
      ({ b with
         spad := b.spad.putLines (lineWrites ((List.range x.lines).map fun i => (((b.thread t).rd rc).toNat + 64 * i) % 0x80000)
           ((b.entryAddrs x.q x.e x.lines).flatMap fun l => b.spad.bytes l 64)),
         queue := b.queue.erase x } : Block).retire t ((b.thread t).wr a (BitVec.ofNat 64
          ((x.lines - 1) * 2 ^ 8 + x.src % 2048 * 2 ^ 13 + x.tag % 2 ^ 24 * 2 ^ 24))) := by
  simp only [Block.doRecv, if_neg place, opened, Bool.not_true, Bool.false_eq_true, if_false, oldest, Block.readLines_of_empty empty,
    Block.writeLines_of_empty empty]
  rfl

end

/-- A RECV of a queue that takes no messages (R220). -/
theorem Block.doRecv_closed {b : Block} {env : Env} {t a rb rc imm : Nat} (place : ¬ badScratch ((b.thread t).rd rc).toNat 64 = true)
    (closed : b.mqOpen (bitsOf ((b.thread t).rd rb) 7 0) = false) :
    b.doRecv env t a rb rc imm = b.retire t ((b.thread t).wr a 3) := by
  simp only [Block.doRecv, if_neg place, closed, Bool.not_false, if_true]
  rfl

/-- A RECV with no message that matches (R125). -/
theorem Block.doRecv_none {b : Block} {env : Env} {t a rb rc imm : Nat} (place : ¬ badScratch ((b.thread t).rd rc).toNat 64 = true)
    (opened : b.mqOpen (bitsOf ((b.thread t).rd rb) 7 0) = true)
    (none : b.messages (bitsOf ((b.thread t).rd rb) 7 0) (bitsOf ((b.thread t).rd rb) 31 8) (nbit imm 0) = []) :
    b.doRecv env t a rb rc imm = if nbit imm 1 then b.retire t ((b.thread t).wr a 8)
      else b.setThread t { b.thread t with
        state := 2
        wait := .recv (bitsOf ((b.thread t).rd rb) 7 0) (bitsOf ((b.thread t).rd rb) 31 8) (nbit imm 0) ((b.thread t).rd rc).toNat a } := by
  simp only [Block.doRecv, if_neg place, opened, Bool.not_true, Bool.false_eq_true, if_false, none]
  rfl

section
variable (b : Block) (t : Nat)

/-- What a producer may send is as before the issue. -/
theorem Block.issued_mayEmit (arc : Nat) : (b.issued t).mayEmit arc = b.mayEmit arc := by
  obtain ⟨m, issued⟩ := b.issued_eq t
  rw [issued]
  rfl

/-- Whether an arc needs credits is as before the issue. -/
theorem Block.issued_arcFree (arc : Nat) : (b.issued t).arcFree arc = b.arcFree arc := by
  obtain ⟨m, issued⟩ := b.issued_eq t
  rw [issued]
  rfl

/-- The arc that a pair names is as before the issue. -/
theorem Block.issued_taskArc (th : Thread) (mc : Bool) (d : SendDest) : (b.issued t).taskArc th mc d = b.taskArc th mc d := by
  obtain ⟨m, issued⟩ := b.issued_eq t
  rw [issued]
  rfl

/-- The lines of a SEND's source are as before the issue. -/
theorem Block.issued_sourceLines (w : SendSrc) : (b.issued t).sourceLines w = b.sourceLines w := by
  rw [Block.sourceLines, Block.issued_spad]
  rfl

/-- The messages of a queue are as before the issue. -/
theorem Block.issued_messages (q tag : Nat) (matchTag : Bool) : (b.issued t).messages q tag matchTag = b.messages q tag matchTag := by
  rw [Block.messages, Block.issued_queue]
  rfl

/-- The entries of a queue lie where they did before the issue. -/
theorem Block.issued_entryAddrs {q : Nat} (queue : q < 240) (e lines : Nat) : (b.issued t).entryAddrs q e lines = b.entryAddrs q e lines := by
  have below : BLK_Q_CFG.off q < 0x3D00 := by
    simp only [BLK_Q_CFG.off]
    omega
  rw [Block.entryAddrs, Block.entryAddrs, Block.qLines, Block.qLines, b.issued_get t (f := BLK_Q_CFG.mask q) below,
    b.issued_get t (f := BLK_Q_CFG.line q) below, b.issued_get t (f := BLK_Q_CFG.lines q) below]

/-- The patience of a thread is as before the issue. -/
theorem Block.issued_patienceNs (thread : t < 8) (noWait : Bool) : (b.issued t).patienceNs t noWait = b.patienceNs t noWait := by
  rw [Block.patienceNs, Block.patienceNs, b.issued_get t (f := BLK_GRM_PATIENCE.limit t) (by show 0x2840 + 8 * t < 0x3D00; omega)]

end

/-- What a step makes of the module that leaves thread `t` of block `x` as `th` and hands `h` to the local port. -/
theorem State.onBlock_sends {s : State} {p t : Nat} {f : Block → Env → Block} {x : Block} {th : Thread} {h : Held}
    (made : f (s.block p) (s.env p) = (x.setThread t th).send h) {m : MeshUnit} (mesh : x.mesh = m) :
    let u := s.onBlock p f
    (u.block p).mesh = { m with sendq := m.sendq ++ [h] } ∧ (u.block p).thread t = th ∧ (u.block p).spad = x.spad ∧
      (u.block p).queue = x.queue ∧ (u.block p).spent = x.spent ∧ s.OnlyBlock p u := by
  refine ⟨?_, ?_, ?_, ?_, ?_, s.onBlock_only p f⟩
  · rw [State.onBlock_block_mesh, made, ← mesh]
    rfl
  · rw [State.onBlock_block_thread, made]
    exact mget_mset_same _ _ _ _
  · rw [State.onBlock_block_spad, made]
    rfl
  · rw [State.onBlock_block_queue, made]
    rfl
  · rw [State.onBlock_block_spent, made]
    rfl

/-- What a step makes of the module where thread `t` of block `x` waits as `th` for a credit (R163). -/
theorem State.onBlock_creditWaits {s : State} {p t : Nat} {f : Block → Env → Block} {x : Block} {th : Thread} {env : Env} {who arc : Nat}
    (thread : t < 8) (made : f (s.block p) (s.env p) = (x.creditWait env who arc).setThread t th) :
    let u := s.onBlock p f
    (u.block p).mesh = x.mesh ∧ (u.block p).spent = x.spent ∧ (u.block p).thread t = th ∧ (who, arc) ∈ (u.block p).waits ∧
      (u.block p).get BLK_DF_CREDITWAIT.count = (if (who, arc) ∈ x.waits then x.get BLK_DF_CREDITWAIT.count
        else min BLK_DF_CREDITWAIT.count.top (x.get BLK_DF_CREDITWAIT.count + 1)) ∧
      (u.block p).spad = x.spad ∧ (u.block p).queue = x.queue ∧ s.OnlyBlock p u := by
  obtain ⟨m, ev, co, fs, waited⟩ := x.creditWait_eq env who arc
  refine ⟨?mesh, ?spent, ?thread, ?among, ?count, ?spad, ?queue, s.onBlock_only p _⟩
  case mesh =>
    rw [State.onBlock_block_mesh, made, waited]
    rfl
  case spent =>
    rw [State.onBlock_block_spent, made, waited]
    rfl
  case thread => rw [State.onBlock_block_thread, made, Block.thread_setThread_same]
  case among =>
    rw [State.onBlock_block_waits, made]
    exact x.mem_creditWait env who arc
  case count =>
    rw [State.onBlock_block_get, made]
    refine (Block.get_of_word (Block.setThread_word _ _ _ ?_)).trans (x.creditWait_count env who arc)
    show 0x3820 ≠ 0x2800 + 8 * t
    omega
  case spad =>
    rw [State.onBlock_block_spad, made, waited]
    rfl
  case queue =>
    rw [State.onBlock_block_queue, made, waited]
    rfl

/-- Settles O20: a SEND by its refusals, its message and its token; a RECV by the state of its queue; a re-offer by its slot. -/
theorem groomMessages : Obligations.GroomMessages := by
  intro p t a rb rc imm s empty b th d w mc win lines named
  let y := b.issued t
  have none : y.gather = [] := (b.issued_gather t).trans empty
  have same : y.thread t = th := b.issued_thread t t
  let send := fun (env : Env) (x : Block) => x.doSend env (s.isCtlq d.dest d.queue) (s.groupOk p d.dest) t a rb rc imm.toNat
  let recv := fun (env : Env) (x : Block) => x.doRecv env t a rb rc imm.toNat
  have sends : b.canIssue t = true → exec (.groomSend p t a rb rc imm) s =
      .next (s.onBlock p fun b env => b.issue env t (GroomHw.on .none false) (send env)) := fun can =>
    congrArg Host.Outcome.next (State.onBlock_issueWait can Wait.isCredit send)
  have recvs : b.canIssue t = true → exec (.recv p t a rb rc imm) s =
      .next (s.onBlock p fun b env => b.issue env t (GroomHw.on .none false) (recv env)) := fun can =>
    congrArg Host.Outcome.next (State.onBlock_issueWait can Wait.isRecv recv)
  refine ⟨fun can full => ?full, fun i small can free bad => ?misaligned, fun i small can free lowest aligned good single plain => ?message,
    fun i small arc can free lowest aligned good message pair => ?credited, fun can aligned inside closed => ?closed,
    fun can aligned inside opened nothing => ?nothing, fun x xs can aligned inside opened oldest => ?takes, fun slot runs balked due => ?reoffer⟩
  case full =>
    have ran : send (s.env p) y = y.retire t (th.wr a 9) := by
      rw [← same]
      exact Block.doSend_full none (by rw [same]; exact Thread.freeSlot_eq_none.2 full)
    exact ⟨_, sends can, State.issue_becomes can ran⟩
  case misaligned =>
    have some : ∃ j, th.freeSlot = .some j := by
      rw [← Option.ne_none_iff_exists', Ne, Thread.freeSlot_eq_none]
      exact fun full => full i small free
    obtain ⟨j, some⟩ := some
    have ran : send (s.env p) y = y.retire t (th.wr a 10) := by
      rw [← same]
      exact Block.doSend_misaligned none (by rw [same]; exact some) (by rw [same]; exact bad)
    exact ⟨_, sends can, State.issue_becomes can ran⟩
  case message =>
    have ran := Block.doSend_message (env := s.env p) (ctl := s.isCtlq d.dest d.queue) (a := a) (rc := rc) none
      (by rw [same]; exact Thread.freeSlot_eq_some.2 ⟨small, free, lowest⟩)
      (by rw [same]; exact fun bad => bad.elim (absurd aligned) fun h => h.2 (single h.1).2)
      (show sendNamed (nbit imm.toNat 1) (s.groupOk p d.dest) (SendDest.ofWord ((y.thread t).rd rb)) by rw [same]; exact good)
      (fun h => (single h).1)
      (by
        rw [same, b.issued_taskArc]
        by_cases win : nbit imm.toNat 2 = true
        · exact if_pos win
        · exact (if_neg win).trans (plain (Bool.eq_false_iff.2 win)))
    obtain ⟨mesh, thread, spad, queue, spent, only⟩ := State.onBlock_sends (f := fun b env => b.issue env t (GroomHw.on .none false) (send env))
      ((State.issue_ran can).trans ran) (b.issued_mesh t)
    have source : (y.sentSlot (s.env p) t a rb rc imm.toNat).srcw = th.rd rc := congrArg (Thread.rd · rc) same
    have dest : (y.sentSlot (s.env p) t a rb rc imm.toNat).dst = th.rd rb := congrArg (Thread.rd · rb) same
    rw [source, dest, b.issued_sourceLines] at mesh
    let h : Held := { pkt := (y.sentSlot (s.env p) t a rb rc imm.toNat).packet lines, idx := d.dest, owner := .outbox t i }
    refine ⟨_, h, sends can, mesh, rfl, rfl, rfl,
      ?mcast, congrArg (fun w => (SendDest.ofWord w).tag) dest, congrArg (fun w => (SendDest.ofWord w).queue) dest,
      congrArg (fun w => (SendDest.ofWord w).incarn) dest, ?vc, ?addr, rfl, ?wait, ?pc, ?st, ?patience, spad.trans (b.issued_spad t),
      queue.trans (b.issued_queue t), spent.trans (b.issued_spent t), only⟩
    case mcast =>
      show (!win && mc) = mc
      by_cases h : win = true
      · rw [(single h).1, Bool.and_false]
      · simp [h]
    case vc =>
      show (if win then 0 else imm.toNat % 2) = _
      rw [toNat_mod_two]
    case addr =>
      show (if win then (SendSrc.ofWord (Block.sentSlot _ _ _ _ _ _ _).srcw).woff else 0) = _
      rw [source]
    case wait => rw [thread]
    case pc =>
      rw [thread]
      show (y.thread t).pc = th.pc
      rw [same]
    case st =>
      rw [thread]
      exact congrArg OutSlot.st (Thread.slot_waiting _ _ _)
    case patience =>
      rw [thread]
      exact (congrArg OutSlot.patience (Thread.slot_waiting _ _ _)).trans (b.issued_patienceNs t t.isLt _)
  case credited =>
    have slot : (y.thread t).freeSlot = .some i := by
      rw [same]
      exact Thread.freeSlot_eq_some.2 ⟨small, free, lowest⟩
    have source : ¬ ((SendSrc.ofWord ((y.thread t).rd rc)).src % 64 ≠ 0 ∨
        (nbit imm.toNat 2 = true ∧ (SendSrc.ofWord ((y.thread t).rd rc)).woff % 64 ≠ 0)) := by
      rw [same]
      exact fun bad => bad.elim (absurd aligned) fun h => absurd h.1 (Bool.eq_false_iff.1 message)
    have names : sendNamed (nbit imm.toNat 1) (s.groupOk p d.dest) (SendDest.ofWord ((y.thread t).rd rb)) := by
      rw [same]
      exact good
    have arcs : (if nbit imm.toNat 2 then .none else
        y.taskArc (y.thread t) (nbit imm.toNat 1) (SendDest.ofWord ((y.thread t).rd rb))) = .some arc := by
      rw [same, b.issued_taskArc]
      exact (if_neg (Bool.eq_false_iff.1 message)).trans pair
    have single : nbit imm.toNat 2 = true → nbit imm.toNat 1 = false := fun h => absurd h (Bool.eq_false_iff.1 message)
    refine ⟨fun may => ?token, fun may => ?waits⟩
    case token =>
      have ran := Block.doSend_token (env := s.env p) (ctl := s.isCtlq d.dest d.queue) (a := a) (rc := rc) none slot source names single arcs
        ((b.issued_mayEmit t arc).trans may) (show _ = d by rw [same]) (show _ = w by rw [same])
      rw [same, b.issued_sourceLines] at ran
      obtain ⟨mesh, thread, spad, queue, spent, only⟩ := State.onBlock_sends
        (f := fun b env => b.issue env t (GroomHw.on .none false) (send env)) ((State.issue_ran can).trans ran) (m := b.mesh)
        (by rw [Block.takeCredit_eq]; exact b.issued_mesh t)
      rw [Block.takeCredit_eq] at spad queue spent
      refine ⟨_, _, sends can, mesh, rfl, rfl, rfl,
        rfl, rfl, rfl, rfl, ?spends, ?waitsFor, ?taken, spad.trans (b.issued_spad t), queue.trans (b.issued_queue t), only⟩
      case spends => rw [spent, b.issued_arcFree, b.issued_spent]
      case waitsFor => rw [thread]
      case taken =>
        rw [thread]
        exact congrArg OutSlot.st (Thread.slot_waiting _ _ _)
    case waits =>
      have ran := Block.doSend_waits (env := s.env p) (ctl := s.isCtlq d.dest d.queue) (a := a) (rc := rc) none slot source names single arcs
        ((b.issued_mayEmit t arc).trans may)
      obtain ⟨mesh, spent, thread, among, count, spad, queue, only⟩ := State.onBlock_creditWaits
        (f := fun b env => b.issue env t (GroomHw.on .none false) (send env)) t.isLt ((State.issue_ran can).trans ran)
      refine ⟨_, sends can, mesh.trans (b.issued_mesh t), spent.trans (b.issued_spent t), ?_, among, ?_, spad.trans (b.issued_spad t),
        queue.trans (b.issued_queue t), only⟩
      · rw [thread, same]
      · rw [count, b.issued_waits, b.issued_get t (by decide)]
  case closed =>
    have ran : recv (s.env p) y = y.retire t (th.wr a 3) := by
      rw [← same]
      exact Block.doRecv_closed (by rw [same]; exact not_badScratch aligned inside) (by rw [same]; exact (b.issued_mqOpen t _).trans closed)
    exact ⟨_, recvs can, State.issue_becomes can ran⟩
  case nothing =>
    have ran := Block.doRecv_none (env := s.env p) (a := a) (imm := imm.toNat) (rb := rb) (by rw [same]; exact not_badScratch aligned inside)
      (by rw [same]; exact (b.issued_mqOpen t _).trans opened) (by rw [same]; exact (b.issued_messages t _ _ _).trans nothing)
    rw [same] at ran
    refine ⟨_, recvs can, ?_⟩
    by_cases now : imm.getLsbD 1 = true
    · rw [if_pos now]
      exact State.issue_becomes can (ran.trans (if_pos now))
    · rw [if_neg now]
      obtain ⟨m, issued⟩ := b.issued_eq t
      exact State.issue_waits (c := b) can (ran.trans (if_neg now)) ⟨m, issued⟩ fun _ => rfl
  case takes =>
    have ran := Block.doRecv_takes (env := s.env p) (a := a) (imm := imm.toNat) (rb := rb) none
      (by rw [same]; exact not_badScratch aligned inside) (by rw [same]; exact (b.issued_mqOpen t _).trans opened)
      (by rw [same]; exact (b.issued_messages t _ _ _).trans oldest)
    have queue : x.q < 240 := by
      have found : x ∈ b.messages (bitsOf (th.rd rb) 7 0) (bitsOf (th.rd rb) 31 8) (imm.getLsbD 0) := oldest ▸ List.mem_cons_self
      obtain ⟨-, named⟩ := List.mem_filter.1 found
      rw [Bool.and_eq_true, beq_iff_eq] at named
      exact named.1 ▸ ((b.mqOpen_iff _).1 opened).1
    rw [same, b.issued_entryAddrs t queue, b.issued_spad, b.issued_queue] at ran
    obtain ⟨m, issued⟩ := b.issued_eq t
    let bytes := b.spad.putLines (lineWrites ((List.range x.lines).map fun i => ((th.rd rc).toNat + 64 * i) % 0x80000)
      ((b.entryAddrs x.q x.e x.lines).flatMap fun l => b.spad.bytes l 64))
    exact ⟨_, bytes, recvs can, rfl, (State.issue_retires (c := { b with spad := bytes, queue := b.queue.erase x })
      (x := { y with spad := bytes, queue := b.queue.erase x }) (regs := []) can ran
      ⟨m, by simp only [y, issued]; rfl⟩ fun _ _ => rfl).2⟩
  case reoffer =>
    have ran : (if b.halted then b else b.doReoffer (s.env p) t slot) = (b.count BLK_GRM_REOFFER.count 1).offer t slot := by
      rw [if_neg (Bool.eq_false_iff.1 runs), Block.doReoffer]
      exact if_pos ⟨balked, due⟩
    rw [Block.offer_eq (by exact empty)] at ran
    obtain ⟨mesh, thread, -, -, -, only⟩ := State.onBlock_sends (f := fun b env => if b.halted then b else b.doReoffer env t slot) ran rfl
    refine ⟨_, _, rfl, mesh, rfl, rfl, ?st, ?offers, ?count, only⟩
    case st =>
      rw [thread]
      exact congrArg OutSlot.st (Thread.slot_waiting _ _ _)
    case offers =>
      rw [thread]
      exact (congrArg OutSlot.offers (Thread.slot_waiting _ _ _)).trans rfl
    case count =>
      rw [State.onBlock_block_get, ran]
      refine (Block.get_of_word (Block.setThread_word _ _ _ ?_)).trans (Block.get_count_same _ (by decide) 1)
      show 0x2930 ≠ 0x2800 + 8 * t.val
      omega

end Sys2Proof.Machine
end

section
/-! O33: acknowledgements, echoes and timeouts at a sender. -/

namespace Sys2Proof.Machine

/-- The flags of an ACK without a NACK and an echo (R191). -/
theorem ackFlags_plain {v : Nat} (h : v < 2) :
    nbit (16 * v) 0 = false ∧ nbit (16 * v) 1 = false ∧ nbit (16 * v) 2 = false ∧ nbits (16 * v) 4 4 = v := by
  obtain rfl | rfl : v = 0 ∨ v = 1 := by omega
  · decide
  · decide

/-- The flags of a NACK without an echo (R191). -/
theorem ackFlags_nack {v : Nat} (h : v < 2) :
    nbit (16 * v + 1) 0 = true ∧ nbit (16 * v + 1) 1 = false ∧ nbit (16 * v + 1) 3 = false ∧ nbits (16 * v + 1) 4 4 = v := by
  obtain rfl | rfl : v = 0 ∨ v = 1 := by omega
  · decide
  · decide

/-- A number is not ahead of itself. -/
theorem seqAhead_self (a : Nat) : seqAhead a a < 32768 := by
  simp only [seqAhead]
  omega

/-- The mesh interface of a block replaced. -/
theorem State.BlockIs.setUnit {s t : State} {p : Nat} {b : Block} (h : s.BlockIs p b t) (inside : p < 1280) (m : MeshUnit) :
    s.BlockIs p { b with mesh := m } (t.setUnit p m) := by
  rw [State.setUnit, if_pos inside]
  exact h.setBlock (f := fun x => { x with mesh := m }) fun _ _ => ⟨_, _, rfl⟩

/-- The mesh interface of a block. -/
theorem State.unit_block (s : State) {p : Nat} (inside : p < 1280) : s.unit p = (s.block p).mesh := if_pos inside

section
variable {s : State} {u : Nat} {k : Pkt} {rest : List Pkt} {h : Held} (acks : (s.unit u).acksIn = k :: rest)
  (stored : (s.unit u).resend = [h]) (single : h.pkt.mcast = false) (peer : h.pkt.dest = k.src) (injected : h.injected = true)
  (channel : h.pkt.vc < 2)
include acks stored single peer injected channel

/-- An ACK of the one packet that the unit holds releases it (R191). -/
theorem State.ackReceive_releases (flags : leAt k.payload 1 1 = 16 * h.pkt.vc) (number : h.pkt.seq = k.seq)
    (covers : ackCovers h.pkt.kind = true) :
    s.ackReceive u = ((s.setUnit u { s.unit u with acksIn := rest }).setUnit u
      { s.unit u with acksIn := rest, resend := [] }).heldAcked u h k.src (leAt k.payload 0 1) (leAt k.payload 2 1) := by
  obtain ⟨nack, echo, member, vc⟩ := ackFlags_plain channel
  have ahead := seqAhead_self k.seq
  simp only [State.ackReceive, acks, flags, nack, echo, member, vc, stored, single, peer, injected, Bool.false_and, Bool.false_eq_true,
    if_false, State.unit_setUnit_same, List.filter_cons, List.filter_nil, Bool.not_false, beq_self_eq_true, Bool.and_self,
    if_true, covers, number, ahead, decide_true, List.contains_cons, Bool.true_or, Bool.not_true, List.foldl_cons, List.foldl_nil]

/-- A NACK resends the one packet that the unit holds (R191). -/
theorem State.ackReceive_resends (flags : leAt k.payload 1 1 = 16 * h.pkt.vc + 1) (ahead : seqAhead h.pkt.seq k.seq < 32768) :
    s.ackReceive u = (s.setUnit u { s.unit u with acksIn := rest }).resendAll u [h] := by
  obtain ⟨nack, echo, moved, vc⟩ := ackFlags_nack channel
  simp only [State.ackReceive, acks, flags, nack, echo, moved, vc, stored, single, peer, injected, Bool.false_and, Bool.false_eq_true,
    if_false, List.filter_cons, List.filter_nil, Bool.not_false, beq_self_eq_true, Bool.and_self, if_true, ahead,
    decide_true]

end

/-- The answer to the one offer that a thread waits for: its SEND returns with the slot free (R214). -/
theorem Block.answer_returns {b : Block} {env : Env} {t i status gen : Nat} (offered : ((b.thread t).slot i).st = 1)
    (single : nbit ((b.thread t).slot i).imm 1 = false) (waits : (b.thread t).wait = .send i) (taken : status ≠ 1) :
    b.answer env t i status gen = b.retire t (((b.thread t).setSlot i { (b.thread t).slot i with st := 0, status := status }).wr
      ((b.thread t).slot i).rd (sendResult ((b.thread t).slot i).refused (if status = 2 ∨ status = 4 then gen else 0) i status)) := by
  rw [Block.answer]
  simp only [offered, single, Bool.false_eq_true, if_false, ne_eq, not_true_eq_false, taken, not_false_eq_true, if_true]
  exact if_pos waits

/-- A register written leaves the place of the next instruction. -/
theorem Thread.wr_pc (th : Thread) (r : Nat) (v : Word) : (th.wr r v).pc = th.pc := by
  rw [Thread.wr]
  split
  · rfl
  · rfl

/-- The one packet that a unit holds resent: it goes to the front of the packets to inject, and its resend counts (R192). -/
theorem State.BlockIs.resendAll {s t : State} {p : Nat} {b : Block} (is : s.BlockIs p b t) (inside : p < 1280) {h : Held}
    (stored : b.mesh.resend = [h]) :
    s.BlockIs p (Block.count { b with mesh := { b.mesh with
        sendq := { h with waitFlip := false } :: b.mesh.sendq.filter fun x => x.id == 0 || !([h.id].contains x.id),
        resend := [{ h with sentAt := s.now, waitFlip := false }] } } MSH_RESENDS.count 1) (t.resendAll p [h]) := by
  have mesh : t.unit p = b.mesh := by
    obtain ⟨-, ev, co, same⟩ := is
    rw [t.unit_block inside, same]
  have now : t.now = s.now := by
    obtain ⟨_, _, _, _, _, _, same⟩ := is.1.rest
    rw [same]
  simp only [State.resendAll, if_pos inside, mesh, stored, now, List.map_cons, List.map_nil, List.contains_cons, beq_self_eq_true,
    Bool.true_or, if_true]
  exact (is.setUnit inside _).count MSH_RESENDS.count 1

/-- Block `b` with the allowance settled and an echo counted (R201). -/
def Block.echoCounted (b : Block) (env : Env) : Block :=
  { (b.settle env).count MSH_ECHOES.count 1 with
    mesh := { b.mesh with echoSeen := true, allowance := b.allowance env, allowAt := env.now } }

/-- An echo halves the rate where it was not halved yet in the stride (R202). -/
theorem Block.echo_eq (b : Block) (env : Env) : b.echo env =
    if (b.echoCounted env).get MSH_RATE.halved = 1 then b.echoCounted env
    else ((b.echoCounted env).set MSH_RATE.rate (max 1 ((b.echoCounted env).get MSH_RATE.rate / 2))).set MSH_RATE.halved 1 := rfl

/-- The registers apart from the count of echoes. -/
theorem Block.echoCounted_word (b : Block) (env : Env) {a : Nat} (apart : a ≠ MSH_ECHOES.off) : (b.echoCounted env).word a = b.word a :=
  Block.word_set_ne b MSH_ECHOES.count _ apart

/-- The rate halved, at least 1. -/
theorem Block.halvedRate_fits (b : Block) : max 1 (b.get MSH_RATE.rate / 2) % 2 ^ MSH_RATE.rate.width = max 1 (b.get MSH_RATE.rate / 2) := by
  have small : b.get MSH_RATE.rate < 128 := bitsOf_lt _ 6 0
  have width : 2 ^ MSH_RATE.rate.width = 128 := by decide
  rw [width]
  omega

/-- An echo settles the allowance, counts, and halves the injection rate once in a stride (R201, R202). -/
theorem Block.echo_spec (b : Block) (env : Env) :
    (∃ m, b.echo env = { b with
      regs := m, mesh := { b.mesh with echoSeen := true, allowance := b.allowance env, allowAt := env.now } }) ∧
    (b.echo env).get MSH_ECHOES.count = min MSH_ECHOES.count.top (b.get MSH_ECHOES.count + 1) ∧
    (b.echo env).get MSH_RATE.halved = 1 ∧
    (b.echo env).get MSH_RATE.rate = (if b.get MSH_RATE.halved = 1 then b.get MSH_RATE.rate else max 1 (b.get MSH_RATE.rate / 2)) ∧
    ∀ a, a ∉ [MSH_RATE.off, MSH_ECHOES.off] → (b.echo env).word a = b.word a := by
  have counted : (b.echoCounted env).get MSH_ECHOES.count = min MSH_ECHOES.count.top (b.get MSH_ECHOES.count + 1) :=
    Block.get_count_same b (by decide) 1
  have halved : (b.echoCounted env).get MSH_RATE.halved = b.get MSH_RATE.halved := Block.get_of_word (b.echoCounted_word env (by decide))
  have rate : (b.echoCounted env).get MSH_RATE.rate = b.get MSH_RATE.rate := Block.get_of_word (b.echoCounted_word env (by decide))
  rw [Block.echo_eq, halved, rate]
  by_cases again : b.get MSH_RATE.halved = 1
  · rw [if_pos again, if_pos again]
    refine ⟨⟨_, rfl⟩, counted, halved.trans again, rate, fun a apart => b.echoCounted_word env ?_⟩
    simp only [List.mem_cons, not_or] at apart
    exact apart.2.1
  · rw [if_neg again, if_neg again]
    refine ⟨⟨_, rfl⟩, ?_, Block.get_set_same _ (by decide) 1, ?_, fun a apart => ?_⟩
    · rw [Block.get_set_apart _ (by decide) (by decide) (by decide), Block.get_set_apart _ (by decide) (by decide) (by decide), counted]
    · rw [Block.get_set_apart _ (by decide) (by decide) (by decide), Block.get_set_same _ (by decide), b.halvedRate_fits]
    · simp only [List.mem_cons, not_or] at apart
      rw [Block.word_set_ne _ _ _ (by exact apart.1), Block.word_set_ne _ _ _ (by exact apart.1), b.echoCounted_word env apart.2.1]

/-- A step of the one block that has changed. -/
theorem State.OnlyBlock.onBlock {s t : State} {p : Nat} (only : s.OnlyBlock p t) {f : Block → Env → Block} {x : Block}
    (made : f (t.block p) (t.env p) = x) : s.BlockIs p x (t.onBlock p f) := by
  obtain ⟨ev, co, same⟩ := t.onBlock_block_same p f
  exact ⟨only.trans (t.onBlock_only p f), ev, co, by rw [same, made]⟩

/-- An echo depends on the time and the voltage alone. -/
theorem Block.echo_congr (b : Block) {env env' : Env} (now : env.now = env'.now) (mv : env.mv = env'.mv) : b.echo env = b.echo env' := by
  have settled : b.settle env = b.settle env' := by simp only [Block.settle, Block.allowance, now, mv]
  rw [Block.echo, Block.echo, settled]

/-- An echo is the same after a change of the block's mesh interface. -/
theorem State.echo_setUnit (s : State) {p : Nat} (inside : p < 1280) (m : MeshUnit) (b : Block) :
    b.echo ((s.setUnit p m).env p) = b.echo (s.env p) := by
  rw [State.setUnit, if_pos inside]
  exact b.echo_congr rfl rfl

section
variable {s : State} {p dest vc : Nat} {h : Held} (inside : p < 1280) (stored : (s.unit p).resend = [h]) (single : h.pkt.mcast = false)
  (injected : h.injected = true) (awake : h.waitFlip = false) (peer : h.pkt.dest = dest) (channel : h.pkt.vc = vc)
include stored single injected awake peer channel

/-- The one packet that a unit holds is its stream. -/
theorem State.stream_one : s.stream p dest vc = [h] := by
  simp only [State.stream, stored, List.filter_cons, List.filter_nil, single, injected, awake, peer, channel, beq_self_eq_true,
    Bool.not_false, Bool.and_self, Bool.false_eq_true, if_false, if_true]

include inside

/-- Before its timeout nothing is done about a packet (R192). -/
theorem State.resendTimeout_early (early : s.now < h.sentAt + 1000 * max 1 ((s.block p).get MSH_THRESH.timeout)) :
    s.resendTimeout p dest vc = s := by
  simp only [State.resendTimeout, State.stream_one stored single injected awake peer channel, if_pos inside, if_pos early]

section
variable (late : h.sentAt + 1000 * max 1 ((s.block p).get MSH_THRESH.timeout) ≤ s.now)
include late

/-- After its first timeout a packet is resent (R192). -/
theorem State.resendTimeout_first (first : h.tries = 0) :
    s.resendTimeout p dest vc = (s.setUnit p { s.unit p with resend := [{ h with tries := 1 }] }).resendAll p [{ h with tries := 1 }] := by
  simp only [State.resendTimeout, State.stream_one stored single injected awake peer channel, if_pos inside, if_neg (Nat.not_lt.2 late),
    first, stored, List.map_cons, List.map_nil, beq_self_eq_true, if_true]
  exact if_neg (by omega)

/-- After another timeout a packet waits for the next flip (R192). -/
theorem State.resendTimeout_again (again : 1 ≤ h.tries) :
    s.resendTimeout p dest vc = s.setUnit p { s.unit p with resend := [{ h with waitFlip := true }] } := by
  simp only [State.resendTimeout, State.stream_one stored single injected awake peer channel, if_pos inside, if_neg (Nat.not_lt.2 late),
    stored, List.map_cons, List.map_nil, List.contains_cons, beq_self_eq_true, Bool.true_or, if_true]
  exact if_pos ⟨again, injected⟩

end
end

/-- Settles O33: an ACK and a NACK by what they find in the store, an echo by the rate register, a timeout by the packet's tries. -/
theorem senderHearsBack : Obligations.SenderHearsBack := by
  intro p u s same b others
  have inside : p.val < 1280 := p.isLt
  have unit : s.unit p = b.mesh := s.unit_block inside
  have unchanged : s.BlockIs p b s := .refl s p
  refine ⟨fun k rest h acks stored single peer injected channel whole => ⟨fun flags number covers => ?released, fun flags ahead => ?resent⟩,
    fun k found => ?echo, fun dest vc h stored single injected awake peer channel =>
      ⟨fun early => ?early, fun late first => ?first, fun late again => ?again⟩⟩
  case released =>
    intro m
    have ran : exec (.ackReceive u) s = .next (((s.setUnit p { b.mesh with acksIn := rest }).setUnit p m).heldAcked p h k.src
        (leAt k.payload 0 1) (leAt k.payload 2 1)) := by
      rw [← unit] at acks stored
      have releases := State.ackReceive_releases acks stored single peer injected channel flags number covers
      rw [unit] at releases
      exact congrArg Host.Outcome.next ((congrArg s.ackReceive same).trans releases)
    have cleared := (unchanged.setUnit inside { b.mesh with acksIn := rest }).setUnit inside m
    refine ⟨fun unowned => ⟨_, ran, ?_⟩, fun t i owned => ?_⟩
    · rw [State.heldAcked, if_pos whole, State.acked, unowned]
      exact cleared.becomes fun _ _ => rfl
    · intro th x status gen offered plain waits taken
      refine ⟨_, ran, ?_⟩
      rw [State.heldAcked, if_pos whole, State.acked, owned]
      have result : sendResult x.refused gen i status = BitVec.ofNat 64
          (x.refused % 65536 * 2 ^ 32 + gen % 256 * 2 ^ 16 + i.val * 2 ^ 8 + status % 256) := by
        rw [sendResult, Nat.mod_eq_of_lt i.isLt]
      have place : ((th.setSlot i { x with st := 0, status := status }).wr x.rd (sendResult x.refused gen i status)).pc = th.pc :=
        Thread.wr_pc _ _ _
      rw [← result, ← place]
      have returned := cleared.onBlock (b' := Block.retire { b with mesh := m } t
          ((th.setSlot i { x with st := 0, status := status }).wr x.rd (sendResult x.refused gen i status)))
        (f := fun b env => b.answer env t i status (leAt k.payload 2 1)) fun ev co =>
          ⟨ev, co, Block.answer_returns (b := { b with mesh := m, ev := ev, coalesced := co }) offered plain waits taken⟩
      have becomes := returned.becomes (regs := [BLK_GRM_STATE.off t, BLK_CNT.off (27 + t)]) fun a apart => by
        simp only [List.mem_cons, not_or] at apart
        exact Block.retire_word_apart _ _ _ apart.1 apart.2.1
      show s.BlockBecomes _ _ _ (if p.val < 1280 ∧ i.val < 4 then _ else _)
      rw [if_pos ⟨inside, i.isLt⟩]
      exact becomes
  case resent =>
    have resends := State.ackReceive_resends (unit ▸ acks) (unit ▸ stored) single peer injected channel flags ahead
    rw [unit] at resends
    have resent := (unchanged.setUnit inside { b.mesh with acksIn := rest }).resendAll inside stored
    exact ⟨_, congrArg Host.Outcome.next ((congrArg s.ackReceive same).trans resends),
      (resent.get _).trans (Block.get_count_same _ (by decide) 1),
      resent.becomes fun a apart => Block.word_set_ne _ _ _ (List.ne_of_not_mem_cons apart)⟩
  case echo =>
    let k' : Pkt := { k with payload := leBytes 1 (leAt k.payload 0 1) ++ leBytes 1 (leAt k.payload 1 1 - 2) ++ leBytes 1 (leAt k.payload 2 1) }
    let l := b.mesh.acksIn.map fun x => if x == k then k' else x
    have ran : s.echoReceive p = (s.setUnit p { b.mesh with acksIn := l }).onBlock p fun b env => b.echo env := by
      simp only [State.echoReceive, unit, found]
      rfl
    have noted : s.BlockIs p (Block.echo { b with mesh := { b.mesh with acksIn := l } } (s.env p)) (s.echoReceive p) := by
      rw [ran]
      refine (unchanged.setUnit inside _).1.onBlock ?_
      rw [s.echo_setUnit inside, State.setUnit, if_pos inside, State.block_setBlock_same]
    obtain ⟨⟨m, shape⟩, count, halved, rate, words⟩ := Block.echo_spec { b with mesh := { b.mesh with acksIn := l } } (s.env p)
    refine ⟨_, l, rfl, (noted.get _).trans count, (noted.get _).trans halved, (noted.get _).trans rate, ?_⟩
    have becomes := noted.becomes words
    rw [shape] at becomes
    exact becomes
  case early =>
    exact congrArg Host.Outcome.next ((congrArg (s.resendTimeout · dest vc) same).trans
      (State.resendTimeout_early inside (unit ▸ stored) single injected awake peer channel early))
  case first =>
    have resends := State.resendTimeout_first inside (unit ▸ stored) single injected awake peer channel late first
    rw [unit] at resends
    have resent := (unchanged.setUnit inside { b.mesh with resend := [{ h with tries := 1 }] }).resendAll inside rfl
    rcases h with ⟨⟩
    dsimp only at awake
    subst awake
    exact ⟨_, congrArg Host.Outcome.next ((congrArg (s.resendTimeout · dest vc) same).trans resends),
      (resent.get _).trans (Block.get_count_same _ (by decide) 1),
      resent.becomes fun a apart => Block.word_set_ne _ _ _ (List.ne_of_not_mem_cons apart)⟩
  case again =>
    have waits := State.resendTimeout_again inside (unit ▸ stored) single injected awake peer channel late again
    rw [unit] at waits
    exact ⟨_, congrArg Host.Outcome.next ((congrArg (s.resendTimeout · dest vc) same).trans waits),
      (unchanged.setUnit inside _).becomes fun _ _ => rfl⟩

end Sys2Proof.Machine
end

section
/-! O25: firings and the Rein. -/

namespace Sys2Proof.Machine

/-! The thread of a task that starts (R120, R157). -/

/-- A thread but for its g registers. -/
def Thread.shell (th : Thread) : Thread := { th with g := [] }

/-- A register written changes nothing else of a thread. -/
theorem Thread.wr_shell (th : Thread) (r : Nat) (v : Word) : (th.wr r v).shell = th.shell := by
  rw [Thread.wr]
  split
  · rfl
  · rfl

/-- A register that is written reads as the value. -/
theorem Thread.rd_wr_same (th : Thread) {r : Nat} (real : r ≠ 0) (v : Word) : (th.wr r v).rd r = v := by
  rw [Thread.wr, if_neg real, Thread.rd, if_neg real]
  exact mget_mins_same _ _ _ _

/-- A register other than the one written reads as before. -/
theorem Thread.rd_wr_ne (th : Thread) {r j : Nat} (apart : j ≠ r) (v : Word) : (th.wr r v).rd j = th.rd j := by
  rw [Thread.wr]
  split
  · rfl
  · exact if_congr Iff.rfl rfl (mget_mins_ne _ _ apart _)

/-- A thread with the registers of a task's start (R157): the entry values from g1, tag and stride, the task's own values from g11. -/
def Thread.started (th : Thread) (entries : List Word) (tag stride : Word) (own : List Word) : Thread :=
  own.zipIdx.foldl (fun th x => th.wr (11 + x.2) x.1)
    (((entries.zipIdx.foldl (fun th x => th.wr (x.2 + 1) x.1) th).wr 9 tag).wr 10 stride)

section
variable (th : Thread) (entries : List Word) (tag stride : Word) (own : List Word)

/-- A task's start writes registers only. -/
theorem Thread.started_shell : (th.started entries tag stride own).shell = th.shell := by
  refine (foldl_same Thread.shell (fun th (x : Word × Nat) => th.wr_shell (11 + x.2) x.1) _ _).trans ?_
  rw [Thread.wr_shell, Thread.wr_shell]
  exact foldl_same Thread.shell (fun th (x : Word × Nat) => th.wr_shell (x.2 + 1) x.1) _ _

/-- A task starts with its tag in g9. -/
theorem Thread.started_tag : (th.started entries tag stride own).rd 9 = tag := by
  refine (foldl_same (fun th : Thread => th.rd 9) (fun th (x : Word × Nat) => th.rd_wr_ne (r := 11 + x.2) (by omega) x.1) _ _).trans ?_
  rw [Thread.rd_wr_ne _ (by decide), Thread.rd_wr_same _ (by decide)]

/-- A task starts with its stride in g10. -/
theorem Thread.started_stride : (th.started entries tag stride own).rd 10 = stride := by
  refine (foldl_same (fun th : Thread => th.rd 10) (fun th (x : Word × Nat) => th.rd_wr_ne (r := 11 + x.2) (by omega) x.1) _ _).trans ?_
  rw [Thread.rd_wr_same _ (by decide)]

end

/-- A task's firing starts on its thread with the registers of a task's start. -/
theorem Block.startTask_started (b : Block) (env : Env) (t node task : Nat) (tr : TaskRec) (tag : Nat) (stride : Word) (listed : Bool)
    (ins : List (Option QEntry)) : ∃ entries held, b.startTask env t node task tr tag stride listed ins =
      b.setThread t { Thread.started { state := 1, pc := tr.entry, task := task, node := node, tag := tag, stride := stride,
                                       listed := listed, free := env.free } entries (BitVec.ofNat 64 tag) stride tr.vals with held := held } :=
  ⟨_, _, rfl⟩

/-- A task's firing starts on its thread alone. -/
theorem Block.startTask_eq (b : Block) (env : Env) (t node task : Nat) (tr : TaskRec) (tag : Nat) (stride : Word) (listed : Bool)
    (ins : List (Option QEntry)) : ∃ th held, b.startTask env t node task tr tag stride listed ins = b.setThread t th ∧
      th.shell = { state := 1, pc := tr.entry, task := task, node := node, tag := tag, stride := stride, listed := listed,
                   free := env.free, held := held } ∧
      th.rd 9 = BitVec.ofNat 64 tag ∧ th.rd 10 = stride := by
  obtain ⟨entries, held, starts⟩ := b.startTask_started env t node task tr tag stride listed ins
  exact ⟨_, held, starts, congrArg (fun th : Thread => { th with held := held }) (Thread.started_shell _ _ _ _ _),
    Thread.started_tag _ _ _ _ _, Thread.started_stride _ _ _ _ _⟩

/-! What a firing makes of the block (R152). -/

section
variable {b : Block} {env : Env} {node tag : Nat} {stride : Word} {listed : Bool}

/-- A node that is not complete does not fire. -/
theorem Block.fire_incomplete (incomplete : b.complete node tag = false) : b.fire env node tag stride listed = none := by
  rw [Block.fire]
  split
  · rfl
  · simp only [incomplete, Bool.not_false, if_true]

section
variable {n : NodeRec} (found : b.node? node = some n) (complete : b.complete node tag = true)
include found complete

/-- A task's firing. -/
theorem Block.fire_task {tr : TaskRec} {t : Nat} (kind : n.kind = 1) (task : b.tasks[n.ref]? = some tr)
    (idle : b.idleThread tr.groom = some t) :
    b.fire env node tag stride listed =
      some ((((b.startTask env t node n.ref tr tag stride listed (b.inputs node tag n.inputs)).releaseCtx node tag).count
        BLK_DF_FIRES.count 1).progress env) := by
  simp only [Block.fire, found, complete, kind, task, idle, Bool.not_true, Bool.false_eq_true, if_false]

/-- The entries that a firing holds. -/
def Block.heldBy (b : Block) (node tag n : Nat) : List (Nat × Nat) := (b.inputs node tag n).filterMap fun x => x.map fun x => (x.q, x.e)

/-- A move node's firing posts its descriptor (R158). -/
theorem Block.fire_move {d : Desc} (kind : n.kind = 2) (template : b.templates[n.ref]? = some d) (few : b.activeJobs < 4) :
    b.fire env node tag stride listed =
      some (((Block.releaseCtx { b with
        jobs := b.jobs ++ [{ fromRing := false, index := b.posted, desc := moveDesc d n tag, node := node, tag := tag,
                             stride := stride.toNat, held := b.heldBy node tag n.inputs }],
        posted := b.posted + 1 } node tag).count BLK_DF_FIRES.count 1).progress env) := by
  simp only [Block.fire, found, complete, kind, template, if_neg (Nat.not_le.2 few), Bool.not_true, Bool.false_eq_true, if_false]
  rfl

/-- A steer point's firing. -/
theorem Block.fire_steer (kind : n.kind = 3) : b.fire env node tag stride listed = b.steer env node tag n listed := by
  simp only [Block.fire, found, complete, kind, Bool.not_true, Bool.false_eq_true, if_false]

end

/-- What a firing counts and releases: the block with its context released. -/
theorem Block.released_count (c : Block) :
    ∃ m queue ctxs, (c.releaseCtx node tag).count BLK_DF_FIRES.count 1 = { c with regs := m, queue := queue, ctxs := ctxs } := by
  obtain ⟨queue, ctxs, released⟩ := c.releaseCtx_eq node tag
  rw [released]
  exact ⟨_, queue, ctxs, rfl⟩

/-- A firing leaves the scratchpad, the threads, the credits and the packets that wait. -/
theorem Block.released_kept (c : Block) :
    let x := (c.releaseCtx node tag).count BLK_DF_FIRES.count 1
    x.spad = c.spad ∧ x.threads = c.threads ∧ x.spent = c.spent ∧ x.mesh = c.mesh ∧ x.arcs = c.arcs ∧ x.returned = c.returned ∧
      x.waits = c.waits ∧ x.lblock = c.lblock := by
  obtain ⟨m, queue, ctxs, released⟩ := Block.released_count (node := node) (tag := tag) c
  rw [released]
  exact ⟨rfl, rfl, rfl, rfl, rfl, rfl, rfl, rfl⟩

/-- The count of a firing. -/
theorem Block.released_fires (c : Block) : ((c.releaseCtx node tag).count BLK_DF_FIRES.count 1).get BLK_DF_FIRES.count =
    min BLK_DF_FIRES.count.top (c.get BLK_DF_FIRES.count + 1) := by
  obtain ⟨queue, ctxs, released⟩ := c.releaseCtx_eq node tag
  rw [Block.get_count_same _ (by decide), released]
  rfl

end

/-! The queue while a firing holds its entries (R152, R162). -/

/-- An entry that a firing holds is not touched where waiting tokens are matched. -/
theorem Block.mem_matchToken {b b' : Block} {q tag : Nat} (h : b.matchToken q tag = some b') {z : QEntry} (mem : z ∈ b.queue)
    (taken : z.taken = true) : z ∈ b'.queue := by
  have kept : ∀ c : Block, c.queue = b.queue → z ∈ c.queue.map fun x =>
      if x.q == q && x.tag == tag && !x.taken then { x with matched := true } else x := fun c same =>
    List.mem_map.2 ⟨z, same ▸ mem, if_neg (by simp [taken])⟩
  unfold Block.matchToken at h
  dsimp only at h
  split at h
  · rw [← Option.some.inj h]
    exact kept _ rfl
  · split at h
    · cases h
    · obtain ⟨_, -, rfl⟩ := Option.map_eq_some_iff.mp h
      exact kept _ rfl

/-- An entry that a firing holds stays while waiting tokens are matched. -/
theorem Block.mem_rematchList {z : QEntry} (taken : z.taken = true) (xs : List QEntry) :
    ∀ b : Block, z ∈ b.queue → z ∈ (b.rematchList xs).queue := by
  induction xs with
  | nil => exact fun _ mem => mem
  | cons x xs ih =>
    intro b mem
    rw [Block.rematchList]
    split
    · exact ih b mem
    · split
      · next b' found => exact ih b' (Block.mem_matchToken found mem taken)
      · exact ih b mem

/-- A firing takes the entries of its inputs (R152). -/
theorem Block.taken_releaseCtx {b : Block} {node input tag : Nat} {x : QEntry} (entry : b.inputEntry node input tag = some x) :
    { x with taken := true } ∈ (b.releaseCtx node tag).queue := by
  have mem := List.mem_of_find?_eq_some entry
  have mine := List.find?_some entry
  simp only [Bool.and_eq_true, beq_iff_eq] at mine
  obtain ⟨⟨⟨⟨⟨tag, kind⟩, node⟩, -⟩, matched⟩, -⟩ := mine
  refine Block.mem_rematchList rfl _ _ (List.mem_map.2 ⟨x, mem, if_pos ?_⟩)
  simp [tag, kind, node, matched]

/-- Entries freed are gone; besides the queue the credits and the packets that wait change. -/
theorem Block.freeEntries_eq (es : List (Nat × Nat)) : ∀ b : Block, ∃ returned totals mesh, b.freeEntries es =
    { b with queue := b.queue.filter fun y => !es.contains (y.q, y.e), returned := returned, totals := totals, mesh := mesh } := by
  induction es with
  | nil =>
    intro b
    have same : (b.queue.filter fun y => !([] : List (Nat × Nat)).contains (y.q, y.e)) = b.queue := List.filter_eq_self.2 fun _ _ => rfl
    exact ⟨_, _, _, by rw [same]; rfl⟩
  | cons x es ih =>
    intro b
    obtain ⟨q, e⟩ := x
    obtain ⟨returned, totals, mesh, freed⟩ := b.freeEntry_eq q e
    obtain ⟨returned', totals', mesh', rest⟩ := ih (b.freeEntry q e)
    have both : ((b.queue.filter fun y => !(y.q == q && y.e == e)).filter fun y => !es.contains (y.q, y.e)) =
        b.queue.filter fun y => !((q, e) :: es).contains (y.q, y.e) := by
      rw [List.filter_filter]
      refine List.filter_congr fun y _ => ?_
      rw [List.contains_cons, Bool.not_or, Bool.and_comm]
      rfl
    exact ⟨returned', totals', mesh', by rw [Block.freeEntries, rest, freed, both]⟩

/-- Freed entries leave the registers. -/
theorem Block.freeEntries_get (b : Block) (es : List (Nat × Nat)) (f : Fld) : (b.freeEntries es).get f = b.get f := by
  obtain ⟨returned, totals, mesh, freed⟩ := Block.freeEntries_eq es b
  rw [freed]
  rfl

/-- Freed entries leave the scratchpad, the threads and the credits spent. -/
theorem Block.freeEntries_kept (b : Block) (es : List (Nat × Nat)) :
    (b.freeEntries es).spad = b.spad ∧ (b.freeEntries es).threads = b.threads ∧ (b.freeEntries es).spent = b.spent := by
  obtain ⟨returned, totals, mesh, freed⟩ := Block.freeEntries_eq es b
  rw [freed]
  exact ⟨rfl, rfl, rfl⟩

/-- No freed entry is left. -/
theorem Block.not_mem_freeEntries {b : Block} {es : List (Nat × Nat)} {z : QEntry} (mem : z ∈ (b.freeEntries es).queue) : (z.q, z.e) ∉ es := by
  obtain ⟨returned, totals, mesh, freed⟩ := Block.freeEntries_eq es b
  rw [freed] at mem
  simpa using (List.mem_filter.1 mem).2

/-- The entry of an input is among those that a firing holds. -/
theorem Block.mem_heldBy {b : Block} {node input tag n : Nat} {x : QEntry} (entry : b.inputEntry node input tag = some x) (below : input < n) :
    (x.q, x.e) ∈ b.heldBy node tag n :=
  List.mem_filterMap.2 ⟨some x, List.mem_map.2 ⟨input, List.mem_range.2 below, entry⟩, rfl⟩

/-- The entry of an input, by its number. -/
theorem Block.inputs_getD {b : Block} {node input tag n : Nat} {x : QEntry} (entry : b.inputEntry node input tag = some x) (below : input < n) :
    (b.inputs node tag n).getD input none = some x := by
  rw [Block.inputs, List.getD_eq_getElem _ _ (by simpa using below), List.getElem_map, List.getElem_range, entry]

/-! The firing of a steer point in GATE (R159, R161). -/

section
variable {b : Block} {env : Env} {node tag : Nat} {n : NodeRec} {listed : Bool} {x y : QEntry} (idle : b.reinJob = none)
  (gate : n.mode = 1) (inputs : 2 ≤ n.inputs) (pred : b.inputEntry node 0 tag = some x) (predControl : x.isData = false)
include idle gate inputs pred predControl

/-- With the predicate 0 the input is discarded, and the firing is over. -/
theorem Block.steer_discards (closed : leAt x.bytes 0 1 % 2 = 0) : b.steer env node tag n listed =
    some ((((b.releaseCtx node tag).count BLK_DF_FIRES.count 1).freeEntries (b.heldBy node tag n.inputs)).steered env 1) := by
  simp only [Block.steer, idle, Block.inputs_getD pred (by omega : 0 < n.inputs), Block.entryBytes, predControl, gate, closed,
    Bool.false_eq_true, if_false, Option.isSome_none]
  rfl

/-- The firing that a steer point has started with its input (R156). -/
def Block.steerJob (b : Block) (node tag : Nat) (n : NodeRec) (y : QEntry) (listed : Bool) : ReinJob :=
  { node := node, tag := tag, sel := y, held := b.heldBy node tag n.inputs, disc := 0, listed := listed }

/-- With the predicate 1 the firing starts with the input, and goes on where it can. -/
theorem Block.steer_passes (passes : leAt x.bytes 0 1 % 2 = 1) (input : b.inputEntry node 1 tag = some y) :
    b.steer env node tag n listed =
      some (Block.reinGo { (b.releaseCtx node tag).count BLK_DF_FIRES.count 1 with
        reinJob := some (b.steerJob node tag n y listed) } env) := by
  simp only [Block.steer, idle, Block.inputs_getD pred (by omega : 0 < n.inputs), Block.entryBytes, predControl, gate, passes,
    Bool.false_eq_true, if_false, Option.isSome_none]
  simp only [steerChoice, beq_self_eq_true, if_true, Block.inputs_getD input (by omega : 1 < n.inputs)]
  rfl

end

section
variable {b : Block} {env : Env} {j : ReinJob} {arc : Nat} (started : b.reinJob = some j) (output : b.outputArc j.node 0 = some arc)
include started output

/-- A steer point's firing with no credit waits for one (R156, R163). -/
theorem Block.reinGo_waits (may : b.mayEmit arc = false) : b.reinGo env = b.creditWait env waitRein arc := by
  simp only [Block.reinGo, started, output, may, Bool.not_false, if_true]

/-- A steer point's firing with a credit hands its token to the router (R161, R162). -/
theorem Block.reinGo_sends {a : ArcRec} (may : b.mayEmit arc = true) (control : j.sel.isData = false) (found : b.arcs[arc]? = some a)
    (away : a.dest ≠ b.lblock ∨ a.mcast = true) :
    b.reinGo env = (((Block.takeCredit { b with reinJob := none } waitRein arc).send
      { pkt := arcPkt a j.tag false j.sel.bytes, idx := a.dest, origin := .entries j.held j.listed }).steered env j.disc) := by
  have ran : b.reinGo env = ((Block.takeCredit { b with reinJob := none } waitRein arc).emitToken env arc j.tag false j.sel.bytes
      (.entries j.held j.listed)).steered env j.disc := by
    simp only [Block.reinGo, started, output, may, Bool.not_true, Bool.false_eq_true, if_false, Block.entryBytes, control]
  rw [ran, Block.emitToken_away (a := a)]
  · rw [Block.takeCredit_eq]
    exact found
  · rw [Block.takeCredit_eq]
    exact away

end

/-! Which firing starts (R155, R161). -/

/-- A list whose members are all one of them begins with it. -/
theorem eq_cons_of_forall_eq {α : Type} {x : α} : ∀ {xs : List α}, x ∈ xs → (∀ y ∈ xs, y = x) → ∃ ys, xs = x :: ys
  | y :: ys, _, all => ⟨ys, by rw [all y List.mem_cons_self]⟩

section
variable {b : Block} {env : Env} {c : Ctx} {r : NodeRec} (only : b.ctxs = [c]) (complete : b.complete c.node c.tag = true)
  (free : b.isListed c.node = false)
include only complete free

/-- The one complete context of a free node is the first that can fire. -/
theorem Block.freeFirings_one {nodes : List Nat} (mem : c.node ∈ nodes) : ∃ l, b.freeFirings nodes = (c.node, c.tag) :: l := by
  refine eq_cons_of_forall_eq (List.mem_flatMap.2 ⟨c.node, mem, ?_⟩) fun y hy => ?_
  · simp [free, only, complete]
  · obtain ⟨n, -, mem⟩ := List.mem_flatMap.1 hy
    by_cases listed : b.isListed n = true
    · simp [listed] at mem
    · by_cases here : c.node = n
      · subst here
        simpa [free, only, complete] using mem
      · simp [listed, only, here] at mem

/-- The one complete context of a free node fires. -/
theorem Block.fireFirst_one {nodes : List Nat} (mem : c.node ∈ nodes) {b' : Block}
    (fires : b.fire env c.node c.tag b.stride false = some b') :
    b.fireFirst env (b.freeFirings nodes) = some ((c.node, c.tag), b') := by
  obtain ⟨l, first⟩ := Block.freeFirings_one only complete free mem
  simp only [Block.fireFirst, first, List.findSome?_cons, fires, Option.map_some]

variable (found : b.node? c.node = some r)
include found

/-- A move node fires where it is time for free nodes (R155). -/
theorem Block.doFreeFire_one (runs : b.schedulerRuns = true) (time : b.freeTime = true) {b' : Block}
    (fires : b.fire env c.node c.tag b.stride false = some b') : b.doFreeFire env = b' := by
  have known : c.node ∈ List.range b.nodes.length := List.mem_range.2 (List.getElem?_eq_some_iff.1 found).1
  simp only [Block.doFreeFire, runs, time, Block.fireFirst_one only complete free known fires, Bool.not_true, Bool.or_self,
    Bool.false_eq_true, if_false]

/-- A steer point fires where it is time for free nodes and the output stage is free (R155, R161). -/
theorem Block.doRein_one (runs : b.reinRuns = true) (time : b.freeTime = true) (idle : b.reinJob = none) (kind : r.kind = 3)
    (point : r.ref < 64) {b' : Block} (fires : b.fire env c.node c.tag b.stride false = some b') : b.doRein env = b' := by
  have known : c.node ∈ List.range b.nodes.length := List.mem_range.2 (List.getElem?_eq_some_iff.1 found).1
  have ordered : c.node ∈ b.steerOrder :=
    List.mem_flatMap.2 ⟨r.ref, List.mem_range.2 point, List.mem_filter.2 ⟨known, by simp [found, kind]⟩⟩
  have steer : b.isSteer c.node = true := by simp [Block.isSteer, found, kind]
  simp only [Block.doRein, runs, idle, time, Block.fireFirst_one only complete free known fires,
    Block.fireFirst_one only complete free ordered fires, steer, Bool.not_true, Bool.false_eq_true, if_false, if_true, Option.isSome_none]
  split
  · rfl
  · rfl

end

/-- A scheduler that runs is not halted, and neither is the Rein (R154, R161). -/
theorem Block.schedulerRuns_runs {b : Block} (runs : b.schedulerRuns = true) : b.halted = false ∧ b.reinRuns = true := by
  simp only [Block.schedulerRuns, Bool.and_eq_true, Bool.not_eq_true'] at runs
  obtain ⟨⟨halted, -⟩, state⟩ := runs
  exact ⟨halted, by simp [Block.reinRuns, halted, state]⟩

/-- A step of a block that is not halted and whose store is sound. -/
theorem Block.withStoreHw_runs {b : Block} (halted : b.halted = false) (env : Env) (run : Block → Block) : b.withStoreHw env .none run = run b :=
  if_neg (Bool.eq_false_iff.1 halted)

/-- The registers apart from the count of firings. -/
theorem Block.released_get (b : Block) (node tag : Nat) {f : Fld} (apart : f.off ≠ BLK_DF_FIRES.off) :
    ((b.releaseCtx node tag).count BLK_DF_FIRES.count 1).get f = b.get f := by
  obtain ⟨queue, ctxs, released⟩ := b.releaseCtx_eq node tag
  rw [released]
  exact Block.get_of_word (Block.word_set_ne _ BLK_DF_FIRES.count _ apart)

/-- The discarded tokens count (R161). -/
theorem Block.steered_discard (b : Block) (env : Env) (n : Nat) :
    (b.steered env n).get BLK_DF_DISCARD.count = min BLK_DF_DISCARD.count.top (b.get BLK_DF_DISCARD.count + n) :=
  Block.get_count_same b (by decide) n

/-- What a steer point's end counts. -/
theorem Block.steered_fires (b : Block) (env : Env) (n : Nat) : (b.steered env n).get BLK_DF_FIRES.count = b.get BLK_DF_FIRES.count :=
  Block.get_of_word (Block.word_set_ne b BLK_DF_DISCARD.count _ (by decide))

section
variable {b : Block} {env : Env} {node field : Nat} (entry : b.fireList[b.flPos]? = some (node, field))
include entry

/-- The next fire-list entry starts where its node fires (R153). -/
theorem Block.startEntry_starts {b' : Block} (fires : b.fire env node (formTag b.stride field) b.stride true = some b') :
    ∃ x, b.startEntry env b.flPos = some x ∧ (∃ m pos, x = { b' with regs := m, flDone := b.flPos :: b'.flDone, flPos := pos }) ∧
      x.get BLK_DF_FIRES.count = b'.get BLK_DF_FIRES.count := by
  refine ⟨_, by simp only [Block.startEntry, entry, fires, Option.map_some]; rfl, ?_⟩
  refine ⟨⟨_, _, rfl⟩, ?_⟩
  rw [Block.get_set_apart _ (by decide) (by decide) (by decide), Block.get_set_apart _ (by decide) (by decide) (by decide)]
  rfl

/-- An entry whose node does not fire does not start. -/
theorem Block.startEntry_holds (still : b.fire env node (formTag b.stride field) b.stride true = none) :
    b.startEntry env b.flPos = none := by
  simp only [Block.startEntry, entry, still, Option.map_none]

end

/-- In Collected gait only the next entry can start (R153). -/
theorem Block.doFireEntry_next {b : Block} {env : Env} (runs : b.schedulerRuns = true) (working : b.working = true)
    (collected : b.extended = false) : b.doFireEntry env = (b.startEntry env b.flPos).getD b := by
  simp only [Block.doFireEntry, runs, working, collected, Bool.not_true, Bool.or_self, Bool.false_eq_true, if_false, List.findSome?_cons,
    List.findSome?_nil]
  cases b.startEntry env b.flPos <;> rfl

/-- What a task's firing makes of the block and of its thread (R153, R157). -/
theorem Block.fire_task_starts {b : Block} {env : Env} {node tag t : Nat} {stride : Word} {listed : Bool} {n : NodeRec} {tr : TaskRec}
    (found : b.node? node = some n) (complete : b.complete node tag = true) (kind : n.kind = 1) (task : b.tasks[n.ref]? = some tr)
    (idle : b.idleThread tr.groom = some t) (thread : t < 8) :
    ∃ b' th held, b.fire env node tag stride listed = some b' ∧
      (∃ m queue ctxs, b' = { b with
        regs := m, queue := queue, ctxs := ctxs, threads := mset threadIdle b.threads t th, progressAt := env.now }) ∧
      b'.get BLK_DF_FIRES.count = min BLK_DF_FIRES.count.top (b.get BLK_DF_FIRES.count + 1) ∧
      th.shell = { state := 1, pc := tr.entry, task := n.ref, node := node, tag := tag, stride := stride, listed := listed,
                   free := env.free, held := held } ∧
      th.rd 9 = BitVec.ofNat 64 tag ∧ th.rd 10 = stride := by
  have fires := Block.fire_task (env := env) (stride := stride) (listed := listed) found complete kind task idle
  obtain ⟨th, held, starts, shell, tagged, strided⟩ := b.startTask_eq env t node n.ref tr tag stride listed (b.inputs node tag n.inputs)
  rw [starts] at fires
  obtain ⟨m, queue, ctxs, released⟩ := Block.released_count (node := node) (tag := tag) (b.setThread t th)
  have count := Block.released_fires (node := node) (tag := tag) (b.setThread t th)
  refine ⟨_, th, held, fires, ⟨m, queue, ctxs, by rw [released]; rfl⟩, count.trans ?_, shell, tagged, strided⟩
  rw [Block.get_of_word (Block.setThread_word b t _ (by simp only [BLK_DF_FIRES.count, BLK_DF_FIRES.off, BLK_GRM_STATE.off]; omega))]

/-- An idle thread is one of the block's eight. -/
theorem Block.idleThread_lt {b : Block} {groom t : Nat} (small : groom < 2) (idle : b.idleThread groom = some t) : t < 8 := by
  obtain ⟨i, four, rfl⟩ := List.mem_map.1 (List.mem_of_find?_eq_some idle)
  have := List.mem_range.1 four
  omega

/-- Settles O25: a list entry by its node's firing, a free node by the one complete context, a steer point by its predicate and its
credit. -/
theorem firingsAndRein : Obligations.FiringsAndRein := by
  intro p s runs b
  obtain ⟨halted, reinRuns⟩ := Block.schedulerRuns_runs runs
  refine ⟨fun node field working collected entry => ?list, fun c r d only complete free found => ⟨?move, ?steer⟩⟩
  case list =>
    intro tag
    have step : (b.withStoreHw (s.env p) .none fun b => b.doFireEntry (s.env p)) = (b.startEntry (s.env p) b.flPos).getD b :=
      (Block.withStoreHw_runs halted _ _).trans (Block.doFireEntry_next runs working collected)
    refine ⟨fun incomplete => ⟨_, rfl, ?_⟩, fun n tr t complete found kind task small idle => ?_⟩
    · rw [Block.startEntry_holds entry (Block.fire_incomplete incomplete)] at step
      exact s.onBlock_becomes p ⟨_, _, _, step⟩ fun _ _ => congrArg (Block.word · _) step
    · obtain ⟨b', th, held, fires, ⟨m', queue, ctxs, shape'⟩, count', shell, tagged, strided⟩ :=
        Block.fire_task_starts (env := s.env p) (stride := b.stride) (listed := true) found complete kind task idle (Block.idleThread_lt small idle)
      obtain ⟨x, starts, ⟨m, pos, shape⟩, count⟩ := Block.startEntry_starts entry fires
      rw [starts, Option.getD_some] at step
      have thread : x.thread t = th := by
        rw [shape, shape']
        exact mget_mset_same _ _ _ _
      refine ⟨_, x.thread t, rfl, ?_, congrArg Thread.state (thread ▸ shell), congrArg Thread.pc (thread ▸ shell),
        congrArg Thread.task (thread ▸ shell), congrArg Thread.node (thread ▸ shell), congrArg Thread.tag (thread ▸ shell),
        congrArg Thread.stride (thread ▸ shell), congrArg Thread.listed (thread ▸ shell), congrArg Thread.wait (thread ▸ shell),
        thread ▸ tagged, thread ▸ strided, fun j _ other => ?_, ?_, ?_, ?_, ?_, s.onBlock_only p _⟩
      · rw [State.onBlock_block_thread, step]
      · rw [State.onBlock_block_thread, step, shape, shape']
        exact mget_mset_ne _ _ _ other
      · rw [State.onBlock_block_flDone, step, shape, shape']
      · rw [State.onBlock_block_progressAt, step, shape, shape']
        rfl
      · rw [State.onBlock_block_spad, step, shape, shape']
      · rw [State.onBlock_block_get, step, count, count']
  case move =>
    intro kind time template few
    have fires := Block.fire_move (env := s.env p) (stride := b.stride) (listed := false) found complete kind template few
    have step : (b.withStoreHw (s.env p) .none fun b => b.doFreeFire (s.env p)) = _ :=
      (Block.withStoreHw_runs halted _ _).trans (Block.doFreeFire_one only complete free found runs time fires)
    obtain ⟨m, queue, ctxs, shape⟩ := Block.released_count (node := c.node) (tag := c.tag) { b with
      jobs := b.jobs ++ [{ fromRing := false, index := b.posted, desc := moveDesc d r c.tag, node := c.node, tag := c.tag,
                           stride := b.stride.toNat, held := b.heldBy c.node c.tag r.inputs }],
      posted := b.posted + 1 }
    refine ⟨_, rfl, ?_, ?_, ?_, ?_, ?_, s.onBlock_only p _⟩
    · rw [State.onBlock_block_jobs, step, shape]
      rfl
    · rw [State.onBlock_block_posted, step, shape]
      rfl
    · rw [State.onBlock_block_spad, step, shape]
      rfl
    · rw [State.onBlock_block_threads, step, shape]
      rfl
    · rw [State.onBlock_block_get, step]
      exact Block.released_fires _
  case steer =>
    intro x y kind point inputs time idle pred predControl input inputControl gate held fired
    have step : ∀ b', b.steer (s.env p) c.node c.tag r false = some b' →
        (b.withStoreHw (s.env p) .none fun b => b.reinStep (s.env p) false) = b' := fun b' steers =>
      (Block.withStoreHw_runs halted _ _).trans (Block.doRein_one only complete free found reinRuns time idle kind point
        ((Block.fire_steer found complete kind).trans steers))
    obtain ⟨m, queue, ctxs, released⟩ := Block.released_count (node := c.node) (tag := c.tag) b
    obtain ⟨spad, threads, spent, mesh, -⟩ := Block.released_kept (node := c.node) (tag := c.tag) b
    have count := Block.released_fires (node := c.node) (tag := c.tag) b
    have fires : ∀ b' : Block, (b.withStoreHw (s.env p) .none fun b => b.reinStep (s.env p) false) = b' →
        b'.get BLK_DF_FIRES.count = min BLK_DF_FIRES.count.top (b.get BLK_DF_FIRES.count + 1) → b'.spad = b.spad → b'.threads = b.threads →
        fired (s.onBlock p fun b env => b.withStoreHw env .none fun b => b.reinStep env false) := fun b' made counts spad threads =>
      ⟨rfl, by rw [State.onBlock_block_get, made, counts], by rw [State.onBlock_block_spad, made, spad],
        by rw [State.onBlock_block_threads, made, threads], s.onBlock_only p _⟩
    refine ⟨fun closed => ?discards, fun arc a passes output ha => ⟨fun may away => ?sends, fun may => ?waits⟩⟩
    case discards =>
      have made := step _ (Block.steer_discards idle gate inputs pred predControl closed)
      obtain ⟨spad', threads', spent'⟩ := Block.freeEntries_kept ((b.releaseCtx c.node c.tag).count BLK_DF_FIRES.count 1) held
      refine ⟨_, fires _ made ?_ (spad'.trans spad) (threads'.trans threads), fun z mem => ?_, ?_, ?_⟩
      · rw [Block.steered_fires, Block.freeEntries_get, count]
      · rw [State.onBlock_block_queue, made] at mem
        have apart := Block.not_mem_freeEntries mem
        refine ⟨fun same => apart ?_, fun same => apart ?_⟩
        · rw [same.1, same.2]
          exact Block.mem_heldBy pred (by omega)
        · rw [same.1, same.2]
          exact Block.mem_heldBy input (by omega)
      · rw [State.onBlock_block_get, made, Block.steered_discard, Block.freeEntries_get, b.released_get c.node c.tag (by decide)]
      · rw [State.onBlock_block_spent, made]
        exact spent'.trans spent
    case sends =>
      have made := step _ (Block.steer_passes idle gate inputs pred predControl passes input)
      rw [Block.reinGo_sends rfl (by rw [released]; exact output) (by rw [released]; exact may) inputControl (by rw [released]; exact ha)
        (by rw [released]; exact away), Block.takeCredit_eq] at made
      refine ⟨_, fires _ made ((Block.steered_fires _ _ _).trans count) spad threads, ?_, ?_, ?_, ?_⟩
      · rw [State.onBlock_block_reinJob, made]
        rfl
      · rw [State.onBlock_block_mesh, made]
        exact congrArg (fun m : MeshUnit => m.sendq ++ [_]) mesh
      · rw [State.onBlock_block_spent, made]
        have same : ((b.releaseCtx c.node c.tag).count BLK_DF_FIRES.count 1).spentOn (some arc) = b.spentOn (some arc) := by
          rw [released]
          rfl
        exact same
      · refine ⟨{ x with taken := true }, ?_, rfl, rfl, rfl⟩
        rw [State.onBlock_block_queue, made]
        exact Block.taken_releaseCtx pred
    case waits =>
      have made := step _ (Block.steer_passes idle gate inputs pred predControl passes input)
      rw [Block.reinGo_waits rfl (by rw [released]; exact output) (by rw [released]; exact may)] at made
      obtain ⟨m', ev, co, fs, waited⟩ := Block.creditWait_eq { (b.releaseCtx c.node c.tag).count BLK_DF_FIRES.count 1 with
        reinJob := some (b.steerJob c.node c.tag r y false) } (s.env p) waitRein arc
      refine ⟨_, fires _ made ?_ ((congrArg Block.spad waited).trans spad) ((congrArg Block.threads waited).trans threads), ?_, ?_, ?_, ?_⟩
      · rw [Block.creditWait_get _ _ _ _ (by decide) (by decide) (by decide) (by decide)]
        exact count
      · rw [State.onBlock_block_reinJob, made, waited]
        rfl
      · rw [State.onBlock_block_mesh, made, waited]
        exact congrArg MeshUnit.sendq mesh
      · rw [State.onBlock_block_spent, made, waited]
        exact spent
      · rw [State.onBlock_block_waits, made]
        exact Block.mem_creditWait _ _ _ _

end Sys2Proof.Machine
end

section
/-! O23: the Packhorse and the handle table. -/

namespace Sys2Proof.Machine

/-! The step of a Packhorse that leaves the memory tiers. -/

/-- A Packhorse step that leaves the tiers is a step of its block (R141). -/
theorem State.onPackhorse_eq {s : State} {p : Nat} {f : Block → Env → Outside → Block × Tiers} {x : Block}
    (made : f (s.block p) (s.env p) s.outside = (x, s.tiers)) : s.onPackhorse p f = s.onBlock p fun _ _ => x := by
  simp only [State.onPackhorse, made]
  split
  · rfl
  · rfl

/-- A step of one block leaves the memory tiers. -/
theorem State.onBlock_tiers (s : State) (p : Nat) (f : Block → Env → Block) : (s.onBlock p f).hbm = s.hbm ∧ (s.onBlock p f).ddr = s.ddr := by
  obtain ⟨_, _, _, _, _, _, same⟩ := (s.onBlock_only p f).rest
  rw [same]
  exact ⟨rfl, rfl⟩

/-! The posting of ring descriptors (R140). -/

/-- The head that advances by one posts the descriptor at the old head. -/
theorem ringSpan_next {size old : Nat} (real : 2 ≤ size) (inside : old < size) : ringSpan size (old % size) ((old + 1) % size % size) = [old] := by
  have one : ((old + 1) % size % size + size - old % size) % size = 1 := by
    rw [Nat.mod_mod, Nat.mod_eq_of_lt inside]
    by_cases last : old + 1 = size
    · rw [last, Nat.mod_self, show 0 + size - old = 1 by omega, Nat.mod_eq_of_lt real]
    · rw [Nat.mod_eq_of_lt (show old + 1 < size by omega), show old + 1 + size - old = 1 + size by omega, Nat.add_mod_right, Nat.mod_eq_of_lt real]
  rw [ringSpan, one, Nat.mod_eq_of_lt inside]
  simp [Nat.mod_eq_of_lt inside]

/-! What a descriptor moves (R141, R143). -/

/-- Bytes written run by run. -/
def Memory.putRuns (m : Memory) (ws : List (Nat × List Byte)) : Memory := ws.foldl (fun m x => m.puts x.1 x.2) m

/-- The runs of addresses hold as many bytes as there are addresses. -/
theorem joinRuns_bytes_length (m : Memory) : ∀ as : List Nat, ((joinRuns as).flatMap fun x => m.bytes x.1 x.2).length = as.length
  | [] => rfl
  | a :: as => by
    have rest := joinRuns_bytes_length m as
    rw [List.length_cons, ← rest, joinRuns]
    rcases joinRuns as with _ | ⟨⟨c, n⟩, rs⟩
    · simp [Memory.bytes_length]
    · dsimp only
      split
      · simp only [List.flatMap_cons, List.length_append, Memory.bytes_length]
        omega
      · simp only [List.flatMap_cons, List.length_append, Memory.bytes_length]
        omega

/-- The bytes of a line of a handle. -/
theorem handleRuns_bytes_length (b : Block) (m : Memory) (h o n : Nat) :
    ((b.handleRuns h o n).flatMap fun x => m.bytes x.1 x.2).length = n := by
  rw [Block.handleRuns, joinRuns_bytes_length, List.length_map, List.length_range]

/-- FILL writes a whole line. -/
theorem fillLine_length (pattern : Nat) : (fillLine pattern).length = 64 := by
  simp [fillLine]

section
variable {b : Block} (empty : b.gather = [])
include empty

/-- Runs written where nothing is gathered. -/
theorem Block.writeRuns_of_empty (ws : List (Nat × List Byte)) : b.writeRuns ws = { b with spad := b.spad.putRuns ws } := by
  induction ws generalizing b with
  | nil => rfl
  | cons w ws ih =>
    obtain ⟨a, bs⟩ := w
    rw [Block.writeRuns, Block.flushLine_of_empty empty, ih (b := { b with spad := b.spad.puts a bs }) empty]
    rfl

/-- Runs read where nothing is gathered. -/
theorem Block.readRuns_of_empty (runs : List (Nat × Nat)) : b.readRuns runs = (b, runs.flatMap fun x => b.spad.bytes x.1 x.2) := by
  rw [Block.readRuns, Block.flushLines_of_empty empty]

/-- A store through a scratch handle. -/
theorem Move.store_scratch {t : Tiers} {env : Env} {remote : Nat → Nat} {ring : Bool} {index h o : Nat} {bytes : List Byte}
    (scratch : b.get (HDL_CTL.tier h) = 0) :
    ({ b := b, t := t } : Move).store env remote ring index h o bytes =
      { b := { b with spad := b.spad.putRuns (splitRuns (b.handleRuns h o bytes.length) bytes) }, t := t } := by
  simp only [Move.store, scratch, if_true, Block.writeRuns_of_empty empty]

/-- What one line of a descriptor holds: the pattern of a FILL, or the bytes of a COPY's source (R141). -/
def Block.descBytes (b : Block) (d : Desc) : List Byte :=
  if d.op = 1 then fillLine d.pattern
  else (b.handleRuns (nbits d.src 5 0) d.srcOff 64).flatMap fun x => b.spad.bytes x.1 x.2

omit empty in
/-- A line holds 64 bytes. -/
theorem Block.descBytes_length (b : Block) (d : Desc) : (b.descBytes d).length = 64 := by
  rw [Block.descBytes]
  split
  · exact fillLine_length _
  · exact handleRuns_bytes_length _ _ _ _ _

/-- One line between scratch handles. -/
theorem Move.line_scratch {t : Tiers} {env : Env} {remote : Nat → Nat} {ring : Bool} {index : Nat} {d : Desc}
    (op : d.op = 0 ∨ d.op = 1) (dst : b.get (HDL_CTL.tier (nbits d.dst 5 0)) = 0)
    (src : d.op = 0 → b.get (HDL_CTL.tier (nbits d.src 5 0)) = 0) :
    ({ b := b, t := t } : Move).line env remote ring index d d.srcOff d.dstOff =
      { b := { b with spad := b.spad.putRuns (splitRuns (b.handleRuns (nbits d.dst 5 0) d.dstOff 64) (b.descBytes d)) }, t := t } := by
  have length := b.descBytes_length d
  rcases op with copy | fill
  · have bytes : b.descBytes d = (b.handleRuns (nbits d.src 5 0) d.srcOff 64).flatMap fun x => b.spad.bytes x.1 x.2 :=
      if_neg (by omega)
    rw [bytes] at length ⊢
    simp only [Move.line, copy, src copy, Move.fetch, Block.readRuns_of_empty empty, Move.store_scratch empty dst, length, ne_eq,
      not_true_eq_false, if_false, if_true, Nat.zero_ne_one, OfNat.zero_ne_ofNat]
  · have bytes : b.descBytes d = fillLine d.pattern := if_pos fill
    rw [bytes] at length ⊢
    simp only [Move.line, fill, Move.store_scratch empty dst, length]
    rfl

/-- One row of one line. -/
theorem Move.rows_line {t : Tiers} {env : Env} {remote : Nat → Nat} {ring : Bool} {index : Nat} {d : Desc} (bytes : d.rowBytes = 64)
    (op : d.op = 0 ∨ d.op = 1) (dst : b.get (HDL_CTL.tier (nbits d.dst 5 0)) = 0)
    (src : d.op = 0 → b.get (HDL_CTL.tier (nbits d.src 5 0)) = 0) :
    Move.rows env remote ring index d 1 { b := b, t := t } =
      ({ b := { b with spad := b.spad.putRuns (splitRuns (b.handleRuns (nbits d.dst 5 0) d.dstOff 64) (b.descBytes d)) }, t := t }, 1) := by
  have line := Move.line_scratch (t := t) (env := env) (remote := remote) (ring := ring) (index := index) empty op dst src
  simp only [Move.rows, Move.row, bytes, Nat.zero_mul, Nat.add_zero, Nat.reduceDiv, List.range_one, List.foldl_cons, List.foldl_nil, Nat.mul_zero,
    line]
  rfl

end

section
variable {b : Block} {env : Env} {o : Outside} {ring : Bool} {j : PJob} (runs : b.halted = false) (empty : b.gather = [])
  (fresh : b.jobs.find? (fun x => x.fromRing == ring && x.started && !x.stopped && x.rowsLeft != 0) = none)
  (next : b.nextJob ring = some j)
include runs empty fresh next

/-- The next descriptor starts and does its work (R140). -/
theorem Block.doDescriptor_starts : b.doDescriptor env o ring 0 =
    let r := b.runDesc env o { j with started := true }
    ((r.1.setJob r.2.2).jobsActive, r.2.1) := by
  simp only [Block.doDescriptor, runs, fresh, next, Block.flushLine_of_empty empty, Bool.false_eq_true, if_false, ite_self]
  rfl

/-- A descriptor that fails a check starts and moves nothing (R143). -/
theorem Block.doDescriptor_refused (bad : b.descStatus j.desc ≠ 0) : b.doDescriptor env o ring 0 =
    ((b.setJob { j with started := true, status := b.descStatus j.desc }).jobsActive, o.tiers) := by
  rw [Block.doDescriptor_starts runs empty fresh next]
  simp only [Block.runDesc, if_pos bad]

/-- A descriptor of one line between scratch handles moves it at once (R141). -/
theorem Block.doDescriptor_line (good : b.descStatus j.desc = 0) (move : b.isCall j.desc = false) (op : j.desc.op = 0 ∨ j.desc.op = 1)
    (rows : j.desc.rows = 1) (bytes : j.desc.rowBytes = 64) (clean : j.status = 0)
    (dst : b.get (HDL_CTL.tier (nbits j.desc.dst 5 0)) = 0) (src : j.desc.op = 0 → b.get (HDL_CTL.tier (nbits j.desc.src 5 0)) = 0) :
    b.doDescriptor env o ring 0 =
      ((Block.setJob { b with spad := b.spad.putRuns (splitRuns (b.handleRuns (nbits j.desc.dst 5 0) j.desc.dstOff 64) (b.descBytes j.desc)) }
        { j with started := true, done := 1, bytes := 64, pendingIds := [] }).jobsActive, o.tiers) := by
  rw [Block.doDescriptor_starts runs empty fresh next]
  have other : j.desc.op ≠ 2 := by omega
  simp only [Block.runDesc, good, move, rows, bytes, Move.rows_line empty bytes op dst src, if_neg other, ne_eq, not_true_eq_false, if_false,
    Bool.false_eq_true]
  rcases j with ⟨⟩
  dsimp only at clean
  subst clean
  rfl

end

section
variable {b : Block}

/-- A served ring has at least eight places. -/
theorem Block.ringSize_served (served : b.ringServed = true) : 8 ≤ b.ringSize := by
  simp only [Block.ringServed, Block.ringFits, Bool.and_eq_true, decide_eq_true_eq] at served
  obtain ⟨_, large, _⟩ := served
  exact Nat.pow_le_pow_right (n := 2) (by decide) large

/-- The head register is apart from the ring's. -/
theorem Block.set_head_ring (v : Nat) {f : Fld} (ring : f.off = PKH_RING.off) : (b.set PKH_HEAD.index v).get f = b.get f :=
  Block.get_of_word (b.word_set_ne _ _ (by rw [ring]; decide))

/-- Moving the head leaves the ring's service. -/
theorem Block.set_head_served (v : Nat) : (b.set PKH_HEAD.index v).ringServed = b.ringServed ∧
    (b.set PKH_HEAD.index v).ringFits = b.ringFits ∧ (b.set PKH_HEAD.index v).ringSize = b.ringSize := by
  have size := b.set_head_ring v (f := PKH_RING.lg_size) rfl
  have enabled := b.set_head_ring v (f := PKH_RING.enable) rfl
  simp only [Block.ringServed, Block.ringFits, Block.ringSize, size, enabled, and_self]

/-- The head of a served ring that advances by one posts the descriptor there (R140). -/
theorem Block.doHead_next {v : Word} (served : b.ringServed = true) (next : bitsOf v 7 0 = (b.get PKH_HEAD.index + 1) % b.ringSize)
    (inside : b.get PKH_HEAD.index < b.ringSize) :
    b.doHead none v = (b.set PKH_HEAD.index (bitsOf v 7 0)).postJobs [b.get PKH_HEAD.index] := by
  have large := Block.ringSize_served served
  obtain ⟨servedAfter, fitsAfter, sizeAfter⟩ := b.set_head_served (bitsOf v 7 0)
  have fits : b.ringFits = true := (Bool.and_eq_true _ _ ▸ served).2
  have head : (b.set PKH_HEAD.index (bitsOf v 7 0)).get PKH_HEAD.index = bitsOf v 7 0 :=
    (b.get_set_same (by decide) _).trans (Nat.mod_eq_of_lt (bitsOf_lt v 7 0))
  have span := ringSpan_next (by omega) inside
  simp only [Block.doHead, fitsAfter, fits, servedAfter, served, sizeAfter, head, Bool.not_true, Bool.false_eq_true, if_false, if_true]
  rw [next, span]

end

/-! What a completed descriptor leaves (R144). -/

/-- Freed entries leave the descriptors. -/
theorem Block.freeEntries_jobs (b : Block) (es : List (Nat × Nat)) : (b.freeEntries es).jobs = b.jobs := by
  obtain ⟨returned, totals, mesh, freed⟩ := Block.freeEntries_eq es b
  rw [freed]

section
variable (b : Block) (env : Env) (j : PJob)

/-- The last error after a completion leaves everything but its register (R144). -/
theorem Block.endJob_status : ∃ c : Block, (∃ m, c = { b with regs := m }) ∧ (∀ a, a ≠ PKH_STATUS.off → c.word a = b.word a) ∧
    b.endJob env j = ((Block.jobsActive { c.count PKH_BYTES.count j.bytes with
      jobs := c.jobs.filter fun x => !(x.fromRing == j.fromRing && x.index == j.index) }).freeEntries j.held).progress env := by
  by_cases good : j.status = 0
  · exact ⟨b, ⟨_, rfl⟩, fun _ _ => rfl, by rw [Block.endJob, if_pos good]; rfl⟩
  · exact ⟨b.set PKH_STATUS.last_err j.status, ⟨_, rfl⟩, fun a apart => b.word_set_ne _ _ (by exact apart), by rw [Block.endJob, if_neg good]; rfl⟩

/-- What a completion makes of the descriptors, the scratchpad and the time of progress. -/
theorem Block.endJob_kept : (b.endJob env j).jobs = b.jobs.filter (fun x => !(x.fromRing == j.fromRing && x.index == j.index)) ∧
    (b.endJob env j).spad = b.spad ∧ (b.endJob env j).progressAt = env.now := by
  obtain ⟨c, ⟨m, shape⟩, _, ended⟩ := b.endJob_status env j
  rw [ended]
  refine ⟨(Block.freeEntries_jobs _ _).trans ?_, (Block.freeEntries_kept _ _).1.trans ?_, rfl⟩
  · rw [shape]
    rfl
  · rw [shape]
    rfl

/-- A completion counts the bytes moved. -/
theorem Block.endJob_bytes : (b.endJob env j).get PKH_BYTES.count = min PKH_BYTES.count.top (b.get PKH_BYTES.count + j.bytes) := by
  obtain ⟨c, _, words, ended⟩ := b.endJob_status env j
  have before : c.get PKH_BYTES.count = b.get PKH_BYTES.count := Block.get_of_word (words _ (by decide))
  rw [ended]
  refine (Block.freeEntries_get _ _ _).trans ((Block.get_set_apart _ (by decide) (by decide) (by decide) _).trans ?_)
  rw [← before]
  exact c.get_count_same (by decide) _

/-- A completion leaves the registers but the Packhorse's status and byte count. -/
theorem Block.endJob_get {f : Fld} (status : f.off ≠ PKH_STATUS.off) (bytes : f.off ≠ PKH_BYTES.off) : (b.endJob env j).get f = b.get f := by
  obtain ⟨c, _, words, ended⟩ := b.endJob_status env j
  rw [ended]
  refine (Block.freeEntries_get _ _ _).trans ((Block.get_of_word (Block.word_set_ne _ _ _ (by exact status))).trans ?_)
  exact Block.get_of_word ((c.word_set_ne _ _ (by exact bytes)).trans (words _ status))

/-- The line of a completed descriptor, with its status and count in bytes 56 and 58 to 63 (R144). -/
def Block.completedLine : List Byte :=
  let line := b.spad.bytes (b.ringAddr j.index) 64
  line.take 56 ++ leBytes 1 j.status ++ (line.drop 57).take 1 ++ leBytes 6 j.done

/-- A completed descriptor's line is a line. -/
theorem Block.completedLine_length : (b.completedLine j).length = 64 := by
  simp [Block.completedLine, Memory.bytes_length]

variable {b}

/-- The block with a completed ring descriptor's line, the tail past it, and no thread waiting for it. -/
def Block.tailPast (b : Block) (j : PJob) : Block :=
  { Block.set { b with spad := b.spad.puts (b.ringAddr j.index) (b.completedLine j) } PKH_TAIL.index ((j.index + 1) % b.ringSize) with
    threads := b.threads.map fun (t, th) => (t, { th with posted := th.posted.filter (· != j.index) }) }

/-- Completion of a ring descriptor where nothing is gathered. -/
theorem Block.completeRing_of_empty (empty : b.gather = []) : b.completeRing env j = (b.tailPast j).endJob env j := by
  have read : b.readLines [b.ringAddr j.index] = (b, b.spad.bytes (b.ringAddr j.index) 64) :=
    (Block.readLines_of_empty empty _).trans (congrArg _ (List.append_nil _))
  have wrote : b.writeLines [(b.ringAddr j.index, b.completedLine j)] =
      { b with spad := b.spad.puts (b.ringAddr j.index) (b.completedLine j) } := by
    rw [Block.writeLines_of_empty empty, Memory.putLines, Memory.putLines, sliceZ_self (b.completedLine_length j)]
  rw [Block.completedLine] at wrote
  simp only [Block.completeRing, read, wrote]
  rfl

/-- The tail register past a descriptor. -/
theorem Block.tailPast_tail : (b.tailPast j).get PKH_TAIL.index = (j.index + 1) % b.ringSize % 256 :=
  Block.get_set_same _ (by decide) _

/-- Moving the tail leaves the byte count. -/
theorem Block.tailPast_bytes : (b.tailPast j).get PKH_BYTES.count = b.get PKH_BYTES.count :=
  Block.get_set_apart _ (by decide) (by decide) (by decide) _

variable {env j}

/-- Completion of a ring descriptor that asks for no token. -/
theorem Block.doComplete_ring {o : Outside} (runs : b.halted = false) (empty : b.gather = []) (ready : b.readyJob true = some j)
    (plain : j.desc.token = false) : b.doComplete env o true = (b.tailPast j).endJob env j := by
  simp only [Block.doComplete, runs, ready, plain, Block.completeRing_of_empty env j empty, Bool.false_eq_true, if_false, if_true, Bool.not_false]

/-- The ring's next completion is of a ring descriptor. -/
theorem Block.readyJob_ring (ready : b.readyJob true = some j) : j.fromRing = true := by
  simp only [Block.readyJob, if_true] at ready
  split at ready
  next x found =>
    split at ready
    · rw [← Option.some.inj ready]
      exact List.find?_some found
    · cases ready
  next => cases ready

end

/-! The handle table (R146). -/

/-- The base of every handle is written by its access code. -/
theorem hdlBase_coded : ∀ h : Hdl, (HDL_BASE.addr h).codedBlk .rw = true := by decide

/-- A handle's valid bit is written by its access code; its generation and its window bit are only read. -/
theorem hdlCtl_coded : ∀ h : Hdl, (HDL_CTL.valid h).codedBlk .rw = true ∧ (HDL_CTL.gen h).codedBlk .ro = true ∧
    (HDL_CTL.window h).codedBlk .ro = true := by decide

/-- The base register of a handle is the second of its entry. -/
theorem hdlBase_off (h : Nat) : HDL_BASE.off h = HDL_CTL.off h + 8 * 1 := by
  simp only [HDL_BASE.off, HDL_CTL.off]
  omega

/-- The two registers are apart. -/
theorem hdlCtl_ne_base (h : Nat) : HDL_CTL.off h ≠ HDL_BASE.off h := by
  rw [hdlBase_off]
  omega

/-- A coded field lies where it is stored, in a register of the table. -/
theorem Fld.codedBlk_place {f : Fld} {c : Acc} (coded : f.codedBlk c = true) :
    blkPlace f.off = f.off ∧ ∃ r, findRow blkRows f.off = some r := by
  simp only [Fld.codedBlk, Bool.and_eq_true, beq_iff_eq, Option.any_eq_true] at coded
  obtain ⟨place, r, row, _⟩ := coded
  exact ⟨place, r, row⟩

/-- A generation that goes on changes register words only. -/
theorem Block.bumpGen_eq (b : Block) (h : Nat) : ∃ m, b.bumpGen h = { b with regs := m } := ⟨_, rfl⟩

/-- A generation that goes on leaves the other registers. -/
theorem Block.bumpGen_word (b : Block) {h a : Nat} (other : a ≠ HDL_CTL.off h) : (b.bumpGen h).word a = b.word a :=
  b.word_set_ne (HDL_CTL.gen h) _ other

/-- A generation goes on modulo 256 (R137). -/
theorem Block.bumpGen_gen (b : Block) (h : Nat) : (b.bumpGen h).get (HDL_CTL.gen h) = (b.get (HDL_CTL.gen h) + 1) % 256 :=
  b.get_set_same (f := HDL_CTL.gen h) ⟨Nat.zero_le _, show 7 < 64 by decide⟩ _

section
variable {b : Block} {env : Env} {h which : Nat} {v : Word}

/-- A write to the handle table outside Held and Ready is a record of the steward (R146). -/
theorem Block.hdlWrite_denied (free : env.holding = false) :
    (∃ m ev co, b.hdlWrite env h which v = { b with regs := m, ev := ev, coalesced := co }) ∧
      ∀ a, a ≠ BLK_CNT.off 45 → (b.hdlWrite env h which v).word a = b.word a := by
  simp only [Block.hdlWrite, free, Bool.not_false, if_true]
  exact ⟨b.note_eq _ _, fun _ other => b.note_kept _ (Nat.succ_ne_zero 3) other⟩

/-- A write to the handle table in Held and Ready is a write by access codes; the generation of a valid entry goes on (R137, R146). -/
theorem Block.hdlWrite_holding {f : Fld} {c : Acc} (coded : f.codedBlk c = true) (place : f.off = HDL_CTL.off h + 8 * which)
    (holding : env.holding = true) : b.hdlWrite env h which v =
      if which ≠ 0 ∧ b.get (HDL_CTL.valid h) = 1 then (b.writePlain f.off v).bumpGen h else b.writePlain f.off v := by
  obtain ⟨stored, r, row⟩ := Fld.codedBlk_place coded
  simp only [Block.hdlWrite, Block.writePlain, stored, ← place, row, holding, Bool.not_true, Bool.false_eq_true, if_false]

end

section
variable (b : Block) {env : Env} (holding : env.holding = true) (h : Hdl) (v : Word)
include holding

/-- A write to a handle's control word leaves its generation and its window bit (R146). -/
theorem Block.hdlWrite_ctl : (b.hdlWrite env h 0 v).get (HDL_CTL.valid h) = bitsOf v 63 63 ∧
    (b.hdlWrite env h 0 v).get (HDL_CTL.gen h) = b.get (HDL_CTL.gen h) ∧
    (b.hdlWrite env h 0 v).get (HDL_CTL.window h) = b.get (HDL_CTL.window h) ∧
    (∃ m, b.hdlWrite env h 0 v = { b with regs := m }) ∧ ∀ a, a ≠ HDL_CTL.off h → (b.hdlWrite env h 0 v).word a = b.word a := by
  obtain ⟨valid, gen, window⟩ := hdlCtl_coded h
  have writes : b.hdlWrite env h 0 v = b.writePlain (HDL_CTL.off h) v :=
    (Block.hdlWrite_holding valid rfl holding).trans (if_neg fun other => other.1 rfl)
  rw [writes]
  exact ⟨b.get_writePlain valid v, b.get_writePlain gen v, b.get_writePlain window v, b.writePlain_eq _ v,
    fun a apart => b.writePlain_word (Fld.codedBlk_place valid).1 v apart⟩

omit holding in
/-- A write of a handle's base by its access code changes that register's word (R6, R146). -/
theorem Block.writePlain_base : (b.writePlain (HDL_BASE.off h) v).get (HDL_BASE.addr h) = bitsOf v 47 0 ∧
    (b.writePlain (HDL_BASE.off h) v).get (HDL_CTL.gen h) = b.get (HDL_CTL.gen h) ∧
    (∃ m, b.writePlain (HDL_BASE.off h) v = { b with regs := m }) ∧
    ∀ a, a ≠ HDL_BASE.off h → (b.writePlain (HDL_BASE.off h) v).word a = b.word a := by
  have coded := hdlBase_coded h
  have words (a : Nat) (apart : a ≠ HDL_BASE.off h) : (b.writePlain (HDL_BASE.off h) v).word a = b.word a :=
    b.writePlain_word (Fld.codedBlk_place coded).1 v apart
  exact ⟨b.get_writePlain coded v, Block.get_of_word (words _ (hdlCtl_ne_base h)), b.writePlain_eq _ v, words⟩

/-- A write to a handle's base in Held and Ready. -/
theorem Block.hdlWrite_base_eq : b.hdlWrite env h 1 v =
    if b.get (HDL_CTL.valid h) = 1 then (b.writePlain (HDL_BASE.off h) v).bumpGen h else b.writePlain (HDL_BASE.off h) v := by
  have writes := Block.hdlWrite_holding (b := b) (v := v) (hdlBase_coded h) (hdlBase_off h) holding
  rw [writes]
  simp only [ne_eq, Nat.one_ne_zero, not_false_eq_true, true_and]
  rfl

/-- A write to a handle's base moves the generation of a valid entry on (R137, R146). -/
theorem Block.hdlWrite_base : (b.hdlWrite env h 1 v).get (HDL_BASE.addr h) = bitsOf v 47 0 ∧
    (b.hdlWrite env h 1 v).get (HDL_CTL.gen h) =
      (if b.get (HDL_CTL.valid h) = 1 then (b.get (HDL_CTL.gen h) + 1) % 256 else b.get (HDL_CTL.gen h)) ∧
    (∃ m, b.hdlWrite env h 1 v = { b with regs := m }) ∧
    ∀ a, a ≠ HDL_BASE.off h → a ≠ HDL_CTL.off h → (b.hdlWrite env h 1 v).word a = b.word a := by
  obtain ⟨addr, gen, ⟨m, wrote⟩, words⟩ := b.writePlain_base h v
  rw [b.hdlWrite_base_eq holding h v]
  by_cases valid : b.get (HDL_CTL.valid h) = 1
  · obtain ⟨m', bumped⟩ := (b.writePlain (HDL_BASE.off h) v).bumpGen_eq h
    rw [if_pos valid, if_pos valid, Block.bumpGen_gen, gen]
    exact ⟨(Block.get_of_word (Block.bumpGen_word _ (Ne.symm (hdlCtl_ne_base h)))).trans addr, rfl,
      ⟨m', bumped.trans (congrArg (fun x : Block => { x with regs := m' }) wrote)⟩,
      fun a base ctl => (Block.bumpGen_word _ ctl).trans (words a base)⟩
  · rw [if_neg valid, if_neg valid]
    exact ⟨addr, gen, ⟨m, wrote⟩, fun a base _ => words a base⟩

end

/-- Settles O23: a head that advances posts one descriptor (`Block.doHead_next`), a descriptor is refused or moves its one line
(`Block.doDescriptor_refused`, `Block.doDescriptor_line`), a completion writes its line back and ends the job (`Block.completeRing_of_empty`,
`Block.endJob`), and a handle register is written by its access codes in Held and Ready only. -/
theorem packhorseAndHandleTable : Obligations.PackhorseAndHandleTable := by
  intro p s runs empty b
  refine ⟨?head, ?start, ?complete, ?table⟩
  case head =>
    intro v served next inside
    have posted := Block.doHead_next served next inside
    refine ⟨_, rfl, ?_, State.onBlock_becomes s p ?_ fun a apart => ?_⟩
    · rw [State.onBlock_block_get, Option.map_none, posted]
      exact (b.get_set_same (f := PKH_HEAD.index) (by decide) _).trans (Nat.mod_eq_of_lt (bitsOf_lt v 7 0))
    · exact ⟨_, b.ev, b.coalesced, posted⟩
    · rw [Option.map_none, posted]
      exact b.word_set_ne _ _ fun same => apart (List.mem_singleton.2 same)
  case start =>
    intro ring j fresh nextJob
    have starts (x : Block) (made : b.doDescriptor (s.env p) s.outside ring 0 = (x, s.tiers)) :
        exec (.descriptorStart p ring 0) s = .next (s.onBlock p fun _ _ => x) :=
      congrArg Host.Outcome.next (State.onPackhorse_eq (f := fun b env o => b.doDescriptor env o ring 0) made)
    refine ⟨?_, ?_⟩
    · intro bad
      have made := Block.doDescriptor_refused (env := s.env p) (o := s.outside) runs empty fresh nextJob bad
      obtain ⟨hbm, ddr⟩ := s.onBlock_tiers p fun _ _ => (b.setJob { j with started := true, status := b.descStatus j.desc }).jobsActive
      exact ⟨_, starts _ made, hbm, ddr, State.onBlock_block_spad .., State.onBlock_block_jobs .., fun q other => s.onBlock_block_ne _ other⟩
    · intro good move op rows rowBytes clean dst src bytes
      have made := Block.doDescriptor_line (env := s.env p) (o := s.outside) runs empty fresh nextJob good move op rows rowBytes clean dst src
      obtain ⟨hbm, ddr⟩ := s.onBlock_tiers p fun _ _ => (Block.setJob { b with
        spad := b.spad.putRuns (splitRuns (b.handleRuns (nbits j.desc.dst 5 0) j.desc.dstOff 64) (b.descBytes j.desc)) }
        { j with started := true, done := 1, bytes := 64, pendingIds := [] }).jobsActive
      exact ⟨_, starts _ made, hbm, ddr, State.onBlock_block_spad .., State.onBlock_block_jobs .., fun q other => s.onBlock_block_ne _ other⟩
  case complete =>
    intro j ready plain
    have made : (b.doComplete (s.env p) s.outside true, s.tiers) = ((b.tailPast j).endJob (s.env p) j, s.tiers) :=
      congrArg (·, s.tiers) (Block.doComplete_ring runs empty ready plain)
    obtain ⟨hbm, ddr⟩ := s.onBlock_tiers p fun _ _ => (b.tailPast j).endJob (s.env p) j
    obtain ⟨jobs, spad, time⟩ := (b.tailPast j).endJob_kept (s.env p) j
    rw [Block.readyJob_ring ready] at jobs
    refine ⟨_, congrArg Host.Outcome.next (State.onPackhorse_eq (f := fun b env o => (b.doComplete env o true, o.tiers)) made),
      (State.onBlock_block_jobs ..).trans jobs, ?_, ?_,
      (State.onBlock_block_spad ..).trans spad, (State.onBlock_block_progressAt ..).trans time, hbm, ddr, fun q other => s.onBlock_block_ne _ other⟩
    · rw [State.onBlock_block_get, Block.endJob_get _ _ _ (by decide) (by decide), Block.tailPast_tail]
    · rw [State.onBlock_block_get, Block.endJob_bytes, Block.tailPast_bytes]
  case table =>
    intro h v
    refine ⟨fun holds => ?_, fun free which => ?_⟩
    · have holding : (s.env p).holding = true := by simpa [State.env] using holds
      refine ⟨?_, ?_⟩
      · obtain ⟨addr, gen, ⟨m, shape⟩, words⟩ := b.hdlWrite_base holding h v
        refine ⟨_, rfl, (State.onBlock_block_get ..).trans addr, (State.onBlock_block_get ..).trans gen,
          State.onBlock_becomes s p ⟨m, b.ev, b.coalesced, shape⟩ fun a apart => ?_⟩
        simp only [List.mem_cons, List.not_mem_nil, or_false, not_or] at apart
        exact words a apart.1 apart.2
      · obtain ⟨valid, gen, window, ⟨m, shape⟩, words⟩ := b.hdlWrite_ctl holding h v
        exact ⟨_, rfl, (State.onBlock_block_get ..).trans valid, (State.onBlock_block_get ..).trans gen, (State.onBlock_block_get ..).trans window,
          State.onBlock_becomes s p ⟨m, b.ev, b.coalesced, shape⟩ fun a apart => words a fun same => apart (List.mem_singleton.2 same)⟩
    · have denied : (s.env p).holding = false := by simpa [State.env] using free
      obtain ⟨shape, words⟩ := Block.hdlWrite_denied (b := b) (h := h) (which := which) (v := v) denied
      exact ⟨_, rfl, State.onBlock_becomes s p shape fun a apart => words a (by simpa using apart)⟩

end Sys2Proof.Machine
end

section
/-! O24: tokens and credits that arrive. -/

namespace Sys2Proof.Machine

/-- A first item that meets the condition is the one taken. -/
theorem takeFirst_first {α : Type} {f : α → Bool} {x : α} (met : f x = true) (xs : List α) : takeFirst f (x :: xs) = some (x, xs) :=
  if_pos met

/-- What the module becomes where a step of one block makes `x` of it and touches no register. -/
theorem State.onBlock_becomes_quiet {s : State} {p : Nat} {f : Block → Env → Block} {x : Block} (made : f (s.block p) (s.env p) = x)
    (quiet : x.regs = (s.block p).regs) : s.BlockBecomes p [] x (s.onBlock p f) :=
  s.onBlock_becomes p ⟨_, _, _, made⟩ fun a _ => by rw [made, Block.word, quiet, Block.word]

/-- What a dataflow fault leaves in the register words: those of the fault, of the status and of the count of records aside, all stand. -/
theorem Block.dataflowFault_word (b : Block) (env : Env) (code node queue tag : Nat) {a : Nat}
    (apart : a ∉ [BLK_DF_FAULT.off, BLK_DF_STATUS.off, BLK_CNT.off 45]) : (b.dataflowFault env code node queue tag).word a = b.word a := by
  simp only [List.mem_cons, List.not_mem_nil, or_false, not_or] at apart
  obtain ⟨fault, status, records⟩ := apart
  unfold Block.dataflowFault
  extract_lets b1 b2 b3
  have kept : b3.word a = b2.word a := b2.note_kept _ (Nat.succ_ne_zero 2) records
  have set : b2.word a = b.word a := by
    simp only [b2, b1]
    rw [Block.word_set_ne _ _ _ (by exact status), Block.word_set_ne _ _ _ (by exact fault), Block.word_set_ne _ _ _ (by exact fault),
      Block.word_set_ne _ _ _ (by exact fault), Block.word_set_ne _ _ _ (by exact fault)]
  exact kept.trans set

/-- The queue that a dataflow fault shows (R170). -/
theorem Block.dataflowFault_queue (b : Block) (env : Env) (code node : Nat) {queue : Nat} (small : queue < 256) (tag : Nat) :
    (b.dataflowFault env code node queue tag).get BLK_DF_FAULT.queue = queue := by
  unfold Block.dataflowFault
  extract_lets b1 b2 b3
  have shown : b1.get BLK_DF_FAULT.queue = queue := by
    rw [Block.get_set_apart _ (by decide) (by decide) (by decide), Block.get_set_same _ (by decide)]
    exact Nat.mod_eq_of_lt small
  rw [Block.get_jobFault, Block.note_get _ _ _ _ (by decide) (by decide), Block.get_set_apart _ (by decide) (by decide) (by decide), shown]

/-! A token and its queue (R148 to R151). -/

/-- What makes a token for a queue id of arc queues break a rule of fault 0x41 (R151, R170). -/
theorem Block.tokenBad_iff (b : Block) {q : Nat} (inside : q < 240) (tag lines : Nat) (isData : Bool) :
    b.tokenBad q tag lines isData = true ↔ b.qKind q ≠ 1 ∨ b.qCtl q = isData ∨ (isData = true ∧ b.qLines q < lines) ∨
      ∃ x ∈ b.queue, x.taken = false ∧ x.tag = tag ∧ b.qKind x.q = 1 ∧ b.qNode x.q = b.qNode q ∧ b.qInput x.q = b.qInput q := by
  simp [Block.tokenBad, Nat.not_le.2 inside, and_assoc, or_assoc]

/-- The lines of a packet's token: a control token has none. -/
def Pkt.tokenLines (k : Pkt) : Nat := if k.isData then ceilDiv k.payload.length 64 else 0

/-- A packet's token as entry `e` of its arc queue (R149). -/
def Block.tokenEntry (b : Block) (k : Pkt) (e : Nat) (matched : Bool) : QEntry :=
  ⟨k.qid, e, k.tag, k.isData, k.tokenLines, k.src, if k.isData then [] else sliceZ k.payload 0 8, b.inboundArc k.qid k.srcidx, matched, false⟩

/-- The scratchpad with the lines of a packet's token in entry `e` of its arc queue (R148). -/
def Block.tokenSpad (b : Block) (k : Pkt) (e : Nat) : Memory :=
  if k.isData then b.spad.putLines (lineWrites (b.entryAddrs k.qid e k.tokenLines) k.payload) else b.spad

/-- The context that a packet's token joins, by its node and tag (R150). -/
def Block.tokenMine (b : Block) (k : Pkt) (c : Ctx) : Bool := c.node == b.qNode k.qid && c.tag == k.tag

/-- Block `b` with a packet's token in entry `e`, and the contexts as they are then. -/
def Block.tokenIn (b : Block) (k : Pkt) (e : Nat) (matched : Bool) (ctxs : List Ctx) : Block :=
  { b with spad := b.tokenSpad k e, queue := b.queue ++ [b.tokenEntry k e matched], ctxs := ctxs }

/-- The context that a packet's token takes at a free place (R150, R160). -/
def Block.tokenCtx (b : Block) (k : Pkt) (n : NodeRec) (reserved : Bool) (i : Nat) : Ctx :=
  ⟨i, b.qNode k.qid, k.tag, 2 ^ b.qInput k.qid, n.kind == 3, reserved⟩

/-- The entering of the token of a packet. -/
def Block.enterPkt (b : Block) (env : Env) (k : Pkt) : Option Block :=
  b.enterToken env k.qid k.tag k.isData k.src (b.inboundArc k.qid k.srcidx) k.payload

section
variable {b : Block} {env : Env} {k : Pkt} {e : Nat}

/-- A token that breaks a rule (R151, R170). -/
theorem Block.enterPkt_bad (bad : b.tokenBad k.qid k.tag k.tokenLines k.isData = true) (inside : k.qid < 240) :
    b.enterPkt env k = some (b.dataflowFault env 0x41 (b.qNode k.qid) k.qid k.tag) :=
  (if_pos bad).trans (by rw [if_pos inside])

/-- A token that finds no free entry waits where it is. -/
theorem Block.enterPkt_full (good : b.tokenBad k.qid k.tag k.tokenLines k.isData = false) (full : b.freeEntryOf k.qid = none) :
    b.enterPkt env k = none := by
  refine (if_neg (Bool.eq_false_iff.1 good)).trans ?_
  rw [full]

/-- A token that finds a free entry takes it, its lines are written, and it is matched or waits unmatched, and counts (R148, R150). -/
theorem Block.enterPkt_free (empty : b.gather = []) (good : b.tokenBad k.qid k.tag k.tokenLines k.isData = false)
    (free : b.freeEntryOf k.qid = some e) :
    b.enterPkt env k = some (((b.tokenIn k e false b.ctxs).matchToken k.qid k.tag).getD
      ((b.tokenIn k e false b.ctxs).count BLK_DF_UNMATCHED.count 1)) := by
  have written : (if k.isData then b.writeLines (lineWrites (b.entryAddrs k.qid e k.tokenLines) k.payload) else b) =
      { b with spad := b.tokenSpad k e } := by
    unfold Block.tokenSpad
    cases k.isData with
    | true => exact Block.writeLines_of_empty empty _
    | false => rfl
  refine (if_neg (Bool.eq_false_iff.1 good)).trans ?_
  rw [free]
  dsimp only
  rw [show (if k.isData then ceilDiv k.payload.length 64 else 0) = k.tokenLines from rfl, written]
  change (match (b.tokenIn k e false b.ctxs).matchToken k.qid k.tag with | some c => some c | none => _) = _
  cases (b.tokenIn k e false b.ctxs).matchToken k.qid k.tag <;> rfl

/-! The match (R150). -/

/-- Matching marks the one token of a queue and a tag that waits. -/
theorem mark_waiting {xs : List QEntry} {x : QEntry} (alone : ∀ y ∈ xs, y.taken = false → y.q = x.q → y.tag ≠ x.tag)
    (waits : x.taken = false) :
    ((xs ++ [x]).map fun y => if y.q == x.q && y.tag == x.tag && !y.taken then { y with matched := true } else y) =
      xs ++ [{ x with matched := true }] := by
  have others : ∀ y ∈ xs, (if y.q == x.q && y.tag == x.tag && !y.taken then { y with matched := true } else y) = y := by
    intro y mem
    refine if_neg fun same => ?_
    simp only [Bool.and_eq_true, beq_iff_eq, Bool.not_eq_true'] at same
    obtain ⟨⟨queue, tag⟩, free⟩ := same
    exact alone y mem free queue tag
  rw [List.map_append, List.map_congr_left others, List.map_id', List.map_singleton, waits]
  simp

section
variable (good : b.tokenBad k.qid k.tag k.tokenLines k.isData = false)
include good

/-- A token that breaks no rule is the one of its queue and tag that waits. -/
theorem Block.mark_token (inside : k.qid < 240) (ctxs : List Ctx) :
    ({ b.tokenIn k e false ctxs with queue := (b.tokenIn k e false ctxs).queue.map fun x =>
      if x.q == k.qid && x.tag == k.tag && !x.taken then { x with matched := true } else x } : Block) = b.tokenIn k e true ctxs := by
  have rules := mt (b.tokenBad_iff inside k.tag k.tokenLines k.isData).2 (Bool.eq_false_iff.1 good)
  simp only [not_or, not_not] at rules
  obtain ⟨kind, -, -, alone⟩ := rules
  have marked := mark_waiting (xs := b.queue) (x := b.tokenEntry k e false) (waits := rfl)
    fun y mem free queue tag => alone ⟨y, mem, free, tag, by rw [queue]; exact kind, by rw [queue]; rfl, by rw [queue]; rfl⟩
  exact congrArg (fun queue => { b.tokenIn k e true ctxs with queue := queue }) marked

/-- The context of its node and tag holds the token's input too (R150). -/
theorem Block.matchToken_joins (inside : k.qid < 240) (joins : b.ctxs.any (b.tokenMine k) = true) :
    (b.tokenIn k e false b.ctxs).matchToken k.qid k.tag = some (b.tokenIn k e true
      (b.ctxs.map fun c => if b.tokenMine k c then { c with inputs := c.inputs ||| 2 ^ b.qInput k.qid } else c)) :=
  (if_pos joins).trans (congrArg some (b.mark_token good inside _))

/-- With no context of its node and tag, the token takes a free one (R150). -/
theorem Block.matchToken_takes (inside : k.qid < 240) (joins : b.ctxs.any (b.tokenMine k) = false) {n : NodeRec} {reserved : Bool} {i : Nat}
    (node : b.node? (b.qNode k.qid) = some n) (free : b.freeCtx (b.qNode k.qid) n = some (reserved, i)) :
    (b.tokenIn k e false b.ctxs).matchToken k.qid k.tag = some (b.tokenIn k e true (b.ctxs ++ [b.tokenCtx k n reserved i])) := by
  refine (if_neg (Bool.eq_false_iff.1 joins)).trans ?_
  have node' : (b.tokenIn k e false b.ctxs).node? ((b.tokenIn k e false b.ctxs).qNode k.qid) = some n := node
  have free' : (b.tokenIn k e false b.ctxs).freeCtx ((b.tokenIn k e false b.ctxs).qNode k.qid) n = some (reserved, i) := free
  rw [node']
  dsimp only
  rw [free']
  exact congrArg some (b.mark_token good inside (b.ctxs ++ [b.tokenCtx k n reserved i]))

end

/-- With no context of its node and tag and none free, the token waits unmatched (R150). -/
theorem Block.matchToken_none (joins : b.ctxs.any (b.tokenMine k) = false)
    (full : ∀ n, b.node? (b.qNode k.qid) = some n → b.freeCtx (b.qNode k.qid) n = none) :
    (b.tokenIn k e false b.ctxs).matchToken k.qid k.tag = none := by
  refine (if_neg (Bool.eq_false_iff.1 joins)).trans ?_
  cases node : b.node? (b.qNode k.qid) with
  | none =>
    have node' : (b.tokenIn k e false b.ctxs).node? ((b.tokenIn k e false b.ctxs).qNode k.qid) = none := node
    rw [node']
  | some n =>
    have node' : (b.tokenIn k e false b.ctxs).node? ((b.tokenIn k e false b.ctxs).qNode k.qid) = some n := node
    have full' : (b.tokenIn k e false b.ctxs).freeCtx ((b.tokenIn k e false b.ctxs).qNode k.qid) n = none := full n node
    rw [node']
    dsimp only
    rw [full']
    rfl

end

section
variable {b : Block} {env : Env} {k : Pkt} {rest : List Pkt} (first : b.mesh.inbox = k :: rest)
include first

/-- A token at the head of the inbox leaves it once it has entered its queue (R148). -/
theorem Block.doTokenArrive_first (kind : k.kind = kTOKEN) (inside : k.qid < 240) :
    b.doTokenArrive env = ((b.enterPkt env k).map fun c => c.took rest).getD b := by
  have taken := takeFirst_first (f := fun k : Pkt => k.kind == kTOKEN && decide (k.qid < 240)) (x := k) (by simp [kind, inside]) rest
  simp only [Block.doTokenArrive, first, taken]
  change (match b.enterPkt env k with | some c => c.took rest | none => b) = _
  cases b.enterPkt env k <;> rfl

/-- A credit return at the head of the inbox is taken, with the echo that it may carry (R194, R201). -/
theorem Block.doCredit_first (kind : k.kind = kCREDIT) :
    b.doCredit env = if nbit (leAt k.payload 2 1) 1 then ((b.took rest).takeTotal k).echo env else (b.took rest).takeTotal k := by
  have taken := takeFirst_first (f := fun k : Pkt => k.kind == kCREDIT) (x := k) (by simp [kind]) rest
  simp only [Block.doCredit, first, taken]
  rfl

end

/-! Credits (R162, R194). -/

/-- Where the totals of a credit return are kept: at its arc, or at the member of its multicast arc that it comes from. -/
def Block.creditKey (b : Block) (k : Pkt) : Nat :=
  match b.arcs[leAt k.payload 0 2]? with
  | some a => returnKey a (leAt k.payload 0 2) k.srcidx
  | none => leAt k.payload 0 2

/-- A credit return of an arc with one consumer is kept at the arc. -/
theorem Block.creditKey_single {b : Block} {k : Pkt} {a : ArcRec} (arc : b.arcs[leAt k.payload 0 2]? = some a) (single : a.mcast = false) :
    b.creditKey k = leAt k.payload 0 2 := by
  unfold Block.creditKey
  rw [arc]
  exact if_neg (Bool.eq_false_iff.1 single)

/-- The total that a credit return carries, on top of the totals before its consumer's last restart. -/
def Block.creditTotal (b : Block) (k : Pkt) : Nat := (mget natZero b.bases (b.creditKey k) + k.seq) % 65536

/-- A credit return sets the total of its arc only. -/
theorem Block.takeTotal_eq (b : Block) (k : Pkt) :
    b.takeTotal k = { b with returned := mset natZero b.returned (b.creditKey k) (b.creditTotal k) } := rfl

/-- The credits held on an arc with one consumer (R162). -/
theorem Block.creditsHeld_single {b : Block} {i : Nat} {a : ArcRec} (arc : b.arcs[i]? = some a) (single : a.mcast = false) :
    b.creditsHeld i = a.share - (mget natZero b.spent i + 65536 - mget natZero b.returned i) % 65536 := by
  simp only [Block.creditsHeld, arc, single, returnKey, Bool.false_eq_true, if_false]

/-- The credits held after a credit return, on an arc with one consumer (R162, R194). -/
theorem Block.creditsHeld_takeTotal {b : Block} {k : Pkt} {a : ArcRec} (arc : b.arcs[leAt k.payload 0 2]? = some a) (single : a.mcast = false) :
    (b.takeTotal k).creditsHeld (leAt k.payload 0 2) =
      a.share - (mget natZero b.spent (leAt k.payload 0 2) + 65536 - b.creditTotal k) % 65536 := by
  have kept : (b.takeTotal k).arcs[leAt k.payload 0 2]? = some a := arc
  have total : mget natZero (b.takeTotal k).returned (leAt k.payload 0 2) = b.creditTotal k := by
    rw [Block.takeTotal_eq, Block.creditKey_single arc single]
    exact mget_mset_same ..
  rw [Block.creditsHeld_single kept single, total]
  rfl

/-- Settles O24: a token by the rules it breaks, the entry it takes and its match; a credit return by the total that it sets and its echo. -/
theorem tokensAndCreditsArrive : Obligations.TokensAndCreditsArrive := by
  intro p k rest s first empty b m lines bad
  refine ⟨fun runs kind inside => ?token, fun kind => ?credit⟩
  case token =>
    have step : (b.withStoreHw (s.env p) .none fun b => b.doTokenArrive (s.env p)) = ((b.enterPkt (s.env p) k).map fun c => c.took rest).getD b :=
      (Block.withStoreHw_runs runs _ _).trans (Block.doTokenArrive_first first kind inside)
    have rules : b.tokenBad k.qid k.tag k.tokenLines k.isData = true ↔ bad := b.tokenBad_iff inside _ _ _
    refine ⟨fun broken => ?faults, fun unbroken full => ?waits, fun e unbroken free => ?enters⟩
    case faults =>
      rw [Block.enterPkt_bad (rules.2 broken) inside, Option.map_some, Option.getD_some] at step
      obtain ⟨w, ev, co, shape, code, state⟩ := b.dataflowFault_eq (s.env p) (code := 0x41) (by decide) (b.qNode k.qid) k.qid k.tag
      refine ⟨_, rfl, ?_, ?_, ?_, s.onBlock_becomes p ⟨w, ev, co, ?_⟩ fun a apart => ?_⟩
      · rw [State.onBlock_block_get, step]
        exact code
      · rw [State.onBlock_block_get, step]
        exact b.dataflowFault_queue _ _ _ (by omega) _
      · rw [State.onBlock_block_get, step]
        exact state
      · rw [step, shape]
        rfl
      · rw [step]
        exact b.dataflowFault_word _ _ _ _ _ apart
    case waits =>
      have good := Bool.eq_false_iff.2 (mt rules.1 unbroken)
      rw [Block.enterPkt_full good full, Option.map_none, Option.getD_none] at step
      exact ⟨_, rfl, State.onBlock_becomes_quiet step rfl⟩
    case enters =>
      intro spad entry mine
      have good := Bool.eq_false_iff.2 (mt rules.1 unbroken)
      rw [Block.enterPkt_free empty good free, Option.map_some, Option.getD_some] at step
      refine ⟨fun joins => ⟨_, rfl, ?_⟩, fun n reserved i joins node room => ⟨_, rfl, ?_⟩, fun joins full => ⟨_, rfl, ?_, ?_⟩⟩
      · rw [Block.matchToken_joins good inside joins] at step
        exact State.onBlock_becomes_quiet step rfl
      · rw [Block.matchToken_takes good inside joins node room] at step
        exact State.onBlock_becomes_quiet step rfl
      · rw [Block.matchToken_none joins full, Option.getD_none] at step
        rw [State.onBlock_block_get, step]
        exact Block.get_count_same (b.tokenIn k e false b.ctxs) (by decide) 1
      · rw [Block.matchToken_none joins full, Option.getD_none] at step
        refine s.onBlock_becomes p ⟨_, _, _, step⟩ fun a apart => ?_
        rw [step]
        exact Block.word_set_ne (b.tokenIn k e false b.ctxs) _ _ fun same => apart (List.mem_singleton.2 same)
  case credit =>
    intro i key total
    have step := Block.doCredit_first (env := s.env p) first kind
    refine ⟨fun silent => ?_, fun echoes => ?_⟩
    · rw [if_neg (Bool.eq_false_iff.1 silent)] at step
      refine ⟨_, rfl, State.onBlock_becomes_quiet step rfl, fun a arc single => ?_⟩
      obtain ⟨ev, co, same⟩ := s.onBlock_block_same p fun b env => b.doCredit env
      rw [same, step]
      exact Block.creditsHeld_takeTotal (b := b.took rest) arc single
    · rw [if_pos echoes] at step
      obtain ⟨⟨w, shape⟩, count, halved, -, -⟩ := ((b.took rest).takeTotal k).echo_spec (s.env p)
      refine ⟨_, rfl, ?_, ?_, ?_, ?_, ?_, s.onBlock_only p _⟩
      · rw [State.onBlock_block_returned, step, shape]
        rfl
      · rw [State.onBlock_block_mesh, step, shape]
        rfl
      · rw [State.onBlock_block_get, step]
        exact count
      · rw [State.onBlock_block_get, step]
        exact halved
      · rw [State.onBlock_block_spent, step, shape]
        rfl

end Sys2Proof.Machine
end

section
/-! O47: scans. -/

namespace Sys2Proof.Machine

/-! Numbers in byte strings (R9). -/

/-- A number in little-endian bytes reads back, modulo the bytes' number. -/
theorem leNat_leBytes : ∀ n v : Nat, leNat (leBytes n v) = v % 256 ^ n
  | 0, v => (Nat.mod_one v).symm
  | n + 1, v => by
    rw [leBytes, leNat, leNat_leBytes n, BitVec.toNat_ofNat, (Nat.pow_succ' : 256 ^ (n + 1) = 256 * 256 ^ n), Nat.mod_mul]

/-- A number behind other bytes reads back. -/
theorem leAt_leBytes (xs ys : List Byte) (n v : Nat) : leAt (xs ++ (leBytes n v ++ ys)) xs.length n = v % 256 ^ n := by
  rw [leAt, sliceZ_append_right, sliceZ_append_left _ (by simp), sliceZ_self (leBytes_length n v), leNat_leBytes]

/-- The header of a scan image begins with its magic number and holds the image's length at byte 24 (R172). -/
theorem Block.scanImage_header (b : Block) (p reason image : Nat) : ∃ fields rest, fields.length = 20 ∧
    b.scanImage p reason image = leBytes 4 0x4E414353 ++ (fields ++ (leBytes 8 (b.scanImage p reason image).length ++ rest)) := by
  unfold Block.scanImage
  extract_lets body head crc
  have length : (head ++ leBytes 8 crc.toNat ++ body).length = 64 + body.length := by
    simp only [head, List.length_append, leBytes_length, List.length_replicate]
  rw [length]
  refine ⟨leBytes 2 1 ++ leBytes 2 8 ++ leBytes 8 b.stride.toNat ++ leBytes 2 b.lblock ++ leBytes 2 p ++ leBytes 1 (b2n b.extended) ++
    leBytes 1 reason ++ leBytes 2 0, leBytes 8 image ++ List.replicate 16 0 ++ leBytes 8 crc.toNat ++ body, ?_, ?_⟩
  · simp only [List.length_append, leBytes_length]
  · simp only [head, List.append_assoc]

/-- The magic number and the length that a scan image shows (R172). -/
theorem Block.scanImage_shows (b : Block) (p reason image : Nat) :
    leAt (b.scanImage p reason image) 0 4 = 0x4E414353 ∧
      leAt (b.scanImage p reason image) 24 8 = (b.scanImage p reason image).length % 2 ^ 64 := by
  obtain ⟨fields, rest, size, header⟩ := b.scanImage_header p reason image
  generalize b.scanImage p reason image = img at header
  have place : (leBytes 4 0x4E414353 ++ fields).length = 24 := by rw [List.length_append, size, leBytes_length]
  have magic := leAt_leBytes [] (fields ++ (leBytes 8 img.length ++ rest)) 4 0x4E414353
  have length := leAt_leBytes (leBytes 4 0x4E414353 ++ fields) rest 8 img.length
  rw [place, List.append_assoc, ← header] at length
  rw [List.nil_append, ← header] at magic
  exact ⟨magic, length⟩

/-! Which scan may start (R171). -/

/-- Whether a block may be scanned by whoever asks: by its steward always; by the Rider driver once it is fenced or in quarantine, or in Held. -/
def State.ScanAllowed (s : State) (p : Nat) (st : Bool) : Prop :=
  st = true ∨ (s.block p).fenced = true ∨ (s.rmtOf p).state = 3 ∨ s.dev = dHeld

section
variable {s : State} {p : Nat} {st : Bool}

/-- A scan that finds another one busy. -/
theorem State.scanMay_busy (busy : (s.block p).scan ≠ none) : s.scanMay p st = 1 := if_pos (Option.isSome_iff_ne_none.2 busy)

/-- What keeps a scan out, as the model asks it. -/
theorem State.scanAllowed_iff :
    s.ScanAllowed p st ↔ (!st && !((s.block p).fenced || (s.rmtOf p).state == 3 || s.dev == dHeld)) = false := by
  rw [State.ScanAllowed, Bool.and_eq_false_iff, Bool.not_eq_false', Bool.not_eq_false']
  simp only [Bool.or_eq_true, beq_iff_eq, or_assoc]

/-- A scan of a block that has not stopped, or that only its steward may scan. -/
theorem State.scanMay_refused (free : (s.block p).scan = none) (no : s.stopped p = false ∨ ¬ s.ScanAllowed p st) : s.scanMay p st = 4 := by
  refine (if_neg (by simp [free])).trans (if_pos ?_)
  rcases no with moves | closed
  · rw [moves]
    rfl
  · rw [eq_true_of_ne_false (mt State.scanAllowed_iff.2 closed), Bool.or_true]

/-- A scan that may start. -/
theorem State.scanMay_starts (free : (s.block p).scan = none) (still : s.stopped p = true) (may : s.ScanAllowed p st) : s.scanMay p st = 0 := by
  refine (if_neg (by simp [free])).trans (if_neg ?_)
  rw [still, State.scanAllowed_iff.1 may]
  exact Bool.false_ne_true

/-- A refused scan out ends at once. -/
theorem State.scanOut_refused {r : Nat} (no : s.scanMay p st = r + 1) : s.scanOut p st = s.scanEnd p (r + 1) 0 := by
  unfold State.scanOut
  rw [no]
  rfl

/-- A refused scan in ends at once. -/
theorem State.scanIn_refused {r : Nat} (no : s.scanMay p st = r + 1) : s.scanIn p st = s.scanEnd p (r + 1) 0 := by
  unfold State.scanIn
  rw [no]
  rfl

end

/-! What the scan registers show (R171, R176). -/

/-- From `s` to `t` a scan of block `p` has ended at once with result `r`, and shows no length. -/
def State.ScanEnds (s : State) (p r : Nat) (t : State) : Prop :=
  (t.block p).get BLK_SCAN_STATUS.result = r ∧ (t.block p).get BLK_SCAN_STATUS.length = 0 ∧
    (t.block p).get BLK_SCAN_STATUS.busy = (s.block p).get BLK_SCAN_STATUS.busy ∧ s.BlockBecomes p [BLK_SCAN_STATUS.off] (s.block p) t

/-- A scan that ends at once shows its result and changes no more (R171). -/
theorem State.scanEnd_ends (s : State) (p : Nat) {r : Nat} (small : r < 16) : s.ScanEnds p r (s.scanEnd p r 0) := by
  have here : (s.scanEnd p r 0).block p = ((s.block p).set BLK_SCAN_STATUS.result r).set BLK_SCAN_STATUS.length 0 := s.block_setBlock_same p _
  refine ⟨?_, ?_, ?_, s.setBlock_only p _, ⟨_, _, _, here⟩, fun a apart => ?_⟩
  · rw [here, Block.get_set_apart _ (by decide) (by decide) (by decide), Block.get_set_same _ (by decide)]
    exact Nat.mod_eq_of_lt small
  · rw [here, Block.get_set_same _ (by decide), Nat.zero_mod]
  · rw [here, Block.get_set_apart _ (by decide) (by decide) (by decide), Block.get_set_apart _ (by decide) (by decide) (by decide)]
  · have other : a ≠ BLK_SCAN_STATUS.off := fun same => apart (List.mem_singleton.2 same)
    rw [here, Block.word_set_ne _ _ _ (by exact other), Block.word_set_ne _ _ _ (by exact other)]

/-- From `s` to `t` a scan of block `p` has started, which will end with result `r` and length `n`; no other block has changed. -/
def State.Scanning (s : State) (p r n : Nat) (t : State) : Prop :=
  (t.block p).scan = some (r, n) ∧ (t.block p).get BLK_SCAN_STATUS.busy = 1 ∧ (t.block p).get BLK_DF_STATUS.state = 4 ∧
    ∀ q, q ≠ p → t.block q = s.block q

/-- The block while a scan goes on, which will end with result `r` and length `n` (R176). -/
def Block.scanOn (b : Block) (r n : Nat) : Block := { (b.set BLK_SCAN_STATUS.busy 1).set BLK_DF_STATUS.state 4 with scan := some (r, n) }

/-- The block of a scan that starts. -/
theorem State.scanStart_block (u : State) (p r n : Nat) : (u.scanStart p r n).block p = (u.block p).scanOn r n := u.block_setBlock_same p _

/-- A scan that starts shows that it is busy, and the block has stopped for it (R171, R176). -/
theorem State.scanStart_scanning {s u : State} {p : Nat} (others : ∀ q, q ≠ p → u.block q = s.block q) (r n : Nat) :
    s.Scanning p r n (u.scanStart p r n) := by
  refine ⟨congrArg Block.scan (u.scanStart_block p r n), ?_, ?_, fun q other => (u.block_setBlock_ne _ other).trans (others q other)⟩
  · rw [u.scanStart_block]
    exact (Block.get_set_apart _ (by decide) (by decide) (by decide) 4).trans ((u.block p).get_set_same (f := BLK_SCAN_STATUS.busy) (by decide) 1)
  · rw [u.scanStart_block]
    exact Block.get_set_same _ (f := BLK_DF_STATUS.state) (by decide) 4

/-- What the module becomes when a scan starts and no more. -/
theorem State.scanStart_becomes (s : State) (p r n : Nat) :
    s.BlockBecomes p [BLK_SCAN_STATUS.off, BLK_DF_STATUS.off] { s.block p with scan := some (r, n) } (s.scanStart p r n) := by
  refine ⟨s.setBlock_only p _, ⟨_, _, _, s.scanStart_block p r n⟩, fun a apart => ?_⟩
  simp only [List.mem_cons, List.not_mem_nil, or_false, not_or] at apart
  obtain ⟨scan, status⟩ := apart
  rw [s.scanStart_block]
  exact (Block.word_set_ne _ _ _ status).trans (Block.word_set_ne _ _ _ scan)

/-! Scan out (R172). -/

/-- Lines written to HBM4 leave the DDR5 tier alone. -/
theorem Tiers.putLines_hbm_ddr (t : Tiers) (a : Nat) (bytes : List Byte) : (t.putLines 1 a bytes).ddr = t.ddr := by
  refine foldl_same Tiers.ddr (fun _ _ => ?_) _ t
  rfl

/-- The scan image that a scan out of block `p` writes. -/
def State.imageOut (s : State) (p : Nat) : List Byte :=
  (s.block p).scanImage p ((s.block p).get BLK_SCAN_CTL.reason) (s.get CHP_IMG_SEQ.sequence)

section
variable {s : State} {p : Nat} {st : Bool} (may : s.scanMay p st = 0)
include may

/-- A scan out to an address outside HBM4 writes nothing (R171). -/
theorem State.scanOut_outside (outside : hbmOk ((s.block p).get BLK_SCAN_ADDR.addr) = false) : s.scanOut p st = s.scanStart p 2 0 := by
  unfold State.scanOut
  rw [may]
  exact if_neg (by simp [outside])

/-- A scan out writes the image and shows its length (R172). -/
theorem State.scanOut_writes (first : hbmOk ((s.block p).get BLK_SCAN_ADDR.addr) = true)
    (last : hbmOk ((s.block p).get BLK_SCAN_ADDR.addr + (s.imageOut p).length) = true) :
    s.scanOut p st = (s.setTiers (s.tiers.putLines 1 ((s.block p).get BLK_SCAN_ADDR.addr / 64 * 64) (padTo 64 (s.imageOut p)))).scanStart p 0
      (s.imageOut p).length := by
  unfold State.scanOut
  rw [may]
  exact if_pos (by rw [first, Bool.true_and]; exact last)

/-- A scan out that writes its image starts the scan, and changes HBM4 by the image alone (R172, R176). -/
theorem State.scanOut_scanning (first : hbmOk ((s.block p).get BLK_SCAN_ADDR.addr) = true)
    (last : hbmOk ((s.block p).get BLK_SCAN_ADDR.addr + (s.imageOut p).length) = true) :
    s.Scanning p 0 (s.imageOut p).length (s.scanOut p st) ∧ (s.scanOut p st).ddr = s.ddr ∧
      (s.scanOut p st).hbm = (s.tiers.putLines 1 ((s.block p).get BLK_SCAN_ADDR.addr / 64 * 64) (padTo 64 (s.imageOut p))).hbm := by
  rw [State.scanOut_writes may first last]
  have ddr := s.tiers.putLines_hbm_ddr ((s.block p).get BLK_SCAN_ADDR.addr / 64 * 64) (padTo 64 (s.imageOut p))
  generalize s.tiers.putLines 1 ((s.block p).get BLK_SCAN_ADDR.addr / 64 * 64) (padTo 64 (s.imageOut p)) = tiers at ddr
  obtain ⟨ports, out, put⟩ := s.setTiers_sends tiers
  rw [put]
  exact ⟨State.scanStart_scanning (fun _ _ => rfl) _ _, ddr, rfl⟩

end

/-! Scan in (R175). -/

/-- Where a scan in of block `p` reads its image. -/
def State.addrIn (s : State) (p : Nat) : Nat := (s.block p).get BLK_SCAN_ADDR.addr / 64 * 64

/-- The length that the image's header gives. -/
def State.lengthIn (s : State) (p : Nat) : Nat := leAt (s.tiers.bytesAt 1 (s.addrIn p) 64) 24 8

/-- The image that a scan in of block `p` reads, its header alone where the rest would leave HBM4. -/
def State.imageIn (s : State) (p : Nat) : List Byte :=
  s.tiers.bytesAt 1 (s.addrIn p) (if hbmOk (s.addrIn p + s.lengthIn p) then s.lengthIn p else 64)

/-- What the check of that image finds. -/
def State.resultIn (s : State) (p : Nat) : Nat := (s.block p).scanCheck (s.imageIn p) (s.get CHP_IMG_SEQ.sequence)

/-- An image without the magic number fails its form. -/
theorem Block.scanCheck_magic (b : Block) {img : List Byte} (bad : leAt img 0 4 ≠ 0x4E414353) (image : Nat) : b.scanCheck img image = 2 :=
  if_pos (.inl bad)

section
variable {s : State} {p : Nat} {st : Bool} (may : s.scanMay p st = 0) (inside : hbmOk (s.addrIn p) = true)
include may inside

/-- A scan in applies an image that passes its check, and starts the scan. -/
theorem State.scanIn_starts : s.scanIn p st =
    (if s.resultIn p = 0 then s.setBlock p ((s.block p).scanApply s.lblockAt (s.imageIn p)) else s).scanStart p (s.resultIn p)
      (min (s.lengthIn p) 0xFFFFFFFF) := by
  have checked : (if hbmOk (s.addrIn p) then (s.block p).scanCheck (s.imageIn p) (s.get CHP_IMG_SEQ.sequence) else 2) = s.resultIn p :=
    if_pos inside
  rw [← checked]
  unfold State.scanIn
  rw [may]
  rfl

/-- An image that fails its check changes nothing (R175). -/
theorem State.scanIn_fails (fails : s.resultIn p ≠ 0) : s.scanIn p st = s.scanStart p (s.resultIn p) (min (s.lengthIn p) 0xFFFFFFFF) := by
  rw [State.scanIn_starts may inside, if_neg fails]

/-- An image that passes its check is applied to the block (R175). -/
theorem State.scanIn_passes (passes : s.resultIn p = 0) : s.scanIn p st =
    (s.setBlock p ((s.block p).scanApply s.lblockAt (s.imageIn p))).scanStart p 0 (min (s.lengthIn p) 0xFFFFFFFF) := by
  rw [State.scanIn_starts may inside, passes, if_pos rfl]

end

section
variable {α β : Type} [DecidableEq β] (d : Nat → β) (g : α → β)

/-- Values put at the places from `n` on leave the earlier places as they read. -/
theorem mget_foldl_zipIdx_before (xs : List α) {n k : Nat} (before : k < n) (m : Cells β) :
    mget d ((xs.zipIdx n).foldl (fun m x => mset d m x.2 (g x.1)) m) k = mget d m k := by
  induction xs generalizing n m with
  | nil => rfl
  | cons x xs ih =>
    rw [List.zipIdx_cons, List.foldl_cons, ih (Nat.lt_succ_of_lt before), mget_mset_ne _ _ _ (Nat.ne_of_lt before)]

/-- Each of the values put at the places from `n` on reads at its own place. -/
theorem mget_foldl_zipIdx (xs : List α) {n i : Nat} {x : α} (at_ : xs[i]? = some x) (m : Cells β) :
    mget d ((xs.zipIdx n).foldl (fun m x => mset d m x.2 (g x.1)) m) (n + i) = g x := by
  induction xs generalizing n i m with
  | nil => simp at at_
  | cons y ys ih =>
    rw [List.zipIdx_cons, List.foldl_cons]
    cases i with
    | zero =>
      obtain rfl : y = x := by simpa using at_
      exact (mget_foldl_zipIdx_before d g ys (Nat.lt_succ_self n) _).trans (mget_mset_same ..)
    | succ i =>
      rw [← Nat.add_assoc, Nat.add_right_comm]
      exact ih (by simpa using at_) _

end

/-- What an applied image makes of a block: the scratchpad stands, the queue store is the image's, and each thread is its record's (R175). -/
theorem Block.scanApply_sets (b : Block) (lOf : Nat → Nat) (img : List Byte) :
    (b.scanApply lOf img).spad = b.spad ∧ (b.scanApply lOf img).queue.length = (scanPart img 3).length ∧
      ∀ i rec, (scanPart img 6)[i]? = some rec → (b.scanApply lOf img).thread i = threadOf rec := by
  refine ⟨rfl, List.length_map _, fun i rec at_ => ?_⟩
  have set := mget_foldl_zipIdx threadIdle threadOf (scanPart img 6) (n := 0) at_ []
  rw [Nat.zero_add] at set
  exact set

/-- What is left of the block by the start of a scan: its scratchpad, its queue store and its threads. -/
theorem Block.scanOn_keeps (b : Block) (r n : Nat) :
    (b.scanOn r n).spad = b.spad ∧ (b.scanOn r n).queue = b.queue ∧ ∀ i, (b.scanOn r n).thread i = b.thread i := ⟨rfl, rfl, fun _ => rfl⟩

/-- A scan in of an image that passes its check starts the scan, and sets the block as the image says (R175). -/
theorem State.scanIn_sets {s : State} {p : Nat} {st : Bool} (may : s.scanMay p st = 0) (inside : hbmOk (s.addrIn p) = true)
    (passes : s.resultIn p = 0) :
    s.Scanning p 0 (min (s.lengthIn p) 0xFFFFFFFF) (s.scanIn p st) ∧ (s.scanIn p st).hbm = s.hbm ∧
      ((s.scanIn p st).block p).spad = (s.block p).spad ∧ ((s.scanIn p st).block p).queue.length = (scanPart (s.imageIn p) 3).length ∧
      ∀ i rec, (scanPart (s.imageIn p) 6)[i]? = some rec → ((s.scanIn p st).block p).thread i = threadOf rec := by
  obtain ⟨spad, queue, threads⟩ := (s.block p).scanApply_sets s.lblockAt (s.imageIn p)
  rw [State.scanIn_passes may inside passes]
  generalize (s.block p).scanApply s.lblockAt (s.imageIn p) = x at spad queue threads
  generalize min (s.lengthIn p) 0xFFFFFFFF = n
  obtain ⟨spadOn, queueOn, threadsOn⟩ := x.scanOn_keeps 0 n
  rw [State.scanStart_block, State.block_setBlock_same]
  exact ⟨State.scanStart_scanning (fun _ other => s.block_setBlock_ne x other) 0 n, rfl, spadOn.trans spad,
    (congrArg List.length queueOn).trans queue, fun i rec at_ => (threadsOn i).trans (threads i rec at_)⟩

/-! The end of a scan (R171). -/

/-- The state that the firing scheduler shows once a scan is over (R176). -/
def Block.stateAfterScan (b : Block) : Nat := if b.fenced || b.jobFault.isSome then 5 else b2n b.working

/-- A block that has stopped for good, or that works on a stride or not. -/
theorem Block.stateAfterScan_eq (b : Block) : b.stateAfterScan = if b.fenced = true ∨ b.jobFault ≠ none then 5 else b2n b.working := by
  simp only [Block.stateAfterScan, Bool.or_eq_true, Option.isSome_iff_ne_none]

/-- That state fits its field. -/
theorem Block.stateAfterScan_fits (b : Block) : b.stateAfterScan % 2 ^ BLK_DF_STATUS.state.width = b.stateAfterScan := by
  unfold Block.stateAfterScan
  split
  · rfl
  · cases b.working <;> rfl

/-- The block whose scan ends with result `r` and length `n` (R171, R176). -/
def Block.scanOver (b : Block) (r n : Nat) : Block :=
  { (((b.set BLK_SCAN_STATUS.busy 0).set BLK_SCAN_STATUS.result r).set BLK_SCAN_STATUS.length n).set BLK_DF_STATUS.state b.stateAfterScan with
    scan := none }

/-- The end of a scan shows its result and its length, and the block goes on. -/
theorem State.scanDone_over {s : State} {p r n : Nat} (on : (s.block p).scan = some (r, n)) :
    s.scanDone p = s.setBlock p ((s.block p).scanOver r n) := by
  simp only [State.scanDone, on]
  rfl

/-- What the registers show once a scan is over. -/
theorem Block.scanOver_shows (b : Block) (r n : Nat) :
    (b.scanOver r n).get BLK_SCAN_STATUS.busy = 0 ∧ (b.scanOver r n).get BLK_SCAN_STATUS.result = r % 16 ∧
      (b.scanOver r n).get BLK_SCAN_STATUS.length = n % 2 ^ 32 ∧ (b.scanOver r n).get BLK_DF_STATUS.state = b.stateAfterScan := by
  have shown (f : Fld) : (b.scanOver r n).get f = ((((b.set BLK_SCAN_STATUS.busy 0).set BLK_SCAN_STATUS.result r).set BLK_SCAN_STATUS.length n).set
    BLK_DF_STATUS.state b.stateAfterScan).get f := rfl
  refine ⟨?_, ?_, ?_, ?_⟩
  · rw [shown, Block.get_set_apart _ (by decide) (by decide) (by decide), Block.get_set_apart _ (by decide) (by decide) (by decide),
      Block.get_set_apart _ (by decide) (by decide) (by decide), Block.get_set_same _ (by decide), Nat.zero_mod]
  · rw [shown, Block.get_set_apart _ (by decide) (by decide) (by decide), Block.get_set_apart _ (by decide) (by decide) (by decide),
      Block.get_set_same _ (by decide)]
    rfl
  · rw [shown, Block.get_set_apart _ (by decide) (by decide) (by decide), Block.get_set_same _ (by decide)]
    rfl
  · rw [shown, Block.get_set_same _ (by decide), b.stateAfterScan_fits]

/-- The registers apart from those that the end of a scan changes. -/
theorem Block.scanOver_word (b : Block) (r n : Nat) {a : Nat} (apart : a ∉ [BLK_SCAN_STATUS.off, BLK_DF_STATUS.off]) :
    (b.scanOver r n).word a = b.word a := by
  simp only [List.mem_cons, List.not_mem_nil, or_false, not_or] at apart
  obtain ⟨scan, status⟩ := apart
  exact (Block.word_set_ne _ _ _ status).trans ((Block.word_set_ne _ _ _ scan).trans
    ((Block.word_set_ne _ _ _ scan).trans (Block.word_set_ne _ _ _ scan)))

/-- Settles O47: a scan by whether it may start, the image that it writes or checks and applies, and its end. -/
theorem scans : Obligations.Scans := by
  intro p st s b ends allowed busy
  refine ⟨fun held => ?busy, fun free no => ?refused, fun free still may => ⟨?out, ?in_⟩, fun r n on => ?ended⟩
  case busy =>
    have taken : s.scanMay p st = 0 + 1 := State.scanMay_busy held
    have one := s.scanEnd_ends p (r := 1) (by decide)
    exact ⟨⟨_, rfl, (State.scanOut_refused taken).symm ▸ one⟩, ⟨_, rfl, (State.scanIn_refused taken).symm ▸ one⟩⟩
  case refused =>
    have refused : s.scanMay p st = 3 + 1 := State.scanMay_refused free no
    have four := s.scanEnd_ends p (r := 4) (by decide)
    exact ⟨⟨_, rfl, (State.scanOut_refused refused).symm ▸ four⟩, ⟨_, rfl, (State.scanIn_refused refused).symm ▸ four⟩⟩
  case out =>
    have starts := State.scanMay_starts free still may
    intro img a
    refine ⟨fun first last => ?_, fun outside => ⟨_, rfl, ?_⟩⟩
    · obtain ⟨magic, length⟩ := b.scanImage_shows p (b.get BLK_SCAN_CTL.reason) (s.get CHP_IMG_SEQ.sequence)
      obtain ⟨scanning, ddr, hbm⟩ := State.scanOut_scanning starts first last
      exact ⟨magic, length, _, rfl, scanning, ddr, hbm⟩
    · rw [State.scanOut_outside starts outside]
      exact ⟨State.scanStart_scanning (fun _ _ => rfl) 2 0, rfl⟩
  case in_ =>
    have starts := State.scanMay_starts free still may
    intro a len img r
    refine ⟨fun bad => b.scanCheck_magic bad _, fun inside fails => ⟨_, rfl, ?_⟩, fun inside passes => ⟨_, rfl, ?_⟩⟩
    · rw [State.scanIn_fails starts inside fails]
      exact ⟨State.scanStart_scanning (fun _ _ => rfl) _ _, rfl, s.scanStart_becomes p _ _⟩
    · exact State.scanIn_sets starts inside passes
  case ended =>
    obtain ⟨idle, result, length, state⟩ := b.scanOver_shows r n
    have here : (s.setBlock p (b.scanOver r n)).block p = b.scanOver r n := s.block_setBlock_same p _
    refine ⟨_, rfl, ?_⟩
    rw [State.scanDone_over on]
    refine ⟨?_, ?_, ?_, ?_, s.setBlock_only p _, ⟨_, _, _, here⟩, fun a apart => ?_⟩
    · rw [here, idle]
    · rw [here, result]
    · rw [here, length]
    · rw [here, state, b.stateAfterScan_eq]
    · rw [here, b.scanOver_word r n apart]

end Sys2Proof.Machine
end

section
/-! O34: epoch flips. -/

namespace Sys2Proof.Machine

/-- A field set in every region changes the regions alone. -/
theorem State.allRegions_eq (s : State) (f : Fld) (v : Nat) : ∃ rg, s.allRegions f v = { s with regions := rg } :=
  List.foldlRecOn (motive := fun t => ∃ rg, t = { s with regions := rg }) _ _ ⟨_, rfl⟩ fun _ ⟨_, e⟩ _ _ => ⟨_, by rw [e]; rfl⟩

/-- The other epoch's tables replace the old ones, and nothing else changes (R195). -/
theorem State.copyTables_eq (s : State) :
    s.copyTables = { s with
      routes := (s.movedTables s.epoch (1 - s.epoch) s.moves).1, groups := (s.movedTables s.epoch (1 - s.epoch) s.moves).2.1 } := rfl

/-- The lease of a remount of routes that conflicts with nothing is held at once (R357, R359). -/
theorem State.force_free {s : State} (free : s.leaseFree 6 0 = true) :
    s.force 6 0 = s.setLeases { held := s.leases.held ++ [{ code := 6, res := 0, since := s.now }], waiting := s.leases.waiting } := by
  have apart : ∀ x ∈ s.leases.held, leaseConflict 6 0 x.code x.res = false := fun x hx => by
    simp only [State.leaseFree, Lease.clashes, Bool.not_eq_true', List.any_eq_false, Bool.not_eq_true] at free
    exact free x (List.mem_append_left _ hx)
  have noneOut : (s.leases.held.filter fun x => leaseConflict 6 0 x.code x.res && x.code != 6 && !s.retries x) = [] :=
    List.filter_eq_nil_iff.mpr fun x hx => by simp [apart x hx]
  have allStay : (s.leases.held.filter fun x => !([] : List Lease).contains x && !(x.code == 6 && x.res == 0)) = s.leases.held :=
    List.filter_eq_self.mpr fun x hx => by
      have conflict := apart x hx
      by_cases six : x.code = 6
      · rw [six] at conflict
        exact absurd conflict (by simp [leaseConflict, leaseRule, leaseTable])
      · simp [six]
  unfold State.force
  simp only [noneOut, List.foldl_nil, List.filter_nil, List.nil_append, allStay]

/-- The leases with the flip lease held from now on. -/
def State.withFlipLease (s : State) : Leases := { s.leases with held := s.leases.held ++ [{ code := 6, res := 0, since := s.now }] }

/-- The state once region `r` has taken the flip lease and the flip is pending everywhere (R195). -/
def State.flipTaken (s : State) (r : Nat) : State :=
  ((s.setLeases s.withFlipLease).rset r RGN_EPOCH.lease 1).allRegions RGN_EPOCH.pending 1

/-- A flip that no lease, no undrained packet and no other flip withholds starts (R195). -/
theorem State.flipStart_starts {s : State} {r : Nat} (form : s.tablesForm = true) (idle : s.rget r RGN_EPOCH.pending ≠ 1)
    (untaken : ∀ q < 16, s.rget q RGN_EPOCH.lease ≠ 1) (empty : s.drain = 0) (drained : s.rget r RGN_EPOCH.drained ≠ 0)
    (between : s.cad.flipBeat = false) (free : s.leaseFree 6 0 = true) :
    s.flipStart r = (s.flipTaken r).copyTables := by
  unfold State.flipStart
  rw [if_neg (by simp [form]), if_neg idle, if_neg (by simpa [between, empty, drained] using untaken), if_neg (by simp [free]),
    State.force_free free]
  rfl

/-- A flip waits while a region holds the lease (R199). -/
theorem State.flipStart_waits {s : State} {r : Nat} (form : s.tablesForm = true) (idle : s.rget r RGN_EPOCH.pending ≠ 1)
    (taken : ∃ q < 16, s.rget q RGN_EPOCH.lease = 1) (new : s.cad.flipWaits.contains r = false) :
    s.flipStart r = { s with cad := { s.cad with flipWaits := s.cad.flipWaits ++ [r] } } := by
  have held : ((List.range 16).any fun q => s.rget q RGN_EPOCH.lease == 1) = true := by simpa using taken
  unfold State.flipStart
  rw [if_neg (by simp [form]), if_neg idle, if_pos (.inr (.inl held)), if_neg (by rw [new]; decide)]

/-- The words of the chip steward when leases change (R363). -/
theorem State.setLeases_word (s : State) (l : Leases) {a : Nat} (held : a ≠ LSE_HELD.off) (waiting : a ≠ LSE_WAITING.off) :
    mget chipReset (s.setLeases l).regs a = mget chipReset s.regs a :=
  (Regs.word_set_ne chipReset _ LSE_WAITING.codes _ waiting).trans (Regs.word_set_ne chipReset _ LSE_HELD.codes _ held)

/-- Taking the flip lease changes leases, register words and regions alone. -/
theorem State.flipTaken_eq (s : State) (r : Nat) : ∃ m rg,
    s.flipTaken r = { s with regs := m, regions := rg, leases := s.withFlipLease } ∧
    ∀ a, a ≠ LSE_HELD.off → a ≠ LSE_WAITING.off → mget chipReset m a = mget chipReset s.regs a := by
  obtain ⟨rg, e⟩ := State.allRegions_eq
    ((s.setLeases s.withFlipLease).rset r RGN_EPOCH.lease 1)
    RGN_EPOCH.pending 1
  exact ⟨(s.setLeases s.withFlipLease).regs, rg, e, fun _ => s.setLeases_word s.withFlipLease⟩

/-- What the regions show once the flip lease is taken. -/
theorem State.flipTaken_shows (s : State) {r : Nat} :
    (s.flipTaken r).rget r RGN_EPOCH.lease = 1 ∧ (∀ q < 16, (s.flipTaken r).rget q RGN_EPOCH.pending = 1) ∧
      ∀ q, (s.flipTaken r).rget q RGN_EPOCH.epoch = s.rget q RGN_EPOCH.epoch := by
  unfold State.flipTaken
  refine ⟨?_, fun q hq => State.rget_allRegions_same _ hq (by decide) 1, fun q => ?_⟩
  · rw [State.rget_allRegions_apart _ _ (by decide) (by decide) (by decide), State.rget_rset_same _ _ (by decide)]
    rfl
  · rw [State.rget_allRegions_apart _ _ (by decide) (by decide) (by decide), State.rget_rset_apart _ _ _ (by decide) (by decide) (by decide)]
    rfl

/-- Tables with moved blocks depend on blocks, remounts and tables alone. -/
theorem State.movedTables_congr {s t : State} (blocks : t.blocks = s.blocks) (rmt : t.rmt = s.rmt) (routes : t.routes = s.routes)
    (groups : t.groups = s.groups) (e o : Nat) : t.movedTables e o t.moves = s.movedTables e o s.moves := by
  unfold State.movedTables State.moves State.failedRouters State.groupMask State.group
  rw [blocks, rmt, routes, groups]

/-- Three values of which the last is known. -/
theorem triple_eta_of_last {α β γ : Type} {x : α × β × γ} {c : γ} (h : x.2.2 = c) : (x.1, x.2.1, c) = x := by rw [← h]

/-- The copy of the tables leaves the regions alone. -/
theorem State.copyTables_regions (s : State) : s.copyTables.regions = s.regions := rfl

/-- What the start of a flip leaves in the module: the lease, the pending flip and the other epoch's tables (R195). -/
theorem State.flipTaken_leaves {s : State} (r : Nat) (form : s.tablesForm = true) :
    let t := (s.flipTaken r).copyTables
    t.rget r RGN_EPOCH.lease = 1 ∧ (∀ q < 16, t.rget q RGN_EPOCH.pending = 1) ∧
      (∀ q < 16, t.rget q RGN_EPOCH.epoch = s.rget q RGN_EPOCH.epoch) ∧
      t.leases.held = s.leases.held ++ [{ code := 6, res := 0, since := s.now }] ∧ t.leases.waiting = s.leases.waiting ∧
      (t.routes, t.groups, true) = s.movedTables s.epoch (1 - s.epoch) s.moves ∧
      (∀ a, a ≠ LSE_HELD.off → a ≠ LSE_WAITING.off → mget chipReset t.regs a = mget chipReset s.regs a) ∧
      t.blocks = s.blocks ∧ t.rmt = s.rmt ∧ t.cad = s.cad ∧ t.hbm = s.hbm ∧ t.ddr = s.ddr ∧ t.endpoints = s.endpoints := by
  obtain ⟨lease, pending, epoch⟩ := s.flipTaken_shows (r := r)
  have same : (s.flipTaken r).epoch = s.epoch := epoch 0
  obtain ⟨m, rg, e, words⟩ := s.flipTaken_eq r
  have kept : (s.flipTaken r).cad = s.cad ∧ (s.flipTaken r).hbm = s.hbm ∧ (s.flipTaken r).ddr = s.ddr ∧
      (s.flipTaken r).endpoints = s.endpoints := by rw [e]; exact ⟨rfl, rfl, rfl, rfl⟩
  have tables : (s.flipTaken r).blocks = s.blocks ∧ (s.flipTaken r).rmt = s.rmt ∧ (s.flipTaken r).routes = s.routes ∧
      (s.flipTaken r).groups = s.groups := by rw [e]; exact ⟨rfl, rfl, rfl, rfl⟩
  have leases : (s.flipTaken r).leases.held = s.withFlipLease.held ∧ (s.flipTaken r).leases.waiting = s.leases.waiting := by
    rw [e]
    exact ⟨rfl, rfl⟩
  have regs : ∀ a, a ≠ LSE_HELD.off → a ≠ LSE_WAITING.off → mget chipReset (s.flipTaken r).regs a = mget chipReset s.regs a := by
    rw [e]
    exact words
  obtain ⟨blocks, rmt, routes, groups⟩ := tables
  rw [State.copyTables_eq, same, State.movedTables_congr blocks rmt routes groups]
  have rgets (q : Nat) (f : Fld) := State.rget_of_regions (State.copyTables_regions (s.flipTaken r)) q f
  rw [State.copyTables_eq, same, State.movedTables_congr blocks rmt routes groups] at rgets
  refine ⟨(rgets ..).trans lease, fun q hq => (rgets ..).trans (pending q hq), fun q _ => (rgets ..).trans (epoch q), leases.1, leases.2,
    triple_eta_of_last form, regs, blocks, rmt, kept⟩

/-- The block of a router that passes every epoch once the flip has drained, where it failed before it (R197). -/
def Block.drainedFor (b : Block) (e : Nat) : Block :=
  if b.get MSH_CTL.mode = 2 ∧ b.router.failEpoch ≠ e then b.onRouter fun r => { r with failEpoch := 2 } else b

/-- What the end of a flip leaves of a block: its packets, its registers and its router but for the epoch of its failure. -/
theorem Block.drainedFor_keeps (b : Block) (e : Nat) :
    (b.drainedFor e).mesh = b.mesh ∧ (b.drainedFor e).regs = b.regs ∧
      (b.drainedFor e).router = { b.router with
        failEpoch := if b.get MSH_CTL.mode = 2 ∧ b.router.failEpoch ≠ e then 2 else b.router.failEpoch } := by
  unfold Block.drainedFor
  split <;> exact ⟨rfl, rfl, rfl⟩

/-- A function on every entry of a sparse table reads as the function, where it leaves the default alone. -/
theorem mget_map {α : Type} {d : Nat → α} {f : α → α} (h : ∀ k, f (d k) = d k) (m : Cells α) (k : Nat) :
    mget d (m.map fun (a, v) => (a, f v)) k = f (mget d m k) := by
  induction m with
  | nil => exact (h k).symm
  | cons x m ih =>
    obtain ⟨a, v⟩ := x
    rw [List.map_cons, mget, mget]
    split
    · rfl
    · exact ih

/-- The state once every router in straight bypass that failed before the flip passes every epoch (R197). -/
def State.passAll (s : State) : State := { s with blocks := s.blocks.map fun (p, b) => (p, b.drainedFor s.epoch) }

/-- What the end of a flip leaves of the blocks. -/
theorem State.block_passAll (s : State) (q : Nat) : s.passAll.block q = (s.block q).drainedFor s.epoch :=
  mget_map (d := blockInit) (f := (·.drainedFor s.epoch)) (fun _ => by unfold Block.drainedFor; split <;> rfl) s.blocks q

/-- A flip that has drained (R195 step 6). -/
theorem State.flipDrained_eq {s : State} (empty : s.drain = 0) (flipped : s.rget 0 RGN_EPOCH.pending = 0)
    (between : s.cad.flipBeat = false) :
    s.flipDrained = (s.passAll.allRegions RGN_EPOCH.drained 1).allRegions RGN_EPOCH.lease 0 := by
  unfold State.flipDrained
  rw [if_pos ⟨empty, flipped, by simp [between]⟩]
  rfl

/-- What the regions show once a flip has drained, and what else it changes. -/
theorem State.flipDrained_leaves {s : State} (empty : s.drain = 0) (flipped : s.rget 0 RGN_EPOCH.pending = 0)
    (between : s.cad.flipBeat = false) :
    (∀ q < 16, s.flipDrained.rget q RGN_EPOCH.drained = 1 ∧ s.flipDrained.rget q RGN_EPOCH.lease = 0) ∧
      (∀ q, s.flipDrained.rget q RGN_EPOCH.epoch = s.rget q RGN_EPOCH.epoch) ∧
      ∃ rg, s.flipDrained = { s.passAll with regions := rg } := by
  rw [State.flipDrained_eq empty flipped between]
  refine ⟨fun q hq => ⟨?_, State.rget_allRegions_same _ hq (by decide) 0⟩, fun q => ?_, ?_⟩
  · rw [State.rget_allRegions_apart _ _ (by decide) (by decide) (by decide)]
    exact State.rget_allRegions_same _ hq (by decide) 1
  · rw [State.rget_allRegions_apart _ _ (by decide) (by decide) (by decide), State.rget_allRegions_apart _ _ (by decide) (by decide) (by decide)]
    rfl
  · obtain ⟨rg1, e1⟩ := s.passAll.allRegions_eq RGN_EPOCH.drained 1
    obtain ⟨rg2, e2⟩ := (s.passAll.allRegions RGN_EPOCH.drained 1).allRegions_eq RGN_EPOCH.lease 0
    exact ⟨rg2, by rw [e2, e1]⟩

/-- The leases once a flip is done: the flip's own and the remounts' have ended (R195 step 6, R344 step 6). -/
def State.flipDoneLeases (s : State) : Leases := { s.leases with held := s.leases.held.filter fun l => l.code != 2 && l.code != 6 }

/-- No flip waits for the lease (R199). -/
theorem State.flipNext_of_nil {s : State} (h : s.cad.flipWaits = []) (l : Leases) : (s.setLeases l).flipNext = s.setLeases l := by
  have none : (s.setLeases l).cad.flipWaits = [] := h
  rw [State.flipNext, none]

/-- The end of a flip releases the leases that stood for it, where no region waits for the next (R195 step 6, R199). -/
theorem State.flipOver_ends {s : State} (empty : s.drain = 0) (flipped : s.rget 0 RGN_EPOCH.pending = 0)
    (between : s.cad.flipBeat = false) (undrained : s.rget 0 RGN_EPOCH.drained = 0) (alone : s.cad.flipWaits = []) :
    s.flipOver = s.flipDrained.setLeases s.flipDoneLeases := by
  obtain ⟨drained, -, rg, e⟩ := State.flipDrained_leaves empty flipped between
  have leases : s.flipDrained.leases = s.leases := by rw [e]; rfl
  have waits : s.flipDrained.cad.flipWaits = [] := by rw [e]; exact alone
  unfold State.flipOver
  rw [if_pos ⟨undrained, (drained 0 (by decide)).1⟩, leases]
  exact State.flipNext_of_nil waits _

/-- What withholds the flip beat (R195, R351). -/
theorem State.flipHeld_iff {s : State} :
    (s.rget 0 RGN_EPOCH.pending = 0 ∨ (s.rcv.active && s.blocks.any fun x => x.2.owes) = true ∨
      (!s.screen.plans.isEmpty && !s.rcv.active) = true) ↔
    (s.rget 0 RGN_EPOCH.pending = 0 ∨ (s.rcv.active = true ∧ s.blocks.any (fun x => x.2.owes) = true) ∨
      (s.screen.plans ≠ [] ∧ s.rcv.active = false)) := by
  simp only [Bool.and_eq_true, Bool.not_eq_true', List.isEmpty_eq_false_iff]

/-- Settles O34: the start of a flip by what withholds it and what it leaves, its request by what withholds the beat, its end by what it
releases, and its timeout by the one record. -/
theorem epochFlips : Obligations.EpochFlips := by
  intro s
  refine ⟨fun r form idle => ⟨fun taken new => ?waits, fun untaken empty drained between free => ?starts⟩, ?request,
    fun empty flipped between undrained alone => ?ends, fun r leased first undrained full late => ?timeout⟩
  case waits =>
    exact exec_eq rfl ((if_pos form).trans (State.flipStart_waits form idle taken new))
  case starts =>
    exact ⟨_, exec_eq rfl ((if_pos form).trans (State.flipStart_starts form idle untaken empty drained between free)),
      State.flipTaken_leaves r form⟩
  case request =>
    refine ⟨fun held => exec_eq rfl (if_pos ?_), fun free => exec_eq rfl (if_neg ?_)⟩
    · simpa only [State.flipHeld_iff] using held
    · simpa only [State.flipHeld_iff] using free
  case ends =>
    obtain ⟨shown, epoch, rg, e⟩ := State.flipDrained_leaves empty flipped between
    have kept : s.flipDrained.blocks = s.passAll.blocks ∧ s.flipDrained.cad = s.cad ∧ s.flipDrained.hbm = s.hbm ∧
        s.flipDrained.ddr = s.ddr := by rw [e]; exact ⟨rfl, rfl, rfl, rfl⟩
    obtain ⟨blocks, kept⟩ := kept
    have rgets (q : Nat) (f : Fld) : (s.flipDrained.setLeases s.flipDoneLeases).rget q f = s.flipDrained.rget q f :=
      State.rget_of_regions rfl q f
    refine ⟨_, exec_eq rfl (State.flipOver_ends empty flipped between undrained alone),
      fun q hq => ⟨(rgets ..).trans (shown q hq).1, (rgets ..).trans (shown q hq).2⟩, fun q _ => (rgets ..).trans (epoch q), rfl, rfl,
      fun q => ?_, kept⟩
    have block : (s.flipDrained.setLeases s.flipDoneLeases).block q = (s.block q).drainedFor s.epoch :=
      (congrArg (mget blockInit · q) blocks).trans (s.block_passAll q)
    rw [block]
    exact (s.block q).drainedFor_keeps s.epoch
  case timeout =>
    have leader : ((List.range 16).find? fun r => s.rget r RGN_EPOCH.lease == 1) = some r.val := by
      rw [List.find?_range_eq_some]
      simp only [beq_iff_eq, leased, List.mem_range, r.isLt, true_and]
      exact fun q lower => by rw [first q lower]; decide
    have sends : s.flipDrainTimeout = s.raiseRegion r { code := 0xB3, detail := s.drain } := by
      unfold State.flipDrainTimeout
      simp only [leader]
      exact if_pos ⟨undrained, full, late⟩
    obtain ⟨e, he⟩ : ∃ e : Ev, e = s.regionFill r (s.stamp { code := 0xB3, detail := s.drain, level := 1, place := r.val }) := ⟨_, rfl⟩
    refine ⟨e, exec_eq rfl (sends.trans ?_), ?_⟩
    · unfold State.raiseRegion
      rw [← he]
      exact s.chipRecord_uncorrected (by simp [he, State.regionFill, State.stamp])
    · rw [he]
      exact ⟨rfl, rfl, rfl, rfl⟩

end Sys2Proof.Machine
end

section
/-! SUPPORT. Faults of a router and the records that they leave (R208, R209), and the neighbours of a router (R177). -/

namespace Sys2Proof.Machine

/-- A neighbour is another router, through one of the four links (R177). -/
theorem neighbour_spec {p d q : Nat} (h : neighbour p d = some q) : d < 4 ∧ q ≠ p := by
  unfold neighbour at h
  split at h
  case h_5 => exact absurd h nofun
  all_goals
    obtain ⟨inside, place⟩ := Option.ite_none_right_eq_some.mp h
    have place := Option.some.inj place
    exact ⟨by decide, by omega⟩

/-- A fault changes the fault register alone. -/
theorem Block.meshFault_word (b : Block) (code port : Nat) (k : Pkt) {a : Nat} (apart : a ≠ MSH_FAULT.off) :
    (b.meshFault code port k).word a = b.word a := by
  unfold Block.meshFault
  iterate 6 rw [Block.word_set_ne _ _ _ (by exact apart)]

/-- The fault register names the code (R209). -/
theorem Block.meshFault_code (b : Block) {code : Nat} (port : Nat) (k : Pkt) (small : code < 256) :
    (b.meshFault code port k).get MSH_FAULT.code = code := by
  unfold Block.meshFault
  iterate 5 rw [Block.get_set_apart _ (by decide) (by decide) (by decide)]
  rw [Block.get_set_same _ (by decide)]
  exact Nat.mod_eq_of_lt small

/-- Block `b` with a fault that is not of a corrected error in its register, and counted with the records (R208, R209, R412). -/
def Block.faulted (b : Block) (code port : Nat) (k : Pkt) : Block := (b.meshFault code port k).cnt 45 1

/-- A fault that is not of a corrected error sends a record up. -/
theorem Block.meshEvent_lasting (b : Block) (env : Env) (code port : Nat) {outcome : Nat} (k : Pkt) (lasting : outcome ≠ 0) :
    ∃ ev, b.meshEvent env code port outcome k = { b.faulted code port k with ev := ev } := by
  unfold Block.meshEvent Block.note
  extract_lets e
  rw [if_neg (by simp [e, Ev.corrected, lasting])]
  exact ⟨_, rfl⟩

/-- A fault that is not of a corrected error changes its register and the count of records. -/
theorem Block.faulted_word (b : Block) (code port : Nat) (k : Pkt) {a : Nat} (apart : a ∉ [MSH_FAULT.off, BLK_CNT.off 45]) :
    (b.faulted code port k).word a = b.word a := by
  simp only [List.mem_cons, List.not_mem_nil, or_false, not_or] at apart
  exact (Block.word_set_ne _ _ _ apart.2).trans (b.meshFault_word code port k apart.1)

/-- The fault register names the code (R209). -/
theorem Block.faulted_code (b : Block) {code : Nat} (port : Nat) (k : Pkt) (small : code < 256) :
    (b.faulted code port k).get MSH_FAULT.code = code :=
  (Block.get_of_word (Block.word_set_ne _ _ _ (by decide))).trans (b.meshFault_code port k small)

/-- A fault that is not of a corrected error, in a block that has changed. -/
theorem State.BlockIs.faulted {s t : State} {p : Nat} {b : Block} (h : s.BlockIs p b t) (code port : Nat) {outcome : Nat} (k : Pkt)
    (lasting : outcome ≠ 0) :
    s.BlockIs p (b.faulted code port k) (t.onBlock p fun b env => b.meshEvent env code port outcome k) :=
  h.onBlock fun ev co => by
    obtain ⟨ev', e⟩ := Block.meshEvent_lasting { b with ev := ev, coalesced := co } (t.env p) code port k lasting
    exact ⟨ev', co, e⟩

/-- A fault changes no more than its register and the records. -/
theorem Block.meshEvent_eq (b : Block) (env : Env) (code port outcome : Nat) (k : Pkt) :
    ∃ m ev co, b.meshEvent env code port outcome k = { b with regs := m, ev := ev, coalesced := co } := by
  obtain ⟨m, ev, co, e⟩ := (b.meshFault code port k).note_eq env { cell := 12, code := code, op := port, tag := k.tag, outcome := outcome }
  exact ⟨m, ev, co, e⟩

/-- The registers apart from the fault's own and the counts of records. -/
theorem Block.meshEvent_word (b : Block) (env : Env) (code port outcome : Nat) (k : Pkt) {a : Nat}
    (apart : a ∉ [MSH_FAULT.off, BLK_CNT.off 45, BLK_CNT.off 46]) : (b.meshEvent env code port outcome k).word a = b.word a := by
  simp only [List.mem_cons, List.not_mem_nil, or_false, not_or] at apart
  exact (Block.note_word _ _ _ apart.2.1 apart.2.2).trans (b.meshFault_word code port k apart.1)

/-- The fault register names the code (R209). -/
theorem Block.meshEvent_code (b : Block) (env : Env) {code : Nat} (port outcome : Nat) (k : Pkt) (small : code < 256) :
    (b.meshEvent env code port outcome k).get MSH_FAULT.code = code :=
  (Block.note_get _ _ _ _ (by decide) (by decide)).trans (b.meshFault_code port k small)

/-- A change of one block leaves the registers of every region alone. -/
theorem State.OnlyBlock.rget {s t : State} {p : Nat} (h : s.OnlyBlock p t) (r : Nat) (f : Fld) : t.rget r f = s.rget r f := by
  unfold State.rget
  by_cases home : r = regionOf p
  · obtain ⟨ev, e⟩ := h.home
    rw [home, e]
  · rw [h.regions r home]

/-- A change of one block leaves the time alone. -/
theorem State.OnlyBlock.now {s t : State} {p : Nat} (h : s.OnlyBlock p t) : t.now = s.now := by
  obtain ⟨_, _, _, _, _, _, e⟩ := h.rest
  rw [e]

end Sys2Proof.Machine
end

section
/-! O29: flits between routers. -/

namespace Sys2Proof.Machine

/-! The retry store of the sender (R178). -/

/-- The flits that block `q` keeps for the link to the router at whose port `port` flit `i` arrives. -/
def State.flitsKept (s : State) (port : Nat) (i : InBuf) (q : Nat) : List (List Byte) :=
  mget (fun _ => []) (s.block q).router.retry (oppPort port) ++ [i.pkt.flitBytes.getD i.got []]

/-- The sender's block once it keeps a flit, its last 4 (R178). -/
def State.sender (s : State) (port : Nat) (i : InBuf) (q : Nat) : Block :=
  { s.block q with router := { (s.block q).router with
    retry := mset (fun _ => []) (s.block q).router.retry (oppPort port) ((s.flitsKept port i q).drop ((s.flitsKept port i q).length - 4)) } }

section
variable (s : State) (p port : Nat) (i : InBuf)

/-- A flit that is kept changes the sender's router alone. -/
theorem State.keepFlit_eq : s.keepFlit p port i =
    match neighbour p port with | none => s | some q => s.setBlock q (s.sender port i q) := by
  unfold State.keepFlit
  cases neighbour p port <;> rfl

/-- The sender keeps the flit. -/
theorem State.keepFlit_sender {q : Nat} (h : neighbour p port = some q) : (s.keepFlit p port i).block q = s.sender port i q := by
  rw [State.keepFlit_eq, h]
  exact s.block_setBlock_same q _

/-- No other block changes. -/
theorem State.keepFlit_other {x : Nat} (h : neighbour p port ≠ some x) : (s.keepFlit p port i).block x = s.block x := by
  rw [State.keepFlit_eq]
  cases link : neighbour p port with
  | none => rfl
  | some q => exact s.block_setBlock_ne _ fun e => h (e ▸ link)

/-- Nothing but blocks changes. -/
theorem State.keepFlit_blocks : ∃ bl, s.keepFlit p port i = { s with blocks := bl } := by
  rw [State.keepFlit_eq]
  cases neighbour p port with
  | none => exact ⟨_, rfl⟩
  | some q => exact ⟨_, rfl⟩

end

/-- The state once the sender keeps a flit that is sent for the first time: one that has been refused is in the store already. -/
def State.flitSent (s : State) (p port : Nat) (i : InBuf) : State := if i.refused then s else s.keepFlit p port i

/-- From `s` to `u` router `p` has taken flit `i` as `j`, the sender keeps it, and block `p` shows it in the registers `regs` alone. -/
def State.FlitTaken (s : State) (p port : Nat) (regs : List Nat) (i j : InBuf) (u : State) : Prop :=
  (∃ m ev co, u.block p = { s.block p with
    router := { (s.block p).router with buf := (s.block p).router.buf.map fun x => if x == i then j else x }, regs := m, ev := ev,
    coalesced := co }) ∧
  (∀ a, a ∉ regs → (u.block p).word a = (s.block p).word a) ∧
  (∀ q, neighbour p port = some q → u.block q = if i.refused then s.block q else s.sender port i q) ∧
  (∀ x, x ≠ p → neighbour p port ≠ some x → u.block x = s.block x) ∧ u.endpoints = s.endpoints ∧ u.hbm = s.hbm ∧ u.ddr = s.ddr

section
variable {s : State} {p port vc : Nat} {i : InBuf}

/-- The receiver is not the sender. -/
theorem State.flitSent_receiver : (s.flitSent p port i).block p = s.block p := by
  unfold State.flitSent
  split
  · rfl
  · exact s.keepFlit_other p port i fun h => (neighbour_spec h).2 rfl

/-- A packet changed in an input buffer. -/
theorem State.BlockIs.rebuf {s t : State} {b : Block} (h : s.BlockIs p b t) (i j : InBuf) :
    s.BlockIs p { b with router := { b.router with buf := b.router.buf.map fun x => if x == i then j else x } } (t.rebuf p i j) :=
  h.setBlock (f := fun b => b.onRouter fun r => { r with buf := r.buf.map fun x => if x == i then j else x }) fun _ _ => ⟨_, _, rfl⟩

/-- A packet changed in an input buffer leaves the block's registers alone. -/
theorem State.BlockIs.rebuf_get {s t : State} {b : Block} (h : s.BlockIs p b t) (i j : InBuf) (f : Fld) :
    ((t.rebuf p i j).block p).get f = b.get f := (h.rebuf i j).get f

/-- What the receiver's block has become, with flit `i` taken as `j`, where the sender keeps the flit. -/
theorem State.flitTaken_of_block {b : Block} {t : State} {regs : List Nat} (j : InBuf) (h : (s.flitSent p port i).BlockIs p b t)
    (shape : ∃ m ev co, b = { s.block p with regs := m, ev := ev, coalesced := co })
    (words : ∀ a, a ∉ regs → b.word a = (s.block p).word a) : s.FlitTaken p port regs i j (t.rebuf p i j) := by
  obtain ⟨only, ev, co, here⟩ := h.rebuf i j
  generalize t.rebuf p i j = u at only here
  obtain ⟨m, _, _, rfl⟩ := shape
  obtain ⟨_, _, _, _, _, _, rest⟩ := only.rest
  have kept : u.endpoints = (s.flitSent p port i).endpoints ∧ u.hbm = (s.flitSent p port i).hbm ∧ u.ddr = (s.flitSent p port i).ddr := by
    rw [rest]
    exact ⟨rfl, rfl, rfl⟩
  refine ⟨⟨m, ev, co, here⟩, fun a apart => ?_, fun q link => ?_, fun x other link => ?_, ?_⟩
  · rw [here]
    exact words a apart
  · rw [only.others q (neighbour_spec link).2]
    unfold State.flitSent
    split
    · rfl
    · exact s.keepFlit_sender p port i link
  · rw [only.others x other]
    unfold State.flitSent
    split
    · rfl
    · exact s.keepFlit_other p port i link
  · rw [kept.1, kept.2.1, kept.2.2]
    unfold State.flitSent
    split
    · exact ⟨rfl, rfl, rfl⟩
    · obtain ⟨bl, e⟩ := s.keepFlit_blocks p port i
      rw [e]
      exact ⟨rfl, rfl, rfl⟩

/-! What a flit does (R178, R208). -/

variable (found : ((s.block p).router.buf.find? fun i => i.port == port && i.vc == vc && decide (i.got < i.pkt.flits)) = some i)
include found

/-- A stopped link brings nothing. -/
theorem State.flitReceive_stopped (stopped : (s.block p).router.deadLinks.contains port = true) (hw : Nat) :
    s.flitReceive p port vc hw = s := by
  unfold State.flitReceive
  simp only [found]
  exact if_pos stopped

section
variable (alive : (s.block p).router.deadLinks.contains port = false)
include alive

/-- A sound flit is received. -/
theorem State.flitReceive_sound :
    s.flitReceive p port vc 0 = (s.flitSent p port i).rebuf p i { i with got := i.got + 1, refused := false } := by
  unfold State.flitReceive
  simp only [found, alive]
  rfl

/-- A flit with a first check error is refused, and counts as a retry. -/
theorem State.flitReceive_refused (first : i.refused = false) :
    s.flitReceive p port vc 1 = ((s.flitSent p port i).onBlock p fun b env =>
      (b.count MSH_LINK_RETRY.count 1).meshEvent env 0x61 port 0 i.pkt).rebuf p i { i with refused := true } := by
  unfold State.flitReceive State.flitSent
  simp only [found, alive, first, Bool.false_eq_true, if_false, OfNat.one_ne_ofNat, and_false, or_self, if_true]

/-- A flit with a corrected error is received, with a record. -/
theorem State.flitReceive_corrected :
    s.flitReceive p port vc 2 = ((s.flitSent p port i).onBlock p fun b env => b.meshEvent env 0x64 port 0 i.pkt).rebuf p i
      { i with got := i.got + 1, refused := false } := by
  unfold State.flitReceive State.flitSent
  simp only [found, alive, Bool.false_eq_true, if_false, Nat.reduceEqDiff, false_and, or_self, if_true, OfNat.ofNat_ne_one]

/-- A double-bit error fails the router. -/
theorem State.flitReceive_double :
    s.flitReceive p port vc 3 = (s.onBlock p fun b env => b.meshEvent env 0x65 port 2 i.pkt).failRouter p 0x65 := by
  unfold State.flitReceive
  simp only [found, alive]
  rfl

/-- A second check error on a flit stops its link and fails the router. -/
theorem State.flitReceive_second {hw : Nat} (second : hw = 4 ∨ (hw = 1 ∧ i.refused = true)) :
    s.flitReceive p port vc hw = ((s.onBlock p fun b env => b.meshEvent env 0x62 port 2 i.pkt).onBlock p fun b _ =>
      b.onRouter fun r => { r with deadLinks := r.deadLinks ++ [port] }).failRouter p 0x62 := by
  have single : hw ≠ 3 := by omega
  unfold State.flitReceive
  simp only [found, alive, Bool.false_eq_true, if_false, if_neg single, if_pos second]

end
end

/-! A router that fails (R197, R208). -/

/-- How many packets a failing router discards: those of epoch `e`, and all that its merge and replication buffers hold. -/
def Router.losses (r : Router) (e : Nat) : Nat := (r.buf.filter fun i => i.pkt.epoch == e).length + r.merge.length + r.repl.length

/-- What a failing router keeps. -/
def Router.failedIn (r : Router) (e : Nat) : Router :=
  { r with failEpoch := e, buf := r.buf.filter (fun i => i.pkt.epoch != e), merge := [], repl := [] }

/-- The registers of a block whose router fails. -/
def Block.failedRegs (b : Block) (e : Nat) : Block :=
  let b := (b.set MSH_CTL.mode 2).count MSH_DISCARD.count (b.router.losses e)
  if b.working then b.set BLK_DRG_STATUS.state 5 else b

/-- Block `b` once its router has failed in epoch `e` (R197): straight bypass, and the block has fenced itself with `code`. -/
def Block.routerFailed (b : Block) (e code : Nat) : Block :=
  { b with
    regs := (b.failedRegs e).regs, router := b.router.failedIn e, fenced := true, fenceCode := code, gather := [], working := false,
    mesh := { b.mesh with sendq := [] } }

section
variable (b : Block) (e : Nat)

/-- A router that fails enters straight bypass. -/
theorem Block.failedRegs_mode : (b.failedRegs e).get MSH_CTL.mode = 2 := by
  have bypass : ((b.set MSH_CTL.mode 2).count MSH_DISCARD.count (b.router.losses e)).get MSH_CTL.mode = 2 := by
    rw [Block.count, Block.get_set_apart _ (by decide) (by decide) (by decide), Block.get_set_same _ (by decide)]
    rfl
  unfold Block.failedRegs
  extract_lets c
  split
  · rw [Block.get_set_apart _ (by decide) (by decide) (by decide), bypass]
  · exact bypass

/-- What a failing router discards counts. -/
theorem Block.failedRegs_discard :
    (b.failedRegs e).get MSH_DISCARD.count = min MSH_DISCARD.count.top (b.get MSH_DISCARD.count + b.router.losses e) := by
  have counted : ((b.set MSH_CTL.mode 2).count MSH_DISCARD.count (b.router.losses e)).get MSH_DISCARD.count =
      min MSH_DISCARD.count.top (b.get MSH_DISCARD.count + b.router.losses e) := by
    rw [Block.get_count_same _ (by decide), Block.get_set_apart _ (by decide) (by decide) (by decide)]
  unfold Block.failedRegs
  extract_lets c
  split
  · rw [Block.get_set_apart _ (by decide) (by decide) (by decide), counted]
  · exact counted

/-- The failure of a router changes no other register word. -/
theorem Block.failedRegs_word {a : Nat} (apart : a ∉ [MSH_CTL.off, MSH_DISCARD.off, BLK_DRG_STATUS.off]) :
    (b.failedRegs e).word a = b.word a := by
  simp only [List.mem_cons, List.not_mem_nil, or_false, not_or] at apart
  obtain ⟨mode, discard, state⟩ := apart
  have same : ((b.set MSH_CTL.mode 2).count MSH_DISCARD.count (b.router.losses e)).word a = b.word a :=
    (Block.word_set_ne _ _ _ discard).trans (Block.word_set_ne _ _ _ mode)
  unfold Block.failedRegs
  extract_lets c
  split
  · exact (Block.word_set_ne _ _ _ state).trans same
  · exact same

end

/-- A fence of a block whose router is in a bypass (R88, R196). -/
theorem Block.fence_bypassed {b : Block} (unfenced : b.fenced = false) (bypass : b.get MSH_CTL.mode ≠ 0) (code : Nat) :
    b.fence code = { b with
      regs := (if b.working then b.set BLK_DRG_STATUS.state 5 else b).regs, fenced := true, fenceCode := code, gather := [],
      working := false, mesh := { b.mesh with sendq := [] } } := by
  have still : (b.set BLK_DRG_STATUS.state 5).get MSH_CTL.mode ≠ 0 := by
    rwa [Block.get_set_apart _ (by decide) (by decide) (by decide)]
  unfold Block.fence
  rw [if_neg (by rw [unfenced]; decide)]
  by_cases working : b.working = true
  · simp only [if_pos working, if_neg still]
    rfl
  · simp only [if_neg working, if_neg bypass]

/-- A router that is not in straight bypass fails, and its block fences itself. -/
theorem State.BlockIs.failRouter {s t : State} {p : Nat} {b : Block} (h : s.BlockIs p b t) (sound : b.get MSH_CTL.mode ≠ 2)
    (unfenced : b.fenced = false) (code : Nat) : s.BlockIs p (b.routerFailed s.epoch code) (t.failRouter p code) := by
  have mode : (t.block p).get MSH_CTL.mode ≠ 2 := (h.get _).trans_ne sound
  have epoch : t.epoch = s.epoch := h.1.rget 0 _
  have bypass : ((b.set MSH_CTL.mode 2).count MSH_DISCARD.count (b.router.losses s.epoch)).get MSH_CTL.mode = 2 := by
    rw [Block.count, Block.get_set_apart _ (by decide) (by decide) (by decide), Block.get_set_same _ (by decide)]
    rfl
  unfold State.failRouter
  rw [if_neg mode, epoch]
  refine h.onBlock fun ev co => ⟨ev, co, (Block.fence_bypassed (by exact unfenced) ?_ code).trans ?_⟩
  · exact fun none => absurd (bypass.symm.trans none) (by decide)
  · unfold Block.routerFailed Block.failedRegs
    by_cases working : b.working = true
    · dsimp only
      rw [if_pos (by exact working), if_pos (by exact working)]
      rfl
    · dsimp only
      rw [if_neg (by exact working), if_neg (by exact working)]
      rfl

/-- What a failed router shows: the fence with its code, straight bypass, and what it discarded. -/
theorem State.BlockIs.failed {s t : State} {p : Nat} {b : Block} {e code : Nat} (h : s.BlockIs p (b.routerFailed e code) t) :
    (t.block p).fenced = true ∧ (t.block p).fenceCode = code ∧ (t.block p).get MSH_CTL.mode = 2 ∧
      (t.block p).get MSH_DISCARD.count = min MSH_DISCARD.count.top (b.get MSH_DISCARD.count + b.router.losses e) ∧
      (∀ a, a ∉ [MSH_CTL.off, MSH_DISCARD.off, BLK_DRG_STATUS.off] → (t.block p).word a = b.word a) ∧
      (t.block p).router = b.router.failedIn e ∧ (t.block p).spad = b.spad ∧ (t.block p).threads = b.threads := by
  obtain ⟨-, ev, co, same⟩ := h
  rw [same]
  exact ⟨rfl, rfl, b.failedRegs_mode e, b.failedRegs_discard e, fun a => b.failedRegs_word e, rfl, rfl, rfl⟩

/-- A router that fails on a fault of flit `k` (R208): what its block shows, and that the rest of the module stands. -/
theorem State.BlockIs.failed_on {s t : State} {p code port : Nat} {k : Pkt} {dead : List Nat}
    (h : s.BlockIs p { (s.block p).faulted code port k with router := { (s.block p).router with deadLinks := dead } } t)
    (sound : (s.block p).get MSH_CTL.mode ≠ 2) (unfenced : (s.block p).fenced = false) (small : code < 256) :
    let b := s.block p
    let u := t.failRouter p code
    (u.block p).fenced = true ∧ (u.block p).fenceCode = code ∧ (u.block p).get MSH_FAULT.code = code ∧ (u.block p).get MSH_CTL.mode = 2 ∧
      (u.block p).get MSH_DISCARD.count = min MSH_DISCARD.count.top (b.get MSH_DISCARD.count + b.router.losses s.epoch) ∧
      (u.block p).get MSH_LINK_RETRY.count = b.get MSH_LINK_RETRY.count ∧
      (u.block p).router = { b.router.failedIn s.epoch with deadLinks := dead } ∧
      (u.block p).spad = b.spad ∧ (u.block p).threads = b.threads ∧ s.OnlyBlock p u := by
  have noted : ∀ f : Fld, f.off ∉ [MSH_FAULT.off, BLK_CNT.off 45] → ((s.block p).faulted code port k).get f = (s.block p).get f :=
    fun f apart => Block.get_of_word ((s.block p).faulted_word code port k apart)
  have failure := h.failRouter ((noted MSH_CTL.mode (by decide)).trans_ne sound) unfenced code
  obtain ⟨fenced, fenceCode, mode, discard, words, router, spad, threads⟩ := failure.failed
  refine ⟨fenced, fenceCode, ?_, mode, discard.trans ?_, ?_, router, spad, threads, failure.1⟩
  · exact (Block.get_of_word (words _ (by decide))).trans ((s.block p).faulted_code port k small)
  · exact congrArg (fun n => min MSH_DISCARD.count.top (n + (s.block p).router.losses s.epoch)) (noted MSH_DISCARD.count (by decide))
  · exact (Block.get_of_word (words _ (by decide))).trans (noted MSH_LINK_RETRY.count (by decide))

/-- Settles O29: a flit by what the link brings, each case with the equation of `flitReceive` that names it. -/
theorem flitsBetweenRouters : Obligations.FlitsBetweenRouters := by
  intro p port vc i s found b kept after fails
  have receiver : (s.flitSent p port i).block p = b := State.flitSent_receiver
  have noted62 := ((State.BlockIs.refl s p).faulted 0x62 port i.pkt (outcome := 2) (by decide)).onRouter fun r =>
    { r with deadLinks := r.deadLinks ++ [port.val] }
  refine ⟨fun stopped hw => congrArg _ (State.flitReceive_stopped found stopped hw), fun alive => ⟨?sound, fun first => ?refused, ?corrected,
    fun unfenced mode => ⟨?double, ?second, fun again => ?again⟩⟩⟩
  case sound =>
    have taken := State.flitTaken_of_block (regs := []) { i with got := i.got + 1, refused := false } (.refl (s.flitSent p port i) p)
      ⟨b.regs, b.ev, b.coalesced, receiver⟩ fun _ _ => by rw [receiver]
    exact ⟨_, exec_eq rfl (State.flitReceive_sound found alive), taken⟩
  case refused =>
    let c := b.count MSH_LINK_RETRY.count 1
    have shape : ∀ env, ∃ m ev co, c.meshEvent env 0x61 port 0 i.pkt = { b with regs := m, ev := ev, coalesced := co } := fun env =>
      c.meshEvent_eq env 0x61 port 0 i.pkt
    have words : ∀ env a, a ∉ [MSH_LINK_RETRY.off, MSH_FAULT.off, BLK_CNT.off 45, BLK_CNT.off 46] →
        (c.meshEvent env 0x61 port 0 i.pkt).word a = b.word a := fun env a apart =>
      (c.meshEvent_word env 0x61 port 0 i.pkt fun m => apart (List.mem_cons_of_mem _ m)).trans
        (Block.word_set_ne _ _ _ (List.ne_of_not_mem_cons apart))
    have noted := (State.OnlyBlock.refl (s.flitSent p port i) p).onBlock
      (f := fun b env => (b.count MSH_LINK_RETRY.count 1).meshEvent env 0x61 port 0 i.pkt) rfl
    rw [receiver] at noted
    have taken := State.flitTaken_of_block { i with refused := true } noted (shape _) (words _)
    refine ⟨_, exec_eq rfl (State.flitReceive_refused found alive first), (noted.rebuf_get _ _ _).trans ?_,
      (noted.rebuf_get _ _ _).trans ?_, taken⟩
    · exact (Block.get_of_word (c.meshEvent_word _ _ _ _ _ (by decide))).trans (b.get_count_same (by decide) 1)
    · exact c.meshEvent_code _ _ _ _ (by decide)
  case corrected =>
    have noted := (State.OnlyBlock.refl (s.flitSent p port i) p).onBlock (f := fun b env => b.meshEvent env 0x64 port 0 i.pkt) rfl
    rw [receiver] at noted
    have taken := State.flitTaken_of_block { i with got := i.got + 1, refused := false } noted (b.meshEvent_eq _ _ _ _ _)
      fun a => b.meshEvent_word _ _ _ _ _
    exact ⟨_, exec_eq rfl (State.flitReceive_corrected found alive),
      (noted.rebuf_get _ _ _).trans (b.meshEvent_code _ _ _ _ (by decide)), taken⟩
  case double =>
    have noted := (State.BlockIs.refl s p).faulted 0x65 port i.pkt (outcome := 2) (by decide)
    exact ⟨_, exec_eq rfl (State.flitReceive_double found alive), noted.failed_on mode unfenced (by decide)⟩
  case second =>
    exact ⟨_, exec_eq rfl (State.flitReceive_second found alive (.inl rfl)), noted62.failed_on mode unfenced (by decide)⟩
  case again =>
    exact ⟨_, exec_eq rfl (State.flitReceive_second found alive (.inr ⟨rfl, again⟩)), noted62.failed_on mode unfenced (by decide)⟩

end Sys2Proof.Machine
end

section
/-! O30: a header at a router. -/

namespace Sys2Proof.Machine

/-! A packet that is discarded under a fault (R183, R208). -/

/-- Block `b` once its router has counted a discarded packet and recorded the fault `code`. -/
def Block.discarded (b : Block) (code port : Nat) (k : Pkt) : Block := (b.count MSH_DISCARD.count 1).faulted code port k

/-- A discarded packet is counted. -/
theorem Block.discarded_count (b : Block) (code port : Nat) (k : Pkt) :
    (b.discarded code port k).get MSH_DISCARD.count = min MSH_DISCARD.count.top (b.get MSH_DISCARD.count + 1) :=
  (Block.get_of_word (Block.faulted_word _ code port k (by decide))).trans (b.get_count_same (by decide) 1)

/-- A discarded packet shows in no other register. -/
theorem Block.discarded_word (b : Block) (code port : Nat) (k : Pkt) {a : Nat} (apart : a ∉ [MSH_DISCARD.off, MSH_FAULT.off, BLK_CNT.off 45]) :
    (b.discarded code port k).word a = b.word a :=
  (Block.faulted_word _ code port k fun m => apart (List.mem_cons_of_mem _ m)).trans
    (Block.word_set_ne _ _ _ (List.ne_of_not_mem_cons apart))

/-- A router that discards a packet under a fault that is not of a corrected error sends a record up. -/
theorem Block.discarded_eq (b : Block) (env : Env) (code port : Nat) {outcome : Nat} (k : Pkt) (lasting : outcome ≠ 0) :
    ∃ ev, (b.count MSH_DISCARD.count 1).meshEvent env code port outcome k = { b.discarded code port k with ev := ev } :=
  Block.meshEvent_lasting _ env code port k lasting

/-- What a block shows whose router has discarded a packet. -/
theorem State.BlockIs.discard_shows {s t : State} {p : Nat} {code port : Nat} {k : Pkt} {r : Router} {m : MeshUnit}
    (h : s.BlockIs p { (s.block p).discarded code port k with router := r, mesh := m } t) (small : code < 256) :
    (t.block p).get MSH_FAULT.code = code ∧
      (t.block p).get MSH_DISCARD.count = min MSH_DISCARD.count.top ((s.block p).get MSH_DISCARD.count + 1) ∧
      s.BlockBecomes p [MSH_DISCARD.off, MSH_FAULT.off, BLK_CNT.off 45] { s.block p with router := r, mesh := m } t := by
  refine ⟨(h.get _).trans (Block.faulted_code _ port k small), (h.get _).trans (Block.discarded_count _ code port k), ?_⟩
  obtain ⟨only, ⟨m, ev, co, e⟩, same⟩ := h.becomes fun a => (s.block p).discarded_word code port k
  exact ⟨only, ⟨m, ev, co, e⟩, same⟩

/-! What becomes of a header (R183, R185, R207). -/

section
variable {s : State} {p : Nat} {i : InBuf}

/-- A unicast header that has come in Extended gait, at a router that is not in bypass, goes on at once. -/
theorem State.headerArrive_eq {port vc : Nat} (found : ((s.block p).router.buf.find? fun i => i.port == port && i.vc == vc) = some i)
    (came : 1 ≤ i.got) (extended : (s.block p).extended = true) (unicast : i.pkt.mcast = false)
    (alive : (s.block p).router.deadLinks.contains port = false) (sound : Bool) :
    s.headerArrive p port vc sound = if sound then s.unicastArrive p i else s.crcDrop p i := by
  have start : ¬ (i.got = 0 ∨ ((s.block p).router.deadLinks.contains port ∧ i.got < i.pkt.flits) ∨
      ((s.block p).get MSH_CTL.mode ≠ 2 ∧ ¬ ((s.block p).unscheduled ∧ ((s.block p).extended ∨ (s.block p).router.isTurn port)))) := by
    rw [alive, Block.unscheduled, extended]
    simp only [Bool.true_or, true_or, and_self, not_true, and_false, Bool.false_eq_true, false_and, or_false]
    omega
  unfold State.headerArrive
  simp only [found]
  rw [if_neg start]
  simp only [extended, unicast]
  cases sound <;> rfl

section
variable (normal : (s.block p).get MSH_CTL.mode = 0)
include normal

/-- A packet that has nowhere to go is discarded (R208). -/
theorem State.unicastArrive_lost (lost : routeStep p i.pkt.path i.pkt.dest = none) : s.unicastArrive p i = s.discard66 p i := by
  unfold State.unicastArrive
  simp only [lost, normal]
  rfl

variable {out path : Nat} (route : routeStep p i.pkt.path i.pkt.dest = some (out, path))
include route

/-- A packet that is no sum goes where its path says once that output is clear (R179, R185). -/
theorem State.unicastArrive_plain (plain : i.pkt.kind ≠ kREDUCE) :
    s.unicastArrive p i = if s.clear p out i.pkt then (s.unbuf p i).switch p out { i.pkt with path := path } else s := by
  have single : (i.pkt.kind == kREDUCE) = false := beq_false_of_ne plain
  unfold State.unicastArrive
  simp only [route, normal, single]
  rfl

/-- A part of a sum that meets an unscheduled entry for it is added to it (R207). -/
theorem State.unicastArrive_merged (extended : (s.block p).extended = true) (part : i.pkt.kind = kREDUCE) {e : MergeEntry}
    (entry : ((s.block p).router.merge.find? fun e => mergeable e.pkt { i.pkt with path := path } && e.want == 0) = some e) :
    s.unicastArrive p i = (s.unbuf p i).mergeInto p e { i.pkt with path := path } := by
  have sum : (i.pkt.kind == kREDUCE) = true := beq_iff_eq.mpr part
  unfold State.unicastArrive
  simp only [route, normal, extended, sum]
  rw [if_neg (by simp), if_neg (by simp), if_pos (by decide), entry]

end
end

/-! The two discards. -/

section
variable {s : State} {p : Nat}

/-- A packet whose header CRC is wrong is discarded (R183). -/
theorem State.crcDrop_is (s : State) (p : Nat) (i : InBuf) :
    s.BlockIs p { (s.block p).discarded 0x63 i.port i.pkt with
      router := { (s.block p).router with buf := (s.block p).router.buf.erase i } } (s.crcDrop p i) :=
  ((State.BlockIs.refl s p).unbuf i).onBlock fun ev co => by
    obtain ⟨ev', e⟩ := Block.discarded_eq { (s.block p) with
      router := { (s.block p).router with buf := (s.block p).router.buf.erase i }, ev := ev, coalesced := co } ((s.unbuf p i).env p) 0x63
      i.port i.pkt (outcome := 5) (by decide)
    exact ⟨ev', co, e⟩

/-- A sequenced packet that has nowhere to go is discarded, and its discard remembered until its repeat (R208). -/
theorem State.discard66_eq {i : InBuf} (seqd : kindSequenced i.pkt.kind = true) (fresh : (s.block p).router.fault66 = []) :
    s.discard66 p i = (s.unbuf p i).onBlock p fun b env => ((b.count MSH_DISCARD.count 1).meshEvent env 0x66 i.port 5 i.pkt).onRouter fun r =>
      { r with fault66 := (i.pkt.src, i.pkt.dest, i.pkt.vc, i.pkt.tag, env.now) :: r.fault66 } := by
  unfold State.discard66
  simp only [fresh, seqd, List.any_nil, Bool.and_false, Bool.false_eq_true, if_false, if_true]

/-- What the block becomes whose router discards such a packet. -/
theorem State.discard66_is {i : InBuf} (seqd : kindSequenced i.pkt.kind = true) (fresh : (s.block p).router.fault66 = []) :
    s.BlockIs p { (s.block p).discarded 0x66 i.port i.pkt with
      router := { (s.block p).router with
        buf := (s.block p).router.buf.erase i
        fault66 := (i.pkt.src, i.pkt.dest, i.pkt.vc, i.pkt.tag, s.now) :: (s.block p).router.fault66 } } (s.discard66 p i) := by
  rw [State.discard66_eq seqd fresh]
  refine ((State.BlockIs.refl s p).unbuf i).onBlock fun ev co => ?_
  obtain ⟨ev', e⟩ := Block.discarded_eq { (s.block p) with
    router := { (s.block p).router with buf := (s.block p).router.buf.erase i }, ev := ev, coalesced := co } ((s.unbuf p i).env p) 0x66
    i.port i.pkt (outcome := 5) (by decide)
  exact ⟨ev', co, congrArg (Block.onRouter · _) e⟩

end

/-! A packet on its way to the next router (R179, R185, R200). -/

/-- From `s` to `u` router `p`, its block now `b`, has passed packet `k` on to router `q` through link `d`. -/
structure State.PassedOn (s : State) (p d q : Nat) (b : Block) (k : Pkt) (u : State) : Prop where
  sender : ∃ ev co, u.block p = { b with ev := ev, coalesced := co }
  receiver : u.block q = { s.block q with
    router := { (s.block q).router with buf := (s.block q).router.buf ++ [{ port := oppPort d, vc := k.vc, pkt := k }] } }
  others : ∀ x, x ≠ p → x ≠ q → u.block x = s.block x
  endpoints : u.endpoints = s.endpoints
  hbm : u.hbm = s.hbm
  ddr : u.ddr = s.ddr

/-- Whether router `p` sets the congestion mark on a packet `k` that it switches to link `d` (R200). -/
def State.congested (s : State) (p d : Nat) (k : Pkt) : Bool :=
  decide (min 100 (max 1 ((s.block p).get MSH_THRESH.mark_pct)) * 20 < s.downstream p d k * 100)

section
variable {s t : State} {p d q : Nat}

/-- What lies downstream of a link is the neighbour's input buffer. -/
theorem State.downstream_link (s : State) (link : neighbour p d = some q) (k : Pkt) :
    s.downstream p d k = (s.block q).router.fill (oppPort d) k.vc := by
  have linked : d ≠ 4 ∧ d ≠ 5 := by have := (neighbour_spec link).1; omega
  unfold State.downstream
  rw [if_neg linked.1, if_neg linked.2, link]

/-- A link that is clear has room for the packet (R179). -/
theorem State.fits_of_clear (link : neighbour p d = some q) {k : Pkt} (free : s.clear p d k = true) :
    (s.block q).router.fill (oppPort d) k.vc + k.flits ≤ 20 := by
  have linked : d ≠ 4 ∧ d ≠ 5 := by have := (neighbour_spec link).1; omega
  have room : s.room p d k = true := (Bool.and_eq_true_iff.mp free).1
  unfold State.room at room
  rw [if_neg linked.1, if_neg linked.2, s.downstream_link link] at room
  exact of_decide_eq_true (Bool.and_eq_true_iff.mp room).2

variable {b : Block} (h : s.BlockIs p b t) (link : neighbour p d = some q)
include h link

/-- A packet passed to the next router: the sender counts its flits. -/
theorem State.BlockIs.pass_link (k : Pkt) : s.PassedOn p d q (b.count MSH_FLITS.count k.flits) k (t.pass p d k) := by
  obtain ⟨inside, apart⟩ := neighbour_spec link
  obtain ⟨only, here⟩ : s.BlockIs p _ _ := h.count MSH_FLITS.count k.flits
  have passed : t.pass p d k = (t.onBlock p fun b _ => b.count MSH_FLITS.count k.flits).setBlock q
      (((t.onBlock p fun b _ => b.count MSH_FLITS.count k.flits).block q).onRouter fun r =>
        { r with buf := r.buf ++ [{ port := oppPort d, vc := k.vc, pkt := k }] }) := by
    unfold State.pass
    rw [if_neg (by omega), if_neg (by omega), link]
  rw [passed]
  generalize (t.onBlock p fun b _ => b.count MSH_FLITS.count k.flits) = w at only here
  obtain ⟨_, _, _, _, _, _, rest⟩ := only.rest
  exact {
    sender := (w.block_setBlock_ne _ apart.symm).symm ▸ here
    receiver := by rw [State.block_setBlock_same, only.others q apart]; rfl
    others := fun x hp hq => (w.block_setBlock_ne _ hq).trans (only.others x hp)
    endpoints := (show w.endpoints = s.endpoints by rw [rest])
    hbm := (show w.hbm = s.hbm by rw [rest])
    ddr := (show w.ddr = s.ddr by rw [rest]) }

/-- A packet switched to a link is marked where the next buffer is filled above the threshold, which the sender counts (R200). -/
theorem State.BlockIs.switch_link (same : b.get MSH_THRESH.mark_pct = (s.block p).get MSH_THRESH.mark_pct) (k : Pkt) :
    s.PassedOn p d q ((if s.congested p d k = true ∧ k.cmark = false then b.count MSH_MARKS.count 1 else b).count MSH_FLITS.count k.flits)
      { k with cmark := k.cmark || s.congested p d k } (t.switch p d k) := by
  obtain ⟨inside, apart⟩ := neighbour_spec link
  have ahead : t.downstream p d k = s.downstream p d k := by
    rw [State.downstream_link _ link, State.downstream_link _ link, h.1.others q apart]
  have marking : t.mark p d k = if s.congested p d k = true ∧ k.cmark = false then
      (t.onBlock p fun b _ => b.count MSH_MARKS.count 1, { k with cmark := true }) else (t, k) := by
    unfold State.mark State.congested
    rw [(h.get MSH_THRESH.mark_pct).trans same, ahead]
    simp only [decide_eq_true_eq, Bool.not_eq_true, ne_eq, show d ≠ 4 by omega, not_false_eq_true, true_and]
  unfold State.switch
  rw [marking]
  by_cases hit : s.congested p d k = true ∧ k.cmark = false
  · rw [if_pos hit, if_pos hit, hit.1, Bool.or_true]
    have passed := (h.count MSH_MARKS.count 1).pass_link link { k with cmark := true }
    rw [show ({ k with cmark := true } : Pkt).flits = k.flits from rfl] at passed
    exact passed
  · have kept : { k with cmark := k.cmark || s.congested p d k } = k := by
      have : (k.cmark || s.congested p d k) = k.cmark := by grind
      rw [this]
    rw [if_neg hit, if_neg hit, kept]
    exact h.pass_link link k

end

/-- What the block of the sending router shows: the packet's flits count, and its mark. -/
theorem Block.switched_gets (b : Block) (hit : Prop) [Decidable hit] (n : Nat) :
    let c := (if hit then b.count MSH_MARKS.count 1 else b).count MSH_FLITS.count n
    c.get MSH_FLITS.count = min MSH_FLITS.count.top (b.get MSH_FLITS.count + n) ∧
      c.get MSH_MARKS.count = if hit then min MSH_MARKS.count.top (b.get MSH_MARKS.count + 1) else b.get MSH_MARKS.count := by
  dsimp only
  have counted : ∀ c : Block, (c.count MSH_FLITS.count n).get MSH_MARKS.count = c.get MSH_MARKS.count := fun c =>
    Block.get_of_word (Block.word_set_ne _ _ _ (by decide))
  have marked : (b.count MSH_MARKS.count 1).get MSH_FLITS.count = b.get MSH_FLITS.count :=
    Block.get_of_word (Block.word_set_ne _ _ _ (by decide))
  rw [Block.get_count_same _ (by decide), counted]
  by_cases h : hit
  · rw [if_pos h, if_pos h, marked, Block.get_count_same _ (by decide)]
    exact ⟨rfl, rfl⟩
  · rw [if_neg h, if_neg h]
    exact ⟨rfl, rfl⟩

/-! A part of a sum that meets its entry (R207). -/

/-- The entry that a part of a sum meets is of its operation. -/
theorem MergeEntry.rop_of_found {es : List MergeEntry} {k : Pkt} {e : MergeEntry}
    (found : (es.find? fun e => mergeable e.pkt k && e.want == 0) = some e) : e.pkt.rop = k.rop := by
  have met := List.find?_some found
  simp only [mergeable, Bool.and_eq_true, beq_iff_eq] at met
  obtain ⟨⟨⟨⟨-, rop⟩, -⟩, -⟩, -⟩ := met
  exact rop

/-- Two parts of an exact sum are added as rows of the array (R207). -/
theorem mergePkt_exact {a : Pkt} (sums : a.rop = 1) (k : Pkt) : mergePkt a k =
    { a with
      parts := a.parts + k.parts, cmark := a.cmark || k.cmark
      payload := Ap.rowBytes (Ap.addRow (Ap.rowOfBytes 64 a.payload) (Ap.rowOfBytes 64 k.payload)) } := by
  unfold mergePkt
  rw [if_pos sums]

/-- Entry `e` with packet `k` added. -/
def MergeEntry.added (e : MergeEntry) (k : Pkt) : MergeEntry := { e with pkt := mergePkt e.pkt k, have_ := e.have_ + 1 }

/-- A packet added to an entry counts as a merge. -/
theorem State.BlockIs.mergeInto {s t : State} {p : Nat} {b : Block} (h : s.BlockIs p b t) (e : MergeEntry) (k : Pkt) (sums : k.rop ≠ 2) :
    s.BlockIs p { b.count MSH_MERGES.count 1 with
      router := { b.router with merge := b.router.merge.map fun x => if x == e then e.added k else x } } (t.mergeInto p e k) := by
  unfold State.mergeInto
  rw [if_neg sums]
  exact h.onBlock fun _ _ => ⟨_, _, rfl⟩

/-! Where a path leads (R185). -/

/-- A path that is used up leads to the local port of its destination. -/
theorem routeStep_home {p path dest : Nat} (done : normPath 6 path = 0) (here : dest = p) : routeStep p path dest = some (4, 0) := by
  rw [routeStep, done, here]
  exact (if_pos rfl).trans (if_pos rfl)

/-- A path that is used up at a router that is not its destination block's leads nowhere. -/
theorem routeStep_lost {p path dest : Nat} (done : normPath 6 path = 0) (away : dest ≠ p) (block : dest < 1280) :
    routeStep p path dest = none := by
  have inner : isEndpoint dest = false := by unfold isEndpoint; grind
  rw [routeStep, done, inner]
  exact (if_pos rfl).trans (if_neg away)

/-- A path leads to the neighbour that its first segment names, which it shortens. -/
theorem routeStep_link {p path dest q : Nat} (more : normPath 6 path ≠ 0) (link : neighbour p (normPath 6 path % 4) = some q) :
    routeStep p path dest = some (normPath 6 path % 4, normPath 6 path - 4) := by
  rw [routeStep, link]
  exact (if_neg more).trans (if_pos rfl)

/-- Settles O30: where the path leads says which equation of `unicastArrive` applies. -/
theorem headerArrives : Obligations.HeaderArrives := by
  intro p port vc i s found came extended unicast normal alive untapped b k r d
  have header := State.headerArrive_eq found came extended unicast alive
  have taken : s.BlockIs p { b with router := r } (s.unbuf p i) := (State.BlockIs.refl s p).unbuf i
  refine ⟨?crc, fun done here plain => ?home, fun done away block seqd fresh => ?lost, fun q more link plain => ?link,
    fun out path e route part once entry => ?merge⟩
  case crc =>
    exact ⟨s.crcDrop p i, exec_eq rfl (header false), (s.crcDrop_is p i).discard_shows (by decide)⟩
  case home =>
    have goes := (header true).trans (State.unicastArrive_plain normal (routeStep_home done here) plain)
    refine ⟨fun full => exec_eq rfl (goes.trans (if_neg (ne_true_of_eq_false full))),
      fun free => ⟨_, exec_eq rfl (goes.trans (if_pos free)), ?_⟩⟩
    have landed := (taken.switch_local p.isLt untapped { k with path := 0 }).landed
    rw [show ({ k with path := 0 } : Pkt).flits = k.flits from rfl] at landed
    exact landed
  case lost =>
    have goes := (header true).trans (State.unicastArrive_lost normal (routeStep_lost done away block))
    have shown := (State.discard66_is seqd fresh).discard_shows (by decide)
    rw [fresh] at shown
    exact ⟨s.discard66 p i, exec_eq rfl goes, shown⟩
  case link =>
    have goes := (header true).trans (State.unicastArrive_plain normal (routeStep_link more link) plain)
    refine ⟨fun full => exec_eq rfl (goes.trans (if_neg (ne_true_of_eq_false full))),
      fun free => ⟨State.fits_of_clear link free, ?_⟩⟩
    have sent := taken.switch_link link rfl { k with path := normPath 6 k.path - 4 }
    have congested : s.congested p d { k with path := normPath 6 k.path - 4 } =
        decide (min 100 (max 1 (b.get MSH_THRESH.mark_pct)) * 20 < (s.block q).router.fill (oppPort d) k.vc * 100) := by
      rw [State.congested, State.downstream_link s link]
    rw [congested, show ({ k with path := normPath 6 k.path - 4 } : Pkt).flits = k.flits from rfl] at sent
    obtain ⟨⟨ev, co, here⟩, there, others, endpoints, hbm, ddr⟩ := sent
    obtain ⟨flits, marks⟩ := Block.switched_gets { b with router := r } (decide (min 100 (max 1 (b.get MSH_THRESH.mark_pct)) * 20 <
      (s.block q).router.fill (oppPort d) k.vc * 100) = true ∧ k.cmark = false) k.flits
    refine ⟨_, exec_eq rfl (goes.trans (if_pos free)), ?_, ?_, ?_, ?_, ?_, there, others, endpoints, hbm, ddr⟩
    · rw [here]
      split <;> rfl
    · rw [here]
      split <;> rfl
    · rw [here]
      split <;> rfl
    · rw [here]
      exact flits
    · rw [here]
      exact marks
  case merge =>
    have goes := (header true).trans (State.unicastArrive_merged normal route extended part entry)
    have sums : e.pkt.rop = 1 := (MergeEntry.rop_of_found entry).trans once
    have merged := taken.mergeInto e { k with path := path } fun loose => absurd (loose.symm.trans once) (by decide)
    rw [MergeEntry.added, mergePkt_exact sums] at merged
    obtain ⟨only, ⟨m, ev, co, here⟩, same⟩ := merged.becomes (regs := [MSH_MERGES.off]) fun a ha =>
      Block.word_set_ne _ _ _ (List.ne_of_not_mem_cons ha)
    exact ⟨_, exec_eq rfl goes, (merged.get _).trans (Block.get_count_same b (by decide) 1), only, ⟨m, ev, co, here⟩, same⟩

end Sys2Proof.Machine
end

section
/-! O32: injection and acceptance of sequenced packets, and the acknowledgements that leave. -/

namespace Sys2Proof.Machine

/-! Which packet a local port injects (R187, R192). -/

section
variable {s : State} {p : Nat} {h : Held} {rest : List Held}

/-- No packet of a virtual channel waits where each is of the other. -/
theorem State.pickOut_none (s : State) (u : Nat) {vc : Nat} (full : Bool) {hs : List Held} (others : ∀ x ∈ hs, x.pkt.vc % 2 ≠ vc) :
    s.pickOut u vc full hs = none := by
  induction hs with
  | nil => rfl
  | cons x xs ih =>
    rw [State.pickOut, if_pos (.inl (others x List.mem_cons_self))]
    exact ih fun y hy => others y (List.mem_cons_of_mem _ hy)

variable (inside : p < 1280) (queue : (s.block p).mesh.sendq = h :: rest) (opened : s.portOpen p = true)
  (channel : h.pkt.vc = 1) (awake : s.streamWaits p h = false) (room : (s.block p).mesh.storeRoom h.pkt = true)
include inside queue opened channel awake room

/-- The first packet of VC1 that waits at an open port is the next, where its stream is not held and the store has room. -/
theorem State.nextOut_first : s.nextOut p 1 = some h := by
  have home : s.endpointHolds p h = false := by
    unfold State.endpointHolds
    rw [decide_eq_false (Nat.not_le.mpr inside)]
    rfl
  unfold State.nextOut
  rw [s.unit_block inside, queue, State.pickOut]
  rw [if_neg (by simp [channel, opened, mayLeave, awake, home]), if_neg (by rw [s.unit_block inside, room]; simp)]

/-- With the router's port free such a packet enters it, or fails, once it has left the queue. -/
theorem State.inject_first (fresh : h.id = 0) (replies : ∀ x ∈ rest, x.pkt.vc % 2 = 1)
    (free : (s.block p).router.fill 4 1 + h.pkt.flits ≤ 20) :
    let t := s.setUnit p { (s.block p).mesh with sendq := rest }
    (∀ m k, t.formPkt p h = some (m, k) → s.inject p false = t.start p m k) ∧
      (t.formPkt p h = none → s.inject p false = t.injectFail p h) := by
  have replies' : s.nextOut p 0 = none := by
    unfold State.nextOut
    rw [s.unit_block inside, queue]
    refine s.pickOut_none p false fun x mem => ?_
    rcases List.mem_cons.mp mem with rfl | mem
    · rw [channel]; decide
    · rw [replies x mem]; decide
  have first := State.nextOut_first inside queue opened channel awake room
  have starts : s.mayStart p h = true := by
    unfold State.mayStart
    rw [routerOf, if_pos inside, if_pos inside, channel]
    simpa using free
  have unheld : ((s.unit p).resend.find? fun x => x.id == h.id && h.id != 0) = none := by
    rw [List.find?_eq_none]
    simp [fresh]
  unfold State.inject
  simp only [List.filterMap_cons, List.filterMap_nil, replies', first, Option.filter_some, Option.filter_none, starts, if_true]
  rw [if_neg (by simp [fresh]), if_neg (by simp), unheld]
  simp only [s.unit_block inside, queue, List.erase_cons_head]
  exact ⟨fun m k formed => by rw [formed], fun lost => by rw [lost]⟩

end

/-! What the packet becomes (R187, R190). -/

/-- The word that says where block `p` sends what it names by route index `i`: its own place, or the current epoch's entry (R187). -/
def State.placeOf (s : State) (p i : Nat) : Nat := if i = (s.block p).lblock then 2 ^ 63 + p * 2 ^ 50 else s.route p s.epoch i

/-- The key of the stream of VC1 to the unit that a route entry names. -/
def streamKey (w : Nat) : Nat := nbits w 60 50 * 2 + 1

/-- Packet `k` as block `p` forms it for a unit that route entry `w` names (R187, R190). -/
def State.formed (s : State) (p : Nat) (k : Pkt) (w : Nat) : Pkt :=
  { k with
    epoch := s.epoch, src := p, srcidx := (s.block p).lblock, dest := nbits w 60 50, path := nbits w 47 0
    seq := mget natZero (s.block p).mesh.txSeq (streamKey w) }

/-- The mesh interface of block `p` once the number of a packet for that unit has been drawn. -/
def State.numbered (s : State) (p : Nat) (rest : List Held) (w : Nat) : MeshUnit :=
  { (s.block p).mesh with
    sendq := rest
    txSeq := mset natZero (s.block p).mesh.txSeq (streamKey w) ((mget natZero (s.block p).mesh.txSeq (streamKey w) + 1) % 65536) }

section
variable {s : State} {p : Nat} {h : Held} {rest : List Held}

/-- A sequenced packet of VC1 that has not been injected is formed from a valid entry, and from no other (R187, R190). -/
theorem State.formPkt_fresh (inside : p < 1280) (own : s.tableOf p = p) (single : h.pkt.mcast = false) (channel : h.pkt.vc = 1)
    (seqd : kindSequenced h.pkt.kind = true) (new : h.injected = false) :
    (s.setUnit p { (s.block p).mesh with sendq := rest }).formPkt p h =
      if nbit (s.placeOf p h.idx) 63 then
        some (s.numbered p rest (s.placeOf p h.idx), { h with pkt := s.formed p h.pkt (s.placeOf p h.idx) })
      else none := by
  have lblock : (s.setUnit p { (s.block p).mesh with sendq := rest }).srcIdx p = (s.block p).lblock := by
    rw [State.srcIdx, if_pos inside, State.setUnit, if_pos inside, State.block_setBlock_same]
  have place : (if h.idx = (s.block p).lblock ∧ p < 1280 then 2 ^ 63 + p * 2 ^ 50
      else (s.setUnit p { (s.block p).mesh with sendq := rest }).route p s.epoch h.idx) = s.placeOf p h.idx := by
    unfold State.placeOf State.setUnit
    simp only [inside, and_true, if_true]
    rfl
  have own' : (s.setUnit p { (s.block p).mesh with sendq := rest }).tableOf p = p := by
    rw [State.setUnit, if_pos inside]
    exact own
  have epoch : (s.setUnit p { (s.block p).mesh with sendq := rest }).epoch = s.epoch := by
    rw [State.setUnit, if_pos inside]
    rfl
  unfold State.formPkt
  simp only [epoch, own', State.unit_setUnit_same, lblock, single, channel, Bool.false_eq_true, if_false, Nat.mod_succ, place, seqd, new,
    Bool.false_and, Bool.not_true, Bool.or_false, Bool.not_false, Bool.and_self, if_true]
  cases nbit (s.placeOf p h.idx) 63
  · rfl
  · rw [if_neg (by decide), if_pos rfl]
    simp only [State.formed, single, channel]
    rfl

/-! The packet leaves its unit (R192, R208). -/

/-- The place in the resend store of a packet that is there for the first time (R192). -/
def MeshUnit.stored (m : MeshUnit) (h : Held) : MeshUnit :=
  { m with nextId := m.nextId + 1, resend := m.resend ++ [{ h with id := m.nextId }] }

/-- A packet without a number is stored last. -/
theorem MeshUnit.store_fresh (m : MeshUnit) {h : Held} (fresh : h.id = 0) : m.store h = m.stored h := if_pos fresh

/-- A packet that is no token, nor of an entry or a slot, lets go of nothing as it leaves. -/
theorem Block.left_plain (b : Block) (origin : h.origin = .other) (owner : h.pkt.kind = kTOKEN → h.owner = .none) : b.left h = b := by
  unfold Block.left
  rw [origin]
  split
  next t i outbox => exact if_neg fun token => absurd ((owner token).symm.trans outbox) nofun
  next => rfl

/-- A token's slot is let go of as it leaves, and any other packet keeps its owner. -/
theorem Held.owner_kept (h : Held) (owner : h.pkt.kind = kTOKEN → h.owner = .none) :
    (match h.owner with | .outbox .. => if h.pkt.kind = kTOKEN then .none else h.owner | o => o) = h.owner := by
  split
  next t i outbox => exact if_neg fun token => absurd ((owner token).symm.trans outbox) nofun
  next => rfl

/-- A change of one block leaves the names of blocks alone (R318). -/
theorem State.OnlyBlock.tableOf {s t : State} {p : Nat} (only : s.OnlyBlock p t) (q : Nat) : t.tableOf q = s.tableOf q := by
  have screen : t.screen = s.screen := by
    obtain ⟨_, _, _, _, _, _, e⟩ := only.rest
    rw [e]
  rw [State.tableOf, State.tableOf, screen]

variable {t : State} {b : Block} {m : MeshUnit} (is : s.BlockIs p b t)
include is

/-- A packet enters the router of its block. -/
theorem State.BlockIs.enterRouter (inside : p < 1280) (k : Pkt) :
    s.BlockIs p { b with router := { b.router with buf := b.router.buf ++ [{ port := 4, vc := k.vc, pkt := k }] } } (t.enterRouter p k) := by
  unfold State.enterRouter
  rw [routerOf, if_pos inside, if_pos inside]
  exact is.onRouter _

/-- A step of a block that counts as progress alone. -/
theorem State.BlockIs.progress : s.BlockIs p { b with progressAt := s.now } (t.onBlock p fun b env => b.progress env) :=
  is.onBlock fun _ _ => ⟨_, _, by rw [Block.progress, State.env, is.1.now]⟩

/-- A sequenced unicast packet of VC1, no token, leaves its unit for the router and is stored (R192). -/
theorem State.BlockIs.start (inside : p < 1280) (own : s.tableOf p = p) (single : h.pkt.mcast = false) (channel : h.pkt.vc = 1)
    (seqd : kindSequenced h.pkt.kind = true) (fresh : h.id = 0) (first : h.failed = false) (origin : h.origin = .other)
    (owner : h.pkt.kind = kTOKEN → h.owner = .none) :
    s.BlockIs p { b with
      progressAt := s.now, router := { b.router with buf := b.router.buf ++ [{ port := 4, vc := 1, pkt := h.pkt }] }
      mesh := m.stored { h with injected := true, sentAt := s.now } } (t.start p m h) := by
  unfold State.start
  extract_lets router thr m' owner' kept id copies m'' u v
  have m'_eq : m' = m := if_neg (by omega)
  have owner_eq : owner' = h.owner := h.owner_kept owner
  have m''_eq : m'' = m.stored { h with injected := true, sentAt := s.now } := by
    have kept_eq : kept = { h with injected := true, sentAt := s.now } := by
      rw [← is.1.now, ← owner_eq]
      simp only [origin, first]
      rfl
    rw [show m'' = m'.store kept from if_pos seqd, m'_eq, kept_eq]
    exact m.store_fresh fresh
  have copies_eq : copies = [] := if_neg (by rw [single]; decide)
  have queued : s.BlockIs p { b with mesh := m.stored { h with injected := true, sentAt := s.now } } u := by
    have whole : s.BlockIs p { b with mesh := { m'' with sendq := copies ++ m''.sendq } } u := is.setUnit inside _
    rw [copies_eq, m''_eq, List.nil_append] at whole
    exact whole
  have gone : s.BlockIs p { b with mesh := m.stored { h with injected := true, sentAt := s.now }, progressAt := s.now } v := by
    rw [show v = u.onBlock p fun b env => (b.left h).progress env from if_pos inside]
    simp only [Block.left_plain _ origin owner]
    exact queued.progress
  rw [if_neg (by rw [single, gone.1.tableOf, own]; simp), ← channel]
  exact gone.enterRouter inside h.pkt

end

/-- A sequenced packet that finds no valid entry is discarded, and stays in the resend store as failed (R208). -/
theorem State.BlockIs.injectFail {s t : State} {p : Nat} {b : Block} {m : MeshUnit} {h : Held} (is : s.BlockIs p { b with mesh := m } t)
    (inside : p < 1280) (seqd : kindSequenced h.pkt.kind = true) (fresh : h.id = 0) (first : h.failed = false) :
    s.BlockIs p { b.discarded 0x66 4 { h.pkt with src := p } with
      router := b.router, mesh := m.stored { h with failed := true, sentAt := s.now } } (t.injectFail p h) := by
  have unit : t.unit p = m := by
    obtain ⟨-, ev, co, same⟩ := is
    rw [t.unit_block inside, same]
  have stored : s.BlockIs p { b with mesh := m.stored { h with failed := true, sentAt := s.now } }
      (t.setUnit p ((t.unit p).store { h with failed := true, sentAt := t.now })) := by
    rw [unit, is.1.now, MeshUnit.store_fresh m (by exact fresh)]
    exact is.setUnit inside _
  unfold State.injectFail
  simp only [seqd, first, inside, if_true, Bool.and_false, Bool.false_eq_true, if_false]
  refine stored.onBlock fun ev co => ?_
  obtain ⟨ev', e⟩ := Block.discarded_eq { b with
    mesh := m.stored { h with failed := true, sentAt := s.now }, ev := ev, coalesced := co } _ 0x66 4 { h.pkt with src := p }
    (outcome := 5) (by decide)
  exact ⟨ev', co, e⟩

/-! A packet is taken (R190, R191). -/

section
variable {m : MeshUnit} {k : Pkt} {rest : List Pkt} (arrived : m.arrived = k :: rest) (seqd : kindSequenced k.kind = true)
  (single : k.mcast = false) (now : Nat)
include arrived seqd single

/-- The next packet of its stream is taken, and its acknowledgement owed. -/
theorem MeshUnit.accept_next (unmarked : k.cmark = false) (next : seqAhead k.seq (mget natZero m.rxSeq (k.src * 2 + k.vc)) = 0) :
    m.accept now = ({ m with
      arrived := rest, inbox := m.inbox ++ [k]
      rxSeq := mset natZero m.rxSeq (k.src * 2 + k.vc) ((mget natZero m.rxSeq (k.src * 2 + k.vc) + 1) % 65536) } : MeshUnit).owe
        (ackFor now k (!ackLater k.kind)) := by
  have kind : k.kind ≠ kACK := fun e => by rw [e] at seqd; exact absurd seqd (by decide)
  unfold MeshUnit.accept
  simp only [arrived, seqd, single, next, MeshUnit.deliver, kind, unmarked, Bool.not_true, Bool.false_eq_true, if_false, if_true,
    Bool.false_and]

/-- A packet further ahead is answered with the number wanted, and not taken. -/
theorem MeshUnit.accept_ahead (gap : 0 < seqAhead k.seq (mget natZero m.rxSeq (k.src * 2 + k.vc)))
    (ahead : seqAhead k.seq (mget natZero m.rxSeq (k.src * 2 + k.vc)) < 32768) :
    m.accept now = ({ m with arrived := rest } : MeshUnit).owe
      { ackFor now k true with seq := mget natZero m.rxSeq (k.src * 2 + k.vc), nack := true } := by
  unfold MeshUnit.accept
  simp only [arrived, seqd, single, gap.ne', ahead, Bool.not_true, Bool.false_eq_true, if_false, if_true]

end

/-- The local port of a block that is open takes a packet that is not to be discarded, which counts as progress. -/
theorem State.packetAccept_takes {s : State} {p : Nat} (inside : p < 1280) (opened : s.portOpen p = true) (kept : s.discards p = false) :
    s.BlockIs p { s.block p with progressAt := s.now, mesh := (s.block p).mesh.accept s.now } (s.packetAccept p) := by
  unfold State.packetAccept
  simp only [opened, kept, inside, Bool.not_true, Bool.false_eq_true, if_false, if_true]
  rw [s.unit_block inside]
  exact ((State.BlockIs.refl s p).setUnit inside _).progress

/-! An acknowledgement leaves (R191, R201). -/

/-- What acknowledges a run of a peer's stream is handed over for injection. -/
theorem MeshUnit.ackOut_run {m : MeshUnit} {peer vc : Nat} {a : AckOwed} {run : List AckOwed} (next : m.nextAck peer vc = some (a, run)) :
    m.ackOut peer vc = { m with
      acks := m.acks.filter fun x => !run.contains x, echoes := m.echoes.filter fun e => e.1 != peer
      ackNext := if a.nack || a.mcast then m.ackNext else mset natZero m.ackNext (peer * 2 + vc) ((a.seq + 1) % 65536)
      sendq := m.sendq ++ [ackPkt a (m.echoes.any fun e => e.1 == peer)] } := by
  unfold MeshUnit.ackOut
  simp only [next, List.isSome_find?]

/-- Settles O32: each command by the equation that says what it does with the packet. -/
theorem injectAcceptAcknowledge : Obligations.InjectAcceptAcknowledge := by
  refine ⟨fun p u h rest s here queue replies opened own fresh new first origin owner single channel seqd awake room free => ?inject,
    fun p u k rest s here arrived opened kept single unmarked seqd => ?accept, fun u peer vc a run s next => ?ack⟩
  case inject =>
    have is : s.BlockIs p { s.block p with mesh := { (s.block p).mesh with sendq := rest } }
        (s.setUnit p { (s.block p).mesh with sendq := rest }) := (State.BlockIs.refl s p).setUnit p.isLt _
    obtain ⟨goes, fails⟩ := State.inject_first p.isLt queue opened channel awake room fresh replies free
    have form := State.formPkt_fresh (rest := rest) p.isLt own single channel seqd new
    refine ⟨fun valid => ?_, fun invalid => ?_⟩
    · have started := is.start (m := s.numbered p rest (s.placeOf p h.idx)) (h := { h with pkt := s.formed p h.pkt (s.placeOf p h.idx) })
        p.isLt own single channel seqd fresh first origin owner
      have ran : s.inject p false = _ := goes _ _ (form.trans (if_pos valid))
      exact ⟨_, exec_eq rfl ((congrArg (s.inject · false) here).trans ran), started.becomes fun _ _ => rfl⟩
    · have failed := is.injectFail p.isLt seqd fresh first
      have ran : s.inject p false = _ := fails (form.trans (if_neg (ne_true_of_eq_false invalid)))
      have shown := failed.discard_shows (by decide)
      exact ⟨_, exec_eq rfl ((congrArg (s.inject · false) here).trans ran), shown⟩
  case accept =>
    have taken := State.packetAccept_takes p.isLt opened kept
    refine ⟨fun next => ?_, fun gap ahead => ?_⟩
    · rw [MeshUnit.accept_next arrived seqd single _ unmarked next] at taken
      exact ⟨_, exec_eq rfl (congrArg s.packetAccept here), taken.becomes fun _ _ => rfl⟩
    · rw [MeshUnit.accept_ahead arrived seqd single _ gap ahead] at taken
      exact ⟨_, exec_eq rfl (congrArg s.packetAccept here), taken.becomes fun _ _ => rfl⟩
  case ack =>
    have out := MeshUnit.ackOut_run next
    have unit : (s.ackSend u peer vc).unit u = (s.unit u).ackOut peer vc := s.unit_setUnit_same u _
    refine ⟨s.ackSend u peer vc, rfl, ?_, ?_, ?_, ?_, ?_, ?_, fun x other => s.unit_setUnit_ne _ other⟩
    · rw [unit]
      rfl
    · rw [unit, out]
    · rw [unit, out]
    · rw [unit, out]
      rfl
    · rw [unit, out]
    · rw [unit, out]

end Sys2Proof.Machine
end

section
/-! SUPPORT. The memory tiers: the places of a request's lines (R236, R240), lines and masked lines written and read back, and the status of
a request (R238). -/

namespace Sys2Proof.Machine

/-! Places (R236, R240). -/

/-- A bit field of a number, by division. -/
theorem nbits_eq (n hi lo : Nat) : nbits n hi lo = n / 2 ^ lo % 2 ^ (hi + 1 - lo) := by
  rw [nbits, Nat.shiftRight_eq_div_pow]

/-- A bit above the page is the same throughout it. -/
theorem nbit_page (p : Nat) {r : Nat} (inside : r < 4096) (i : Nat) : nbit (4096 * p + r) (12 + i) = nbit p i := by
  rw [nbit, nbit, show 4096 * p + r = 2 ^ 12 * p + r by omega, Nat.testBit_two_pow_mul_add p inside, if_neg (by omega), Nat.add_sub_cancel_left]

/-- The places of a 4 KiB page in HBM4: one run of bytes, or runs of 256 in channels that follow one another (R236). -/
theorem hbmKey_page (p : Nat) : (∃ base, ∀ r < 4096, hbmKey (4096 * p + r) = base + r) ∨
    ∃ base, ∀ r < 4096, hbmKey (4096 * p + r) = base + (r / 256 * 2 ^ 31 + r % 256) := by
  cases spread : nbit p 27 with
  | false =>
    refine .inl ⟨p / 2 ^ 24 % 8 * 2 ^ 36 + p % 2 ^ 24 * 4096, fun r inside => ?_⟩
    rw [hbmKey, show (39 : Nat) = 12 + 27 from rfl, nbit_page p inside, spread]
    simp only [nbits_eq, Bool.false_eq_true, if_false]
    omega
  | true =>
    refine .inr ⟨p / 2 ^ 24 % 8 * 2 ^ 36 + p % 2 * 2 ^ 35 + p / 2 % 2 ^ 23 * 256, fun r inside => ?_⟩
    rw [hbmKey, show (39 : Nat) = 12 + 27 from rfl, nbit_page p inside, spread]
    simp only [nbits_eq, if_true]
    omega

/-- The places of a 4 KiB page in DDR5: one run of bytes (R240). -/
theorem ddrKey_page (p : Nat) : ∃ base, ∀ r < 4096, ddrKey (4096 * p + r) = base + r := by
  cases spread : nbit p 30 with
  | false =>
    refine ⟨p / 2 ^ 26 % 16 * 2 ^ 38 + p % 2 ^ 26 * 4096, fun r inside => ?_⟩
    rw [ddrKey, ddrPlace, show (42 : Nat) = 12 + 30 from rfl, nbit_page p inside, spread]
    simp only [nbits_eq, Bool.false_eq_true, if_false]
    omega
  | true =>
    refine ⟨p % 2 ^ 30 % 12 * 2 ^ 38 + p % 2 ^ 30 / 12 * 4096, fun r inside => ?_⟩
    rw [ddrKey, ddrPlace, show (42 : Nat) = 12 + 30 from rfl, nbit_page p inside, spread]
    simp only [nbits_eq, if_true]
    omega

/-- The stack of an HBM4 place. -/
theorem hbmKey_stack (a : Nat) : hbmKey a / 2 ^ 36 = nbits a 38 36 := by
  have small : (if nbit a 39 then nbits a 12 8 * 2 ^ 31 + (nbits a 35 13 * 256 + nbits a 7 0) else nbits a 35 0) < 2 ^ 36 := by
    simp only [nbits_eq]
    split <;> omega
  rw [hbmKey]
  omega

/-- The place of a byte of a tier. -/
def tierKey (tier a : Nat) : Nat := if tier = 1 then hbmKey a else ddrKey a

/-- Two lines of a request that keeps to its page do not overlap. -/
theorem tierKey_apart {tier a n i j : Nat} (aligned : a % 64 = 0) (page : a % 4096 + 64 * n ≤ 4096) (hi : i < n) (hj : j < n) (other : i ≠ j) :
    tierKey tier (a + 64 * i) + 64 ≤ tierKey tier (a + 64 * j) ∨ tierKey tier (a + 64 * j) + 64 ≤ tierKey tier (a + 64 * i) := by
  have offset : ∀ l < n, a + 64 * l = 4096 * (a / 4096) + (a % 4096 + 64 * l) := fun l hl => by omega
  rw [offset i hi, offset j hj, tierKey, tierKey]
  split
  · obtain ⟨base, run⟩ | ⟨base, runs⟩ := hbmKey_page (a / 4096)
    · rw [run _ (by omega), run _ (by omega)]
      omega
    · rw [runs _ (by omega), runs _ (by omega)]
      omega
  · obtain ⟨base, run⟩ := ddrKey_page (a / 4096)
    rw [run _ (by omega), run _ (by omega)]
    omega

/-! Lines written (R181, R238). -/

/-- The bytes of a tier. -/
def Tiers.mem (t : Tiers) (tier : Nat) : Memory := if tier = 1 then t.hbm else t.ddr

/-- The bytes of the other tier. -/
def Tiers.otherMem (t : Tiers) (tier : Nat) : Memory := if tier = 1 then t.ddr else t.hbm

/-- A line of a tier is read at its place. -/
theorem Tiers.line_eq (t : Tiers) (tier a : Nat) : t.line tier a = (t.mem tier).bytes (tierKey tier a) 64 := by
  rw [Tiers.line, Tiers.mem, tierKey]
  split <;> rfl

section
variable (t : Tiers) (tier a : Nat) (bytes : List Byte)

/-- A line written stands at its place. -/
theorem Tiers.putLine_mem : (t.putLine tier a bytes).mem tier = (t.mem tier).puts (tierKey tier a) (sliceZ bytes 0 64) := by
  rw [Tiers.putLine, Tiers.mem, Tiers.mem, tierKey]
  split <;> rfl

/-- A line written leaves the other tier alone. -/
theorem Tiers.putLine_other : (t.putLine tier a bytes).otherMem tier = t.otherMem tier := by
  rw [Tiers.putLine, Tiers.otherMem, Tiers.otherMem]
  split <;> rfl

/-- Bytes under a mask. -/
def maskedBytes (bytes : List Byte) (mask : Nat) : List (Byte × Bool) := (sliceZ bytes 0 64).zipIdx.map fun (b, i) => (b, nbit mask i)

/-- A masked line is written at its place. -/
theorem Tiers.putMasked_mem (mask : Nat) :
    (t.putMasked tier a bytes mask).mem tier = (t.mem tier).putsMasked (tierKey tier a) (maskedBytes bytes mask) := by
  rw [Tiers.putMasked, Tiers.mem, Tiers.mem, tierKey, maskedBytes]
  split <;> rfl

/-- A masked line leaves the other tier alone. -/
theorem Tiers.putMasked_other (mask : Nat) : (t.putMasked tier a bytes mask).otherMem tier = t.otherMem tier := by
  rw [Tiers.putMasked, Tiers.otherMem, Tiers.otherMem]
  split <;> rfl

/-- Lines written leave the other tier alone. -/
theorem Tiers.putLines_other : (t.putLines tier a bytes).otherMem tier = t.otherMem tier :=
  foldl_same (Tiers.otherMem · tier) (fun t _ => t.putLine_other tier _ _) _ t

/-- Lines written stand one after another at their places. -/
theorem Tiers.putLines_mem {n : Nat} (whole : bytes.length = 64 * n) : (t.putLines tier a bytes).mem tier =
    (t.mem tier).putLines (lineWrites ((List.range n).map fun i => tierKey tier (a + 64 * i)) bytes) := by
  have count : ceilDiv bytes.length 64 = n := by
    rw [whole, ceilDiv]
    omega
  have writes : lineWrites ((List.range n).map fun i => tierKey tier (a + 64 * i)) bytes =
      (List.range n).map fun i => (tierKey tier (a + 64 * i), sliceZ bytes (64 * i) 64) := by
    refine List.ext_getElem (by simp [lineWrites_length]) fun i hi hj => ?_
    rw [lineWrites_getElem]
    simp
  rw [Tiers.putLines, count, writes]
  generalize List.range n = is
  induction is generalizing t with
  | nil => rfl
  | cons i is ih =>
    rw [List.foldl_cons, ih, List.map_cons, Memory.putLines, Tiers.putLine_mem]

end

/-- A byte of a masked run of writes: the new one under the mask. -/
theorem Memory.byte_putsMasked_in (bs : List (Byte × Bool)) : ∀ (m : Memory) (a i : Nat) (h : i < bs.length),
    (m.putsMasked a bs).byte (a + i) = if bs[i].2 then bs[i].1 else m.byte (a + i) := by
  induction bs with
  | nil => intro m a i h; simp at h
  | cons e bs ih =>
    intro m a i h
    obtain ⟨b, k⟩ := e
    have head : ∀ m : Memory, (m.putsMasked (a + 1) bs).byte (a + 0) = m.byte (a + 0) := fun m =>
      Memory.byte_putsMasked_out bs m (a + 1) _ (by omega)
    cases i with
    | zero =>
      cases k with
      | false => rw [Memory.putsMasked, head]; rfl
      | true => rw [Memory.putsMasked, head]; exact Memory.byte_put_same m a b
    | succ j =>
      have inside : j < bs.length := by simpa using h
      rw [show a + (j + 1) = a + 1 + j by omega]
      cases k with
      | false => rw [Memory.putsMasked, ih _ _ _ inside]; rfl
      | true =>
        rw [Memory.putsMasked, ih _ _ _ inside, Memory.byte_put_ne m b (by omega)]
        rfl

/-- Bytes cut into lines make up the bytes. -/
theorem flatMap_slices {bs : List Byte} {n : Nat} (whole : bs.length = 64 * n) :
    (List.range n).flatMap (fun i => sliceZ bs (64 * i) 64) = bs := by
  have first : ∀ k ≤ n, (List.range k).flatMap (fun i => sliceZ bs (64 * i) 64) = bs.take (64 * k) := by
    intro k hk
    induction k with
    | zero => rfl
    | succ k ih =>
      have line : sliceZ bs (64 * k) 64 = (bs.drop (64 * k)).take 64 := by
        have size : ((bs.drop (64 * k)).take 64).length = 64 := by
          rw [List.length_take, List.length_drop]
          omega
        rw [sliceZ, size]
        exact List.append_nil _
      rw [List.range_succ, List.flatMap_append, ih (by omega), List.flatMap_singleton, line,
        show 64 * (k + 1) = 64 * k + 64 by omega, List.take_add]
  rw [first n (Nat.le_refl n), ← whole, List.take_length]

/-! The status of a request (R238). -/

section
variable (t : Tiers) {tier unit a n : Nat} (write : Bool)

/-- A request out of place. -/
def Misplaced (a n : Nat) : Prop := a % 64 ≠ 0 ∨ 4096 < a % 4096 + 64 * n

/-- A request that its unit does not hold. -/
def Tiers.Absent (t : Tiers) (tier unit a n : Nat) : Prop :=
  t.inRange tier a = false ∨ t.inRange tier (a + 64 * n - 1) = false ∨ namesUnit tier unit a = false

/-- A request for lines of a signed range. -/
def Tiers.Guarded (t : Tiers) (tier a n : Nat) : Prop := tier = 1 ∧ ∃ i < n, t.isSigned (hbmKey (a + 64 * i)) = true

/-- A request out of place is answered 2. -/
theorem Tiers.unitStatus_misplaced (bad : Misplaced a n) : t.unitStatus tier unit a n write = 2 := by
  have status : t.status tier a n write = 2 := if_pos bad
  unfold Tiers.unitStatus
  rw [status]
  rfl

variable (placed : ¬ Misplaced a n)
include placed

/-- A request in its place has status 1 where it is out of range, and 4 where it writes to a signed range. -/
theorem Tiers.status_placed : t.status tier a n write =
    if !t.inRange tier a || !t.inRange tier (a + 64 * n - 1) then 1
    else if write && tier == 1 && (List.range n).any fun i => t.isSigned (hbmKey (a + 64 * i)) then 4
    else 0 := if_neg placed

/-- A request that its unit does not hold is answered 1. -/
theorem Tiers.unitStatus_absent (absent : t.Absent tier unit a n) : t.unitStatus tier unit a n write = 1 := by
  have status := t.status_placed (tier := tier) write placed
  unfold Tiers.unitStatus
  by_cases out : (!t.inRange tier a || !t.inRange tier (a + 64 * n - 1)) = true
  · rw [status, if_pos out]
    rfl
  · have other : namesUnit tier unit a = false := by
      rcases absent with first | last | other
      · simp [first] at out
      · simp [last] at out
      · exact other
    have small : t.status tier a n write ≠ 2 := by
      rw [status, if_neg out]
      split <;> decide
    simp only [other, if_neg small, Bool.false_eq_true, not_false_eq_true, or_true, if_true]

variable (held : ¬ t.Absent tier unit a n)
include held

/-- A request that its unit holds has the status of what it does there. -/
theorem Tiers.unitStatus_held : t.unitStatus tier unit a n write =
    if write && tier == 1 && (List.range n).any fun i => t.isSigned (hbmKey (a + 64 * i)) then 4 else 0 := by
  simp only [Tiers.Absent, not_or, Bool.not_eq_false] at held
  obtain ⟨first, last, names⟩ := held
  have status := t.status_placed (tier := tier) write placed
  rw [if_neg (by simp [first, last])] at status
  unfold Tiers.unitStatus
  rw [status, names]
  split <;> rfl

/-- A read is answered OK. -/
theorem Tiers.unitStatus_read : t.unitStatus tier unit a n false = 0 := (t.unitStatus_held false placed held).trans (if_neg (by simp))

/-- A write to a signed range is answered 4. -/
theorem Tiers.unitStatus_guarded (guarded : t.Guarded tier a n) : t.unitStatus tier unit a n true = 4 := by
  obtain ⟨hbm, i, inside, signed⟩ := guarded
  refine (t.unitStatus_held true placed held).trans (if_pos ?_)
  rw [hbm]
  exact List.any_eq_true.mpr ⟨i, List.mem_range.mpr inside, signed⟩

/-- Any other write is answered OK. -/
theorem Tiers.unitStatus_write (free : ¬ t.Guarded tier a n) : t.unitStatus tier unit a n true = 0 := by
  refine (t.unitStatus_held true placed held).trans (if_neg fun hit => free ?_)
  obtain ⟨hbm, any⟩ := Bool.and_eq_true_iff.mp hit
  obtain ⟨i, mem, signed⟩ := List.any_eq_true.mp any
  exact ⟨beq_iff_eq.mp hbm, i, List.mem_range.mp mem, signed⟩

end

end Sys2Proof.Machine
end

section
/-! O35: memory requests at an endpoint, and their replies at a block. -/

namespace Sys2Proof.Machine

/-! An endpoint answers (R191, R238). -/

/-- From `s` to `t` endpoint `u`, its mesh interface `m` once it has taken request `k`, has answered it; no other unit has changed. -/
def State.Answered (s : State) (u : Nat) (m : MeshUnit) (k : Pkt) (status : Nat) (bytes : List Byte) (t : State) : Prop :=
  (∀ x, x ≠ u → t.unit x = s.unit x) ∧
    t.unit u = { m.replied k status with sendq := (m.replied k status).sendq ++ [replyTo k status bytes] }

/-- Units read alike where blocks and endpoints are alike. -/
theorem State.unit_congr {s t : State} (blocks : t.blocks = s.blocks) (endpoints : t.endpoints = s.endpoints) (x : Nat) :
    t.unit x = s.unit x := by
  rw [State.unit, State.unit, State.block, State.block, blocks, endpoints]

section
variable {s v : State} {u : Nat} {m : MeshUnit} {k : Pkt} (status : Nat) (bytes : List Byte)

/-- The answer is the acknowledgement, and goes out with the request's tag. -/
theorem State.memAnswer_answered (here : v.unit u = m) (others : ∀ x, x ≠ u → v.unit x = s.unit x) :
    s.Answered u m k status bytes (v.memAnswer u k status bytes) := by
  refine ⟨fun x hx => ?_, ?_⟩
  · exact (State.unit_setUnit_ne _ _ hx).trans ((State.unit_setUnit_ne _ _ hx).trans (others x hx))
  · rw [State.memAnswer, State.sendFrom, State.unit_setUnit_same, State.unit_setUnit_same, here]

/-- An answer changes the endpoints alone. -/
theorem State.memAnswer_endpoints (edge : 1280 ≤ u) : ∃ es, v.memAnswer u k status bytes = { v with endpoints := es } := by
  unfold State.memAnswer State.sendFrom
  dsimp only
  rw [State.setUnit_endpoint _ edge, State.setUnit_endpoint _ edge]
  exact ⟨_, rfl⟩

/-- An answer to a request that changes nothing else. -/
theorem State.memAnswer_alone (edge : 1280 ≤ u) :
    ∃ t, (s.setUnit u m).memAnswer u k status bytes = t ∧ t = { s with endpoints := t.endpoints } ∧ s.Answered u m k status bytes t := by
  refine ⟨_, rfl, ?_, State.memAnswer_answered status bytes (s.unit_setUnit_same u m) fun x => s.unit_setUnit_ne m⟩
  obtain ⟨es, e⟩ := State.memAnswer_endpoints (v := s.setUnit u m) (k := k) status bytes edge
  rw [e, State.setUnit_endpoint _ edge]

end

/-- An endpoint of a memory tier is a port of a stack or a channel (R180, R235). -/
theorem endpointTier_some {u tier unit : Nat} (h : endpointTier u = some (tier, unit)) :
    1280 ≤ u ∧ ((tier = 1 ∧ unit < 8) ∨ (tier = 2 ∧ unit < 12)) := by
  unfold endpointTier at h
  split at h
  case isTrue range =>
    obtain ⟨rfl, rfl⟩ := Prod.mk.inj (Option.some.inj h)
    omega
  case isFalse =>
    obtain ⟨range, place⟩ := Option.ite_none_right_eq_some.mp h
    obtain ⟨rfl, rfl⟩ := Prod.mk.inj (Option.some.inj place)
    omega

/-- How many lines a request names (R238). -/
def Pkt.requestLines (k : Pkt) : Nat := if k.kind = kMEM_READ then leAt k.payload 0 1 % 32 + 1 else if k.isData then k.length + 1 else 1

section
variable {s : State} {u tier unit : Nat} {k : Pkt} {rest : List Pkt} (served : endpointTier u = some (tier, unit))
  (inbox : (s.unit u).inbox = k :: rest)
include served inbox

/-- What a MEM_READ does at its endpoint (R238, R257). -/
theorem State.memRead_eq (read : k.kind = kMEM_READ) (hw : DramHw) {status : Nat}
    (judged : s.tiers.unitStatus tier unit k.addr k.requestLines false = status) :
    let t := s.setUnit u { s.unit u with inbox := rest }
    s.memRead u hw =
      if status ≠ 0 then t.memAnswer u k status []
      else if hw = .uncorrectable then t.memAnswer u k 3 []
      else (if hw = .corrected then t.corrected tier k.addr else t).memAnswer u k 0 (s.tiers.lines tier k.addr k.requestLines) := by
  have taken := takeFirst_first (f := fun k : Pkt => k.kind == kMEM_READ) (x := k) (by simp [read]) rest
  have tiers : (s.setUnit u { s.unit u with inbox := rest }).tiers = s.tiers := by
    rw [State.setUnit_endpoint _ (endpointTier_some served).1]
    rfl
  have lines : leAt k.payload 0 1 % 32 + 1 = k.requestLines := (if_pos read).symm
  unfold State.memRead
  simp only [served, inbox, taken, tiers, lines, judged]

/-- What a MEM_WRITE does at its endpoint where no error is corrected (R181, R238). -/
theorem State.memWrite_eq (write : k.kind = kMEM_WRITE) (hw : DramHw) {status : Nat}
    (judged : s.tiers.unitStatus tier unit k.addr k.requestLines true = status) (sound : status ≠ 0 ∨ hw ≠ .corrected) :
    let t := s.setUnit u { s.unit u with inbox := rest }
    s.memWrite u hw =
      if status ≠ 0 then t.memAnswer u k status []
      else if k.isData then
        (t.setTiers (s.tiers.putLines tier k.addr (sliceZ k.payload 0 (64 * k.requestLines)))).memAnswer u k 0 []
      else if hw = .uncorrectable then t.memAnswer u k 3 []
      else (t.setTiers (s.tiers.putMasked tier k.addr (sliceZ k.payload 0 64) (leAt k.payload 64 8))).memAnswer u k 0 [] := by
  have taken := takeFirst_first (f := fun k : Pkt => k.kind == kMEM_WRITE) (x := k) (by simp [write]) rest
  have tiers : (s.setUnit u { s.unit u with inbox := rest }).tiers = s.tiers := by
    rw [State.setUnit_endpoint _ (endpointTier_some served).1]
    rfl
  have lines : (if k.isData then k.length + 1 else 1) = k.requestLines := (if_neg (by rw [write]; decide)).symm
  unfold State.memWrite
  simp only [served, inbox, taken, tiers, lines, judged]
  by_cases refused : status ≠ 0
  · rw [if_pos refused, if_pos refused]
  · rw [if_neg refused, if_neg refused]
    simp only [sound.resolve_left refused, if_false, tiers]

end

/-! What a write leaves (R181, R238). -/

/-- A write that is answered changes the tiers alone, and tells the twin. -/
theorem State.written (s : State) {u : Nat} (edge : 1280 ≤ u) (m : MeshUnit) (k : Pkt) (tiers : Tiers) :
    let t := ((s.setUnit u m).setTiers tiers).memAnswer u k 0 []
    s.Answered u m k 0 [] t ∧ (∀ q, t.block q = s.block q) ∧ t.regs = s.regs ∧ t.hbm = tiers.hbm ∧ t.ddr = tiers.ddr := by
  intro t
  obtain ⟨ports, out, put⟩ := (s.setUnit u m).setTiers_sends tiers
  have blocks : ((s.setUnit u m).setTiers tiers).blocks = (s.setUnit u m).blocks := by rw [put]
  have endpoints : ((s.setUnit u m).setTiers tiers).endpoints = (s.setUnit u m).endpoints := by rw [put]
  have regs : ((s.setUnit u m).setTiers tiers).regs = (s.setUnit u m).regs := by rw [put]
  have hbm : ((s.setUnit u m).setTiers tiers).hbm = tiers.hbm := by rw [put]
  have ddr : ((s.setUnit u m).setTiers tiers).ddr = tiers.ddr := by rw [put]
  have answered : s.Answered u m k 0 [] t := State.memAnswer_answered 0 []
    ((State.unit_congr blocks endpoints u).trans (s.unit_setUnit_same u m))
    fun x hx => (State.unit_congr blocks endpoints x).trans (s.unit_setUnit_ne m hx)
  obtain ⟨es, e⟩ : ∃ es, t = _ := State.memAnswer_endpoints (v := (s.setUnit u m).setTiers tiers) 0 [] edge
  rw [State.setUnit_endpoint _ edge] at blocks regs hbm ddr e
  have same : t.blocks = s.blocks := by
    rw [e]
    exact blocks
  refine ⟨answered, fun q => congrArg (mget blockInit · q) same, ?_, ?_, ?_⟩
  · rw [e]
    exact regs
  · rw [e]
    exact hbm
  · rw [e]
    exact ddr

section
variable (t : Tiers) {tier a : Nat} (payload : List Byte)

/-- Whole lines written read back, and no byte apart from them changes. -/
theorem Tiers.putLines_spec {n : Nat} (placed : ¬ Misplaced a n) :
    let t' := t.putLines tier a (sliceZ payload 0 (64 * n))
    (∀ x, (∀ i < n, x < tierKey tier (a + 64 * i) ∨ tierKey tier (a + 64 * i) + 64 ≤ x) → (t'.mem tier).byte x = (t.mem tier).byte x) ∧
      t'.lines tier a n = sliceZ payload 0 (64 * n) := by
  intro t'
  obtain ⟨aligned, page⟩ := not_or.mp placed
  have whole : (sliceZ payload 0 (64 * n)).length = 64 * n := sliceZ_length _ _ _
  obtain ⟨back, apart⟩ := (t.mem tier).putLines_run (addr := fun i => tierKey tier (a + 64 * i)) (sliceZ payload 0 (64 * n))
    fun i j hi hj => tierKey_apart (n := n) (by omega) (by omega) hi hj
  rw [← t.putLines_mem tier a _ whole] at back apart
  refine ⟨apart, ?_⟩
  rw [← flatMap_slices whole, Tiers.lines]
  refine List.flatMap_congr fun i mem => ?_
  rw [Tiers.line_eq]
  exact back i (List.mem_range.mp mem)

/-- A masked line changes the bytes of its mask, and no other. -/
theorem Tiers.putMasked_spec (mask : Nat) :
    let t' := t.putMasked tier a (sliceZ payload 0 64) mask
    (∀ x, (x < tierKey tier a ∨ tierKey tier a + 64 ≤ x) → (t'.mem tier).byte x = (t.mem tier).byte x) ∧
      ∀ j < 64, (t'.mem tier).byte (tierKey tier a + j) =
        if nbit mask j then (sliceZ payload 0 64).getD j 0 else (t.mem tier).byte (tierKey tier a + j) := by
  have size : (maskedBytes (sliceZ payload 0 64) mask).length = 64 := by simp [maskedBytes]
  refine ⟨fun x apart => ?_, fun j inside => ?_⟩
  · rw [Tiers.putMasked_mem]
    exact Memory.byte_putsMasked_out _ _ _ _ (by rwa [size])
  · rw [Tiers.putMasked_mem, Memory.byte_putsMasked_in _ _ _ _ (by rwa [size])]
    simp only [maskedBytes, sliceZ_self (sliceZ_length payload 0 64), List.getElem_map, List.getElem_zipIdx, Nat.zero_add]
    rw [List.getD_eq_getElem]

end

/-! A line that a read corrects (R257). -/

/-- The state once a corrected line at place `key` counts in the register at `ce` and stands in that at `err`. -/
def State.ceNoted (s : State) (ce err key : Nat) : State :=
  (((s.count ⟨ce, 63, 0⟩ 1).set ⟨err, 63, 63⟩ 1).set ⟨err, 62, 61⟩ 1).set ⟨err, 47, 0⟩ key

/-- A field set in a state that differs in registers alone. -/
theorem State.set_regs_of {s t : State} (h : ∃ m, t = { s with regs := m }) (f : Fld) (v : Nat) : ∃ m, t.set f v = { s with regs := m } := by
  obtain ⟨m, rfl⟩ := h
  exact ⟨_, rfl⟩

section
variable (s : State) {ce err : Nat} (key : Nat)

/-- A corrected line that is noted changes registers alone. -/
theorem State.ceNoted_regs : ∃ m, s.ceNoted ce err key = { s with regs := m } :=
  State.set_regs_of (State.set_regs_of (State.set_regs_of (State.set_regs_of ⟨s.regs, rfl⟩ _ _) _ _) _ _) _ _

/-- The count and the kind of the last error. -/
theorem State.ceNoted_gets (apart : err ≠ ce) :
    (s.ceNoted ce err key).get ⟨ce, 63, 0⟩ = min (Fld.top ⟨ce, 63, 0⟩) (s.get ⟨ce, 63, 0⟩ + 1) ∧
      (s.ceNoted ce err key).get ⟨err, 62, 61⟩ = 1 := by
  have counter : (0 : Nat) ≤ 63 ∧ 63 < 64 := by decide
  have kind : (61 : Nat) ≤ 62 ∧ 62 < 64 := by decide
  have valid : (63 : Nat) ≤ 63 := by decide
  have addr : (0 : Nat) ≤ 47 := by decide
  have above : (47 : Nat) < 61 := by decide
  refine ⟨?_, ?_⟩
  · rw [State.ceNoted, State.get_set_apart _ addr counter.1 (.inl apart), State.get_set_apart _ kind.1 counter.1 (.inl apart),
      State.get_set_apart _ valid counter.1 (.inl apart), State.get_count_same _ counter]
  · rw [State.ceNoted, State.get_set_apart _ addr kind.1 (.inr (.inl above)), State.get_set_same _ kind]
    rfl

end

/-- The register that counts the corrected errors of a unit of a tier. -/
def ceOff (tier unit : Nat) : Nat := if tier = 1 then MGR_ECC_CE.off unit else DDR_ECC_CE.off unit

/-- The register of the last error of a unit of a tier. -/
def errOff (tier unit : Nat) : Nat := if tier = 1 then MGR_ERR_ADDR.off unit else DDR_ERR_ADDR.off unit

/-- The two registers are not the same. -/
theorem errOff_ne_ceOff (tier unit : Nat) : errOff tier unit ≠ ceOff tier unit := by
  unfold errOff ceOff MGR_ERR_ADDR.off MGR_ECC_CE.off DDR_ERR_ADDR.off DDR_ECC_CE.off
  split <;> omega

/-- A line that a read corrects is noted at the unit that its address names (R236, R240, R257). -/
theorem State.corrected_eq (s : State) {tier unit a : Nat} (names : namesUnit tier unit a = true) :
    s.corrected tier a = s.ceNoted (ceOff tier unit) (errOff tier unit) (tierKey tier a) := by
  unfold State.corrected ceOff errOff tierKey
  unfold namesUnit at names
  by_cases hbm : tier = 1
  · rw [if_pos hbm] at names
    simp only [if_pos hbm, hbmKey_stack, beq_iff_eq.mp names]
    rfl
  · rw [if_neg hbm] at names
    simp only [if_neg hbm, beq_iff_eq.mp names]
    rfl

/-! A block hears the reply to its load (R191, R238). -/

/-- A thread keeps its place as it takes what it loads. -/
theorem Thread.load_pc (th : Thread) (size : GSize) (sgn : Bool) (rd : Nat) (bytes : List Byte) : (th.load size sgn rd bytes).pc = th.pc := by
  cases size with
  | b16 => rfl
  | _ => exact th.wr_pc _ _

/-- The mesh interface of a block once it has the reply `k`, which acknowledges the request (R191). -/
def MeshUnit.heard (m : MeshUnit) (k : Pkt) (rest : List Pkt) : MeshUnit :=
  { m with inbox := rest, resend := m.resend.filter fun h => h.owner != .mem k.tag }

section
variable {s : State} {p t pos off len : Nat} {k : Pkt} {rest : List Pkt} (inside : p < 1280)
  (inbox : (s.block p).mesh.inbox = k :: rest) (reply : k.kind = kMEM_REPLY)
  (asked : ((s.block p).reqs.find? fun r => r.id == k.tag) = some ⟨k.tag, .load t pos off len⟩)
include inside inbox reply asked

/-- The reply to a load goes to the thread that waits for it. -/
theorem State.memReply_load : s.memReply p = (s.setUnit p ((s.block p).mesh.heard k rest)).onBlock p fun b env =>
    Block.handleReply (if k.qid = 3 then b else { b with reqs := b.reqs.filter fun x => x.id != k.tag }) env (.load t pos off len) k.tag k.qid
      k.payload := by
  have taken := takeFirst_first (f := fun k : Pkt => k.kind == kMEM_REPLY) (x := k) (by simp [reply]) rest
  have asked' : ((s.setUnit p ((s.block p).mesh.heard k rest)).block p).reqs.find? (fun r => r.id == k.tag) =
      some ⟨k.tag, .load t pos off len⟩ := by
    rw [State.setUnit, if_pos inside, State.block_setBlock_same]
    exact asked
  unfold State.memReply
  simp only [MeshUnit.heard] at asked' ⊢
  simp only [s.unit_block inside, inbox, taken, if_neg (Nat.not_le.mpr inside), asked']

end

section
variable {b : Block} {t rd pos off len tag : Nat} {size : GSize} {got : List Byte} (waits : (b.thread t).wait = .handle [tag] rd size got)
include waits

/-- The bytes of a load that is answered OK go to its register, and the thread goes on. -/
theorem Block.handleReply_ok (env : Env) (bytes : List Byte) : b.handleReply env (.load t pos off len) tag 0 bytes =
    b.retire t ((b.thread t).load size false rd (putAt got pos (sliceZ bytes off len))) := by
  unfold Block.handleReply
  simp only [waits]
  simp

/-- A load whose line cannot be corrected waits on. -/
theorem Block.handleReply_waits (env : Env) (bytes : List Byte) : b.handleReply env (.load t pos off len) tag 3 bytes = b := by
  unfold Block.handleReply
  simp only [waits]
  simp

/-- A load that is refused is a program fault. -/
theorem Block.handleReply_refused (env : Env) {status : Nat} (bytes : List Byte) (refused : status ≠ 0) (lasting : status ≠ 3) :
    b.handleReply env (.load t pos off len) tag status bytes = b.programFault env t 0x23 := by
  unfold Block.handleReply
  simp only [waits]
  rw [if_neg (by simp [lasting]), if_pos refused]

end

section
variable (b : Block) (env : Env) (t code : Nat)

/-- What a program fault makes of a block. -/
theorem Block.programFault_shape : ∃ m ev co, b.programFault env t code = { b with
    threads := mset threadIdle b.threads t { b.thread t with state := 5 }, jobFault := b.jobFault <|> some (10, code), regs := m, ev := ev
    coalesced := co } := by
  obtain ⟨b1, e, fault, b1_eq, -⟩ := b.programFault_parts env t code
  obtain ⟨m, ev, co, noted⟩ := b1.note_eq env e
  exact ⟨m, ev, co, by rw [fault, noted, b1_eq]; rfl⟩

/-- A program fault shows in the thread's register and the count of records alone. -/
theorem Block.programFault_word_apart {a : Nat} (apart : a ∉ [BLK_GRM_STATE.off t, BLK_CNT.off 45]) :
    (b.programFault env t code).word a = b.word a := by
  simp only [List.mem_cons, List.not_mem_nil, or_false, not_or] at apart
  obtain ⟨b1, e, fault, b1_eq, outcome⟩ := b.programFault_parts env t code
  have noted : (b.programFault env t code).word a = (b1.note env e).word a := by
    rw [fault]
    rfl
  rw [noted, Block.note_kept _ _ (by omega) apart.2, b1_eq, Block.word_set_ne _ _ _ (by exact apart.1), Block.setThread_word _ _ _ apart.1]

end

/-- A read of a line that is corrected: the line is noted at its unit, and the request answered (R238, R257). -/
theorem State.corrected_answered (s : State) {u tier unit : Nat} (edge : 1280 ≤ u) (m : MeshUnit) (k : Pkt) (bytes : List Byte)
    (names : namesUnit tier unit k.addr = true) :
    let t := ((s.setUnit u m).corrected tier k.addr).memAnswer u k 0 bytes
    s.Answered u m k 0 bytes t ∧ t = { s with endpoints := t.endpoints, regs := t.regs } ∧
      t.get ⟨ceOff tier unit, 63, 0⟩ = min (Fld.top ⟨ceOff tier unit, 63, 0⟩) (s.get ⟨ceOff tier unit, 63, 0⟩ + 1) ∧
      t.get ⟨errOff tier unit, 62, 61⟩ = 1 := by
  intro t
  have noted := (s.setUnit u m).corrected_eq names
  obtain ⟨counts, kind⟩ := (s.setUnit u m).ceNoted_gets (tierKey tier k.addr) (errOff_ne_ceOff tier unit)
  rw [← noted] at counts kind
  obtain ⟨regs, made⟩ : ∃ m', (s.setUnit u m).corrected tier k.addr = { s.setUnit u m with regs := m' } :=
    noted ▸ (s.setUnit u m).ceNoted_regs _
  have blocks : ((s.setUnit u m).corrected tier k.addr).blocks = (s.setUnit u m).blocks := by rw [made]
  have endpoints : ((s.setUnit u m).corrected tier k.addr).endpoints = (s.setUnit u m).endpoints := by rw [made]
  have answered : s.Answered u m k 0 bytes t := State.memAnswer_answered 0 bytes
    ((State.unit_congr blocks endpoints u).trans (s.unit_setUnit_same u m))
    fun x hx => (State.unit_congr blocks endpoints x).trans (s.unit_setUnit_ne m hx)
  obtain ⟨es, e⟩ : ∃ es, t = _ := State.memAnswer_endpoints (v := (s.setUnit u m).corrected tier k.addr) 0 bytes edge
  have get : ∀ f, t.get f = ((s.setUnit u m).corrected tier k.addr).get f := fun f => by
    rw [e]
    rfl
  have get' : ∀ f, (s.setUnit u m).get f = s.get f := fun f => by
    rw [State.setUnit_endpoint _ edge]
    rfl
  refine ⟨answered, ?_, (get _).trans (counts.trans (by rw [get'])), (get _).trans kind⟩
  rw [e, made, State.setUnit_endpoint _ edge]

/-- The bytes of a tier of the module. -/
theorem State.byteAt_eq (s : State) (tier a : Nat) : (if tier = 1 then s.hbm.byte a else s.ddr.byte a) = (s.tiers.mem tier).byte a := by
  rw [Tiers.mem]
  split <;> rfl

/-- A tier of the module stands as written. -/
theorem State.mem_of {t : State} {tiers : Tiers} {tier : Nat} (hbm : t.hbm = tiers.hbm) (ddr : t.ddr = tiers.ddr) :
    t.tiers.mem tier = tiers.mem tier := by
  rw [Tiers.mem, Tiers.mem, ← hbm, ← ddr]
  rfl

/-- The bytes of a tier of the module stand as written. -/
theorem State.byteAt_of {t : State} {tiers : Tiers} {tier : Nat} (hbm : t.hbm = tiers.hbm) (ddr : t.ddr = tiers.ddr) (a : Nat) :
    (if tier = 1 then t.hbm.byte a else t.ddr.byte a) = (tiers.mem tier).byte a :=
  (t.byteAt_eq tier a).trans (congrArg (Memory.byte · a) (State.mem_of hbm ddr))

/-- Lines read alike where the tier's bytes are alike. -/
theorem Tiers.lines_congr {t t' : Tiers} {tier : Nat} (same : t.mem tier = t'.mem tier) (a n : Nat) : t.lines tier a n = t'.lines tier a n := by
  simp only [Tiers.lines, Tiers.line_eq, same]

/-- The other tier of the module stands where the written tiers say so. -/
theorem State.otherTier_of {s t : State} {tiers : Tiers} {tier : Nat} (hbm : t.hbm = tiers.hbm) (ddr : t.ddr = tiers.ddr)
    (other : tiers.otherMem tier = s.tiers.otherMem tier) : if tier = 1 then t.ddr = s.ddr else t.hbm = s.hbm := by
  unfold Tiers.otherMem at other
  split
  case isTrue first => exact ddr.trans (by rwa [if_pos first, if_pos first] at other)
  case isFalse first => exact hbm.trans (by rwa [if_neg first, if_neg first] at other)

section
variable {s : State} {p t rd pos off len : Nat} {size : GSize} {got : List Byte} {k : Pkt} {rest : List Pkt} (inside : p < 1280)
  (inbox : (s.block p).mesh.inbox = k :: rest) (reply : k.kind = kMEM_REPLY)
  (asked : ((s.block p).reqs.find? fun r => r.id == k.tag) = some ⟨k.tag, .load t pos off len⟩)
  (waits : ((s.block p).thread t).wait = .handle [k.tag] rd size got)

/-- Block `b` once it has the reply `k`, and the load is off its list of requests. -/
def Block.heard (b : Block) (k : Pkt) (rest : List Pkt) : Block :=
  { b with mesh := b.mesh.heard k rest, reqs := b.reqs.filter fun x => x.id != k.tag }

include inside inbox reply asked

/-- What the block makes of the reply is what becomes of it. -/
theorem State.memReply_is {x : Block}
    (made : Block.handleReply (if k.qid = 3 then { s.block p with mesh := (s.block p).mesh.heard k rest } else (s.block p).heard k rest)
      ((s.setUnit p ((s.block p).mesh.heard k rest)).env p) (.load t pos off len) k.tag k.qid k.payload = x) :
    s.BlockIs p x (s.memReply p) := by
  have heard : (s.setUnit p ((s.block p).mesh.heard k rest)).block p = { s.block p with mesh := (s.block p).mesh.heard k rest } := by
    rw [State.setUnit, if_pos inside, State.block_setBlock_same]
  rw [State.memReply_load inside inbox reply asked]
  refine ((State.BlockIs.refl s p).setUnit inside _).1.onBlock ?_
  rw [heard]
  exact made

include waits

/-- A load that is answered OK gets its bytes, and its thread goes on (R238). -/
theorem State.memReply_ok (ok : k.qid = 0) :
    let th := (s.block p).thread t
    s.BlockBecomes p [BLK_GRM_STATE.off t, BLK_CNT.off (27 + t)] { (s.block p).heard k rest with
      threads := mset threadIdle (s.block p).threads t { th.load size false rd (putAt got pos (sliceZ k.payload off len)) with
        pc := (th.pc + 1) % 4096, state := 1, wait := .none } } (s.memReply p) := by
  intro th
  have is := State.memReply_is inside inbox reply asked
    (x := ((s.block p).heard k rest).retire t (th.load size false rd (putAt got pos (sliceZ k.payload off len)))) (by
      rw [ok]
      exact Block.handleReply_ok (b := (s.block p).heard k rest) waits _ _)
  obtain ⟨only, ⟨r, ev, co, same⟩, words⟩ := is.becomes (regs := [BLK_GRM_STATE.off t, BLK_CNT.off (27 + t)]) fun a apart => by
    simp only [List.mem_cons, List.not_mem_nil, or_false, not_or] at apart
    exact Block.retire_word_apart _ _ _ apart.1 apart.2
  refine ⟨only, ⟨r, ev, co, same.trans ?_⟩, words⟩
  rw [← th.load_pc size false rd (putAt got pos (sliceZ k.payload off len))]
  rfl

/-- A load whose line cannot be corrected waits on (R260). -/
theorem State.memReply_waits (waiting : k.qid = 3) :
    s.BlockBecomes p [] { s.block p with mesh := (s.block p).mesh.heard k rest } (s.memReply p) := by
  refine (State.memReply_is inside inbox reply asked ?_).becomes fun _ _ => rfl
  rw [waiting]
  exact Block.handleReply_waits (b := { s.block p with mesh := (s.block p).mesh.heard k rest }) waits _ _

/-- A load that is refused is a program fault (R238). -/
theorem State.memReply_refused (thread : t < 8) (refused : k.qid ≠ 0) (lasting : k.qid ≠ 3) :
    ((s.memReply p).block p).get (BLK_GRM_STATE.fault t) = 0x23 ∧
      s.BlockBecomes p [BLK_GRM_STATE.off t, BLK_CNT.off 45] { (s.block p).heard k rest with
        threads := mset threadIdle (s.block p).threads t { (s.block p).thread t with state := 5 }
        jobFault := (s.block p).jobFault <|> some (10, 0x23) } (s.memReply p) := by
  have is := State.memReply_is inside inbox reply asked (x := ((s.block p).heard k rest).programFault _ t 0x23) (by
    rw [if_neg lasting]
    exact Block.handleReply_refused (b := (s.block p).heard k rest) waits _ _ refused lasting)
  obtain ⟨only, ⟨r, ev, co, same⟩, words⟩ := is.becomes fun a => Block.programFault_word_apart _ _ _ _
  obtain ⟨r', ev', co', made⟩ := ((s.block p).heard k rest).programFault_shape ((s.setUnit p ((s.block p).mesh.heard k rest)).env p) t 0x23
  refine ⟨(is.get _).trans (Block.programFault_code _ _ _ thread (by decide)), only, ⟨r, ev, co, same.trans ?_⟩, words⟩
  rw [made]
  rfl

end

/-- Settles O35: what an endpoint does by the status of the request, what a write leaves by the places of its lines, and what a block
makes of a reply by its status. -/
theorem memoryRequests : Obligations.MemoryRequests := by
  refine ⟨fun u tier unit k rest s served inbox => ?endpoint, fun p u t rd pos off len size got k rest s here inbox reply => ?block⟩
  case endpoint =>
    intro m answered answers n misplaced absent guarded
    have edge := (endpointTier_some served).1
    have alone : ∀ (c : Instr) (st : Nat) (bytes : List Byte), exec c s = .next ((s.setUnit u m).memAnswer u k st bytes) →
        answers c st bytes := fun c st bytes run => by
      obtain ⟨t, made, only, ans⟩ := State.memAnswer_alone (s := s) (u := u) (m := m) (k := k) st bytes edge
      exact ⟨t, made ▸ run, only, ans⟩
    refine ⟨fun read => ?read, fun write => ?write⟩
    case read =>
      have does := fun (hw : DramHw) (st : Nat) => State.memRead_eq served inbox read hw (status := st)
      refine ⟨fun bad hw => ?_, fun placed gone hw => ?_, fun placed held => ⟨?_, ?_, ?_⟩⟩
      · exact alone _ _ _ (exec_eq rfl (does hw 2 (s.tiers.unitStatus_misplaced false bad)))
      · exact alone _ _ _ (exec_eq rfl (does hw 1 (s.tiers.unitStatus_absent false placed gone)))
      · exact alone _ _ _ (exec_eq rfl (does .uncorrectable 0 (s.tiers.unitStatus_read placed held)))
      · exact alone _ _ _ (exec_eq rfl (does .none 0 (s.tiers.unitStatus_read placed held)))
      · have names : namesUnit tier unit k.addr = true := by
          simpa using fun other => held (.inr (.inr other))
        obtain ⟨ans, only, counts, kind⟩ := s.corrected_answered edge m k (s.tiers.lines tier k.addr n) names
        refine ⟨_, exec_eq rfl (does .corrected 0 (s.tiers.unitStatus_read placed held)), ans, only, fun hbm => ?_, fun ddr => ?_⟩
        · rw [ceOff, if_pos hbm] at counts
          rw [errOff, if_pos hbm] at kind
          exact ⟨counts, kind⟩
        · rw [ceOff, if_neg (by omega)] at counts
          rw [errOff, if_neg (by omega)] at kind
          exact ⟨counts, kind⟩
    case write =>
      have does := fun (hw : DramHw) (st : Nat) => State.memWrite_eq served inbox write hw (status := st)
      refine ⟨fun bad hw => ?_, fun placed gone hw => ?_, fun placed held signed hw => ?_,
        fun placed held free => ⟨fun masked => ?_, ?_⟩⟩
      · exact alone _ _ _ (exec_eq rfl (does hw 2 (s.tiers.unitStatus_misplaced true bad) (.inl (by decide))))
      · exact alone _ _ _ (exec_eq rfl (does hw 1 (s.tiers.unitStatus_absent true placed gone) (.inl (by decide))))
      · exact alone _ _ _ (exec_eq rfl (does hw 4 (s.tiers.unitStatus_guarded placed held signed) (.inl (by decide))))
      · have ran := does .uncorrectable 0 (s.tiers.unitStatus_write placed held free) (.inr (by decide))
        exact alone _ _ _ (exec_eq rfl (ran.trans (if_neg (ne_true_of_eq_false masked))))
      · have ran := does .none 0 (s.tiers.unitStatus_write placed held free) (.inr (by decide))
        cases data : k.isData with
        | true =>
          obtain ⟨apart, back⟩ := s.tiers.putLines_spec (tier := tier) k.payload placed
          obtain ⟨ans, blocks, regs, hbm, ddr⟩ := s.written edge m k (s.tiers.putLines tier k.addr (sliceZ k.payload 0 (64 * n)))
          refine ⟨_, exec_eq rfl (ran.trans (if_pos data)), ans, blocks, regs,
            State.otherTier_of hbm ddr (s.tiers.putLines_other tier k.addr _), fun a out => ?_, fun _ => ?_, nofun⟩
          · exact (State.byteAt_of hbm ddr a).trans ((apart a out).trans (s.byteAt_eq tier a).symm)
          · exact (Tiers.lines_congr (State.mem_of hbm ddr) k.addr n).trans back
        | false =>
          have one : n = 1 := (if_neg (by rw [write]; decide)).trans (if_neg (ne_true_of_eq_false data))
          obtain ⟨apart, under⟩ := s.tiers.putMasked_spec (tier := tier) (a := k.addr) k.payload (leAt k.payload 64 8)
          obtain ⟨ans, blocks, regs, hbm, ddr⟩ := s.written edge m k
            (s.tiers.putMasked tier k.addr (sliceZ k.payload 0 64) (leAt k.payload 64 8))
          refine ⟨_, exec_eq rfl (ran.trans (if_neg (ne_true_of_eq_false data))), ans, blocks, regs,
            State.otherTier_of hbm ddr (s.tiers.putMasked_other tier k.addr _ _), fun a out => ?_, nofun, fun _ j inside => ?_⟩
          · exact (State.byteAt_of hbm ddr a).trans ((apart a (out 0 (by omega))).trans (s.byteAt_eq tier a).symm)
          · have old := s.byteAt_eq tier (tierKey tier k.addr + j)
            have new := (State.byteAt_of hbm ddr (tierKey tier k.addr + j)).trans (under j inside)
            rw [← old] at new
            exact new
  case block =>
    intro b th m asked waits gone
    have runs : exec (.memReply u) s = .next (s.memReply p) := exec_eq rfl (congrArg s.memReply here)
    refine ⟨fun ok => ⟨_, runs, ?_⟩, fun waiting => ⟨_, runs, ?_⟩, fun refused lasting => ⟨_, runs, ?_⟩⟩
    · exact State.memReply_ok p.isLt inbox reply asked waits ok
    · exact State.memReply_waits p.isLt inbox reply asked waits waiting
    · exact State.memReply_refused p.isLt inbox reply asked waits t.isLt refused lasting

end Sys2Proof.Machine
end

section
/-! O28: message queues that close and reopen, and the second phase of a window's close. -/

namespace Sys2Proof.Machine

/-! Threads that wait for a message of a closed queue (R220). -/

/-- From `b` to `c` threads that waited for a message have gone on, and no more: queues, scratchpad and the registers that show no thread
and are no block counter stand as they were. -/
structure Block.OnlyWoken (b c : Block) : Prop where
  queue : c.queue = b.queue
  spad : c.spad = b.spad
  words : ∀ a, a < 0x2800 ∨ 0x2840 ≤ a ∧ a < 0x3D00 → c.word a = b.word a
  threads : ∀ t, (∀ q tag m d r, (b.thread t).wait ≠ .recv q tag m d r) → c.thread t = b.thread t

/-- Threads that go on one after another. -/
theorem Block.OnlyWoken.trans {b c d : Block} (first : b.OnlyWoken c) (second : c.OnlyWoken d) : b.OnlyWoken d where
  queue := second.queue.trans first.queue
  spad := second.spad.trans first.spad
  words a apart := (second.words a apart).trans (first.words a apart)
  threads t still := by
    have same := first.threads t still
    exact (second.threads t (by rwa [same])).trans same

/-- A thread that returns from its RECV with no message. -/
theorem Block.recvDone_onlyWoken {b : Block} {t : Nat} (thread : t < 8) {q tag d r : Nat} {m : Bool}
    (waits : (b.thread t).wait = .recv q tag m d r) (a status : Nat) : b.OnlyWoken (b.recvDone t a status) where
  queue := by rw [Block.recvDone, Block.retire, Block.cnt_queue, Block.setThread_queue]
  spad := by rw [Block.recvDone, Block.retire, Block.cnt_spad, Block.setThread_spad]
  words x apart := Block.retire_word_apart _ _ _ (by simp only [BLK_GRM_STATE.off]; omega) (by simp only [BLK_CNT.off]; omega)
  threads u still := by
    have other : u ≠ t := fun same => still q tag m d r (same ▸ waits)
    rw [Block.recvDone, Block.retire, Block.thread, Block.cnt_threads]
    exact b.thread_setThread_ne _ other

/-- The close of a queue lets the threads go on that wait for its messages. -/
theorem Block.wakeClosed_onlyWoken (b : Block) (q : Nat) : b.OnlyWoken (b.wakeClosed q) := by
  unfold Block.wakeClosed
  refine List.foldlRecOn (motive := fun c => b.OnlyWoken c) _ _ ⟨rfl, rfl, fun _ _ => rfl, fun _ _ => rfl⟩ fun c woken t thread => ?_
  split
  next waits =>
    split
    · exact woken.trans (Block.recvDone_onlyWoken (List.mem_range.1 thread) waits _ _)
    · exact woken
  next => exact woken

/-! The operations of BLK_GRM_QCTL (R220). -/

section
variable {b : Block} {q : Nat}

/-- No message queue: the result is 7. -/
theorem Block.closeQueue_none (other : 240 ≤ q ∨ b.qKind q ≠ 2) : b.closeQueue q = b.set BLK_GRM_QCTL.result 7 := if_pos other

/-- No message queue: the result is 7. -/
theorem Block.reopenQueue_none (other : 240 ≤ q ∨ b.qKind q ≠ 2) : b.reopenQueue q = b.set BLK_GRM_QCTL.result 7 := if_pos other

section
variable (message : ¬ (240 ≤ q ∨ b.qKind q ≠ 2))
include message

/-- The close of a closed queue. -/
theorem Block.closeQueue_again (closed : b.get (BLK_Q_CFG.closed q) = 1) : b.closeQueue q = b.set BLK_GRM_QCTL.result 0 :=
  (if_neg message).trans (if_pos closed)

/-- The reopening of an open queue. -/
theorem Block.reopenQueue_again (opened : b.get (BLK_Q_CFG.closed q) = 0) : b.reopenQueue q = b.set BLK_GRM_QCTL.result 0 :=
  (if_neg message).trans (if_pos opened)

/-- The reopening of a closed queue. -/
theorem Block.reopenQueue_closed (closed : b.get (BLK_Q_CFG.closed q) = 1) :
    b.reopenQueue q = ((b.set (BLK_Q_CFG.closed q) 0).bump (BLK_Q_CFG.incarn q)).set BLK_GRM_QCTL.result 0 :=
  (if_neg message).trans (if_neg (by rw [closed]; decide))

/-- Block `b` with message queue `q` closed and its entries freed and counted. -/
def Block.queueEmptied (b : Block) (q : Nat) : Block :=
  { (b.set (BLK_Q_CFG.closed q) 1).count BLK_GRM_MQCLOSED.count (b.queue.filter fun x => x.q == q).length with
    queue := b.queue.filter fun x => x.q != q }

/-- The close of an open queue. -/
theorem Block.closeQueue_open (opened : b.get (BLK_Q_CFG.closed q) = 0) :
    b.closeQueue q = ((b.queueEmptied q).wakeClosed q).set BLK_GRM_QCTL.result 0 :=
  (if_neg message).trans (if_neg (by rw [opened]; decide))

end

section
variable (small : q < 240)
include small

/-- A queue's configuration word is no register of the grooms. -/
theorem qCfg_below : BLK_Q_CFG.off q < 0x2800 := by
  simp only [BLK_Q_CFG.off]
  omega

/-- The closed bit of a queue that has been closed, and the counter of its entries. -/
theorem Block.queueEmptied_get :
    (b.queueEmptied q).get (BLK_Q_CFG.closed q) = 1 ∧
      (b.queueEmptied q).get BLK_GRM_MQCLOSED.count =
        min BLK_GRM_MQCLOSED.count.top (b.get BLK_GRM_MQCLOSED.count + (b.queue.filter fun x => x.q == q).length) := by
  have apart : BLK_Q_CFG.off q ≠ BLK_GRM_MQCLOSED.off := ne_of_lt ((qCfg_below small).trans (by decide))
  have before : (b.set (BLK_Q_CFG.closed q) 1).get BLK_GRM_MQCLOSED.count = b.get BLK_GRM_MQCLOSED.count :=
    Block.get_of_word (Block.word_set_ne _ _ _ (Ne.symm apart))
  constructor
  · refine (Block.get_of_word (Block.word_set_ne _ BLK_GRM_MQCLOSED.count _ apart)).trans ?_
    exact Block.get_set_same b ⟨le_rfl, by show 19 < 64; omega⟩ 1
  · refine (Block.get_count_same (b.set (BLK_Q_CFG.closed q) 1) (by decide) _).trans ?_
    rw [before]

end
end

/-- What the module becomes where a step of one block sets the result of BLK_GRM_QCTL alone. -/
theorem State.onBlock_result {s : State} {p : Nat} {f : Block → Env → Block} {v : Nat} (small : v < 256)
    (made : f (s.block p) (s.env p) = (s.block p).set BLK_GRM_QCTL.result v) :
    ((s.onBlock p f).block p).get BLK_GRM_QCTL.result = v ∧ s.BlockBecomes p [BLK_GRM_QCTL.off] (s.block p) (s.onBlock p f) := by
  refine ⟨?_, s.onBlock_becomes p ⟨_, _, _, made⟩ fun a apart => ?_⟩
  · rw [State.onBlock_block_get, made, Block.get_set_same _ (by decide)]
    exact Nat.mod_eq_of_lt small
  · rw [made, Block.word_set_ne _ _ _ (by exact List.ne_of_not_mem_cons apart)]

/-- What the reopening of a closed queue leaves in the registers (R219). -/
theorem Block.reopened_spec (b : Block) {q : Nat} (small : q < 240) :
    let x := ((b.set (BLK_Q_CFG.closed q) 0).bump (BLK_Q_CFG.incarn q)).set BLK_GRM_QCTL.result 0
    x.get BLK_GRM_QCTL.result = 0 ∧ x.get (BLK_Q_CFG.closed q) = 0 ∧
      x.get (BLK_Q_CFG.incarn q) = (b.get (BLK_Q_CFG.incarn q) + 1) % 256 ∧
      ∀ a, a ∉ [BLK_GRM_QCTL.off, BLK_Q_CFG.off q] → x.word a = b.word a := by
  intro x
  have apart : BLK_Q_CFG.off q ≠ BLK_GRM_QCTL.off := ne_of_lt ((qCfg_below small).trans (by decide))
  have shown : ∀ f : Fld, f.off = BLK_Q_CFG.off q → x.get f = ((b.set (BLK_Q_CFG.closed q) 0).bump (BLK_Q_CFG.incarn q)).get f :=
    fun f own => Block.get_of_word (Block.word_set_ne _ _ _ (by rw [own]; exact apart))
  refine ⟨?result, ?closed, ?incarn, fun a out => ?words⟩
  case result => exact Block.get_set_same _ (by decide) 0
  case closed =>
    rw [shown _ rfl, Block.bump, Block.get_set_apart _ (by show 20 ≤ 27; omega) le_rfl (.inr (.inr (by show 19 < 20; omega)))]
    exact Block.get_set_same b ⟨le_rfl, by show 19 < 64; omega⟩ 0
  case incarn =>
    rw [shown _ rfl, Block.bump, Block.get_set_same _ ⟨by show 20 ≤ 27; omega, by show 27 < 64; omega⟩,
      Block.get_set_apart _ le_rfl (by show 20 ≤ 27; omega) (.inr (.inl (by show 19 < 20; omega)))]
    rfl
  case words =>
    simp only [List.mem_cons, List.not_mem_nil, or_false, not_or] at out
    obtain ⟨control, own⟩ := out
    simp only [x, Block.bump]
    rw [Block.word_set_ne _ _ _ (by exact control), Block.word_set_ne _ _ _ (by exact own), Block.word_set_ne _ _ _ (by exact own)]

/-- What the module becomes by the close of an open queue (R220). -/
theorem State.onBlock_closes {s : State} {p q : Nat} {f : Block → Env → Block} (small : q < 240)
    (made : f (s.block p) (s.env p) = (((s.block p).queueEmptied q).wakeClosed q).set BLK_GRM_QCTL.result 0) :
    let b := s.block p
    let u := s.onBlock p f
    (u.block p).get BLK_GRM_QCTL.result = 0 ∧ (u.block p).get (BLK_Q_CFG.closed q) = 1 ∧ (∀ x ∈ (u.block p).queue, x.q ≠ q) ∧
      (u.block p).get BLK_GRM_MQCLOSED.count =
        min BLK_GRM_MQCLOSED.count.top (b.get BLK_GRM_MQCLOSED.count + (b.queue.filter fun x => x.q == q).length) ∧
      (∀ t, (∀ q' tg m d a, (b.thread t).wait ≠ .recv q' tg m d a) → (u.block p).thread t = b.thread t) ∧
      (u.block p).spad = b.spad ∧ s.OnlyBlock p u := by
  intro b u
  obtain ⟨queue, spad, words, threads⟩ := (b.queueEmptied q).wakeClosed_onlyWoken q
  obtain ⟨closed, counted⟩ := b.queueEmptied_get small
  have field : ∀ g : Fld, g.off ≠ BLK_GRM_QCTL.off → g.off < 0x2800 ∨ 0x2840 ≤ g.off ∧ g.off < 0x3D00 →
      (u.block p).get g = (b.queueEmptied q).get g := fun g other apart => by
    rw [State.onBlock_block_get, made]
    exact Block.get_of_word ((Block.word_set_ne _ _ _ other).trans (words _ apart))
  refine ⟨?result, ?closed, fun x left => ?freed, ?count, fun t still => ?threads, ?spad, s.onBlock_only p f⟩
  case result =>
    rw [State.onBlock_block_get, made]
    exact Block.get_set_same _ (by decide) 0
  case closed =>
    exact (field _ (ne_of_lt ((qCfg_below small).trans (by decide))) (.inl (qCfg_below small))).trans closed
  case freed =>
    have kept : (u.block p).queue = b.queue.filter fun x => x.q != q := by
      rw [State.onBlock_block_queue, made, Block.set_queue, queue]
      rfl
    rw [kept] at left
    simpa using (List.mem_filter.1 left).2
  case count => exact (field _ (by decide) (by decide)).trans counted
  case threads =>
    have emptied : (b.queueEmptied q).thread t = b.thread t := rfl
    rw [State.onBlock_block_thread, made, Block.thread, Block.set_threads]
    exact (threads t (by rwa [emptied])).trans emptied
  case spad =>
    rw [State.onBlock_block_spad, made, Block.set_spad, spad]
    rfl

/-! The second phase of a window's close (R230). -/

/-- A record that is not of a corrected error counts. -/
theorem Block.note_counts (b : Block) (env : Env) {e : Ev} (lasting : e.outcome ≠ 0) :
    (b.note env e).get (BLK_CNT.count 45) = min (BLK_CNT.count 45).top (b.get (BLK_CNT.count 45) + 1) := by
  rw [Block.note]
  extract_lets
  split
  · next corrected => simp [Ev.corrected, lasting] at corrected
  · exact Block.get_count_same _ (by decide) 1

/-- The close waits where an accepted write is on its way. -/
theorem Block.doCloseComplete_pending {b : Block} {h : Nat} (pending : b.windowPending h = true) : b.doCloseComplete h = b :=
  if_neg fun both => both.2 pending

section
variable {b : Block} {h : Nat} (closing : b.get (HDL_CTL.closing h) = 1)
include closing

/-- The close is complete where no accepted write is on its way. -/
theorem Block.doCloseComplete_done (done : b.windowPending h = false) :
    b.doCloseComplete h = (b.set (HDL_CTL.window h) 0).set (HDL_CTL.closing h) 0 :=
  if_pos ⟨closing, Bool.eq_false_iff.1 done⟩

/-- The event of a close that has waited for 1 ms. -/
theorem Block.doCloseTimeout_late {env : Env} (pending : b.windowPending h = true) (late : mget natZero b.closeAt h + 1000000 ≤ env.now) :
    b.doCloseTimeout env h = b.note env { cell := 0, code := 0xB4, detail := h } :=
  if_pos ⟨closing, pending, late⟩

end

/-- Settles O28: each operation of BLK_GRM_QCTL by the state of its queue, the second phase of a close by whether a write is on its way. -/
theorem queuesAndWindowsClose : Obligations.QueuesAndWindowsClose := by
  intro p s b
  refine ⟨fun q => ⟨fun other => ?other, fun small kind => ⟨fun closed => ?closed, fun opened => ?opened⟩⟩,
    fun h closing => ⟨fun done => ?done, fun pending => ⟨?waits, fun late => ?late⟩⟩⟩
  case other =>
    exact ⟨⟨_, rfl, State.onBlock_result (by decide) (Block.closeQueue_none other)⟩,
      ⟨_, rfl, State.onBlock_result (by decide) (Block.reopenQueue_none other)⟩⟩
  case closed =>
    have message : ¬ (240 ≤ q.val ∨ b.qKind q ≠ 2) := by simp [kind, small]
    obtain ⟨result, reopened, incarn, words⟩ := b.reopened_spec small
    have made := Block.reopenQueue_closed message closed
    refine ⟨⟨_, rfl, State.onBlock_result (by decide) (Block.closeQueue_again message closed)⟩, _, rfl, ?_, ?_, ?_,
      State.onBlock_becomes s p ⟨_, _, _, made⟩ fun a apart => by rw [made, words a apart]⟩
    · rw [State.onBlock_block_get, made, result]
    · rw [State.onBlock_block_get, made, reopened]
    · rw [State.onBlock_block_get, made, incarn]
  case opened =>
    have message : ¬ (240 ≤ q.val ∨ b.qKind q ≠ 2) := by simp [kind, small]
    obtain ⟨result, closed, freed, count, threads, spad, only⟩ := State.onBlock_closes (f := fun b _ => b.closeQueue q) small
      (Block.closeQueue_open message opened)
    exact ⟨⟨_, rfl, State.onBlock_result (by decide) (Block.reopenQueue_again message opened)⟩,
      _, rfl, result, closed, freed, count, fun t => threads t, spad, only⟩
  case done =>
    have made := Block.doCloseComplete_done closing done
    refine ⟨_, rfl, ?_, State.onBlock_becomes s p ⟨_, _, _, made⟩ fun a apart => ?_⟩
    · rw [State.onBlock_block_word, made]
      exact (Block.word_set_same _ (HDL_CTL.closing h) 0).trans (congrArg (putBits · 58 58 0) (b.word_set_same (HDL_CTL.window h) 0))
    · have own := List.ne_of_not_mem_cons apart
      rw [made, Block.word_set_ne _ _ _ (by exact own), Block.word_set_ne _ _ _ (by exact own)]
  case waits => exact ⟨_, rfl, State.onBlock_becomes_quiet (Block.doCloseComplete_pending pending) rfl⟩
  case late =>
    have made := Block.doCloseTimeout_late (env := s.env p) closing pending late
    have words : ∀ a, a ≠ BLK_CNT.off 45 → (b.doCloseTimeout (s.env p) h).word a = b.word a := fun a other => by
      rw [made]
      exact b.note_kept _ (Nat.succ_ne_zero 3) other
    refine ⟨_, rfl, ?_, ?_, State.onBlock_becomes s p ?_ fun a apart => words a (List.ne_of_not_mem_cons apart)⟩
    · rw [State.onBlock_block_get, made]
      exact b.note_counts _ (Nat.succ_ne_zero 3)
    · rw [State.onBlock_block_get]
      exact (Block.get_of_word (words _ (ne_of_lt (by simp only [HDL_CTL.off, BLK_CNT.off, HDL_CTL.closing]; omega)))).trans closing
    · rw [made]
      exact b.note_eq _ _

end Sys2Proof.Machine
end

section
/-! O27: a window write whose source, channel and number are those of another that is on its way to its tier. -/

namespace Sys2Proof.Machine

/-- Whether an accepted window write is answered hangs on the requests that carry its source, channel and number, whichever write made them
(R229): where one is out, a write into the scratchpad too is left unanswered. -/
theorem Block.windowArrive_unanswered {b : Block} {env : Env} {k : Pkt} {rest : List Pkt} (inbox : b.mesh.inbox = k :: rest)
    (runs : b.halted = false) (kind : k.kind = kWINDOW_WRITE) (accepted : b.windowCheck k = 0)
    (out : (({ b with mesh := { b.mesh with inbox := rest } } : Block).applyWindow env k).windowOut k.src k.vc k.seq = true) :
    b.windowArrive env = ({ b with mesh := { b.mesh with inbox := rest } } : Block).applyWindow env k := by
  have first : takeFirst (fun k : Pkt => k.kind == kWINDOW_WRITE) b.mesh.inbox = some (k, rest) := by
    rw [inbox]
    exact takeFirst_first (by simpa using kind) rest
  have passes : ({ b with mesh := { b.mesh with inbox := rest } } : Block).windowCheck k = 0 := accepted
  unfold Block.windowArrive
  rw [if_neg (Bool.eq_false_iff.1 runs), first]
  exact (if_pos passes).trans (if_pos out)

/-- A write of one line to window 0, the first packet of its source's stream. -/
def firstWindowWrite : Pkt := { kind := kWINDOW_WRITE }

/-- A block with window 0 of 64 bytes in its scratchpad (valid, open, written by others), to which that write has been delivered. A request of
a write to window 1 with the same source, channel and number still waits for its tier. -/
def State.numberTwice : State :=
  { State.reset with
    blocks := [(0, {
      regs := [(HDL_CTL.off 0, 0x8900000000000000), (HDL_LEN.off 0, 64)]
      reqs := [⟨0, .window 1 0 0 0⟩]
      mesh := { inbox := [firstWindowWrite], acks := [{ peer := 0, peerIdx := 0, vc := 0, seq := 0, ready := false }] } })] }

/-- The write passes every check (R228). -/
theorem State.numberTwice_accepted : (State.numberTwice.block 0).windowCheck firstWindowWrite = 0 := by decide

/-- The other write's request is still out once the line is in place, and the acknowledgement of the write that came is not ready. -/
theorem State.numberTwice_out :
    let b := State.numberTwice.block 0
    let x := ({ b with mesh := { b.mesh with inbox := [] } } : Block).applyWindow (State.numberTwice.env 0) firstWindowWrite
    x.windowOut 0 0 0 = true ∧ x.mesh.acks.map AckOwed.ready = [false] := by decide +kernel

/-- So the write is left unanswered. -/
theorem State.numberTwice_unanswered :
    ((State.numberTwice.onBlock 0 fun b env => b.windowArrive env).block 0).mesh.acks.map AckOwed.ready = [false] := by
  obtain ⟨out, unready⟩ := State.numberTwice_out
  rw [State.onBlock_block_mesh, Block.windowArrive_unanswered rfl rfl rfl State.numberTwice_accepted out]
  exact unready

/-- An answer would make its acknowledgement ready. -/
theorem State.numberTwice_answer :
    (({ (State.numberTwice.block 0).mesh with inbox := [] } : MeshUnit).answered firstWindowWrite 0 0).acks.map AckOwed.ready = [true] := by decide

/-- Refutes O27: a block may hold a request of another write with the source, channel and number of the one that arrives. An accepted write
into the scratchpad is then left unanswered, where the statement says that it is answered OK. A premise that no such request is out would
mend the clause. -/
theorem not_messagesAndWindowWritesArrive : ¬ Obligations.MessagesAndWindowWritesArrive := by
  unfold Obligations.MessagesAndWindowWritesArrive
  intro holds
  obtain ⟨-, windows⟩ := holds 0 firstWindowWrite [] State.numberTwice rfl rfl rfl
  obtain ⟨-, -, -, scratch, -⟩ := windows rfl (by decide)
  obtain ⟨u, run, -, ⟨m, ev, co, becomes⟩, -⟩ := scratch (by decide) (by decide) (by decide) (by decide)
  have reached : (State.numberTwice.onBlock 0 fun b env => b.windowArrive env) = u := Host.Outcome.next.inj run
  have answered : (u.block 0).mesh.acks.map AckOwed.ready = [true] :=
    (congrArg (fun b : Block => b.mesh.acks.map AckOwed.ready) becomes).trans State.numberTwice_answer
  rw [← reached, State.numberTwice_unanswered] at answered
  exact absurd answered (by decide)

end Sys2Proof.Machine
end

section
/-! O19: BALKCHK retry and discard. -/

namespace Sys2Proof.Machine

/-- A value that is listed again replaces the first. -/
theorem mins_mins {α : Type} (k : Nat) (v w : α) (m : Cells α) : mins k w (mins k v m) = mins k w m := by
  induction m with
  | nil => simp [mins]
  | cons e m rest =>
    obtain ⟨a, x⟩ := e
    by_cases below : k < a
    · simp [mins, below]
    · by_cases here : k = a
      · simp [mins, here]
      · simp [mins, below, here, rest]

/-- A value, none of the default, that is written again replaces the first. -/
theorem mset_mset {α : Type} [DecidableEq α] {d : Nat → α} {k : Nat} {v w : α} (first : v ≠ d k) (second : w ≠ d k) (m : Cells α) :
    mset d (mset d m k v) k w = mset d m k w := by
  simp only [mset, if_neg first, if_neg second, mins_mins]

/-- The other slots where one is replaced. -/
theorem Thread.slot_setSlot_ne (th : Thread) {i j : Nat} (o : OutSlot) (other : j ≠ i) : (th.setSlot i o).slot j = th.slot j :=
  mget_mset_ne slotFree th.outbox o other

/-- Thread `th` once its slot `i` has become `o` and offers its message (R222). -/
def Thread.offering (th : Thread) (i : Nat) (o : OutSlot) : Thread :=
  { (th.setSlot i o).setSlot i { o with st := 1, refused := 0 } with state := 2, wait := .send i }

/-- The slot of an offer. -/
theorem Thread.slot_offering (th : Thread) (i : Nat) (o : OutSlot) : (th.offering i o).slot i = { o with st := 1, refused := 0 } :=
  Thread.slot_waiting _ i _

/-- The slots besides that of an offer. -/
theorem Thread.slot_offering_ne (th : Thread) {i j : Nat} (o : OutSlot) (other : j ≠ i) : (th.offering i o).slot j = th.slot j :=
  ((th.setSlot i o).slot_setSlot_ne { o with st := 1, refused := 0 } other).trans (th.slot_setSlot_ne o other)

/-- An issued instruction that retires its thread after it has left it as `x`, not idle. -/
theorem Block.issued_setThread_retire (b : Block) (t : Nat) {x : Thread} (live : x.state = 1) (th : Thread) :
    ∃ m, ((b.issued t).setThread t x).retire t th = { b.retiredAs t th with regs := m } := by
  have busy : ∀ y : Thread, y.state = 1 → y ≠ threadIdle t := fun y is idle =>
    Nat.one_ne_zero (is.symm.trans (congrArg Thread.state idle))
  obtain ⟨m, issued⟩ := b.issued_eq t
  refine ⟨(((b.issued t).setThread t x).retire t th).regs, ?_⟩
  rw [Block.retiredAs, ← mset_mset (busy x live) (busy _ rfl), issued]
  rfl

/-- The slot of a retry: a new offer cycle that starts now, with the patience as it stands (R224). -/
def Block.retriedSlot (b : Block) (env : Env) (t i a : Nat) : OutSlot :=
  { (b.thread t).slot i with offers := 0, start := env.now, rd := a, mutualBalk := false, patience := b.patienceNs t false }

section
variable {b : Block} {t a rb : Nat}

section
variable (free : ((b.thread t).slot (bitsOf ((b.thread t).rd rb) 1 0)).st ≠ 3)
include free

/-- A retry of a slot that holds no balked message (R224). -/
theorem Block.doBalkRetry_empty (env : Env) : b.doBalkRetry env t a rb = b.retire t ((b.thread t).wr a 8) := if_pos free

/-- A discard of a slot that holds no balked message (R224). -/
theorem Block.doBalkDiscard_empty : b.doBalkDiscard t a rb = b.retire t ((b.thread t).wr a 8) := if_pos free

end

section
variable (balked : ((b.thread t).slot (bitsOf ((b.thread t).rd rb) 1 0)).st = 3)
include balked

/-- A retry of a balked message offers it again. -/
theorem Block.doBalkRetry_offers (env : Env) (none : b.gather = []) :
    let i := bitsOf ((b.thread t).rd rb) 1 0
    let o := b.retriedSlot env t i a
    b.doBalkRetry env t a rb =
      ((b.setThread t ((b.thread t).setSlot i o)).setThread t ((b.thread t).offering i o)).send
        { pkt := o.packet (b.sourceLines (SendSrc.ofWord o.srcw)), idx := (SendDest.ofWord o.dst).dest, owner := .outbox t i } := by
  intro i o
  have ran : b.doBalkRetry env t a rb = (b.setThread t ((b.thread t).setSlot i o)).offer t i := if_neg (not_not_intro balked)
  rw [ran, Block.offer_eq (by exact none), Block.thread_setThread_same, Thread.slot_setSlot]
  rfl

/-- A discard of a balked message frees its slot. -/
theorem Block.doBalkDiscard_frees :
    b.doBalkDiscard t a rb =
      (b.setThread t ((b.thread t).setSlot (bitsOf ((b.thread t).rd rb) 1 0) {})).hdlDone t a 0 :=
  if_neg (not_not_intro balked)

end
end

/-- Settles O19: each operation by what its slot holds. -/
theorem balkchkRetryDiscard : Obligations.BalkchkRetryDiscard := by
  intro p t a rb s can empty b th i
  let y := b.issued t
  have same : y.thread t = th := b.issued_thread t t
  have slot : (y.thread t).slot (bitsOf ((y.thread t).rd rb) 1 0) = th.slot i := by rw [same]
  let retry := fun (env : Env) (x : Block) => x.doBalkRetry env t a rb
  let discard := fun (_ : Env) (x : Block) => x.doBalkDiscard t a rb
  refine ⟨fun free c op => ?empty, fun balked => ⟨?retries, ?discards⟩⟩
  case empty =>
    simp only [List.mem_cons, List.not_mem_nil, or_false] at op
    rcases op with rfl | rfl
    · refine ⟨_, rfl, State.issue_becomes (run := retry) can ?_⟩
      rw [← same]
      exact Block.doBalkRetry_empty (by rwa [slot]) _
    · refine ⟨_, rfl, State.issue_becomes (run := discard) can ?_⟩
      rw [← same]
      exact Block.doBalkDiscard_empty (by rwa [slot])
  case retries =>
    have ran := Block.doBalkRetry_offers (b := y) (a := a) (rb := rb) (by rwa [slot]) (s.env p) ((b.issued_gather t).trans empty)
    simp only [same] at ran
    obtain ⟨mesh, thread, spad, queue, -, only⟩ := State.onBlock_sends (f := fun b env => b.issue env t (GroomHw.on .none false) (retry env))
      ((State.issue_ran can).trans ran) (b.issued_mesh t)
    have retried : y.retriedSlot (s.env p) t i a =
        { th.slot i with offers := 0, start := s.now, rd := a, mutualBalk := false, patience := 1000 * b.get (BLK_GRM_PATIENCE.limit t) } := by
      rw [Block.retriedSlot, same, b.issued_patienceNs t t.isLt]
      rfl
    refine ⟨_, rfl, ?wait, ?offered, fun j other => ?others, ⟨_, mesh, rfl, ?dest, ?queue, ?tag⟩, spad.trans (b.issued_spad t),
      queue.trans (b.issued_queue t), only⟩
    case dest => rw [retried]
    case queue => rw [retried]; rfl
    case tag => rw [retried]; rfl
    case wait =>
      rw [thread]
      rfl
    case offered => rw [thread, Thread.slot_offering, retried]
    case others => rw [thread, Thread.slot_offering_ne _ _ other]
  case discards =>
    have ready : th.state = 1 := (Block.canIssue_ready can).2
    have ran : discard (s.env p) y = (y.setThread t (th.setSlot i {})).retire t ((th.setSlot i {}).wr a 0) := by
      refine (Block.doBalkDiscard_frees (b := y) (by rwa [slot])).trans ?_
      rw [same, Block.hdlDone, Block.thread_setThread_same]
      rfl
    have made : (b.issue (s.env p) t (GroomHw.on .none false) (discard (s.env p))) =
        (y.setThread t (th.setSlot i {})).retire t ((th.setSlot i {}).wr a 0) := (State.issue_ran can).trans ran
    refine ⟨_, rfl, State.onBlock_becomes s p ?_ fun x apart => ?_⟩
    · obtain ⟨m, shape⟩ := b.issued_setThread_retire t (x := th.setSlot i {}) ready ((th.setSlot i {}).wr a 0)
      exact ⟨m, b.ev, b.coalesced, made.trans shape⟩
    · simp only [Block.groomRegs, List.mem_cons, not_or] at apart
      obtain ⟨state, counter, waits⟩ := apart
      rw [made, Block.retire_word_apart _ _ _ state counter, Block.setThread_word _ _ _ state, b.issued_word _ waits]

end Sys2Proof.Machine
end
